-- ==== Sys2Proof/Word.lean ====
section
/-! DEFINITION. The word types of the PLV2480 Gnoivo model. -/

namespace Sys2Proof

/-- One byte of physical memory. -/
abbrev Byte := BitVec 8

/-- A CSR: every register is 32 bits wide (R23). -/
abbrev Word := BitVec 32

/-- A core register, a FLAGS value, a short stamp or one word of a record (R35, R39). -/
abbrev DWord := BitVec 64

/-- A complex number. The spec states no number format for the values it describes with it; they are exact
(notes/assumptions/13.md). -/
structure Cx where
  re : Rat
  im : Rat
  deriving DecidableEq, Repr, Inhabited

/-- One sample of the four ADC lanes XI, XQ, YI and YQ: 12-bit two's complement codes (R96, Table RCV-1). -/
structure Adc where
  xi : BitVec 12
  xq : BitVec 12
  yi : BitVec 12
  yq : BitVec 12
  deriving DecidableEq, Repr, Inhabited

end Sys2Proof
end

