-- ==== Sys2Proof/Syntax.lean ====
section
/-! DEFINITION. The commands of the module: one constructor per row of the command table, in the table's order. A command that happens in time carries
`dt`, the picoseconds that pass before it acts; `tag` is a host command's TAG and `v` a written value; what the module measures or receives
stands in the other operands. -/

namespace Sys2Proof

/-- A fabric frame: its four header words, its payload words, the two words of its tag where AUTH is 1, and its CRC-32C (R285). -/
structure Machine.Frame where
  h0 : Nat
  h1 : Nat
  h2 : Nat
  h3 : Nat
  payload : List Nat
  tag : List Nat := []
  crc : Nat := 0
  deriving DecidableEq, Repr

/-- A PTP message by the identity of the port that sends it (80 bits): an Announce with PTP timescale flag, log of its interval and data set (priority1,
clockClass, clockAccuracy, offsetScaledLogVariance, priority2, grandmasterIdentity, stepsRemoved); a Sync or Follow_Up with its sequence number and
its origin stamp with the correction added, in ps; a Delay_Resp with the sequence number and port identity of the request it answers and the stamp
less the correction, in ps (R313). -/
inductive PtpMsg where
  | announce (src : Nat) (ptpScale : Bool) (logInt : Int) (ds : List Nat)
  | sync (src seq : Nat) (twoStep : Bool) (t1 : Int)
  | followUp (src seq : Nat) (t1 : Int)
  | delayResp (src seq req : Nat) (t4 : Int)
  deriving DecidableEq, Repr

/-- What the training of a DRAM channel finds (R322): widths of the read and the write eye in delay units, the device temperature, whether it
succeeded, and the delays in the order of MEM.DLY. -/
structure Machine.TrnResult where
  rd : Nat := 0
  wr : Nat := 0
  temp : Nat := 0
  ok : Bool := false
  delays : List Nat := []
  deriving DecidableEq, Repr

inductive Instr where
  /-- ADD (R42). -/
  | add (d a b : Fin 16)
  /-- SUB (R42). -/
  | sub (d a b : Fin 16)
  /-- AND (R42). -/
  | and (d a b : Fin 16)
  /-- OR (R42). -/
  | or (d a b : Fin 16)
  /-- XOR (R42). -/
  | xor (d a b : Fin 16)
  /-- SHL (R42). -/
  | shl (d a b : Fin 16)
  /-- SHR (R42). -/
  | shr (d a b : Fin 16)
  /-- SRA (R42). -/
  | sra (d a b : Fin 16)
  /-- MUL (R42). -/
  | mul (d a b : Fin 16)
  /-- MULHU (R42). -/
  | mulhu (d a b : Fin 16)
  /-- MIN (R42). -/
  | min (d a b : Fin 16)
  /-- MAX (R42). -/
  | max (d a b : Fin 16)
  /-- MINU (R42). -/
  | minu (d a b : Fin 16)
  /-- MAXU (R42). -/
  | maxu (d a b : Fin 16)
  /-- ADDI (R42). -/
  | addi (d a : Fin 16) (imm : BitVec 18)
  /-- ANDI (R42). -/
  | andi (d a : Fin 16) (imm : BitVec 18)
  /-- ORI (R42). -/
  | ori (d a : Fin 16) (imm : BitVec 18)
  /-- XORI (R42). -/
  | xori (d a : Fin 16) (imm : BitVec 18)
  /-- SHLI (R42). -/
  | shli (d a : Fin 16) (imm : BitVec 18)
  /-- SHRI (R42). -/
  | shri (d a : Fin 16) (imm : BitVec 18)
  /-- SRAI (R42). -/
  | srai (d a : Fin 16) (imm : BitVec 18)
  /-- LUI (R42). -/
  | lui (d : Fin 16) (imm : BitVec 22)
  /-- LDL (R42). -/
  | ldl (d a : Fin 16) (imm : BitVec 18)
  /-- STL (R42). -/
  | stl (d a : Fin 16) (imm : BitVec 18)
  /-- LD (R42). -/
  | ld (d a : Fin 16) (imm : BitVec 18)
  /-- ST (R42). -/
  | st (d a : Fin 16) (imm : BitVec 18)
  /-- LDW (R42). -/
  | ldw (d a : Fin 16) (imm : BitVec 18)
  /-- STW (R42). -/
  | stw (d a : Fin 16) (imm : BitVec 18)
  /-- CSRR (R42). -/
  | csrr (d a : Fin 16) (imm : BitVec 18)
  /-- CSRW (R15). -/
  | csrw (d a : Fin 16) (imm : BitVec 18)
  /-- MFS (R42). -/
  | mfs (d a : Fin 16) (imm : BitVec 18)
  /-- MTS (R42). -/
  | mts (d a : Fin 16) (imm : BitVec 18)
  /-- BEQ (R42). -/
  | beq (a b : Fin 16) (off : BitVec 18)
  /-- BNE (R42). -/
  | bne (a b : Fin 16) (off : BitVec 18)
  /-- BLT (R42). -/
  | blt (a b : Fin 16) (off : BitVec 18)
  /-- BGE (R42). -/
  | bge (a b : Fin 16) (off : BitVec 18)
  /-- BLTU (R42). -/
  | bltu (a b : Fin 16) (off : BitVec 18)
  /-- BGEU (R42). -/
  | bgeu (a b : Fin 16) (off : BitVec 18)
  /-- J (R42). -/
  | j (off : BitVec 26)
  /-- JAL (R42). -/
  | jal (off : BitVec 26)
  /-- JR (R42). -/
  | jr (a : Fin 16)
  /-- WAIT (R43). -/
  | wait (a : Fin 16)
  /-- WAIT_RESUME (R43). -/
  | waitResume (dt : Nat)
  /-- WAITC (R42). -/
  | waitc (imm : BitVec 18)
  /-- AT (R45). -/
  | timedAt (d a b : Fin 16) (k : BitVec 6)
  /-- TIMED_ACTION (R45). -/
  | timedAction (dt : Nat) (k : Fin 16)
  /-- TADD (R44). -/
  | tadd (d a b : Fin 16)
  /-- LNCH (R46). -/
  | lnch (d a b : Fin 16)
  /-- FRM_START (R73). -/
  | frmStart (d a b : Fin 16)
  /-- FRM_STOP (R46). -/
  | frmStop (d a : Fin 16)
  /-- POST (R47). -/
  | post (d a : Fin 16) (imm : BitVec 18)
  /-- POST_R (R53). -/
  | postR (d a : Fin 16) (imm : BitVec 18)
  /-- POST_STALL_END (R29). -/
  | postStallEnd (dt : Nat) (q : Fin 128)
  /-- TAKE (R48). -/
  | take (d a : Fin 16) (imm : BitVec 18)
  /-- VJOB (R157). -/
  | vjob (d a : Fin 16) (imm : BitVec 18)
  /-- FENCE_CSR (R52). -/
  | fenceCsr
  /-- FENCE_MEM (R52). -/
  | fenceMem
  /-- FENCE_Q (R52). -/
  | fenceQ
  /-- FENCE_ALL (R52). -/
  | fenceAll
  /-- FENCE_RESUME (R52). -/
  | fenceResume (dt : Nat)
  /-- CSRTIMEOUT (R52). -/
  | csrtimeout (dt : Nat)
  /-- TRAP (R50). -/
  | trap (code : BitVec 26)
  /-- ERET (R50). -/
  | eret (d a b : Fin 16)
  /-- IDLE (R42). -/
  | idle (d a : Fin 16)
  /-- IDLE_WAKE (R42). -/
  | idleWake (dt : Nat)
  /-- CKPT (R65). -/
  | ckpt
  /-- ILLEGAL_INSTRUCTION (R41). -/
  | illegalInstruction (w : Word)
  /-- GATE_TAKE (R60). -/
  | gateTake (dt : Nat)
  /-- ARM_START_REACHED (R61). -/
  | armStartReached (dt : Nat)
  /-- ARM_END_REACHED (R61). -/
  | armEndReached (dt : Nat)
  /-- GATE_STOP_INSERT (R61). -/
  | gateStopInsert (dt : Nat)
  /-- PING (R60). -/
  | ping (dt tag : Nat)
  /-- STATUS (R60). -/
  | status (dt tag : Nat)
  /-- RESET (R448). -/
  | reset (dt tag : Nat)
  /-- RESET_DELAY_EXPIRY (R448). -/
  | resetDelayExpiry (dt : Nat)
  /-- LOGLEVEL (R413). -/
  | loglevel (dt tag level : Nat)
  /-- CNTSNAP (R416). -/
  | cntsnap (dt tag stamp : Nat)
  /-- ARM (R61). -/
  | arm (dt tag : Nat) (args : List Nat)
  /-- DISARM (R61). -/
  | disarm (dt tag : Nat)
  /-- STOP (R61). -/
  | stop (dt tag : Nat)
  /-- SELPROF (R439). -/
  | selprof (dt tag n : Nat)
  /-- SAVEPROF (R440). -/
  | saveprof (dt tag n mask : Nat)
  /-- SETCFG (R409). -/
  | setcfg (dt tag : Nat) (args : List Nat)
  /-- GETCFG (R409). -/
  | getcfg (dt tag : Nat)
  /-- LOADIMG (R431). -/
  | loadimg (dt tag addr len : Nat)
  /-- MOULT (R434). -/
  | moult (dt tag slot : Nat)
  /-- ABANDON (R436). -/
  | abandon (dt tag : Nat)
  /-- SETBOOT (R432). -/
  | setboot (dt tag arg : Nat)
  /-- COCOON (R325). -/
  | cocoon (dt tag : Nat)
  /-- EMERGE (R455). -/
  | emerge (dt tag : Nat)
  /-- CSRREAD (R63). -/
  | csrread (dt tag addr : Nat)
  /-- CSRWRITE (R63). -/
  | csrwrite (dt tag addr v : Nat)
  /-- HKCAL (R373). -/
  | hkcal (dt tag c step ideal : Nat)
  /-- HKSELFCAL (R374). -/
  | hkselfcal (dt tag mask : Nat)
  /-- FIBRECAL (R153). -/
  | fibrecal (dt tag : Nat) (args : List Nat)
  /-- TDCCAL (R279). -/
  | tdccal (dt tag mask : Nat)
  /-- DRAMTRAIN (R322). -/
  | dramtrain (dt tag arg : Nat)
  /-- DRAMRATE (R324). -/
  | dramrate (dt tag arg : Nat)
  /-- ROLEREQ (R408). -/
  | rolereq (dt tag arg : Nat)
  /-- ROLEREL (R408). -/
  | rolerel (dt tag arg : Nat)
  /-- LCSET (R428). -/
  | lcset (dt tag : Nat) (args : List Nat)
  /-- KEYREPL (R422). -/
  | keyrepl (dt tag : Nat) (args : List Nat)
  /-- DBGUNLOCK (R482). -/
  | dbgunlock (dt tag : Nat) (args : List Nat)
  /-- FABKEY (R307). -/
  | fabkey (dt tag : Nat) (args : List Nat)
  /-- PRESENCE_GIVEN (R424). -/
  | presenceGiven (dt : Nat)
  /-- PRESENCE_TIMEOUT (R424). -/
  | presenceTimeout (dt : Nat) (stuck : Bool)
  /-- LAUNCH (R73). -/
  | launch (dt : Nat)
  /-- LAUNCH_MONITOR_EDGE (R86). -/
  | launchMonitorEdge (dt n : Nat)
  /-- LAUNCH_MONITOR_MISS (R87). -/
  | launchMonitorMiss (dt : Nat)
  /-- CAPTURE_WINDOW_CLOSE (R73). -/
  | captureWindowClose (dt : Nat) (xs : List Adc)
  /-- LASER_LOCK_GAIN (R68). -/
  | laserLockGain (dt : Nat)
  /-- LASER_LOCK_LOSS (R68). -/
  | laserLockLoss (dt : Nat)
  /-- LASER_WL_WRITE (R68). -/
  | laserWlWrite (v : Word)
  /-- LASER_EN_LOW (R94). -/
  | laserEnLow (dt : Nat)
  /-- LASER_EN_HIGH (R94). -/
  | laserEnHigh (dt : Nat)
  /-- OPEN_PORT_DECISION (R92). -/
  | openPortDecision (dt : Nat) (xs : List Adc)
  /-- SAFE_CLEAR (R93). -/
  | safeClear (v : Word)
  /-- PORT_WRITE (R88). -/
  | portWrite (v : Word)
  /-- PORT_SWITCH_MOVE (R88). -/
  | portSwitchMove (dt : Nat)
  /-- PORT_SETTLED (R88). -/
  | portSettled (dt : Nat)
  /-- MF_GEN_START (R106). -/
  | mfGenStart (which : Fin 3) (k : Fin 16) (v : Word)
  /-- MF_GEN_DONE (R106). -/
  | mfGenDone (dt : Nat) (k : Fin 16)
  /-- COEF_WRITE (R108). -/
  | coefWrite (v : Word)
  /-- SWAP_REQUEST (R109). -/
  | swapRequest (v : Word)
  /-- SWAP_COPY_DONE (R109). -/
  | swapCopyDone (dt : Nat) (filt : Fin 18)
  /-- FADE_END (R110). -/
  | fadeEnd (dt : Nat) (filt : Fin 18)
  /-- FRAME_PUBLISH (R128). -/
  | framePublish (dt : Nat) (xs : List Adc)
  /-- SENTINEL_WINDOW_END (R134). -/
  | sentinelWindowEnd (dt : Nat)
  /-- MAPDATA_WRITE (R177). -/
  | mapdataWrite (v : Word)
  /-- MAPCOMMIT (R177). -/
  | mapcommit (v : Word)
  /-- STR_CSDATA_WRITE (R182). -/
  | strCsdataWrite (v : Word)
  /-- DTS_WIN_WRITE (R141). -/
  | dtsWinWrite (w : Fin 8) (v : Word)
  /-- BAND_SEARCH_START (R341). -/
  | bandSearchStart (dt : Nat)
  /-- BAND_SEARCH_DONE (R341). -/
  | bandSearchDone (dt band amp : Nat)
  /-- DTS_HOP_START (R142). -/
  | dtsHopStart (dt : Nat)
  /-- DTS_HOP_END (R142). -/
  | dtsHopEnd (dt : Nat)
  /-- DTS_LAUNCH_JOB (R145). -/
  | dtsLaunchJob (dt : Nat)
  /-- DTS_PROFILE_POST (R146). -/
  | dtsProfilePost (dt : Nat)
  /-- VEC_JOB_START (R159). -/
  | vecJobStart (dt : Nat)
  /-- VEC_JOB_DONE (R159). -/
  | vecJobDone (dt cycles : Nat)
  /-- VEC_ABORT (R162). -/
  | vecAbort (v : Word)
  /-- VEC_CYCLE_LIMIT (R162). -/
  | vecCycleLimit (dt : Nat)
  /-- SV_SCALAR_INSTR (R163). -/
  | svScalarInstr (w : Word)
  /-- VLD (R164). -/
  | vld (d a b : Fin 16) (mem : Fin 4) (pi : Bool) (br : Fin 32)
  /-- VST (R164). -/
  | vst (d a b : Fin 16) (mem : Fin 4) (pi : Bool) (br : Fin 32)
  /-- VLW (R164). -/
  | vlw (d a b : Fin 16) (mem : Fin 4) (pi : Bool) (br : Fin 32)
  /-- VADD (R164). -/
  | vadd (d a b : Fin 16) (m : Fin 256)
  /-- VSUB (R164). -/
  | vsub (d a b : Fin 16) (m : Fin 256)
  /-- VMUL (R164). -/
  | vmul (d a b : Fin 16) (m : Fin 256)
  /-- VMAC (R164). -/
  | vmac (d a b : Fin 16) (m : Fin 256)
  /-- VMSU (R164). -/
  | vmsu (d a b : Fin 16) (m : Fin 256)
  /-- VPWR (R164). -/
  | vpwr (d a b : Fin 16) (m : Fin 256)
  /-- VCLR (R164). -/
  | vclr (d : Fin 16) (m : Fin 256)
  /-- VRD (R164). -/
  | vrd (d a : Fin 16) (m : Fin 256)
  /-- VBF (R166). -/
  | vbf (d a b : Fin 16) (m : Fin 256)
  /-- VBFX (R166). -/
  | vbfx (d a b : Fin 16) (m : Fin 256)
  /-- VPERM (R164). -/
  | vperm (d a b : Fin 16) (m : Fin 256)
  /-- VSPLAT (R164). -/
  | vsplat (d a : Fin 16) (m : Fin 256)
  /-- VBEXP (R166). -/
  | vbexp (d a : Fin 16) (m : Fin 256)
  /-- VSTAGE (R166). -/
  | vstage (d : Fin 16) (m : Fin 256)
  /-- VSCLR (R167). -/
  | vsclr (m : Fin 256)
  /-- VMX (R167). -/
  | vmx (a b : Fin 16) (m : Fin 256)
  /-- VMN (R167). -/
  | vmn (a b : Fin 16) (m : Fin 256)
  /-- VMXR (R167). -/
  | vmxr (d a : Fin 16) (m : Fin 256)
  /-- VMNR (R167). -/
  | vmnr (d a : Fin 16) (m : Fin 256)
  /-- VLOOP (R169). -/
  | vloop (a : Fin 16) (imm : BitVec 18)
  /-- VDONE (R162). -/
  | vdone (a : Fin 16)
  /-- LINKEN_WRITE (R206). -/
  | linkenWrite (v : Word)
  /-- FE_BLOCK_LOCK (R193). -/
  | feBlockLock (dt : Nat) (l : Fin 64) (headers : List Nat)
  /-- FE_LOCK_LOSS (R207). -/
  | feLockLoss (dt : Nat) (l : Fin 64) (opened : Bool) (headers : List Nat)
  /-- FE_HELLO (R206). -/
  | feHello (dt : Nat) (l : Fin 64) (payload : Nat)
  /-- FE_STATE_TIMEOUT (R206). -/
  | feStateTimeout (dt : Nat) (l : Fin 64)
  /-- FE_RETRY (R206). -/
  | feRetry (dt : Nat) (l : Fin 64)
  /-- FCMD (R196). -/
  | fcmd (v : Word)
  /-- BCRESET_ACT (R211). -/
  | bcresetAct (dt : Nat) (l : Fin 64)
  /-- SCCMD (R201). -/
  | sccmd (v : Word)
  /-- SCRSP (R201). -/
  | scrsp (dt : Nat) (l : Fin 64) (payload : Nat)
  /-- SC_TIMEOUT (R201). -/
  | scTimeout (dt : Nat)
  /-- HIT_FRAME (R204). -/
  | hitFrame (dt : Nat) (l : Fin 64) (fill : Nat) (blocks : List (Nat × Nat))
  /-- FE_STATUS_BLOCK (R194). -/
  | feStatusBlock (dt : Nat) (l : Fin 64) (payload : Nat)
  /-- ECHO (R208). -/
  | echo (dt : Nat) (l : Fin 64) (arg n : Nat)
  /-- PATROL_START (R208). -/
  | patrolStart (dt : Nat)
  /-- PATROL_DONE (R209). -/
  | patrolDone (dt : Nat) (l : Fin 64)
  /-- ZS_DECIDE (R213). -/
  | zsDecide (dt : Nat)
  /-- HIT_BLOCK_TMO (R217). -/
  | hitBlockTmo (dt : Nat) (l : Fin 64)
  /-- TRG_ARM (R233). -/
  | trgArm (v : Word)
  /-- TRG_ARM_STOP (R237). -/
  | trgArmStop (v : Word)
  /-- COND_SAMPLE (R221). -/
  | condSample (dt : Nat) (k : Fin 16)
  /-- COND_TIMEOUT (R222). -/
  | condTimeout (dt : Nat) (k : Fin 16)
  /-- TRIG_IN_EDGE (R224). -/
  | trigInEdge (dt : Nat) (i : Fin 4) (rising short : Bool) (n : Nat)
  /-- HP_HIT_TAKE (R223). -/
  | hpHitTake (dt : Nat) (p : Fin 8)
  /-- HP_HIT_EXPIRE (R223). -/
  | hpHitExpire (dt : Nat) (p : Fin 8)
  /-- CLASS_DECIDE (R226). -/
  | classDecide (dt : Nat) (c : Fin 4)
  /-- SEGMENT_COPY (R235). -/
  | segmentCopy (dt : Nat) (c : Fin 4)
  /-- SEGMENT_STREAM_PART (R236). -/
  | segmentStreamPart (dt : Nat) (c : Fin 4)
  /-- TRIG_OUT_EDGE (R240). -/
  | trigOutEdge (dt : Nat) (i : Fin 4)
  /-- TRIG_OUT_PULSE_END (R240). -/
  | trigOutPulseEnd (dt : Nat) (i : Fin 4)
  /-- OUTCLR (R240). -/
  | outclr (v : Word)
  /-- EVB_WINDOW_CLOSE (R244). -/
  | evbWindowClose (dt : Nat)
  /-- LOCAL_STRAGGLER_POST (R245). -/
  | localStragglerPost (dt : Nat)
  /-- EVB_HEAD_ADVANCE (R242). -/
  | evbHeadAdvance (dt : Nat) (l : Fin 64)
  /-- CAND (R247). -/
  | cand (dt : Nat) (dev : Fin 1024) (c : Fin 4) (stamp cid : Nat)
  /-- DECIDER_DECIDE (R247). -/
  | deciderDecide (dt : Nat)
  /-- ACCEPT (R248). -/
  | accept (dt : Nat) (c : Fin 4) (epoch cid stamp num : Nat)
  /-- REJECT (R248). -/
  | reject (dt : Nat) (c : Fin 4) (cid : Nat)
  /-- CAND_TIMEOUT (R248). -/
  | candTimeout (dt : Nat)
  /-- BUILD (R252). -/
  | build (dt epoch num stamp : Nat) (devs : List Nat)
  /-- BUSY (R247). -/
  | busy (dt : Nat) (dev : Fin 1024) (busy : Bool)
  /-- GRANT (R251). -/
  | grant (dt : Nat) (bnum : Fin 4) (bepoch units : Nat)
  /-- CREDIT (R251). -/
  | credit (dt : Nat) (bnum : Fin 4) (bepoch units fseq : Nat)
  /-- FRAGMENT_SEND (R251). -/
  | fragmentSend (dt : Nat)
  /-- FRAGMENT_RECEIVE (R252). -/
  | fragmentReceive (dt : Nat) (words : List Nat)
  /-- EVENT_CLOSE_TIMEOUT (R252). -/
  | eventCloseTimeout (dt : Nat)
  /-- TIMEX (R290). -/
  | timex (dt : Nat) (p : Fin 8) (xseq rxseq txprev rxlast : Nat) (peerState : Fin 4) (rootHold : Bool) (hops : Fin 32) (rootDev : Fin 1024) (rootEpoch : Nat)
  /-- TIMEX_SEND (R263). -/
  | timexSend (dt : Nat) (p : Fin 8)
  /-- PARENT_EXCHANGE_LOSS (R264). -/
  | parentExchangeLoss (dt : Nat)
  /-- LOCKED_TIMER (R264). -/
  | lockedTimer (dt : Nat)
  /-- PPS_EDGE (R268). -/
  | ppsEdge (dt : Nat) (present : Bool)
  /-- REF10M_CHANGE (R268). -/
  | ref10mChange (dt n : Nat)
  /-- ROOT_SECOND_BOUNDARY (R267). -/
  | rootSecondBoundary (dt : Nat)
  /-- NEXTSEC_WRITE (R267). -/
  | nextsecWrite (v : Word)
  /-- ASY_UPDATE (R269). -/
  | asyUpdate (dt : Nat) (p : Fin 8)
  /-- ASY_SLEW (R269). -/
  | asySlew (dt : Nat) (p : Fin 8)
  /-- TSUB (R270). -/
  | tsub (dt : Nat) (dev : Fin 1024) (sense : Fin 4) (first last : Nat) (tref : Int)
  /-- TINT (R270). -/
  | tint (dt : Nat) (sense : Fin 4) (dev : Fin 1024) (last : Nat) (integral : Int) (pm : Nat)
  /-- PROFILE_AGE_EXPIRY (R271). -/
  | profileAgeExpiry (dt : Nat) (p : Fin 8)
  /-- TDC_EDGE (R275). -/
  | tdcEdge (dt : Nat) (u : Fin 8) (src : Fin 4) (n : Nat)
  /-- TDC_TIMEOUT (R277). -/
  | tdcTimeout (dt : Nat) (u : Fin 8)
  /-- TDC_DEAD_TIME_END (R275). -/
  | tdcDeadTimeEnd (dt : Nat) (u : Fin 8)
  /-- TDC_RING_CHECK (R279). -/
  | tdcRingCheck (dt : Nat) (u : Fin 8) (lsb : Nat) (ok : Bool)
  /-- TDC_CFG_WRITE (R275). -/
  | tdcCfgWrite (u : Fin 8) (v : Word)
  /-- FABRIC_FRAME (R286). -/
  | fabricFrame (dt : Nat) (p : Fin 8) (sfd : Bool) (f : Machine.Frame) (done : Bool)
  /-- PHER (R291). -/
  | pher (dt : Nat) (p : Fin 8) (f : Machine.Frame)
  /-- PHER_SEND (R291). -/
  | pherSend (dt : Nat) (p : Fin 8)
  /-- PEER_DEAD (R291). -/
  | peerDead (dt : Nat) (p : Fin 8)
  /-- FAB_PORT_LOCK (R292). -/
  | fabPortLock (dt : Nat) (p : Fin 8) (signal lock : Bool)
  /-- FAB_PORT_TIMEOUT (R292). -/
  | fabPortTimeout (dt : Nat) (p : Fin 8)
  /-- LSA (R296). -/
  | lsa (dt : Nat) (p : Fin 8) (f : Machine.Frame) (done : Bool)
  /-- LSA_REFRESH (R296). -/
  | lsaRefresh (dt : Nat)
  /-- LSA_MAXAGE (R296). -/
  | lsaMaxage (dt : Nat) (dev : Fin 1024)
  /-- ID_CLAIM_DONE (R294). -/
  | idClaimDone (dt : Nat)
  /-- LCRED (R288). -/
  | lcred (dt : Nat) (p : Fin 8) (w : Nat)
  /-- LCRED_SEND (R288). -/
  | lcredSend (dt : Nat) (p : Fin 8)
  /-- FAB_SEND (R301). -/
  | fabSend (dt : Nat) (p : Fin 8)
  /-- FWD_TAP_SEND (R302). -/
  | fwdTapSend (dt : Nat) (t : Fin 8)
  /-- FWD_WRITE (R302). -/
  | fwdWrite (t : Fin 8) (v : Word)
  /-- REASSEMBLY_TIMEOUT (R301). -/
  | reassemblyTimeout (dt : Nat)
  /-- RANN (R406). -/
  | rann (dt : Nat) (r : Fin 6) (dev : Fin 1024) (epoch prio stamp serial : Nat)
  /-- RANN_RENEW (R406). -/
  | rannRenew (dt : Nat) (r : Fin 6)
  /-- RREQ (R407). -/
  | rreq (dt : Nat) (r : Fin 6) (dev : Fin 1024) (epoch prio stamp serial : Nat)
  /-- RREL (R407). -/
  | rrel (dt : Nat) (r : Fin 6) (dev : Fin 1024) (epoch prio stamp : Nat)
  /-- ROLE_LAPSE (R407). -/
  | roleLapse (dt : Nat) (r : Fin 6)
  /-- ROLE_REQUEST_WAIT_END (R407). -/
  | roleRequestWaitEnd (dt : Nat) (r : Fin 6)
  /-- ETH_ACK (R311). -/
  | ethAck (dt : Nat) (p : Fin 8) (dseq sack : Nat)
  /-- ETH_SYNC_TIMEOUT (R311). -/
  | ethSyncTimeout (dt : Nat) (p : Fin 8)
  /-- ETH_RETRANSMIT (R311). -/
  | ethRetransmit (dt : Nat) (p : Fin 8)
  /-- ETH_PIECE_SEND (R311). -/
  | ethPieceSend (dt : Nat) (p : Fin 8)
  /-- ETH_MGMT_DATAGRAM (R312). -/
  | ethMgmtDatagram (dt : Nat) (p : Fin 8) (ip port : Nat) (f : Machine.Frame)
  /-- ETH_ARP (R310). -/
  | ethArp (dt : Nat) (p : Fin 8) (reply : Bool) (target sender : Nat)
  /-- ETH_ND (R310). -/
  | ethNd (dt : Nat) (p : Fin 8) (solicit : Bool) (target sender : Nat)
  /-- ETH_ECHO (R310). -/
  | ethEcho (dt : Nat) (p : Fin 8) (v6 : Bool) (target sender : Nat) (data : List Nat)
  /-- PTP_MESSAGE (R313). -/
  | ptpMessage (dt : Nat) (v6 : Bool) (domain : Nat) (m : PtpMsg)
  /-- MEM_ADMISSION_TICK (R320). -/
  | memAdmissionTick (dt : Nat)
  /-- MEM_REFRESH (R319). -/
  | memRefresh (dt : Nat) (n : Fin 4)
  /-- MEM_REQUEST_SERVE (R319). -/
  | memRequestServe (dt : Nat) (n : Fin 4) (new : List (Nat × Nat × Bool)) (err : Fin 3)
  /-- SCRUB_STEP (R318). -/
  | scrubStep (dt : Nat) (err : Fin 3)
  /-- TRN_GO (R321). -/
  | trnGo (v : Word)
  /-- TRN_APPLY (R321). -/
  | trnApply (v : Word)
  /-- TRN_GATHER_DONE (R321). -/
  | trnGatherDone (dt : Nat) (reads : List (List (Nat × Nat))) (fin : Option Machine.TrnResult)
  /-- DRAM_TEMP_DRIFT (R323). -/
  | dramTempDrift (dt : Nat) (n : Fin 4) (temp : Nat)
  /-- CMP_LANE_TAKE (R328). -/
  | cmpLaneTake (dt : Nat)
  /-- CMP_OUTPUT_PUBLISH (R329). -/
  | cmpOutputPublish (dt : Nat) (l : Fin 4) (codes : List (List (List Nat × List Nat))) (spoilt : List (Nat × List Nat × Nat))
  /-- CMP_CHAIN_WAIT_EXPIRY (R333). -/
  | cmpChainWaitExpiry (dt : Nat) (l : Fin 4)
  /-- DECOMPRESS_JOB (R334). -/
  | decompressJob (dt : Nat) (l : Fin 4)
  /-- PLL_UNLOCK (R346). -/
  | pllUnlock (dt : Nat) (pll : Fin 5)
  /-- PLL_RELOCK (R348). -/
  | pllRelock (dt : Nat) (pll : Fin 5) (band amp : Nat) (phase : Word) (rows : List (Nat × Nat × Nat × Nat)) (temps : List Nat)
  /-- SYN_S_LOCK_TIMEOUT (R349). -/
  | synSLockTimeout (dt : Nat)
  /-- PLL_RETRY_ALARM (R349). -/
  | pllRetryAlarm (dt : Nat) (pll : Fin 5)
  /-- REF_COUNT_FAIL (R349). -/
  | refCountFail (dt : Nat)
  /-- CLK_COMMIT (R344). -/
  | clkCommit (v : Word)
  /-- COMMIT_POINT (R345). -/
  | commitPoint (dt : Nat)
  /-- MSLOT_WRITE (R341). -/
  | mslotWrite (n : Fin 16) (v : Word)
  /-- MSEL_HOP (R342). -/
  | mselHop (dt : Nat) (locked : Bool)
  /-- HKC_GO (R367). -/
  | hkcGo (v : Word)
  /-- HKC_IGO (R368). -/
  | hkcIgo (v : Word)
  /-- HKC_STOP (R367). -/
  | hkcStop (v : Word)
  /-- HKC_TIMER (R367). -/
  | hkcTimer (dt : Nat)
  /-- HKC_START_DELAY_END (R367). -/
  | hkcStartDelayEnd (dt : Nat)
  /-- HKC_CONVERSION_DONE (R361). -/
  | hkcConversionDone (dt : Nat) (d : Int) (ovr openFail : Bool)
  /-- HKC_AUX_CONVERSION (R352). -/
  | hkcAuxConversion (dt : Nat) (d : Int) (ovr opened : Bool)
  /-- HKC_EXC_WRITE (R363). -/
  | hkcExcWrite (c : Fin 16) (v : Word)
  /-- HKC_EN_WRITE (R369). -/
  | hkcEnWrite (v : Word)
  /-- CALGAIN_WRITE (R372). -/
  | calgainWrite (c : Fin 16) (v : Word)
  /-- BLANK_PIN (R366). -/
  | blankPin (dt : Nat) (high : Bool)
  /-- FLS_ARM (R381). -/
  | flsArm (v : Word)
  /-- FLASH_TURN_ON (R381). -/
  | flashTurnOn (dt : Nat) (n : Fin 16)
  /-- FLASH_TURN_OFF (R380). -/
  | flashTurnOff (dt : Nat) (n : Fin 16)
  /-- FLASH_CHECK (R387). -/
  | flashCheck (dt : Nat) (n : Fin 16) (reg : Bool) (pct sink : Nat)
  /-- DIM_SLOT (R383). -/
  | dimSlot (dt : Nat) (n : Fin 16)
  /-- FLS_CH_DISABLE (R382). -/
  | flsChDisable (n : Fin 16) (v : Word)
  /-- FLV_ADAPT (R384). -/
  | flvAdapt (dt vin : Nat)
  /-- FLS_POWER_CHECK (R385). -/
  | flsPowerCheck (dt mw : Nat)
  /-- FLS_DERATE (R386). -/
  | flsDerate (dt : Nat) (ta tb : Int)
  /-- DIAG_WINDOW_END (R389). -/
  | diagWindowEnd (dt : Nat) (n : Fin 16)
  /-- FLS_STATUS_POST (R394). -/
  | flsStatusPost (dt : Nat)
  /-- MISMATCH (R399). -/
  | mismatch (dt : Nat)
  /-- SELF_TEST_VERDICT (R400). -/
  | selfTestVerdict (dt : Nat) (a b : Bool)
  /-- RECOVERY_RESUME (R400). -/
  | recoveryResume (dt : Nat)
  /-- LEASE_RENEWAL (R401). -/
  | leaseRenewal (dt : Nat)
  /-- LEASE_EXPIRY (R401). -/
  | leaseExpiry (dt : Nat)
  /-- CORE_RETEST (R403). -/
  | coreRetest (dt : Nat) (pass : Bool)
  /-- CTEST (R404). -/
  | ctest (v : Word)
  /-- COMPARATOR_TEST (R405). -/
  | comparatorTest (dt : Nat) (ok : Bool)
  /-- VEC_KNOWN_ANSWER (R405). -/
  | vecKnownAnswer (dt : Nat) (ok : Bool)
  /-- CMP_KNOWN_ANSWER (R405). -/
  | cmpKnownAnswer (dt : Nat) (l : Fin 4) (ok : Bool)
  /-- HKC_REF_CHECK (R405). -/
  | hkcRefCheck (dt : Nat) (z r : Int)
  /-- TIME_CROSS_CHECK (R406). -/
  | timeCrossCheck (dt : Nat) (p : Fin 8) (diff : Int)
  /-- ALARM_SUMMARY_POST (R412). -/
  | alarmSummaryPost (dt : Nat)
  /-- ALARM_TOKEN_REFILL (R412). -/
  | alarmTokenRefill (dt : Nat) (c : Fin 4)
  /-- CRITICAL_BUFFER_DRAIN (R412). -/
  | criticalBufferDrain (dt : Nat)
  /-- COUNTER_SNAPSHOT (R416). -/
  | counterSnapshot (dt : Nat)
  /-- SNAPAT_WRITE (R416). -/
  | snapatWrite (v : Word)
  /-- STALE_CHECK (R410). -/
  | staleCheck (dt : Nat)
  /-- SEAL_BREAK (R425). -/
  | sealBreak (dt : Nat)
  /-- SEAL_CLOSE (R425). -/
  | sealClose (dt : Nat)
  /-- LCJ_CHANGE (R427). -/
  | lcjChange (dt : Nat) (fitted : Bool)
  /-- RNG_READ (R421). -/
  | rngRead (who : Fin 2)
  /-- RNG_HEALTH_FAIL (R421). -/
  | rngHealthFail (dt : Nat)
  /-- MOULT_LOAD_DONE (R434). -/
  | moultLoadDone (dt : Nat) (ok : Bool)
  /-- MOULT_CKPT_TIMEOUT (R436). -/
  | moultCkptTimeout (dt : Nat)
  /-- COLD_START (R447). -/
  | coldStart (dt : Nat) (main ka : Bool)
  /-- POWER_GOOD (R444). -/
  | powerGood (dt : Nat) (absent : Bool)
  /-- BROWN_OUT (R446). -/
  | brownOut (dt : Nat)
  /-- RAIL_FAULT (R446). -/
  | railFault (dt : Nat) (chan : Fin 64)
  /-- RESET_N_ASSERT (R448). -/
  | resetNAssert (dt : Nat)
  /-- RESET_RELEASE (R449). -/
  | resetRelease (dt : Nat) (profsel : Fin 4)
  /-- STARTUP_COMPLETE (R449). -/
  | startupComplete (dt : Nat) (cal : List (Nat × Nat)) (phase : Word) (res : List Machine.TrnResult)
  /-- COCOON_ENTRY_DONE (R453). -/
  | cocoonEntryDone (dt : Nat)
  /-- MBOXCMD (R454). -/
  | mboxcmd (v : Word)
  /-- WAKEAT_EXPIRY (R455). -/
  | wakeatExpiry (dt : Nat)
  /-- EMERGENCE_DONE (R455). -/
  | emergenceDone (dt : Nat) (phase : Word) (rows : List (Nat × Nat × Nat × Nat)) (temps : List Nat) (res : List Machine.TrnResult)
  /-- SPI_NOP (R472). -/
  | spiNop (dt op len addr chk : Nat)
  /-- CSRRD (R473). -/
  | csrrd (dt len addr chk : Nat)
  /-- CSRWR (R472). -/
  | csrwr (dt len addr v chk : Nat)
  /-- MEMRD (R472). -/
  | memrd (dt len addr chk : Nat)
  /-- MEMWR (R473). -/
  | memwr (dt len addr : Nat) (words : List Nat) (chk : Nat)
  /-- SPI_POST (R473). -/
  | spiPost (dt len addr : Nat) (words : List Nat) (chk : Nat)
  /-- SPI_TAKE (R473). -/
  | spiTake (dt len addr chk : Nat) (whole : Bool)
  /-- DBG_LOCK (R482). -/
  | dbgLock (v : Word)
  /-- DEBUG_OPEN_EXPIRY (R482). -/
  | debugOpenExpiry (dt : Nat)
  /-- QUE_ENABLE (R28). -/
  | queEnable (n : Fin 128) (v : Word)
  /-- QUE_HEAD_WRITE (R28). -/
  | queHeadWrite (n : Fin 128) (v : Word)
  /-- RESULT_REGISTER_READ (R31). -/
  | resultRegisterRead (who : Fin 2) (addr : Nat)
  /-- PAIR_LO_READ (R12). -/
  | pairLoRead (who : Fin 2) (addr : Nat)
  /-- PAIR_HI_WRITE (R12). -/
  | pairHiWrite (who : Fin 2) (addr : Nat) (v : Word)
  /-- CSR_WRITE (R10). -/
  | csrWrite (who : Fin 2) (addr : Nat) (v : Word)
  /-- FE_SUPERFRAME (R194). -/
  | feSuperframe (dt : Nat)
  /-- INGRESS_FIFO_DRAINED (R205). -/
  | ingressFifoDrained (dt : Nat) (l : Fin 64)
  /-- CSR_ACKNOWLEDGE (R15). -/
  | csrAcknowledge (dt : Nat) (island : Fin 12)
  /-- TDC_CALIBRATION_DONE (R279). -/
  | tdcCalibrationDone (dt : Nat) (u : Fin 8) (lsb dnl : Nat)
  /-- IMAGE_SLOT_WRITE_DONE (R431). -/
  | imageSlotWriteDone (dt : Nat) (sigOk hashOk : Bool)
  /-- PROFILE_WRITE_DONE (R440). -/
  | profileWriteDone (dt : Nat)
  /-- LIFE_CYCLE_WIPE_DONE (R428). -/
  | lifeCycleWipeDone (dt : Nat)
  /-- START_UP_FAILURE (R450). -/
  | startUpFailure (dt : Nat) (kind : Fin 7)
  /-- START_UP_PROFILE_LOADED (R449). -/
  | startUpProfileLoaded (dt bad : Nat)
  /-- SRAM_SCRUB (R417). -/
  | sramScrub (dt : Nat) (mem : Fin 6) (a : Nat) (double : Bool)
  /-- CONFIGURATION_PARITY_ERROR (R417). -/
  | configurationParityError (dt : Nat) (island : Fin 12)
  /-- SUPERVISOR_FAULT (R396). -/
  | supervisorFault (dt : Nat)
  /-- BASEPLATE_TEMPERATURE_CHECK (R479). -/
  | baseplateTemperatureCheck (dt : Nat) (temp : Int)
  /-- KA_3V3_CHANGE (R444). -/
  | ka3v3Change (dt : Nat) (ok : Bool)
  /-- RNGFAIL_CLEAR (R421). -/
  | rngfailClear (dt : Nat)
  /-- DIAGNOSTIC_PULSE (R389). -/
  | diagnosticPulse (dt : Nat) (n : Fin 16)
  /-- PTP_LOCK_CHANGE (R313). -/
  | ptpLockChange (dt : Nat) (ok : Bool)
  /-- ETHERNET_FRAME_DISCARDED (R310). -/
  | ethernetFrameDiscarded (dt : Nat) (p : Fin 8)
  /-- TAP_OPERATION (R481). -/
  | tapOperation (dt : Nat) (ir : Fin 8) (din : Nat)
  deriving DecidableEq, Repr

end Sys2Proof
end

