-- ==== Sys2Proof/WellFormed.lean ====
section
/-! DEFINITION. Which commands are well formed: every operand fits the field the spec gives it. The meanings are total; a command that is not
well formed is none a sender can make. -/

namespace Sys2Proof

/-- A number fits a field of so many bits. -/
def fits (bits n : Nat) : Bool := decide (n < 2 ^ bits)

/-- A signed number fits a field of so many bits. -/
def fitsInt (bits : Nat) (n : Int) : Bool := decide (-(2 ^ (bits - 1) : Int) ≤ n) && decide (n < 2 ^ (bits - 1))

/-- Every word of a list fits a field of so many bits. -/
def allFit (bits : Nat) (l : List Nat) : Bool := l.all (fits bits)

/-- The fields of a frame fit, and its tag has two words where there is one. -/
def Machine.Frame.fits (f : Machine.Frame) : Bool :=
  Sys2Proof.fits 64 f.h0 && Sys2Proof.fits 64 f.h1 && Sys2Proof.fits 64 f.h2 && Sys2Proof.fits 64 f.h3 && allFit 64 f.payload && allFit 64 f.tag
    && (f.tag.isEmpty || f.tag.length == 2) && Sys2Proof.fits 32 f.crc

/-- The fields of a PTP message fit: identities of 80 bits, sequence numbers of 16, and the seven fields of the data set. -/
def PtpMsg.fits : PtpMsg → Bool
  | .announce src _ li ds => Sys2Proof.fits 80 src && fitsInt 8 li && ds.length == 7 && allFit 64 ds
  | .sync src seq _ _ => Sys2Proof.fits 80 src && Sys2Proof.fits 16 seq
  | .followUp src seq _ => Sys2Proof.fits 80 src && Sys2Proof.fits 16 seq
  | .delayResp src seq req _ => Sys2Proof.fits 80 src && Sys2Proof.fits 16 seq && Sys2Proof.fits 80 req

/-- What a training finds fits: bytes, and the 16 bits of each of the 35 registers of MEM.DLY. -/
def Machine.TrnResult.fits (r : Machine.TrnResult) : Bool :=
  Sys2Proof.fits 8 r.rd && Sys2Proof.fits 8 r.wr && Sys2Proof.fits 8 r.temp && r.delays.length == 35 && allFit 16 r.delays

/-- Beats of training rows: channel, bank, beat of the row, and the 32 bits read. -/
def rowsFit (rows : List (Nat × Nat × Nat × Nat)) : Bool :=
  rows.all (fun x => decide (x.1 < 4) && decide (x.2.1 < 16) && decide (x.2.2.1 < 512) && fits 32 x.2.2.2)

/-- The temperatures of the four channels. -/
def tempsFit (temps : List Nat) : Bool := temps.length == 4 && allFit 8 temps

/-- Every operand fits its field: the arguments of a command block are words, at most 8,190 of them (R56); the service SPI's OP and CHK are bytes,
LEN has 2 bytes, ADDR 5, and at most 512 words follow (R471, R472). -/
def Instr.wf (i : Instr) : Bool :=
  match i with
  | .ping _ tag => fits 64 tag
  | .status _ tag => fits 64 tag
  | .reset _ tag => fits 64 tag
  | .loglevel _ tag level => fits 64 tag && fits 64 level
  | .cntsnap _ tag stamp => fits 64 tag && fits 64 stamp
  | .arm _ tag args => fits 64 tag && allFit 64 args && decide (args.length ≤ 8190)
  | .disarm _ tag => fits 64 tag
  | .stop _ tag => fits 64 tag
  | .selprof _ tag n => fits 64 tag && fits 64 n
  | .saveprof _ tag n mask => fits 64 tag && fits 64 n && fits 64 mask
  | .setcfg _ tag args => fits 64 tag && allFit 64 args && decide (args.length ≤ 8190)
  | .getcfg _ tag => fits 64 tag
  | .loadimg _ tag addr len => fits 64 tag && fits 64 addr && fits 64 len
  | .moult _ tag slot => fits 64 tag && fits 64 slot
  | .abandon _ tag => fits 64 tag
  | .setboot _ tag arg => fits 64 tag && fits 64 arg
  | .cocoon _ tag => fits 64 tag
  | .emerge _ tag => fits 64 tag
  | .csrread _ tag addr => fits 64 tag && fits 64 addr
  | .csrwrite _ tag addr v => fits 64 tag && fits 64 addr && fits 64 v
  | .hkcal _ tag c step ideal => fits 64 tag && fits 64 c && fits 64 step && fits 64 ideal
  | .hkselfcal _ tag mask => fits 64 tag && fits 64 mask
  | .fibrecal _ tag args => fits 64 tag && allFit 64 args && decide (args.length ≤ 8190)
  | .tdccal _ tag mask => fits 64 tag && fits 64 mask
  | .dramtrain _ tag arg => fits 64 tag && fits 64 arg
  | .dramrate _ tag arg => fits 64 tag && fits 64 arg
  | .rolereq _ tag arg => fits 64 tag && fits 64 arg
  | .rolerel _ tag arg => fits 64 tag && fits 64 arg
  | .lcset _ tag args => fits 64 tag && allFit 64 args && decide (args.length ≤ 8190)
  | .keyrepl _ tag args => fits 64 tag && allFit 64 args && decide (args.length ≤ 8190)
  | .dbgunlock _ tag args => fits 64 tag && allFit 64 args && decide (args.length ≤ 8190)
  | .fabkey _ tag args => fits 64 tag && allFit 64 args && decide (args.length ≤ 8190)
  | .feHello _ _ payload => fits 64 payload
  | .scrsp _ _ payload => fits 64 payload
  | .feStatusBlock _ _ payload => fits 64 payload
  | .echo _ _ arg _ => fits 64 arg
  | .cand _ _ _ stamp cid => fits 64 stamp && fits 32 cid
  | .accept _ _ epoch cid stamp num => fits 16 epoch && fits 32 cid && fits 64 stamp && fits 32 num
  | .reject _ _ cid => fits 32 cid
  | .build _ epoch num stamp devs => fits 16 epoch && fits 32 num && fits 64 stamp && allFit 10 devs
  | .grant _ _ bepoch units => fits 16 bepoch && fits 16 units
  | .credit _ _ bepoch units fseq => fits 16 bepoch && fits 16 units && fits 32 fseq
  | .fragmentReceive _ words => allFit 64 words
  | .timex _ _ xseq rxseq txprev rxlast _ _ _ _ rootEpoch => fits 32 xseq && fits 32 rxseq && fits 64 txprev && fits 64 rxlast && fits 16 rootEpoch
  | .fabricFrame _ _ _ f _ => f.fits
  | .pher _ _ f => f.fits
  | .lsa _ _ f _ => f.fits
  | .lcred _ _ w => fits 64 w
  | .rann _ _ _ epoch prio stamp serial => fits 16 epoch && fits 8 prio && fits 64 stamp && fits 64 serial
  | .rreq _ _ _ epoch prio stamp serial => fits 16 epoch && fits 8 prio && fits 64 stamp && fits 64 serial
  | .rrel _ _ _ epoch prio stamp => fits 16 epoch && fits 8 prio && fits 64 stamp
  | .ethAck _ _ dseq sack => fits 32 dseq && fits 32 sack
  | .ethMgmtDatagram _ _ ip port f => fits 128 ip && fits 16 port && f.fits
  | .ethArp _ _ _ target sender => fits 32 target && fits 32 sender
  | .ethNd _ _ _ target sender => fits 128 target && fits 128 sender
  | .ethEcho _ _ v6 target sender data => fits (if v6 then 128 else 32) target && fits (if v6 then 128 else 32) sender && allFit 8 data
  | .ptpMessage _ _ domain m => fits 8 domain && m.fits
  | .trnGatherDone _ reads fin => reads.all (fun l => l.all (fun x => fits 32 x.2)) && fin.all Machine.TrnResult.fits
  | .pllRelock _ _ band _ _ rows temps => fits 9 band && rowsFit rows && tempsFit temps
  | .emergenceDone _ _ rows temps res => rowsFit rows && tempsFit temps && res.all Machine.TrnResult.fits
  | .spiNop _ op len addr chk => fits 8 op && fits 16 len && fits 40 addr && fits 8 chk
  | .csrrd _ len addr chk => fits 16 len && fits 40 addr && fits 8 chk
  | .csrwr _ len addr v chk => fits 16 len && fits 40 addr && fits 32 v && fits 8 chk
  | .memrd _ len addr chk => fits 16 len && fits 40 addr && fits 8 chk
  | .memwr _ len addr words chk => fits 16 len && fits 40 addr && allFit 64 words && fits 8 chk && decide (words.length ≤ 512)
  | .spiPost _ len addr words chk => fits 16 len && fits 40 addr && allFit 64 words && fits 8 chk && decide (words.length ≤ 512)
  | .spiTake _ len addr chk _ => fits 16 len && fits 40 addr && fits 8 chk
  | .resultRegisterRead _ addr => fits 32 addr
  | .pairLoRead _ addr => fits 32 addr
  | .pairHiWrite _ addr _ => fits 32 addr
  | .csrWrite _ addr _ => fits 32 addr
  | .launchMonitorEdge _ n => fits 16 n
  | .bandSearchDone _ band _ => fits 9 band
  | .vecJobDone _ cycles => fits 32 cycles
  | .feBlockLock _ _ headers => allFit 2 headers
  | .feLockLoss _ _ _ headers => allFit 2 headers
  | .hitFrame _ _ fill blocks => fits 16 fill && blocks.all (fun b => fits 2 b.1 && fits 64 b.2)
  | .trigInEdge _ _ _ _ n => fits 16 n
  | .tsub _ _ _ first last tref => fits 18 first && fits 18 last && fitsInt 32 tref
  | .tint _ _ _ last integral pm => fits 64 last && fitsInt 64 integral && fits 10 pm
  | .tdcEdge _ _ _ n => fits 16 n
  | .tdcRingCheck _ _ lsb _ => fits 16 lsb
  | .memRequestServe _ _ new _ => new.all (fun r => fits 4 r.1 && fits 40 r.2.1)
  | .dramTempDrift _ _ temp => fits 8 temp
  | .cmpOutputPublish _ _ codes spoilt =>
    codes.all (fun b => b.all (fun c => allFit 4 c.1 && allFit 4 c.2)) && spoilt.all (fun x => allFit 8 x.2.1 && fits 32 x.2.2)
  | .flashCheck _ _ _ pct sink => fits 16 pct && fits 16 sink
  | .flvAdapt _ vin => fits 16 vin
  | .flsPowerCheck _ mw => fits 32 mw
  | .startupComplete _ cal _ res => cal.all (fun c => fits 16 c.1 && fits 16 c.2) && res.length == 4 && res.all Machine.TrnResult.fits
  | .tdcCalibrationDone _ _ lsb dnl => fits 16 lsb && fits 16 dnl
  | .startUpProfileLoaded _ bad => fits 14 bad
  | .sramScrub _ _ a _ => fits 32 a
  | .add _ _ _ | .sub _ _ _ | .and _ _ _ | .or _ _ _ | .xor _ _ _ | .shl _ _ _ | .shr _ _ _ | .sra _ _ _ | .mul _ _ _ | .mulhu _ _ _ | .min _ _ _
  | .max _ _ _ | .minu _ _ _ | .maxu _ _ _ | .addi _ _ _ | .andi _ _ _ | .ori _ _ _ | .xori _ _ _ | .shli _ _ _ | .shri _ _ _ | .srai _ _ _
  | .lui _ _ | .ldl _ _ _ | .stl _ _ _ | .ld _ _ _ | .st _ _ _ | .ldw _ _ _ | .stw _ _ _ | .csrr _ _ _ | .csrw _ _ _ | .mfs _ _ _ | .mts _ _ _
  | .beq _ _ _ | .bne _ _ _ | .blt _ _ _ | .bge _ _ _ | .bltu _ _ _ | .bgeu _ _ _ | .j _ | .jal _ | .jr _ | .wait _ | .waitResume _ | .waitc _
  | .timedAt _ _ _ _ | .timedAction _ _ | .tadd _ _ _ | .lnch _ _ _ | .frmStart _ _ _ | .frmStop _ _ | .post _ _ _ | .postR _ _ _
  | .postStallEnd _ _ | .take _ _ _ | .vjob _ _ _ | .fenceCsr | .fenceMem | .fenceQ | .fenceAll | .fenceResume _ | .csrtimeout _ | .trap _
  | .eret _ _ _ | .idle _ _ | .idleWake _ | .ckpt | .illegalInstruction _ | .gateTake _ | .armStartReached _ | .armEndReached _ | .gateStopInsert _
  | .resetDelayExpiry _ | .presenceGiven _ | .presenceTimeout _ _ | .launch _ | .launchMonitorMiss _ | .captureWindowClose _ _ | .laserLockGain _
  | .laserLockLoss _ | .laserWlWrite _ | .laserEnLow _ | .laserEnHigh _ | .openPortDecision _ _ | .safeClear _ | .portWrite _ | .portSwitchMove _
  | .portSettled _ | .mfGenStart _ _ _ | .mfGenDone _ _ | .coefWrite _ | .swapRequest _ | .swapCopyDone _ _ | .fadeEnd _ _ | .framePublish _ _
  | .sentinelWindowEnd _ | .mapdataWrite _ | .mapcommit _ | .strCsdataWrite _ | .dtsWinWrite _ _ | .bandSearchStart _ | .dtsHopStart _
  | .dtsHopEnd _ | .dtsLaunchJob _ | .dtsProfilePost _ | .vecJobStart _ | .vecAbort _ | .vecCycleLimit _ | .svScalarInstr _ | .vld _ _ _ _ _ _
  | .vst _ _ _ _ _ _ | .vlw _ _ _ _ _ _ | .vadd _ _ _ _ | .vsub _ _ _ _ | .vmul _ _ _ _ | .vmac _ _ _ _ | .vmsu _ _ _ _ | .vpwr _ _ _ _ | .vclr _ _
  | .vrd _ _ _ | .vbf _ _ _ _ | .vbfx _ _ _ _ | .vperm _ _ _ _ | .vsplat _ _ _ | .vbexp _ _ _ | .vstage _ _ | .vsclr _ | .vmx _ _ _ | .vmn _ _ _
  | .vmxr _ _ _ | .vmnr _ _ _ | .vloop _ _ | .vdone _ | .linkenWrite _ | .feStateTimeout _ _ | .feRetry _ _ | .fcmd _ | .bcresetAct _ _ | .sccmd _
  | .scTimeout _ | .patrolStart _ | .patrolDone _ _ | .zsDecide _ | .hitBlockTmo _ _ | .trgArm _ | .trgArmStop _ | .condSample _ _
  | .condTimeout _ _ | .hpHitTake _ _ | .hpHitExpire _ _ | .classDecide _ _ | .segmentCopy _ _ | .segmentStreamPart _ _ | .trigOutEdge _ _
  | .trigOutPulseEnd _ _ | .outclr _ | .evbWindowClose _ | .localStragglerPost _ | .evbHeadAdvance _ _ | .deciderDecide _ | .candTimeout _
  | .busy _ _ _ | .fragmentSend _ | .eventCloseTimeout _ | .timexSend _ _ | .parentExchangeLoss _ | .lockedTimer _ | .ppsEdge _ _
  | .ref10mChange _ _ | .rootSecondBoundary _ | .nextsecWrite _ | .asyUpdate _ _ | .asySlew _ _ | .profileAgeExpiry _ _ | .tdcTimeout _ _
  | .tdcDeadTimeEnd _ _ | .tdcCfgWrite _ _ | .pherSend _ _ | .peerDead _ _ | .fabPortLock _ _ _ _ | .fabPortTimeout _ _ | .lsaRefresh _
  | .lsaMaxage _ _ | .idClaimDone _ | .lcredSend _ _ | .fabSend _ _ | .fwdTapSend _ _ | .fwdWrite _ _ | .reassemblyTimeout _ | .rannRenew _ _
  | .roleLapse _ _ | .roleRequestWaitEnd _ _ | .ethSyncTimeout _ _ | .ethRetransmit _ _ | .ethPieceSend _ _ | .memAdmissionTick _ | .memRefresh _ _
  | .scrubStep _ _ | .trnGo _ | .trnApply _ | .cmpLaneTake _ | .cmpChainWaitExpiry _ _ | .decompressJob _ _ | .pllUnlock _ _ | .synSLockTimeout _
  | .pllRetryAlarm _ _ | .refCountFail _ | .clkCommit _ | .commitPoint _ | .mslotWrite _ _ | .mselHop _ _ | .hkcGo _ | .hkcIgo _ | .hkcStop _
  | .hkcTimer _ | .hkcStartDelayEnd _ | .hkcConversionDone _ _ _ _ | .hkcAuxConversion _ _ _ _ | .hkcExcWrite _ _ | .hkcEnWrite _
  | .calgainWrite _ _ | .blankPin _ _ | .flsArm _ | .flashTurnOn _ _ | .flashTurnOff _ _ | .dimSlot _ _ | .flsChDisable _ _ | .flsDerate _ _ _
  | .diagWindowEnd _ _ | .flsStatusPost _ | .mismatch _ | .selfTestVerdict _ _ _ | .recoveryResume _ | .leaseRenewal _ | .leaseExpiry _
  | .coreRetest _ _ | .ctest _ | .comparatorTest _ _ | .vecKnownAnswer _ _ | .cmpKnownAnswer _ _ _ | .hkcRefCheck _ _ _ | .timeCrossCheck _ _ _
  | .alarmSummaryPost _ | .alarmTokenRefill _ _ | .criticalBufferDrain _ | .counterSnapshot _ | .snapatWrite _ | .staleCheck _ | .sealBreak _
  | .sealClose _ | .lcjChange _ _ | .rngRead _ | .rngHealthFail _ | .moultLoadDone _ _ | .moultCkptTimeout _ | .coldStart _ _ _ | .powerGood _ _
  | .brownOut _ | .railFault _ _ | .resetNAssert _ | .resetRelease _ _ | .cocoonEntryDone _ | .mboxcmd _ | .wakeatExpiry _ | .dbgLock _
  | .debugOpenExpiry _ | .queEnable _ _ | .queHeadWrite _ _ | .feSuperframe _ | .ingressFifoDrained _ _ | .csrAcknowledge _ _
  | .imageSlotWriteDone _ _ _ | .profileWriteDone _ | .lifeCycleWipeDone _ | .startUpFailure _ _ | .configurationParityError _ _
  | .supervisorFault _ | .baseplateTemperatureCheck _ _ | .ka3v3Change _ _ | .rngfailClear _ | .diagnosticPulse _ _ | .ptpLockChange _ _
  | .ethernetFrameDiscarded _ _ | .tapOperation _ _ _ => true

/-- A command is well formed. -/
abbrev Instr.WF (i : Instr) : Prop := i.wf = true

end Sys2Proof
end

