-- ==== Sys2Proof/Decode.lean ====
section
/-! DEFINITION. The words of the command table, of which no row gives bits; and the 32-bit instruction words of the cores and of the vector engine,
from Tables SEQ-3 to SEQ-6, VEC-4 and VEC-5. -/

namespace Sys2Proof

/-- The command that a word spells by the table's bits: none, since the table gives no row any bits (notes/assumptions/9.md). -/
def decodeTableWord (_nbits _w : Nat) : Option Instr := none

/-! Fields of an instruction word (Tables SEQ-3 and VEC-4). -/

/-- A register field: D is at 22, A at 18 and B at 14; in format B, A is at 22 and B at 18. -/
def fieldAt (w : BitVec 32) (lo : Nat) : Fin 16 := (w.extractLsb' lo 4).toFin

/-- OP. -/
def opOf (w : BitVec 32) : Nat := (w.extractLsb' 26 6).toNat

/-- FN. -/
def fnOf (w : BitVec 32) : Nat := (w.extractLsb' 0 6).toNat

/-- IMM18, or OFF18. -/
def immOf (w : BitVec 32) : BitVec 18 := w.extractLsb' 0 18

/-- M of format VA; format A has 0 there. -/
def mOf (w : BitVec 32) : Fin 256 := (w.extractLsb' 6 8).toFin

/-! The cores (R41, R42). -/

/-- FN of OP 0x00. -/
def aluWord (fn : Nat) (d a b : Fin 16) : Option Instr :=
  match fn with
  | 0x00 => some (.add d a b)
  | 0x01 => some (.sub d a b)
  | 0x02 => some (.and d a b)
  | 0x03 => some (.or d a b)
  | 0x04 => some (.xor d a b)
  | 0x05 => some (.shl d a b)
  | 0x06 => some (.shr d a b)
  | 0x07 => some (.sra d a b)
  | 0x08 => some (.mul d a b)
  | 0x09 => some (.mulhu d a b)
  | 0x0A => some (.min d a b)
  | 0x0B => some (.max d a b)
  | 0x0C => some (.minu d a b)
  | 0x0D => some (.maxu d a b)
  | _ => none

/-- Format A, whose bits [13:6] are 0, by OP and FN. -/
def formA (w : BitVec 32) : Option Instr :=
  let d := fieldAt w 22
  let a := fieldAt w 18
  let b := fieldAt w 14
  match opOf w, fnOf w with
  | 0x00, fn => aluWord fn d a b
  | 0x20, 0 => some (.jr a)
  | 0x24, 0 => some (.wait a)
  | 0x26, fn => if fn < 16 then some (.timedAt d a b (w.extractLsb' 0 6)) else none
  | 0x27, 0 => some (.tadd d a b)
  | 0x28, 0 => some (.lnch d a b)
  | 0x29, 0 => some (.frmStart d a b)
  | 0x29, 1 => some (.frmStop d a)
  | 0x34, 0 => some .fenceCsr
  | 0x34, 1 => some .fenceMem
  | 0x34, 2 => some .fenceQ
  | 0x34, 3 => some .fenceAll
  | 0x39, 0 => some (.eret d a b)
  | 0x3A, 0 => some (.idle d a)
  | 0x3B, 0 => some .ckpt
  | _, _ => none

/-- An instruction of the cores, if its OP and FN are assigned and every bit that must be 0 is 0 (Tables SEQ-3 to SEQ-6). -/
def coreForm (w : BitVec 32) : Option Instr :=
  let d := fieldAt w 22
  let a := fieldAt w 18
  let imm := immOf w
  match opOf w with
  | 0x01 => some (.addi d a imm)
  | 0x02 => some (.andi d a imm)
  | 0x03 => some (.ori d a imm)
  | 0x04 => some (.xori d a imm)
  | 0x05 => if imm.toNat < 64 then some (.shli d a imm) else none
  | 0x06 => if imm.toNat < 64 then some (.shri d a imm) else none
  | 0x07 => if imm.toNat < 64 then some (.srai d a imm) else none
  | 0x08 => some (.lui d (w.extractLsb' 0 22))
  | 0x0C => some (.ldl d a imm)
  | 0x0D => some (.stl d a imm)
  | 0x0E => some (.ld d a imm)
  | 0x0F => some (.st d a imm)
  | 0x10 => some (.ldw d a imm)
  | 0x11 => some (.stw d a imm)
  | 0x12 => some (.csrr d a imm)
  | 0x13 => some (.csrw d a imm)
  | 0x14 => if imm.toNat ≤ 4 then some (.mfs d a imm) else none
  | 0x15 => if imm.toNat = 2 then some (.mts d a imm) else none
  | 0x18 => some (.beq d a imm)
  | 0x19 => some (.bne d a imm)
  | 0x1A => some (.blt d a imm)
  | 0x1B => some (.bge d a imm)
  | 0x1C => some (.bltu d a imm)
  | 0x1D => some (.bgeu d a imm)
  | 0x1E => some (.j (w.extractLsb' 0 26))
  | 0x1F => some (.jal (w.extractLsb' 0 26))
  | 0x25 => some (.waitc imm)
  | 0x2C => if imm.toNat < 128 then some (.post d a imm) else none
  | 0x2D => if imm.toNat < 128 then some (.postR d a imm) else none
  | 0x2E => if imm.toNat < 128 then some (.take d a imm) else none
  | 0x30 => if imm.toNat < 128 then some (.vjob d a imm) else none
  | 0x38 => if w.extractLsb' 16 10 = 0 then some (.trap (w.extractLsb' 0 26)) else none
  | _ => if mOf w = 0 then formA w else none

/-- The command that an instruction word of a core spells; any other word is an illegal instruction (R41). -/
def coreWord (w : BitVec 32) : Instr := (coreForm w).getD (.illegalInstruction w)

/-! The vector engine (R163, R164). -/

/-- Format VL: MEM, PI and BR, with 0 in [5:0]. -/
def formVL (op : Nat) (w : BitVec 32) : Option Instr :=
  let d := fieldAt w 22
  let a := fieldAt w 18
  let b := fieldAt w 14
  let mem : Fin 4 := (w.extractLsb' 12 2).toFin
  let pi := w.getLsbD 11
  let br : Fin 32 := (w.extractLsb' 6 5).toFin
  if fnOf w ≠ 0 then none
  else match op with
  | 0x21 => some (.vld d a b mem pi br)
  | 0x22 => some (.vst d a b mem pi br)
  | 0x23 => some (.vlw d a b mem pi br)
  | _ => none

/-- Format VA, by OP and FN. -/
def formVA (op : Nat) (w : BitVec 32) : Option Instr :=
  let d := fieldAt w 22
  let a := fieldAt w 18
  let b := fieldAt w 14
  let m := mOf w
  match op, fnOf w with
  | 0x16, 0x00 => some (.vadd d a b m)
  | 0x16, 0x01 => some (.vsub d a b m)
  | 0x16, 0x02 => some (.vmul d a b m)
  | 0x16, 0x03 => some (.vmac d a b m)
  | 0x16, 0x04 => some (.vmsu d a b m)
  | 0x16, 0x05 => some (.vpwr d a b m)
  | 0x16, 0x06 => some (.vclr d m)
  | 0x16, 0x07 => some (.vrd d a m)
  | 0x16, 0x08 => some (.vbf d a b m)
  | 0x16, 0x09 => some (.vbfx d a b m)
  | 0x16, 0x0A => some (.vperm d a b m)
  | 0x16, 0x0B => some (.vsplat d a m)
  | 0x17, 0x00 => some (.vbexp d a m)
  | 0x17, 0x01 => some (.vstage d m)
  | 0x17, 0x02 => some (.vsclr m)
  | 0x17, 0x03 => some (.vmx a b m)
  | 0x17, 0x04 => some (.vmn a b m)
  | 0x17, 0x05 => some (.vmxr d a m)
  | 0x17, 0x06 => some (.vmnr d a m)
  | _, _ => none

/-- An instruction of Table VEC-5. -/
def vecForm (w : BitVec 32) : Option Instr :=
  match opOf w with
  | 0x21 => formVL 0x21 w
  | 0x22 => formVL 0x22 w
  | 0x23 => formVL 0x23 w
  | 0x16 => formVA 0x16 w
  | 0x17 => formVA 0x17 w
  | 0x2A => some (.vloop (fieldAt w 18) (immOf w))
  | 0x2B => if fnOf w = 0 ∧ mOf w = 0 then some (.vdone (fieldAt w 18)) else none
  | _ => none

/-- The command that an instruction word of an SV kernel spells: one of Table VEC-5, else a scalar one, which is ILLEGAL where R163 does not list its
encoding. -/
def svWord (w : BitVec 32) : Instr := (vecForm w).getD (.svScalarInstr w)

end Sys2Proof
end

