-- ==== Sys2Proof/Config.lean ====
section
/-! DEFINITION. What the spec leaves to one implementation, and the free values. Each is an opaque constant: nothing
in Lean can evaluate it, so a claim holds whatever it is (notes/assumptions/2.md and 3.md). -/

namespace Sys2Proof.Config

/-- The factory, MRAM or fuse value of the CSR at an address, where the register tables give "Factory", "MRAM",
"Fuses", "From image" or "Kept" in place of a reset value (notes/assumptions/2.md). -/
opaque factory : Nat → Word

/-- The `n`-th free value: a number the spec does not state, fresh each time (notes/assumptions/3.md). -/
opaque freeNat : Nat → Nat

/-- Base and size of the space in which the records of a queue lie whose region the spec does not give. -/
opaque recordBase : Nat → Nat
opaque recordSize : Nat → Nat

/-- Tap `i` of the first half of the factory response PRESET of Table STR-2, in units of 2^-23: the spec gives the response, not the taps. -/
opaque presetTap : Nat → Nat → Int

/-- Sum of the taps of a preset in units of 2^-23, which R181 bounds to 1 within 0.01 dB; the model holds it there. -/
opaque presetSum : Nat → Int

/-- Time in ps that the validation of a staged map takes, which R177 bounds to 2 us; the model holds it there. -/
opaque mapCommitTime : Nat

/-- The error of arg() at a value, in units of 2^-16 rad: R123 bounds it to 2, and the model holds it there. -/
opaque argErr : Cx → Int

/-- arg() of 0 in units of 2^-16 rad, brought onto [-pi, pi): R123 states none. -/
opaque arg0 : Int

/-- Word `i` of the factory bank of filter FILT, laid out as R108 lays out staging words: the spec gives the responses of Tables RCV-3 and
RCV-4, not the taps. -/
opaque factoryTap : Nat → Nat → Int

/-- Tap `k`, from -32 to 32, of the fractional-delay interpolator of R100 for `m` sixty-fourths of a sample: the spec bounds its error. -/
opaque fracTap : Nat → Int → Rat

/-- Phase in turns of the oscillator that mixes a slot (0 to 3) or the DTS window (4) down, at position 0 of the launch with the number given. -/
opaque ncoPhase : Nat → Nat → Rat

/-- Amplitude of a generated matched-filter set against sum |h|^2 = 1, from ENTA, ENTB and WIN; R106 allows 0.1 dB either way, and the model
holds it there. -/
opaque mfGain : Word → Word → Nat → Rat

/-- Codes per unit of the filter output that SRC 2 to 4 and the staged launches carry (R117, R145). -/
opaque rawScale : Rat

/-- The input delay in ps of a path into a TDC unit (R275): paths 0 to 3 the selections of STARTSEL and STOPSEL, 4 + 2i and 5 + 2i the rising and falling
edge of TRIG_IN i, 12 and 13 those of the patrol, 14 and 15 those of the launch monitor. -/
opaque inputDelay : Nat → Nat → BitVec 16

/-- Launches that FIBRECAL makes in each LO window. -/
opaque fibreLaunches : Nat

/-- The measured preamplifier gain of R134 in quarters of a dB. -/
opaque preampGain : Int

/-- The filtered offset of R264 in ps from the previous one, a new offset and TIM.SERVO.BW: the spec gives the loop's kind and bandwidth. -/
opaque servoTheta : Int → Int → Nat → Int

/-- The frequency correction of R264 in 10^-12 from the same values. -/
opaque servoFreq : Int → Int → Nat → Int

/-- The factory scaling of internal housekeeping channel `c` applied to a corrected code (R355): the spec gives the units, not the scale. -/
opaque hkcScale : Nat → Int → Int


/-- What the DTS function has left in a reserved element of X, Y or Z (memory 0 to 2), by the number of the job's free value (R160). -/
opaque dtsElem : Nat → Nat → Nat → Nat

/-- The 18-bit part that vlw gives for an exact part beyond 18 bits: Table VEC-5 names no limit there. -/
opaque vlwOver : Int → BitVec 18

/-- Beat `k` of the PRBS-31 pattern of a training row on the 32 data bits (Table MEM-3): the spec gives neither its start nor its order. -/
opaque prbs31 : Nat → BitVec 32

/-- The public point of K0, the Farind image key (Table SEC-2). -/
opaque farindKey : Nat × Nat

/-- FAB.PORT[p].RXPWR while light arrives: a port and a time give the monitor's reading (R283, Table FAB-11). -/
opaque rxPower : Nat → Nat → BitVec 16

end Sys2Proof.Config
end

