-- ==== Sys2Proof/Machine/Operands.lean ====
section
/-! DEFINITION. Bit fields, stamps, integer helpers and result-word forms that the meanings share.

Register fields are read and written as numbers: `fld w hi lo` is the field the spec writes `[hi:lo]`. -/

namespace Sys2Proof.Machine

/-- The field `[hi:lo]` of a number. -/
def nfld (n hi lo : Nat) : Nat := (n >>> lo) % 2 ^ (hi + 1 - lo)

/-- The number with its field `[hi:lo]` replaced by `v` (modulo the field's width). -/
def nset (n hi lo v : Nat) : Nat :=
  (n >>> (hi + 1)) <<< (hi + 1) + (v % 2 ^ (hi + 1 - lo)) <<< lo + n % 2 ^ lo

/-- The mask whose ones are the field `[hi:lo]`. -/
def fb (hi lo : Nat) : Nat := (2 ^ (hi + 1 - lo) - 1) <<< lo

/-- The field `[hi:lo]` of a register. -/
def fld (w : Word) (hi lo : Nat) : Nat := nfld w.toNat hi lo

/-- Bit `i` of a register. -/
def bit (w : Word) (i : Nat) : Bool := w.toNat.testBit i

/-- A register with its field `[hi:lo]` replaced. -/
def setFld (w : Word) (hi lo v : Nat) : Word := BitVec.ofNat 32 (nset w.toNat hi lo v)

/-- A register with bit `i` replaced. -/
def setBit (w : Word) (i : Nat) (b : Bool) : Word := setFld w i i (if b then 1 else 0)

/-- A Boolean as a bit. -/
def b2n (b : Bool) : Nat := if b then 1 else 0

/-- The two's complement reading of an unsigned number of `w` bits. -/
def toSigned (w n : Nat) : Int := if n % 2 ^ w < 2 ^ (w - 1) then (n % 2 ^ w : Nat) else ((n % 2 ^ w : Nat) : Int) - (2 ^ w : Nat)

/-- The `w`-bit two's complement code of an integer. -/
def ofSigned (w : Nat) (z : Int) : Nat := (z % ((2 ^ w : Nat) : Int)).toNat

/-- A signed field of a register. -/
def sfld (w : Word) (hi lo : Nat) : Int := toSigned (hi + 1 - lo) (fld w hi lo)

/-- A value held between two limits. -/
def clampN (lo hi n : Nat) : Nat := if n < lo then lo else if hi < n then hi else n

/-- An integer held between two limits. -/
def clampZ (lo hi z : Int) : Int := if z < lo then lo else if hi < z then hi else z

/-- Saturation of a signed value to `w` bits. -/
def satZ (w : Nat) (z : Int) : Int := clampZ (-(2 ^ (w - 1) : Nat)) ((2 ^ (w - 1) : Nat) - 1) z

/-- A count that saturates at `top`. -/
def satAdd (top n k : Nat) : Nat := if top < n + k then top else n + k

/-- Division rounded to the nearest integer, halves away from zero (R165's rounding of a scaled value). -/
def roundDiv (n : Int) (d : Nat) : Int :=
  if d = 0 then n else if 0 ≤ n then (n + (d / 2 : Nat)) / (d : Nat) else -((-n + (d / 2 : Nat)) / (d : Nat))

/-- The distance of two integers. -/
def absDiff (a b : Int) : Nat := (a - b).natAbs

/-- Picoseconds in a second. -/
def psPerSec : Nat := 1000000000000

/-- One microsecond in picoseconds. -/
def us : Nat := 1000000

/-- One millisecond in picoseconds. -/
def ms : Nat := 1000000000

/-- One tick of the TIME island, 3.125 ns, in picoseconds (Table GLB-7). -/
def tick : Nat := 3125

/-- The seconds field of a short stamp, `[63:40]`. -/
def stSec (s : Nat) : Nat := (s >>> 40) % 2 ^ 24

/-- The picoseconds field of a short stamp, `[39:0]`. -/
def stPsec (s : Nat) : Nat := s % 2 ^ 40

/-- The short stamp of a fabric time in picoseconds (Table SEQ-1, R262). -/
def stampOf (t : Nat) : Nat := ((t / psPerSec) % 2 ^ 24) <<< 40 + t % psPerSec

/-- The short stamp of an instant that may lie before the epoch: its seconds and picoseconds carry as R44 says. -/
def stampZ (t : Int) : Nat :=
  ((t / (psPerSec : Nat)) % ((2 ^ 24 : Nat) : Int)).toNat <<< 40 + (t % (psPerSec : Nat)).toNat

/-- The full second of an instant, modulo 2^32. -/
def fullSecZ (t : Int) : Nat := ((t / (psPerSec : Nat)) % ((2 ^ 32 : Nat) : Int)).toNat

/-- `ds` of R43: the seconds from the stamp to now, modulo 2^24, read as a signed 24-bit value. -/
def stampDs (now s : Nat) : Int :=
  toSigned 24 ((now / psPerSec) % 2 ^ 24 + 2 ^ 24 - stSec s)

/-- R43: a stamp counts as reached. -/
def stampReached (now s : Nat) : Bool :=
  let ds := stampDs now s
  decide (0 < ds) || (ds == 0 && decide (stPsec s ≤ now % psPerSec))

/-- The signed distance in picoseconds from now to a stamp, on the stamp's nearer side (R43). -/
def stampDelta (now s : Nat) : Int :=
  -(stampDs now s) * (psPerSec : Nat) + (stPsec s : Nat) - ((now % psPerSec : Nat) : Int)

/-- The fabric time of a stamp on its nearer side, never below 0. -/
def stampTime (now s : Nat) : Nat := ((now : Int) + stampDelta now s).toNat

/-- R44: a stamp plus signed picoseconds, with carry at 10^12 ps and seconds modulo 2^24. -/
def stampAdd (s : Nat) (d : Int) : Nat :=
  let t : Int := ((stSec s * psPerSec + stPsec s : Nat) : Int) + d
  let m := (t % ((2 ^ 24 * psPerSec : Nat) : Int)).toNat
  (m / psPerSec) <<< 40 + m % psPerSec

/-- The first 3.125 ns tick at or after a time. -/
def nextTick (t : Nat) : Nat := ((t + tick - 1) / tick) * tick

/-- The element of a list at an index, or a default. -/
def nth {α : Type} (l : List α) (i : Nat) (d : α) : α := (l[i]?).getD d

/-- A list with the element at an index changed. -/
def upd {α : Type} (l : List α) (i : Nat) (f : α → α) : List α := l.modify i f

/-- A list cut into pieces of at most `n`, with fuel. -/
def chunks {α : Type} : Nat → Nat → List α → List (List α)
  | 0, _, _ => []
  | f + 1, n, l => if l.isEmpty then [] else l.take (max 1 n) :: chunks f n (l.drop (max 1 n))

/-- Run an update only when a condition holds. -/
def cond {α : Type} (c : Bool) (f : α → α) (a : α) : α := if c then f a else a

/-- Insertion in an order; an element goes behind its equals. -/
def insBy {α : Type} (le : α → α → Bool) (x : α) : List α → List α
  | [] => [x]
  | y :: t => if le y x then y :: insBy le x t else x :: y :: t

/-- A list sorted stably. -/
def sortBy {α : Type} (le : α → α → Bool) (l : List α) : List α := l.foldl (fun a x => insBy le x a) []

/-- The element of a vector at an index, or a default. -/
def vget {α : Type} {n : Nat} (v : Vector α n) (i : Nat) (d : α) : α := (v[i]?).getD d

/-- A vector with the element at an index changed. -/
def vmod {α : Type} {n : Nat} (v : Vector α n) (i : Nat) (f : α → α) : Vector α n := v.mapIdx (fun j x => if j = i then f x else x)

/-- Little-endian bytes of a number. -/
def leBytes : Nat → Nat → List Byte
  | 0, _ => []
  | k + 1, n => BitVec.ofNat 8 n :: leBytes k (n / 256)

/-- The number that little-endian bytes spell. -/
def leNat : List Byte → Nat
  | [] => 0
  | b :: bs => b.toNat + 256 * leNat bs

end Sys2Proof.Machine
end

