-- ==== Sys2Proof/Machine/Dsp.lean ====
section
/-! DEFINITION. The arithmetic of the receive chain: complex numbers, pi, sine and cosine, square root and argument. The spec describes values,
not number formats: they are rationals, and the irrational ones are taken to more than 15 decimal places (notes/assumptions/13.md). -/

namespace Sys2Proof

/-! Complex arithmetic. -/

def Cx.zero : Cx := ⟨0, 0⟩
def Cx.one : Cx := ⟨1, 0⟩
def Cx.add (a b : Cx) : Cx := ⟨a.re + b.re, a.im + b.im⟩
def Cx.sub (a b : Cx) : Cx := ⟨a.re - b.re, a.im - b.im⟩
def Cx.mul (a b : Cx) : Cx := ⟨a.re * b.re - a.im * b.im, a.re * b.im + a.im * b.re⟩
def Cx.conj (a : Cx) : Cx := ⟨a.re, -a.im⟩
def Cx.scale (k : Rat) (a : Cx) : Cx := ⟨k * a.re, k * a.im⟩
def Cx.normSq (a : Cx) : Rat := a.re * a.re + a.im * a.im

/-- Sum of `f 0` to `f (n - 1)`. -/
def Cx.sum (n : Nat) (f : Nat → Cx) : Cx := (List.range n).foldl (fun a k => a.add (f k)) .zero

end Sys2Proof

namespace Sys2Proof.Machine

/-- Sum of `f 0` to `f (n - 1)`. -/
def ratSum (n : Nat) (f : Nat → Rat) : Rat := (List.range n).foldl (fun a k => a + f k) 0

/-- pi to 39 decimal places (notes/assumptions/12.md). -/
def piR : Rat := 3141592653589793238462643383279502884197 / 1000000000000000000000000000000000000000

/-- The square root of a value that is not negative, to 60 binary places of its denominator. -/
def sqrtR (x : Rat) : Rat :=
  if x ≤ 0 then 0 else ((Nat.sqrt (x.num.toNat * x.den * 2 ^ 120) : Nat) : Rat) / ((x.den * 2 ^ 60 : Nat) : Rat)

/-- exp(j x): 40 terms of the series, x brought onto [-pi, pi). -/
def cisRad (x : Rat) : Cx :=
  let y := x - 2 * piR * ((x / (2 * piR) + 1 / 2).floor : Int)
  let next (t : Cx) (n : Nat) : Cx := Cx.scale (y / ((n + 1 : Nat) : Rat)) ⟨-t.im, t.re⟩
  ((List.range 40).foldl (fun (a : Cx × Cx) n => (a.1.add a.2, next a.2 n)) (Cx.zero, Cx.one)).1

/-- exp(j 2 pi t). -/
def cisTurn (t : Rat) : Cx := cisRad (2 * piR * t)

/-- exp(-j p) for a phase in units of 2^-16 rad. -/
def cisNeg (p : Int) : Cx := cisRad (-(p : Rat) / 65536)

/-- unit(x) of R123: x/|x|, or 1 when x is 0. -/
def unit (a : Cx) : Cx := if a = .zero then .one else Cx.scale (1 / sqrtR (Cx.normSq a)) a

/-- wrap() of R123: a phase in units of 2^-16 rad brought onto [-pi, pi), rounded to a whole unit. -/
def wrap (x : Int) : Int :=
  let turn : Rat := 2 * piR * 65536
  ((x : Rat) - turn * (((x : Rat) / turn + 1 / 2).floor : Int) + 1 / 2).floor

/-- The largest n, from `lo` on and below `lo + 2^k`, at which a test that fails for good after a point still holds. -/
def lastTrue (test : Int → Bool) : Nat → Int → Int
  | 0, lo => lo
  | k + 1, lo => if test (lo + (2 ^ k : Nat)) then lastTrue test k (lo + (2 ^ k : Nat)) else lastTrue test k lo

/-- The angle in [0, pi] of a value with im ≥ 0, in whole units of 2^-16 rad, rounded down. -/
def angleUp (v : Cx) : Int :=
  let test (w : Int) : Bool :=
    let c := cisRad ((w : Rat) / 65536)
    decide (w ≤ 205887) && decide (0 ≤ c.re * v.im - c.im * v.re)
  lastTrue test 18 0

/-- arg() of R123 in units of 2^-16 rad: the angle rounded down, with an error of at most 2 units from the true angle that is left free. -/
def argR (v : Cx) : Int :=
  if v = .zero then wrap Config.arg0
  else (if 0 ≤ v.im then angleUp v else -angleUp (Cx.conj v) - 1) + clampZ (-1) 2 (Config.argErr v)

/-- Rounding to the nearest integer, halves away from zero. -/
def ratAway (x : Rat) : Int := if 0 ≤ x then (x + 1 / 2).floor else -((-x + 1 / 2).floor)

/-- A value in sixteen bits, and whether it was held at a limit. -/
def sat16 (x : Rat) : Nat × Bool :=
  let n := ratAway x
  let m := clampZ (-32767) 32767 n
  (ofSigned 16 m, m != n)

/-- The response of an interpolator of 65 taps to a signal of `f` turns a sample. -/
def tapResponse (t : Int → Rat) (f : Rat) : Cx :=
  Cx.sum 65 (fun k => Cx.scale (t ((k : Int) - 32)) (cisTurn (f * (((k : Int) - 32 : Int) : Rat))))

/-- The interpolator's error is at most -60 dB relative to the signal from 0 to 800 MHz, judged every 2 MHz, for a point `m` sixty-fourths on (R100,
notes/assumptions/167.md). -/
def fracOk (m : Nat) (t : Int → Rat) : Bool :=
  (List.range 401).all (fun j =>
    let f : Rat := ((j : Nat) : Rat) / 1000
    decide (Cx.normSq (Cx.sub (tapResponse t f) (cisTurn (f * ((m : Nat) : Rat) / 64))) ≤ 1 / 1000000))

/-- An interpolator that meets the bound: a sinc under a Blackman window. -/
def fracSinc (m : Nat) (k : Int) : Rat :=
  let x : Rat := (k : Rat) - ((m : Nat) : Rat) / 64
  (cisTurn (x / 2)).im / (piR * x) * (42 / 100 + (cisTurn (x / 66)).re / 2 + 8 / 100 * (cisTurn (x / 33)).re)

/-- Tap `k` of the interpolator: a free value where the taps meet the bound of R100. -/
def fracTap (m : Nat) (k : Int) : Rat := if fracOk m (Config.fracTap m) then Config.fracTap m k else fracSinc m k

/-- A sampled signal taken at a point `d` sixty-fourths after index `n` (R100). -/
def fracDelay (f : Int → Rat) (n d : Int) : Rat :=
  let i := d / 64
  let m := (d % 64).toNat
  if m = 0 then f (n + i) else ratSum 65 (fun k => fracTap m ((k : Int) - 32) * f (n + i + ((k : Int) - 32)))

end Sys2Proof.Machine
end

