-- ==== Sys2Proof/Machine/Flags.lean ====
section
/-! DEFINITION. The scalar arithmetic of the Shaham instruction set and its flags (Tables SEQ-2 and SEQ-4). The cores and the
vector engine share it. -/

namespace Sys2Proof.Machine

/-- Sign extension of an 18-bit immediate. -/
def sext18 (i : BitVec 18) : DWord := i.signExtend 64

/-- Zero extension of an 18-bit immediate. -/
def zext18 (i : BitVec 18) : DWord := i.zeroExtend 64

/-- The value of an OP 0x00 instruction by its FN. -/
def alu (fn : Nat) (a b : DWord) : DWord :=
  match fn with
  | 0 => a + b
  | 1 => a - b
  | 2 => a &&& b
  | 3 => a ||| b
  | 4 => a ^^^ b
  | 5 => a <<< (b.toNat % 64)
  | 6 => a >>> (b.toNat % 64)
  | 7 => a.sshiftRight (b.toNat % 64)
  | 8 => a * b
  | 9 => BitVec.ofNat 64 (a.toNat * b.toNat / 2 ^ 64)
  | 10 => if a.slt b then a else b
  | 11 => if a.slt b then b else a
  | 12 => if a.ult b then a else b
  | _ => if a.ult b then b else a

/-- Carry out of bit 63 of a sum. -/
def addCarry (a b : DWord) : Bool := decide (2 ^ 64 ≤ a.toNat + b.toNat)

/-- Borrow of a difference. -/
def subBorrow (a b : DWord) : Bool := a.ult b

/-- Signed overflow of a sum. -/
def addOver (a b : DWord) : Bool := a.msb == b.msb && (a + b).msb != a.msb

/-- Signed overflow of a difference. -/
def subOver (a b : DWord) : Bool := a.msb != b.msb && (a - b).msb != a.msb

/-- FLAGS with one bit replaced. -/
def setFlag (f : DWord) (i : Nat) (b : Bool) : DWord := BitVec.ofNat 64 (nset f.toNat i i (b2n b))

/-- Z and N after a result. -/
def flagsZN (f r : DWord) : DWord := setFlag (setFlag f 0 (r == 0)) 1 r.msb

/-- C and V after an instruction that sets them. -/
def flagsCV (f : DWord) (c v : Bool) : DWord := setFlag (setFlag f 2 c) 3 v

/-- FLAGS after an OP 0x00 instruction: add and sub set Z, N, C and V; and, or and xor clear C and V; the others set Z and N. -/
def aluFlags (fn : Nat) (f a b : DWord) : DWord :=
  let r := alu fn a b
  match fn with
  | 0 => flagsCV (flagsZN f r) (addCarry a b) (addOver a b)
  | 1 => flagsCV (flagsZN f r) (subBorrow a b) (subOver a b)
  | 2 => flagsCV (flagsZN f r) false false
  | 3 => flagsCV (flagsZN f r) false false
  | 4 => flagsCV (flagsZN f r) false false
  | _ => flagsZN f r

/-- FLAGS.E after an instruction that returns a status (R49). -/
def flagsE (f : DWord) (status : Nat) : DWord := setFlag f 6 (status != 0)

/-- Is the condition of a branch met? 0 beq, 1 bne, 2 blt, 3 bge, 4 bltu, 5 bgeu. -/
def branchTaken (k : Nat) (a b : DWord) : Bool :=
  match k with
  | 0 => a == b
  | 1 => a != b
  | 2 => a.slt b
  | 3 => !a.slt b
  | 4 => a.ult b
  | _ => !a.ult b

/-- A branch target: the program counter plus four times a signed offset. -/
def branchTarget (pc : Nat) (off : Int) : Int := (pc : Int) + 4 * off

/-- CORE cycles of an OP 0x00 instruction. -/
def aluCycles (fn : Nat) : Nat := if fn = 8 ∨ fn = 9 then 3 else 1

end Sys2Proof.Machine
end

