-- ==== Sys2Proof/Machine/CsrNames.lean ====
section
/-! DEFINITION. The CSR addresses under the names of Table GLB-25: block, register and member, joined by underscores
("TRG.CLS[c].HOLD" is `TRG_CLS_HOLD c`). -/

namespace Sys2Proof.Machine.Csr

abbrev GLB_ID : Nat := 0x0
abbrev GLB_REV : Nat := 0x4
abbrev GLB_FEAT : Nat := 0x8
abbrev GLB_LOT : Nat := 0x10
abbrev GLB_LOTRPT : Nat := 0x14
abbrev GLB_STATE : Nat := 0x20
abbrev SEQ_TVEC : Nat := 0x10000
abbrev SEQ_EPC : Nat := 0x10004
abbrev SEQ_CAUSE : Nat := 0x10008
abbrev SEQ_TVAL_LO : Nat := 0x1000C
abbrev SEQ_TVAL_HI : Nat := 0x10010
abbrev SEQ_TSTAT : Nat := 0x10014
abbrev SEQ_IDLEMASK (j : Nat) : Nat := 0x10020 + 0x4 * j
abbrev SEQ_TACT (k : Nat) : Nat := 0x10040 + 0x4 * k
abbrev SEQ_TACTSTAT : Nat := 0x10080
abbrev SEQ_CMDREJ : Nat := 0x10090
abbrev SEQ_CMDCNT : Nat := 0x10094
abbrev SEQ_GATEBUF_LO : Nat := 0x100A0
abbrev SEQ_GATEBUF_HI : Nat := 0x100A4
abbrev LCH_PLAN : Nat := 0x20000
abbrev LCH_RANGE : Nat := 0x20004
abbrev LCH_ILV : Nat := 0x20008
abbrev LCH_LASER : Nat := 0x2000C
abbrev LCH_STAT : Nat := 0x20010
abbrev LCH_PLANSTAT : Nat := 0x20014
abbrev LCH_SKIP : Nat := 0x20018
abbrev LCH_SENTDLY : Nat := 0x2001C
abbrev LCH_MON : Nat := 0x20020
abbrev LCH_MONRES : Nat := 0x20024
abbrev LCH_MONFLG : Nat := 0x20028
abbrev LCH_MONNOM : Nat := 0x2002C
abbrev LCH_ZDLY : Nat := 0x20030
abbrev LCH_OPEN : Nat := 0x20040
abbrev LCH_OPENSTAT : Nat := 0x20044
abbrev LCH_SENT : Nat := 0x20050
abbrev LCH_CONNPOS (p : Nat) : Nat := 0x20060 + 0x4 * p
abbrev LCH_ENTA (k : Nat) : Nat := 0x20100 + 0x10 * k
abbrev LCH_ENTB (k : Nat) : Nat := 0x20104 + 0x10 * k
abbrev LCH_ENTC (k : Nat) : Nat := 0x20108 + 0x10 * k
abbrev RCV_CTL : Nat := 0x30000
abbrev RCV_STAT : Nat := 0x30004
abbrev RCV_RXDLY : Nat := 0x30008
abbrev RCV_ADCPH : Nat := 0x3000C
abbrev RCV_IQA (p : Nat) : Nat := 0x30010 + 0x10 * p
abbrev RCV_IQB (p : Nat) : Nat := 0x30014 + 0x10 * p
abbrev RCV_IQC (p : Nat) : Nat := 0x30018 + 0x10 * p
abbrev RCV_POLDLY : Nat := 0x30030
abbrev RCV_LOSB : Nat := 0x30040
abbrev RCV_PCCTL : Nat := 0x30050
abbrev RCV_SWAP : Nat := 0x30060
abbrev RCV_SWAPPEND : Nat := 0x30064
abbrev RCV_FADING : Nat := 0x30068
abbrev RCV_BANK : Nat := 0x3006C
abbrev RCV_SWAPREPL : Nat := 0x30070
abbrev RCV_CSADDR : Nat := 0x30078
abbrev RCV_CSDATA : Nat := 0x3007C
abbrev RCV_CLIP (l : Nat) : Nat := 0x30080 + 0x4 * l
abbrev RCV_RAW : Nat := 0x300A0
abbrev RCV_RAWSTART : Nat := 0x300A4
abbrev RCV_RAWLEN : Nat := 0x300A8
abbrev RCV_RAWCNT : Nat := 0x300AC
abbrev RCV_RAWBUF_LO : Nat := 0x300B0
abbrev RCV_RAWBUF_HI : Nat := 0x300B4
abbrev RCV_RAWSIZE : Nat := 0x300B8
abbrev RCV_RAWSTAT : Nat := 0x300BC
abbrev PHS_CTL : Nat := 0x40000
abbrev PHS_STAT : Nat := 0x40004
abbrev PHS_GIDX : Nat := 0x40008
abbrev PHS_XI : Nat := 0x4000C
abbrev PHS_SCALE : Nat := 0x40010
abbrev PHS_GAUGE : Nat := 0x40020
abbrev PHS_QCFG : Nat := 0x40024
abbrev PHS_SENTCHK : Nat := 0x40030
abbrev PHS_SENTTOL : Nat := 0x40034
abbrev PHS_SENTRES : Nat := 0x40038
abbrev PHS_SENTFLG : Nat := 0x4003C
abbrev PHS_COILREF : Nat := 0x40040
abbrev PHS_HELD : Nat := 0x40050
abbrev PHS_REACQ : Nat := 0x40054
abbrev PHS_GAPS : Nat := 0x40058
abbrev PHS_LIMITS : Nat := 0x4005C
abbrev DTS_CTL : Nat := 0x50000
abbrev DTS_STAT : Nat := 0x50004
abbrev DTS_ACC : Nat := 0x50008
abbrev DTS_HOP : Nat := 0x5000C
abbrev DTS_FIT : Nat := 0x50010
abbrev DTS_COILNU : Nat := 0x50014
abbrev DTS_COILCT : Nat := 0x50018
abbrev DTS_REFRES : Nat := 0x5001C
abbrev DTS_REFFLG : Nat := 0x50020
abbrev DTS_BUF_LO : Nat := 0x50030
abbrev DTS_BUF_HI : Nat := 0x50034
abbrev DTS_PROFNUM : Nat := 0x50038
abbrev DTS_SKIP : Nat := 0x5003C
abbrev DTS_HOPDISC : Nat := 0x50040
abbrev DTS_WIN (w : Nat) : Nat := 0x50080 + 0x4 * w
abbrev DTS_FIBA (p : Nat) : Nat := 0x500C0 + 0x10 * p
abbrev DTS_FIBB (p : Nat) : Nat := 0x500C4 + 0x10 * p
abbrev DTS_FIBC (p : Nat) : Nat := 0x500C8 + 0x10 * p
abbrev DTS_FIBD (p : Nat) : Nat := 0x500CC + 0x10 * p
abbrev VEC_CTL : Nat := 0x60000
abbrev VEC_JOBMAX : Nat := 0x60008
abbrev VEC_STAT : Nat := 0x60004
abbrev VEC_JOBS : Nat := 0x6000C
abbrev VEC_BUSY_LO : Nat := 0x60010
abbrev VEC_BUSY_HI : Nat := 0x60014
abbrev VEC_ECC : Nat := 0x60018
abbrev VEC_DTSCYC : Nat := 0x6001C
abbrev STR_CTL : Nat := 0x70000
abbrev STR_STAT : Nat := 0x70004
abbrev STR_BLK : Nat := 0x70008
abbrev STR_NCHS : Nat := 0x7000C
abbrev STR_DCTL : Nat := 0x70010
abbrev STR_UCFG : Nat := 0x70020
abbrev STR_CSADDR : Nat := 0x70024
abbrev STR_CSDATA : Nat := 0x70028
abbrev STR_FBUF_LO : Nat := 0x70030
abbrev STR_FBUF_HI : Nat := 0x70034
abbrev STR_FBUFSIZE : Nat := 0x70038
abbrev STR_SBUF_LO : Nat := 0x70040
abbrev STR_SBUF_HI : Nat := 0x70044
abbrev STR_SBUFSIZE : Nat := 0x70048
abbrev STR_MAPADDR : Nat := 0x70050
abbrev STR_MAPDATA : Nat := 0x70054
abbrev STR_MAPCOMMIT : Nat := 0x70058
abbrev STR_MAPVALID : Nat := 0x7005C
abbrev STR_MAPCNT (m : Nat) : Nat := 0x70060 + 0x4 * m
abbrev STR_FILLS : Nat := 0x700A0
abbrev STR_CHLIMITS : Nat := 0x700A4
abbrev STR_REACQ : Nat := 0x700A8
abbrev FEL_CTL : Nat := 0x80000
abbrev FEL_LINKEN_LO : Nat := 0x80004
abbrev FEL_LINKEN_HI : Nat := 0x80008
abbrev FEL_STAT : Nat := 0x8000C
abbrev FEL_FCMD : Nat := 0x80010
abbrev FEL_FCDROP : Nat := 0x80014
abbrev FEL_SCCMD : Nat := 0x80020
abbrev FEL_SCWDATA : Nat := 0x80024
abbrev FEL_SCRES : Nat := 0x80028
abbrev FEL_SCFLG : Nat := 0x8002C
abbrev FEL_SCRDATA : Nat := 0x80030
abbrev FEL_ZSCTL : Nat := 0x80040
abbrev FEL_ZSCUT : Nat := 0x80044
abbrev FEL_ZSLATE : Nat := 0x80048
abbrev FEL_ZSEARLY : Nat := 0x8004C
abbrev FEL_PATROL : Nat := 0x80050
abbrev FEL_BLK : Nat := 0x80054
abbrev FEL_LSTAT (l : Nat) : Nat := 0x81000 + 0x80 * l
abbrev FEL_LCFG (l : Nat) : Nat := 0x81004 + 0x80 * l
abbrev FEL_FINELSB (l : Nat) : Nat := 0x81008 + 0x80 * l
abbrev FEL_HITOFS (l : Nat) : Nat := 0x8100C + 0x80 * l
abbrev FEL_ASYM (l : Nat) : Nat := 0x81010 + 0x80 * l
abbrev FEL_RTT (l : Nat) : Nat := 0x81014 + 0x80 * l
abbrev FEL_RTTFLG (l : Nat) : Nat := 0x81018 + 0x80 * l
abbrev FEL_DDOWN (l : Nat) : Nat := 0x8101C + 0x80 * l
abbrev FEL_T0_LO (l : Nat) : Nat := 0x81020 + 0x80 * l
abbrev FEL_T0_HI (l : Nat) : Nat := 0x81024 + 0x80 * l
abbrev FEL_EQ (l : Nat) : Nat := 0x81028 + 0x80 * l
abbrev FEL_NCH (l : Nat) : Nat := 0x8102C + 0x80 * l
abbrev FEL_FEID_LO (l : Nat) : Nat := 0x81030 + 0x80 * l
abbrev FEL_FEID_HI (l : Nat) : Nat := 0x81034 + 0x80 * l
abbrev FEL_FEDLY (l : Nat) : Nat := 0x81038 + 0x80 * l
abbrev FEL_ZSBASE (l : Nat) : Nat := 0x8103C + 0x80 * l
abbrev FEL_HBUF_LO (l : Nat) : Nat := 0x81040 + 0x80 * l
abbrev FEL_HBUF_HI (l : Nat) : Nat := 0x81044 + 0x80 * l
abbrev FEL_HBUFSIZE (l : Nat) : Nat := 0x81048 + 0x80 * l
abbrev FEL_ERR (l : Nat) : Nat := 0x8104C + 0x80 * l
abbrev FEL_EPOCHX (l : Nat) : Nat := 0x81050 + 0x80 * l
abbrev TRG_CTL : Nat := 0x90000
abbrev TRG_STAT : Nat := 0x90004
abbrev TRG_ARM : Nat := 0x90008
abbrev TRG_ARMRES : Nat := 0x9000C
abbrev TRG_ARMSTAMP_LO : Nat := 0x90010
abbrev TRG_ARMSTAMP_HI : Nat := 0x90014
abbrev TRG_MISSED : Nat := 0x90018
abbrev TRG_LATE : Nat := 0x9001C
abbrev TRG_TRIGNUM : Nat := 0x90020
abbrev TRG_SEGLATE : Nat := 0x90024
abbrev TRG_HPLATE : Nat := 0x90028
abbrev TRG_COND_CFG (k : Nat) : Nat := 0x90040 + 0x20 * k
abbrev TRG_COND_LEVHI (k : Nat) : Nat := 0x90044 + 0x20 * k
abbrev TRG_COND_LEVLO (k : Nat) : Nat := 0x90048 + 0x20 * k
abbrev TRG_COND_HYST (k : Nat) : Nat := 0x9004C + 0x20 * k
abbrev TRG_COND_T1 (k : Nat) : Nat := 0x90050 + 0x20 * k
abbrev TRG_COND_T2 (k : Nat) : Nat := 0x90054 + 0x20 * k
abbrev TRG_COND_FIRES (k : Nat) : Nat := 0x90058 + 0x20 * k
abbrev TRG_HP_CFG (h : Nat) : Nat := 0x90240 + 0x10 * h
abbrev TRG_HP_WIN (h : Nat) : Nat := 0x90244 + 0x10 * h
abbrev TRG_HP_VAL (h : Nat) : Nat := 0x90248 + 0x10 * h
abbrev TRG_DIN (i : Nat) : Nat := 0x90300 + 0x4 * i
abbrev TRG_OUT (i : Nat) : Nat := 0x90310 + 0x4 * i
abbrev TRG_OUTDLY (i : Nat) : Nat := 0x90320 + 0x4 * i
abbrev TRG_OUTCLR : Nat := 0x90330
abbrev TRG_OUTMERGE : Nat := 0x90334
abbrev TRG_CLS_CFG (c : Nat) : Nat := 0x90400 + 0x80 * c
abbrev TRG_CLS_VETO (c : Nat) : Nat := 0x90404 + 0x80 * c
abbrev TRG_CLS_VW (c : Nat) : Nat := 0x90408 + 0x80 * c
abbrev TRG_CLS_HOLD (c : Nat) : Nat := 0x9040C + 0x80 * c
abbrev TRG_CLS_TERM (c m : Nat) : Nat := 0x90410 + 0x80 * c + 0x8 * m
abbrev TRG_CLS_TW (c m : Nat) : Nat := 0x90414 + 0x80 * c + 0x8 * m
abbrev TRG_CLS_PRE (c : Nat) : Nat := 0x90430 + 0x80 * c
abbrev TRG_CLS_POST (c : Nat) : Nat := 0x90434 + 0x80 * c
abbrev TRG_CLS_HOTIME (c : Nat) : Nat := 0x90438 + 0x80 * c
abbrev TRG_CLS_HOEVT (c : Nat) : Nat := 0x9043C + 0x80 * c
abbrev TRG_CLS_NSEG (c : Nat) : Nat := 0x90440 + 0x80 * c
abbrev TRG_CLS_RATE (c : Nat) : Nat := 0x90444 + 0x80 * c
abbrev TRG_CLS_RBUF_LO (c : Nat) : Nat := 0x90448 + 0x80 * c
abbrev TRG_CLS_RBUF_HI (c : Nat) : Nat := 0x9044C + 0x80 * c
abbrev TRG_CLS_RBUFSIZE (c : Nat) : Nat := 0x90450 + 0x80 * c
abbrev TRG_CLS_SBUF_LO (c : Nat) : Nat := 0x90454 + 0x80 * c
abbrev TRG_CLS_SBUF_HI (c : Nat) : Nat := 0x90458 + 0x80 * c
abbrev TRG_CLS_SBUFSIZE (c : Nat) : Nat := 0x9045C + 0x80 * c
abbrev TRG_CLS_FEMASK_LO (c : Nat) : Nat := 0x90460 + 0x80 * c
abbrev TRG_CLS_FEMASK_HI (c : Nat) : Nat := 0x90464 + 0x80 * c
abbrev TRG_CLS_SEGS (c : Nat) : Nat := 0x90468 + 0x80 * c
abbrev TRG_CLS_VETOED (c : Nat) : Nat := 0x9046C + 0x80 * c
abbrev TRG_CLS_AFTER (c : Nat) : Nat := 0x90470 + 0x80 * c
abbrev TRG_CLS_MISSED (c : Nat) : Nat := 0x90474 + 0x80 * c
abbrev EVB_CTL : Nat := 0xA0000
abbrev EVB_STAT : Nat := 0xA0004
abbrev EVB_LINKEN_LO : Nat := 0xA0008
abbrev EVB_LINKEN_HI : Nat := 0xA000C
abbrev EVB_FBUF_LO : Nat := 0xA0010
abbrev EVB_FBUF_HI : Nat := 0xA0014
abbrev EVB_FBUFSIZE : Nat := 0xA0018
abbrev EVB_WATER : Nat := 0xA001C
abbrev EVB_DTMO : Nat := 0xA0020
abbrev EVB_ORPHAN : Nat := 0xA0024
abbrev EVB_DROP : Nat := 0xA0028
abbrev EVB_DTMOCNT : Nat := 0xA002C
abbrev EVB_REJ : Nat := 0xA0030
abbrev EVB_STRAG : Nat := 0xA0034
abbrev EVB_STOLEN : Nat := 0xA0038
abbrev EVB_RESENT : Nat := 0xA003C
abbrev EVB_CLS_CFG (c : Nat) : Nat := 0xA0040 + 0x10 * c
abbrev EVB_CLS_WPRE (c : Nat) : Nat := 0xA0044 + 0x10 * c
abbrev EVB_CLS_WPOST (c : Nat) : Nat := 0xA0048 + 0x10 * c
abbrev EVB_DECCFG : Nat := 0xA0100
abbrev EVB_DECDW : Nat := 0xA0104
abbrev EVB_DECHOLD : Nat := 0xA0108
abbrev EVB_DECHOTIME : Nat := 0xA010C
abbrev EVB_DECSET_LO : Nat := 0xA0110
abbrev EVB_DECSET_HI : Nat := 0xA0114
abbrev EVB_DECTRIGNUM : Nat := 0xA0118
abbrev EVB_DECEPOCH : Nat := 0xA011C
abbrev EVB_DECMISSED : Nat := 0xA0120
abbrev EVB_DECLATE : Nat := 0xA0124
abbrev EVB_BLDCFG : Nat := 0xA0200
abbrev EVB_BLDTW : Nat := 0xA0204
abbrev EVB_BLDBTMO : Nat := 0xA0208
abbrev EVB_BLDBUF_LO : Nat := 0xA020C
abbrev EVB_BLDBUF_HI : Nat := 0xA0210
abbrev EVB_BLDBUFSIZE : Nat := 0xA0214
abbrev EVB_BLDEXP_LO : Nat := 0xA0218
abbrev EVB_BLDEXP_HI : Nat := 0xA021C
abbrev EVB_BLDOPEN : Nat := 0xA0220
abbrev EVB_BLDMISS : Nat := 0xA0224
abbrev EVB_BLDEVENTS : Nat := 0xA0228
abbrev TIM_CTL : Nat := 0xB0000
abbrev TIM_STAT : Nat := 0xB0004
abbrev TIM_NOW_LO : Nat := 0xB0008
abbrev TIM_NOW_HI : Nat := 0xB000C
abbrev TIM_FULLSEC : Nat := 0xB0010
abbrev TIM_NEXTSEC : Nat := 0xB0014
abbrev TIM_PPSWIN : Nat := 0xB0018
abbrev TIM_PPSDLY : Nat := 0xB001C
abbrev TIM_OFFS : Nat := 0xB0020
abbrev TIM_OFFSFLG : Nat := 0xB0024
abbrev TIM_FREQ : Nat := 0xB0028
abbrev TIM_SERVO : Nat := 0xB002C
abbrev TIM_ROOTID : Nat := 0xB0030
abbrev TIM_LINK_DLY (p : Nat) : Nat := 0xB0040 + 0x20 * p
abbrev TIM_LINK_ASYAPP (p : Nat) : Nat := 0xB0044 + 0x20 * p
abbrev TIM_LINK_REJ (p : Nat) : Nat := 0xB0048 + 0x20 * p
abbrev TIM_LINK_OFS (p : Nat) : Nat := 0xB004C + 0x20 * p
abbrev TIM_ASY_CFG (p : Nat) : Nat := 0xB0140 + 0x20 * p
abbrev TIM_ASY_FIRST (p : Nat) : Nat := 0xB0144 + 0x20 * p
abbrev TIM_ASY_LAST (p : Nat) : Nat := 0xB0148 + 0x20 * p
abbrev TIM_ASY_A0 (p : Nat) : Nat := 0xB014C + 0x20 * p
abbrev TIM_ASY_KA (p : Nat) : Nat := 0xB0150 + 0x20 * p
abbrev TIM_ASY_TREF (p : Nat) : Nat := 0xB0154 + 0x20 * p
abbrev TIM_ASY_LIM (p : Nat) : Nat := 0xB0158 + 0x20 * p
abbrev TIM_ASY_STAT (p : Nat) : Nat := 0xB015C + 0x20 * p
abbrev TIM_TDC_CFG (u : Nat) : Nat := 0xB0240 + 0x20 * u
abbrev TIM_TDC_TMO (u : Nat) : Nat := 0xB0244 + 0x20 * u
abbrev TIM_TDC_RES (u : Nat) : Nat := 0xB0248 + 0x20 * u
abbrev TIM_TDC_FLG (u : Nat) : Nat := 0xB024C + 0x20 * u
abbrev TIM_TDC_NSTAT (u : Nat) : Nat := 0xB0250 + 0x20 * u
abbrev TIM_TDC_CAL (u : Nat) : Nat := 0xB0254 + 0x20 * u
abbrev TIM_TDC_PINDLY (u : Nat) : Nat := 0xB0258 + 0x20 * u
abbrev TIM_TDC_CNT (u : Nat) : Nat := 0xB025C + 0x20 * u
abbrev TIM_FETXDLY (l : Nat) : Nat := 0xB0400 + 0x4 * l
abbrev TIM_CALSTAT : Nat := 0xB0500
abbrev FAB_CTL : Nat := 0xC0000
abbrev FAB_STAT : Nat := 0xC0004
abbrev FAB_FABID : Nat := 0xC0008
abbrev FAB_ID : Nat := 0xC000C
abbrev FAB_IDLAST : Nat := 0xC0010
abbrev FAB_PHER : Nat := 0xC0014
abbrev FAB_LSA : Nat := 0xC0018
abbrev FAB_LSASEQ : Nat := 0xC001C
abbrev FAB_RTDEV : Nat := 0xC0020
abbrev FAB_RTE : Nat := 0xC0024
abbrev FAB_NDEV : Nat := 0xC0028
abbrev FAB_GW : Nat := 0xC002C
abbrev FAB_DSINK : Nat := 0xC0030
abbrev FAB_ASINK : Nat := 0xC0034
abbrev FAB_FCNT_LO : Nat := 0xC0038
abbrev FAB_FCNT_HI : Nat := 0xC003C
abbrev FAB_KEYID : Nat := 0xC0040
abbrev FAB_RXBUF_LO : Nat := 0xC0044
abbrev FAB_RXBUF_HI : Nat := 0xC0048
abbrev FAB_NOROUTE : Nat := 0xC0050
abbrev FAB_HOPDROP : Nat := 0xC0054
abbrev FAB_AUTHFAIL : Nat := 0xC0058
abbrev FAB_REPLAY : Nat := 0xC005C
abbrev FAB_RXDISC : Nat := 0xC0060
abbrev FAB_REASMDROP : Nat := 0xC0064
abbrev FAB_PORT_CFG (p : Nat) : Nat := 0xC0100 + 0x40 * p
abbrev FAB_PORT_STAT (p : Nat) : Nat := 0xC0104 + 0x40 * p
abbrev FAB_PORT_CRCERR (p : Nat) : Nat := 0xC0108 + 0x40 * p
abbrev FAB_PORT_STOMP (p : Nat) : Nat := 0xC010C + 0x40 * p
abbrev FAB_PORT_TXFR (p : Nat) : Nat := 0xC0110 + 0x40 * p
abbrev FAB_PORT_RXFR (p : Nat) : Nat := 0xC0114 + 0x40 * p
abbrev FAB_PORT_DOWNS (p : Nat) : Nat := 0xC0118 + 0x40 * p
abbrev FAB_PORT_RXPWR (p : Nat) : Nat := 0xC011C + 0x40 * p
abbrev FAB_ETH_MAC_LO (p : Nat) : Nat := 0xC0400 + 0x80 * p
abbrev FAB_ETH_MAC_HI (p : Nat) : Nat := 0xC0404 + 0x80 * p
abbrev FAB_ETH_IP4 (p : Nat) : Nat := 0xC0408 + 0x80 * p
abbrev FAB_ETH_MASK4 (p : Nat) : Nat := 0xC040C + 0x80 * p
abbrev FAB_ETH_GW4 (p : Nat) : Nat := 0xC0410 + 0x80 * p
abbrev FAB_ETH_IP6 (p j : Nat) : Nat := 0xC0414 + 0x80 * p + 0x4 * j
abbrev FAB_ETH_PFX6 (p : Nat) : Nat := 0xC0424 + 0x80 * p
abbrev FAB_ETH_DST4 (p : Nat) : Nat := 0xC0428 + 0x80 * p
abbrev FAB_ETH_DST6 (p j : Nat) : Nat := 0xC042C + 0x80 * p + 0x4 * j
abbrev FAB_ETH_UDP (p : Nat) : Nat := 0xC043C + 0x80 * p
abbrev FAB_ETH_XCFG (p : Nat) : Nat := 0xC0440 + 0x80 * p
abbrev FAB_ETH_WIN (p : Nat) : Nat := 0xC0444 + 0x80 * p
abbrev FAB_ETH_UNACK (p : Nat) : Nat := 0xC0448 + 0x80 * p
abbrev FAB_ETH_RETX (p : Nat) : Nat := 0xC044C + 0x80 * p
abbrev FAB_ETH_DISC (p : Nat) : Nat := 0xC0450 + 0x80 * p
abbrev FAB_PTP_CFG : Nat := 0xC0800
abbrev FAB_PTP_STAT : Nat := 0xC0804
abbrev FAB_PTP_OFS : Nat := 0xC0808
abbrev FAB_PTP_OFSFLG : Nat := 0xC080C
abbrev FAB_PTP_GMID_LO : Nat := 0xC0810
abbrev FAB_PTP_GMID_HI : Nat := 0xC0814
abbrev FAB_FWD (t : Nat) : Nat := 0xC0900 + 0x4 * t
abbrev FAB_FWDCNT (t : Nat) : Nat := 0xC0920 + 0x4 * t
abbrev MEM_CTL : Nat := 0xD0000
abbrev MEM_STAT : Nat := 0xD0004
abbrev MEM_RATE : Nat := 0xD0008
abbrev MEM_CONG : Nat := 0xD000C
abbrev MEM_YIELD : Nat := 0xD0010
abbrev MEM_THROTTLES : Nat := 0xD0014
abbrev MEM_CLS_AGE (k : Nat) : Nat := 0xD0020 + 0x4 * k
abbrev MEM_SCRUB : Nat := 0xD0040
abbrev MEM_SCRUBPOS_LO : Nat := 0xD0044
abbrev MEM_SCRUBPOS_HI : Nat := 0xD0048
abbrev MEM_ECC : Nat := 0xD0050
abbrev MEM_UEADDR_LO : Nat := 0xD0054
abbrev MEM_UEADDR_HI : Nat := 0xD0058
abbrev MEM_CH_STAT (n : Nat) : Nat := 0xD0060 + 0x10 * n
abbrev MEM_CH_BW (n : Nat) : Nat := 0xD0064 + 0x10 * n
abbrev MEM_TRN_CTL : Nat := 0xD0100
abbrev MEM_TRN_PAT : Nat := 0xD0104
abbrev MEM_TRN_SEED : Nat := 0xD0108
abbrev MEM_TRN_STAT : Nat := 0xD010C
abbrev MEM_TRN_RES (s : Nat) : Nat := 0xD0400 + 0x4 * s
abbrev MEM_DLY (n b : Nat) : Nat := 0xD0800 + 0x100 * n + 0x4 * b
abbrev CMP_CTL : Nat := 0xE0000
abbrev CMP_STAT : Nat := 0xE0004
abbrev CMP_CFG (s : Nat) : Nat := 0xE0010 + 0x4 * s
abbrev CMP_OREG_LO : Nat := 0xE0030
abbrev CMP_OREG_HI : Nat := 0xE0034
abbrev CMP_OREGSIZE : Nat := 0xE0038
abbrev CMP_OCFG : Nat := 0xE003C
abbrev CMP_CHAIN_LO : Nat := 0xE0040
abbrev CMP_CHAIN_HI : Nat := 0xE0044
abbrev CMP_CHAINN : Nat := 0xE0048
abbrev CMP_CHAINFREE : Nat := 0xE004C
abbrev CMP_DLIM : Nat := 0xE0050
abbrev CMP_INB_LO : Nat := 0xE0058
abbrev CMP_INB_HI : Nat := 0xE005C
abbrev CMP_OUTB_LO : Nat := 0xE0060
abbrev CMP_OUTB_HI : Nat := 0xE0064
abbrev CMP_STORED : Nat := 0xE0068
abbrev CMP_PASS : Nat := 0xE006C
abbrev CMP_NOCHAIN : Nat := 0xE0070
abbrev CMP_DFAIL : Nat := 0xE0074
abbrev CLK_STAT : Nat := 0xF0000
abbrev CLK_UNLOCKS : Nat := 0xF0004
abbrev CLK_GATE : Nat := 0xF0008
abbrev CLK_MSEL : Nat := 0xF000C
abbrev CLK_COMMIT : Nat := 0xF0010
abbrev CLK_MCUR : Nat := 0xF0014
abbrev CLK_MSLOT_FREQ_LO (n : Nat) : Nat := 0xF0100 + 0x10 * n
abbrev CLK_MSLOT_FREQ_HI (n : Nat) : Nat := 0xF0104 + 0x10 * n
abbrev CLK_MSLOT_STAT (n : Nat) : Nat := 0xF0108 + 0x10 * n
abbrev HKC_CTL : Nat := 0x100000
abbrev HKC_STAT : Nat := 0x100004
abbrev HKC_SEQCTL : Nat := 0x100008
abbrev HKC_RSEQCFG : Nat := 0x10000C
abbrev HKC_ISEQCFG : Nat := 0x100010
abbrev HKC_TIMER : Nat := 0x100014
abbrev HKC_RMISSED : Nat := 0x100018
abbrev HKC_INJ_MISSED : Nat := 0x10001C
abbrev HKC_FAULT_LO : Nat := 0x100020
abbrev HKC_FAULT_HI : Nat := 0x100024
abbrev HKC_BLKCFG : Nat := 0x100028
abbrev HKC_BLANKED : Nat := 0x10002C
abbrev HKC_CALLIM : Nat := 0x100030
abbrev HKC_CALCFG : Nat := 0x100034
abbrev HKC_RREF0 : Nat := 0x100038
abbrev HKC_RREF1 : Nat := 0x10003C
abbrev HKC_VEX : Nat := 0x100040
abbrev HKC_SBUF_LO : Nat := 0x100048
abbrev HKC_SBUF_HI : Nat := 0x10004C
abbrev HKC_SBUFSIZE : Nat := 0x100050
abbrev HKC_RSEQ (e : Nat) : Nat := 0x100080 + 0x4 * e
abbrev HKC_ISEQ (e : Nat) : Nat := 0x100100 + 0x4 * e
abbrev HKC_CH_CFG (c : Nat) : Nat := 0x100200 + 0x20 * c
abbrev HKC_CH_EXC (c : Nat) : Nat := 0x100204 + 0x20 * c
abbrev HKC_CH_RES (c : Nat) : Nat := 0x100208 + 0x20 * c
abbrev HKC_CH_FLG (c : Nat) : Nat := 0x10020C + 0x20 * c
abbrev HKC_CH_CALOFF (c : Nat) : Nat := 0x100210 + 0x20 * c
abbrev HKC_CH_CALGAIN (c : Nat) : Nat := 0x100214 + 0x20 * c
abbrev HKC_CH_LEAD (c : Nat) : Nat := 0x100218 + 0x20 * c
abbrev FLS_CTL : Nat := 0x110000
abbrev FLS_STAT : Nat := 0x110004
abbrev FLS_ARM : Nat := 0x110008
abbrev FLS_FLV : Nat := 0x11000C
abbrev FLS_HEAD : Nat := 0x110010
abbrev FLS_DERATE : Nat := 0x110014
abbrev FLS_TEMP : Nat := 0x110018
abbrev FLS_DIAG : Nat := 0x11001C
abbrev FLS_DIAGPULSE : Nat := 0x110020
abbrev FLS_HKEVT : Nat := 0x110024
abbrev FLS_STPER : Nat := 0x110028
abbrev FLS_PWR : Nat := 0x11002C
abbrev FLS_SBUF_LO : Nat := 0x110030
abbrev FLS_SBUF_HI : Nat := 0x110034
abbrev FLS_SBUFSIZE : Nat := 0x110038
abbrev FLS_CH_CFG (n : Nat) : Nat := 0x110100 + 0x20 * n
abbrev FLS_CH_WIDTH (n : Nat) : Nat := 0x110104 + 0x20 * n
abbrev FLS_CH_PER (n : Nat) : Nat := 0x110108 + 0x20 * n
abbrev FLS_CH_T0_LO (n : Nat) : Nat := 0x11010C + 0x20 * n
abbrev FLS_CH_T0_HI (n : Nat) : Nat := 0x110110 + 0x20 * n
abbrev FLS_CH_STAT (n : Nat) : Nat := 0x110114 + 0x20 * n
abbrev FLS_CH_VSMIN (n : Nat) : Nat := 0x110118 + 0x20 * n
abbrev FLS_CH_PULSES (n : Nat) : Nat := 0x11011C + 0x20 * n
abbrev FLT_CTL : Nat := 0x120000
abbrev FLT_STAT : Nat := 0x120004
abbrev FLT_SUMMARY : Nat := 0x120008
abbrev FLT_RECOV : Nat := 0x12000C
abbrev FLT_LEASE : Nat := 0x120010
abbrev FLT_EXPINSTAR : Nat := 0x120014
abbrev FLT_CFGDIGEST : Nat := 0x120018
abbrev FLT_TCHK : Nat := 0x12001C
abbrev FLT_ABKT (c : Nat) : Nat := 0x120020 + 0x4 * c
abbrev FLT_LOG : Nat := 0x120030
abbrev FLT_LOGBUF_LO : Nat := 0x120034
abbrev FLT_LOGBUF_HI : Nat := 0x120038
abbrev FLT_LOGDROP (l : Nat) : Nat := 0x120040 + 0x4 * l
abbrev FLT_ROLE (r : Nat) : Nat := 0x120080 + 0x8 * r
abbrev FLT_ROLE_PRIO (r : Nat) : Nat := 0x120084 + 0x8 * r
abbrev SEC_STATUS : Nat := 0x130000
abbrev SEC_RBC : Nat := 0x130004
abbrev SEC_KEYS : Nat := 0x130008
abbrev SEC_LCCNT : Nat := 0x13000C
abbrev SEC_SLOT_VER (s : Nat) : Nat := 0x130010 + 0x8 * s
abbrev SEC_SLOT_INFO (s : Nat) : Nat := 0x130014 + 0x8 * s
abbrev SEC_RNG : Nat := 0x130020
abbrev SEC_PROFSKIP : Nat := 0x130024
abbrev SEC_PRESLEFT : Nat := 0x130028
abbrev SEC_SERIAL_LO : Nat := 0x130030
abbrev SEC_SERIAL_HI : Nat := 0x130034
abbrev PWR_STAT : Nat := 0x140000
abbrev PWR_RSTCAUSE : Nat := 0x140004
abbrev PWR_STARTT : Nat := 0x140008
abbrev PWR_COCOONS : Nat := 0x14000C
abbrev PWR_MBOXCMD : Nat := 0x140020
abbrev PWR_MBOXRSP : Nat := 0x140024
abbrev PWR_MBOXRES (j : Nat) : Nat := 0x140028 + 0x4 * j
abbrev PWR_WAKEAT_LO : Nat := 0x140040
abbrev PWR_WAKEAT_HI : Nat := 0x140044
abbrev DBG_CTL : Nat := 0x150000
abbrev DBG_STAT : Nat := 0x150004
abbrev DBG_ATEST (i : Nat) : Nat := 0x150008 + 0x4 * i
abbrev DBG_DTEST (i : Nat) : Nat := 0x150010 + 0x4 * i
abbrev DBG_SPIERR : Nat := 0x150030
abbrev DBG_SPIPOSTS : Nat := 0x150034
abbrev DBG_UART : Nat := 0x150038
abbrev DBG_UARTDROP : Nat := 0x15003C
abbrev QUE_BASE_LO (n : Nat) : Nat := 0x160000 + 0x20 * n
abbrev QUE_BASE_HI (n : Nat) : Nat := 0x160004 + 0x20 * n
abbrev QUE_CFG (n : Nat) : Nat := 0x160008 + 0x20 * n
abbrev QUE_HEAD (n : Nat) : Nat := 0x16000C + 0x20 * n
abbrev QUE_TAIL (n : Nat) : Nat := 0x160010 + 0x20 * n
abbrev QUE_STAT (n : Nat) : Nat := 0x160014 + 0x20 * n
abbrev QUE_DROP (n : Nat) : Nat := 0x160018 + 0x20 * n
abbrev CNT_CFG (i : Nat) : Nat := 0x170000 + 0x10 * i
abbrev CNT_VAL_LO (i : Nat) : Nat := 0x170004 + 0x10 * i
abbrev CNT_VAL_HI (i : Nat) : Nat := 0x170008 + 0x10 * i
abbrev CNT_SNAPAT_LO : Nat := 0x170200
abbrev CNT_SNAPAT_HI : Nat := 0x170204
abbrev CNT_SNAPPER : Nat := 0x170208
abbrev CNT_SNAPNUM : Nat := 0x17020C

end Sys2Proof.Machine.Csr
end

