-- ==== Sys2Proof/Machine/CsrTable.lean ====
section
/-! DEFINITION. The CSR catalogue: one row per register or register array of Table GLB-25, with the bits each access
code of Table GLB-3 covers and the reset value of the field tables. A bit that no mask covers is RO or reserved. -/

namespace Sys2Proof.Machine

/-- How a register takes part in a 64-bit pair (R12). -/
inductive Half where
  /-- Not part of a pair. -/
  | one
  /-- The LO half; the HI half is at the next offset. -/
  | lo
  /-- The HI half. -/
  | hi
  deriving DecidableEq, Repr

/-- One row of the catalogue. -/
structure Reg where
  /-- Offset of element 0 inside the window. -/
  off : Nat
  /-- Number of elements. -/
  n : Nat
  /-- Distance of two elements. -/
  stride : Nat
  /-- Bits with access RW. -/
  rw : Nat
  /-- Bits with access RWS. -/
  rws : Nat
  /-- Bits with access RWL. -/
  rwl : Nat
  /-- Bits with access W1C. -/
  w1c : Nat
  /-- Pair role. -/
  half : Half
  /-- A result register (access RC, R31). -/
  rc : Bool
  /-- Reset value. -/
  rst : Nat
  /-- Bits whose reset value is a factory, MRAM, fuse or image value; reserved bits are not among them (R9). -/
  fac : Nat
  deriving DecidableEq, Repr

/-- A single register. -/
def reg (off : Nat) (rst : Nat := 0) (rw : Nat := 0) (rws : Nat := 0) (rwl : Nat := 0) (w1c : Nat := 0)
    (half : Half := .one) (rc : Bool := false) (fac : Nat := 0) : Reg :=
  { off := off, n := 1, stride := 4, rw := rw, rws := rws, rwl := rwl, w1c := w1c, half := half, rc := rc, rst := rst, fac := fac }

/-- An array of registers. -/
def arr (off n stride : Nat) (rst : Nat := 0) (rw : Nat := 0) (rws : Nat := 0) (rwl : Nat := 0) (w1c : Nat := 0)
    (half : Half := .one) (rc : Bool := false) (fac : Nat := 0) : Reg :=
  { off := off, n := n, stride := stride, rw := rw, rws := rws, rwl := rwl, w1c := w1c, half := half, rc := rc, rst := rst, fac := fac }

/-- Every bit of a register. -/
def full : Nat := 0xFFFFFFFF

/-- GLB window (Table GLB-26). -/
def glbRegs : List Reg :=
  [reg 0x00 0x2248058B, reg 0x04 0x42420101, reg 0x08 (fac := 1), reg 0x10 (fac := full), reg 0x14 (fac := full),
   reg 0x20]

/-- SEQ window (Table SEQ-9). -/
def seqRegs : List Reg :=
  [reg 0x00 (rwl := fb 17 2) (fac := fb 17 2), reg 0x04, reg 0x08, reg 0x0C (half := .lo), reg 0x10 (half := .hi), reg 0x14,
   arr 0x20 4 4 (rw := full), arr 0x40 16 4 (rwl := fb 20 0), reg 0x80 (w1c := fb 31 16), reg 0x90, reg 0x94,
   reg 0xA0 0x00FFF000 (rwl := full) (half := .lo), reg 0xA4 (rwl := full) (half := .hi)]

/-- LCH window (Tables LCH-2 and LCH-7 to LCH-15). -/
def lchRegs : List Reg :=
  [reg 0x00 (rw := fb 25 24) (rws := fb 30 26 + fb 23 20 + fb 15 12 + fb 4 0), reg 0x04 (rws := fb 17 0),
   reg 0x08 (rws := fb 15 0), reg 0x0C 0x40001400 (rw := fb 30 30) (rws := fb 13 0), reg 0x10, reg 0x14, reg 0x18,
   reg 0x1C (fac := full), reg 0x20 0x870001F4 (rw := fb 31 31 + fb 15 0) (rws := fb 26 24), reg 0x24 (rc := true),
   reg 0x28, reg 0x2C (rws := full) (fac := full), reg 0x30 (fac := full), reg 0x40 0xF1FA (rw := fb 31 31 + fb 15 0),
   reg 0x44 (w1c := fb 31 31), reg 0x50 (rw := fb 31 30 + fb 27 8), arr 0x60 4 4 (fac := fb 23 0),
   arr 0x100 16 0x10 (rws := fb 31 25 + fb 15 0), arr 0x104 16 0x10 (rws := fb 23 16 + fb 10 0),
   arr 0x108 16 0x10 (rws := fb 7 0)]

/-- RCV window (Tables RCV-2, RCV-8 and RCV-10 to RCV-12). -/
def rcvRegs : List Reg :=
  [reg 0x00 0x08240000 (rw := fb 31 31 + fb 27 24 + fb 21 16), reg 0x04 (w1c := fb 30 28), reg 0x08 (fac := full), reg 0x0C,
   arr 0x10 2 0x10 (rws := full) (fac := full), arr 0x14 2 0x10 (rws := fb 9 0) (fac := fb 9 0),
   arr 0x18 2 0x10 (rws := fb 27 16 + fb 11 0) (fac := fb 27 16 + fb 11 0), reg 0x30 (rws := fb 9 0) (fac := fb 9 0),
   reg 0x40 0x10000000 (rw := fb 29 28 + fb 7 0), reg 0x50 0x90000000 (rw := fb 31 31 + fb 29 28 + fb 5 0), reg 0x60,
   reg 0x64, reg 0x68, reg 0x6C, reg 0x70, reg 0x78 (rw := fb 31 27 + fb 13 0), reg 0x7C, arr 0x80 4 4,
   reg 0xA0 1 (rw := fb 31 24 + fb 15 0), reg 0xA4 (rw := fb 23 0), reg 0xA8 0x1000 (rw := fb 23 0), reg 0xAC (rw := full),
   reg 0xB0 (rws := full) (half := .lo), reg 0xB4 (rws := full) (half := .hi), reg 0xB8 (rws := full),
   reg 0xBC (w1c := fb 31 31)]

/-- PHS window (Tables PHS-8 to PHS-10). -/
def phsRegs : List Reg :=
  [reg 0x00 0x420603E8 (rws := fb 31 30 + fb 27 24 + fb 19 0), reg 0x04 (w1c := fb 31 30), reg 0x08 0x00166728 (rw := fb 20 0),
   reg 0x0C 0xC7AE (rw := fb 15 0), reg 0x10, reg 0x20 0x19 (rw := fb 8 0), reg 0x24 0x00280440 (rw := fb 23 16 + fb 11 0),
   reg 0x30 0x80000064 (rw := fb 31 31 + fb 15 0), reg 0x34 0x000C050A (rw := fb 23 0), reg 0x38 (rc := true), reg 0x3C,
   reg 0x40 (fac := fb 7 0), reg 0x50, reg 0x54, reg 0x58, reg 0x5C]

/-- DTS window (Tables DTS-7 to DTS-9). -/
def dtsRegs : List Reg :=
  [reg 0x00 0x50032005 (rws := fb 31 28 + fb 19 12 + fb 6 0), reg 0x04 (w1c := fb 31 30), reg 0x08 0x2710 (rw := fb 23 0),
   reg 0x0C 0x6401 (rws := fb 15 0), reg 0x10 0x0C28FF00 (rw := fb 31 8), reg 0x14 (fac := fb 23 0), reg 0x18 (fac := fb 15 0),
   reg 0x1C (rc := true), reg 0x20, reg 0x30 (rws := full) (half := .lo), reg 0x34 (rws := full) (half := .hi),
   reg 0x38, reg 0x3C, reg 0x40, arr 0x80 8 4 (rws := fb 23 0), arr 0xC0 4 0x10 0x00A58ED0 (rw := fb 23 0),
   arr 0xC4 4 0x10 0x4E20 (rw := full), arr 0xC8 4 0x10 0x2710C350 (rw := full), arr 0xCC 4 0x10 (rw := full)]

/-- VEC window (Table VEC-8). -/
def vecRegs : List Reg :=
  [reg 0x00 0x80000000 (rw := fb 31 31), reg 0x04 (w1c := fb 29 28), reg 0x08 1000000 (rw := full), reg 0x0C,
   reg 0x10 (half := .lo), reg 0x14 (half := .hi), reg 0x18, reg 0x1C]

/-- STR window (Tables STR-6 to STR-9). -/
def strRegs : List Reg :=
  [reg 0x00 0xA0000001 (rws := fb 31 29 + fb 27 24 + fb 19 14 + fb 6 0), reg 0x04 (w1c := fb 31 28), reg 0x08 1 (rws := fb 12 0),
   reg 0x0C, reg 0x10 0x08600064 (rws := fb 31 31 + fb 27 20 + fb 15 0), reg 0x20 1 (rws := fb 18 16 + fb 10 0),
   reg 0x24 (rws := fb 9 0), reg 0x28, reg 0x30 0 (rws := full) (half := .lo), reg 0x34 8 (rws := full) (half := .hi),
   reg 0x38 4096 (rws := full), reg 0x40 0xC0000000 (rws := full) (half := .lo), reg 0x44 7 (rws := full) (half := .hi),
   reg 0x48 1024 (rws := full), reg 0x50 (rw := fb 31 28 + fb 6 0), reg 0x54, reg 0x58, reg 0x5C, arr 0x60 16 4, reg 0xA0,
   reg 0xA4, reg 0xA8]

/-- FEL window (Tables FEL-9 and FEL-10). -/
def felRegs : List Reg :=
  [reg 0x00 0x40086464 (rw := fb 31 30 + fb 23 0), reg 0x04 (rw := full) (half := .lo), reg 0x08 (rw := full) (half := .hi),
   reg 0x0C (w1c := fb 30 26), reg 0x10, reg 0x14, reg 0x20, reg 0x24 (rw := full), reg 0x28 (rc := true), reg 0x2C, reg 0x30,
   reg 0x40 0x630C8014 (rw := fb 31 29 + fb 27 12 + fb 9 0), reg 0x44, reg 0x48, reg 0x4C,
   reg 0x50 0x86000032 (rw := fb 31 31 + fb 26 24 + fb 15 0), reg 0x54 0x00641000 (rw := full),
   arr 0x1000 64 0x80 (w1c := fb 25 24), arr 0x1004 64 0x80 (rw := fb 31 30 + fb 15 0), arr 0x1008 64 0x80 (rw := fb 23 0),
   arr 0x100C 64 0x80 (rw := full), arr 0x1010 64 0x80 (rw := full), arr 0x1014 64 0x80 (rc := true), arr 0x1018 64 0x80,
   arr 0x101C 64 0x80, arr 0x1020 64 0x80 (half := .lo), arr 0x1024 64 0x80 (half := .hi), arr 0x1028 64 0x80,
   arr 0x102C 64 0x80, arr 0x1030 64 0x80 (half := .lo), arr 0x1034 64 0x80 (half := .hi), arr 0x1038 64 0x80 (rw := full),
   arr 0x103C 64 0x80 (rws := full), arr 0x1040 64 0x80 (rws := full) (half := .lo), arr 0x1044 64 0x80 (rws := full) (half := .hi),
   arr 0x1048 64 0x80 (rws := full), arr 0x104C 64 0x80, arr 0x1050 64 0x80]

/-- TRG window (Tables TRG-7 to TRG-10). -/
def trgRegs : List Reg :=
  [reg 0x00 0x14 (rws := fb 9 0), reg 0x04 (w1c := fb 31 30 + fb 28 28), reg 0x08, reg 0x0C, reg 0x10 (half := .lo),
   reg 0x14 (half := .hi), reg 0x18, reg 0x1C, reg 0x20, reg 0x24, reg 0x28,
   arr 0x40 16 0x20 (rws := fb 31 15), arr 0x44 16 0x20 (rws := full), arr 0x48 16 0x20 (rws := full),
   arr 0x4C 16 0x20 (rws := full), arr 0x50 16 0x20 (rws := full), arr 0x54 16 0x20 (rws := full), arr 0x58 16 0x20,
   arr 0x240 8 0x10 (rws := fb 31 30 + fb 27 24 + fb 19 0), arr 0x244 8 0x10 1 (rws := fb 15 0), arr 0x248 8 0x10,
   reg 0x300 0 (rws := fb 31 31 + fb 26 24), reg 0x304 0x01000000 (rws := fb 31 31 + fb 26 24),
   reg 0x308 0x02000000 (rws := fb 31 31 + fb 26 24), reg 0x30C 0x03000000 (rws := fb 31 31 + fb 26 24),
   arr 0x310 4 4 (rw := fb 31 24 + fb 7 0), arr 0x320 4 4 (rw := full), reg 0x330, reg 0x334,
   arr 0x400 4 0x80 (rws := fb 31 27 + fb 23 19 + fb 15 12), arr 0x404 4 0x80 (rws := fb 31 16), arr 0x408 4 0x80 (rws := full),
   arr 0x40C 4 0x80 100 (rws := full),
   arr 0x410 4 0x80 0x1F (rws := fb 31 16 + fb 4 0), arr 0x414 4 0x80 (rws := full),
   arr 0x418 4 0x80 0x1F (rws := fb 31 16 + fb 4 0), arr 0x41C 4 0x80 (rws := full),
   arr 0x420 4 0x80 0x1F (rws := fb 31 16 + fb 4 0), arr 0x424 4 0x80 (rws := full),
   arr 0x428 4 0x80 0x1F (rws := fb 31 16 + fb 4 0), arr 0x42C 4 0x80 (rws := full),
   arr 0x430 4 0x80 (rws := full), arr 0x434 4 0x80 (rws := full), arr 0x438 4 0x80 (rws := full), arr 0x43C 4 0x80 (rws := fb 15 0),
   arr 0x440 4 0x80 (rws := fb 20 0), arr 0x444 4 0x80 (rws := fb 15 0), arr 0x448 4 0x80 (rws := full) (half := .lo),
   arr 0x44C 4 0x80 (rws := full) (half := .hi), arr 0x450 4 0x80 (rws := full), arr 0x454 4 0x80 (rws := full) (half := .lo),
   arr 0x458 4 0x80 (rws := full) (half := .hi), arr 0x45C 4 0x80 (rws := full), arr 0x460 4 0x80 (rws := full) (half := .lo),
   arr 0x464 4 0x80 (rws := full) (half := .hi), arr 0x468 4 0x80, arr 0x46C 4 0x80, arr 0x470 4 0x80, arr 0x474 4 0x80]

/-- EVB window (Table EVB-6). -/
def evbRegs : List Reg :=
  [reg 0x00 0x00320064 (rw := fb 31 31) (rws := fb 30 28 + fb 23 0), reg 0x04 (w1c := fb 31 31 + fb 29 29),
   reg 0x08 (rws := full) (half := .lo), reg 0x0C (rws := full) (half := .hi), reg 0x10 (rws := full) (half := .lo),
   reg 0x14 (rws := full) (half := .hi), reg 0x18 (rws := full), reg 0x1C 0x00500028 (rw := fb 23 16 + fb 7 0), reg 0x20 100 (rw := full),
   arr 0x24 7 4, arr 0x40 4 0x10 (rws := fb 31 30 + fb 15 0), arr 0x44 4 0x10 (rws := full), arr 0x48 4 0x10 (rws := full),
   reg 0x100 2 (rws := fb 31 31 + fb 9 0), reg 0x104 100 (rws := full), reg 0x108 30 (rws := full), reg 0x10C (rws := full),
   reg 0x110 (rws := full) (half := .lo), reg 0x114 (rws := full) (half := .hi), reg 0x118, reg 0x11C, reg 0x120, reg 0x124,
   reg 0x200 0x40 (rws := fb 31 31 + fb 15 0), reg 0x204 100 (rws := full), reg 0x208 500 (rws := full),
   reg 0x20C (rws := full) (half := .lo), reg 0x210 (rws := full) (half := .hi), reg 0x214 (rws := full),
   reg 0x218 (rws := full) (half := .lo), reg 0x21C (rws := full) (half := .hi), reg 0x220, reg 0x224, reg 0x228]

/-- TIM window (Tables TIM-6 to TIM-8). -/
def timRegs : List Reg :=
  [reg 0x00 0xB00A0080 (rw := fb 31 28 + fb 19 16 + fb 7 0), reg 0x04 0x00080000 (w1c := fb 25 23), reg 0x08 (half := .lo),
   reg 0x0C (half := .hi), reg 0x10, reg 0x14 (rwl := full), reg 0x18 1000 (rw := fb 15 0), reg 0x1C (rw := full),
   reg 0x20 (rc := true), reg 0x24, reg 0x28, reg 0x2C 0x03E8640A (rw := full), reg 0x30,
   arr 0x40 8 0x20, arr 0x44 8 0x20, arr 0x48 8 0x20, arr 0x4C 8 0x20,
   arr 0x140 8 0x20 0x708 (rw := fb 31 28 + fb 25 0), arr 0x144 8 0x20 (rw := fb 17 0), arr 0x148 8 0x20 (rw := fb 17 0),
   arr 0x14C 8 0x20 (rw := full), arr 0x150 8 0x20 (rw := full), arr 0x154 8 0x20 20000 (rw := full),
   arr 0x158 8 0x20 0x01F4000A (rw := full), arr 0x15C 8 0x20 (w1c := fb 30 28),
   arr 0x240 8 0x20 0x02000000 (rw := fb 31 29 + fb 27 24), arr 0x244 8 0x20 640 (rw := fb 15 0), arr 0x248 8 0x20 (rc := true),
   arr 0x24C 8 0x20, arr 0x250 8 0x20 1024 (rw := fb 20 0), arr 0x254 8 0x20 (fac := full), arr 0x258 8 0x20 (fac := full),
   arr 0x25C 8 0x20, arr 0x400 64 4 (fac := fb 15 0), reg 0x500]

/-- FAB window (Table FAB-11). -/
def fabRegs : List Reg :=
  [reg 0x00 0x80000000 (rw := fb 31 31) (rws := fb 30 28), reg 0x04 (w1c := fb 29 29 + fb 7 7), reg 0x08 (rws := full),
   reg 0x0C (rws := fb 31 31 + fb 9 0), reg 0x10 (fac := fb 31 31 + fb 9 0), reg 0x14 0x000303E8 (rw := fb 23 0), reg 0x18 0x003C000A (rw := full),
   reg 0x1C, reg 0x20 (rw := fb 9 0), reg 0x24, reg 0x28, reg 0x2C (rw := fb 31 31 + fb 2 0), reg 0x30 (rw := fb 31 31 + fb 9 0),
   reg 0x34 (rw := fb 31 31 + fb 9 0), reg 0x38 (half := .lo), reg 0x3C (half := .hi), reg 0x40,
   reg 0x44 0xAF000000 (rws := full) (half := .lo), reg 0x48 7 (rws := full) (half := .hi), arr 0x50 6 4,
   arr 0x100 8 0x40 0x80010000 (rw := fb 31 31 + fb 19 16) (rws := fb 30 29), arr 0x104 8 0x40 (w1c := fb 26 25), arr 0x108 8 0x40,
   arr 0x10C 8 0x40, arr 0x110 8 0x40, arr 0x114 8 0x40, arr 0x118 8 0x40, arr 0x11C 8 0x40,
   arr 0x400 8 0x80 (half := .lo) (fac := full), arr 0x404 8 0x80 (half := .hi) (fac := fb 15 0), arr 0x408 8 0x80 (rws := full),
   arr 0x40C 8 0x80 (rws := fb 5 0), arr 0x410 8 0x80 (rws := full), arr 0x414 8 0x80 (rws := full), arr 0x418 8 0x80 (rws := full),
   arr 0x41C 8 0x80 (rws := full), arr 0x420 8 0x80 (rws := full), arr 0x424 8 0x80 (rws := fb 7 0), arr 0x428 8 0x80 (rws := full),
   arr 0x42C 8 0x80 (rws := full), arr 0x430 8 0x80 (rws := full), arr 0x434 8 0x80 (rws := full), arr 0x438 8 0x80 (rws := full),
   arr 0x43C 8 0x80 0xB798B799 (rws := full), arr 0x440 8 0x80 0x5DC (rws := fb 31 29 + fb 15 0), arr 0x444 8 0x80 0x000A0100 (rws := full),
   arr 0x448 8 0x80, arr 0x44C 8 0x80, arr 0x450 8 0x80, reg 0x800 (rw := fb 31 27 + fb 23 16), reg 0x804, reg 0x808 (rc := true),
   reg 0x80C, reg 0x810 (half := .lo), reg 0x814 (half := .hi), arr 0x900 8 4 (rw := fb 31 31) (rws := fb 30 18 + fb 9 0), arr 0x920 8 4]

/-- MEM window (Table MEM-3; the AGE resets are those of Table MEM-2 in units of 10 ns). -/
def memRegs : List Reg :=
  [reg 0x00 0xC000000A (rw := fb 31 30 + fb 7 0), reg 0x04 (w1c := fb 20 19), reg 0x08 (rwl := fb 0 0), reg 0x0C 0x30200000 (rw := fb 31 16),
   reg 0x10 0x77543210 (rw := full), reg 0x14, reg 0x20 20 (rw := fb 15 0), reg 0x24 50 (rw := fb 15 0), reg 0x28 100 (rw := fb 15 0),
   reg 0x2C 100 (rw := fb 15 0), reg 0x30 400 (rw := fb 15 0), reg 0x34 400 (rw := fb 15 0), reg 0x38 1000 (rw := fb 15 0),
   reg 0x3C 0 (rw := fb 15 0), reg 0x40 24 (rw := fb 7 0), reg 0x44 0 (half := .lo), reg 0x48 1 (half := .hi), reg 0x50,
   reg 0x54 (half := .lo), reg 0x58 (half := .hi), arr 0x60 4 0x10, arr 0x64 4 0x10, reg 0x100 (rw := fb 29 8 + fb 3 0),
   reg 0x104 (rw := fb 1 0), reg 0x108 (rw := full), reg 0x10C (w1c := fb 30 30), arr 0x400 256 4,
   arr 0x800 32 4 (rw := fb 15 0) (fac := fb 15 0), arr 0x880 3 4 (rw := fb 7 0) (fac := fb 7 0),
   arr 0x900 32 4 (rw := fb 15 0) (fac := fb 15 0), arr 0x980 3 4 (rw := fb 7 0) (fac := fb 7 0),
   arr 0xA00 32 4 (rw := fb 15 0) (fac := fb 15 0), arr 0xA80 3 4 (rw := fb 7 0) (fac := fb 7 0),
   arr 0xB00 32 4 (rw := fb 15 0) (fac := fb 15 0), arr 0xB80 3 4 (rw := fb 7 0) (fac := fb 7 0)]

/-- CMP window (Table CMP-5). -/
def cmpRegs : List Reg :=
  [reg 0x00 0x8F000000 (rw := fb 31 31 + fb 27 24), reg 0x04 (w1c := fb 31 31), arr 0x10 7 4 0x1010 (rws := fb 31 31 + fb 27 19 + fb 15 10 + fb 7 0),
   reg 0x30 (rws := full) (half := .lo), reg 0x34 (rws := full) (half := .hi), reg 0x38 (rws := full), reg 0x3C 0x000C03E8 (rws := fb 19 0),
   reg 0x40 (rws := full) (half := .lo), reg 0x44 (rws := full) (half := .hi), reg 0x48 (rws := fb 15 0), reg 0x4C, reg 0x50 0x10000040 (rw := full),
   reg 0x58 (half := .lo), reg 0x5C (half := .hi), reg 0x60 (half := .lo), reg 0x64 (half := .hi), reg 0x68, reg 0x6C, reg 0x70, reg 0x74]

/-- CLK window (Tables CLK-4 and CLK-5). -/
def clkRegs : List Reg :=
  [reg 0x00 (w1c := fb 24 20), reg 0x04, reg 0x08 0x230 (rw := fb 9 9 + fb 5 4), reg 0x0C (rw := fb 3 0), reg 0x10, reg 0x14,
   arr 0x100 8 0x10 (half := .lo), arr 0x104 8 0x10 (half := .hi), arr 0x180 8 0x10 (rw := full) (half := .lo),
   arr 0x184 8 0x10 (rw := fb 1 0) (half := .hi), arr 0x108 16 0x10]

/-- HKC window (Tables HKC-2 and HKC-8). -/
def hkcRegs : List Reg :=
  [reg 0x00 0xB8000000 (rw := fb 31 31 + fb 29 27) (rws := fb 30 30), reg 0x04 (w1c := fb 31 31), reg 0x08,
   reg 0x0C 0x00010000 (rws := fb 31 30 + fb 21 0), reg 0x10 0x00010000 (rws := fb 31 28 + fb 19 0), reg 0x14 1000 (rws := fb 23 0), reg 0x18,
   reg 0x1C, reg 0x20 (w1c := full) (half := .lo), reg 0x24 (w1c := fb 15 0) (half := .hi), reg 0x28 0x100 (rw := fb 15 0), reg 0x2C, reg 0x30 0x00C801F4 (rw := full),
   reg 0x34 0x10 (rw := fb 5 0), reg 0x38 (fac := full), reg 0x3C (fac := full), reg 0x40 (rw := fb 1 0), reg 0x48 (rws := full) (half := .lo),
   reg 0x4C (rws := full) (half := .hi), reg 0x50 (rws := fb 15 0), arr 0x80 32 4 (rws := fb 5 0), arr 0x100 8 4 (rws := fb 5 0),
   arr 0x200 16 0x20 0x00200000 (rw := fb 31 15 + fb 11 8), arr 0x400 32 0x20 (rw := fb 22 20 + fb 11 8) (fac := fb 31 15 + fb 11 8),
   arr 0x204 48 0x20 0x000103E8 (rw := fb 31 31 + fb 27 0), arr 0x208 48 0x20 (rc := true), arr 0x20C 48 0x20,
   arr 0x210 16 0x20 (rw := fb 23 0), arr 0x410 32 0x20 (rw := fb 23 0) (fac := fb 23 0), arr 0x214 16 0x20 0x00400000 (rw := fb 23 0),
   arr 0x414 32 0x20 (rw := fb 23 0) (fac := fb 23 0), arr 0x218 48 0x20]

/-- FLS window (Table FLS-3). -/
def flsRegs : List Reg :=
  [reg 0x00 0xFF (rw := fb 31 31 + fb 7 0), reg 0x04 (w1c := fb 31 31 + fb 29 29), reg 0x08, reg 0x0C 0x80007818 (rw := fb 31 31 + fb 15 0),
   reg 0x10 0x0A0A (rw := fb 15 0), reg 0x14 0x025801F4 (rw := full), reg 0x18, reg 0x1C 0x0100000A (rw := fb 24 16 + fb 15 0),
   reg 0x20 (rw := fb 15 0), reg 0x24 (rw := fb 31 31 + fb 27 23 + fb 15 0), reg 0x28 1000 (rw := fb 15 0), reg 0x2C,
   reg 0x30 (rws := full) (half := .lo), reg 0x34 (rws := full) (half := .hi), reg 0x38 (rws := fb 15 0),
   arr 0x100 16 0x20 (rw := fb 31 31 + fb 9 0) (rws := fb 30 29), arr 0x104 16 0x20 80 (rws := fb 23 0), arr 0x108 16 0x20 (rws := full),
   arr 0x10C 16 0x20 (rws := full) (half := .lo), arr 0x110 16 0x20 (rws := full) (half := .hi), arr 0x114 16 0x20 (w1c := fb 26 25),
   arr 0x118 16 0x20 200 (rw := fb 15 0), arr 0x11C 16 0x20]

/-- FLT window (Table FLT-8). -/
def fltRegs : List Reg :=
  [reg 0x00 0x80000000 (rwl := fb 31 31), reg 0x04 (w1c := fb 31 31 + fb 28 27), reg 0x08, reg 0x0C, reg 0x10, reg 0x14, reg 0x18,
   reg 0x1C 200 (rw := full), arr 0x24 3 4 0x00400064 (rw := full), reg 0x30 1 (rw := fb 1 0), reg 0x34 0xB0000000 (rws := full) (half := .lo),
   reg 0x38 7 (rws := full) (half := .hi), arr 0x40 4 4, arr 0x80 6 8 (rw := fb 29 29), arr 0x84 6 8 0x80 (rw := fb 7 0)]

/-- SEC window (Tables SEC-12 and SEC-13). -/
def secRegs : List Reg :=
  [reg 0x00, reg 0x04, reg 0x08, reg 0x0C, arr 0x10 2 8, arr 0x14 2 8, reg 0x20, reg 0x24, reg 0x28,
   reg 0x30 (half := .lo) (fac := full), reg 0x34 (half := .hi) (fac := full)]

/-- PWR window (Table PWR-6). -/
def pwrRegs : List Reg :=
  [reg 0x00 (w1c := fb 29 28), reg 0x04 0x00010001, reg 0x08, reg 0x0C, reg 0x20, reg 0x24 (rc := true), arr 0x28 3 4,
   reg 0x40 (rw := full) (half := .lo), reg 0x44 (rw := full) (half := .hi)]

/-- DBG window (Table DBG-19). -/
def dbgRegs : List Reg :=
  [reg 0x00, reg 0x04, arr 0x08 2 4 (rw := fb 4 0), arr 0x10 8 4 (rw := fb 5 0), reg 0x30, reg 0x34, reg 0x38 0x80000000 (rw := fb 31 31), reg 0x3C]

/-- QUE window (R27, Tables GLB-14 and GLB-15). -/
def queRegs : List Reg :=
  [arr 0x00 128 0x20 (rws := full) (half := .lo), arr 0x04 128 0x20 (rws := full) (half := .hi),
   arr 0x08 128 0x20 (rw := fb 31 31) (rws := fb 29 28 + fb 23 8 + fb 4 0), arr 0x0C 128 0x20 (rw := full), arr 0x10 128 0x20,
   arr 0x14 128 0x20 (w1c := fb 31 30), arr 0x18 128 0x20]

/-- CNT window (Table FLT-9). -/
def cntRegs : List Reg :=
  [arr 0x00 32 0x10 (rw := fb 31 31 + fb 9 0), arr 0x04 32 0x10 (half := .lo), arr 0x08 32 0x10 (half := .hi),
   reg 0x200 (rw := full) (half := .lo), reg 0x204 (rw := full) (half := .hi), reg 0x208 (rw := full), reg 0x20C]

/-- The rows of the window with number `w` (Table GLB-11, one window per 64 KiB). -/
def windowRegs (w : Nat) : List Reg :=
  match w with
  | 0x00 => glbRegs | 0x01 => seqRegs | 0x02 => lchRegs | 0x03 => rcvRegs | 0x04 => phsRegs | 0x05 => dtsRegs
  | 0x06 => vecRegs | 0x07 => strRegs | 0x08 => felRegs | 0x09 => trgRegs | 0x0A => evbRegs | 0x0B => timRegs
  | 0x0C => fabRegs | 0x0D => memRegs | 0x0E => cmpRegs | 0x0F => clkRegs | 0x10 => hkcRegs | 0x11 => flsRegs
  | 0x12 => fltRegs | 0x13 => secRegs | 0x14 => pwrRegs | 0x15 => dbgRegs | 0x16 => queRegs | 0x17 => cntRegs
  | _ => []

/-- Does a row hold the offset? -/
def Reg.has (r : Reg) (off : Nat) : Bool :=
  decide (r.off ≤ off) && (off - r.off) % r.stride == 0 && decide ((off - r.off) / r.stride < r.n)

/-- The row of the register at a CSR address; none at a reserved offset, outside the windows and for an address that
is not a multiple of 4 (R1, R23, R485). -/
def regAt (a : Nat) : Option Reg := (windowRegs (a / 0x10000)).find? (·.has (a % 0x10000))

/-- The element number of an address inside its row. -/
def Reg.index (r : Reg) (a : Nat) : Nat := (a % 0x10000 - r.off) / r.stride

/-- The grade of GLB.FEAT: a PLV2480-H, whose GLB.LOT and GLB.LOTRPT hold numbers; on a PLV2480-S both read 0. -/
def gradeH : Bool := (Config.factory 8).toNat.testBit 0

/-- The bits of a row at an address that hold a factory, MRAM, fuse or image value. -/
def facBits (a fac : Nat) : Nat := if (a = 0x10 ∨ a = 0x14) ∧ !gradeH then 0 else fac

/-- The reset value of the register at an address; 0 where there is none. -/
def csrReset (a : Nat) : Word :=
  match regAt a with
  | some r => if facBits a r.fac = 0 then BitVec.ofNat 32 r.rst else BitVec.ofNat 32 r.rst ||| (Config.factory a &&& BitVec.ofNat 32 (facBits a r.fac))
  | none => 0

end Sys2Proof.Machine
end

