-- ==== Sys2Proof/Machine/State.lean ====
section
/-! DEFINITION. The state of the module: every register (the CSR file), memory, FIFO, buffer, counter, mode and pin the
spec gives it, and the queue of waiting commands. Registers live in `csr` under their addresses (`CsrNames`); the other
fields hold what the spec gives the engines beside their registers. Times are in picoseconds. -/

namespace Sys2Proof.Machine

/-- The module state of Table GLB-17. -/
inductive Mode where
  | startup | idle | armed | run | cocoon | hold | moult
  deriving DecidableEq, Repr

/-- What stops the machine. No meaning of this model raises one: every row of the table has an effect in the spec. -/
inductive Fault where
  /-- Raised by no row; the type is closed with one name so that a claim can list it. Safe: it never happens. -/
  | none
  deriving DecidableEq, Repr

/-- A command without a meaning. -/
inductive Refusal where
  /-- The arm of a row that has no meaning yet; safe, since nothing is claimed of it. -/
  | notModelled (mnemonic : String)
  deriving DecidableEq, Repr

/-- A 32-byte descriptor entry (Table GLB-13). -/
structure Entry where
  status : Nat
  type : Nat
  addr : Nat
  length : Nat
  qseq : Nat
  stamp : Nat
  tag : Nat
  /-- Word 0 [62:56], which a program's `post` may set and `take` returns (R47, R48). -/
  top : Nat := 0
  deriving DecidableEq, Repr

/-- What a stalled core waits for (R29, R42, R43, R52). -/
inductive Stall where
  /-- Issuing. -/
  | none
  /-- `wait` until the stamp is reached. -/
  | wait (stamp : Nat)
  /-- `idle` with destination `d`, until a masked queue holds an entry or the stamp (if any) is reached. -/
  | idle (d : Fin 16) (stamp : Option Nat)
  /-- `csrr` waiting for the island's acknowledgement. -/
  | csrr (d : Fin 16) (addr : Nat)
  /-- `csrw` waiting because 16 writes are unacknowledged. -/
  | csrw (addr : Nat) (v : Word)
  /-- A fence of kind 0 csr, 1 mem, 2 q, 3 all. -/
  | fence (kind : Nat)
  /-- A `post`, `post.r` or `vjob` stalled on a full queue under FULLPOL, from the time given. -/
  | post (d : Fin 16) (q : Nat) (e : Entry) (since : Nat) (kind : Nat)
  /-- `post.r` waiting for its fence.all. -/
  | postr (d : Fin 16) (a : Nat) (q : Nat)
  /-- A store waiting because 8 stores are outstanding. -/
  | store (addr size v : Nat)
  /-- A load waiting because the requests of its DRAM channel are held. -/
  | load (d : Fin 16) (addr size : Nat)
  /-- A `take` waiting because its queue lies in DRAM and requests are held: destination, queue, local address. -/
  | take (d : Fin 16) (q addr : Nat)
  deriving DecidableEq, Repr

/-- One entry of the replay journal (R402). -/
inductive JEntry where
  /-- `post`, `post.r` (kind 0) or `vjob` (kind 1): queue, entry as the program wrote it and status. -/
  | post (kind q : Nat) (words : List Nat) (status : Nat)
  /-- `take`: queue, the 32-byte entry it copied and its status. -/
  | take (q : Nat) (words : List Nat) (status : Nat)
  /-- `idle`: the value it returned. -/
  | idle (v : Nat)
  /-- `csrr` of an RC register: address and value. -/
  | csrr (addr v : Nat)
  deriving DecidableEq, Repr

/-- The recovery checkpoint (R65). -/
structure Checkpoint where
  regs : Vector DWord 15
  flags : DWord
  pc : BitVec 18
  intrap : Bool
  epc : Word
  cause : Word
  tvalLo : Word
  tvalHi : Word
  deriving DecidableEq, Repr

/-- A pending timed action (R45). -/
structure TimedAct where
  k : Nat
  stamp : Nat
  value : Word
  deriving DecidableEq, Repr

/-- The architectural state of the cores, which run in lockstep and observe one state (R39, R40). -/
structure CoreSt where
  /-- w1 to w15; w0 reads 0. -/
  regs : Vector DWord 15
  /-- Byte address in program SRAM. -/
  pc : BitVec 18
  /-- FLAGS, Table SEQ-2. -/
  flags : DWord
  /-- Program SRAM, bytes that differ from 0. -/
  pmem : List Host.Cell
  /-- Data SRAM, bytes that differ from 0. -/
  dmem : List Host.Cell
  /-- Words of program or data SRAM with an uncorrectable error: 0 program, 1 data; byte address of the word. -/
  eccBad : List (Nat × Nat)
  stall : Stall
  /-- csrw not yet acknowledged, oldest first: address, value and time of issue (`up`). -/
  csrOut : List (Nat × Word × Nat)
  /-- Time at which the csrr or csrw that stalls the cores was issued (`up`). -/
  csrSince : Nat
  /-- Stores not yet visible to every observer, oldest first: address, size in bytes, value. -/
  stores : List (Nat × Nat × Nat)
  /-- Timed actions pending. -/
  tacts : List TimedAct
  ckpt : Checkpoint
  /-- Queue, idle and RC-read instructions since the checkpoint, oldest first (R402). -/
  journal : List JEntry
  /-- More than 64 of them have been issued since the checkpoint. -/
  jover : Bool
  /-- Entries still to be replayed after a recovery. -/
  replay : List JEntry
  deriving DecidableEq, Repr

/-- A command the gate has passed to the program and that awaits its response (R57, R61). -/
structure OutCmd where
  tag : Nat
  code : Nat
  args : List Nat
  deriving DecidableEq, Repr

/-- The command gate (R58 to R61). -/
structure GateSt where
  /-- Next slot of the 4 KiB area, 0 to 126. -/
  slot : Nat
  /-- START stamp of the accepted ARM. -/
  start : Option Nat
  /-- END stamp of the accepted ARM. -/
  fin : Option Nat
  /-- A STOP waits to be inserted. -/
  stopPend : Bool
  /-- Commands with the program. -/
  out : List OutCmd
  /-- The state MOULT was entered from. -/
  moultFrom : Mode
  /-- STOP was taken during MOULT. -/
  moultStop : Bool
  deriving DecidableEq, Repr

/-- What event building does once a record is published: nothing; for a builder role, the CREDITs owed under a number return (R251); for a fragment or
local straggler, one more of its parts can be sent; for the last part of a segment, the fragment window of its trigger waits for it no longer (R244). -/
inductive Follow
  | none
  | builder (role : Nat) (owed : Option Nat)
  | frag (id : Nat)
  | seg (c : Nat) (t : Int) (num : Nat)
  deriving DecidableEq, Repr

/-- A record on its way to a queue (R35): what its producer gives it. Waiting records of stalled producers keep it. -/
structure Rec where
  q : Nat
  /-- Producing island, row of Table GLB-7 counted from 0 (R29). -/
  island : Nat
  ty : Nat
  port : Nat
  flags : Nat
  instar : Nat
  /-- Type-specific field, word 1 [15:0]. -/
  spec : Nat
  /-- Word 2. -/
  stamp : Nat
  /-- Words from word 3 on. -/
  words : List Nat
  /-- Descriptor STATUS and TAG. -/
  status : Nat
  tag : Nat
  /-- Region: base, size in bytes, key. -/
  base : Nat
  size : Nat
  key : Nat
  /-- A bare entry in place of a record (job results, R159). -/
  bare : Option Entry
  /-- Time at which a stall began (`up`). -/
  since : Nat
  follow : Follow
  deriving DecidableEq, Repr

/-- A piece of a record region still held by an entry not yet consumed. -/
structure Piece where
  key : Nat
  lo : Nat
  hi : Nat
  q : Nat
  qseq : Nat
  deriving DecidableEq, Repr

/-- The queue system beside the QUE registers. -/
structure QueSt where
  /-- Queues whose next record carries LOSS (R29). -/
  loss : List Nat
  /-- Record SEQ counters by (queue, TYPE, PORT) (R35). -/
  seqs : List ((Nat × Nat × Nat) × Nat)
  /-- Records of stalled producers, oldest first (R29). -/
  stalled : List Rec
  /-- Records that wait at the crossing while their class is throttled, oldest first (R320). -/
  cross : List Rec
  /-- Region pieces in use. -/
  pieces : List Piece
  /-- Write pointer of each region, by key. -/
  wr : List (Nat × Nat)
  /-- Entries published in the present MEM cycle: queue, QSEQ, rank of the producer and time (`up`) (R29). -/
  recent : List (Nat × Nat × Nat × Nat)
  deriving DecidableEq, Repr

/-- A coalescing slot of R412. -/
structure SumSlot where
  cls : Nat
  catchall : Bool
  srcreg : Nat
  srcbit : Nat
  chan : Nat
  port : Nat
  value : Nat
  first : Nat
  firstSec : Nat
  last : Nat
  count : Nat
  /-- Time at which the slot opened (`up`). -/
  opened : Nat
  deriving DecidableEq, Repr

/-- An alarm record that waits in FLT's buffer (R412). -/
structure AlarmRec where
  cls : Nat
  summary : Bool
  catchall : Bool
  srcreg : Nat
  srcbit : Nat
  chan : Nat
  port : Nat
  value : Nat
  first : Nat
  firstSec : Nat
  last : Nat
  count : Nat
  deriving DecidableEq, Repr

/-- What this module knows of one fabric role (R406, R407). -/
structure RoleSt where
  /-- This module holds the role. -/
  held : Bool
  /-- A holder is known and its lease has not lapsed. -/
  live : Bool
  dev : Nat
  epoch : Nat
  serial : Nat
  prio : Nat
  /-- Stamp of the newest renewal known. -/
  stamp : Nat
  /-- Time of that renewal (`up`). -/
  heard : Nat
  /-- A request of this module is waiting: start time (`up`), proposed epoch and the TAG of a ROLEREQ, if any. -/
  req : Option (Nat × Nat × Option Nat)
  /-- Epoch and stamp of the newest RREQ seen. -/
  reqSeen : Option (Nat × Nat)
  deriving DecidableEq, Repr

/-- A recovery or core test in progress (Table FLT-2). -/
structure Recovery where
  /-- 0 mismatch, 1 lease expiry, 2 core test. -/
  cause : Nat
  /-- Time of step 1 (`up`). -/
  since : Nat
  /-- The verdicts of step 3, once ready. -/
  verdict : Option (Bool × Bool)
  deriving DecidableEq, Repr

/-- A log entry that waits because the ring or Q124 cannot take it. -/
structure LogEntry where
  level : Nat
  event : Nat
  args : List Nat
  stamp : Nat
  sec : Nat
  deriving DecidableEq, Repr

/-- Faults, redundancy, roles, alarms, log and counters (chapter 18). -/
structure FltSt where
  /-- Core A, core B in service. -/
  inA : Bool
  inB : Bool
  /-- Core B has the forewing role. -/
  foreB : Bool
  /-- Time at which a core left service (`up`) and its consecutive retest passes (R403). -/
  outAt : Nat
  passes : Nat
  /-- The returning core resynchronises at the next ckpt. -/
  resync : Bool
  /-- Time of the last lease renewal (`up`). -/
  leaseAt : Nat
  leaseSusp : Bool
  recovery : Option Recovery
  roles : Vector RoleSt 6
  instar : Nat
  stale : Bool
  /-- Time of the first port UP since reset or emergence (`up`), and whether the comparison of R410 has been made. -/
  firstUp : Option Nat
  compared : Bool
  /-- Tokens of the buckets of classes 0 to 3. -/
  tokens : Vector Nat 4
  /-- Time up to which each bucket has been refilled (`up`). -/
  tokAt : Vector Nat 4
  slots : List SumSlot
  crit : List AlarmRec
  logWait : List LogEntry
  /-- Counter values, 48 bits. -/
  cnt : Vector Nat 32
  /-- Armed snapshot stamp (none: at once). -/
  snapAt : Option (Option Nat)
  /-- The armed stamp came from CNT.SNAPAT. -/
  snapPer : Bool
  /-- Time of the next periodic snapshot. -/
  snapNext : Option Nat
  /-- Sources of SUSPECT in force (R489): 1 sentinel, 2 VEC, 3 HKC, 8 + u TDC unit u. -/
  suspect : List Nat
  /-- Times of the latest runs (`up`) of the comparator's test, of the VEC job, and of the test of each CMP lane (R405). -/
  tests : Vector Nat 6
  /-- Time of the latest momentary cause of SUSPECT (`up`). -/
  momentary : Option Nat
  /-- The latest fault of a class that leads to hold which came in COCOON or HOLD: its time (`up`) and cause (R34). -/
  holdFault : Option (Nat × Nat)
  deriving DecidableEq, Repr

/-- The life-cycle states of R428, in code order. -/
inductive LifeCycle where
  | egg | larva | pupa | imago | exuvia
  deriving DecidableEq, Repr

/-- A program image in an image slot (R64, Table SEC-8). -/
structure Image where
  valid : Bool
  keysel : Nat
  version : Nat
  minrev : Nat
  build : Nat
  entry : Nat
  tvec : Nat
  hash : List Nat
  /-- The digest that is signed, and R and S (R429). -/
  dig : Nat
  sig : Nat × Nat
  text : List Host.Cell
  data : List Host.Cell
  deriving DecidableEq, Repr

/-- A stored profile (Table SEC-11): `good` is the verdict of its MAC and MAGIC. -/
structure Profile where
  good : Bool
  mains : Bool
  slot : Nat
  version : Nat
  ihash : List Nat
  cal : List (Nat × Word)
  cfg : List (Nat × Word)
  deriving DecidableEq, Repr

/-- An open presence window (R424). -/
structure PresWin where
  cmd : OutCmd
  /-- The entry that left Q125. -/
  entry : Entry
  opened : Nat
  /-- It was taken by a command row, which serves it whole, and not by the program's take. -/
  row : Bool
  /-- The preconditions of a life-cycle change have held since the take (R427). -/
  held : Bool
  deriving DecidableEq, Repr

/-- The steps of a moult (Table SEC-9). -/
inductive MoultPhase where
  /-- Steps 1 and 2: the hindwing loads the slot. -/
  | loading (slot : Nat)
  /-- Step 2 is complete since the time given; the next ckpt hands over. -/
  | loaded (slot : Nat) (since : Nat)
  /-- Step 4: the old forewing resynchronises at the next ckpt. -/
  | handed (slot : Nat)
  deriving DecidableEq, Repr

/-- Life cycle, keys, images, profiles, seal, presence (chapter 19). -/
structure SecSt where
  lc : LifeCycle
  lccnt : Nat
  /-- Pending-wipe marker: the life-cycle change under way, from and to. -/
  wipe : Option (LifeCycle × LifeCycle)
  sealOk : Bool
  sealbrk : Bool
  /-- Break latch, powered from KA_3V3. -/
  latch : Bool
  kalost : Bool
  lcj : Bool
  prstuck : Bool
  window : Option PresWin
  /-- Commands whose window has ended, for the next take on Q125; the entry's STATUS holds the mark (R424). -/
  ready : List (Entry × OutCmd)
  rngfail : Bool
  puffail : Bool
  bootalt : Bool
  noimg : Bool
  proferr : Bool
  profdef : Bool
  uneval : Bool
  runslot : Nat
  bootslot : Nat
  prof : Nat
  /-- PROFSEL pins as latched at reset release. -/
  profsel : Nat
  rbc : Nat
  keys : Vector Bool 8
  /-- The public point of K1, and the private key of K2 (R420, R422). -/
  k1 : Nat × Nat
  k2 : Nat
  /-- K3 to K6: KEYID and key, 32 bytes; current and next of fabric slot 0, then of slot 1 (R420). -/
  fabKeys : Vector (Nat × List Nat) 4
  /-- K7 is to be generated at the next start (R420, R428). -/
  k7due : Bool
  slots : Vector Image 2
  /-- The running image, in the cores' memories. -/
  running : Image
  profiles : Vector Profile 4
  /-- Pairs of the profile loaded last and addresses written by SETCFG since, in order of first writing (R440). -/
  cfgSince : List Nat
  /-- LOADIMG in progress: slot, image, verdict of the read-back check, TAG. -/
  loading : Option (Nat × Image × Nat)
  /-- SAVEPROF in progress: profile number, its new contents, TAG. -/
  saving : Option (Nat × Profile × Nat)
  moult : Option MoultPhase
  /-- Seal log: stamp, and found at start. -/
  sealLog : List (Nat × Bool)
  deriving DecidableEq, Repr

/-- The cocoon phases of R453 to R455. -/
inductive CocoonPhase where
  | awake
  /-- Entry running since the time given. -/
  | entering (since : Nat)
  | asleep
  /-- Emergence running since the time given; `emerge` holds the TAG of an EMERGE to answer at step 4. -/
  | emerging (since : Nat) (tag : Option Nat)
  deriving DecidableEq, Repr

/-- Power, reset, start-up and cocoon (chapter 20). -/
structure PwrSt where
  mainOk : Bool
  kaOk : Bool
  /-- The module is held in reset. -/
  held : Bool
  /-- Cause of the reset in force or last released (Table PWR-3). -/
  cause : Nat
  /-- RESET_N is low. -/
  resetN : Bool
  /-- A RESET has been answered: time at which the module resets (`up`). -/
  resetAt : Option Nat
  /-- Time of the last reset release (`up`). -/
  startAt : Nat
  /-- Last step of Table PWR-4 completed. -/
  step : Nat
  /-- FAB has been released at step 9. -/
  fabFree : Bool
  phase : CocoonPhase
  /-- PWR.WAKEAT is armed. -/
  wakeArmed : Bool
  /-- A wake or EMERGE met during entry is held: the TAG of an EMERGE, if that. -/
  wakeHeld : Option (Option Nat)
  /-- The mailbox command not yet answered: CODE and TAG. -/
  mbox : Option (Nat × Nat)
  /-- Baseplate above +70 degrees at the last reading. -/
  hot : Bool
  /-- Channel delays and training temperatures of the DRAM saved at the last entry into COCOON (R326). -/
  savedDly : List (Nat × Word)
  savedTemp : List Nat
  deriving DecidableEq, Repr

/-- Debug access, service SPI and console (chapter 21). -/
structure DbgSt where
  /-- MUX and TAP open: none locked, some none without limit, some (some t) until time t (`up`). -/
  mux : Option (Option Nat)
  tap : Option (Option Nat)
  /-- Holding buffer of POST (Q125) and of the gate's answers (Q126), oldest first, at most 4. -/
  postBuf : List Entry
  ansBuf : List Entry
  /-- Characters in the UART transmit buffer, the one being sent first, and how much of it has been sent, in 10^-12 of a character (R475). -/
  uart : List Nat
  uartPhase : Nat
  /-- Lines dropped since the last line placed. -/
  uartLost : Nat
  /-- The instruction loaded in the test access port (0 IDCODE, 1 BYPASS, 2 SAMPLE/PRELOAD, 3 EXTEST, 4 CLAMP, 5 HIGHZ), the boundary
  register, and the last value shifted out. -/
  tapIr : Nat
  tapDr : Nat
  tapOut : Nat
  /-- STATUS and data bytes of the last service SPI response. -/
  spi : Nat × List Nat
  deriving DecidableEq, Repr

/-- Input pins that are levels. -/
structure PinSt where
  /-- LASER_EN high. -/
  laserEn : Bool
  /-- BLANK level active. -/
  blank : Bool
  /-- The 10 MHz reference input valid. -/
  ref10m : Bool
  deriving DecidableEq, Repr

/-- What a filter bank holds. -/
inductive Bank where
  /-- The factory bank. -/
  | factory
  /-- Taps generated for ENTA, ENTB under PCCTL.WIN (Table RCV-5). -/
  | generated (enta entb : Word) (win : Nat)
  /-- A copy of the staging words: word index and 18-bit coefficient. -/
  | loaded (words : List (Nat × Nat))
  deriving DecidableEq, Repr

/-- What a filter applies to a frame: fade frame `j` of a fade of `f` frames from the old bank to the new, 0 of 0 for the old one alone (R109). -/
structure Mix where
  old : Bank
  new : Bank
  j : Nat
  f : Nat
  deriving DecidableEq, Repr

/-- A launch made, with what it latched (R73); it lives from the launch to the publication of its frame. -/
structure Launch where
  /-- Serial number of the launch since reset. -/
  n : Nat
  /-- Commanded instant, fabric time. -/
  start : Nat
  /-- The SOA gate opens and closes (R70). -/
  gateOn : Nat
  gateOff : Nat
  entry : Nat
  /-- Plan registers latched: PLAN, RANGE, ENTA, ENTB, ENTC. -/
  plan : Word
  range : Nat
  enta : Word
  entb : Word
  entc : Word
  port : Nat
  /-- Made by lnch; else the run it belongs to. -/
  single : Bool
  run : Nat
  /-- A temperature launch (R138), one that the DTS window filter processes (R103), and one that FIBRECAL makes (R153). -/
  temp : Bool
  dts : Bool
  fib : Bool
  /-- Complementary member: 0 A, 1 B (R78). -/
  member : Nat
  /-- PEAK code emitted, after the caps of R92. -/
  peak : Nat
  /-- The frame carries SETTLING; so do its coil positions for their own reason (R91). -/
  settle : Bool
  settleCoil : Bool
  /-- Instant at which the capture window closes. -/
  closes : Nat
  /-- The monitor edge is awaited, and the TDC unit measures it (R85). -/
  waits : Bool
  timed : Bool
  /-- Delay from the commanded stamp to the monitor edge: measured, or LCH.MONNOM (R86, R87). -/
  delay : Nat
  suspect : Bool
  /-- TAIL of the frame's slots, 0 for a lnch (R75). -/
  tail : Nat
  /-- RCV.IQA, RCV.IQB and RCV.IQC of X and Y, and RCV.POLDLY, in force while its samples are taken (R100). -/
  iq : List Word
  /-- RCV.CTL and PHS.GAUGE.LEN latched (R97, R121). -/
  rcvCtl : Word
  gauge : Nat
  /-- STR.CTL in force for its frame (R172). -/
  strCtl : Word
  /-- RAW, RAWSTART, RAWLEN latched where a raw capture is to be taken (R114). -/
  raw : Option (Word × Word × Word)
  /-- Launch index since frm.start, or the count of lnch: FRAME (Table PHS-4). -/
  frame : Nat
  /-- Launch period in force, 0 for a lnch. -/
  period : Nat
  /-- The unwrapping state of every position, and the averages of R107, restart with this frame (R125). -/
  fresh : Bool
  polReset : Bool
  /-- A sample at the converter's limit was seen (R97). -/
  clip : Bool
  /-- A PLL was unlocked inside the capture window: no frame record and no raw capture (R347). -/
  unlocked : Bool
  /-- LO window the launch accumulates in, and the staging half it occupies (R142, R145). -/
  accum : Option (Nat × Nat)
  /-- Time (`up`) at which it stood whole in its half (R145). -/
  stagedAt : Nat
  /-- It is a temperature launch made while DTS.CTL.EN was 1, not yet discarded at a hop (R142). -/
  hops : Bool
  /-- The banks the slot filter and the entry's set apply, by slot, and the DTS window filter's (R109). -/
  mix0 : List (Nat × Mix)
  mixM : List (Nat × Mix)
  mixD : Mix
  deriving DecidableEq, Repr

/-- The frame sequencer while it runs (R73, R76). -/
structure SeqRun where
  /-- First instant and period. -/
  s : Nat
  p : Nat
  /-- Next period to be looked at. -/
  j : Nat
  /-- Launch after which it stops: the first scheduled at or after this stamp (R46). -/
  stopAt : Option Nat
  /-- K of R76, or 0. -/
  k : Nat
  deriving DecidableEq, Repr

/-- A pending lnch: entry, instant and end of its capture window. -/
structure Lnch where
  entry : Nat
  start : Nat
  slots : Nat
  closes : Nat
  deriving DecidableEq, Repr

/-- Launch, laser and port switch (chapter 3). -/
structure LchSt where
  lock : Bool
  /-- Launches and time (`up`) since which the open-port ratio has passed under SAFE. -/
  passes : Nat
  passAt : Nat
  seq : Option SeqRun
  /-- The sequencer has stopped after this launch number, whose window is still open: RUN stays 1 (R46). -/
  runTail : Option Nat
  /-- Launches accepted from lnch that are not yet due. -/
  lnch : List Lnch
  /-- Launches whose capture window is open, oldest first. -/
  wins : List Launch
  /-- Launches whose window has closed and whose last samples the filters have not yet taken, oldest first. -/
  tails : List Launch
  /-- Launches whose frame is not yet published, oldest first. -/
  frames : List Launch
  /-- Launches whose open-port decision is due, oldest first (R92). -/
  unjudged : List Launch
  /-- Launches since reset. -/
  count : Nat
  portPend : Bool
  portRdy : Bool
  /-- The port the switch stands on. -/
  port : Nat
  /-- Launches of lnch that have fallen due since reset: the FRAME of the single plan. -/
  lnchs : Nat
  /-- The next launch restarts the unwrapping of every position (R125). -/
  freshNext : Bool
  /-- The next launch restarts the averages of R107. -/
  polNext : Bool
  /-- A run of the sequencer has begun and its end has not been marked. -/
  ran : Bool
  /-- Next complementary member per entry, entries that have launched since frm.start (R78). -/
  memb : List (Nat × Nat)
  /-- Remaining settling frames per slot (R82, R113, R132). -/
  settle : Vector Nat 4
  /-- Remaining settling frames of coil positions. -/
  settleCoil : Nat
  /-- Settling frames owed by changed entries, from their next launch on (Table LCH-16). -/
  changed : List (Nat × Nat)
  /-- Launches have been withheld since the last launch made. -/
  withheld : Bool
  /-- LCH.SENT in force since the last launch (R91). -/
  sent : Word
  /-- Runs begun by frm.start, and periods of the present or last one that have fallen due. -/
  runs : Nat
  periods : Nat
  deriving DecidableEq, Repr

/-- Where a swap of a filter stands (R109, R110). -/
inductive SwapPhase where
  | idle
  /-- Copying until the time given (`up`), for a fade of F frames. -/
  | copying (fin fade : Nat)
  /-- The inactive bank is loaded since the fabric time given; the fade begins with the next frame. -/
  | ready (since fade : Nat)
  /-- Fading: F, fade frames done per slot, the launches of fade frames so far. -/
  | fading (fade : Nat) (done : Vector Nat 4) (frames : List Nat)
  deriving DecidableEq, Repr

/-- One of the 18 filters (R108). -/
structure Filter where
  bankA : Bank
  bankB : Bank
  /-- Bank B is active. -/
  onB : Bool
  staging : List (Nat × Nat)
  phase : SwapPhase
  /-- A waiting request, with its F. -/
  wait : Option Nat
  /-- Generation running until the time given (`up`). -/
  gen : Option Nat
  /-- A generated set, the fabric time of its completion and its F, while a fade or a copy occupies the banks. -/
  made : Option (Bank × Nat × Nat)
  deriving DecidableEq, Repr

/-- The coherent receiver (chapter 4). -/
structure RcvSt where
  filt : Vector Filter 18
  /-- The LO sideband, in units of -0.25 dB from the carrier, or none while it is off (R101). -/
  sideband : Option Nat
  /-- ADC samples still needed, oldest first: the instant of the first of a run, 500 ps apart, and the run (R98). -/
  adc : List (Nat × List Adc)
  /-- Instant of the latest sample taken. -/
  adcTo : Nat
  deriving DecidableEq, Repr

/-- The unwrapping state of one position (R123). -/
structure PosSt where
  lw : Int
  u : Int
  dp : Int
  steps : Nat
  fresh : Bool
  /-- c[s] for the slots set, and the reference slot. -/
  c : List (Nat × Cx)
  ref : Nat
  deriving DecidableEq, Repr

/-- The running averages of the polarisation combine (R107). -/
structure PolSt where
  sx : Rat
  sy : Rat
  cxy : Cx
  deriving DecidableEq, Repr

/-- A frame that the sentinel check has taken: whether it is kept, t_L, the modulation frequency in Hz, the unwrapped phase in 2^-16 rad, its mean
coil AMP above LVexp, times 584, and PHS.SENTTOL as it found it (R134, R137). -/
structure ChkFrame where
  ok : Bool
  t : Nat
  hz : Nat
  phi : Int
  lv : Int
  tol : Word
  deriving DecidableEq, Repr

/-- The phase pipeline and the sentinel check (chapter 5). -/
structure PhsSt where
  /-- By position plus 740, so that coil positions come first. -/
  pos : List (Nat × PosSt)
  /-- Coil record's own state, by position plus 740. -/
  coil : List (Nat × PosSt)
  /-- By slot x 2^20 + position + 740. -/
  pol : List (Nat × PolSt)
  /-- The check gauge's own state. -/
  chk : PosSt
  /-- Start of the sentinel window in force (fabric time), and the frames taken since. -/
  winAt : Nat
  taken : List ChkFrame
  /-- PHS.SENTCHK and PHS.SENTTOL in force, and the fabric time from which EN has been 1 in it (R137). -/
  sentChk : Word
  sentTol : Word
  sentOn : Nat
  /-- A sentinel check has failed and no later window has passed. -/
  failed : Bool
  /-- FRAME of the last record of each port (R129). -/
  lastFrame : List (Nat × Nat)
  /-- POLMODE and POLK of the last frame, for the reset of R107. -/
  lastPol : Nat
  /-- PHS.GAUGE.LEN of the latest launch, 0 before the first (R127). -/
  lastGauge : Nat
  /-- Slots that still owe a frame with SETTLING after a position met the limit of R126 (Table PHS-5), in frames and in coil records, as masks. -/
  restart : Nat
  restartC : Nat
  /-- Compressed values of the latest A and B launches of a slot, by slot x 2 + member (R105). -/
  halves : List (Nat × List (Cx × Cx))
  deriving DecidableEq, Repr
/-- Where the hop of SYN-M between LO windows stands (R142). -/
inductive HopPhase where
  | none
  /-- It begins when the capture window of the launch closes. -/
  | after (launch : Nat)
  /-- It runs since the time given, towards a window. -/
  | hopping (since window : Nat)
  deriving DecidableEq, Repr

/-- A profile in progress (R146, R151). -/
structure Prof where
  /-- By window: launches accumulated, accumulators S_w[i][k] by position and bin, and C_w[k]. -/
  acc : List (Nat × Nat × List (List Rat) × List Rat)
  nacc : Nat
  /-- t_L of the first and the last launch accumulated, fabric time. -/
  first : Nat
  last : Nat
  nhopd : Nat
  nskip : Nat
  settle : Bool
  clip : Bool
  suspect : Bool
  /-- ACC, FIT and FIBA to FIBD of the port as latched for this profile. -/
  navg : Nat
  fit : Word
  fiba : Word
  fibb : Word
  fibc : Word
  fibd : Word
  plan : Word
  range : Nat
  port : Nat
  /-- DTS.CTL and the window centres in kHz it is measured under. -/
  ctl : Word
  nucs : List Nat
  /-- The profile is over: only launches before this number still belong to it. -/
  lim : Option Nat
  /-- It has ended under R146 and is to be posted with PARTIAL. -/
  ended : Bool
  deriving DecidableEq, Repr

/-- FIBRECAL while it runs: TAG and arguments, its spectra by LO window, launches made, and whether a launch has failed (R153). -/
structure FibRun where
  tag : Nat
  args : List Nat
  prof : Prof
  made : Nat
  failed : Bool
  /-- The window centre SYN-M is tuned to for the command, kHz (0: none yet), and when its retune began (`up`). -/
  lo : Nat
  since : Nat
  deriving DecidableEq, Repr

/-- The latest profile of a port, as R269 uses it: number, LASTSTAMP (fabric time), STEP, and TEMP with VALID by entry. -/
structure ProfOut where
  port : Nat
  num : Nat
  last : Nat
  step : Nat
  temps : List (Int × Bool)
  deriving DecidableEq, Repr

/-- The temperature function (chapter 6). -/
structure DtsSt where
  /-- LO window in force and temperature launches of the dwell so far. -/
  cur : Nat
  dwell : Nat
  hop : HopPhase
  /-- Launch that occupies each staging half. -/
  halves : Vector (Option Nat) 2
  /-- Launches staged whole that wait for the vector engine, oldest first. -/
  staged : List Launch
  /-- Profiles not yet posted, oldest first; at most the last is in progress. -/
  prof : List Prof
  /-- O of the previous profile, kHz (R148). -/
  o : Rat
  profs : List ProfOut
  /-- FIBRECAL running (R153). -/
  fib : Option FibRun
  deriving DecidableEq, Repr

/-- The channel word state of R174. -/
structure ChSt where
  /-- C in units of 2^-28 rad. -/
  c : Int
  fresh : Bool
  /-- B(p) of the positions that hold one. -/
  b : List (Nat × Int)
  deriving DecidableEq, Repr

/-- One launch period of the temporal filter's history (R179, R184): n, settling, filled, and value, QUAL and AMP by
stream-set index. -/
structure HistRow where
  n : Nat
  settle : Bool
  filled : Bool
  suspect : Bool
  vals : List (Int × Nat × Nat)
  deriving DecidableEq, Repr

/-- One output row of a stream block: index, settling, filled, limit, and words by set index with their QUAL. -/
structure OutRow where
  k : Nat
  settle : Bool
  filled : Bool
  ovr : Bool
  suspect : Bool
  vals : List (Int × Nat × Nat)
  /-- The instant it is stamped with (R180). -/
  t : Int
  e : Int
  deriving DecidableEq, Repr

/-- The detectors of one channel (R185). -/
structure Det where
  m : Option Rat
  e : Rat
  pk : Rat
  pidx : Nat
  ss : Rat
  nvalid : Nat
  deriving DecidableEq, Repr

/-- What STR takes at frm.start (R172, R178): control registers, range, port, stream set with map indices, start and period. -/
structure StrRun where
  ctl : Word
  blk : Word
  dctl : Word
  ucfg : Word
  range : Nat
  port : Nat
  set : List Nat
  setIx : List Nat
  s0 : Nat
  period : Nat
  deriving DecidableEq, Repr

/-- Channel streams (chapter 8). -/
structure StrSt where
  /-- Entries of the active maps, 64 words each. -/
  maps : List (Nat × List Nat)
  /-- Staged map words, by map x 128 + word. -/
  mapStage : List (Nat × Nat)
  /-- USER taps. -/
  taps : List (Nat × Nat)
  /-- Latched at frm.start: CTL, BLK, DCTL, UCFG, RANGE and the PORT. -/
  ctl : Word
  blk : Word
  range : Nat
  port : Nat
  dctl : Word
  ucfg : Word
  /-- The stream set; streaming runs between frm.start and its flush. -/
  set : List Nat
  setIx : List Nat
  streaming : Bool
  chans : List (Nat × ChSt)
  /-- History, newest first. -/
  hist : List HistRow
  /-- Outputs computed, and the rows held for the block in progress, oldest first. -/
  k : Nat
  rows : List OutRow
  dets : List Det
  /-- Outputs of the detector window in progress, oldest first, with their values left out. -/
  detRows : List OutRow
  /-- Launch instants (t_L, fabric time) by FRAME, newest first, for the stamps of R180; the start S. -/
  times : List (Nat × Int × Int)
  s0 : Nat
  period : Nat
  /-- The stream is to be flushed once the last frame is published (R186). -/
  flush : Bool
  /-- A run accepted while frames of the run before it are unpublished: what it starts with after the flush (R186). -/
  next : Option StrRun
  /-- A commit in progress: its map, and the time (`up`) of its completion (R177). -/
  commit : Option (Fin 16 × Nat)
  /-- The latest output, whose values an overflowing one repeats (R179). -/
  prev : List (Int × Nat × Nat)
  /-- The latest commit that completed: its map, the time (`up`), and the entries the map had before (R178). -/
  lastMap : Option (Nat × Nat × List Nat)
  /-- Launch periods of the run that ended last (R184, R186). -/
  ended : Nat
  /-- WORD has passed 1,023: taps are ignored until STR.CSADDR is written (R182). -/
  tapEnd : Bool
  deriving DecidableEq, Repr

/-- A hardware loop of SV (R169): body `[first, last)`, iterations left, and whether it is past its first iteration. -/
structure VLoop where
  first : Nat
  last : Nat
  left : Nat
  again : Bool
  deriving DecidableEq, Repr

/-- A lane value or accumulator part pair. -/
abbrev Lane := Int × Int

/-- Running extremes of a lane: MXV, MXI, MNV, MNI (R167). -/
structure Extreme where
  mxv : Int
  mxi : Nat
  mnv : Int
  mni : Nat
  deriving DecidableEq, Repr

/-- The job the vector engine runs (R157 to R170). -/
structure VecJob where
  /-- Queue it came from and its entry. -/
  q : Nat
  entry : Entry
  /-- The job block as read at the start. -/
  block : List Nat
  /-- The DTS reservation in the view of this job. -/
  dtsres : Bool
  limit : Nat
  kaddr : Nat
  klen : Nat
  /-- Kernel address of the next instruction. -/
  pc : Nat
  w : Vector DWord 15
  v : Vector (Vector Lane 16) 16
  acc : Vector (Vector Lane 16) 4
  peak : Nat
  shift : Nat
  ext : Vector Extreme 16
  satcnt : Nat
  loops : List VLoop
  /-- Cycles so far, and those that the fetch of the next instruction adds to them (R170). -/
  cyc : Nat
  fill : Nat
  /-- Issue slot of the next instruction, and the first slot at which a consumer of each result may issue (Table VEC-6). -/
  slot : Nat
  vrdy : Vector Nat 16
  srdy : Vector Nat 16
  bfrdy : Nat
  mxrdy : Nat
  strdy : List ((Nat × Nat) × Nat)
  /-- The kernel has ended: CAUSE and CODE. -/
  ended : Option (Nat × Nat)
  deriving DecidableEq, Repr

/-- The vector engine (chapter 7). X, Y and Z list the elements that differ from 0. -/
structure VecSt where
  x : List (Nat × Nat)
  y : List (Nat × Nat)
  z : List (Nat × Nat)
  /-- Elements with an uncorrectable error: memory 0 X, 1 Y, 2 Z, and element. -/
  bad : List (Nat × Nat)
  /-- 0 until the DTS function has worked in its reserved elements; then the number of the free values they hold where `own` has none. -/
  dtsMark : Nat
  /-- Reserved elements that a job has stored to since, by memory and element. -/
  own : List (Nat × Nat)
  job : Option VecJob
  /-- When the engine last became free for a job (`up`), and whether a DTS job begun under EN 1 runs on after EN was cleared (R145, R171). -/
  freeAt : Nat
  dtsRun : Bool
  deriving DecidableEq, Repr

/-- What a flasher channel latches at ARM: MODE, WIDTH, PER, T0 (fabric ps). -/
structure FlsPlan where
  mode : Nat
  width : Nat
  per : Nat
  t0 : Nat
  deriving DecidableEq, Repr

/-- A pulse in progress: turn-on and turn-off instants (fabric ps), applied current in uA, and whether it is a diagnostic pulse;
`i` is its number since ARM. -/
structure FlsPulse where
  t : Nat
  fin : Nat
  cur : Rat
  diag : Bool
  i : Nat
  deriving DecidableEq, Repr

/-- One flasher channel (chapter 17). -/
structure FlsCh where
  plan : FlsPlan
  /-- A re-armed schedule that has not taken over (R381). -/
  nxt : Option FlsPlan
  /-- Next pulse of the schedule; a MODE 2 pulse is pending. -/
  i : Nat
  pend : Bool
  on : Option FlsPulse
  /-- Disarm at the end of the pulse in progress (R382). -/
  ending : Bool
  /-- MODE 0: the sink conducts from T0 on; accumulator of R383, next slot (fabric ps), and whether the present slot is on. -/
  glow : Bool
  acc : Nat
  slotAt : Nat
  slotOn : Bool
  /-- Begin, end and current (uA) of recent pulses, newest first (R379). -/
  charge : List (Nat × Nat × Rat)
  /-- Block of R388: pulses, open and short evidence, and the width and current it is for. -/
  cnt : Nat
  nopen : Nat
  nshort : Nat
  cntFor : Nat × Rat
  /-- Diagnosis window: start (`up`), verdict reached, time of the diagnostic pulse (`up`) and whether it has been made. -/
  winAt : Nat
  verdict : Bool
  diagAt : Nat
  diagDone : Bool
  /-- The pulses turned on that await their check, oldest first. -/
  toCheck : List FlsPulse
  /-- The derated limit is 0 and its alarm has been raised. -/
  cold : Bool
  /-- Since the previous status record: DERATED, LIMITED, DIAG, lowest headroom in 10 mV. -/
  rDer : Bool
  rLim : Bool
  rDiag : Bool
  head : Option Nat
  deriving DecidableEq, Repr

/-- The flasher (chapter 17). -/
structure FlsSt where
  /-- Channels armed. -/
  armed : List Nat
  ch : Vector FlsCh 16
  /-- FLV in 10 mV, the main input as last measured in 10 mV, and the headrooms of the present 10 ms with their channels. -/
  flv : Nat
  vin : Nat
  heads : List (Nat × Nat)
  /-- Times of the last adaptation, power check and derating check (`up`). -/
  flvAt : Nat
  pwrAt : Nat
  tmpAt : Nat
  /-- FLS.PWR of the last check where it was above 12 W. -/
  ovr : Option Nat
  /-- Time of the last status record and of the last periodic one (`up`), a state change not yet reported, records since reset. -/
  stAt : Nat
  stBase : Nat
  changed : Bool
  nrep : Nat
  deriving DecidableEq, Repr


/-- A fast command accepted for a link and not yet carried: module tick at which it acts, CODE and ARG (R197). -/
structure FastCmd where
  k : Nat
  code : Nat
  arg : Nat
  /-- Downstream tick of acceptance, and the source: 0 the trigger engine, 1 the patrol and the ingress FIFO, 2 FEL.FCMD (R198). -/
  r : Nat
  src : Nat
  deriving DecidableEq, Repr

/-- A patrol of one link (R208): start (`up`), first superframe, probes carried, the probe that the TDC unit times with the instant (fabric ps) its
SF block left, and the echoes timed: probe, ARG and measured time in ps. -/
structure ProbeRun where
  since : Nat
  j0 : Nat
  sent : List Nat
  meas : Option (Nat × Nat)
  echoes : List (Nat × Nat × Int)
  deriving DecidableEq, Repr

/-- A hit of the module: fabric time in ps, link, channel, charge, and whether its frame carried LOST. -/
structure Hit where
  t : Int
  link : Nat
  chan : Nat
  q : Nat
  lost : Bool
  deriving DecidableEq, Repr

/-- An entry of a hit block (Table FEL-8). -/
structure HitEntry where
  t : Int
  late : Bool
  keep : Nat
  chan : Nat
  q : Nat
  deriving DecidableEq, Repr

/-- The hit block in progress: entries oldest first, FELOST, and the fabric time at which its first entry was decided. -/
structure HitBlock where
  entries : List HitEntry
  lost : Bool
  since : Nat
  deriving DecidableEq, Repr

/-- One FE link (chapter 9). -/
structure LinkSt where
  /-- Entry into the state of FEL.LSTAT.STATE (`up`). -/
  since : Nat
  /-- HELLO pages 0 and 1 seen in ALIGN, and their last payloads. -/
  seen0 : Nat
  seen1 : Nat
  page0 : Nat
  page1 : Nat
  /-- Module tick of the last BCRESET that acted, and T0 as full fabric time. -/
  kB : Nat
  t0 : Nat
  /-- Until the first frame with FIRST: the T0, extension and EPOCH that frames are still converted with (R211). -/
  old : Option (Nat × Nat × Option Nat)
  /-- EPOCH of the previous frame. -/
  epoch : Option Nat
  fcs : List FastCmd
  /-- BCRESETs carried and not yet acted: their acting ticks. -/
  bc : List Nat
  /-- Commands sent in SYNC. -/
  syncs : Nat
  probe : Option ProbeRun
  /-- Hit blocks carry SUSPECT under R209. -/
  jump : Bool
  /-- Hit blocks carry SUSPECT under R211. -/
  syncBad : Bool
  /-- Ingress FIFO fill in blocks; THROTTLE is in force; the next block carries INGDROP. -/
  fill : Nat
  throttled : Bool
  ingDrop : Bool
  ncut : Nat
  block : Option HitBlock
  /-- Slots of the last SF block sent, as CODE, TICK, ARG, and its SFC. -/
  sf : List (Nat × Nat × Nat)
  sfc : Nat
  /-- The 16 blocks of the last superframe sent, as sync header and payload; their payloads as scrambled for the line; and the last 58 bits of the
  scrambler, the latest in bit 0 (R193, R194). -/
  down : List (Nat × Nat)
  line : List Nat
  scr : Nat
  /-- Upstream block lock; valid headers in a row, or headers tested in the window of 64; and invalid ones in it (R193). -/
  locked : Bool
  hdrN : Nat
  hdrBad : Nat
  /-- The last STATUS block received. -/
  status : Nat
  deriving DecidableEq, Repr

/-- A slow-control transaction (R201). -/
structure ScTx where
  link : Nat
  wr : Bool
  chip : Nat
  reg : Nat
  tid : Nat
  /-- FEL.SCWDATA at the start. -/
  data : Nat
  /-- Start (`up`); whether the request has been sent. -/
  since : Nat
  sent : Bool
  deriving DecidableEq, Repr

/-- Front-end links and zero suppression (chapter 9). -/
structure FelSt where
  links : Vector LinkSt 64
  /-- Next TID. -/
  tid : Nat
  sc : Option ScTx
  /-- Links the periodic patrol has still to take, the current one first; fabric second of the last start. -/
  patrolQ : List Nat
  patrolSec : Nat
  /-- Next downstream superframe. -/
  sfNext : Nat
  /-- Hits that have arrived, and those held for their decision. -/
  hits : List Hit
  held : List Hit
  deriving DecidableEq, Repr

/-- An item of a class ring (Table TRG-6): kind, port, stamp in ps, its words (DT left out for kinds 2 to 4), and the flags its
source carries. -/
structure RingItem where
  kind : Nat
  port : Nat
  t : Int
  words : List Nat
  flags : Nat
  deriving DecidableEq, Repr

/-- The state of one channel of a condition (R219, R221, R222). -/
structure CondChan where
  k : Nat
  /-- The channel, 0 for a source with one trace. -/
  key : Nat
  /-- The last included sample: stamp and value. -/
  last : Option (Int × Rat)
  belowHi : Bool
  aboveHi : Bool
  belowLo : Bool
  aboveLo : Bool
  /-- Last counted up-crossings of HI and LO that a rule still uses, and whether HI was crossed upwards since the latter. -/
  upHi : Option Int
  upLo : Option Int
  hiBetween : Bool
  /-- Last counted crossing of HI, whether its edge was coarse, and the channel that made it; a TIMEOUT has fired for it. -/
  lastHi : Option Int
  coarse : Bool
  chan : Nat
  fired : Bool
  deriving DecidableEq, Repr

/-- A DAS sample on its way to a condition: condition, map index, channel, instant and trace value (R219). -/
structure DasSample where
  k : Nat
  idx : Nat
  chan : Nat
  t : Int
  x : Rat
  deriving DecidableEq, Repr

/-- A condition event: condition, map index, stamp, channel, coarse time, and its arrival (fabric time). -/
structure CondEvent where
  k : Nat
  idx : Nat
  t : Int
  chan : Nat
  coarse : Bool
  seen : Int
  deriving DecidableEq, Repr

/-- An interval in which a LEVEL condition is or was active. -/
structure ActiveSpan where
  k : Nat
  key : Nat
  lo : Int
  hi : Option Int
  /-- Arrival of the event that opened it (fabric time). -/
  seen : Int
  deriving DecidableEq, Repr

/-- A candidate, or the trigger made from it. -/
structure Cand where
  c : Nat
  t : Int
  term : Nat
  cond : Nat
  chan : Nat
  coarse : Bool
  /-- Number of the CAND message and the time it was sent, under FAB. -/
  cid : Nat
  sent : Nat
  deriving DecidableEq, Repr

/-- A segment not yet published whole. -/
structure Seg where
  c : Nat
  t : Int
  num : Nat
  seg : Nat
  term : Nat
  cond : Nat
  chan : Nat
  coarse : Bool
  femiss : Bool
  fab : Bool
  /-- Not to be copied before this fabric time. -/
  notBefore : Int
  /-- Streamed: next part, end of what is posted, span lost, TRUNC. -/
  part : Nat
  upTo : Int
  lost : Nat
  trunc : Bool
  /-- Streamed: the start of its data, PRELEN and whether it is short, as found at its acceptance; and the flags of the items posted so far. -/
  start : Option (Int × Nat × Bool)
  flags : Nat
  /-- Streamed: the latest stamp of unposted window data that the ring has overwritten. -/
  lostTo : Option Int
  deriving DecidableEq, Repr

/-- The trigger engine (chapter 10). -/
structure TrgSt where
  armT : Int
  /-- S of a stop in progress. -/
  stopT : Option Int
  conds : List CondChan
  /-- Included DAS samples that have not reached their condition, oldest first. -/
  das : List DasSample
  events : List CondEvent
  spans : List ActiveSpan
  /-- Hits waiting for a primitive, and live hits with their end. -/
  hpWait : List (Nat × Hit)
  hpLive : List (Nat × Int × Hit)
  /-- Candidate times decided, previous accepted trigger and refusals since, by class. -/
  decided : List (Nat × Int)
  tp : Vector (Option Int) 4
  refused : Vector Nat 4
  /-- Candidates at the decider, and the next candidate number. -/
  asked : List Cand
  cid : Nat
  segs : List Seg
  /-- Windows of segments already copied, by class. -/
  copied : List (Nat × Int × Int)
  /-- Rings, each item with its class, oldest first. -/
  ring : List (Nat × RingItem)
  /-- Items that wait at the crossing while class EVT is throttled. -/
  cross : List (Nat × RingItem)
  /-- TRIG_OUT: MODE 2 latches, edges due (output, fabric time, whether a SOFT pulse), and ends of pulses in progress. -/
  outs : Vector Bool 4
  edges : List (Nat × Nat × Bool)
  pulse : Vector (Option Nat) 4
  /-- Second of the last missed trigger logged, and how many were logged in it. -/
  missSec : Nat
  missN : Nat
  /-- Up time of the last accepted trigger, for DTEST (Table DBG-18). -/
  accAt : Option Nat
  deriving DecidableEq, Repr

/-- The statistics block of a TDC unit (R280). -/
structure TdcStats where
  n : Nat
  sum : Int
  sumsq : Int
  lo : Int
  hi : Int
  order : Nat
  sublsb : Nat
  invalid : Nat
  busy : Nat
  first : Int
  last : Int
  deriving DecidableEq, Repr

/-- A TDC unit (R273 to R280). Stamps are in units of 2^-12 ps. -/
structure TdcUnit where
  /-- Stopped under CONT 0. -/
  stopped : Bool
  /-- The owner whose measurement runs or ended last. -/
  usr : Nat
  start : Option Int
  stop : Option Int
  /-- Arrival of the first edge. -/
  since : Nat
  /-- In the dead time after a result. -/
  dead : Bool
  stats : TdcStats
  deriving DecidableEq, Repr

/-- A hit block as EVB has read it: link, QSEQ and posting time (fabric time) of its entry, hits and record flags. -/
structure HitRead where
  l : Nat
  qseq : Nat
  posted : Int
  hits : List HitEntry
  flags : Nat
  deriving DecidableEq, Repr

/-- A sub-block of a segment or fragment: kind, port and items with their stamps (R239). -/
structure SubBlock where
  kind : Nat
  port : Nat
  items : List RingItem
  deriving DecidableEq, Repr

/-- A fragment window (R243), open or closed; `subs` are the segment's sub-blocks once published. -/
structure EvbWin where
  c : Nat
  t : Int
  num : Nat
  epoch : Nat
  keyed : Bool
  segWait : Bool
  subs : List SubBlock
  flags : Nat
  /-- The hits copied into it: link, QSEQ and flags of the block, and the hit. -/
  hits : List (Nat × Nat × Nat × HitEntry)
  /-- Close (fabric time), SEQ of its fragment, late hits with their link and the flags of their block, and whether the straggler is posted. -/
  closed : Option Nat
  evseq : Nat
  late : List (Nat × Nat × HitEntry)
  posted : Bool
  deriving DecidableEq, Repr

/-- A published part of a fragment or local straggler: the words of its record, where it lies, its queue and QSEQ. -/
structure FragPart where
  words : List Nat
  addr : Nat
  q : Nat
  qseq : Nat
  deriving DecidableEq, Repr

/-- A fragment or local straggler on its way to a builder: its published parts, how many are still to be published, whether each waits for a
container (EVB.CTL.ZIP), and whether it is sent and acknowledged. -/
structure Frag where
  id : Nat
  fseq : Nat
  role : Nat
  parts : List FragPart
  left : Nat
  zip : Bool
  sent : Bool
  acked : Bool
  deriving DecidableEq, Repr

/-- A published fragment part that waits for its container under EVB.CTL.ZIP: its fragment, its place in it, the words of its record, and whether a
lane has it. -/
structure ZipPart where
  id : Nat
  part : Nat
  words : List Nat
  taken : Bool
  deriving DecidableEq, Repr

/-- A CREDIT that a builder owes once a record is published: the number it is owed under, role, device, units and FSEQ (R251). -/
structure OwedCredit where
  id : Nat
  role : Nat
  dev : Nat
  units : Nat
  fseq : Nat
  deriving DecidableEq, Repr

/-- A closed event as the builder remembers it: KEYED, EPOCH, TRIGNUM, T_e, SEQ of its record and its number among the role's events (R253). -/
structure ClosedEvent where
  keyed : Bool
  epoch : Nat
  num : Nat
  t : Int
  seq : Nat
  count : Nat
  deriving DecidableEq, Repr

/-- A candidate at this module's decider. -/
structure DecCand where
  dev : Nat
  c : Nat
  t : Int
  cid : Nat
  deriving DecidableEq, Repr

/-- An event open at this module's builder: role, key, T_e, expected devices, and fragment records by device. -/
structure OpenEvent where
  role : Nat
  keyed : Bool
  epoch : Nat
  num : Nat
  t : Int
  expect : Option (List Nat)
  frags : List (Nat × List Nat)
  deriving DecidableEq, Repr

/-- Event building (chapter 11). -/
structure EvbSt where
  /-- Next block to read, by link. -/
  rd : List (Nat × Nat)
  blocks : List HitRead
  wins : List EvbWin
  frags : List Frag
  zip : List ZipPart
  /-- Next FSEQ, credit and BEPOCH of the grant, by builder role. -/
  fseq : Vector Nat 4
  credit : Vector Nat 4
  bepoch : Vector Nat 4
  /-- A fragment has been dropped since the last one published. -/
  loss : Bool
  decPend : List DecCand
  decDone : Option Int
  decTp : Option Int
  decBusy : List Nat
  opens : List OpenEvent
  /-- Closed events, newest first. -/
  closed : List ClosedEvent
  /-- Fragments of which a part has been posted in a straggler or an event that closed: role, device, FSEQ and words (R251). -/
  strag : List (Nat × Nat × Nat × Nat)
  /-- Events since the builder role was taken, by role. -/
  bcount : Vector Nat 4
  /-- CREDITs owed, the next number to owe under and the next of a fragment. -/
  owed : List OwedCredit
  owedId : Nat
  fragId : Nat
  deriving DecidableEq, Repr

/-- Time transfer on one fabric port (R263, R290). -/
structure PortTime where
  /-- Twice d of the last 64 accepted exchanges, newest first. -/
  ds : List Int
  /-- XSEQ of the next TIMEX to send, own departures and own arrivals by XSEQ, newest first. -/
  xseq : Nat
  sent : List (Nat × Nat)
  got : List (Nat × Nat)
  /-- Time of the last TIMEX sent (`up`). -/
  sentAt : Nat
  /-- From the peer's last TIMEX: STATE, ROOTHOLD, hops to the root, root DEV and epoch. -/
  peer : Option (Nat × Bool × Nat × Nat × Nat)
  deriving DecidableEq, Repr

/-- Asymmetry of one fabric port (R269 to R271). -/
structure AsySt where
  /-- Target and applied a, in ps. -/
  target : Rat
  applied : Rat
  /-- Time of the last slew (`up`). -/
  slewAt : Nat
  /-- LASTSTAMP of the profile last used (fabric time). -/
  last : Option Nat
  /-- Time of the last TSUB sent, and since which no TINT has come (`up`). -/
  subAt : Option Nat
  subSince : Option Nat
  /-- The profile last used has been found older than AGE. -/
  stale : Bool
  deriving DecidableEq, Repr

/-- A subscription to this module's profiles (R270): requester, SENSE, FIRST, LAST, TREF. -/
structure TSubscr where
  dev : Nat
  sense : Nat
  first : Nat
  last : Nat
  tref : Int
  deriving DecidableEq, Repr

/-- Fabric time and edge timing (chapter 12). -/
structure TimSt where
  /-- TDCCALs in progress: TAG, units left, result words so far, and whether a unit has failed (R279). -/
  cal : List (Nat × List Nat × List Nat × Bool)
  tdc : Vector TdcUnit 8
  ports : Vector PortTime 8
  /-- Filtered offset to the parent in ps. -/
  theta : Int
  /-- Time of the last accepted parent exchange (`up`). -/
  heard : Nat
  /-- Time since which the filtered offset has stayed within 100 ps (`up`). -/
  okSince : Option Nat
  /-- The root's first second is set. -/
  firstSet : Bool
  /-- A written TIM.NEXTSEC waits for the next boundary, and when it was written (`up`). -/
  nextPend : Bool
  nextAt : Nat
  /-- Correction of the reference in 10^-12: the applied one at a time (`up`), and the one it approaches (R337). -/
  freq : Int
  freqAt : Nat
  freqReq : Int
  /-- Consecutive good and bad 1PPS edges. -/
  ppsGood : Nat
  ppsBad : Nat
  asy : Vector AsySt 8
  subs : List TSubscr
  deriving DecidableEq, Repr

/-- A message this module's engines send over the fabric: destination, CLASS, KIND and payload words (R301). -/
structure Msg where
  dst : Nat
  cls : Nat
  kind : Nat
  words : List Nat
  /-- HOST of the frame, and the port and ports to follow of a source-routed reply (R300, R304). -/
  host : Nat := 0
  route : Option (Nat × List Nat) := none
  deriving DecidableEq, Repr


/-- A frame that waits to be forwarded: class, arrival port, its buffer units there, output port, the frame as it is to leave, and
whether it is to end with an inverted CRC (R286, R298). -/
structure FwdFrame where
  cls : Nat
  arr : Nat
  units : Nat
  out : Nat
  frame : Frame
  stomp : Bool
  deriving DecidableEq, Repr

/-- A message part of which has left: its source (queue number, or 128 for the engines' messages), MSGID, words sent, port,
CLASS, KIND, CRIT, destination, HOST, route, and payload (R301). -/
structure TxProg where
  src : Nat
  tap : Option Nat
  msgid : Nat
  sent : Nat
  port : Nat
  cls : Nat
  kind : Nat
  crit : Bool
  dst : Nat
  host : Nat
  route : Option (Nat × List Nat)
  words : List Nat
  /-- Where the words of a queue entry lie. -/
  addr : Option Nat
  deriving DecidableEq, Repr

/-- One fabric port (R287, R288, R291, R292). -/
structure FabPort where
  /-- Entry into the state of LSTATE (`up`). -/
  since : Nat
  /-- Last valid PHER heard and last PHER sent (`up`), and PHERs sent. -/
  heard : Option Nat
  sentAt : Nat
  phers : Nat
  /-- Serial number of the peer, and whether its last PHER names an identifier: ASSIGNED or CLAIM. -/
  nserial : Nat
  named : Bool
  /-- PHER frames in AUTH whose tags verified, one after another. -/
  auth : Nat
  /-- The peer has sent its whole LSA database. -/
  dbIn : Bool
  /-- Credit held, by class, and the peer's cumulative count last heard. -/
  credit : Vector Nat 4
  heardFreed : Vector Nat 4
  /-- Units occupied and freed here, by class; the counts last reported, and when (`up`). -/
  occ : Vector Nat 4
  freed : Vector Nat 4
  told : Vector Nat 4
  toldAt : Nat
  deriving DecidableEq, Repr

/-- An LSA of the database (R296): origin, flags, instar, LSASEQ, serial number and links as port, neighbour, its port, COST. -/
structure Lsa where
  dev : Nat
  claim : Bool
  fixed : Bool
  instar : Nat
  seq : Nat
  serial : Nat
  links : List (Nat × Nat × Nat × Nat)
  /-- Time of arrival (`up`). -/
  heard : Nat
  deriving DecidableEq, Repr

/-- A message being reassembled (R301): its key, first arrival (`up`), fragments as offset and words, the end if known, the
arrival port and header of its last fragment, and whether every fragment was authenticated. -/
structure Reasm where
  src : Nat
  host : Nat
  cls : Nat
  msgid : Nat
  kind : Nat
  since : Nat
  frags : List (Nat × List Nat)
  fin : Option Nat
  arr : Nat
  route : Option (List Nat)
  auth : Bool
  /-- The frames as they came. -/
  frames : List Frame
  deriving DecidableEq, Repr

/-- The FCNT window of a source (R305): SRC, HOST, KEYID, highest accepted, and the accepted ones of the 64 behind it. -/
structure FcntWin where
  src : Nat
  host : Nat
  keyid : Nat
  hi : Nat
  seen : List Nat
  deriving DecidableEq, Repr

/-- A management request posted to Q125 (R304): handle, the requester's TAG, SRC, HOST, return route, and its mark. -/
structure MgmtReq where
  handle : Nat
  tag : Nat
  src : Nat
  host : Nat
  route : Option (Nat × List Nat)
  /-- CODE of its command block. -/
  code : Nat
  auth : Bool
  deriving DecidableEq, Repr

/-- A piece of a record on an Ethernet port (R311): number, queue, entry, offset and length in bytes, record length, last send
(`up`), first send, repeats, and whether it is acknowledged. -/
structure EthPiece where
  dseq : Nat
  q : Nat
  qseq : Nat
  roff : Nat
  n : Nat
  rlen : Nat
  sentAt : Nat
  first : Nat
  reps : Nat
  acked : Bool
  deriving DecidableEq, Repr

/-- What an Ethernet port sends: a datagram of Table FAB-10, the frames of Table FAB-9. -/
inductive EthKind where
  | datagram | arpRequest | arpReply | neighbourSolicit | neighbourAdvert | echoReply | groupReport | delayReq
  deriving DecidableEq, Repr

/-- A frame that leaves an Ethernet port: its destination and, of a datagram, UDP port, header words and payload words; of an echo reply, the bytes it
returns; of a group report, the groups; of a Delay_Req, its sequence number (R310 to R313). -/
structure EthOut where
  kind : EthKind
  dst : Nat
  port : Nat := 0
  w0 : Nat := 0
  w1 : Nat := 0
  words : List Nat := []
  deriving DecidableEq, Repr

/-- One Ethernet port (R310 to R312). -/
structure EthPort where
  /-- Number of the next piece, pieces not yet acknowledged oldest first, and the next record and byte to send by queue. -/
  dseq : Nat
  pieces : List EthPiece
  prog : List (Nat × Nat × Nat)
  /-- A SYNC awaits its ACK; SYNCs sent; time of the last ACK or SYNC (`up`); the 5 s alarm has been raised. -/
  sync : Bool
  ackAt : Nat
  alarmed : Bool
  /-- Forward taps switched off with a record in progress: queue, tap, and CLASS (R302). -/
  drain : List (Nat × Nat × Nat)
  /-- ARP and ND caches: address and time (`up`). -/
  arp : List (Nat × Nat)
  nd : List (Nat × Nat)
  /-- Start of duplicate address detection (`up`), and the own IPv6 addresses found in use elsewhere (R310). -/
  dadAt : Nat
  dups : List Nat
  /-- Open management requests: HOST, TAG, requester's address and UDP port. -/
  reqs : List (Nat × Nat × Nat × Nat)
  /-- Frames the latest command that sent any has sent. -/
  tx : List EthOut
  deriving DecidableEq, Repr

/-- A master whose Announces the PTP clock has received: its port identity, data set, log of the Announce interval, and when the latest two came (`up`). -/
structure PtpMaster where
  src : Nat
  ds : List Nat
  logInt : Int
  last : Nat
  before : Option Nat
  deriving DecidableEq, Repr

/-- The PTP ordinary clock (R313): masters heard; the one chosen; the Sync that waits for its Follow_Up, with its arrival (ps); t1 and t2 of the last Sync;
the Delay_Req sent, by sequence number and departure (ps); Delay_Reqs sent. -/
structure PtpSt where
  masters : List PtpMaster
  best : Option Nat
  wait : Option (Nat × Int)
  sync : Option (Int × Int)
  req : Option (Nat × Int)
  seq : Nat
  deriving DecidableEq, Repr

/-- The fabric (chapter 13). -/
structure FabSt where
  /-- Messages of the module's engines that wait to be sent. -/
  out : List Msg
  ports : Vector FabPort 8
  /-- Link-state database, this module's own LSA left out; time of the last own flood (`up`). -/
  lsdb : List Lsa
  floodAt : Nat
  /-- Identifier claimed under MODE 1 and since when (`up`). -/
  claim : Option (Nat × Nat)
  /-- Largest LASTINSTAR heard (R410), and the instar last recorded for each device (R291). -/
  lastInstar : Option Nat
  instarOf : List (Nat × Nat)
  /-- Next MSGID by class. -/
  msgid : Vector Nat 4
  /-- FCNT under the current key of slot 1; slot 0 is in FAB.FCNT. Next and previous KEYIDs of both slots. -/
  fcnt1 : Nat
  nextKey : Vector (Option Nat) 2
  prevKey : Vector (Option Nat) 2
  /-- The keys of both slots, 32 bytes each: current, next and previous of slot 0, then of slot 1 (R305, R307). -/
  keyVals : Vector (List Nat) 6
  wins : List FcntWin
  reasm : List Reasm
  fwd : List FwdFrame
  prog : List TxProg
  reqs : List MgmtReq
  /-- Handles given out. -/
  handles : Nat
  eth : Vector EthPort 8
  ptp : PtpSt
  /-- Last frame sent by each port. -/
  tx : List (Nat × Frame)
  deriving DecidableEq, Repr

/-- A request admitted to a DRAM channel: class of Table MEM-2, physical address, admission (`up`), and whether it writes. -/
structure MemReq where
  cls : Nat
  addr : Nat
  since : Nat
  write : Bool
  deriving DecidableEq, Repr

/-- A DRAM channel (R316, R319, R320): admitted requests oldest first, open row by bank, a refresh due, fill summed over time in entry-ps,
time of the last change (`up`), bytes moved in the present millisecond, and the pattern each bank's training row holds, as MEM.TRN.PAT and MEM.TRN.SEED
of the training that last wrote it; none before the first. -/
structure MemChan where
  reqs : List MemReq
  rows : List (Nat × Nat)
  refresh : Bool
  sum : Nat
  changed : Nat
  bytes : Nat
  rowPat : Vector (Option (Nat × Nat)) 16
  deriving DecidableEq, Repr

/-- A training (R322): channels still to train, the current one first, mode, result words so far, channels named, TAG of the
DRAMTRAIN to answer, whether it belongs to a rate change, and whether its channels serve nothing before they are trained (R327). -/
structure Training where
  chans : List Nat
  mode : Nat
  res : List Nat
  named : List Nat
  tag : Option Nat
  forRate : Bool
  hold : Bool
  deriving DecidableEq, Repr

/-- A gather of the training helper (R321): CH, STEP, FIRST, LAST, bursts at each setting, and MEM.TRN.PAT and MEM.TRN.SEED. -/
structure Gather where
  ch : Nat
  step : Nat
  first : Nat
  last : Nat
  bursts : Nat
  pat : Nat
  seed : Nat
  deriving DecidableEq, Repr

/-- A rate change requested or running (R324): SEL, TAG, whether it has started, and the commit point of its own that it awaits (fabric time). -/
structure RateChange where
  sel : Nat
  tag : Nat
  started : Bool
  point : Option Nat
  deriving DecidableEq, Repr

/-- The DRAM controller (chapter 14). -/
structure MemSt where
  chans : Vector MemChan 4
  /-- Throttled classes, since when (`up`), and whether the 1 s alarm has been raised. -/
  throttled : List (Nat × Nat × Bool)
  tickAt : Nat
  gather : Option Gather
  train : Option Training
  /-- A training discarded by a rate change, to be restarted; and trainings that wait for the one in progress. -/
  redo : Option Training
  later : List Training
  rate : Option RateChange
  /-- Channels whose staged delays apply at their next refresh; delays in force that differ from the factory's, by n x 64 + b. -/
  apply : List Nat
  dly : List (Nat × Word)
  /-- Start of the scrub pass (`up`), and whether it has been found late. -/
  scrubAt : Nat
  scrubLate : Bool
  /-- Addresses of words that hold a single-bit error (R317). -/
  single : List Nat
  deriving DecidableEq, Repr

/-- The work of a compression lane (R328): source, entry count, entry, record words, EVB part, decompression, and since when it waits
for a chain buffer (`up`). -/
structure LaneJob where
  src : Nat
  idx : Nat
  entry : Entry
  words : List Nat
  zip : Option ZipPart
  inflate : Bool
  wait : Option Nat
  deriving DecidableEq, Repr

/-- The compression engine (chapter 14). -/
structure CmpSt where
  lanes : Vector (Option LaneJob) 4
  /-- Busy lanes in the order in which they took their inputs. -/
  order : List Nat
  /-- Next tap in the rotation, 0 to 3. -/
  rot : Nat
  /-- Sources whose next container carries LOSS. -/
  loss : List Nat
  deriving DecidableEq, Repr
/-- Clocks and synthesizers (chapter 15). -/
structure ClkSt where
  /-- Time of the loss of each PLL in force (`up`), and whether its 10 ms alarm has been raised: SYN-S, SYN-C, SYN-M, fabric, FE. -/
  lost : Vector (Option Nat) 5
  alarmed : Vector Bool 5
  /-- Intervals of fabric time from each loss of lock to the return of the outputs (R347): PLL, begin, end. -/
  gaps : List (Nat × Nat × Option Nat)
  /-- CLK.GATE and CLK.MSEL.SLOT in force. -/
  gate : Nat
  msel : Nat
  /-- Commit point awaited, fabric time. -/
  commitAt : Option Nat
  /-- Slot whose band search runs. -/
  search : Option Nat
  /-- Amplitude code of each slot's band search (R341). -/
  amp : Vector Nat 16
  /-- Hop under way outside the DTS rotation: target slot. -/
  hop : Option Nat
  /-- The measurement of RCV.ADCPH after a relock of SYN-C waits for the launch monitor's unit: the phase it will find (R98, R274). -/
  phase : Option Nat
  deriving DecidableEq, Repr

/-- A sample of the housekeeping converter; `fl` holds OPEN 8, SETTLING 4, RANGE 2, BLANKED 1 (Table HKC-6). -/
structure HkSample where
  chan : Nat
  entry : Nat
  seq : Nat
  value : Nat
  fl : Nat
  /-- Stamp as fabric time in ps. -/
  t : Nat
  deriving DecidableEq, Repr

/-- A regular or injected pass, pending or running (R367, R368). -/
structure HkRun where
  /-- Time at which it begins (`up`), and whether it has begun. -/
  due : Nat
  on : Bool
  /-- Entry to convert next. -/
  next : Nat
  /-- PASS: its number. -/
  num : Nat
  samples : List HkSample
  /-- A main conversion that awaits its lead conversion: channel, entry, raw code, flags, stamp, CFG latched. -/
  lead : Option (Nat × Nat × Int × Nat × Nat × Word)
  deriving DecidableEq, Repr

/-- What a conversion belongs to: the regular or the injected pass, or a calibration (R367 to R374). -/
inductive HkKind where
  | regular | injected | cal
  deriving DecidableEq, Repr

/-- The conversion in progress (R361). -/
structure HkConv where
  kind : HkKind
  chan : Nat
  entry : Nat
  lead : Bool
  /-- Its start (`up`), the wait for the excitation, the steps before the window, and the window, in ps. -/
  start : Nat
  wait : Nat
  pre : Nat
  win : Nat
  /-- It follows the previous window of the continuous filter (R362). -/
  cont : Bool
  /-- CFG latched. -/
  cfg : Word
  deriving DecidableEq, Repr

/-- HKCAL or HKSELFCAL in progress (R373, R374): TAG, self-calibration, channels left, STEP, applied input, conversions left, sum and
number of raw codes, mean of the zero. -/
structure HkCal where
  tag : Nat
  self : Bool
  chans : List Nat
  step : Nat
  a : Int
  left : Nat
  sum : Int
  n : Nat
  zero : Rat
  /-- A check of R375 has failed. -/
  bad : Bool
  deriving DecidableEq, Repr

/-- The housekeeping converter (chapter 16). -/
structure HkcSt where
  conv : Option HkConv
  reg : Option HkRun
  inj : Option HkRun
  cal : Option HkCal
  /-- STOP has been written during the pass. -/
  stop : Bool
  /-- Base of HKC.TIMER (`up`), passes since EN was set. -/
  timerAt : Nat
  nreg : Nat
  ninj : Nat
  /-- Excitation in force: pin and current code. -/
  exc : Option (Nat × Nat)
  /-- Stored D_L, CALOFF held (R372), and Z_D, Z_A stored (R373), by channel. -/
  leads : List (Nat × Int)
  off : List (Nat × Word)
  zeros : List (Nat × Rat × Int)
  /-- Raw codes and flags of the continuous filter's windows, newest first; results that still carry SETTLING; channel and CFG it runs on. -/
  hist : List (Int × Nat)
  settle : Nat
  last : Option (Nat × Word)
  /-- Blanked intervals (`up`), and since when BLANK is high. -/
  blanks : List (Nat × Nat)
  blankSince : Option Nat
  /-- Time of the last auxiliary conversion (`up`) and of the last reference check, and the latest result of channel 18: value, flags, stamp. -/
  auxAt : Nat
  testAt : Nat
  aux : Option (Nat × Nat × Nat)
  deriving DecidableEq, Repr


/-- What was in force from a fabric time on: the instar, and whether fabric time was in holdover (R35, R37, R266). -/
structure Era where
  since : Nat
  instar : Nat
  hold : Bool
  deriving DecidableEq, Repr

/-- A result register that has just completed: what it and its companion held before, for a read of the same cycle (R32). -/
structure PrevRes where
  reg : Nat
  /-- The OVR bit of the companion, where it has one. -/
  ovr : Option Nat
  /-- The previous result, and the three registers after it. -/
  value : Word
  after : List Word
  /-- Completion of the result (`up`). -/
  done : Nat
  deriving DecidableEq, Repr

/-- The state of the module. -/
structure State where
  /-- Fabric time in picoseconds: seconds and picoseconds of the TIME counter (R260, R262). -/
  time : Nat
  /-- Picoseconds since the reset value of this state; never stepped. -/
  up : Nat
  /-- The model's own counter of free values drawn (notes/assumptions/3.md). -/
  fresh : Nat
  /-- Module state, Table GLB-17. -/
  mode : Mode
  /-- CSR file: registers that differ from their reset value, by address. -/
  csr : List (Nat × Word)
  /-- Latched HI halves and companions, by (reader, address): reader 0 the cores, 1 the service SPI (R12, R31). -/
  latch : List ((Nat × Nat) × Word)
  /-- Held LO writes, by (writer, address) (R12). -/
  heldLo : List ((Nat × Nat) × Word)
  /-- W1C bits the hardware has set lately: address, bit and time (`up`), for a write of the same cycle (R11). -/
  raised : List (Nat × Nat × Nat)
  /-- Results completed lately (R32). -/
  prevRes : List PrevRes
  /-- Instars and holdover by fabric time, newest first. -/
  eras : List Era
  /-- On-chip SRAM and DRAM: bytes that differ from 0, addresses rising. -/
  mem : List Host.Cell
  /-- 8-byte words of SRAM or DRAM with an uncorrectable error (R317). -/
  poison : List Nat
  core : CoreSt
  gate : GateSt
  que : QueSt
  flt : FltSt
  sec : SecSt
  pwr : PwrSt
  dbg : DbgSt
  pin : PinSt
  lch : LchSt
  rcv : RcvSt
  phs : PhsSt
  dts : DtsSt
  str : StrSt
  vec : VecSt
  fel : FelSt
  trg : TrgSt
  evb : EvbSt
  tim : TimSt
  fab : FabSt
  dram : MemSt
  cmp : CmpSt
  clk : ClkSt
  hkc : HkcSt
  fls : FlsSt
  /-- Commands waiting, first in first out. -/
  pending : List Instr
  deriving DecidableEq, Repr

/-! The state after a reset. -/

/-- The state a module is in when its SAFE island has just started cold (Table PWR-3, cause 1): STARTUP, held in reset, every register at
its reset value. The contents of MRAM, fuses and pins that the spec gives no value for are named in notes/assumptions/1.md. -/
def CoreSt.reset : CoreSt :=
  { regs := Vector.replicate 15 0, pc := 0, flags := 0, pmem := [], dmem := [], eccBad := [], stall := .none, csrOut := [], csrSince := 0,
    stores := [], tacts := [],
    ckpt := { regs := Vector.replicate 15 0, flags := 0, pc := 0, intrap := false, epc := 0, cause := 0, tvalLo := 0, tvalHi := 0 },
    journal := [], jover := false, replay := [] }

/-- The gate with no command under way. -/
def GateSt.reset : GateSt :=
  { slot := 0, start := none, fin := none, stopPend := false, out := [], moultFrom := .idle, moultStop := false }

/-- Empty queues. -/
def QueSt.reset : QueSt := { loss := [], seqs := [], stalled := [], cross := [], pieces := [], wr := [], recent := [] }

/-- No role held or known. -/
def RoleSt.reset : RoleSt :=
  { held := false, live := false, dev := 0, epoch := 0, serial := 0, prio := 0, stamp := 0, heard := 0, req := none, reqSeen := none }

/-- Both cores in service, core A the forewing, full token buckets. -/
def FltSt.reset : FltSt :=
  { inA := true, inB := true, foreB := false, outAt := 0, passes := 0, resync := false, leaseAt := 0, leaseSusp := false, recovery := none,
    roles := Vector.replicate 6 RoleSt.reset, instar := 0, stale := false, firstUp := none, compared := false,
    tokens := Vector.replicate 4 64, tokAt := Vector.replicate 4 0, slots := [], crit := [], logWait := [], cnt := Vector.replicate 32 0,
    snapAt := none, snapPer := false, snapNext := none, suspect := [], tests := Vector.replicate 6 0, momentary := none, holdFault := none }

/-- An image slot with nothing written to it, marked valid or not. -/
def Image.blank (v : Bool) : Image :=
  { valid := v, keysel := 0, version := 0, minrev := 0, build := 0, entry := 0, tvec := 0, hash := [], dig := 0, sig := (0, 0), text := [], data := [] }

/-- An empty profile. -/
def Profile.blank : Profile := { good := false, mains := false, slot := 0, version := 0, ihash := [], cal := [], cfg := [] }

/-- A module as shipped: LARVA, K0 installed, a valid image in slot A, slot B and the profiles empty (notes/assumptions/1.md). -/
def SecSt.reset : SecSt :=
  { lc := .larva, lccnt := 0, wipe := none, sealOk := false, sealbrk := false, latch := false, kalost := false, lcj := false, prstuck := false,
    window := none, ready := [], rngfail := false, puffail := false, bootalt := false, noimg := false, proferr := false, profdef := false,
    uneval := false, runslot := 0, bootslot := 0, prof := 0, profsel := 0, rbc := 0,
    keys := #v[true, false, false, false, false, false, false, false], k1 := (0, 0), k2 := 0, fabKeys := Vector.replicate 4 (0, []), k7due := true,
    slots := #v[Image.blank true, Image.blank false], running := Image.blank false, profiles := Vector.replicate 4 Profile.blank,
    cfgSince := [], loading := none, saving := none, moult := none, sealLog := [] }

/-- Main supply and KA_3V3 present, reset not yet released. -/
def PwrSt.reset : PwrSt :=
  { mainOk := true, kaOk := true, held := true, cause := 1, resetN := false, resetAt := none, startAt := 0, step := 0, fabFree := false,
    phase := .awake, wakeArmed := false, wakeHeld := none, mbox := none, hot := false, savedDly := [], savedTemp := [] }

/-- Debug access open, as in LARVA; empty buffers. -/
def DbgSt.reset : DbgSt :=
  { mux := some none, tap := some none, postBuf := [], ansBuf := [], uart := [], uartPhase := 0, uartLost := 0, tapIr := 0, tapDr := 0,
    tapOut := 0, spi := (0, []) }

/-- LASER_EN low, as its pull-down leaves it (R466), BLANK inactive, a 10 MHz input absent. -/
def PinSt.reset : PinSt := { laserEn := false, blank := false, ref10m := false }

/-- No launch made, the switch on its first port. -/
def LchSt.reset : LchSt :=
  { lock := false, passes := 0, passAt := 0, seq := none, runTail := none, lnch := [], wins := [], tails := [], frames := [], unjudged := [], count := 0, portPend := false,
    portRdy := false, port := 0, lnchs := 0, freshNext := true, polNext := true, ran := false, memb := [], settle := Vector.replicate 4 0,
    settleCoil := 0, changed := [], withheld := false, sent := 0, runs := 0, periods := 0 }

/-- A filter with the factory response in both banks. -/
def Filter.reset : Filter :=
  { bankA := .factory, bankB := .factory, onB := false, staging := [], phase := .idle, wait := none, gen := none, made := none }

/-- The receiver after reset. -/
def RcvSt.reset : RcvSt := { filt := Vector.replicate 18 Filter.reset, sideband := none, adc := [], adcTo := 0 }

/-- A position whose unwrapping has not begun. -/
def PosSt.reset : PosSt := { lw := 0, u := 0, dp := 0, steps := 0, fresh := true, c := [], ref := 0 }

/-- The phase pipeline after reset. -/
def PhsSt.reset : PhsSt :=
  { pos := [], coil := [], pol := [], chk := PosSt.reset, winAt := 0, taken := [], sentChk := 0x80000064#32, sentTol := 0x000C050A#32, sentOn := 0, failed := false, lastFrame := [],
    lastPol := 0, lastGauge := 0, restart := 0, restartC := 0, halves := [] }

/-- The temperature function after reset. -/
def DtsSt.reset : DtsSt :=
  { cur := 0, dwell := 0, hop := .none, halves := Vector.replicate 2 none, staged := [], prof := [], o := 0, profs := [], fib := none }

/-- Channel streams after reset. -/
def StrSt.reset : StrSt :=
  { maps := [], mapStage := [], taps := [], ctl := 0, blk := 0, range := 0, port := 0, dctl := 0, ucfg := 0, set := [], setIx := [], streaming := false,
    chans := [], hist := [], k := 0, rows := [], dets := [], detRows := [], times := [], s0 := 0, period := 0, flush := false, next := none, commit := none,
    prev := [], lastMap := none, ended := 0, tapEnd := false }

/-- The vector engine with its memories wiped. -/
def VecSt.reset : VecSt := { x := [], y := [], z := [], bad := [], dtsMark := 0, own := [], job := none, freeAt := 0, dtsRun := false }

/-- A flasher channel that is not armed. -/
def FlsCh.reset : FlsCh :=
  { plan := { mode := 0, width := 0, per := 0, t0 := 0 }, nxt := none, i := 0, pend := false, on := none, ending := false, glow := false, acc := 0,
    slotAt := 0, slotOn := false, charge := [], cnt := 0, nopen := 0, nshort := 0, cntFor := (0, 0), winAt := 0, verdict := false, diagAt := 0,
    diagDone := false, toCheck := [], cold := false, rDer := false, rLim := false, rDiag := false, head := none }

/-- The flasher with every sink off. -/
def FlsSt.reset : FlsSt :=
  { armed := [], ch := Vector.replicate 16 FlsCh.reset, flv := 0, vin := 0, heads := [], flvAt := 0, pwrAt := 0, tmpAt := 0, ovr := none, stAt := 0,
    stBase := 0, changed := false, nrep := 0 }

/-- A link in OFF. -/
def LinkSt.reset : LinkSt :=
  { since := 0, seen0 := 0, seen1 := 0, page0 := 0, page1 := 0, kB := 0, t0 := 0, old := none, epoch := none, fcs := [], bc := [], syncs := 0,
    probe := none, jump := false, syncBad := false, fill := 0, throttled := false, ingDrop := false, ncut := 0, block := none, sf := [], sfc := 0,
    down := [], line := [], scr := 0, locked := false, hdrN := 0, hdrBad := 0,
    status := 0 }

/-- The FE links after reset. -/
def FelSt.reset : FelSt :=
  { links := Vector.replicate 64 LinkSt.reset, tid := 0, sc := none, patrolQ := [], patrolSec := 0, sfNext := 0, hits := [], held := [] }

/-- The trigger engine after reset; candidate numbers begin at 1. -/
def TrgSt.reset : TrgSt :=
  { armT := 0, stopT := none, conds := [], das := [], events := [], spans := [], hpWait := [], hpLive := [], decided := [], tp := Vector.replicate 4 none,
    refused := Vector.replicate 4 0, asked := [], cid := 1, segs := [], copied := [], ring := [], cross := [], outs := Vector.replicate 4 false, edges := [],
    pulse := Vector.replicate 4 none, missSec := 0, missN := 0, accAt := none }

/-- An idle TDC unit. -/
def TdcUnit.reset : TdcUnit :=
  { stopped := false, usr := 0, start := none, stop := none, since := 0, dead := false,
    stats := { n := 0, sum := 0, sumsq := 0, lo := 0, hi := 0, order := 0, sublsb := 0, invalid := 0, busy := 0, first := 0, last := 0 } }

/-- Event building after reset. -/
def EvbSt.reset : EvbSt :=
  { rd := [], blocks := [], wins := [], frags := [], zip := [], fseq := Vector.replicate 4 0, credit := Vector.replicate 4 0,
    bepoch := Vector.replicate 4 0, loss := false, decPend := [], decDone := none, decTp := none, decBusy := [], opens := [], closed := [],
    strag := [], bcount := Vector.replicate 4 0, owed := [], owedId := 0, fragId := 0 }

/-- Fabric time in FREE. -/
def TimSt.reset : TimSt :=
  { cal := [], tdc := Vector.replicate 8 TdcUnit.reset, ports := Vector.replicate 8 { ds := [], xseq := 0, sent := [], got := [], sentAt := 0, peer := none },
    theta := 0, heard := 0, okSince := none, firstSet := false, nextPend := false, nextAt := 0, freq := 0, freqAt := 0, freqReq := 0, ppsGood := 0, ppsBad := 0,
    asy := Vector.replicate 8 { target := 0, applied := 0, slewAt := 0, last := none, subAt := none, subSince := none, stale := false }, subs := [] }

/-- A fabric port in DOWN. -/
def FabPort.reset : FabPort :=
  { since := 0, heard := none, sentAt := 0, phers := 0, nserial := 0, named := false, auth := 0, dbIn := false, credit := Vector.replicate 4 0,
    heardFreed := Vector.replicate 4 0, occ := Vector.replicate 4 0, freed := Vector.replicate 4 0, told := Vector.replicate 4 0, toldAt := 0 }

/-- An Ethernet port with nothing sent. -/
def EthPort.reset : EthPort :=
  { dseq := 0, pieces := [], prog := [], sync := false, ackAt := 0, alarmed := false, drain := [], arp := [], nd := [], dadAt := 0, dups := [], reqs := [], tx := [] }

/-- The PTP clock, with no master heard. -/
def PtpSt.reset : PtpSt := { masters := [], best := none, wait := none, sync := none, req := none, seq := 0 }

/-- The fabric after reset. -/
def FabSt.reset : FabSt :=
  { out := [], ports := Vector.replicate 8 FabPort.reset, lsdb := [], floodAt := 0, claim := none, lastInstar := none, instarOf := [], msgid := Vector.replicate 4 0,
    fcnt1 := 0, nextKey := Vector.replicate 2 none, prevKey := Vector.replicate 2 none, keyVals := Vector.replicate 6 [], wins := [], reasm := [], fwd := [], prog := [], reqs := [],
    handles := 0, eth := Vector.replicate 8 EthPort.reset, ptp := .reset, tx := [] }

/-- The DRAM controller after reset. -/
def MemSt.reset : MemSt :=
  { chans := Vector.replicate 4 { reqs := [], rows := [], refresh := false, sum := 0, changed := 0, bytes := 0, rowPat := Vector.replicate 16 none },
    throttled := [], tickAt := 0, gather := none, train := none, redo := none, later := [], rate := none, apply := [], dly := [], scrubAt := 0, scrubLate := false,
    single := [] }

/-- Idle compression lanes. -/
def CmpSt.reset : CmpSt := { lanes := Vector.replicate 4 none, order := [], rot := 0, loss := [] }

/-- Every PLL locked, no island gated. -/
def ClkSt.reset : ClkSt :=
  { lost := Vector.replicate 5 none, alarmed := Vector.replicate 5 false, gaps := [], gate := 0x230, msel := 0, commitAt := none, search := none,
    amp := Vector.replicate 16 0, hop := none, phase := none }

/-- An idle converter. -/
def HkcSt.reset : HkcSt :=
  { conv := none, reg := none, inj := none, cal := none, stop := false, timerAt := 0, nreg := 0, ninj := 0, exc := none, leads := [], off := [],
    zeros := [], hist := [], settle := 0, last := none, blanks := [], blankSince := none, auxAt := 0, testAt := 0, aux := none }

/-- The module right after a cold start of its SAFE island: held in reset in STARTUP, before the release of R449. -/
def State.reset : State :=
  { time := 0, up := 0, fresh := 0, mode := .startup, csr := [], latch := [], heldLo := [], raised := [], prevRes := [], eras := [], mem := [], poison := [], core := CoreSt.reset,
    gate := GateSt.reset, que := QueSt.reset, flt := FltSt.reset, sec := SecSt.reset, pwr := PwrSt.reset, dbg := DbgSt.reset, pin := PinSt.reset,
    lch := LchSt.reset, rcv := RcvSt.reset, phs := PhsSt.reset, dts := DtsSt.reset, str := StrSt.reset, vec := VecSt.reset, fel := FelSt.reset,
    trg := TrgSt.reset, evb := EvbSt.reset, tim := TimSt.reset, fab := FabSt.reset, dram := MemSt.reset, cmp := CmpSt.reset, clk := ClkSt.reset,
    hkc := HkcSt.reset, fls := FlsSt.reset, pending := [] }

end Sys2Proof.Machine
end

