-- ==== Sys2Proof/Machine/Ops.lean ====
section
/-! DEFINITION. The named operations over memory, registers, time, counters, the module state and traps. -/

namespace Sys2Proof.Machine

open Csr

/-! Sparse tables: keys strictly rising, one entry a key. -/

/-- The entry of a key. -/
def spGet {α : Type} : List (Nat × α) → Nat → Option α
  | [], _ => none
  | (k', v) :: t, k => if k = k' then some v else spGet t k

/-- A table with the entry of a key replaced, inserted in order, or removed. -/
def spPut {α : Type} : List (Nat × α) → Nat → Option α → List (Nat × α)
  | [], k, v => match v with | none => [] | some x => [(k, x)]
  | (k', y) :: t, k, v =>
    if k < k' then (match v with | none => (k', y) :: t | some x => (k, x) :: (k', y) :: t)
    else if k = k' then (match v with | none => t | some x => (k, x) :: t)
    else (k', y) :: spPut t k v

/-- The keys of a table rise strictly. -/
def spSorted {α : Type} : List (Nat × α) → Bool
  | [] => true
  | [_] => true
  | (k, _) :: (k', v') :: t => decide (k < k') && spSorted ((k', v') :: t)

/-! Memory (Table GLB-10). An unlisted byte reads 0 (notes/assumptions/4.md). -/

/-- The canonical form of a memory: addresses rise strictly and no listed byte is 0. -/
def Memory.wf (m : List Host.Cell) : Bool := spSorted m && m.all (fun c => c.2 != 0)

/-- One byte of a memory. -/
def Memory.read (m : List Host.Cell) (a : Nat) : Byte := (spGet m a).getD 0

/-- A memory with one byte written. -/
def Memory.write (m : List Host.Cell) (a : Nat) (b : Byte) : List Host.Cell :=
  spPut m a (if b = 0 then none else some b)

/-- `n` bytes of a memory as a little-endian number (R35). -/
def Memory.readN (m : List Host.Cell) (a : Nat) : Nat → Nat
  | 0 => 0
  | k + 1 => (Memory.read m a).toNat + 256 * Memory.readN m (a + 1) k

/-- A memory with the low `n` bytes of `v` written little-endian. -/
def Memory.writeN (m : List Host.Cell) (a : Nat) : Nat → Nat → List Host.Cell
  | 0, _ => m
  | k + 1, v => Memory.writeN (Memory.write m a (BitVec.ofNat 8 v)) (a + 1) k (v / 256)

/-- A memory with 64-bit words written one after another. -/
def Memory.writeWords (m : List Host.Cell) (a : Nat) : List Nat → List Host.Cell
  | [] => m
  | w :: ws => Memory.writeWords (Memory.writeN m a 8 w) (a + 8) ws

/-- A memory with a span set to zeros: its bytes are dropped from the list. -/
def Memory.zero (m : List Host.Cell) (lo hi : Nat) : List Host.Cell :=
  m.filter (fun c => decide (c.1 < lo) || decide (hi ≤ c.1))

/-- Does a span lie wholly in on-chip SRAM? -/
def inSram (a n : Nat) : Bool := decide (0x800000 ≤ a) && decide (a + n ≤ 0x1000000)

/-- Does a span lie wholly in DRAM? -/
def inDram (a n : Nat) : Bool := decide (0x100000000 ≤ a) && decide (a + n ≤ 0x900000000)

/-- Does a span lie wholly in one memory of the map (R22)? -/
def inMem (a n : Nat) : Bool := inSram a n || inDram a n

/-- The ADDR of an entry lies in a range of Table GLB-10 that holds no memory: reserved, or the CSR windows, which physical accesses treat as
reserved (R22). An entry of LENGTH 0 makes no access, and R57 posts responses with ADDR 0 and LENGTH 0, so there an ADDR in the CSR windows is no
error (DEDUCED, notes/assumptions/66.md). -/
def reservedAddr (a n : Nat) : Bool := !inMem a 1 && (decide (0x180000 ≤ a) || n != 0)

/-- One byte of physical memory. -/
def State.byte (s : State) (a : Nat) : Byte := Memory.read s.mem a

/-- A 64-bit word of physical memory. -/
def State.word64 (s : State) (a : Nat) : Nat := Memory.readN s.mem a 8

/-- `n` 64-bit words of physical memory. -/
def State.words64 (s : State) (a : Nat) : Nat → List Nat
  | 0 => []
  | k + 1 => s.word64 a :: s.words64 (a + 8) k

/-- Physical memory with 64-bit words written, their poison removed: a full write makes valid ECC (R317). -/
def State.putWords (s : State) (a : Nat) (ws : List Nat) : State :=
  { s with mem := Memory.writeWords s.mem a ws,
           poison := s.poison.filter (fun p => decide (p < a) || decide (a + 8 * ws.length ≤ p)),
           dram := { s.dram with single := s.dram.single.filter (fun p => decide (p < a) || decide (a + 8 * ws.length ≤ p)) } }

/-- Is any word of a span poisoned? -/
def State.poisoned (s : State) (a n : Nat) : Bool :=
  s.poison.any (fun p => decide (p < a + n) && decide (a < p + 8))

/-! The CSR file. -/

/-- The stored value of a register: the listed one, else its reset value. -/
def State.csrRaw (s : State) (a : Nat) : Word := (spGet s.csr a).getD (csrReset a)

/-- Is a value listed for the register at an address? Its fixed reset value is not. -/
def csrListed (a : Nat) (v : Word) : Bool :=
  match regAt a with
  | some r => r.fac != 0 || v != BitVec.ofNat 32 r.rst
  | none => false

/-- The CSR file with the stored value of a register replaced, as the hardware writes it. -/
def State.setCsr (s : State) (a : Nat) (v : Word) : State :=
  { s with csr := spPut s.csr a (if csrListed a v then some v else none) }

/-- A field of a stored register. -/
def State.f (s : State) (a hi lo : Nat) : Nat := fld (s.csrRaw a) hi lo

/-- A bit of a stored register. -/
def State.b (s : State) (a i : Nat) : Bool := bit (s.csrRaw a) i

/-- A signed field of a stored register. -/
def State.sf (s : State) (a hi lo : Nat) : Int := sfld (s.csrRaw a) hi lo

/-- The state with a field of a stored register set. -/
def State.setF (s : State) (a hi lo v : Nat) : State := s.setCsr a (setFld (s.csrRaw a) hi lo v)

/-- Is bit `i` of the register at an address W1C? -/
def w1cBit (a i : Nat) : Bool := match regAt a with | some r => r.w1c.testBit i | none => false

/-- The hardware sets a W1C bit: the time is kept, for a write-1-to-clear of the same cycle (R11). -/
def State.noteRaised (s : State) (a i : Nat) : State :=
  if w1cBit a i then
    { s with raised := (a, i, s.up) :: s.raised.filter (fun (x : Nat × Nat × Nat) => decide (s.up < x.2.2 + 31250) && !(x.1 == a && x.2.1 == i)) }
  else s

/-- The state with a bit of a stored register set or cleared by the hardware. -/
def State.setB (s : State) (a i : Nat) (v : Bool) : State := cond v (·.noteRaised a i) (s.setF a i i (b2n v))

/-- The number a LO/HI pair holds. -/
def State.pair (s : State) (lo : Nat) : Nat := (s.csrRaw lo).toNat + (s.csrRaw (lo + 4)).toNat * 2 ^ 32

/-- The state with a LO/HI pair set by the hardware. -/
def State.setPair (s : State) (lo v : Nat) : State :=
  (s.setCsr lo (BitVec.ofNat 32 v)).setCsr (lo + 4) (BitVec.ofNat 32 (v / 2 ^ 32))

/-- A count in field `[hi:lo]`, saturating. -/
def State.incF (s : State) (a hi lo : Nat) (k : Nat := 1) : State :=
  s.setF a hi lo (satAdd (2 ^ (hi + 1 - lo) - 1) (s.f a hi lo) k)

/-- A 32-bit count that saturates. -/
def State.inc (s : State) (a : Nat) (k : Nat := 1) : State := s.incF a 31 0 k

/-- A 32-bit count modulo 2^32. -/
def State.incMod (s : State) (a : Nat) (k : Nat := 1) : State := s.setCsr a (s.csrRaw a + BitVec.ofNat 32 k)

/-! Time. -/

/-- The 32-bit count of fabric seconds. -/
def State.sec32 (s : State) : Nat := (s.time / psPerSec) % 2 ^ 32

/-- Is an island of Table GLB-7 on the SAFE clock (CLK.STAT.ISLSAFE)? -/
def State.onSafe (s : State) (island : Nat) : Bool := s.b CLK_STAT island

/-- The CORE period in ps: 2,000, or that of the SAFE clock while CORE runs on it (R13, notes/assumptions/6.md). -/
def State.corePeriod (s : State) : Nat := if s.onSafe 1 then 31250 else 2000

/-- The island of a CSR window (Table GLB-28), by its row of Table GLB-7. -/
def winIsland (a : Nat) : Nat :=
  match a / 0x10000 with
  | 0x02 => 2
  | 0x03 | 0x04 | 0x05 | 0x07 => 3
  | 0x06 => 4
  | 0x08 => 5
  | 0x09 | 0x0A => 6
  | 0x0C => 7
  | 0x0D => 8
  | 0x0E => 9
  | 0x0B => 10
  | 0x0F | 0x10 | 0x11 | 0x12 | 0x15 | 0x17 => 11
  | 0x13 | 0x14 => 0
  | _ => 1

/-- Clock period of an island in ps: that of Table GLB-7, or of the SAFE clock; FAB's is 2,482 ps as the table rounds it. -/
def State.islPeriod (s : State) (island : Nat) : Nat :=
  if island = 0 ∨ s.onSafe island then 31250
  else match island with
    | 5 => 6250 | 6 => 2500 | 7 => 2482 | 8 => if s.b MEM_STAT 31 then 2500 else 1250 | 10 => 3125 | 11 => 10000 | _ => 2000

/-- The grain of an island's stamps: its follower shows the TIME count, which advances by 8 ticks each reference period while SYN-S is unlocked
(Table CLK-2), and never places a stamp more finely than one period of the island's clock (R16, notes/assumptions/23.md). -/
def State.grain (s : State) (island : Nat) : Nat := max (if s.b CLK_STAT 30 then tick else 8 * tick) (s.islPeriod island)

/-- Fabric time as the follower of an island stamps it (R16). -/
def State.nowAt (s : State) (island : Nat) : Nat := s.time / s.grain island * s.grain island

/-- The fabric time that the cores read. -/
def State.tnow (s : State) : Nat := s.nowAt 1

/-- TNOW: the short stamp the cores read (Table SEQ-1). -/
def State.now (s : State) : Nat := stampOf s.tnow

/-- The short stamp an island's follower gives. -/
def State.stampAt (s : State) (island : Nat) : Nat := stampOf (s.nowAt island)

/-- Do two times (`up`) fall in one cycle of an island's clock? -/
def State.sameCycle (s : State) (island t u : Nat) : Bool := t / s.islPeriod island == u / s.islPeriod island

/-! Event counters (R415). -/

/-- Does the gate of counter `i` pass (CNT.CFG[i].GMODE)? -/
def State.cntGate (s : State) (i : Nat) : Bool :=
  match s.f (CNT_CFG i) 9 8 with
  | 1 => s.mode == .run
  | 2 => s.b TRG_STAT 29
  | _ => true

/-- `n` events of a counter source (Table FLT-6). -/
def State.bump (s : State) (src n : Nat) : State :=
  { s with flt := { s.flt with cnt := s.flt.cnt.mapIdx (fun i v =>
      if s.b (CNT_CFG i) 31 && s.f (CNT_CFG i) 7 0 == src && s.cntGate i then (v + n) % 2 ^ 48 else v) } }

/-- The boundaries of a period that lie in a span of time. -/
def marks (t dt p : Nat) : Nat := (t + dt) / p - t / p

/-- The module states in which the image runs. -/
def Mode.live : Mode → Bool
  | .idle | .armed | .run | .moult => true
  | _ => false

/-- UART_TX sends 11,520 characters a second from its buffer while DBG.UART.EN is 1 and the image runs (R467, R475). -/
def DbgSt.send (d : DbgSt) (dt : Nat) : DbgSt :=
  let x := d.uartPhase + dt * 11520
  if d.uart.isEmpty then d
  else if d.uart.length ≤ x / psPerSec then { d with uart := [], uartPhase := 0 }
  else { d with uart := d.uart.drop (x / psPerSec), uartPhase := x % psPerSec }

/-- Is fabric time in holdover: STATE not LOCKED, or ROOTHOLD (R266)? -/
def State.holdover (s : State) : Bool := s.f TIM_STAT 31 30 != 2 || s.b TIM_STAT 28

/-- The instar and the holdover in force now, kept before time passes. -/
def State.markEra (s : State) : State :=
  let e : Era := { since := s.time, instar := s.flt.instar, hold := s.holdover }
  match s.eras with
  | [] => { s with eras := [e] }
  | x :: _ => if x.instar = e.instar ∧ x.hold = e.hold then s else { s with eras := e :: s.eras }

/-- What was in force at an instant of fabric time: before the first one kept, what that one says. -/
def State.eraAt (s : State) (t : Int) : Era :=
  let now : Era := { since := s.time, instar := s.flt.instar, hold := s.holdover }
  if (s.time : Int) ≤ t then now
  else (s.eras.find? (fun (e : Era) => decide ((e.since : Int) ≤ t))).getD (s.eras.getLast?.getD now)

/-! Channel maps (R176, R177). -/

/-- The largest CHAN of a PORT (Table GLB-9); none for a reserved one. -/
def chanTop (port : Nat) : Option Nat :=
  if port < 64 then some 4095 else if port < 68 then some 131071 else if port = 68 then some 47 else if port = 69 then some 15
  else if port < 78 then some 2 else if port = 78 then some 3 else if port = 79 then some 7 else if port = 127 then some 0 else none

/-- The channels a map entry names, in order. -/
def mapEntryChans (e : Nat) : List (Nat × Nat × Nat) :=
  if !e.testBit 63 then []
  else
    let first := nfld e 45 29
    let last := nfld e 28 12
    let stride := max 1 (nfld e 11 4)
    (List.range ((last - first) / stride + 1)).map (fun i => (nfld e 62 53, nfld e 52 46, first + i * stride))

/-- The channel list of a map: a channel already in the list is not added again. -/
def mapExpand (es : List Nat) : List (Nat × Nat × Nat) :=
  ((es.map mapEntryChans).flatten.foldl (fun l c => if l.contains c then l else c :: l) []).reverse

/-- A map entry meets R177: an entry that is used has a stride; every entry has its channels in order and within those of its PORT. -/
def mapEntryOk (e : Nat) : Bool :=
  (!e.testBit 63 || decide (0 < nfld e 11 4)) && decide (nfld e 45 29 ≤ nfld e 28 12)
  && (match chanTop (nfld e 52 46) with | some t => decide (nfld e 28 12 ≤ t) | none => false)

/-- The staged entries of a map. -/
def State.stagedMap (s : State) (m : Nat) : List Nat :=
  let w (k : Nat) : Nat := (spGet s.str.mapStage (m * 128 + k)).getD 0
  (List.range 64).map (fun e => w (2 * e) + w (2 * e + 1) * 2 ^ 32)

/-- The channel list of an active map; empty for one that is not valid. -/
def State.mapChans (s : State) (m : Nat) : List (Nat × Nat × Nat) :=
  match spGet s.str.maps m with
  | some es => mapExpand es
  | none => []

/-- A commit completes at a time `t` (`up`): a valid staged map becomes active, an invalid one sets MAPERR (R177). -/
def State.mapCommit (s : State) (m t : Nat) : State :=
  let es := s.stagedMap m
  let l := mapExpand es
  let s1 := { s with str := { s.str with commit := none, lastMap := some (m, t, (spGet s.str.maps m).getD []) } }
  if es.all mapEntryOk && decide (l.length ≤ 131072) then
    (({ s1 with str := { s1.str with maps := spPut s1.str.maps m (some es) } }).setB STR_MAPVALID m true).setF (STR_MAPCNT m) 17 0 l.length
  else s1.setB STR_STAT 29 true

/-- A CMP tap takes the queue: sources 2 to 5 of Table CMP-1 take SRCQ of CMP.CFG while EN is 1. -/
def State.cmpTaps (s : State) (q : Nat) : Bool :=
  [2, 3, 4, 5].any (fun i => s.b (CMP_CFG i) 31 && s.f (CMP_CFG i) 27 20 == q)

/-- A tap is the sole consumer of a queue: a CMP tap, or a FAB forward tap until the record it has begun is sent (R302, R328). -/
def State.tapped (s : State) (q : Nat) : Bool :=
  s.cmpTaps q || (List.range 8).any (fun t => s.b (FAB_FWD t) 31 && s.f (FAB_FWD t) 30 24 == q)
  || s.fab.prog.any (fun (x : TxProg) => x.tap.isSome && x.src == q)
  || s.fab.eth.toList.any (fun (e : EthPort) => e.drain.any (fun (d : Nat × Nat × Nat) => d.1 == q))

/-- The commit whose time has come completes. -/
def State.mapSettle (s : State) : State :=
  match s.str.commit with
  | some (m, fin) => if fin ≤ s.up then s.mapCommit m fin else s
  | none => s

/-- Time passes: fabric time, the counters that count it, the console, and a map commit in progress. -/
def State.elapse (s : State) (dt : Nat) : State :=
  let s1 := ((s.markEra.bump 0x01 (marks s.time dt s.corePeriod)).bump 0xB7 (marks s.time dt tick)).bump 0xB8 (marks s.time dt psPerSec)
  let tx := s.b DBG_UART 31 && s.mode.live
  ({ s1 with time := s.time + dt, up := s.up + dt, dbg := if tx then s.dbg.send dt else s.dbg } : State).mapSettle

/-- A free value: a number the spec does not state (notes/assumptions/3.md). -/
def State.free (s : State) : Nat × State := (Config.freeNat s.fresh, { s with fresh := s.fresh + 1 })

/-! Result registers (R31, R32). -/

/-- What a result register and the three registers after it held in `old` is kept for a read of the cycle in which the new result completes. -/
def State.keepResult (s old : State) (a : Nat) (ovr : Option Nat) : State :=
  { s with prevRes := { reg := a, ovr := ovr, value := old.csrRaw a, after := [old.csrRaw (a + 4), old.csrRaw (a + 8), old.csrRaw (a + 12)], done := s.up }
                        :: s.prevRes.filter (fun (x : PrevRes) => decide (s.up < x.done + 31250) && x.reg != a) }

/-- A result completes: SEQ counts 1 to 127 and on from 1, NEW is set, and the companion takes its flags, with OVR
(bit `ovr`) when a result with NEW 1 is replaced. -/
def State.result (s : State) (a comp : Nat) (value flags : Nat) (ovr : Nat := 3) : State :=
  let old := s.csrRaw a
  let q := fld old 30 24
  let seq := if q = 127 then 1 else q + 1
  let s1 := s.setCsr a (BitVec.ofNat 32 (2 ^ 31 + seq * 2 ^ 24 + value % 2 ^ 24))
  (s1.setCsr comp (BitVec.ofNat 32 (nset flags ovr ovr (b2n (bit old 31))))).keepResult s a (some ovr)

/-! Module identity and state. -/

/-- The device identifier in force (FAB.ID.DEV). -/
def State.dev (s : State) : Nat := s.f FAB_ID 25 16

/-- The code of a module state in GLB.STATE (Table GLB-17). -/
def Mode.code : Mode → Nat
  | .startup => 0 | .idle => 1 | .armed => 2 | .run => 3 | .cocoon => 4 | .hold => 5 | .moult => 6

/-! FLAGS of the cores. -/

/-- FLAGS written. -/
def State.setFlags (s : State) (f : DWord) : State := { s with core := { s.core with flags := f } }

/-- A sticky flag: 4 T, 5 Q. -/
def State.sticky (s : State) (i : Nat) : State := s.setFlags (setFlag s.core.flags i true)

end Sys2Proof.Machine
end

