-- ==== Sys2Proof/Machine/Shown.lean ====
section
/-! DEFINITION. The status registers an alarm may name, as they are shown: computed from the rest of the state (GLB.STATE, LCH.STAT,
VEC.STAT, TRG.STAT, FLS.STAT, FLT.SUMMARY, SEC.STATUS, SEC.KEYS, PWR.STAT, QUE.STAT). -/

namespace Sys2Proof.Machine

open Csr

/-! Queues (R27). -/

/-- QUE.CFG[n].EN. -/
def State.qEn (s : State) (n : Nat) : Bool := s.b (QUE_CFG n) 31

/-- Entries the ring of a queue holds. -/
def State.qDepth (s : State) (n : Nat) : Nat := 2 ^ s.f (QUE_CFG n) 4 0

/-- Base address of the ring. -/
def State.qBase (s : State) (n : Nat) : Nat := s.pair (QUE_BASE_LO n)

/-- Count of entries posted. -/
def State.qTail (s : State) (n : Nat) : Nat := (s.csrRaw (QUE_TAIL n)).toNat

/-- Count of entries consumed. -/
def State.qHead (s : State) (n : Nat) : Nat := (s.csrRaw (QUE_HEAD n)).toNat

/-- Fill level (R27). -/
def State.qFill (s : State) (n : Nat) : Nat := (s.qTail n + 2 ^ 32 - s.qHead n) % 2 ^ 32

/-- The ring is full. -/
def State.qFull (s : State) (n : Nat) : Bool := decide (s.qDepth n ≤ s.qFill n)

/-! Launches. -/

/-- The frame sequencer runs: LCH.STAT.RUN (R46). -/
def State.running (s : State) : Bool := s.lch.seq.isSome || s.lch.runTail.isSome

/-! Debug access, the flasher, and the sentinel's settings. -/

/-- Debug access of either kind is open. -/
def State.dbgKind (s : State) (k : Option (Option Nat)) : Bool :=
  match k with | none => false | some none => true | some (some t) => decide (s.up < t)
def State.dbgOpen (s : State) : Bool := s.dbgKind s.dbg.mux || s.dbgKind s.dbg.tap

/-- FLS.FLV.VMAX, in 10 mV. -/
def State.flsTop (s : State) : Nat := clampN 24 120 (s.f FLS_FLV 15 8) * 50

/-- FLVLIM: FLV stands at VMAX (R384). -/
def State.flvLim (s : State) : Bool := s.fls.flv == s.flsTop

/-- Sinks are held off: in HOLD and COCOON, and while the PLL of the TIME island is unlocked (R391). -/
def State.flsHeld (s : State) : Bool := s.mode == .hold || s.mode == .cocoon || !s.b CLK_STAT 30

/-- STATE of a channel: 0 OFF, 1 UNVERIFIED, 2 OK, 3 OPEN, 4 SHORT, 5 LOWHEAD. -/
def State.flsState (s : State) (n : Nat) : Nat := s.f (FLS_CH_STAT n) 31 29

/-- An armed sink's STATE is not OK (R394, R489). -/
def State.flsSuspect (s : State) : Bool := s.fls.armed.any (fun n => s.flsState n != 2)

/-- Modulation frequency in Hz, of the LCH.SENT in force (R91). -/
def State.sentHz (s : State) : Nat := if fld s.lch.sent 27 16 = 0 then 100 else 10 * fld s.lch.sent 27 16

/-- Window of the check in ms. -/
def sentWinOf (chk : Word) : Nat := clampN 1 1000 (fld chk 15 0)
def State.sentWin (s : State) : Nat := sentWinOf (s.csrRaw PHS_SENTCHK)

/-- The check can be run (R135). -/
def State.sentRuns (s : State) (per win : Nat) : Bool :=
  decide (8 * s.sentHz * per ≤ psPerSec) && decide (4000 ≤ win * s.sentHz)

/-! Status words. -/

/-- A number with bits set: a list of (bit, value). -/
def bitsOf (l : List (Nat × Bool)) : Nat := l.foldl (fun n x => n + b2n x.2 * 2 ^ x.1) 0

/-- The module state as GLB.STATE shows it (Table GLB-17). -/
def State.stateWord (s : State) : Nat := s.flt.instar % 65536 * 2 ^ 16 + b2n s.flt.stale * 2 ^ 8 + s.mode.code

/-- LCH.STAT (Table LCH-10). -/
def State.lchStat (s : State) : Nat :=
  bitsOf [(31, s.lch.lock), (30, s.pin.laserEn), (29, s.b LCH_OPENSTAT 31), (28, s.running), (27, !s.lch.wins.isEmpty), (26, s.lch.portPend),
          (25, s.lch.portRdy)] + s.f LCH_STAT 19 12 * 2 ^ 12

/-- The guarantee of R396 does not hold (R397). -/
def State.degraded (s : State) : Bool :=
  !(s.flt.inA && s.flt.inB) || s.mode == .moult || !s.b PHS_SENTCHK 31 || !s.sentRuns s.str.period s.sentWin || decide (100 < s.sentWin)
  || !s.b FLT_CTL 31 || (!s.fls.armed.isEmpty && decide (1 < max 1 (s.f FLS_DIAG 15 0))) || !s.b MEM_CTL 30 || s.pwr.hot || !s.pwr.mainOk

/-- FLT.SUMMARY.SUSPECT (R489). -/
def State.suspectNow (s : State) : Bool :=
  s.b LCH_OPENSTAT 31 || s.phs.failed || s.fel.links.toArray.any (fun (k : LinkSt) => k.jump || k.syncBad)
  || s.clk.lost.toArray.any (·.isSome) || s.f CLK_STAT 11 0 != 0 || !s.flt.suspect.isEmpty || s.flsSuspect
  || (match s.flt.momentary with | some t => decide (s.up < t + psPerSec) | none => false)

/-- FLT.SUMMARY. -/
def State.summary (s : State) : Nat :=
  bitsOf [(31, s.degraded), (30, !(s.flt.inA && s.flt.inB)), (29, s.flt.stale), (28, s.suspectNow)] + s.f FLT_SUMMARY 27 0

/-- The code of a life-cycle state (R428). -/
def LifeCycle.code : LifeCycle → Nat
  | .egg => 0 | .larva => 1 | .pupa => 2 | .imago => 3 | .exuvia => 4

/-- The configuration is the evaluated one (R441). -/
def State.evaluated (s : State) : Bool :=
  s.sec.lc == .imago && s.sec.sealOk && !s.sec.sealbrk && !s.sec.kalost && !s.sec.lcj && !s.dbgOpen
  && s.b FAB_CTL 30 && s.b FAB_CTL 29 && s.b PHS_SENTCHK 31 && s.sentRuns s.str.period s.sentWin

/-- SEC.STATUS (Table SEC-13). -/
def State.secStatus (s : State) : Nat :=
  bitsOf [(31, s.sec.uneval || !s.evaluated), (30, s.evaluated), (26, s.sec.sealOk), (25, s.sec.sealbrk), (24, s.sec.kalost), (23, s.sec.lcj),
          (22, s.sec.window.isSome), (21, s.sec.prstuck), (20, s.sec.rngfail), (19, s.sec.puffail), (18, s.sec.bootalt), (17, s.sec.noimg),
          (16, s.sec.proferr), (11, s.sec.profdef), (10, s.dbgOpen)]
  + s.sec.lc.code * 2 ^ 27 + s.sec.runslot % 2 * 2 ^ 15 + s.sec.bootslot % 2 * 2 ^ 14 + s.sec.prof % 4 * 2 ^ 12

/-- QUE.STAT[n] (Table GLB-15). -/
def State.queStat (s : State) (n : Nat) : Nat :=
  let fill := s.qFill n
  s.f (QUE_STAT n) 31 30 * 2 ^ 30 + bitsOf [(29, decide (fill = s.qDepth n ∧ fill ≠ 0)), (28, decide (fill = 0))] + fill % 2 ^ 17

/-- PWR.STAT (Table PWR-6). -/
def State.pwrStat (s : State) : Nat :=
  bitsOf [(31, s.pwr.mainOk), (30, s.pwr.kaOk), (27, s.pwr.wakeArmed)] + s.f PWR_STAT 29 28 * 2 ^ 28 + s.f PWR_STAT 13 8 * 2 ^ 8 + s.pwr.step % 256

/-- The status registers that are computed. -/
def State.shown (s : State) (a : Nat) : Option Nat :=
  if a = GLB_STATE then some s.stateWord
  else if a = LCH_STAT then some s.lchStat
  else if a = VEC_STAT then some (bitsOf [(31, s.vec.job.isSome), (30, match s.vec.job with | some j => j.dtsres | none => s.b DTS_CTL 31)] + s.f VEC_STAT 29 0)
  else if a = TRG_STAT then some (s.f TRG_STAT 31 28 * 2 ^ 28 + b2n (!s.b STR_DCTL 31) * 2 ^ 27 + s.f TRG_STAT 26 0)
  else if a = FLS_STAT then some (nset (nset (s.csrRaw a).toNat 28 28 (b2n s.flsHeld)) 30 30 (b2n s.flvLim))
  else if a = FLT_SUMMARY then some s.summary
  else if a = SEC_STATUS then some s.secStatus
  else if a = SEC_KEYS then some (bitsOf ((List.range 8).map (fun k => (k, vget s.sec.keys k false))))
  else if a = PWR_STAT then some s.pwrStat
  else if 0x160000 ≤ a ∧ a < 0x161000 ∧ a % 0x20 = 0x14 then some (s.queStat ((a - 0x160000) / 0x20))
  else none

/-- The value of a status register, computed or stored. -/
def State.shownReg (s : State) (a : Nat) : Nat := (s.shown a).getD (s.csrRaw a).toNat

end Sys2Proof.Machine
end

