-- ==== Sys2Proof/Machine/Publish.lean ====
section
/-! DEFINITION. Queues, records, alarms, the log and the console: the shared operations by which every engine
publishes. -/

namespace Sys2Proof.Machine

open Csr

/-! Queues (R24 to R29). -/

/-- FULLPOL in force: 0 stall up to WAIT, 1 drop at once, 2 stall without limit; Q120 stalls without limit (R29). -/
def State.qPol (s : State) (n : Nat) : Nat :=
  if n = 120 then 2 else match s.f (QUE_CFG n) 29 28 with | 1 => 1 | 2 => 2 | _ => 0

/-- Address of the entry with count `i`. -/
def State.qSlot (s : State) (n i : Nat) : Nat := s.qBase n + 32 * (i % s.qDepth n)

/-- The four words of an entry, DONE set. -/
def Entry.words (e : Entry) : List Nat :=
  [2 ^ 63 + (e.top % 128) * 2 ^ 56 + (e.status % 256) * 2 ^ 48 + (e.type % 256) * 2 ^ 40 + e.addr % 2 ^ 40,
   (e.length % 2 ^ 32) * 2 ^ 32 + e.qseq % 2 ^ 32, e.stamp, e.tag]

/-- The entry that four words spell. -/
def Entry.ofWords (w0 w1 w2 w3 : Nat) : Entry :=
  { status := nfld w0 55 48, type := nfld w0 47 40, addr := nfld w0 39 0, length := nfld w1 63 32, qseq := nfld w1 31 0,
    stamp := w2, tag := w3, top := nfld w0 62 56 }

/-- The entry with count `i` as it stands in the ring. -/
def State.qEntry (s : State) (n i : Nat) : Entry :=
  let a := s.qSlot n i
  Entry.ofWords (s.word64 a) (s.word64 (a + 8)) (s.word64 (a + 16)) (s.word64 (a + 24))

/-- DONE of the oldest entry reads 1. -/
def State.qDone (s : State) (n : Nat) : Bool := (s.word64 (s.qSlot n (s.qHead n))).testBit 63

/-- The requests of a DRAM channel are held: MEM is on the SAFE clock, a rate changes, or the channel is to be trained before it serves (R324, R327,
Table CLK-2). -/
def State.memHeldAt (s : State) (n : Nat) : Bool :=
  s.onSafe 8 || (match s.dram.rate with | some r => r.started | none => false)
    || (s.dram.train.toList ++ s.dram.later).any (fun (t : Training) => t.hold && t.chans.contains n)

/-- Those of some channel are: every transfer of more than a row's share waits, since addresses interleave (R316). -/
def State.memHeld (s : State) : Bool := (List.range 4).any s.memHeldAt

/-- A queue that lies in DRAM while requests are held gives and takes nothing. -/
def State.qHeld (s : State) (n : Nat) : Bool := s.memHeld && inDram (s.qBase n) 1

/-- A queue holds a published entry. -/
def State.qReady (s : State) (n : Nat) : Bool := s.qEn n && decide (0 < s.qFill n) && s.qDone n && !s.qHeld n

/-- The rank of a producer among those that publish into one queue in one MEM cycle: its island, those of SLOW in the order HKC, FLS, FLT, CNT and
the service SPI port (R29). -/
def prodRank (island q : Nat) : Nat :=
  if island = 11 then (match q with | 76 => 11 | 77 => 12 | 79 => 14 | 125 => 15 | _ => 13) else island

/-- The count `i` before another. -/
def countBack (t i : Nat) : Nat := (t + 2 ^ 32 - i) % 2 ^ 32

/-- How many of the last entries of a queue were published in this MEM cycle by producers of a higher rank and still wait (R29). -/
def State.behind (s : State) (n rank : Nat) : Nat :=
  let late (i : Nat) : Bool :=
    let c := countBack (s.qTail n) (i + 1)
    s.que.recent.any (fun (x : Nat × Nat × Nat × Nat) => x.1 == n && x.2.1 == c && decide (rank < x.2.2.1) && s.sameCycle 8 x.2.2.2 s.up)
    && decide (i < s.qFill n) && (s.word64 (s.qSlot n c)).testBit 63
  ((List.range s.que.recent.length).takeWhile late).length

/-- The last `k` entries of a queue move one place on, with their QSEQ. -/
def State.moveOn (s : State) (n k : Nat) : State :=
  let t := s.qTail n
  (List.range k).foldl (fun st i =>
    let e : Entry := { st.qEntry n (countBack t (i + 1)) with qseq := countBack t i }
    st.putWords (st.qSlot n (countBack t i)) e.words) s

/-- An entry is published: QSEQ and STAMP are filled, STAMP by the follower of MEM, which orders publications (R16, R29); the words are
written with DONE, TAIL advances (R25, R26). It goes before those that producers of a higher rank have published in the same MEM cycle. -/
def State.enqueue (s : State) (n : Nat) (e : Entry) (rank : Nat := 1) : State :=
  let k := s.behind n rank
  let p := countBack (s.qTail n) k
  let e' := { e with qseq := p, stamp := s.stampAt 8 }
  let s1 := (s.moveOn n k).putWords (s.qSlot n p) e'.words
  let moved (c : Nat) : Nat := if countBack c p < k then (c + 1) % 2 ^ 32 else if countBack c p = k then p else c
  let pieces := if k = 0 then s1.que.pieces else s1.que.pieces.map (fun x => if x.q = n then { x with qseq := moved x.qseq } else x)
  let recent := s1.que.recent.filter (fun (x : Nat × Nat × Nat × Nat) => s.sameCycle 8 x.2.2.2 s.up)
  let recent := (n, p, rank, s.up) :: recent.map (fun (x : Nat × Nat × Nat × Nat) => if x.1 = n then (x.1, moved x.2.1, x.2.2) else x)
  let s2 : State := { s1 with que := { s1.que with pieces := pieces, recent := recent } }
  (s2.incMod (QUE_TAIL n)).bump (0x20 + n) 1

/-- Has HEAD of the queue passed the entry with count `i`? -/
def State.qPassed (s : State) (n i : Nat) : Bool :=
  decide ((s.qHead n + 2 ^ 32 - (i + 1)) % 2 ^ 32 < 2 ^ 31)

/-! Record regions: rings whose space is freed when HEAD passes the entry of the record. -/

/-- The pieces of a region still held. -/
def State.held (s : State) (key : Nat) : List Piece :=
  s.que.pieces.filter (fun p => p.key == key && !s.qPassed p.q p.qseq)

/-- Bytes of a region still held. -/
def State.heldBytes (s : State) (key : Nat) : Nat := (s.held key).foldl (fun n p => n + (p.hi - p.lo)) 0

/-- The offset at which a piece of `n` bytes is placed in a region of `size` bytes: in one piece, at the write pointer
or, where it does not fit before the end, at the base; none where that space is not free. -/
def State.place (s : State) (key size n : Nat) : Option Nat :=
  let w := (spGet s.que.wr key).getD 0
  let o := if w + n ≤ size then w else 0
  if n ≤ size ∧ 0 < n ∧ (s.held key).all (fun p => decide (p.hi ≤ o) || decide (o + n ≤ p.lo)) then some o else none

/-- The same for an entry that is written at once but published after those that wait for the queue. -/
def State.claimWait (s : State) (key o n q : Nat) : State :=
  let k := ((s.que.stalled ++ s.que.cross).filter (fun x => x.q == q)).length
  { s with que := { s.que with
      pieces := s.held key ++ s.que.pieces.filter (fun p => p.key != key) ++ [{ key := key, lo := o, hi := o + n, q := q, qseq := (s.qTail q + k) % 2 ^ 32 }],
      wr := spPut s.que.wr key (some (o + n)) } }

/-- The region bookkeeping after a piece is placed for the next entry of queue `q`. -/
def State.claim (s : State) (key o n q : Nat) : State :=
  { s with que := { s.que with
      pieces := s.held key ++ s.que.pieces.filter (fun p => p.key != key) ++ [{ key := key, lo := o, hi := o + n, q := q, qseq := s.qTail q }],
      wr := spPut s.que.wr key (some (o + n)) } }

/-! Messages and roles. -/

/-- A message to another device, or to this one, is handed to FAB (R246). -/
def State.send (s : State) (dst cls kind : Nat) (ws : List Nat) : State :=
  { s with fab := { s.fab with out := s.fab.out ++ [{ dst := dst, cls := cls, kind := kind, words := ws }] } }

/-- The DEV of a role's holder as this module knows it (R406). -/
def State.roleDev (s : State) (r : Nat) : Option Nat :=
  match s.flt.roles[r]? with
  | some x => if x.held then some s.dev else if x.live then some x.dev else none
  | none => none

/-- The epoch of a role as known. -/
def State.roleEpoch (s : State) (r : Nat) : Nat := match s.flt.roles[r]? with | some x => x.epoch | none => 0

/-- BUSY follows the fill of the EVB fragment region; each change is told to the decider (R256). -/
def State.evbWater (s : State) : State :=
  let size := (s.csrRaw EVB_FBUFSIZE).toNat * 0x100000
  let fill := s.heldBytes EVB_FBUF_LO
  let busy := s.b EVB_STAT 30
  let set := !busy && decide (0 < size) && decide (s.f EVB_WATER 23 16 * size ≤ fill * 100)
  let clr := busy && decide (fill * 100 ≤ s.f EVB_WATER 7 0 * size)
  if set || clr then
    let s1 := s.setB EVB_STAT 30 set
    match s.roleDev 1 with
    | some d => s1.send d 2 1 [0x05 * 2 ^ 56 + b2n set * 2 ^ 48 + s.dev * 2 ^ 32, 0, 0, 0]
    | none => s1
  else s

/-- CREDIT to the sender of a fragment, for the part that was its last (R251); none to this module itself. -/
def State.sendCredit (s : State) (x : OwedCredit) : State :=
  if x.dev = s.dev then s
  else s.send x.dev 2 1 [0x07 * 2 ^ 56 + x.role * 2 ^ 48 + s.roleEpoch (2 + x.role) % 65536 * 2 ^ 32 + x.units % 65536, x.fseq, 0, 0]

/-- The CREDITs owed under a number return. -/
def State.payCredit (s : State) (id : Nat) : State :=
  (s.evb.owed.filter (fun (x : OwedCredit) => x.id == id)).foldl State.sendCredit
    { s with evb := { s.evb with owed := s.evb.owed.filter (fun (x : OwedCredit) => x.id != id) } }

/-- A part of a fragment is published: with its last one the fragment counts; under ZIP each waits for its container. -/
def State.fragOut (s : State) (id : Nat) (p : FragPart) : State :=
  match s.evb.frags.find? (fun (f : Frag) => f.id == id) with
  | none => s
  | some f =>
    let f' : Frag := { f with parts := f.parts ++ [p], left := f.left - 1 }
    let z : List ZipPart := if f.zip && decide (8 < p.words.length) then [{ id := id, part := f.parts.length, words := p.words, taken := false }] else []
    cond (f.left == 1 && p.q != 74) (·.bump 0xAA 1)
      { s with evb := { s.evb with frags := s.evb.frags.map (fun (x : Frag) => if x.id = id then f' else x), zip := s.evb.zip ++ z } }

/-- The fragment window of a trigger waits for its segment no longer (R244). -/
def State.segOut (s : State) (c : Nat) (t : Int) (num : Nat) : State :=
  { s with evb := { s.evb with wins := s.evb.wins.map (fun (w : EvbWin) =>
      if w.c = c ∧ w.t = t ∧ w.num = num then { w with segWait := false } else w) } }

/-- What event building does once a record is published with these words at an address, under a QSEQ; a local straggler counts (R259). -/
def State.followOut (s : State) (r : Rec) (ws : List Nat) (addr qseq : Nat) : State :=
  let s := cond (r.ty == 0x0E && r.key == EVB_FBUF_LO) (·.inc EVB_STRAG) s
  match r.follow with
  | .none => s
  | .seg c t num => s.segOut c t num
  | .builder _ none => s
  | .builder _ (some id) => (cond (r.q == 73) (fun (st : State) => (st.incMod EVB_BLDEVENTS).bump 0xAB 1) s).payCredit id
  | .frag id => s.fragOut id { words := ws, addr := addr, q := r.q, qseq := qseq }

/-- What it does once a record is dropped: its CREDITs are not returned, its fragment is not sent, its segment is waited for no longer. -/
def State.followDrop (s : State) (f : Follow) : State :=
  match f with
  | .none => s
  | .seg c t num => s.segOut c t num
  | .builder _ none => s
  | .builder _ (some id) => { s with evb := { s.evb with owed := s.evb.owed.filter (fun (x : OwedCredit) => x.id != id) } }
  | .frag id => { s with evb := { s.evb with frags := s.evb.frags.filter (fun (x : Frag) => x.id != id), zip := s.evb.zip.filter (fun (x : ZipPart) => x.id != id) } }

/-- The words of a record from word 3 on, as published: those of a builder carry the role epoch of that instant in word 5 (R254). -/
def State.pubWords (s : State) (r : Rec) : List Nat :=
  match r.follow with
  | .builder role _ => r.words.mapIdx (fun i w => if i = 2 then nset w 63 48 (s.roleEpoch (2 + role) % 65536) else w)
  | _ => r.words

/-! Records (R35 to R37). -/

/-- Count of the record series (queue, TYPE, PORT). -/
def State.recSeq (s : State) (q ty port : Nat) : Nat := ((s.que.seqs.find? (fun x => x.1 == (q, ty, port))).map (·.2)).getD 0

/-- The series advances. -/
def State.recNext (s : State) (q ty port : Nat) : State :=
  let n := (s.recSeq q ty port + 1) % 2 ^ 32
  { s with que := { s.que with seqs := ((q, ty, port), n) :: s.que.seqs.filter (fun x => x.1 != (q, ty, port)) } }

/-- The flags every record takes from the state of the module: STALE_INSTAR, and HOLDOVER for a stamp taken at `t` (R37, R266). -/
def State.commonFlags (s : State) (t : Int) : Nat :=
  (if s.flt.stale then 0x40 else 0) + (if (s.eraAt t).hold then 0x100 else 0)

/-- SUSPECT for a record whose data span overlaps an interval in which a PLL was unlocked (R347). -/
def State.gapFlag (s : State) (lo hi : Int) : Nat :=
  if s.clk.gaps.any (fun (g : Nat × Nat × Option Nat) => decide ((g.2.1 : Int) ≤ hi) && (match g.2.2 with | some e => decide (lo < e) | none => true)) then 16 else 0

/-- A record with the common fields filled from the state: `t` is the fabric time that its word 2 stamps, the producer's present one unless
given; `first` the instant of its first sample, whose instar it carries, `t` unless given (R35). -/
def State.mkRec (s : State) (q island ty port : Nat) (words : List Nat) (base size key : Nat) (flags : Nat := 0) (spec : Nat := 0)
    (t : Option Int := none) (tag : Nat := 0) (first : Option Int := none) : Rec :=
  let t0 := t.getD (s.nowAt island)
  { q := q, island := island, ty := ty, port := port, flags := flags ||| s.commonFlags t0, instar := (s.eraAt (first.getD t0)).instar, spec := spec,
    stamp := stampZ t0, words := words, status := 0, tag := tag, base := base, size := size, key := key, bare := none, since := 0, follow := .none }

/-- A record of a queue whose region the spec does not give. -/
def State.mkBare (s : State) (q island ty port : Nat) (words : List Nat) (flags spec : Nat) (t : Int) (first : Option Int := none) : Rec :=
  s.mkRec q island ty port words (Config.recordBase q) (Config.recordSize q) q (flags := flags) (spec := spec) (t := some t) (first := first)

/-- The three header words of a record. -/
def Rec.header (r : Rec) (dev seq : Nat) (loss : Bool) : List Nat :=
  [(r.ty % 256) * 2 ^ 56 + 2 ^ 52 + ((r.flags ||| (if loss then 0x80 else 0)) % 4096) * 2 ^ 40 + ((r.words.length + 3) % 65536) * 2 ^ 24
     + (dev % 1024) * 2 ^ 14 + (r.port % 128) * 2 ^ 7,
   seq * 2 ^ 32 + (r.instar % 65536) * 2 ^ 16 + r.spec % 65536, r.stamp]

/-- A record is dropped (R29): DROP counts, SEQ advances, the next record of the queue carries LOSS. -/
def State.dropRec (s : State) (r : Rec) : State :=
  let s1 := (s.inc (QUE_DROP r.q))
  let s1 := if r.bare.isSome then s1 else s1.recNext r.q r.ty r.port
  ({ s1 with que := { s1.que with loss := r.q :: s1.que.loss.filter (· != r.q) } } : State).followDrop r.follow

/-- The queues whose records lie in a region the spec does not give (notes/assumptions/17.md). -/
def bareRegions : List Nat := [65, 78, 79]

/-- A region the spec gives by registers lies wholly in one memory. -/
def Rec.regionOk (r : Rec) : Bool := bareRegions.contains r.q || inMem r.base r.size

/-- A record is written to its region and published; without room in the region it is dropped (R188). -/
def State.emitRec (s : State) (r : Rec) : State :=
  let n := 8 * (r.words.length + 3)
  match r.bare with
  | some e => (s.enqueue r.q e (prodRank r.island r.q)).followOut r [] 0 0
  | none =>
  match (if r.regionOk then s.place r.key r.size n else none) with
  | none => s.dropRec r
  | some o =>
    let loss := s.que.loss.contains r.q
    let hdr := r.header s.dev (s.recSeq r.q r.ty r.port) loss
    let ws := hdr ++ s.pubWords r
    let s1 := (s.putWords (r.base + o) ws).claim r.key o n r.q
    let s2 := s1.enqueue r.q { status := r.status, type := r.ty, addr := r.base + o, length := n, qseq := 0, stamp := 0, tag := r.tag }
      (prodRank r.island r.q)
    let s3 := s2.recNext r.q r.ty r.port
    cond (r.key == EVB_FBUF_LO) State.evbWater
      (({ s3 with que := { s3.que with loss := s3.que.loss.filter (· != r.q) } } : State).followOut r ws (r.base + o) (s.qTail r.q))

/-- A class of DRAM requesters is throttled (R320). -/
def State.throttled (s : State) (k : Nat) : Bool := s.dram.throttled.any (fun (x : Nat × Nat × Bool) => x.1 == k)

/-- A class of requesters waits: it is throttled, or requests are held (R320, R324). -/
def State.stopped (s : State) (k : Nat) : Bool := s.memHeld || s.throttled k

/-- A record of a hardware producer waits because its queue or its region lies in DRAM and requests are held. -/
def State.recHeld (s : State) (r : Rec) : Bool := s.qHeld r.q || (s.memHeld && r.bare.isNone && inDram r.base 1)

/-- The class that writes the records of a queue (Table MEM-2): EVT hit blocks and segments, CHAN frames, streams and captures, EVB fragments
and events; 8 for those of no class that can be throttled. -/
def recClass (q : Nat) : Nat := if q < 64 ∨ (68 ≤ q ∧ q ≤ 71) then 2 else if q < 68 then 3 else if 72 ≤ q ∧ q ≤ 75 then 4 else 8

/-- A record of a throttled class waits at the crossing; those of CHAN in an output buffer of 1 MiB, beyond which they are dropped (Table MEM-2). -/
def State.crossRec (s : State) (r : Rec) : State :=
  let n := (s.que.cross.filter (fun x => recClass x.q == 3)).foldl (fun n x => n + 8 * (x.words.length + 3)) 0
  if recClass r.q = 3 ∧ 0x100000 < n + 8 * (r.words.length + 3) then s.dropRec r
  else { s with que := { s.que with cross := s.que.cross ++ [r] } }

/-- A hardware producer has a record to publish (R26, R29, R320). -/
def State.publish (s : State) (r : Rec) : State :=
  if !s.qEn r.q then s.dropRec r
  else if r.bare.isNone && (s.recHeld r || s.throttled (recClass r.q)) then s.crossRec r
  else if s.recHeld r || s.qFull r.q || s.que.stalled.any (fun x => x.q == r.q) then
    if s.qPol r.q = 1 && !s.recHeld r then s.dropRec r
    else { s with que := { s.que with stalled := s.que.stalled ++ [{ r with since := s.up }] } }
  else s.emitRec r

/-- Records that waited at the crossing go on; those of a class still throttled wait again. -/
def State.crossDrain (s : State) : State := s.que.cross.foldl State.publish { s with que := { s.que with cross := [] } }

/-- Does every record of a list find room in its region, after those before it? -/
def State.recsFit (s : State) : List Rec → Bool
  | [] => true
  | r :: rs =>
    match s.place r.key r.size (8 * (r.words.length + 3)) with
    | none => false
    | some o => (s.claim r.key o (8 * (r.words.length + 3)) r.q).recsFit rs

/-- Records of a queue that wait for a place in it or at the crossing. -/
def State.waiting (s : State) (q : Nat) : List Rec := (s.que.stalled ++ s.que.cross).filter (fun x => x.q == q)

/-- The SEQ that the next record of a series will carry, after those that wait. -/
def State.seriesNext (s : State) (q ty port : Nat) : Nat :=
  (s.recSeq q ty port + ((s.waiting q).filter (fun x => x.ty == ty && x.port == port && x.bare.isNone)).length) % 2 ^ 32

/-- Records that belong together are published: whole where the queue would drop, or not one of them (R29, R116). -/
def State.publishAll (s : State) (q : Nat) (rs : List Rec) : State :=
  if s.qEn q && s.qPol q == 1 && (s.que.stalled.any (fun x => x.q == q) || decide (s.qDepth q < s.qFill q + rs.length)) then rs.foldl State.dropRec s
  else rs.foldl State.publish s

/-- A hardware producer has a bare entry to publish. -/
def State.publishEntry (s : State) (q island : Nat) (e : Entry) (follow : Follow := .none) : State :=
  s.publish { s.mkRec q island e.type 127 [] 0 0 0 with bare := some e, follow := follow }

/-! The log (R413, R414) and the console (R475). -/

/-- Size of the log ring. -/
def logSize : Nat := 0x10000000

/-- Decimal digits of a number as characters, at least `k` of them. -/
def decChars (k n : Nat) : List Nat :=
  let m := (List.range 20).foldl (fun d i => if 10 ^ (i + 1) ≤ n then i + 2 else d) 1
  ((List.range (max k m)).map (fun i => 48 + n / 10 ^ i % 10)).reverse

/-- Upper-case hexadecimal digits of a number, `k` of them. -/
def hexChars (k n : Nat) : List Nat :=
  ((List.range k).map (fun i => let d := n / 16 ^ i % 16; if d < 10 then 48 + d else 55 + d)).reverse

/-- The console line of a log entry: seconds, point, 12 digits of picoseconds, level, event and arguments, CR LF (R475). -/
def LogEntry.line (e : LogEntry) : List Nat :=
  decChars 1 e.sec ++ [46] ++ decChars 12 (stPsec e.stamp) ++ [32, nth [68, 73, 78, 69] e.level 69, 32] ++ hexChars 4 e.event
    ++ e.args.flatMap (fun a => 32 :: hexChars 16 a) ++ [13, 10]

/-- The line reading DROPPED and a count. -/
def droppedLine (n : Nat) : List Nat := [68, 82, 79, 80, 80, 69, 68, 32] ++ decChars 1 n ++ [13, 10]

/-- A console line is placed whole in the 4 KiB buffer, with a DROPPED line before it after drops, or is dropped. -/
def State.console (s : State) (e : LogEntry) : State :=
  if !s.b DBG_UART 31 then s
  else
    let l := (if s.dbg.uartLost = 0 then [] else droppedLine s.dbg.uartLost) ++ e.line
    if s.dbg.uart.length + l.length ≤ 4096 then { s with dbg := { s.dbg with uart := s.dbg.uart ++ l, uartLost := 0 } }
    else ({ s with dbg := { s.dbg with uartLost := s.dbg.uartLost + 1 } }).inc DBG_UARTDROP

/-- The fabric time of a short stamp and the full second it was taken in. -/
def fullTime (sec stamp : Nat) : Int := ((sec * psPerSec + stPsec stamp : Nat) : Int)

/-- The record of a log entry. -/
def State.logRec (s : State) (e : LogEntry) : Rec :=
  { s.mkRec 124 11 0x0A 127 ([e.event * 2 ^ 48 + e.args.length * 2 ^ 32, e.sec * 2 ^ 32] ++ e.args) (s.pair FLT_LOGBUF_LO) logSize FLT_LOGBUF_LO
      (spec := e.level * 2 ^ 14) (t := some (fullTime e.sec e.stamp)) with since := 0 }

/-- Fill of the log ring in bytes. -/
def State.logFill (s : State) : Nat := s.heldBytes FLT_LOGBUF_LO

/-- A log entry is shed by level as the ring fills (R414). -/
def State.logShed (s : State) (level : Nat) : Bool :=
  let f := s.logFill
  match level with
  | 0 => decide (logSize / 2 < f)
  | 1 => decide (logSize * 3 / 4 < f)
  | 2 => decide (logSize * 9 / 10 < f)
  | _ => false

/-- An event of the log: not written below FLT.LOG.MIN, shed by level, an error waits while the ring is full. -/
def State.log (s : State) (level event : Nat) (args : List Nat) : State :=
  if level < s.f FLT_LOG 1 0 then s
  else
    let e : LogEntry := { level := level, event := event, args := args, stamp := s.stampAt 11, sec := s.nowAt 11 / psPerSec % 2 ^ 32 }
    if s.logShed level then (s.inc (FLT_LOGDROP level)).bump (0x18 + level) 1
    else if level = 3 ∧ (!s.flt.logWait.isEmpty || (s.place FLT_LOGBUF_LO logSize (8 * (args.length + 5))).isNone) then
      { s with flt := { s.flt with logWait := s.flt.logWait ++ [e] } }
    else (s.publish (s.logRec e)).console e

/-- Waiting error entries are written as the ring gets room (R414). -/
def logDrain : List LogEntry → State → State
  | [], s => s
  | e :: t, s =>
    if (s.place FLT_LOGBUF_LO logSize (8 * (e.args.length + 5))).isNone then { s with flt := { s.flt with logWait := e :: t } }
    else logDrain t (({ s with flt := { s.flt with logWait := t } } : State).publish (s.logRec e) |>.console e)

/-- HEAD of a queue has moved: the log ring may have room, the EVB fragment region more. -/
def State.headMoved (s : State) (n : Nat) : State :=
  if n = 124 then logDrain s.flt.logWait s else if n = 72 ∨ n = 74 ∨ n = 75 then s.evbWater else s

/-- The oldest entry is consumed: HEAD advances. -/
def State.dequeue (s : State) (n : Nat) : State :=
  let a := s.qSlot n (s.qHead n)
  ((s.putWords a [s.word64 a % 2 ^ 63]).incMod (QUE_HEAD n)).headMoved n

/-- HEAD passes the entries that a consumer has taken out of their order: their DONE reads 0. -/
def State.passTaken (s : State) (n : Nat) : Nat → State
  | 0 => s
  | k + 1 => if decide (0 < s.qFill n) && !s.qDone n then (s.incMod (QUE_HEAD n)).passTaken n k else s

/-- The place behind HEAD of the oldest waiting entry that satisfies a test on its TAG. -/
def State.mineAt (s : State) (n : Nat) (mine : Nat → Bool) : Option Nat :=
  let waits (i : Nat) : Bool := (s.word64 (s.qSlot n (s.qHead n + i))).testBit 63 && mine (s.qEntry n (s.qHead n + i)).tag
  (List.range (s.qFill n)).find? waits

/-- A queue without the entry at a place behind HEAD. -/
def State.takeAt (s : State) (n i : Nat) : State :=
  let a := s.qSlot n (s.qHead n + i)
  ((s.putWords a [s.word64 a % 2 ^ 63]).passTaken n (s.qFill n)).headMoved n

/-- The oldest entry of a queue that belongs to one of its consumers, by TAG, is taken; HEAD passes what has been taken (R304, R473). -/
def State.takeMine (s : State) (n : Nat) (mine : Nat → Bool) : Option (Entry × State) :=
  (s.mineAt n mine).map (fun i => (s.qEntry n (s.qHead n + i), s.takeAt n i))

/-! Alarms (R411, R412). -/

/-- Base of the alarm area and its slots of 64 bytes. -/
def alarmBase : Nat := 0xFE0000

/-- The key of the alarm area among the regions. -/
def alarmKey : Nat := 1

/-- A free slot of the alarm area. -/
def State.alarmSlot (s : State) : Option Nat :=
  (List.range 1024).find? (fun i => !(s.held alarmKey).any (fun p => p.lo == 64 * i))

/-- The words of an alarm record from word 3 (Table FLT-5). -/
def AlarmRec.words (a : AlarmRec) : List Nat :=
  [(a.count % 2 ^ 32) * 2 ^ 32 + (a.srcreg % 2 ^ 21) * 2 ^ 11 + (a.srcbit % 64) * 2 ^ 5,
   (a.firstSec % 2 ^ 32) * 2 ^ 32 + a.value % 2 ^ 32, a.chan, a.last]

/-- Q(120 + class) can take a record now: enabled, not full, and a slot is free. -/
def State.alarmRoom (s : State) (cls : Nat) : Bool :=
  s.qEn (120 + cls) && !s.qFull (120 + cls) && s.alarmSlot.isSome

/-- An alarm record is written to a slot and published. -/
def State.postAlarm (s : State) (a : AlarmRec) : State :=
  match s.alarmSlot with
  | none => s
  | some i =>
    let q := 120 + a.cls
    let r := { s.mkRec q 11 0x09 a.port a.words alarmBase 0x10000 alarmKey
                 (spec := a.cls * 2 ^ 14 + b2n a.summary * 2 ^ 13 + b2n a.catchall * 2 ^ 12) (t := some (fullTime a.firstSec a.first)) with since := 0 }
    let loss := s.que.loss.contains q
    let s1 := (s.putWords (alarmBase + 64 * i) (r.header s.dev (s.recSeq q 0x09 a.port) loss ++ a.words)).claim alarmKey (64 * i) 56 q
    let s2 := (s1.enqueue q { status := 0, type := 0x09, addr := alarmBase + 64 * i, length := 56, qseq := 0, stamp := 0, tag := 0 } 13).recNext q 0x09 a.port
    { s2 with que := { s2.que with loss := s2.que.loss.filter (· != q) } }

/-- An alarm is added to its summary slot, a new one, or the class's catch-all (R412). -/
def State.coalesce (s : State) (a : AlarmRec) : State :=
  let same (x : SumSlot) : Bool := x.cls == a.cls && !x.catchall && x.srcreg == a.srcreg && x.srcbit == a.srcbit && x.chan == a.chan
  let add (x : SumSlot) : SumSlot := { x with count := x.count + 1, last := a.last }
  let slot : SumSlot := { cls := a.cls, catchall := false, srcreg := a.srcreg, srcbit := a.srcbit, chan := a.chan, port := a.port, value := a.value,
                          first := a.first, firstSec := a.firstSec, last := a.last, count := 1, opened := s.up }
  let call (x : SumSlot) : Bool := x.cls == a.cls && x.catchall
  let slots :=
    if s.flt.slots.any same then s.flt.slots.map (fun x => if same x then add x else x)
    else if (s.flt.slots.filter (fun x => x.cls == a.cls && !x.catchall)).length < 256 then s.flt.slots ++ [slot]
    else if s.flt.slots.any call then s.flt.slots.map (fun x => if call x then add x else x)
    else s.flt.slots ++ [{ slot with catchall := true, srcreg := 0, srcbit := 0, chan := 0, port := 127, value := 0 }]
  ({ s with flt := { s.flt with slots := slots } }).bump (0x14 + a.cls) 1

/-- A critical alarm: published, or kept in FLT's buffer, or coalesced beyond it (R412). -/
def State.critical (s : State) (a : AlarmRec) : State :=
  if s.flt.crit.isEmpty && s.alarmRoom 0 then s.postAlarm a
  else if s.flt.crit.length < 1024 then { s with flt := { s.flt with crit := s.flt.crit ++ [a] } }
  else s.coalesce a

/-- A major, minor or info alarm: token bucket, then its queue; a disabled queue drops it (R29), a full one or a full
alarm area coalesces it. -/
def State.lesser (s : State) (a : AlarmRec) : State :=
  let tok := s.flt.tokens.toArray.getD a.cls 0
  if tok = 0 then s.coalesce a
  else
    let s1 := { s with flt := { s.flt with tokens := s.flt.tokens.mapIdx (fun i v => if i = a.cls then v - 1 else v) } }
    if !s.qEn (120 + a.cls) then s1.dropRec (s.mkRec (120 + a.cls) 11 0x09 a.port [] 0 0 alarmKey)
    else if s.alarmRoom a.cls then s1.postAlarm a else s.coalesce a

/-- An alarm of class 0 critical to 3 info is raised: counted, shown in FLT.SUMMARY, posted or coalesced, and logged at
level 2 (R411). -/
def State.alarm (s : State) (cls srcreg srcbit : Nat) (port : Nat := 127) (chan : Nat := 0) : State :=
  let a : AlarmRec := { cls := cls, summary := false, catchall := false, srcreg := srcreg, srcbit := srcbit, chan := chan, port := port,
                        value := s.shownReg srcreg, first := s.stampAt 11, firstSec := s.nowAt 11 / psPerSec % 2 ^ 32, last := s.stampAt 11, count := 1 }
  let s1 := s.bump (0x10 + cls) 1
  let s2 := match cls with
    | 0 => s1.incF FLT_SUMMARY 23 16
    | 1 => s1.incF FLT_SUMMARY 15 8
    | 2 => s1.incF FLT_SUMMARY 7 0
    | _ => s1
  let s3 := if cls = 0 then s2.critical a else s2.lesser a
  s3.log 2 0x0003 a.words

/-- The channel identifier of R17. -/
def chanId (dev port chan : Nat) : Nat := dev * 2 ^ 24 + port * 2 ^ 17 + chan

/-- A periodic test of R405, 0 the comparator's, 1 VEC, 2 to 5 the CMP lanes, is due: PERTEST is 1 and 1 s has passed. -/
def State.testDue (s : State) (k : Nat) : Bool := s.b FLT_CTL 31 && decide (vget s.flt.tests k 0 + psPerSec ≤ s.up)
/-- It runs. -/
def State.testRun (s : State) (k : Nat) : State := { s with flt := { s.flt with tests := vmod s.flt.tests k (fun _ => s.up) } }

/-- A source of SUSPECT comes into force or ends (R489). -/
def State.suspectSrc (s : State) (k : Nat) (on : Bool) : State :=
  let l := s.flt.suspect.filter (· != k)
  { s with flt := { s.flt with suspect := if on then k :: l else l } }

/-- A momentary cause of SUSPECT (R489). -/
def State.momentary (s : State) : State := { s with flt := { s.flt with momentary := some s.up } }

/-- Words of a span that hold an uncorrectable error, ascending. -/
def State.badWords (s : State) (a n : Nat) : List Nat :=
  sortBy (fun (x y : Nat) => decide (x ≤ y)) (s.poison.filter (fun p => decide (p < a + n) && decide (a < p + 8)))

/-- Every word of DRAM with a single-bit error in a span that is read is corrected and counted (R317). -/
def State.ceRead (s : State) (a n : Nat) : State :=
  let k := (s.dram.single.filter (fun p => decide (p < a + n) && decide (a < p + 8))).length
  if k = 0 then s else (s.incF MEM_ECC 31 16 k).bump 0xAF k

/-- An uncorrectable DRAM word is read (R317). -/
def State.memUe (s : State) (a : Nat) : State :=
  ((((s.incF MEM_ECC 15 0).setPair MEM_UEADDR_LO a).setB MEM_STAT 19 true).bump 0xB0 1).alarm 1 MEM_STAT 19

/-- A span of memory is read: what of it lies in DRAM is corrected, or counted with the address of each bad word (R317). -/
def State.dramRead (s : State) (a n : Nat) : State := ((s.badWords a n).filter (fun p => inDram p 1)).foldl State.memUe (s.ceRead a n)

/-- A span is read by an engine: a bad word is also a momentary cause of SUSPECT (R489). -/
def State.engineRead (s : State) (a n : Nat) : State :=
  let t := s.dramRead a n
  if s.poisoned a n then t.momentary else t

/-- An upset is met in a word of DRAM: 1 a single bit, 2 two bits, in a word that was good or held one; 0 none. -/
def State.upset (s : State) (a err : Nat) : State :=
  if err = 0 || s.poison.contains a || !inDram a 1 then s
  else
    let rest := s.dram.single.filter (· != a)
    if err = 1 then { s with dram := { s.dram with single := a :: rest } } else { s with poison := a :: s.poison, dram := { s.dram with single := rest } }

/-- The instar changes: flooded in the LSA and logged as event 0x0007 (R409). -/
def State.setInstar (s : State) (n : Nat) : State :=
  ({ s with flt := { s.flt with instar := n % 65536 } }).log 2 0x0007 [s.flt.instar, n % 65536]

end Sys2Proof.Machine
end

