-- ==== Sys2Proof/Machine/Access.lean ====
section
/-! DEFINITION. Writes and reads of one register under its access codes: reserved and read-only bits, RWS, RWL, W1C,
64-bit pairs and result registers (R9 to R12, R31, R32). -/

namespace Sys2Proof.Machine

open Csr

/-- The stop rule of LCH (R67). -/
def State.lchStopped (s : State) : Bool := !s.running && s.lch.lnch.isEmpty

/-- The stop rule of R100, for RCV, PHS, DTS and STR. -/
def State.chanStopped (s : State) : Bool := s.lchStopped && s.lch.wins.isEmpty

/-- The stop rules of FAB (R302, R314, R449) for a write of `v` at offset `o`. -/
def State.fabStopped (s : State) (o : Nat) : Bool :=
  !s.pwr.fabFree ||
  (if 0x100 ≤ o ∧ o < 0x300 then !s.b (FAB_PORT_CFG ((o - 0x100) / 0x40)) 31
   else if 0x400 ≤ o ∧ o < 0x800 then !s.b (FAB_PORT_CFG ((o - 0x400) / 0x80)) 31
   else if 0x900 ≤ o ∧ o < 0x920 then !s.b (FAB_FWD ((o - 0x900) / 4)) 31
   else !s.b FAB_CTL 31)

/-- Is the owning unit of the RWS fields at an address stopped? -/
def State.unitStopped (s : State) (a : Nat) : Bool :=
  let o := a % 0x10000
  match a / 0x10000 with
  | 0x02 => s.lchStopped
  | 0x03 => if 0xB0 ≤ o ∧ o ≤ 0xB8 then !s.b RCV_RAW 31 else s.chanStopped
  | 0x04 => s.chanStopped
  | 0x05 => s.chanStopped
  | 0x07 => s.chanStopped
  | 0x08 => if 0x1000 ≤ o then decide (s.f (FEL_LSTAT ((o - 0x1000) / 0x80)) 31 29 = 0) else true
  | 0x09 => !s.b TRG_STAT 29
  | 0x0A => !s.b EVB_CTL 31
  | 0x0C => s.fabStopped o
  | 0x0E => !s.b CMP_CTL 31
  | 0x10 => decide (s.f HKC_STAT 30 27 = 0)
  | 0x11 => if 0x100 ≤ o then !s.fls.armed.contains ((o - 0x100) / 0x20) else !s.b FLS_CTL 31
  | 0x12 => s.flt.logWait.isEmpty
  | 0x16 => !s.b (QUE_CFG (o / 0x20)) 31
  | _ => true

/-- The value a write leaves in a register: the fields that may be written take the new value, W1C bits that are written
1 clear but for those of `keep`, all other bits stay (R9, R10, R11). -/
def Reg.merge (r : Reg) (old v : Word) (stopped lease : Bool) (keep : Word := 0) : Word :=
  let m := BitVec.ofNat 32 (r.rw ||| (if stopped then r.rws else 0) ||| (if lease then r.rwl else 0))
  (old &&& ~~~(m ||| (v &&& BitVec.ofNat 32 r.w1c &&& ~~~keep))) ||| (v &&& m)

/-- The W1C bits of a register that the hardware has set in the present cycle of its island (R11). -/
def State.raisedNow (s : State) (a : Nat) : Word :=
  s.raised.foldl (fun (m : Word) (x : Nat × Nat × Nat) =>
    if x.1 = a ∧ s.sameCycle (winIsland a) x.2.2 s.up then setBit m x.2.1 true else m) 0

/-- Would a refused RWS field have changed? -/
def Reg.refusedS (r : Reg) (old v : Word) (stopped : Bool) : Bool := !stopped && ((old ^^^ v) &&& BitVec.ofNat 32 r.rws) != 0

/-- Would a refused RWL field have changed? -/
def Reg.refusedL (r : Reg) (old v : Word) (lease : Bool) : Bool := !lease && ((old ^^^ v) &&& BitVec.ofNat 32 r.rwl) != 0

/-- A 32-bit register is written field by field, and a refusal that matters is counted (R10, sources 0x05 and 0x06). -/
def State.writeReg (s : State) (a : Nat) (v : Word) (lease : Bool := true) : State :=
  match regAt a with
  | none => s
  | some r =>
    let old := s.csrRaw a
    let st := s.unitStopped a
    let s1 := s.setCsr a (r.merge old v st lease (s.raisedNow a))
    let s2 := cond (r.refusedS old v st) (·.bump 0x05 1) s1
    cond (r.refusedL old v lease) (·.bump 0x06 1) s2

/-- Look up by a pair of numbers. -/
def pairGet {α : Type} (l : List ((Nat × Nat) × α)) (k : Nat × Nat) : Option α := (l.find? (fun x => x.1 == k)).map (·.2)

/-- The entry of a pair of numbers removed, or replaced. -/
def pairPut {α : Type} (l : List ((Nat × Nat) × α)) (k : Nat × Nat) (v : Option α) : List ((Nat × Nat) × α) :=
  match v with
  | none => l.filter (fun x => x.1 != k)
  | some x => (k, x) :: l.filter (fun y => y.1 != k)

/-- A write of a LO half is held for its writer: 0 the cores, 1 the service SPI port (R12). -/
def State.holdLo (s : State) (who a : Nat) (v : Word) : State := { s with heldLo := pairPut s.heldLo (who, a) (some v) }

/-- The LO value a HI write applies: the held one, else the register's. -/
def State.loFor (s : State) (who a : Nat) : Word := (pairGet s.heldLo (who, a)).getD (s.csrRaw a)

/-- The held LO value of a writer is used up. -/
def State.dropLo (s : State) (who a : Nat) : State := { s with heldLo := pairPut s.heldLo (who, a) none }

/-- A held LO value takes effect; where none is held the LO half is not written. -/
def State.applyLo (s : State) (who a : Nat) (lease : Bool) : State :=
  match pairGet s.heldLo (who, a) with
  | some lo => (s.writeReg a lo lease).dropLo who a
  | none => s

/-- A write of the HI half at `a` applies the pair (R12). -/
def State.writePair (s : State) (who a : Nat) (v : Word) (lease : Bool := true) : State :=
  (s.applyLo who (a - 4) lease).writeReg a v lease

/-- Reading a LO half latches the HI half for its reader (R12). -/
def State.latchHi (s : State) (who a : Nat) (hi : Word) : State := { s with latch := pairPut s.latch (who, a + 4) (some hi) }

/-- The result that completed in the present cycle, if one did. -/
def State.resultNow (s : State) (a : Nat) : Option PrevRes :=
  s.prevRes.find? (fun (x : PrevRes) => x.reg == a && s.sameCycle (winIsland a) x.done s.up)

/-- Reading a result register latches its companion for the reader and clears NEW (R31). In the cycle in which a result completes it
returns the previous one, which counts as read: the new result keeps NEW and does not carry OVR (R32). -/
def State.readResult (s : State) (who a : Nat) : Word × State :=
  match s.resultNow a with
  | none =>
    let v := s.csrRaw a
    (v, ({ s with latch := pairPut s.latch (who, a + 4) (some (s.csrRaw (a + 4))) }).setB a 31 false)
  | some x =>
    let s1 := match x.ovr with | some i => s.setB (a + 4) i false | none => s
    (x.value, { s1 with latch := pairPut s1.latch (who, a + 4) (some (nth x.after 0 0)),
                        prevRes := s1.prevRes.map (fun (y : PrevRes) => if y.reg = a then { y with value := setBit y.value 31 false } else y) })

end Sys2Proof.Machine
end

