-- ==== Sys2Proof/Machine/HkStart.lean ====
section
/-! DEFINITION. The starts of the housekeeping converter's passes and its blanking, as other engines reach them (R366 to R368). -/

namespace Sys2Proof.Machine

open Csr

/-- HKC.STAT follows the converter's activities (Table HKC-8). -/
def State.hkFlags (s : State) : State :=
  let h := s.hkc
  let v := b2n h.reg.isSome * 8 + b2n (match h.inj with | some i => i.on | none => false) * 4 + b2n (match h.inj with | some i => !i.on | none => false) * 2 + b2n h.cal.isSome
  let s1 := (s.setF HKC_STAT 30 27 v).setB HKC_STAT 26 h.conv.isSome
  match h.conv with
  | some c => s1.setF HKC_STAT 21 16 c.chan
  | none => s1

/-- HKSELFCAL runs. -/
def State.hkSelf (s : State) : Bool := match s.hkc.cal with | some c => c.self | none => false

/-- A start of the regular sequence (R367); `t` is its instant (`up`). -/
def State.hkRegular (s : State) (t : Nat) : State :=
  if !s.b HKC_CTL 31 then s
  else if s.hkc.reg.isSome || s.hkSelf then s.inc HKC_RMISSED
  else
    let r : HkRun := { due := t + s.f HKC_RSEQCFG 15 0 * us, on := false, next := 0, num := s.hkc.nreg, samples := [], lead := none }
    ({ s with hkc := { s.hkc with reg := some r, stop := false, nreg := (s.hkc.nreg + 1) % 2 ^ 32 } } : State).hkFlags

/-- An injected start (R368). -/
def State.hkInject (s : State) (t : Nat) : State :=
  if !s.b HKC_CTL 31 then s
  else if s.hkc.inj.isSome || s.hkSelf then s.inc HKC_INJ_MISSED
  else
    let r : HkRun := { due := t + s.f HKC_ISEQCFG 15 0 * us, on := false, next := 0, num := s.hkc.ninj, samples := [], lead := none }
    ({ s with hkc := { s.hkc with inj := some r, ninj := (s.hkc.ninj + 1) % 2 ^ 32 } } : State).hkFlags

/-- ISEQCFG.ISRC; 3 acts as 0. -/
def State.hkIsrc (s : State) : Nat := match s.f HKC_ISEQCFG 31 30 with | 1 => 1 | 2 => 2 | _ => 0

/-- A trigger of TRG class `c` has been accepted. -/
def State.hkTrigger (s : State) (c : Nat) : State := if s.hkIsrc = 2 ∧ s.f HKC_ISEQCFG 29 28 = c then s.hkInject s.up else s

/-- The flasher pulse event (R392). -/
def State.hkFlash (s : State) (t : Nat) : State :=
  cond (s.hkIsrc == 1) (·.hkInject t) (cond (s.f HKC_RSEQCFG 31 30 == 2) (·.hkRegular t) s)

/-- Integration is blanked in `[lo, hi)` (`up`) by the source whose enable is bit `i` of HKC.CTL (R366). -/
def State.hkBlank (s : State) (i lo hi : Nat) : State :=
  if !s.b HKC_CTL i then s
  else
    let since := match s.hkc.conv with | some c => c.start | none => s.up
    { s with hkc := { s.hkc with blanks := s.hkc.blanks.filter (fun (x : Nat × Nat) => decide (since < x.2)) ++ [(lo, hi)] } }

end Sys2Proof.Machine
end

