-- ==== Sys2Proof/Machine/Maps.lean ====
section
/-! DEFINITION. The class rings of the trigger engine (R232). -/

namespace Sys2Proof.Machine

open Csr

/-! Class rings (R232). -/

/-- The size of a class ring in bytes. -/
def State.ringSize (s : State) (c : Nat) : Nat := (s.csrRaw (TRG_CLS_RBUFSIZE c)).toNat * 0x100000

/-- The unit of a class's PRE and POST in ps (R234). -/
def State.clsUnit (s : State) (c : Nat) : Nat :=
  match s.f (TRG_CLS_CFG c) 28 27 with | 1 => us | 2 => ms | _ => 1000

/-- Bytes an item takes in a ring: its words and the two words of a sub-block. -/
def RingItem.bytes (i : RingItem) : Nat := 8 * (i.words.length + 2)

/-- The newest items of a class whose bytes fit, oldest first. -/
def ringFit (size : Nat) (l : List RingItem) : List RingItem :=
  (l.foldr (fun (i : RingItem) (acc : List RingItem × Nat × Bool) =>
    if acc.2.2 && decide (acc.2.1 + i.bytes ≤ size) then (i :: acc.1, acc.2.1 + i.bytes, true) else (acc.1, acc.2.1, false)) ([], 0, true)).1

/-- Items of one class. -/
def State.ringOf (s : State) (c : Nat) : List RingItem := (s.trg.ring.filter (fun (x : Nat × RingItem) => x.1 == c)).map (fun (x : Nat × RingItem) => x.2)

/-- PRE, POST of a class in ps. -/
def State.clsPre (s : State) (c : Nat) : Nat := (s.csrRaw (TRG_CLS_PRE c)).toNat * s.clsUnit c
def State.clsPost (s : State) (c : Nat) : Nat := (s.csrRaw (TRG_CLS_POST c)).toNat * s.clsUnit c

/-- The end of a segment's window: T + POST, or S (R237). -/
def State.segEnd (s : State) (g : Seg) : Int × Bool :=
  let e := g.t + s.clsPost g.c
  match s.trg.stopT with
  | some z => if z < e then (z, true) else (e, false)
  | none => (e, false)

/-- Items that the ring overwrites are lost to a streamed segment whose unposted window holds them (R236). -/
def State.segLoses (s : State) (g : Seg) (gone : List RingItem) : Seg :=
  if g.start.isNone then g
  else
    let unposted := gone.filter (fun (i : RingItem) => decide (g.upTo ≤ i.t) && decide (i.t < (s.segEnd g).1))
    { g with lostTo := unposted.foldl (fun (m : Option Int) i => match m with | some z => some (max z i.t) | none => some i.t) g.lostTo }

/-- An item is written to the ring of a class, over the oldest data; one that a copied segment should have held counts in TRG.SEGLATE (R235). -/
def State.ringWrite (s : State) (c : Nat) (i : RingItem) : State :=
  let late := s.trg.copied.countP (fun (w : Nat × Int × Int) => w.1 == c && decide (w.2.1 ≤ i.t) && decide (i.t < w.2.2))
  let all := s.ringOf c ++ [i]
  let l := ringFit (s.ringSize c) all
  let gone := all.take (all.length - l.length)
  let s1 := cond (decide (0 < late)) (·.inc TRG_SEGLATE late) s
  { s1 with trg := { s1.trg with ring := s1.trg.ring.filter (fun (x : Nat × RingItem) => x.1 != c) ++ l.map (fun (i : RingItem) => (c, i)),
                                 segs := s1.trg.segs.map (fun (g : Seg) => if g.c = c then s.segLoses g gone else g) } }

/-- The items at the crossing enter their rings once class EVT is not throttled. -/
def State.ringDrain (s : State) : State :=
  if s.stopped 2 then s else s.trg.cross.foldl (fun st x => st.ringWrite x.1 x.2) { s with trg := { s.trg with cross := [] } }

/-- An item enters the ring of a class, or waits at the crossing (R232, R320). -/
def State.ringAdd (s : State) (c : Nat) (i : RingItem) : State :=
  if s.stopped 2 then { s with trg := { s.trg with cross := s.trg.cross ++ [(c, i)] } } else s.ringDrain.ringWrite c i

/-- An item enters every ring whose class selects its kind and whose map gives it words (R232). -/
def State.ringPut (s : State) (kind port : Nat) (t : Int) (flags : Nat) (body : List (Nat × Nat × Nat) → List Nat) : State :=
  if !s.b TRG_STAT 29 then s
  else
    (List.range 4).foldl (fun st c =>
      let ws := body (st.mapChans (st.f (TRG_CLS_CFG c) 15 12))
      if st.b (TRG_CLS_CFG c) 31 && st.b (TRG_CLS_CFG c) (19 + kind) && !ws.isEmpty && decide (st.trg.armT ≤ t)
        then st.ringAdd c { kind := kind, port := port, t := t, words := ws, flags := flags } else st) s

/-- 32-bit words packed two by two, the lower-numbered in `[31:0]`. -/
def pack32 : List Nat → List Nat
  | [] => []
  | [a] => [a]
  | a :: b :: t => (a + b * 2 ^ 32) :: pack32 t

/-- The words of a DAS frame or stream item for a map: the first word, then the map's channels in map order, found by `val`. -/
def dasWords (dev port w0 : Nat) (val : Nat → Option Nat) (m : List (Nat × Nat × Nat)) : List Nat :=
  let vs := m.filterMap (fun (c : Nat × Nat × Nat) => if c.1 = dev ∧ c.2.1 = port then val c.2.2 else none)
  if vs.isEmpty then [] else w0 :: pack32 vs

end Sys2Proof.Machine
end

