-- ==== Sys2Proof/Machine/Str.lean ====
section
/-! DEFINITION. Channel streams: channel maps, the channel word, temporal decimation, detectors and stream blocks
(R172 to R188). -/

namespace Sys2Proof.Machine

open Csr

/-! Channel maps (R176, R177). -/

/-- STR.MAPDATA: a word is staged at WORD, which increments; ignored with WRBUSY while a commit is in progress (R177). -/
def State.writeMapData (s : State) (v : Word) : State :=
  if s.str.commit.isSome then s.setB STR_STAT 28 true
  else
  let m := s.f STR_MAPADDR 31 28
  let w := s.f STR_MAPADDR 6 0
  ({ s with str := { s.str with mapStage := spPut s.str.mapStage (m * 128 + w) (some v.toNat) } }).setF STR_MAPADDR 6 0 (w + 1)

/-- STR.MAPCOMMIT with GO: the commit of a staged map starts, and completes within 2 us; one still in progress completes before it
(notes/assumptions/53.md). -/
def State.writeMapCommit (s : State) (v : Word) : State :=
  if !bit v 31 then s
  else
    let s1 := match s.str.commit with | some (m, _) => s.mapCommit m s.up | none => s
    { s1 with str := { s1.str with commit := some (Fin.ofNat 16 (fld v 3 0), s.up + min 2000000 Config.mapCommitTime) } }

/-! Registers with a rule of their own. -/

/-- STR.CTL: D of 0 or above 64 stays as it was and sets CFGERR (R172); a PRESET of 6 to 15 sets CFGERR (R181). -/
def State.writeStrCtl (s : State) (v : Word) : State :=
  let badD := decide (fld v 6 0 = 0) || decide (64 < fld v 6 0)
  let bad := badD || decide (6 ≤ fld v 19 16)
  let v' := if badD then setFld v 6 0 (s.f STR_CTL 6 0) else v
  cond (bad && s.chanStopped) (·.setB STR_STAT 31 true) (s.writeReg STR_CTL v')

/-- STR.CSDATA: a USER tap is stored at WORD, which increments; ignored with WRBUSY while the unit runs, and past word 1,023 (R182). -/
def State.writeStrTap (s : State) (v : Word) : State :=
  if !s.chanStopped then s.setB STR_STAT 28 true
  else if s.str.tapEnd then s
  else
    let w := s.f STR_CSADDR 9 0
    ({ s with str := { s.str with taps := spPut s.str.taps w (some (fld v 23 0)), tapEnd := w == 1023 } }).setF STR_CSADDR 9 0 (w + 1)

/-- STR.CSADDR: a new WORD. -/
def State.writeStrCsaddr (s : State) (v : Word) : State :=
  let s1 := s.writeReg STR_CSADDR v
  { s1 with str := { s1.str with tapEnd := s1.str.tapEnd && !s.chanStopped } }

/-! The start of a stream. -/

/-- Channels of a frame (R172). -/
def chanCount (range d : Nat) : Nat := (range + d - 1) / d

/-- The region of an enabled output is usable (R173). -/
def State.regionOk (s : State) (lo size : Nat) : Bool :=
  let base := s.pair lo
  let n := (s.csrRaw size).toNat * 0x100000
  decide (0 < n) && base % 0x100000 == 0 && inDram base n

/-- R173: STR lets frm.start go on. -/
def State.strStartOk (s : State) : Bool :=
  decide (chanCount (s.f LCH_RANGE 17 0) (s.f STR_CTL 6 0) ≤ 131072)
  && (!s.b STR_CTL 31 || s.regionOk STR_FBUF_LO STR_FBUFSIZE)
  && (!(s.b STR_CTL 30 || s.b STR_DCTL 31) || s.regionOk STR_SBUF_LO STR_SBUFSIZE)

/-- The channels of an active map as frm.start takes them: a commit that completes in this very cycle does not count yet (R178,
notes/assumptions/179.md). -/
def State.mapBefore (s : State) (m : Nat) : List (Nat × Nat × Nat) :=
  match s.str.lastMap with
  | some (k, t, old) => if k = m ∧ s.sameCycle 3 t s.up then mapExpand old else s.mapChans m
  | none => s.mapChans m

/-- The stream set of R178: channels, each with its map index, or with itself where every channel is streamed. -/
def State.streamSet (s : State) : List (Nat × Nat) :=
  let n := chanCount (s.f LCH_RANGE 17 0) (s.f STR_CTL 6 0)
  if s.b STR_CTL 29 then (List.range n).map (fun c => (c, c))
  else
    let ours (c : Nat × Nat × Nat) : Bool := c.1 == s.dev && c.2.1 == 64 + s.f LCH_PLAN 25 24 && decide (c.2.2 < n)
    (((s.mapBefore (s.f STR_CTL 27 24)).mapIdx (fun i c => (i, c))).filter (fun ic => ours ic.2)).map (fun ic => (ic.2.2.2, ic.1))

/-- A run of STR begins from output 0 (R179, R185). -/
def State.strBegin (s : State) (r : StrRun) : State :=
  let det : Det := { m := none, e := 0, pk := 0, pidx := 0, ss := 0, nvalid := 0 }
  { s with str := { s.str with
      ctl := r.ctl, blk := r.blk, dctl := r.dctl, ucfg := r.ucfg, range := r.range, port := r.port, set := r.set, setIx := r.setIx,
      streaming := true, hist := [], k := 0, rows := [], prev := [], detRows := [], times := [],
      dets := List.replicate (min r.set.length 16384) det, s0 := r.s0, period := r.period, flush := false, next := none } }

/-- frm.start: STR latches its registers and takes its stream set; the run begins at once, or after the flush of the run before it where
frames of that one are still to be published (R172, R178, R186). -/
def State.strStart (s : State) (start period : Nat) : State :=
  let set := s.streamSet
  let r : StrRun :=
    { ctl := s.csrRaw STR_CTL, blk := s.csrRaw STR_BLK, dctl := s.csrRaw STR_DCTL, ucfg := s.csrRaw STR_UCFG, range := s.f LCH_RANGE 17 0,
      port := s.f LCH_PLAN 25 24, set := set.map (·.1), setIx := set.map (·.2), s0 := start, period := period }
  let s1 : State := if s.str.flush then { s with str := { s.str with next := some r } } else s.strBegin r
  ((s1.setF STR_NCHS 17 0 set.length).setB STR_STAT 27 (s.b STR_CTL 30 && set.isEmpty)).setB STR_STAT 26 (decide (16384 < set.length))

/-! The channel word (R174). -/

/-- A phase word of one position: the unwrapped value it carries, QUAL and AMP. -/
abbrev PhW := Int × Nat × Nat

/-- The 32-bit channel word: PHI, QUAL, AMP. -/
def phWord (w : PhW) : Nat := ofSigned 20 w.1 * 2 ^ 12 + w.2.1 % 16 * 2 ^ 8 + w.2.2 % 256

/-- Mean of integers in units of 1/65536 of theirs, rounded. -/
def mean16 (l : List Int) : Int := roundDiv (l.foldl (· + ·) 0 * 65536) l.length

/-- QMIN in force (R124). -/
def State.qmin (s : State) : Nat := max 3 (s.f PHS_QCFG 11 8)

/-- What the AVG procedure yields: word, new state, counts of channel limit and reacquisition. -/
structure ChOut where
  word : PhW
  st : ChSt
  limit : Bool
  reacq : Bool
  deriving DecidableEq, Repr

/-- The AVG procedure of R174 for the positions of one channel. -/
def channelWord (qmin : Nat) (st : ChSt) (ps : List (Nat × PhW)) : ChOut :=
  let amp := (roundDiv (ps.foldl (fun n p => n + (p.2.2.2 : Int)) 0) ps.length).toNat
  let g := ps.filter (fun p => decide (qmin ≤ p.2.2.1))
  let a := g.filterMap (fun p => (spGet st.b p.1).map (fun b => (p.2.1 - b, p.2.2.1)))
  let minq (l : List Nat) : Nat := l.foldl min 15
  let b' : List (Nat × Int) := g.map (fun p => (p.1, p.2.1))
  let out (c : Int) (q : Nat) : PhW := (roundDiv c 65536, q, amp)
  if st.fresh then
    if g.isEmpty then { word := (0, 0, amp), st := st, limit := false, reacq := false }
    else
      let c := mean16 (g.map (·.2.1))
      { word := out c (minq (g.map (·.2.2.1))), st := { c := c, fresh := false, b := b' }, limit := false, reacq := false }
  else if !a.isEmpty then
    let c := st.c + mean16 (a.map (·.1))
    if 2 ^ 31 ≤ (roundDiv c 65536).natAbs then
      { word := out st.c 0, st := { c := st.c, fresh := true, b := [] }, limit := true, reacq := false }
    else { word := out c (minq (a.map (·.2))), st := { c := c, fresh := false, b := b' }, limit := false, reacq := false }
  else if !g.isEmpty then { word := out st.c 1, st := { st with b := b' }, limit := false, reacq := true }
  else { word := out st.c (if ps.any (fun p => decide (2 ≤ p.2.2.1)) then 2 else 0), st := st, limit := false, reacq := false }

/-- Does a control word form channels by AVG? -/
def ctlAvg (ctl : Word) : Bool := decide (fld ctl 15 14 ≠ 1) && decide (2 ≤ fld ctl 6 0)

/-- The words of every channel of a frame under its STR.CTL, and the values that temporal decimation takes of them: C for AVG, else U(p), given
beside the words (R174, R179). The state and counters advance, and a channel limit asks for OVR. -/
def State.frameChannels (s : State) (ctl : Word) (words : List PhW) (us : List Int) : List PhW × List PhW × Bool × State :=
  let d := max 1 (fld ctl 6 0)
  let range := words.length
  let n := chanCount range d
  if ctlAvg ctl then
    let outs : List ChOut := (List.range n).map (fun c =>
      let st := (spGet s.str.chans c).getD { c := 0, fresh := true, b := [] }
      channelWord s.qmin st ((List.range (min d (range - c * d))).map (fun i => (c * d + i, nth words (c * d + i) (0, 0, 0)))))
    let nl := outs.countP ChOut.limit
    let s1 := { s with str := { s.str with chans := outs.mapIdx (fun c (o : ChOut) => (c, o.st)) } }
    (outs.map (·.word), outs.map (fun (o : ChOut) => (roundDiv o.st.c 65536, o.word.2)), decide (0 < nl),
     (s1.inc STR_CHLIMITS nl).inc STR_REACQ (outs.countP ChOut.reacq))
  else
    let at_ (c : Nat) : Nat := min (c * d + d / 2) (range - 1)
    ((List.range n).map (fun c => nth words (at_ c) (0, 0, 0)),
     (List.range n).map (fun c => (nth us (at_ c) 0, (nth words (at_ c) (0, 0, 0)).2)), false, s)

/-- The channel state restarts with a frame that restarts every position (R125, R174). -/
def State.chansFresh (s : State) : State :=
  { s with str := { s.str with chans := s.str.chans.map (fun c => (c.1, { c.2 with fresh := true, b := [] })) } }

/-! Temporal decimation (R179 to R184). -/

/-- PRESET of a STR.CTL word, and the one in force. -/
def presetOf (ctl : Word) : Nat := if 6 ≤ fld ctl 19 16 then 0 else fld ctl 19 16
def State.preset (s : State) : Nat := presetOf s.str.ctl

/-- R and L of the response in force (Table STR-2). -/
def decROf (ctl ucfg : Word) : Nat :=
  match presetOf ctl with | 1 => 4 | 2 => 16 | 3 => 64 | 4 => 64 | 5 => 2 ^ min 6 (fld ucfg 18 16) | _ => 1

def State.decR (s : State) : Nat := decROf s.str.ctl s.str.ucfg

def State.decL (s : State) : Nat :=
  match s.preset with | 1 => 127 | 2 => 767 | 3 => 2047 | 4 => 64 | 5 => max 1 (fld s.str.ucfg 10 0) | _ => 1

/-- Settling outputs after frm.start (Table STR-2). -/
def State.decSettle (s : State) : Nat :=
  match s.preset with | 1 => 31 | 2 => 47 | 3 => 31 | 5 => (s.decL + s.decR - 1) / s.decR - 1 | _ => 0

/-- A preset of Table STR-2: its passband and stopband edges per f_f, the largest power gain of its stopband, the bounds of its white-noise change as
the table rounds it, and the cut-off and beta^2/4 of a response that keeps them (R181). -/
structure PresetSpec where
  pass : Rat
  stop : Rat
  att : Rat
  noise : Rat × Rat
  cut : Rat
  beta : Rat

def presetSpec (p : Nat) : PresetSpec :=
  match p with
  | 1 => { pass := 1 / 10, stop := 15 / 100, att := 1 / 10 ^ 8, noise := (24831 / 100000, 25410 / 100000), cut := 103 / 800, beta := 6889 / 400 }
  | 2 => { pass := 25 / 1000, stop := 375 / 10000, att := 1 / 10 ^ 10, noise := (62373 / 1000000, 63826 / 1000000), cut := 103 / 3200, beta := 441 / 16 }
  | _ => { pass := 625 / 100000, stop := 9375 / 1000000, att := 1 / 10 ^ 8, noise := (15311 / 1000000, 15668 / 1000000), cut := 103 / 12800, beta := 6889 / 400 }

/-- A symmetric response of `l` taps by its first half, in units of 2^-23; the centre tap brings their sum to `dc`. -/
def symTap (half : Nat → Int) (dc : Int) (l i : Nat) : Int :=
  if i = l / 2 then dc - 2 * (List.range (l / 2)).foldl (fun a j => a + half j) 0 else half (min i (l - 1 - i))

/-- The response of `l` symmetric taps at a frequency per f_f. -/
def symResponse (h : Nat → Int) (l : Nat) (f : Rat) : Rat :=
  ratSum l (fun i => (h i : Rat) * (cisTurn (f * ((((i : Nat) : Int) - ((l / 2 : Nat) : Int) : Int) : Rat))).re) / 8388608

/-- The taps keep the figures of Table STR-2: a ripple of 0.01 dB, the attenuation and the noise change; judged every f_f/16,384 (R181,
notes/assumptions/180.md). -/
def presetOk (p l : Nat) (h : Nat → Int) : Bool :=
  let t := presetSpec p
  let noise := ratSum l (fun i => (h i : Rat) * h i) / (2 ^ 46 : Nat)
  decide (t.noise.1 ≤ noise) && decide (noise ≤ t.noise.2) &&
  (List.range 8193).all (fun k =>
    let f : Rat := ((k : Nat) : Rat) / 16384
    let g := symResponse h l f
    (decide (t.pass < f) || (decide (99769 / 100000 ≤ g * g) && decide (g * g ≤ 100231 / 100000))) && (decide (f < t.stop) || decide (g * g ≤ t.att)))

/-- I0 of a value by a quarter of its square: 40 terms. -/
def besselI0 (y : Rat) : Rat :=
  ((List.range 40).foldl (fun (a : Rat × Rat) k => (a.1 + a.2, a.2 * y / (((k + 1) * (k + 1) : Nat) : Rat))) (0, 1)).1

/-- The first half of a response that keeps the figures of Table STR-2: a sinc under a Kaiser window. -/
def kaiserTap (p l j : Nat) : Int :=
  let t := presetSpec p
  let x : Rat := (((j : Int) - ((l / 2 : Nat) : Int) : Int) : Rat)
  let u := x / ((l / 2 : Nat) : Rat)
  ratAway (8388608 * (cisTurn (t.cut * x)).im / (piR * x) * besselI0 (t.beta * (1 - u * u)) / besselI0 t.beta)

/-- Tap `i` of a factory preset of `l` taps: free values where they keep the figures of Table STR-2 with a DC gain of 1 within 0.01 dB (R181). -/
def presetTap (p l i : Nat) : Int :=
  let free (i : Nat) : Int := symTap (Config.presetTap p) (clampZ 8378957 8398270 (Config.presetSum p)) l i
  if presetOk p l free then free i else symTap (kaiserTap p l) 8388608 l i

/-- Tap `i`, in units of 2^-23. -/
def State.tap (s : State) (i : Nat) : Int :=
  match s.preset with
  | 0 => 8388608
  | 4 => 131072
  | 5 => let l := s.decL
         toSigned 24 ((spGet s.str.taps (if i < (l + 1) / 2 then i else l - 1 - i)).getD 0)
  | p => presetTap p s.decL i

/-- The instant t_L of a frame in ps of fabric time, which may lie before 0 (R180). -/
def State.frameTime (s : State) (n : Int) : Int :=
  match s.str.times.find? (fun t => decide ((t.1 : Int) = n)) with
  | some t => t.2.1
  | none => (s.str.s0 : Int) + n * s.str.period + (s.csrRaw LCH_MONNOM).toNat

/-- The residual e of the frame nearest to an index. -/
def State.frameE (s : State) (n : Int) : Int :=
  match s.str.times.find? (fun t => decide ((t.1 : Int) = n)) with
  | some t => t.2.2
  | none => 0

/-- Output `k` of the stream, computed when its last frame is in the history (R179, R180, R183, R184). -/
def State.streamOutput (s : State) (k : Nat) : OutRow :=
  let l := s.decL
  let r := s.decR
  let n := k * r + r - 1
  let empty : HistRow := { n := 0, settle := false, filled := false, suspect := false, vals := [] }
  let oldest := s.str.hist.getLast?.getD empty
  let row (i : Nat) : HistRow := nth s.str.hist i oldest
  let span := (List.range l).map row
  let two := 2 * (n : Int) - ((l : Int) - 1)
  let cf := two / 2
  let mid := n - cf.toNat
  let near : List Nat := (List.range l).filter (fun (i : Nat) => decide ((2 * ((n : Int) - ((i : Nat) : Int)) - two).natAbs ≤ 2 * (r - 1)))
  let val (c : Nat) : Int × Bool :=
    let y := roundDiv ((List.range l).foldl (fun a i => a + s.tap i * (nth (row i).vals c (0, 0, 0)).1) 0) 8388608
    if 2 ^ 31 ≤ y.natAbs then ((nth s.str.prev c (0, 0, 0)).1, true) else (y, false)
  let vals := (List.range s.str.set.length).map (fun c =>
    (val c, (near.map (fun i => (nth (row i).vals c (0, 0, 0)).2.1)).foldl min 15, (nth (row (if cf < 0 then l else mid)).vals c (0, 0, 0)).2.2))
  let t := s.frameTime cf + (two % 2) * (s.str.period : Int) / 2
  { k := k, settle := decide (k < s.decSettle) || span.any (·.settle), filled := span.any (·.filled), ovr := vals.any (·.1.2),
    suspect := span.any (·.suspect), vals := vals.map (fun v => (v.1.1, v.2.1, v.2.2)), t := t, e := s.frameE cf }

/-! Blocks (R185 to R187). -/

/-- SETTLING, OVR and SUSPECT of a record. -/
def recFlags (settle ovr suspect : Bool) : Nat := b2n settle + (if ovr then 8 else 0) + (if suspect then 16 else 0)

/-- A part of a stream block: `rows` are those of the whole block, whose flags every part carries (R179, R183, R184); the part begins with `r0`. -/
def State.streamRec (s : State) (kind : Nat) (r0 : OutRow) (rows : List OutRow) (part : Nat) (last : Bool) (first nch ns qlow : Nat) (body : List Nat) : Rec :=
  let ovr := rows.any (·.ovr)
  let fl := (if rows.any (·.settle) then 1 else 0) + (if ovr then 8 else 0)
    + ((if rows.any (·.suspect) then 16 else 0) ||| s.gapFlag ((rows.head?.map (·.t)).getD r0.t) ((rows.getLast?.map (·.t)).getD r0.t))
  s.mkRec 66 3 0x03 (64 + s.str.port)
    ([r0.k % 2 ^ 32 * 2 ^ 32 + ns % 65536 * 2 ^ 16 + part % 256 * 2 ^ 8 + b2n last * 2 ^ 7,
      first * 2 ^ 32 + nch,
      fullSecZ r0.t * 2 ^ 32 + ofSigned 16 r0.e * 2 ^ 16 + fld s.str.ctl 27 24 * 2 ^ 8 + fld s.str.ctl 6 0,
      s.decR * 2 ^ 56 + min 65535 qlow * 2 ^ 40 + s.str.period % 2 ^ 40] ++ body)
    (s.pair STR_SBUF_LO) ((s.csrRaw STR_SBUFSIZE).toNat * 0x100000) STR_SBUF_LO
    (flags := fl) (spec := kind * 2 ^ 12 + fld s.str.ctl 19 16 * 2 ^ 8 + b2n (rows.any (·.filled)) * 2 ^ 7 + b2n (!bit s.str.ctl 29) * 2 ^ 6)
    (t := some r0.t)

/-- Words below QMIN among some values. -/
def State.qlow (s : State) (vals : List (Int × Nat × Nat)) : Nat := vals.countP (fun v => decide (v.2.1 < s.qmin))

/-- The sample blocks of some outputs are published, in parts. -/
def State.postRows (s : State) (rows : List OutRow) : State :=
  let nch := s.str.set.length
  if rows.isEmpty ∨ nch = 0 then s
  else if nch ≤ 131056 then
    let parts := chunks rows.length (131056 / nch) rows
    (parts.mapIdx (fun i p => (i, p))).foldl (fun st ip =>
      match ip.2 with
      | [] => st
      | r0 :: _ =>
        let vals := (ip.2.map (·.vals)).flatten
        st.publish (st.streamRec 0 r0 rows ip.1 (ip.1 + 1 == parts.length) (nth s.str.setIx 0 0) nch ip.2.length (st.qlow vals) (pack32 (vals.map phWord)))) s
  else
    (rows.mapIdx (fun i r => (i, r))).foldl (fun st ir =>
      let a := ir.2.vals.take 131056
      let b := ir.2.vals.drop 131056
      let st1 := st.publish (st.streamRec 0 ir.2 rows (2 * ir.1) false (nth s.str.setIx 0 0) 131056 1 (st.qlow a) (pack32 (a.map phWord)))
      st1.publish (st1.streamRec 0 ir.2 rows (2 * ir.1 + 1) (ir.1 + 1 == rows.length) (nth s.str.setIx 131056 0) (nch - 131056) 1 (st1.qlow b) (pack32 (b.map phWord)))) s

/-- A value rounded to an integer, halves up (notes/assumptions/14.md). -/
def ratRound (x : Rat) : Int := (x + 1 / 2).floor

/-- One output enters a channel's detectors (R185). -/
def Det.step (d : Det) (hpk relk qmin first k : Nat) (v : Int × Nat × Nat) : Det :=
  if v.2.1 < qmin then d
  else
    let x : Rat := v.1
    let m := d.m.getD x
    let y := x - m
    let ay := if y < 0 then -y else y
    { m := some (m + (x - m) / (2 ^ hpk : Nat)), e := if d.e < ay then ay else d.e - (d.e - ay) / (2 ^ relk : Nat),
      nvalid := d.nvalid + 1, ss := d.ss + y * y, pk := if d.pk < ay then ay else d.pk, pidx := if d.pk < ay then k - first else d.pidx }

/-- The square root of a value that is not negative, rounded to an integer, halves up: exact. -/
def sqrtRound (x : Rat) : Nat := (Nat.sqrt (4 * x).floor.toNat + 1) / 2

/-- The two words of a channel in a detector block (Table STR-4). -/
def Det.words (d : Det) : List Nat :=
  let u32 (x : Rat) : Nat := min (2 ^ 32 - 1) (ratRound x).toNat
  [u32 d.pk * 2 ^ 32 + (if d.nvalid = 0 then 0 else min (2 ^ 32 - 1) (sqrtRound (d.ss / (d.nvalid : Nat)))), u32 d.e * 2 ^ 32 + d.pidx % 65536 * 2 ^ 16 + d.nvalid % 65536]

/-- The detector window ends: its block is posted, and the window state starts again. -/
def State.postDets (s : State) : State :=
  match s.str.detRows with
  | [] => s
  | r0 :: _ =>
    let s1 := s.publish (s.streamRec 1 r0 s.str.detRows 0 true (nth s.str.setIx 0 0) s.str.dets.length s.str.detRows.length 0 (s.str.dets.map Det.words).flatten)
    { s1 with str := { s1.str with detRows := [], dets := s1.str.dets.map (fun d => { d with pk := 0, pidx := 0, ss := 0, nvalid := 0 }) } }

/-- The trace value of a channel for QTY: y, its magnitude, the envelope or the running peak (Table TRG-1). -/
def Det.trace (old new : Det) (x : Int) (qty : Nat) : Rat :=
  let y : Rat := (x : Rat) - old.m.getD x
  match qty with | 0 => y | 1 => if y < 0 then -y else y | 2 => new.e | _ => new.pk

/-- x_c of R175 in half positions. -/
def State.chanCentre2 (s : State) (c : Nat) : Nat :=
  let d := max 1 (fld s.str.ctl 6 0)
  if ctlAvg s.str.ctl then 2 * (c * d) + (min d (s.str.range - c * d) - 1) else 2 * min (c * d + d / 2) (s.str.range - 1)

/-- The samples of an output set out to the DAS conditions; excluded ones are left out (R219, R220). -/
def State.dasSamples (s : State) (r : OutRow) (settling : Bool) (old new : List Det) : State :=
  if !s.b TRG_STAT 29 || settling then s
  else
    let d0 : Det := { m := none, e := 0, pk := 0, pidx := 0, ss := 0, nvalid := 0 }
    let t0 : Int := r.t + (s.csrRaw LCH_ZDLY).toNat + (s.csrRaw RCV_RXDLY).toNat + r.e
    let of (k : Nat) : List DasSample :=
      if s.f (TRG_COND_CFG k) 26 24 = 0 && s.b (TRG_COND_CFG k) 31 then
        (((s.mapChans (s.f (TRG_COND_CFG k) 23 20)).mapIdx (fun i c => (i, c))).filterMap (fun (ic : Nat × Nat × Nat × Nat) =>
          match s.str.set.findIdx? (· == ic.2.2.2) with
          | none => none
          | some j =>
            let v := nth r.vals j (0, 0, 0)
            if ic.2.1 = s.dev ∧ ic.2.2.1 = 64 + s.str.port ∧ j < new.length ∧ s.qmin ≤ v.2.1 then
              some { k := k, idx := ic.1, chan := chanId s.dev ic.2.2.1 ic.2.2.2, t := t0 + (s.chanCentre2 ic.2.2.2 * 2000 : Nat),
                     x := (nth old j d0).trace (nth new j d0) v.1 (s.f (TRG_COND_CFG k) 19 18) }
            else none))
      else []
    { s with trg := { s.trg with das := s.trg.das ++ ((List.range 16).map of).flatten } }

/-- One output leaves the temporal filter: it joins the block and the detector window in progress. -/
def State.pushOutput (s : State) : State :=
  let r := s.streamOutput s.str.k
  let ns := clampN 1 4096 (fld s.str.blk 12 0)
  let s0 := s.ringPut 1 (64 + s.str.port) r.t (recFlags r.settle r.ovr r.suspect)
    (dasWords s.dev (64 + s.str.port) (r.k % 2 ^ 32 * 2 ^ 32 + s.decR % 256 * 2 ^ 24)
      (fun c => (s.str.set.findIdx? (· == c)).map (fun (i : Nat) => phWord (nth r.vals i (0, 0, 0)))))
  let s1 : State := { s0 with str := { s0.str with k := s0.str.k + 1, rows := s0.str.rows ++ [r], prev := r.vals } }
  let s2 :=
    if bit s.str.dctl 31 then
      let first := (s1.str.detRows.head?.map (·.k)).getD r.k
      let dets := s1.str.dets.mapIdx (fun i d => d.step (fld s.str.dctl 27 24) (fld s.str.dctl 23 20) s.qmin first r.k (nth r.vals i (0, 0, 0)))
      let s' := ({ s1 with str := { s1.str with dets := dets, detRows := s1.str.detRows ++ [{ r with vals := [] }] } }).dasSamples r
        (s1.str.rows.any (fun (x : OutRow) => x.settle)) s1.str.dets dets
      cond (decide (max 1 (fld s.str.dctl 15 0) ≤ s'.str.detRows.length)) State.postDets s'
    else s1
  if ns ≤ s2.str.rows.length then
    let s3 := cond (bit s.str.ctl 30) (·.postRows s2.str.rows) s2
    { s3 with str := { s3.str with rows := [] } }
  else s2

/-- One launch period enters the history, and an output falls due at the end of each group of R. -/
def State.pushHist (s : State) (row : HistRow) : State :=
  let s1 := { s with str := { s.str with hist := (row :: s.str.hist).take (s.decL + 1) } }
  if (row.n + 1) % s.decR = 0 then s1.pushOutput else s1

/-- The launch periods before number `n` that have no frame are filled with the values given and QUAL 2 (R184). -/
def State.fillTo (s : State) (n : Nat) (vals : List PhW) : State :=
  let from_ := match s.str.hist with | [] => 0 | h :: _ => h.n + 1
  let sus := match s.str.hist with | [] => false | h :: _ => h.suspect
  let row (m : Nat) : HistRow := { n := m, settle := false, filled := true, suspect := sus, vals := vals.map (fun (v : PhW) => (v.1, 2, v.2.2)) }
  ((List.range (n - from_)).foldl (fun st i => st.pushHist (row (from_ + i))) s).inc STR_FILLS (n - from_)

/-- A frame enters the stream: missing periods are filled first, those before the first frame with its own values (R179, R184). -/
def State.pushFrame (s : State) (n : Nat) (settle suspect : Bool) (tL e : Int) (chans : List PhW) : State :=
  if !s.str.streaming || s.str.set.isEmpty then s
  else
    let vals := s.str.set.map (fun c => nth chans c (0, 0, 0))
    let s0 := { s with str := { s.str with times := ((n, tL, e) :: s.str.times).take 2100 } }
    (s0.fillTo n (match s.str.hist with | [] => vals | h :: _ => h.vals)).pushHist { n := n, settle := settle, filled := false, suspect := suspect, vals := vals }

/-- The flush of R186: the periods of the run after its last frame are filled, the outputs held and the window in progress are posted, and a
run that waited for the flush begins. -/
def State.strFlush (s : State) : State :=
  let s0 : State := match s.str.hist with
    | h :: _ => if s.str.streaming then s.fillTo s.str.ended h.vals else s
    | [] => s
  let s1 := cond (bit s.str.ctl 30 && s.str.streaming) (·.postRows s0.str.rows) s0
  let s2 := cond (bit s.str.dctl 31 && s.str.streaming) State.postDets s1
  let s3 : State := { s2 with str := { s2.str with rows := [], streaming := false, flush := false } }
  match s.str.next with
  | some r => s3.strBegin r
  | none => s3

/-- The flush is due now if the run has no frame left to publish, else after the last of them (R186). -/
def State.strEnd (s : State) : State :=
  let s1 : State := { s with str := { s.str with ended := s.lch.periods } }
  if s.lch.frames.isEmpty then s1.strFlush else { s1 with str := { s1.str with flush := true } }

end Sys2Proof.Machine
end

