-- ==== Sys2Proof/Machine/Plan.lean ====
section
/-! DEFINITION. Pulse plans: codes, peaks, averages, periods and tails, and the checks of frm.start and lnch (R70 to
R83). -/

namespace Sys2Proof.Machine

open Csr

/-- 10^(r/40) in units of 10^-9 for r = 0 to 39, rounded to the nearest unit (notes/assumptions/12.md). -/
def pow40 : List Nat :=
  [1000000000, 1059253725, 1122018454, 1188502227, 1258925412, 1333521432, 1412537545, 1496235656, 1584893192, 1678804018,
   1778279410, 1883649089, 1995262315, 2113489040, 2238721139, 2371373706, 2511886432, 2660725060, 2818382931, 2985382619,
   3162277660, 3349654392, 3548133892, 3758374043, 3981071706, 4216965034, 4466835922, 4731512590, 5011872336, 5308844442,
   5623413252, 5956621435, 6309573445, 6683439176, 7079457844, 7498942093, 7943282347, 8413951416, 8912509381, 9440608763]

/-- Peak power of a PEAK code, (0.25 x PEAK - 20.0) dBm, in units of 10^-11 mW. -/
def peakPower (peak : Nat) : Nat := nth pow40 (peak % 40) 0 * 10 ^ (peak / 40)

/-- Field accessors of an entry's registers (Table LCH-9). -/
def eSlots (a : Word) : Nat := fld a 31 28
def eCode (a : Word) : Nat := fld a 27 26
def eLen (a : Word) : Nat := fld a 15 0
def eChip (b : Word) : Nat := fld b 23 16
def eBw (b : Word) : Nat := fld b 10 0

/-- Number of ones of a slot mask. -/
def popSlots (m : Nat) : Nat := m % 2 + m / 2 % 2 + m / 4 % 2 + m / 8 % 2

/-- Code duration T_code in ps (Table LCH-6). -/
def tCode (a b : Word) : Nat := if eCode a = 2 then eLen a * eChip b * 250 else eLen a * 250

/-- R77: the code lies within Table LCH-6. -/
def codeOk (a b : Word) : Bool :=
  let l := eLen a
  match eCode a with
  | 0 => decide (40 ≤ l) && decide (l ≤ 8000)
  | 1 => decide (400 ≤ l) && decide (l ≤ 40000) && decide (100 ≤ eBw b) && decide (eBw b ≤ 2000)
  | 2 => [16, 32, 64, 128, 256, 512, 1024].contains l && decide (20 ≤ eChip b) && decide (l * eChip b ≤ 40000)
  | _ => false

/-- Largest PEAK code for `n` enabled slots and `m` slots of the entry (Table LCH-11); none where the table has no row. -/
def peakMax (n m : Nat) : Option Nat :=
  match n, m with
  | 1, 1 => some 172 | 2, 1 => some 172 | 2, 2 => some 156 | 3, 1 => some 168 | 3, 3 => some 144
  | 4, 1 => some 164 | 4, 2 => some 148 | 4, 4 => some 136 | _, _ => none

/-- R80, R83: the peak of an entry is allowed. -/
def peakOk (sloten : Nat) (a c : Word) : Bool :=
  match peakMax (popSlots sloten) (popSlots (eSlots a)) with
  | some top => decide (fld c 7 0 ≤ top)
  | none => false

/-- The plan in the registers. -/
structure PlanRegs where
  mode : Nat
  split : Bool
  ilv : Bool
  sloten : Nat
  first : Nat
  count : Nat
  n : Nat
  ent : Nat
  range : Nat
  deriving DecidableEq, Repr

/-- The plan of a PLAN, RANGE and ILV word. -/
def planOf (p r i : Word) : PlanRegs :=
  { mode := fld p 30 28, split := bit p 27, ilv := bit p 26, sloten := fld p 23 20, first := fld p 15 12, count := fld p 4 0,
    n := fld i 15 4, ent := fld i 3 0, range := fld r 17 0 }

/-- The plan now in the registers. -/
def State.plan (s : State) : PlanRegs := planOf (s.csrRaw LCH_PLAN) (s.csrRaw LCH_RANGE) (s.csrRaw LCH_ILV)

/-- ENTA, ENTB, ENTC of an entry. -/
def State.enta (s : State) (k : Nat) : Word := s.csrRaw (LCH_ENTA (k % 16))
def State.entb (s : State) (k : Nat) : Word := s.csrRaw (LCH_ENTB (k % 16))
def State.entc (s : State) (k : Nat) : Word := s.csrRaw (LCH_ENTC (k % 16))
def State.entTcode (s : State) (k : Nat) : Nat := tCode (s.enta k) (s.entb k)

/-- The rotation entries, in launch order (R73). -/
def PlanRegs.rotation (p : PlanRegs) : List Nat := (List.range p.count).map (fun i => (p.first + i) % 16)

/-- The entries the sequencer launches. -/
def PlanRegs.launched (p : PlanRegs) : List Nat := p.rotation ++ (if p.ilv then [p.ent] else [])

/-- Coil round trip in ps. -/
def State.tCoil (s : State) : Nat := (s.csrRaw LCH_SENTDLY).toNat

/-- Capture window of an entry in ps (R73). -/
def State.window (s : State) (range k : Nat) : Nat := s.tCoil + range * 4000 + s.entTcode k

/-- Ceiling of a quotient. -/
def ceilDiv (a b : Nat) : Nat := (a + b - 1) / b

/-- K of R76; 0 outside the interleaved plan. -/
def State.planK (s : State) (p : PlanRegs) (per : Nat) : Nat :=
  if p.ilv then
    let w := (p.launched.map (s.window p.range)).foldl max 0
    max p.count (ceilDiv w per)
  else 0

/-- Positions of the rotation whose entry includes a slot. -/
def State.slotPos (s : State) (p : PlanRegs) (slot : Nat) : List Nat :=
  (List.range p.count).filter (fun i => (eSlots (s.enta (p.first + i))).testBit slot)

/-- The smallest cyclic distance between two positions of a list in a rotation of `n`; `n` for one position. -/
def cyclicGap (n : Nat) : List Nat → Nat
  | [] => 0
  | [_] => n
  | x :: xs =>
    let last := xs.getLastD x
    let rec go : Nat → List Nat → Nat → Nat
      | _, [], m => m
      | a, b :: t, m => go b t (min m (b - a))
    go x xs (n - (last - x))

/-- T_rep of a slot in ps (R74); 0 for a slot that no entry names. -/
def State.tRep (s : State) (p : PlanRegs) (per slot : Nat) : Nat := per * cyclicGap p.count (s.slotPos p slot)

/-- The slots of a mask. -/
def slotsOf (m : Nat) : List Nat := (List.range 4).filter (fun i => m.testBit i)

/-- TAIL of a slot for a frame of an entry (R75). -/
def State.tailOf (s : State) (p : PlanRegs) (per slot k : Nat) : Nat :=
  ceilDiv (s.window p.range k - s.tRep p per slot) 4000

/-- PLANSTAT.TAIL: the largest tail over the rotation entries and their slots. -/
def State.planTail (s : State) (p : PlanRegs) (per : Nat) : Nat :=
  ((p.rotation.map (fun k => (slotsOf (eSlots (s.enta k))).map (fun sl => s.tailOf p per sl k))).flatten).foldl max 0

/-- The first check of frm.start: MODE, SPLIT, ILV and COUNT form a plan (R72, R79). -/
def PlanRegs.formOk (p : PlanRegs) : Bool :=
  (p.mode == 1 || p.mode == 2) && !(p.split && p.ilv) && decide (1 ≤ p.count) && decide (p.count ≤ 16)

/-- The per-entry rule of the plan's MODE (R72). -/
def PlanRegs.entryRule (p : PlanRegs) (slots : Nat) : Bool :=
  match p.mode with
  | 1 => popSlots slots == 1
  | 2 => slots == p.sloten
  | _ => true

/-- The plan constraints of Table LCH-5 for frm.start beyond its form. -/
def State.planRule (s : State) (p : PlanRegs) : Bool :=
  p.rotation.all (fun k => p.entryRule (eSlots (s.enta k)))
  && (p.rotation.foldl (fun m k => m ||| eSlots (s.enta k)) 0) == p.sloten
  && (!p.split || p.sloten == 3)
  && (!p.ilv || (decide (0 < p.n) && eSlots (s.enta p.ent) != 0 && (eSlots (s.enta p.ent) ||| p.sloten) == p.sloten))

/-- Average power of the sequencer's cycle: energy against 50 mW (R83). -/
def State.averageOk (s : State) (p : PlanRegs) (per : Nat) : Bool :=
  let e (k : Nat) : Nat := popSlots (eSlots (s.enta k)) * peakPower (fld (s.entc k) 7 0) * s.entTcode k
  let rot := (p.rotation.map e).foldl (· + ·) 0
  let energy := if p.ilv then p.n * rot + e p.ent else rot
  let cycle := if p.ilv then (p.count * p.n + 2 * s.planK p per) * per else p.count * per
  decide (energy ≤ 50 * 10 ^ 11 * cycle)

/-- The first condition of R74 on the period. -/
def periodOk (per : Int) : Bool := decide (2000000 ≤ per) && decide (per ≤ (psPerSec : Int)) && per % (tick : Int) == 0

/-- The other conditions of R74 and R76. -/
def State.periodRule (s : State) (p : PlanRegs) (per : Nat) : Bool :=
  p.launched.all (fun k => decide (s.entTcode k + 40000 ≤ per))
  && (slotsOf p.sloten).all (fun sl => (s.slotPos p sl).isEmpty || decide (p.range * 4000 ≤ s.tRep p per sl))
  && (!p.ilv || decide (p.range * 4000 ≤ 2 * s.planK p per * per))

/-- The smallest period that R74 and R76 allow the plan of some registers: a multiple of the tick, with room for every code and with T_rep of every
slot at least the range. -/
def State.minPeriod (s : State) (p : PlanRegs) : Nat :=
  let codes := (p.launched.map (fun k => s.entTcode k + 40000)).foldl max 2000000
  let reps := ((slotsOf p.sloten).map (fun sl =>
    let g := cyclicGap p.count (s.slotPos p sl)
    if g = 0 then 0 else ceilDiv (p.range * 4000 : Nat) g)).foldl max codes
  nextTick reps

/-- R81: the range. -/
def PlanRegs.rangeOk (p : PlanRegs) : Bool := decide (1 ≤ p.range) && decide (p.range ≤ 244858)

/-- Reason 4 of frm.start apart from STR: R74, R76, R81. -/
def State.periodRules (s : State) (p : PlanRegs) (per : Int) : Bool := periodOk per && s.periodRule p per.toNat && p.rangeOk

/-- A refusal: reason of R79 and the entry it names. -/
abbrev Why := Nat × Nat

/-- The first entry of a list that fails a test. -/
def firstBad (l : List Nat) (ok : Nat → Bool) : Option Nat := l.find? (fun k => !ok k)

/-- The status of a reason (R79). -/
def whyStatus (w : Nat) : Nat := if w = 6 ∨ w = 7 then 3 else if w = 8 then 7 else 2

/-- R79 for frm.start: the first failing check in the order of ERRWHY. A refusal that names no one entry gives ERRENT 0: the spec says only which
entry of several is named (DESIGN CHOICE, notes/assumptions/73.md). -/
def State.checkStart (s : State) (per : Int) : Option Why :=
  let p := s.plan
  let pn := per.toNat
  if !p.formOk then some (5, 0)
  else
    match firstBad p.launched (fun k => codeOk (s.enta k) (s.entb k)) with
    | some k => some (1, k)
    | none =>
      match firstBad p.launched (fun k => peakOk p.sloten (s.enta k) (s.entc k)) with
      | some k => some (2, k)
      | none =>
        if periodOk per && !s.averageOk p pn then some (3, 0)
        else if !s.periodRules p per || !s.strStartOk then some (4, 0)
        else if !s.planRule p then some (5, 0)
        else if !s.lch.portRdy then some (6, 0)
        else if !s.lch.lock then some (8, 0)
        else none

/-- A slot of a mask has a capture window, open or of a pending lnch, that is not over at an instant: reason 7 of R79, judged at issue against every
window known then (DESIGN CHOICE, notes/assumptions/164.md). -/
def State.slotOpen (s : State) (m t : Nat) : Bool :=
  s.lch.wins.any (fun l => (eSlots l.enta &&& m) != 0 && decide (t < l.closes)) || s.lch.lnch.any (fun l => (l.slots &&& m) != 0 && decide (t < l.closes))

/-- The constraint of R72 for the one entry of a lnch. -/
def State.lnchRule (s : State) (p : PlanRegs) (k : Nat) : Bool :=
  let sl := eSlots (s.enta k)
  sl != 0 && (sl ||| p.sloten) == p.sloten && !(p.split && p.ilv)
  && (p.mode == 1 || p.mode == 2 || (p.mode == 3 && !p.split && !p.ilv)) && decide (1 ≤ p.count) && decide (p.count ≤ 16)
  && (!p.split || p.sloten == 3) && (!p.ilv || decide (0 < p.n)) && p.entryRule sl

/-- R79 for lnch of entry `k` at an instant. -/
def State.checkLnch (s : State) (k t : Nat) : Option Why :=
  let p := s.plan
  let a := s.enta k
  let e := popSlots (eSlots a) * peakPower (fld (s.entc k) 7 0) * s.entTcode k
  if !codeOk a (s.entb k) then some (1, k)
  else if !peakOk p.sloten a (s.entc k) then some (2, k)
  else if 50 * 10 ^ 11 * s.window p.range k < e then some (3, k)
  else if !p.rangeOk then some (4, k)
  else if !s.lnchRule p k then some (5, k)
  else if !s.lch.portRdy then some (6, k)
  else if s.slotOpen (eSlots a) t then some (7, k)
  else if !s.lch.lock then some (8, k)
  else none

end Sys2Proof.Machine
end

