-- ==== Sys2Proof/Machine/Crc.lean ====
section
/-! DEFINITION. The cyclic redundancy checks the spec names, over bytes in ascending order. -/

namespace Sys2Proof.Machine

/-- One bit of a CRC of width `w` shifted left, most significant bit first. -/
def crcShl (w poly : Nat) : Nat → Nat → Nat
  | 0, c => c
  | n + 1, c => crcShl w poly n (if c.testBit (w - 1) then (c * 2) % 2 ^ w ^^^ poly else c * 2)

/-- A CRC without reflection: width, polynomial, initial value. -/
def crcMsb (w poly init : Nat) (bs : List Nat) : Nat :=
  bs.foldl (fun c b => crcShl w poly 8 (c ^^^ (b % 256) * 2 ^ (w - 8))) init

/-- One bit of a reflected CRC. -/
def crcShr (poly : Nat) : Nat → Nat → Nat
  | 0, c => c
  | n + 1, c => crcShr poly n (if c % 2 = 1 then c / 2 ^^^ poly else c / 2)

/-- A 32-bit reflected CRC with initial value and final XOR of all ones. -/
def crcRef (poly : Nat) (bs : List Nat) : Nat :=
  bs.foldl (fun c b => crcShr poly 8 (c ^^^ (b % 256))) 0xFFFFFFFF ^^^ 0xFFFFFFFF

/-- CRC-32C, the Castagnoli CRC of RFC 3720. -/
def crc32c (bs : List Nat) : Nat := crcRef 0x82F63B78 bs

/-- The CRC-16 of R194 (polynomial 0x1021, initial value 0xFFFF). -/
def crc16 (bs : List Nat) : Nat := crcMsb 16 0x1021 0xFFFF bs

/-- The CRC-8 of R194 (polynomial 0x07, initial value 0). -/
def crc8 (bs : List Nat) : Nat := crcMsb 8 0x07 0 bs

/-- `n` little-endian bytes of a number. -/
def bytesOf : Nat → Nat → List Nat
  | 0, _ => []
  | k + 1, n => n % 256 :: bytesOf k (n / 256)

end Sys2Proof.Machine
end

