-- ==== Sys2Proof/Machine/Tdc.lean ====
section
/-! DEFINITION. The TDC units: owners, edges, results, statistics and calibration (R273 to R280). -/

namespace Sys2Proof.Machine

open Csr

/-- One unit. -/
def State.tdc (s : State) (u : Nat) : TdcUnit := s.tim.tdc[u % 8]'(by omega)

/-- One unit changed. -/
def State.tdcUpd (s : State) (u : Nat) (f : TdcUnit → TdcUnit) : State := { s with tim := { s.tim with tdc := vmod s.tim.tdc u f } }

/-- A direct input that names a unit and is enabled. -/
def State.dinOf (s : State) (u : Nat) : Option Nat := (List.range 4).find? (fun i => s.b (TRG_DIN i) 31 && s.f (TRG_DIN i) 26 24 == u)

/-- The latency patrol is enabled, or a link in PATROL makes its one patrol (R206, R208; DEDUCED, notes/assumptions/67.md). -/
def State.patrolOn (s : State) : Bool := s.b FEL_PATROL 31 || (List.range 64).any (fun l => s.f (FEL_LSTAT l) 31 29 == 4)

/-- The enabled users of a unit in the order of R274, by their OWNER codes. -/
def State.tdcUsers (s : State) (u : Nat) : List Nat :=
  (if s.b LCH_MON 31 && s.f LCH_MON 26 24 == u then [4] else []) ++ (if s.patrolOn && s.f FEL_PATROL 26 24 == u then [3] else [])
  ++ (if (s.dinOf u).isSome then [2] else []) ++ (if s.b (TIM_TDC_CFG u) 31 then [1] else [])

/-- TIM.TDC[u].CFG.OWNER (R274). -/
def State.tdcOwner (s : State) (u : Nat) : Nat := if s.b TIM_CALSTAT u then 5 else (s.tdcUsers u).head?.getD 0

/-- TIM.STAT.TDCCONF is set where two enabled users name one unit. -/
def State.tdcConf (s : State) : State := cond ((List.range 8).any (fun u => decide (2 ≤ (s.tdcUsers u).length))) (·.setB TIM_STAT 23 true) s

/-- No statistics gathered. -/
def TdcStats.none : TdcStats := { n := 0, sum := 0, sumsq := 0, lo := 0, hi := 0, order := 0, sublsb := 0, invalid := 0, busy := 0, first := 0, last := 0 }

/-- The mean in 2^-16 ps. -/
def TdcStats.mean (t : TdcStats) : Int := roundDiv (t.sum * 65536) t.n

/-- The sample standard deviation in 2^-16 ps, exact and rounded to the nearest. -/
def TdcStats.std (t : TdcStats) : Nat :=
  if t.n ≤ 1 then 0 else (Nat.sqrt ((((t.n : Int) * t.sumsq - t.sum * t.sum).toNat * 2 ^ 34) / (t.n * (t.n - 1))) + 1) / 2

/-- A block ends and is posted on Q78, or is not where it holds no result (R280, Table TIM-5). -/
def State.tdcPost (s : State) (u owner : Nat) (partial_ : Bool) : State :=
  let t := (s.tdc u).stats
  let s0 := s.tdcUpd u (fun x => { x with stats := TdcStats.none })
  if t.n = 0 then s0
  else
    let q := clampN 1 1048576 (s.f (TIM_TDC_NSTAT u) 20 0)
    s0.publish (s.mkBare 78 10 0x0D 79
      [q * 2 ^ 32 + t.n, t.invalid * 2 ^ 32 + t.busy, t.order * 2 ^ 32 + t.sublsb, ofSigned 64 t.mean, t.std, ofSigned 64 t.lo, ofSigned 64 t.hi,
       fullSecZ (roundDiv t.first 4096) * 2 ^ 32 + s.f (TIM_TDC_CAL u) 31 16 * 2 ^ 16, stampZ (roundDiv t.last 4096)]
      ((if s.flt.suspect.contains (8 + u) then 16 else 0) ||| s.gapFlag (t.first / 4096) (t.last / 4096)) (u * 2 ^ 13 + b2n partial_ * 2 ^ 12 + owner * 2 ^ 9) (roundDiv t.first 4096))

/-- A result of a unit completes: value in ps, flags and, where it counts, the start stamp. -/
def State.tdcResult (s : State) (u : Nat) (r : Int) (flags : Nat) (first : Int) : State :=
  let bad := flags.testBit 4 || flags.testBit 0
  let w := ofSigned 48 r
  let s1 := (s.result (TIM_TDC_RES u) (TIM_TDC_FLG u) (w % 2 ^ 24) (flags + w / 2 ^ 24 * 2 ^ 8)).bump 0xB5 1
  let s2 := cond bad (·.incF (TIM_TDC_CNT u) 15 0) s1
  if !s.b (TIM_TDC_CFG u) 29 then s2
  else if bad then s2.tdcUpd u (fun x => { x with stats := { x.stats with invalid := x.stats.invalid + 1 } })
  else
    let s3 := s2.tdcUpd u (fun x =>
      let t := x.stats
      { x with stats := { t with n := t.n + 1, sum := t.sum + r, sumsq := t.sumsq + r * r, lo := if t.n = 0 then r else min t.lo r,
                                 hi := if t.n = 0 then r else max t.hi r, order := t.order + b2n (flags.testBit 2), sublsb := t.sublsb + b2n (flags.testBit 1),
                                 first := if t.n = 0 then first else t.first, last := first } })
    cond (decide (clampN 1 1048576 (s.f (TIM_TDC_NSTAT u) 20 0) ≤ (s3.tdc u).stats.n)) (·.tdcPost u (s.tdcOwner u) false) s3

/-- The path an owner's start or stop edge takes into a unit, as `Config.inputDelay` counts paths; without an owner of its own, the selection of
user mode (R275, Table TIM-4). -/
def State.tdcPath (s : State) (u own : Nat) (isStop : Bool) : Nat :=
  match own with
  | 2 => 4 + 2 * (s.dinOf u).getD 0 + b2n isStop
  | 3 => 12 + b2n isStop
  | 4 => 14 + b2n isStop
  | _ => if isStop then s.f (TIM_TDC_CFG u) 25 24 else s.f (TIM_TDC_CFG u) 27 26

/-- The input delay of an owner's path, ps. -/
def State.tdcDelay (s : State) (u own : Nat) (isStop : Bool) : Nat := (Config.inputDelay u (s.tdcPath u own isStop)).toNat

/-- TIM.TDC[u].PINDLY: the delays for the owner and selection in force (R275). -/
def State.pinDly (s : State) (u : Nat) : Nat := s.tdcDelay u (s.tdcOwner u) true * 65536 + s.tdcDelay u (s.tdcOwner u) false

/-- The calibrated LSB in 2^-12 ps. -/
def State.tdcLsb (s : State) (u : Nat) : Nat := s.f (TIM_TDC_CAL u) 31 16

/-- Both edges have arrived: the result by R275 to R277; the difference rounded to ps is what R276 compares with the LSB. -/
def State.tdcMeasure (s : State) (u : Nat) (a b : Int) : State :=
  let lsb : Int := s.tdcLsb u
  let raw := b - a
  let span : Nat := 65536 * tick * 4096
  let ovr := s.f (TIM_TDC_TMO u) 15 0 == 0 && decide ((s.tdc u).since + 65536 * tick ≤ s.time)
  let d : Int := if ovr then (if raw < 0 then -((raw.natAbs % span : Nat) : Int) else ((raw.natAbs % span : Nat) : Int)) else raw
  let r : Int := roundDiv d 4096
  let sub := decide (4096 * r.natAbs < lsb.natAbs)
  let v : Int := if !sub then r else if 8192 * r.natAbs ≤ lsb.natAbs then 0 else roundDiv (if r < 0 then -lsb else lsb) 4096
  (s.tdcResult u v ((if b < a then 4 else 0) + (if sub then 2 else 0) + b2n ovr) a).tdcUpd u
    (fun x => { x with start := none, stop := none, dead := true })

/-- The stamp of an edge in 2^-12 ps: the TIME tick that starts the fast ring, less `n` LSB, less the input delay of its path (R275). -/
def State.tdcStamp (s : State) (u own : Nat) (isStop : Bool) (n : Nat) : Int :=
  ((nextTick (s.time + 1) : Nat) : Int) * 4096 - (n * s.tdcLsb u : Nat) - (s.tdcDelay u own isStop * 4096 : Nat)

/-- A start that a busy unit ignores is counted, and in the statistics while they are gathered (R277, R280). -/
def State.tdcBusy (s : State) (u : Nat) : State :=
  let s1 := s.incF (TIM_TDC_CNT u) 31 16
  cond (s.b (TIM_TDC_CFG u) 29) (·.tdcUpd u (fun y => { y with stats := { y.stats with busy := y.stats.busy + 1 } })) s1

/-- A measurement of a unit runs. -/
def TdcUnit.running (x : TdcUnit) : Bool := x.start.isSome || x.stop.isSome

/-- A unit takes the first start edge and the first stop edge of its owner, or of the user whose measurement runs; true where the edge was taken. The
edges of other users are ignored, and user mode's while the unit is stopped (R274, R275, R277). -/
def State.tdcEdge (s : State) (u own : Nat) (isStop : Bool) (n : Nat) : State × Bool :=
  let x := s.tdc u
  let z := s.tdcStamp u own isStop n
  let taken := if isStop then x.stop.isSome else x.start.isSome
  if (if x.running then x.usr else s.tdcOwner u) ≠ own ∨ (x.stopped ∧ own = 1) then (s, false)
  else if x.dead || taken then (cond (!isStop) (·.tdcBusy u) s, false)
  else
    let s1 := s.tdcUpd u (fun y => { y with start := if isStop then y.start else some z, stop := if isStop then some z else y.stop, usr := own,
                                            since := if x.running then y.since else s.time })
    match (s1.tdc u).start, (s1.tdc u).stop with
    | some a, some b => (s1.tdcMeasure u a b, true)
    | _, _ => (s1, true)

/-- An owner's internal start edge, at fabric time `z` ps, starts a measurement of the unit; true where the unit measures it. A busy unit counts it
(R277). -/
def State.tdcStart (s : State) (u owner z : Nat) : Bool × State :=
  let x := s.tdc u
  if s.tdcOwner u != owner then (false, s)
  else if x.dead || x.running then (false, s.tdcBusy u)
  else (true, s.tdcUpd u (fun y => { y with start := some ((z * 4096 : Nat) : Int), usr := owner, since := s.time }))

/-- TDC_EDGE: an edge of START_IN or STOP_IN comes, 0 START_IN rising, 1 falling, 2 STOP_IN rising, 3 falling: the start, the stop, or both, as user mode
selects them (Table TIM-8). -/
def State.tdcPin (s : State) (u src n : Nat) : State :=
  let s1 := cond (s.f (TIM_TDC_CFG u) 27 26 == src) (fun st => (st.tdcEdge u 1 false n).1) s
  cond (s.f (TIM_TDC_CFG u) 25 24 == src) (fun st => (st.tdcEdge u 1 true n).1) s1

/-- The latest result of a TDC unit as a signed number of ps (R278). -/
def State.tdcLast (s : State) (u : Nat) : Int := toSigned 48 (s.f (TIM_TDC_FLG u) 31 8 * 2 ^ 24 + s.f (TIM_TDC_RES u) 23 0)

/-- TDC_TIMEOUT: the second edge has not arrived TMO ticks after the first (R277). -/
def State.tdcTimeout (s : State) (u : Nat) : State :=
  let x := s.tdc u
  let t := s.f (TIM_TDC_TMO u) 15 0
  if t = 0 ∨ (x.start.isNone && x.stop.isNone) ∨ s.time < x.since + t * tick then s
  else (s.tdcResult u 0 16 0).tdcUpd u (fun y => { y with start := none, stop := none })

/-- TDC_DEAD_TIME_END: the unit re-arms, or under CONT 0 in user mode stops (R275). -/
def State.tdcDeadEnd (s : State) (u : Nat) : State :=
  if !(s.tdc u).dead then s
  else s.tdcUpd u (fun x => { x with dead := false, stopped := x.usr == 1 && !s.b (TIM_TDC_CFG u) 30 })

/-- TDC_RING_CHECK: CAL.LSB takes the measured LSB; the check of class 16 raises a minor alarm and SUSPECT (R279, Table FLT-1). -/
def State.tdcRing (s : State) (u lsb : Nat) (ok : Bool) : State :=
  let s1 := (cond ok (·.setF (TIM_TDC_CAL u) 31 16 lsb) s).suspectSrc (8 + u) (!ok)
  cond (!ok) (·.alarm 2 (TIM_TDC_CAL u) 16 79 (chanId s.dev 79 u)) s1

/-- An owner is no longer an enabled user of the unit. -/
def State.tdcOff (s : State) (u own : Nat) : Bool := decide (1 ≤ own) && decide (own ≤ 4) && !(s.tdcUsers u).contains own

/-- TIM.TDC[u].CFG: a write of EN = 1 re-arms a stopped unit; disabling STATS or the owner ends the block (R275, R280), and enabling STATS begins
one. -/
def State.writeTdcCfg (s : State) (u : Nat) (v : Word) : State :=
  let own := s.tdcOwner u
  let s1 := s.writeReg (TIM_TDC_CFG u) v
  let s2 := cond (bit v 31) (·.tdcUpd u (fun x => { x with stopped := false })) s1
  let s2 := cond (!s.b (TIM_TDC_CFG u) 29) (·.tdcUpd u (fun x => { x with stats := TdcStats.none })) s2
  let ends := s.b (TIM_TDC_CFG u) 29 && (!s2.b (TIM_TDC_CFG u) 29 || s2.tdcOff u own)
  (cond ends (·.tdcPost u own true) s2).tdcConf

/-- A register that enables or moves an owner of a unit is written: a block of an owner that goes ends (R280). -/
def State.writeTdcOwner (s : State) (a : Nat) (v : Word) : State :=
  let s1 := s.writeReg a v
  let s2 := (List.range 8).foldl (fun st u =>
    cond (s.b (TIM_TDC_CFG u) 29 && s1.tdcOff u (s.tdcOwner u)) (·.tdcPost u (s.tdcOwner u) true) st) s1
  s2.tdcConf

/-- Twice the median of some numbers. -/
def twiceMedian (l : List Int) : Int :=
  let m := sortBy (fun a b => decide (a ≤ b)) l
  nth m ((m.length - 1) / 2) 0 + nth m (m.length / 2) 0

end Sys2Proof.Machine
end

