-- ==== Sys2Proof/Machine/Fel.lean ====
section
/-! DEFINITION. Front-end links: bring-up, fast commands, superframes, slow control, the latency patrol and hit blocks
(R192 to R212, R216 to R218). -/

namespace Sys2Proof.Machine

open Csr

/-- One FE link's state. -/
def State.link (s : State) (l : Nat) : LinkSt := s.fel.links[l % 64]'(by omega)

/-- One FE link's state changed. -/
def State.linkUpd (s : State) (l : Nat) (f : LinkSt → LinkSt) : State := { s with fel := { s.fel with links := vmod s.fel.links l f } }

/-- FEL.LSTAT.STATE. -/
def State.lstate (s : State) (l : Nat) : Nat := s.f (FEL_LSTAT l) 31 29

/-- A link is UP. -/
def State.linkUp (s : State) (l : Nat) : Bool := s.lstate l == 6

/-- The links UP, ascending. -/
def State.upLinks (s : State) : List Nat := (List.range 64).filter s.linkUp

/-- One link-clock tick in ps. -/
def felTick : Nat := 6250

/-- The module tick now, on the counter all links share: tick `k` begins at fabric time `k` x 6,250 ps (R262). -/
def State.felNow (s : State) : Nat := s.time / felTick

/-- T_tx(k) of link `l`: the beginning of tick `k` plus TIM.FETXDLY (R262). -/
def State.felTx (s : State) (l k : Nat) : Nat := felTick * k + s.f (TIM_FETXDLY l) 15 0

/-- EXEC and TURN of FEL.FEDLY in ps. -/
def State.felExec (s : State) (l : Nat) : Nat := 10 * s.f (FEL_FEDLY l) 31 16
def State.felTurn (s : State) (l : Nat) : Nat := 10 * s.f (FEL_FEDLY l) 15 0

/-- A minor or major alarm of a link. -/
def State.linkAlarm (s : State) (cls l reg b : Nat) : State := s.alarm cls reg b l (chanId s.dev l 0)

/-! Hit blocks (R216, R217). -/

/-- The record of a hit block. -/
def State.hitRec (s : State) (l : Nat) (k : LinkSt) (b : HitBlock) (first : HitEntry) : Rec :=
  s.mkRec l 5 0x04 l
    ([b.entries.length * 2 ^ 32 + min (2 ^ 32 - 1) k.ncut, fullSecZ first.t * 2 ^ 32 + (s.csrRaw (FEL_DDOWN l)).toNat]
      ++ b.entries.map (fun (e : HitEntry) => ofSigned 29 (e.t - first.t) * 2 ^ 35 + b2n e.late * 2 ^ 34 + e.keep % 4 * 2 ^ 32 + e.chan % 4096 * 2 ^ 20 + e.q % 2 ^ 20))
    (s.pair (FEL_HBUF_LO l)) ((s.csrRaw (FEL_HBUFSIZE l)).toNat * 0x100000) (FEL_HBUF_LO l)
    (flags := (if k.jump || k.syncBad then 0x10 else 0) ||| s.gapFlag (b.entries.foldl (fun m (e : HitEntry) => min m e.t) first.t) (b.entries.foldl (fun m (e : HitEntry) => max m e.t) first.t))
    (spec := b2n k.ingDrop * 2 ^ 15 + b2n b.lost * 2 ^ 14 + b2n k.syncBad * 2 ^ 13 + b2n (b.entries.any (fun (e : HitEntry) => e.late)) * 2 ^ 12)
    (t := some first.t)

/-- The block of a link closes and is posted; one without entries is not. -/
def State.closeBlock (s : State) (l : Nat) : State :=
  match (s.link l).block with
  | none => s
  | some b =>
    match b.entries with
    | [] => s
    | e :: _ =>
      (s.publish (s.hitRec l (s.link l) b e)).linkUpd l (fun k => { k with block := none, ncut := 0, ingDrop := false })

/-- FEL.BLK.MAXHIT in force. -/
def State.maxHit (s : State) : Nat := clampN 1 65530 (s.f FEL_BLK 15 0)

/-- A kept hit joins the block of its link; the block closes before it where DT would reach the limit, and after it when full. -/
def State.blockHit (s : State) (h : Hit) (keep : Nat) (late : Bool) : State :=
  let far := match (s.link h.link).block with
    | some b => (match b.entries with | e :: _ => decide (2 ^ 28 ≤ (h.t - e.t).natAbs) | [] => false)
    | none => false
  let s1 := cond far (·.closeBlock h.link) s
  let e : HitEntry := { t := h.t, late := late, keep := keep, chan := h.chan, q := h.q }
  let s2 := s1.linkUpd h.link (fun k =>
    { k with block := some (match k.block with
        | some b => { b with entries := b.entries ++ [e], lost := b.lost || h.lost }
        | none => { entries := [e], lost := h.lost, since := s.time }) })
  let n := match (s2.link h.link).block with | some b => b.entries.length | none => 0
  cond (decide (s.maxHit ≤ n)) (·.closeBlock h.link) s2

/-- HIT_BLOCK_TMO: a block whose first entry was decided FEL.BLK.TMO ago closes. -/
def State.blockTmo (s : State) (l : Nat) : State :=
  match (s.link l).block with
  | some b => if b.since + (max 1 (s.f FEL_BLK 31 16)) * us ≤ s.time then s.closeBlock l else s
  | none => s

/-! Fast commands (R195 to R199). -/

/-- A request is dropped: FEL.FCDROP counts and a bit of FEL.STAT is set. -/
def State.fcDrop (s : State) (b : Nat) : State := (s.inc FEL_FCDROP).setB FEL_STAT b true

/-- The probe of a patrol that superframe `j` carries: one every 4 superframes, 16 in all (R208). -/
def ProbeRun.due (p : ProbeRun) (j : Nat) : Option Nat := if p.j0 ≤ j ∧ (j - p.j0) % 4 = 0 ∧ (j - p.j0) / 4 < 16 then some ((j - p.j0) / 4) else none

/-- The requests accepted for the SF block of superframe `j`. -/
def LinkSt.forSf (k : LinkSt) (j : Nat) : List FastCmd := k.fcs.filter (fun (c : FastCmd) => c.k / 33 == j + 1)

/-- Superframe `j` carries a probe of the patrol. -/
def LinkSt.probeAt (x : LinkSt) (j : Nat) : Bool := (x.probe.bind (fun p => p.due j)).isSome

/-- A fast-command request from a source accepted now on a link; true where it is dropped for want of a slot. The patrol's probe is for TICK 0, so its
request comes no later than any other of its superframe. Of one cycle the trigger engine has its slot before the patrol, and the patrol before FEL.FCMD
(R197, R198). -/
def State.fastCmd (s : State) (l code arg src : Nat) : State × Bool :=
  let k := s.felNow + 68 + s.f (FEL_EQ l) 5 0
  let c : FastCmd := { k := k, code := code, arg := arg, r := s.felNow, src := src }
  let mine := (s.link l).forSf (k / 33 - 1)
  let took : State := s.linkUpd l (fun x => { x with fcs := x.fcs ++ [c] })
  if mine.length + b2n ((s.link l).probeAt (k / 33 - 1)) < 3 then (took, false)
  else match mine.reverse.find? (fun (o : FastCmd) => o.r == c.r && decide (src < o.src)) with
    | some o => ((s.linkUpd l (fun x => { x with fcs := x.fcs.erase o ++ [c] })).fcDrop 29, false)
    | none => if mine.length < 3 ∧ src = 0 ∧ k % 33 = 0 then (took, false) else (s.fcDrop 29, true)

/-- FCMD: a write of FEL.FCMD (R196). -/
def State.writeFcmd (s : State) (v : Word) : State :=
  let code := fld v 20 16
  let arg := fld v 14 8
  if !bit v 31 then s
  else if 11 ≤ code ∧ code ≤ 15 then s.fcDrop 28
  else if bit v 30 then s.upLinks.foldl (fun st l => (st.fastCmd l code arg 2).1) s
  else if s.linkUp (fld v 29 24) then (s.fastCmd (fld v 29 24) code arg 2).1
  else s.fcDrop 28

/-- The UP link with the largest DDOWN + EXEC, the lowest of equal ones. -/
def State.eqTop (s : State) : Option Nat :=
  let d (l : Nat) : Int := (s.csrRaw (FEL_DDOWN l)).toInt + s.felExec l
  s.upLinks.foldl (fun (b : Option Nat) l => match b with | some x => if d x < d l then some l else b | none => some l) none

/-- FEL.EQ of every link by R199: the ticks that bring its t_act, which holds T_tx, closest to that of the UP link with the largest DDOWN + EXEC. -/
def State.equalise (s : State) : State :=
  let d (l : Nat) : Int := ((s.felTx l 0 : Nat) : Int) + (s.csrRaw (FEL_DDOWN l)).toInt + s.felExec l
  (List.range 64).foldl (fun st l =>
    let n := match s.eqTop with
      | some x => if s.b FEL_CTL 31 then min 63 ((2 * (d x - d l) + (felTick : Nat) - 1) / (2 * (felTick : Nat))).toNat else 0
      | none => 0
    st.setCsr (FEL_EQ l) (BitVec.ofNat 32 n)) s

/-- FEL.CTL. -/
def State.writeFelCtl (s : State) (v : Word) : State := (s.writeReg FEL_CTL v).equalise

/-! Link states (R206, R207). -/

/-- A link enters a state of Table FEL-6: in DOWN, LOCK and FAULT it keeps neither requests nor a patrol, and DOWN has no block lock. -/
def State.setLstate (s : State) (l st : Nat) : State :=
  (s.setF (FEL_LSTAT l) 31 29 st).linkUpd l (fun k =>
    let x : LinkSt := { k with since := s.up }
    let y : LinkSt := if st = 0 ∨ st = 1 ∨ st = 7 then { x with fcs := [], bc := [], probe := none } else x
    if st = 0 then { y with locked := false, hdrN := 0, hdrBad := 0, down := [], line := [] } else y)

/-- The slow-control transaction ends with a result (R201). -/
def State.scEnd (s : State) (t : ScTx) (stat data flags : Nat) : State :=
  let s1 := (s.result FEL_SCRES FEL_SCFLG (t.link * 2 ^ 18 + stat % 16 * 2 ^ 14) (flags + b2n t.wr)).setCsr FEL_SCRDATA (BitVec.ofNat 32 data)
  { s1.setB FEL_STAT 31 false with fel := { (s1.setB FEL_STAT 31 false).fel with sc := none } }

/-- A patrol of a link begins: its probes go out with TICK 0, the first in the first superframe a request may take (R197, R208). -/
def State.probeStart (s : State) (l : Nat) : State :=
  s.linkUpd l (fun k => { k with probe := some { since := s.up, j0 := (s.felNow + 100 + s.f (FEL_EQ l) 5 0) / 33 - 1, sent := [], meas := none, echoes := [] } })

/-- The patrol of a link is over: the next link of this second begins, in ascending order (R208). -/
def State.patrolNext (s : State) (l : Nat) : State :=
  match s.fel.patrolQ with
  | [] => s
  | x :: rest =>
    if x ≠ l then { s with fel := { s.fel with patrolQ := s.fel.patrolQ.filter (· != l) } }
    else
      let s1 : State := { s with fel := { s.fel with patrolQ := rest } }
      match rest with | y :: _ => s1.probeStart y | [] => s1

/-- A link leaves UP: its block closes, its patrol gives way to the next link's and its transaction ends with TIMEOUT (R202, R208, R217). -/
def State.leaveUp (s : State) (l : Nat) : State :=
  let s2 := ((s.closeBlock l).linkUpd l (fun k => { k with probe := none })).patrolNext l
  match s2.fel.sc with
  | some t => if t.link = l then s2.scEnd t 0 0 4 else s2
  | none => s2

/-- A frame of the link is discarded (R204). -/
def State.frDrop (s : State) (l : Nat) : State := s.incF (FEL_ERR l) 15 8

/-- FAULT is entered: FCAUSE, TRIES and the alarms (Table FEL-6). -/
def State.linkFault (s : State) (l cause : Nat) : State :=
  let s1 := ((s.setLstate l 7).setF (FEL_LSTAT l) 28 26 cause).incF (FEL_LSTAT l) 15 8
  let s2 := s1.linkAlarm 2 l (FEL_LSTAT l) 29
  cond (s.f FEL_CTL 23 16 != 0 && decide (s.f FEL_CTL 23 16 ≤ s1.f (FEL_LSTAT l) 15 8)) (·.linkAlarm 1 l (FEL_LSTAT l) 8) s2

/-- The link bits of FEL.LINKEN. -/
def State.linkEn (s : State) (l : Nat) : Bool := (s.pair FEL_LINKEN_LO).testBit l

/-- A link goes by its enable bit after FEL.LINKEN is written. -/
def State.linkApply (s : State) (l : Nat) : State :=
  let st := s.lstate l
  if !s.linkEn l then
    if st = 0 then s else (cond (st == 6) (·.leaveUp l) s).setLstate l 0 |>.setF (FEL_LSTAT l) 15 8 0 |>.setF (FEL_LSTAT l) 28 26 0
  else if st = 0 then s.setLstate l 1
  else if st = 7 ∧ s.f FEL_CTL 23 16 ≠ 0 ∧ s.f FEL_CTL 23 16 ≤ s.f (FEL_LSTAT l) 15 8 then (s.setLstate l 1).setF (FEL_LSTAT l) 15 8 0
  else s

/-- LINKEN_WRITE: the HI half applies the pair and the links follow (R12, R206). -/
def State.writeLinken (s : State) (who : Nat) (v : Word) : State :=
  (List.range 64).foldl (fun st l => st.linkApply l) (s.writePair who FEL_LINKEN_HI v)

/-- One sync header: lock after 64 valid ones in a row, loss after 16 invalid ones within a window of 64 (R193; IEEE 802.3 Clause 49 counts windows
of 64 one after the other). -/
def LinkSt.header (k : LinkSt) (h : Nat) : LinkSt :=
  let ok := h == 1 || h == 2
  if k.locked then
    let bad := k.hdrBad + b2n (!ok)
    if 16 ≤ bad then { k with locked := false, hdrN := 0, hdrBad := 0 }
    else if k.hdrN = 63 then { k with hdrN := 0, hdrBad := 0 }
    else { k with hdrN := k.hdrN + 1, hdrBad := bad }
  else if !ok then { k with hdrN := 0 }
  else if k.hdrN = 63 then { k with locked := true, hdrN := 0, hdrBad := 0 }
  else { k with hdrN := k.hdrN + 1 }

/-- FE_BLOCK_LOCK: sync headers arrive, and a link in LOCK that has block lock moves on. -/
def State.feLock (s : State) (l : Nat) (hs : List Nat) : State :=
  let s1 := cond (s.lstate l != 0) (·.linkUpd l (fun k => hs.foldl LinkSt.header k)) s
  if s1.lstate l = 1 ∧ (s1.link l).locked then (s1.setLstate l 2).linkUpd l (fun k => { k with seen0 := 0, seen1 := 0 }) else s1

/-- A link in UP loses block lock and goes to LOCK, with a hit frame open or not (R207). -/
def State.linkLost (s : State) (l : Nat) (isOpen : Bool) : State :=
  let s1 := (cond isOpen (·.frDrop l) (s.leaveUp l)).setLstate l 1
  (s1.setB (FEL_LSTAT l) 25 true).linkAlarm 2 l (FEL_LSTAT l) 25

/-- Sync headers arrive; in UP the loss of block lock moves the link to LOCK, with a hit frame open or not (R193, R207). True where it is lost. -/
def State.feHeaders (s : State) (l : Nat) (isOpen : Bool) (hs : List Nat) : Bool × State :=
  let s0 := cond (s.lstate l != 0) (·.linkUpd l (fun k => hs.foldl LinkSt.header k)) s
  if !s.linkUp l || !(s.link l).locked || (s0.link l).locked then (false, s0)
  else (true, s0.linkLost l isOpen)

/-- FE_LOCK_LOSS. -/
def State.feLoss (s : State) (l : Nat) (isOpen : Bool) (hs : List Nat) : State := (s.feHeaders l isOpen hs).2

/-- The suppression table of a link lies aligned and wholly in on-chip SRAM (R212). -/
def State.zsTableOk (s : State) (l nch : Nat) : Bool :=
  let b := (s.csrRaw (FEL_ZSBASE l)).toNat
  b % 8 == 0 && inSram b (24 * nch)

/-- The hit ring of a link has a size and lies wholly in DRAM (R217). -/
def State.hitRingOk (s : State) (l : Nat) : Bool :=
  let n := (s.csrRaw (FEL_HBUFSIZE l)).toNat
  n != 0 && inDram (s.pair (FEL_HBUF_LO l)) (n * 0x100000)

/-- IDENT: the front-end's constants are loaded and the checks run (Table FEL-6). -/
def State.linkIdent (s : State) (l : Nat) : State :=
  let k := s.link l
  let nch := nfld k.page1 59 48 + 1
  let s1 := (s.setLstate l 3).setPair (FEL_FEID_LO l) (nfld k.page0 63 16)
  let s2 := (s1.setCsr (FEL_FEDLY l) (BitVec.ofNat 32 (nfld k.page1 31 16 * 2 ^ 16 + nfld k.page1 47 32))).setCsr (FEL_NCH l) (BitVec.ofNat 32 nch)
  let tabOk := s2.zsTableOk l nch
  let s3 := cond (!tabOk) (·.setB FEL_STAT 27 true) s2
  if (s.b (FEL_LCFG l) 30 && nfld k.page0 47 32 != s.f (FEL_LCFG l) 15 0) || !tabOk || !s3.hitRingOk l then s3.linkFault l 3
  else (s3.setLstate l 4).probeStart l

/-- FE_HELLO: a HELLO block with its payload in ALIGN. -/
def State.feHello (s : State) (l payload : Nat) : State :=
  if s.lstate l ≠ 2 then s
  else
    let s1 := if nfld payload 15 8 = 0 then s.linkUpd l (fun k => { k with seen0 := k.seen0 + 1, page0 := payload })
      else if nfld payload 15 8 = 1 then s.linkUpd l (fun k => { k with seen1 := k.seen1 + 1, page1 := payload }) else s
    if 2 ≤ (s1.link l).seen0 ∧ 2 ≤ (s1.link l).seen1 then s1.linkIdent l else s1

/-- The timeout of a bring-up state in ps and its FCAUSE. -/
def feTimeout : Nat → Option (Nat × Nat)
  | 1 => some (20 * ms, 1)
  | 2 => some (10 * ms, 2)
  | 4 => some (ms, 4)
  | 5 => some (2 * us, 0)
  | _ => none

/-- FE_STATE_TIMEOUT. -/
def State.feTimeouts (s : State) (l : Nat) : State :=
  match feTimeout (s.lstate l) with
  | some (t, c) => if (s.link l).since + t ≤ s.up then s.linkFault l c else s
  | none => s

/-- FE_RETRY: from FAULT to LOCK after FEL.CTL.RETRY, within MAXTRY. -/
def State.feRetry (s : State) (l : Nat) : State :=
  let m := s.f FEL_CTL 23 16
  if s.lstate l = 7 ∧ (s.link l).since + (max 1 (s.f FEL_CTL 7 0)) * ms ≤ s.up ∧ (m = 0 ∨ s.f (FEL_LSTAT l) 15 8 < m) then s.setLstate l 1 else s

/-! Superframes (R194, R195, R206, R208). -/

/-- The SF block of superframe `j` on a link: what SYNC sends, else the requests that are due and a patrol's probe. -/
def State.sfLink (s : State) (j l : Nat) : State :=
  let st := s.lstate l
  if st = 0 then s
  else if st = 5 then
    let n := (s.link l).syncs
    let code := if n = 0 then 1 else if n = 1 then 5 else 10
    let s1 := s.linkUpd l (fun k => { k with sf := [(code, 0, 0)], sfc := j % 4, syncs := n + 1, bc := if n = 0 then k.bc ++ [33 * (j + 1)] else k.bc })
    if n < 2 then s1 else (s1.setLstate l 6).setF (FEL_LSTAT l) 15 8 0
  else
    let gone := (s.link l).fcs.filter (fun (c : FastCmd) => decide (c.k / 33 ≤ j + 1))
    let due := sortBy (fun (a b : FastCmd) => decide (4 * a.r + a.src ≤ 4 * b.r + b.src)) ((s.link l).forSf j)
    let first := due.filter (fun (c : FastCmd) => c.src == 0 && c.k == 33 * (j + 1))
    let slot (c : FastCmd) : Nat × Nat × Nat := (c.code, c.k % 33, c.arg)
    let probe := (s.link l).probe.bind (fun p => p.due j)
    let room := decide (due.length < 3)
    let tag := match probe with | some n => if room then [(6, 0, n)] else [] | none => []
    let s1 := s.linkUpd l (fun k => { k with
      fcs := k.fcs.filter (fun (c : FastCmd) => !decide (c.k / 33 ≤ j + 1)),
      bc := k.bc ++ (gone.filter (fun (c : FastCmd) => c.code == 1)).map (fun (c : FastCmd) => c.k),
      sf := first.map slot ++ tag ++ (due.filter (fun (c : FastCmd) => !first.contains c)).map slot, sfc := j % 4 })
    match (s1.link l).probe, probe with
    | some p, some n =>
      if !room then s1.fcDrop 29
      else
        let at_ := s.felTx l (33 * j)
        let r := s1.tdcStart (s.f FEL_PATROL 26 24) 3 at_
        r.2.linkUpd l (fun k => { k with probe := some { p with sent := p.sent ++ [n], meas := if r.1 then some (n, at_) else p.meas } })
    | _, _ => s1

/-- The SF block of Table FEL-2. -/
def LinkSt.sfBlock (k : LinkSt) : Nat :=
  let slot (i : Nat) : Nat := match k.sf[i]? with | some c => c.1 % 32 + c.2.1 % 64 * 2 ^ 5 + c.2.2 % 128 * 2 ^ 11 | none => 0
  0x78 + k.sfc * 2 ^ 8 + slot 0 * 2 ^ 10 + slot 1 * 2 ^ 28 + slot 2 * 2 ^ 46

/-- The SCREQ block of a transaction and its data block, with the CRC-16 over bytes 1 to 5 and 0 to 5 (R194, R200). -/
def ScTx.blocks (t : ScTx) : List (Nat × Nat) :=
  let q := 0x33 + t.tid * 2 ^ 8 + b2n t.wr * 2 ^ 16 + t.chip * 2 ^ 24 + t.reg * 2 ^ 32
  let d := if t.wr then t.data else 0
  [(2, q), (1, d + crc16 ((bytesOf 6 q).drop 1 ++ bytesOf 6 d) * 2 ^ 48)]

/-- A payload through the self-synchronous scrambler x^58 + x^39 + 1, bit 0 first: the scrambler's bits after it and the line payload (R193). -/
def scramble (scr payload : Nat) : Nat × Nat :=
  (List.range 64).foldl (fun (r : Nat × Nat) i =>
    let b := b2n (payload.testBit i != (r.1.testBit 38 != r.1.testBit 57))
    ((2 * r.1 + b) % 2 ^ 58, r.2 + b * 2 ^ i)) (scr, 0)

/-- The 16 blocks of a superframe leave a link that is not DOWN: SF, a slow-control request at positions 1 and 2 where there is one, and IDLE
(R194, R200). -/
def State.sfSend (s : State) (l : Nat) : State :=
  if s.lstate l = 0 then s
  else
    let req := match s.fel.sc with | some t => if t.link = l ∧ !t.sent ∧ s.linkUp l then t.blocks else [] | none => []
    s.linkUpd l (fun k =>
      let bs := (2, k.sfBlock) :: req ++ List.replicate (15 - req.length) (2, 0x1E)
      let r := bs.foldl (fun (r : Nat × List Nat) b => let x := scramble r.1 b.2; (x.1, r.2 ++ [x.2])) (k.scr, [])
      { k with down := bs, scr := r.1, line := r.2 })

/-- FE_SUPERFRAME: superframe `⌊tick / 33⌋` begins on every link, and at most one slow-control request follows. -/
def State.superframe (s : State) : State :=
  let j := s.felNow / 33
  if j < s.fel.sfNext then s
  else
    let s1 := (List.range 64).foldl (fun st l => (st.sfLink j l).sfSend l) s
    { s1 with fel := { s1.fel with sfNext := j + 1, sc := s1.fel.sc.map (fun t => { t with sent := t.sent || s1.linkUp t.link }) } }

/-- BCRESET_ACT: T0 takes the acting instant and EPOCHX starts again; frames keep the old T0 up to FIRST (R211). -/
def State.bcreset (s : State) (l : Nat) : State :=
  match (s.link l).bc with
  | [] => s
  | k :: rest =>
    if s.time < k * felTick then s
    else
      let t := s.felTx l k + s.felExec l
      let s1 := (s.closeBlock l).linkUpd l (fun x =>
        { x with bc := rest, kB := k, t0 := t, epoch := none, syncBad := false,
                 old := if x.old.isSome then x.old else some (x.t0, s.f (FEL_EPOCHX l) 15 0, x.epoch) })
      (s1.setPair (FEL_T0_LO l) (stampOf t)).setCsr (FEL_EPOCHX l) 0

/-! Slow control (R200 to R202). -/

/-- SCCMD: a write of FEL.SCCMD. -/
def State.writeSccmd (s : State) (v : Word) : State :=
  if s.fel.sc.isSome then s.setB FEL_STAT 30 true
  else if !bit v 31 then s
  else
    let t : ScTx := { link := fld v 29 24, wr := bit v 30, chip := fld v 23 16, reg := fld v 15 0, tid := s.fel.tid,
                      data := (s.csrRaw FEL_SCWDATA).toNat, since := s.up, sent := false }
    { s.setB FEL_STAT 31 true with fel := { s.fel with sc := some t, tid := (s.fel.tid + 1) % 256 } }

/-- SCRSP: a response block with its payload. -/
def State.scRsp (s : State) (l payload : Nat) : State :=
  let bad := s.incF (FEL_ERR l) 23 16
  match s.fel.sc with
  | none => bad
  | some t =>
    if t.link ≠ l ∨ nfld payload 15 8 ≠ t.tid ∨ !t.sent then bad
    else if crc8 ((bytesOf 8 payload).drop 1 |>.take 6) = nfld payload 63 56 then s.scEnd t (nfld payload 19 16) (nfld payload 55 24) 0
    else s.scEnd t 0 0 2

/-- SC_TIMEOUT. -/
def State.scTimeout (s : State) : State :=
  match s.fel.sc with
  | some t => if t.since + (max 1 (s.f FEL_CTL 15 8)) * us ≤ s.up then s.scEnd t 0 0 4 else s
  | none => s

/-! The latency patrol (R208, R209). -/

/-- PATROL_START: at the whole fabric second, within its first tick, over the UP links, ascending. -/
def State.patrolStart (s : State) : State :=
  let sec := s.time / psPerSec
  if !s.b FEL_PATROL 31 || sec == s.fel.patrolSec || decide (felTick ≤ s.time % psPerSec) then s
  else
    let ls := s.upLinks
    let s1 : State := { s with fel := { s.fel with patrolQ := ls, patrolSec := sec } }
    match ls with | [] => s1 | l :: _ => s1.probeStart l

/-- ECHO: an ECHO with its ARG, whose first bit the TDC unit of the patrol sees at the fine count `n`, ends the measurement that the SF block of a
probe began (R208, R278). -/
def State.echo (s : State) (l arg n : Nat) : State :=
  let u := s.f FEL_PATROL 26 24
  match (s.link l).probe with
  | none => s
  | some p =>
    match p.meas with
    | none => s
    | some (m, z) =>
      if (s.tdc u).start != some ((z * 4096 : Nat) : Int) || (s.tdc u).dead then s
      else
        let s1 := (s.tdcEdge u 3 true n).1
        s1.linkUpd l (fun k => { k with probe := some { p with meas := none, echoes := p.echoes ++ [(m, arg, s1.tdcLast u)] } })

/-- The round trips of the valid probes of a patrol: the right ARG, within 2 µs, and within 1 ns of their median. -/
def ProbeRun.valid (p : ProbeRun) : List Int :=
  let raw : List Int := p.echoes.filterMap (fun (e : Nat × Nat × Int) =>
    if e.2.1 = e.1 ∧ e.2.2 ≤ ((2 * us : Nat) : Int) then some (e.2.2 - (66 * felTick : Nat)) else none)
  let m := twiceMedian raw
  raw.filter (fun (r : Int) => decide ((2 * r - m).natAbs ≤ 2000))

/-- The patrol of a link is evaluated; the first since reset has none before it to differ from (notes/assumptions/22.md). -/
def State.patrolEval (s : State) (l : Nat) (p : ProbeRun) : State :=
  let v := p.valid
  let s0 := s.linkUpd l (fun k => { k with probe := none })
  if v.length < 8 then
    (((s0.setB (FEL_RTTFLG l) 1 true).linkUpd l (fun k => { k with jump := true })).linkAlarm 2 l (FEL_RTTFLG l) 1).equalise
  else
    let rtt := ratRound (((v.foldl (· + ·) 0 : Int) : Rat) / (v.length : Nat))
    let dd : Int := ratRound (((rtt - s.felTurn l : Int) : Rat) / 2) + (s.csrRaw (FEL_ASYM l)).toInt
    let new := BitVec.ofInt 32 dd
    let jump := s.csrRaw (FEL_RTT l) != 0 && decide (s.f FEL_PATROL 15 0 < (dd - (s.csrRaw (FEL_DDOWN l)).toInt).natAbs)
    let s1 := s0.result (FEL_RTT l) (FEL_RTTFLG l) (ofSigned 24 rtt) (if jump then 4 else 0)
    let s2 := (cond (new != s.csrRaw (FEL_DDOWN l)) (·.closeBlock l) s1).setCsr (FEL_DDOWN l) new
    let s3 := s2.linkUpd l (fun k => { k with jump := jump })
    let s4 := (cond jump (·.linkAlarm 2 l (FEL_RTTFLG l) 2) s3).equalise
    let k := s4.felNow + 68 + s4.f (FEL_EQ l) 5 0
    if s.lstate l = 4 then (s4.setLstate l 5).linkUpd l (fun x => { x with syncs := 0 })
    else cond (s.b FEL_CTL 30) (fun st => (st.fastCmd l 2 ((k - (st.link l).kB) % 128) 1).1) s4

/-- PATROL_DONE: 64 superframes after its start a link's patrol is evaluated, and the next link's begins. -/
def State.patrolDone (s : State) (l : Nat) : State :=
  match (s.link l).probe with
  | none => s
  | some p =>
    if s.up < p.since + 64 * 33 * felTick then s
    else
      (s.patrolEval l p).patrolNext l

/-- FE_STATUS_BLOCK: the block is received; the spec gives its counts no register, so the link keeps it. -/
def State.feStatus (s : State) (l payload : Nat) : State := s.linkUpd l (fun k => { k with status := payload })

/-- INGRESS_FIFO_DRAINED: RELEASE is requested at 4,096 blocks (R205). -/
def State.fifoDrained (s : State) (l : Nat) : State :=
  if (s.link l).throttled then ((s.linkUpd l (fun k => { k with fill := 4096, throttled := false })).fastCmd l 8 0 1).1
  else s.linkUpd l (fun k => { k with fill := min k.fill 4096 })

end Sys2Proof.Machine
end

