-- ==== Sys2Proof/Machine/Read.lean ====
section
/-! DEFINITION. Event building: the reading of hit blocks into the open windows and the stragglers of closed ones (R242, R243, R245). -/

namespace Sys2Proof.Machine

open Csr

/-- EVB consumes Ql. -/
def State.evbLink (s : State) (l : Nat) : Bool := s.b EVB_CTL 31 && (s.pair EVB_LINKEN_LO).testBit l

/-- The hits of a block as its record stands in memory (Table FEL-8). -/
def State.parseHits (s : State) (l i : Nat) : HitRead :=
  let e := s.qEntry l i
  let w0 := s.word64 e.addr
  let w2 := s.word64 (e.addr + 16)
  let n := nfld (s.word64 (e.addr + 24)) 63 32
  let base : Int := ((nfld (s.word64 (e.addr + 32)) 63 32 * psPerSec + w2 % 2 ^ 40 : Nat) : Int)
  { l := l, qseq := i, posted := (stampTime s.time e.stamp : Nat), flags := nfld w0 51 40,
    hits := (s.words64 (e.addr + 40) (min n 65530)).map (fun w =>
      { t := base + toSigned 29 (nfld w 63 35), late := w.testBit 34, keep := nfld w 33 32, chan := nfld w 31 20, q := nfld w 19 0 }) }

/-- The window [T − WPRE, T + WPOST) of an open or closed fragment window. -/
def State.winSpan (s : State) (w : EvbWin) : Int × Int :=
  (w.t - ((s.csrRaw (EVB_CLS_WPRE w.c)).toNat * 1000 : Nat), w.t + ((s.csrRaw (EVB_CLS_WPOST w.c)).toNat * 1000 : Nat))

/-- A stamp lies in a window. -/
def State.inWin (s : State) (w : EvbWin) (t : Int) : Bool := decide ((s.winSpan w).1 ≤ t) && decide (t < (s.winSpan w).2)

/-- EVB.CTL.SMEM in ps. -/
def State.smem (s : State) : Nat := max 1 (s.f EVB_CTL 15 0) * us

/-- A hit posted at `p` comes too late for the straggler of a closed window: posted, full, or the window older than SMEM (R245). -/
def State.stragOver (s : State) (p : Int) (w : EvbWin) : Bool :=
  w.posted || decide (4096 ≤ w.late.length) || (match w.closed with | some z => decide (((z + s.smem : Nat) : Int) ≤ p) | none => false)

/-- EVB reads a hit: it goes into every open window that holds its stamp and into the straggler of every closed one, or is an orphan there. -/
def State.readHit (s : State) (b : HitRead) (h : HitEntry) : State :=
  let lost (w : EvbWin) : Bool := w.closed.isSome && s.inWin w h.t && s.stragOver b.posted w
  let n := s.evb.wins.countP lost
  let put (w : EvbWin) : EvbWin :=
    if !s.inWin w h.t then w
    else if w.closed.isNone then { w with hits := w.hits ++ [(b.l, b.qseq, b.flags, h)] }
    else if s.stragOver b.posted w then w
    else { w with late := w.late ++ [(b.l, b.flags, h)] }
  let s1 := cond (decide (0 < n)) (·.inc EVB_ORPHAN n) s
  { s1 with evb := { s1.evb with wins := s1.evb.wins.map put } }

/-- The hits of blocks that a take has removed are not EVB's: no open window holds them (R242). -/
def EvbWin.without (w : EvbWin) (gone : List HitRead) : EvbWin :=
  if w.closed.isSome then w
  else { w with hits := w.hits.filter (fun (x : Nat × Nat × Nat × HitEntry) => !gone.any (fun (b : HitRead) => b.l == x.1 && b.qseq == x.2.1)) }

/-- EVB reads the blocks posted to a link's queue since it last looked; removed ones count in EVB.STOLEN. -/
def State.evbSyncLink (s : State) (l : Nat) : State :=
  if !s.evbLink l then s
  else
    let head := s.qHead l
    let tail := s.qTail l
    let rd := (spGet s.evb.rd l).getD head
    let skipped := (head + 2 ^ 32 - rd) % 2 ^ 32
    let skip := if skipped < 2 ^ 31 then skipped else 0
    let gone := s.evb.blocks.filter (fun (b : HitRead) => b.l == l && s.qPassed l b.qseq)
    let s1 := cond (decide (0 < skip + gone.length)) (·.inc EVB_STOLEN (skip + gone.length)) s
    let first := if skip = 0 then rd else head
    let n := (tail + 2 ^ 32 - first) % 2 ^ 32
    let new := (List.range (min n (s.qDepth l))).map (fun i => s.parseHits l ((first + i) % 2 ^ 32))
    let s2 : State := { s1 with evb := { s1.evb with
      rd := spPut s1.evb.rd l (some tail), wins := s1.evb.wins.map (fun w => w.without gone),
      blocks := s1.evb.blocks.filter (fun (b : HitRead) => !(b.l == l && s.qPassed l b.qseq)) ++ new } }
    new.foldl (fun st b => b.hits.foldl (fun z h => z.readHit b h) st) s2

/-- EVB reads every link. -/
def State.evbSync (s : State) : State := (List.range 64).foldl (fun st l => st.evbSyncLink l) s

/-- EVB begins or ends: it reads each enabled queue from its HEAD, or forgets what it read (R242). -/
def State.evbEnable (s : State) : State :=
  if s.b EVB_CTL 31 then
    ({ s with evb := { s.evb with rd := ((List.range 64).filter s.evbLink).map (fun l => (l, s.qHead l)), blocks := [] } } : State).evbSync
  else { s with evb := { s.evb with rd := [], blocks := [] } }

/-- A hit queue restarts empty: its blocks are gone, and EVB reads it from 0. -/
def State.evbRestart (s : State) (l : Nat) : State :=
  { s with evb := { s.evb with rd := spPut s.evb.rd l (if s.evbLink l then some 0 else none), blocks := s.evb.blocks.filter (fun (b : HitRead) => b.l != l) } }

/-- EVB opens a fragment window for a trigger, with the hits it has read and not let go, or counts a drop at 4,096 (R243). -/
def State.evbOpen (s0 : State) (c : Nat) (t : Int) (num epoch : Nat) (keyed : Bool) : State :=
  let s := s0.evbSync
  if !s.b EVB_CTL 31 || !s.b (EVB_CLS_CFG c) 31 then s
  else if 4096 ≤ s.evb.wins.countP (fun (w : EvbWin) => w.closed.isNone) then s.inc EVB_DROP
  else
    let w : EvbWin := { c := c, t := t, num := num, epoch := epoch, keyed := keyed, segWait := s.b (EVB_CLS_CFG c) 30, subs := [],
                        flags := 0, hits := [], closed := none, evseq := 2 ^ 32 - 1, late := [], posted := false }
    let held := s.evb.blocks.flatMap (fun (b : HitRead) => (b.hits.filter (fun (h : HitEntry) => s.inWin w h.t)).map (fun h => (b.l, b.qseq, b.flags, h)))
    { s with evb := { s.evb with wins := s.evb.wins ++ [{ w with hits := held }] } }

end Sys2Proof.Machine
end

