-- ==== Sys2Proof/Machine/Trg.lean ====
section
/-! DEFINITION. The trigger engine: conditions, hit primitives, direct inputs, classes, segments and TRIG_OUT (R219 to R241). -/

namespace Sys2Proof.Machine

open Csr

/-- TRG.STAT.RUN. -/
def State.trgRun (s : State) : Bool := s.b TRG_STAT 29

/-- Fabric time as an integer. -/
def State.timeZ (s : State) : Int := (s.time : Nat)

/-- The full seconds of an instant, 32 bits. -/
def fullSec (t : Int) : Nat := (t.toNat / psPerSec) % 2 ^ 32

/-! TRIG_OUT (R240). -/

/-- MODE, SRC and WIDTH of an output. -/
def State.outMode (s : State) (i : Nat) : Nat := s.f (TRG_OUT i) 31 30
def State.outSrc (s : State) (i : Nat) : Nat := s.f (TRG_OUT i) 28 24
def State.outWidth (s : State) (i : Nat) : Nat := max 1 (s.f (TRG_OUT i) 7 0) * tick

/-- An event of an output's source at `t`: its edge falls at a tick. -/
def State.outEvent (s : State) (src : Nat) (t : Int) : State :=
  (List.range 4).foldl (fun st i =>
    if (st.outMode i == 1 || st.outMode i == 2) && st.outSrc i == src then
      let at_ := nextTick (max (t + ((s.csrRaw (TRG_OUTDLY i)).toNat * 1000 : Nat)) (s.timeZ + 100000)).toNat
      { st with trg := { st.trg with edges := st.trg.edges ++ [(i, at_, false)] } }
    else st) s

/-- An edge of an output in MODE 1 or 2 at `t`: a pulse begins or is extended, or the latch sets. -/
def State.outFire (s : State) (i t : Nat) (mode1 : Bool) : State :=
  if mode1 then
    let s1 := cond ((vget s.trg.pulse i none).isSome) (·.inc TRG_OUTMERGE) s
    { s1 with trg := { s1.trg with pulse := vmod s1.trg.pulse i (fun p => some (max (p.getD 0) (t + s.outWidth i))) } }
  else { s with trg := { s.trg with outs := vmod s.trg.outs i (fun _ => true) } }

/-- TRIG_OUT_EDGE: the edge of output `i` that falls due first. -/
def State.outEdge (s : State) (i : Nat) : State :=
  match s.trg.edges.find? (fun (e : Nat × Nat × Bool) => e.1 == i && decide (e.2.1 ≤ s.time)) with
  | none => s
  | some e =>
    let s1 : State := { s with trg := { s.trg with edges := s.trg.edges.erase e } }
    if e.2.2 || s1.outMode i == 1 then s1.outFire i e.2.1 true else if s1.outMode i = 2 then s1.outFire i e.2.1 false else s1

/-- TRIG_OUT_PULSE_END. -/
def State.outPulseEnd (s : State) (i : Nat) : State :=
  match vget s.trg.pulse i none with
  | some t => if t ≤ s.time then { s with trg := { s.trg with pulse := vmod s.trg.pulse i (fun _ => none) } } else s
  | none => s

/-- OUTCLR: latches clear and soft pulses fire, at once where this instant is a TIME tick, else at the next. -/
def State.writeOutclr (s : State) (v : Word) : State :=
  (List.range 4).foldl (fun st i =>
    let st1 : State := if bit v i then { st with trg := { st.trg with outs := vmod st.trg.outs i (fun _ => false) } } else st
    if !bit v (4 + i) then st1
    else if nextTick s.time = s.time then st1.outFire i s.time true
    else { st1 with trg := { st1.trg with edges := st1.trg.edges ++ [(i, nextTick s.time, true)] } }) s

/-- The level of the TRIG_OUT pin: MODE 0 holds the output low. -/
def State.outPin (s : State) (i : Nat) : Bool :=
  let pulse := (vget s.trg.pulse i none).isSome
  let l := match s.outMode i with | 1 => pulse | 2 => pulse || vget s.trg.outs i false | 3 => pulse || s.trgRun | _ => false
  s.mode != .hold && s.mode != .startup && !s.pwr.held && (l != s.b (TRG_OUT i) 29)

/-! Condition events (R221, R222, R226). -/

/-- TRG.CLS[c].HOLD in ps. -/
def State.clsHold (s : State) (c : Nat) : Nat := (s.csrRaw (TRG_CLS_HOLD c)).toNat * us

/-- CMASK, TREF of a term and VMASK of a class. -/
def State.cmask (s : State) (c m : Nat) : Nat := s.f (TRG_CLS_TERM c m) 31 16
def State.tref (s : State) (c m : Nat) : Nat := s.f (TRG_CLS_TERM c m) 4 0
def State.vmask (s : State) (c : Nat) : Nat := s.f (TRG_CLS_VETO c) 31 16

/-- A class is enabled. -/
def State.clsEn (s : State) (c : Nat) : Bool := s.b (TRG_CLS_CFG c) 31

/-- A class uses a condition in a term or its veto. -/
def State.clsUses (s : State) (c k : Nat) : Bool := (s.vmask c).testBit k || (List.range 4).any (fun m => (s.cmask c m).testBit k)

/-- A condition event reaches the engine. -/
def State.condEvent (s : State) (k idx chan : Nat) (t : Int) (coarse : Bool) : State :=
  let late := (List.range 4).countP (fun c => s.clsEn c && s.clsUses c k && decide (t + s.clsHold c < s.timeZ))
  let s1 := (s.inc (TRG_COND_FIRES k)).inc TRG_LATE late
  let e : CondEvent := { k := k, idx := idx, t := t, chan := chan, coarse := coarse, seen := s.timeZ }
  ({ s1 with trg := { s1.trg with events := s1.trg.events ++ [e] } }).outEvent (16 + k) t

/-- A LEVEL condition becomes active, or ends. -/
def State.spanOpen (s : State) (k key : Nat) (t : Int) : State :=
  { s with trg := { s.trg with spans := s.trg.spans ++ [{ k := k, key := key, lo := t, hi := none, seen := s.timeZ }] } }
def State.spanClose (s : State) (k key : Nat) (t : Int) : State :=
  { s with trg := { s.trg with spans := s.trg.spans.map (fun (a : ActiveSpan) =>
      if a.k = k ∧ a.key = key ∧ a.hi.isNone then { a with hi := some t } else a) } }

/-- T1 and T2 in ps. -/
def State.condT (s : State) (k : Nat) : Nat × Nat :=
  let u := if s.b (TRG_COND_CFG k) 15 then us else 1000
  ((s.csrRaw (TRG_COND_T1 k)).toNat * u, (s.csrRaw (TRG_COND_T2 k)).toNat * u)

/-- The duration test under TQ (R222). -/
def State.condTest (s : State) (k : Nat) (d : Int) : Bool :=
  let t := s.condT k
  match s.f (TRG_COND_CFG k) 17 16 with
  | 0 => decide ((t.1 : Int) ≤ d) && decide (d ≤ t.2)
  | 1 => decide (d < t.1)
  | 2 => decide ((t.2 : Int) < d)
  | _ => decide (d < t.1) || decide ((t.2 : Int) < d)

/-- TYPE and SRC of a condition. -/
def State.condType (s : State) (k : Nat) : Nat := s.f (TRG_COND_CFG k) 30 28
def State.condSrc (s : State) (k : Nat) : Nat := s.f (TRG_COND_CFG k) 26 24

/-- The state of a condition's channel after arming. -/
def CondChan.fresh (k key : Nat) : CondChan :=
  { k := k, key := key, last := none, belowHi := true, aboveHi := true, belowLo := true, aboveLo := true, upHi := none, upLo := none,
    hiBetween := false, lastHi := none, coarse := false, chan := 0, fired := false }

/-- What a condition keys its states by: the channel, or nothing for the one trace of a primitive or an input (R219). -/
def State.condKey (s : State) (k chan : Nat) : Nat := if s.condSrc k < 2 then chan else 0

/-- The stored channel state. -/
def State.condChan (s : State) (k key : Nat) : CondChan :=
  (s.trg.conds.find? (fun (c : CondChan) => c.k == k && c.key == key)).getD (CondChan.fresh k key)

/-- The channel state replaced. -/
def State.setCondChan (s : State) (c : CondChan) : State :=
  { s with trg := { s.trg with conds := c :: s.trg.conds.filter (fun (x : CondChan) => !(x.k == c.k && x.key == c.key)) } }

/-- The instant at which a TIMEOUT falls: T1 after the later of the last counted crossing of HI and the arm stamp (Table TRG-2). -/
def State.condDeadline (s : State) (c : CondChan) : Int := max (c.lastHi.getD s.trg.armT) s.trg.armT + (s.condT c.k).1

/-- One counted crossing: of HI or LO, upwards or downwards, at `t`. -/
def State.crossing (s : State) (k idx chan : Nat) (coarse hi up : Bool) (t : Int) : State :=
  let key := s.condKey k chan
  let c := s.condChan k key
  let ev (st : State) : State := st.condEvent k idx chan t coarse
  let c1 : CondChan := if hi then { c with lastHi := some t, coarse := coarse, chan := chan, fired := false } else c
  match s.condType k, hi, up with
  | 0, true, true => ev ((s.setCondChan c1).spanOpen k key t)
  | 0, false, false => (s.setCondChan c1).spanClose k key t
  | 1, true, true => s.setCondChan { c1 with upHi := some t }
  | 1, true, false => cond (match c.upHi with | some a => s.condTest k (t - a) | none => false) ev (s.setCondChan { c1 with upHi := none })
  | 2, false, true => s.setCondChan { c1 with upLo := some t, hiBetween := false }
  | 2, true, true => s.setCondChan { c1 with hiBetween := true }
  | 2, false, false => cond (match c.upLo with | some a => !c.hiBetween && s.condTest k (t - a) | none => false) ev (s.setCondChan { c1 with upLo := none })
  | 4, false, true => s.setCondChan { c1 with upLo := some t }
  | 4, false, false => s.setCondChan { c1 with upLo := none }
  | 4, true, true => cond (match c.upLo with | some a => s.condTest k (t - a) | none => false) ev (s.setCondChan c1)
  | _, _, _ => s.setCondChan c1

/-- A sample reaches a condition (R221): its counted crossings, in the order of their times. -/
def State.condSample (s : State) (k idx chan : Nat) (t : Int) (x0 : Rat) (coarse : Bool) : State :=
  if !s.trgRun || !s.b (TRG_COND_CFG k) 31 || (s.condSrc k == 0 && !s.b STR_DCTL 31) then s
  else
    let x := if s.b (TRG_COND_CFG k) 27 then -x0 else x0
    let key := s.condKey k chan
    let c := s.condChan k key
    let deadline := s.condDeadline c
    let expire (st : State) : State :=
      if s.condType k = 3 ∧ s.condSrc k < 2 ∧ !c.fired ∧ deadline ≤ t then
        (st.condEvent k idx chan deadline c.coarse).setCondChan { st.condChan k key with fired := true }
      else st
    match c.last with
    | none => expire (s.setCondChan { c with last := some (t, x) })
    | some (t0, y) =>
      let lh : Rat := (s.csrRaw (TRG_COND_LEVHI k)).toInt
      let ll : Rat := (s.csrRaw (TRG_COND_LEVLO k)).toInt
      let hy : Rat := ((s.csrRaw (TRG_COND_HYST k)).toNat : Nat)
      let tx (l : Rat) : Int := if s.condSrc k < 2 then t0 + ratRound ((l - y) * (t - t0 : Int) / (x - y)) else t
      let upH := decide (y < lh) && decide (lh ≤ x) && c.belowHi
      let dnH := decide (lh ≤ y) && decide (x < lh) && c.aboveHi
      let upL := decide (y < ll) && decide (ll ≤ x) && c.belowLo
      let dnL := decide (ll ≤ y) && decide (x < ll) && c.aboveLo
      let c1 := { c with last := some (t, x),
                         belowHi := (c.belowHi && !upH) || decide (x < lh - hy), aboveHi := (c.aboveHi && !dnH) || decide (lh + hy ≤ x),
                         belowLo := (c.belowLo && !upL) || decide (x < ll - hy), aboveLo := (c.aboveLo && !dnL) || decide (ll + hy ≤ x) }
      let s1 := cond upL (·.crossing k idx chan coarse false true (tx ll)) (s.setCondChan c1)
      let s2 := cond upH (·.crossing k idx chan coarse true true (tx lh)) s1
      let s3 := cond dnH (·.crossing k idx chan coarse true false (tx lh)) s2
      let s4 := cond dnL (·.crossing k idx chan coarse false false (tx ll)) s3
      if upH || dnH then s4 else expire s4

/-- COND_SAMPLE: the oldest sample on its way to a DAS condition reaches it (R221). -/
def State.condDas (s : State) (k : Nat) : State :=
  match s.trg.das.find? (fun (d : DasSample) => d.k == k) with
  | none => s
  | some d =>
    let s1 : State := { s with trg := { s.trg with das := s.trg.das.erase d } }
    if s.condSrc k = 0 then s1.condSample k d.idx d.chan d.t d.x false else s1

/-- TRG.CTL.HPHOLD in ps. -/
def State.hpHold (s : State) : Nat := clampN 1 1000 (s.f TRG_CTL 9 0) * us

/-- COND_TIMEOUT: a TIMEOUT condition on a hit primitive or a direct input passes its deadline (R222). Its event names the input, or the channel
that last changed M, 0 where none has (DESIGN CHOICE, notes/assumptions/68.md). -/
def State.condTimeout (s : State) (k : Nat) : State :=
  if !s.trgRun || !s.b (TRG_COND_CFG k) 31 || s.condType k != 3 || decide (s.condSrc k < 2) then s
  else
    let c := s.condChan k 0
    let d := s.condDeadline c
    let now := s.timeZ - (if s.condSrc k = 2 then (s.hpHold : Int) else 0)
    if c.fired ∨ now < d then s else (s.condEvent k 0 (if s.condSrc k = 3 then chanId s.dev 78 (s.f (TRG_COND_CFG k) 23 20) else c.chan) d c.coarse).setCondChan { c with fired := true }

/-- A change of a trace with one channel reaches every condition that watches it. -/
def State.condFeed (s : State) (src sel chan : Nat) (t x : Int) (coarse : Bool) : State :=
  (List.range 16).foldl (fun st k =>
    cond (st.condSrc k == src && st.f (TRG_COND_CFG k) 23 20 == sel) (·.condSample k 0 chan t (x : Rat) coarse) st) s

/-! Hit primitives (R223). -/

/-- WIN of a primitive in ps. -/
def State.hpWin (s : State) (h : Nat) : Nat := max 1 (s.f (TRG_HP_WIN h) 15 0) * 1000

/-- The enabled entries of an active map that name the channel of a hit. -/
def State.mapEntriesOf (s : State) (m : Nat) (h : Hit) : List Nat :=
  match spGet s.str.maps m with
  | none => []
  | some es => (List.range es.length).filter (fun i => (mapEntryChans (nth es i 0)).contains (s.dev, h.link, h.chan))

/-- The primitives that count a hit. -/
def State.hpsOf (s : State) (h : Hit) : List Nat :=
  (List.range 8).filter (fun p =>
    s.b (TRG_HP_CFG p) 31 && decide (s.f (TRG_HP_CFG p) 19 0 ≤ h.q) && !(s.mapEntriesOf (s.f (TRG_HP_CFG p) 27 24) h).isEmpty)

/-- A hit that has arrived waits for every primitive that counts it; one that is late is counted by none, and once in TRG.HPLATE. -/
def State.hpHit (s : State) (h : Hit) : State :=
  let ps := s.hpsOf h
  if ps.isEmpty then s
  else if h.t + s.hpHold < s.timeZ then s.inc TRG_HPLATE
  else { s with trg := { s.trg with hpWait := s.trg.hpWait ++ ps.map (fun p => (p, h)) } }

/-- M of a primitive. -/
def State.hpCount (s : State) (p : Nat) : Nat :=
  let l := s.trg.hpLive.filter (fun (x : Nat × Int × Hit) => x.1 == p)
  if s.b (TRG_HP_CFG p) 30 then (l.map (fun (x : Nat × Int × Hit) => s.mapEntriesOf (s.f (TRG_HP_CFG p) 27 24) x.2.2)).flatten.eraseDups.length
  else l.length

/-- M is shown and, where it changed, reaches the conditions. -/
def State.hpChange (s : State) (p old chan : Nat) (t : Int) : State :=
  let m := s.hpCount p
  let s1 := s.setCsr (TRG_HP_VAL p) (BitVec.ofNat 32 (min 65535 m))
  if m = old then s1 else s1.condFeed 2 p chan t m false

/-- Is a hit before another in the order of R223? -/
def Hit.before (a b : Hit) : Bool :=
  decide (a.t < b.t) || (a.t == b.t && (decide (a.link < b.link) || (a.link == b.link && decide (a.chan < b.chan))))

/-- The first of some hits. -/
def firstHit : List Hit → Option Hit
  | [] => none
  | h :: t => match firstHit t with | none => some h | some g => if g.before h then some g else some h

/-- The hits that wait for a primitive, and the earliest end of a live one. -/
def State.hpNext (s : State) (p : Nat) : Option Hit := firstHit ((s.trg.hpWait.filter (fun (x : Nat × Hit) => x.1 == p)).map (fun (x : Nat × Hit) => x.2))
def State.hpEnd (s : State) (p : Nat) : Option (Nat × Int × Hit) :=
  (s.trg.hpLive.filter (fun (x : Nat × Int × Hit) => x.1 == p)).foldl
    (fun b x => match b with | some (y : Nat × Int × Hit) => if x.2.1 < y.2.1 then some x else b | none => some x) none

/-- HP_HIT_TAKE: a waiting hit is taken once fabric time reaches its stamp plus HPHOLD, unless a live time ends first. -/
def State.hpTake (s : State) (p : Nat) : State :=
  match s.hpNext p with
  | none => s
  | some h =>
    let blocked : Bool := match s.hpEnd p with | some e => decide (e.2.1 ≤ h.t) | none => false
    if s.timeZ < h.t + s.hpHold ∨ blocked then s
    else
      let old := s.hpCount p
      let s1 : State := { s with trg := { s.trg with hpWait := s.trg.hpWait.erase (p, h), hpLive := s.trg.hpLive ++ [(p, h.t + s.hpWin p, h)] } }
      s1.hpChange p old (chanId s.dev h.link h.chan) h.t

/-- HP_HIT_EXPIRE: the first live time that ends, taken in stamp order with the hits. -/
def State.hpExpire (s : State) (p : Nat) : State :=
  match s.hpEnd p with
  | none => s
  | some e =>
    let blocked : Bool := match s.hpNext p with | some h => decide (h.t < e.2.1) | none => false
    if s.timeZ < e.2.1 + s.hpHold ∨ blocked then s
    else
      let old := s.hpCount p
      ({ s with trg := { s.trg with hpLive := s.trg.hpLive.erase e } }).hpChange p old (chanId s.dev e.2.2.link e.2.2.chan) e.2.1

/-! Direct inputs (R224). -/

/-- An edge of TRIG_IN `i` at `t` reaches the rings and the conditions; the direct inputs are PORT 78 (Table GLB-9). A coarse edge shows it in its own
word and sets no common flag (R238). -/
def State.trigEdge (s : State) (i : Nat) (rising coarse : Bool) (t : Int) : State :=
  (s.ringPut 4 78 t 0 (fun m => if m.contains (s.dev, 78, i) then [b2n coarse * 2 ^ 34 + i * 2 ^ 32 + b2n rising * 2 ^ 31] else [])).condFeed
    3 i (chanId s.dev 78 i) t (b2n rising : Nat) coarse

/-- TRIG_IN_EDGE: an edge of TRIG_IN `i` now, with the cycle count of its TDC unit, referred to the pin; without the unit it takes the sampling
tick. Of a pulse so `short` that its falling edge is not seen, the falling edge is taken at the next tick (R224, R275). -/
def State.trigIn (s : State) (i : Nat) (rising short : Bool) (n : Nat) : State :=
  if !s.b (TRG_DIN i) 31 then s
  else
    let u := s.f (TRG_DIN i) 26 24
    let own := s.tdcOwner u == 2 && s.dinOf u == some i
    let r := if own then s.tdcEdge u 2 (!rising) n else (s, false)
    let t : Int := if r.2 then roundDiv (s.tdcStamp u 2 (!rising) n) 4096 else (nextTick s.time : Nat)
    let s1 := r.1.trigEdge i rising (!r.2) t
    cond (rising && short) (·.trigEdge i false true (nextTick s.time + tick : Nat)) s1

/-! Arming (R220, R233). -/


/-- Channel words a map takes of DAS data of the port in force. -/
def State.mapDas (s : State) (m n : Nat) (set : Option (List Nat)) : Nat :=
  (s.mapChans m).countP (fun (c : Nat × Nat × Nat) => c.1 == s.dev && c.2.1 == 64 + s.f LCH_PLAN 25 24 && decide (c.2.2 < n)
    && (match set with | some l => l.contains c.2.2 | none => true))

/-- The bytes per second of a class's ring: DAS frame and stream items, and the declared rate (R233). The period is that of the sequence that runs;
before one runs, the smallest that the plan registers allow (DEDUCED, notes/assumptions/69.md). -/
def State.clsRate (s : State) (c : Nat) : Rat :=
  let p := match s.lch.seq with | some q => q.p | none => s.minPeriod s.plan
  let m := s.f (TRG_CLS_CFG c) 15 12
  let n := chanCount (s.f LCH_RANGE 17 0) (s.f STR_CTL 6 0)
  let bytes (k : Nat) : Nat := if k = 0 then 0 else 8 * (3 + (k + 1) / 2)
  let fr := if s.b (TRG_CLS_CFG c) 19 then bytes (s.mapDas m n none) else 0
  let st := if s.b (TRG_CLS_CFG c) 20 then bytes (s.mapDas m n (some (s.streamSet.map (·.1)))) else 0
  let das : Rat := if p = 0 then 0 else ((fr : Rat) + (st : Rat) / (decROf (s.csrRaw STR_CTL) (s.csrRaw STR_UCFG) : Nat)) * (psPerSec : Nat) / (p : Nat)
  das + (s.f (TRG_CLS_RATE c) 15 0 * 1000000 : Nat)

/-- The conditions an enabled class uses. -/
def State.usedConds (s : State) : List Nat := (List.range 16).filter (fun k => (List.range 4).any (fun c => s.clsEn c && s.clsUses c k))

/-- The conditions that are on: those of enabled classes, and those that drive TRIG_OUT only. -/
def State.onConds (s : State) : List Nat := (List.range 16).filter (fun k => s.b (TRG_COND_CFG k) 31)

/-- ARMWHY 1: a condition of an enabled class is out of range, or names a TRIG_IN that is not there (R18). -/
def State.armBadCond (s : State) : Bool :=
  s.usedConds.any (fun k =>
    let ty := s.condType k
    let src := s.condSrc k
    let tq := s.f (TRG_COND_CFG k) 17 16
    decide (4 < ty) || decide (3 < src) || decide ((s.csrRaw (TRG_COND_LEVHI k)).toInt < (s.csrRaw (TRG_COND_LEVLO k)).toInt)
    || ((tq == 0 || tq == 3) && decide ((s.csrRaw (TRG_COND_T2 k)).toNat < (s.csrRaw (TRG_COND_T1 k)).toNat))
    || (src != 0 && s.f (TRG_COND_CFG k) 19 18 != 0) || (src == 3 && (ty == 2 || ty == 4 || decide (4 ≤ s.f (TRG_COND_CFG k) 23 20))))
  || (List.range 4).any (fun c => s.clsEn c && (List.range 4).any (fun m =>
        s.cmask c m != 0 && s.tref c m != 31 && !(decide (s.tref c m < 16) && (s.cmask c m).testBit (s.tref c m))))

/-- Every channel of a map satisfies a test, and the map is valid. -/
def State.mapFits (s : State) (m : Nat) (ok : Nat × Nat × Nat → Bool) : Bool := s.b STR_MAPVALID m && (s.mapChans m).all ok

/-- A port that some kind of item that a class selects comes from (Tables GLB-9, TRG-6). -/
def clsPort (kinds port : Nat) : Bool :=
  ((kinds.testBit 0 || kinds.testBit 1) && decide (64 ≤ port) && decide (port < 68)) || (kinds.testBit 2 && decide (port < 64))
  || (kinds.testBit 3 && port == 68) || (kinds.testBit 4 && port == 78)

/-- ARMWHY 2: a map in use is not valid or names ports its source cannot supply. -/
def State.armBadMap (s : State) : Bool :=
  s.onConds.any (fun k =>
    let sel := s.f (TRG_COND_CFG k) 23 20
    match s.condSrc k with
    | 0 => !s.mapFits sel (fun c => c.1 == s.dev && decide (64 ≤ c.2.1) && decide (c.2.1 < 68))
    | 1 => !s.mapFits sel (fun c => c.1 == s.dev && c.2.1 == 68)
    | _ => false)
  || (List.range 8).any (fun h => s.b (TRG_HP_CFG h) 31 && !s.mapFits (s.f (TRG_HP_CFG h) 27 24) (fun c => c.1 == s.dev && decide (c.2.1 < 64)))
  || (List.range 4).any (fun c => s.clsEn c && s.f (TRG_CLS_CFG c) 23 19 != 0
       && !s.mapFits (s.f (TRG_CLS_CFG c) 15 12) (fun x => x.1 == s.dev && clsPort (s.f (TRG_CLS_CFG c) 23 19) x.2.1))

/-- ARMWHY 3: a ring is too small for its class. -/
def State.armBadRing (s : State) : Bool :=
  (List.range 4).any (fun c => s.clsEn c &&
    (let size : Rat := ((s.ringSize c : Nat) : Rat)
     let span := if s.b (TRG_CLS_CFG c) 29 then s.clsPre c + s.clsHold c else s.clsPre c + s.clsPost c + s.clsHold c
     decide ((if s.b (TRG_CLS_CFG c) 29 then size / 2 else size) < (span : Nat) * s.clsRate c / (psPerSec : Nat))))

/-- ARMWHY 4: a ring or segment region is empty, misaligned or outside DRAM. -/
def State.armBadRegion (s : State) : Bool :=
  (List.range 4).any (fun c => s.clsEn c && !(s.regionOk (TRG_CLS_RBUF_LO c) (TRG_CLS_RBUFSIZE c) && s.regionOk (TRG_CLS_SBUF_LO c) (TRG_CLS_SBUFSIZE c)))

/-- ARMWHY 5: HOLD or NSEG is out of range. -/
def State.armBadHold (s : State) : Bool :=
  (List.range 4).any (fun c => s.clsEn c && ((s.csrRaw (TRG_CLS_HOLD c)).toNat == 0 || decide (1000000 < (s.csrRaw (TRG_CLS_HOLD c)).toNat)
    || decide (1048576 < s.f (TRG_CLS_NSEG c) 20 0)))

/-- ARMWHY 6: the launch monitor or the patrol names the unit of an enabled input. -/
def State.armBadTdc (s : State) : Bool :=
  (List.range 4).any (fun i => s.b (TRG_DIN i) 31 && (s.f (TRG_DIN i) 26 24 == s.f LCH_MON 26 24 || s.f (TRG_DIN i) 26 24 == s.f FEL_PATROL 26 24))

/-- The first failing check: ARMWHY and status. -/
def State.armCheck (s : State) : Option (Nat × Nat) :=
  if s.trgRun then some (0, 1) else if s.armBadCond then some (1, 2) else if s.armBadMap then some (2, 2) else if s.armBadRing then some (3, 2)
  else if s.armBadRegion then some (4, 2) else if s.armBadHold then some (5, 2) else if s.armBadTdc then some (6, 3) else none

/-- The stream set in force and its port: that of the run while the sequencer runs, else that of the registers (R178). -/
def State.setInForce (s : State) : List Nat × Nat :=
  if !s.running then (s.streamSet.map (·.1), s.f LCH_PLAN 25 24)
  else match s.str.next with
    | some r => (r.set, r.port)
    | none => (s.str.set, s.str.port)

/-- A DAS condition in use names a channel outside the stream set or beyond its first 16,384 channels (R220). -/
def State.armClips (s : State) : Bool :=
  let r := s.setInForce
  s.onConds.any (fun k => s.condSrc k == 0 && (s.mapChans (s.f (TRG_COND_CFG k) 23 20)).any (fun (c : Nat × Nat × Nat) =>
    !(c.1 == s.dev && c.2.1 == 64 + r.2 && (r.1.take 16384).contains c.2.2)))

/-- TRG_ARM: a write of TRG.ARM with GO (R230, R233); the arm stamp is the engine's follower's (R16). -/
def State.trgArm (s : State) : State :=
  match s.armCheck with
  | some (why, st) => ((s.setCsr TRG_ARMRES (BitVec.ofNat 32 st)).setF TRG_STAT 26 24 why).setB TRG_STAT 30 true
  | none =>
    let s1 := cond s.armClips (·.setB TRG_STAT 28 true) s
    let s2 := ((((s1.setCsr TRG_ARMRES 0).setF TRG_STAT 26 24 0).setB TRG_STAT 29 true).setF TRG_STAT 15 12 0).setPair TRG_ARMSTAMP_LO (s.stampAt 6)
    let s3 := (List.range 16).foldl (fun st k => st.setCsr (TRG_COND_FIRES k) 0) (s2.setCsr TRG_TRIGNUM 0)
    let s4 := (List.range 4).foldl (fun st c => st.setCsr (TRG_CLS_SEGS c) 0) s3
    { s4 with trg := { s4.trg with armT := (s.nowAt 6 : Nat), stopT := none, conds := [], das := [], events := [], spans := [], decided := [],
                                   tp := Vector.replicate 4 none, refused := Vector.replicate 4 0, asked := [], segs := [], copied := [], ring := [], cross := [] } }

/-! Candidates (R225 to R228). -/

/-- The events a class may use, in the order of R222. -/
def State.clsEvents (s : State) (c : Nat) : List CondEvent :=
  sortBy (fun (a b : CondEvent) => decide (a.t < b.t) || (a.t == b.t && (decide (a.k < b.k) || (a.k == b.k && decide (a.idx ≤ b.idx)))))
    (s.trg.events.filter (fun (e : CondEvent) => decide (e.seen ≤ e.t + s.clsHold c)))

/-- The active intervals a class may use: those that an event it may use opened (R226). -/
def State.clsSpans (s : State) (c : Nat) : List ActiveSpan := s.trg.spans.filter (fun (a : ActiveSpan) => decide (a.seen ≤ a.lo + s.clsHold c))

/-- A condition has an event in `[lo, hi]`, or is a LEVEL condition active at some instant of it. -/
def State.condIn (s : State) (c k : Nat) (lo hi : Int) : Bool :=
  (s.clsEvents c).any (fun (e : CondEvent) => e.k == k && decide (lo ≤ e.t) && decide (e.t ≤ hi))
  || (s.clsSpans c).any (fun (a : ActiveSpan) => a.k == k && decide (a.lo ≤ hi) && (match a.hi with | some z => decide (lo < z) | none => true))

/-- The latest of some events. -/
def lastEvent (l : List CondEvent) : Option CondEvent :=
  l.foldl (fun b e => match b with | some (x : CondEvent) => if x.t ≤ e.t then some e else b | none => some e) none

/-- The candidate that term `m` of class `c` makes of an event, where it fires. -/
def State.termCand (s : State) (c m : Nat) (e : CondEvent) : Option Cand :=
  let cm := s.cmask c m
  let tw := (s.csrRaw (TRG_CLS_TW c m)).toNat * 1000
  if cm.testBit e.k && (List.range 16).all (fun k => !cm.testBit k || k == e.k || s.condIn c k (e.t - tw) e.t) then
    let r := if s.tref c m = 31 then some e
      else lastEvent ((s.clsEvents c).filter (fun (x : CondEvent) => x.k == s.tref c m && decide (x.t ≤ e.t)))
    r.map (fun (x : CondEvent) => { c := c, t := x.t, term := m, cond := x.k, chan := x.chan, coarse := x.coarse, cid := 0, sent := 0 })
  else none

/-- The undecided candidate of a class that comes first, the lowest term first at one T, and of one term the condition that fired last. -/
def State.nextCand (s : State) (c : Nat) : Option Cand :=
  let all : List Cand := ((List.range 4).map (fun m => (s.clsEvents c).reverse.filterMap (fun (e : CondEvent) => s.termCand c m e))).flatten
  let ok := all.filter (fun (x : Cand) => !s.trg.decided.contains (c, x.t) && (match s.trg.stopT with | some z => decide (x.t ≤ z) | none => true))
  ok.foldl (fun b x => match b with | some (y : Cand) => if x.t < y.t then some x else b | none => some x) none

/-- R227: the veto looks back from T. -/
def State.vetoed (s : State) (c : Nat) (t : Int) : Bool :=
  let vw := (s.csrRaw (TRG_CLS_VW c)).toNat * us
  (List.range 16).any (fun k => (s.vmask c).testBit k &&
    ((s.clsEvents c).any (fun (e : CondEvent) => e.k == k && decide (t - vw ≤ e.t) && decide (e.t ≤ t))
     || (s.clsSpans c).any (fun (a : ActiveSpan) => a.k == k && decide (a.lo ≤ t) &&
          (match a.hi with | some z => decide (t < z) || decide (t - vw ≤ z) | none => true))))

/-- A missed trigger counts, and the first 16 of a second are logged (R228). -/
def State.missed (s : State) (c cause : Nat) (t : Int) : State :=
  let s1 := (s.inc TRG_MISSED).bump 0xA8 1
  let s2 := cond (cause != 2) (·.inc (TRG_CLS_MISSED c)) s1
  let sec := s.time / psPerSec
  let n := if s.trg.missSec = sec then s.trg.missN else 0
  let s3 : State := { s2 with trg := { s2.trg with missSec := sec, missN := n + 1 } }
  cond (decide (n < 16)) (·.log 1 0x0002 [c, cause, stampOf t.toNat]) s3

/-- NSEG in force. -/
def State.clsNseg (s : State) (c : Nat) : Nat := if s.f (TRG_CLS_NSEG c) 20 0 = 0 then 1048576 else s.f (TRG_CLS_NSEG c) 20 0

/-- The earliest stamp of some items. -/
def firstStamp (l : List RingItem) : Option Int :=
  l.foldl (fun (m : Option Int) (i : RingItem) => match m with | some z => some (min z i.t) | none => some i.t) none

/-- The real start of a segment's data, PRELEN, and whether it is short (R234). -/
def State.segStart (s : State) (c : Nat) (t : Int) : Int × Nat × Bool :=
  let lo := t - s.clsPre c
  let a := match firstStamp (s.ringOf c) with | some z => max s.trg.armT z | none => s.trg.armT
  if lo < a then (a, ((t - a).toNat / s.clsUnit c), true) else (lo, (s.csrRaw (TRG_CLS_PRE c)).toNat, false)

/-- A trigger is accepted: TRIGACCEPTs are requested, the segment and the fragment window open, and TRIG_OUT takes the event
(R228 to R231, R240, R243). -/
def State.accept (s : State) (x : Cand) (num epoch : Nat) (fab : Bool) : State :=
  let c := x.c
  let links := (List.range 64).filter (fun l => (s.pair (TRG_CLS_FEMASK_LO c)).testBit l && s.linkUp l)
  let r := links.foldl (fun (a : State × Nat) l => let q := a.1.fastCmd l 4 (num % 128) 0; (q.1, a.2 + b2n q.2)) (s, 0)
  let s1 := (List.range r.2).foldl (fun st _ => st.missed c 2 x.t) r.1
  let n := (s.csrRaw (TRG_CLS_SEGS c)).toNat
  let g : Seg := { c := c, t := x.t, num := num, seg := n, term := x.term, cond := x.cond, chan := x.chan, coarse := x.coarse, femiss := decide (0 < r.2),
                   fab := fab, notBefore := if fab then s.timeZ else x.t, part := 0, upTo := (s.segStart c x.t).1, lost := 0, trunc := false,
                   start := if s.b (TRG_CLS_CFG c) 29 then some (s.segStart c x.t) else none, flags := 0, lostTo := none }
  let s2 := (s1.incMod (TRG_CLS_SEGS c)).bump 0xA7 1
  let s3 := cond (decide (s.clsNseg c ≤ n + 1)) (·.setB TRG_STAT (12 + c) true) s2
  let s4 := cond x.coarse State.momentary { s3 with trg := { s3.trg with segs := s3.trg.segs ++ [g], accAt := some s3.up } }
  ((s4.outEvent c x.t).evbOpen c x.t num epoch fab).hkTrigger c

/-- Local acceptance: re-arm and hold-off, else the next trigger number (R228, R230). -/
def State.decideLocal (s : State) (x : Cand) : State :=
  let c := x.c
  let refuse (cause : Nat) : State :=
    let s1 := s.missed c cause x.t
    { s1 with trg := { s1.trg with refused := vmod s1.trg.refused c (· + 1) } }
  let take : State :=
    let n := (s.csrRaw TRG_TRIGNUM).toNat
    let s1 := (s.incMod TRG_TRIGNUM).accept x n 0 false
    { s1 with trg := { s1.trg with tp := vmod s1.trg.tp c (fun _ => some x.t), refused := vmod s1.trg.refused c (fun _ => 0) } }
  match vget s.trg.tp c none with
  | none => take
  | some p =>
    if x.t < p + 800000 then refuse 0
    else if x.t < p + ((s.csrRaw (TRG_CLS_HOTIME c)).toNat * 1000 : Nat) then refuse 1
    else if (vget s.trg.refused c 0 : Nat) < s.f (TRG_CLS_HOEVT c) 15 0 then refuse 1
    else take

/-- CAND to the decider (R246); without a known holder it goes nowhere and R248 resolves it. -/
def State.askDecider (s : State) (x : Cand) : State :=
  let id := s.trg.cid
  let s1 : State := { s with trg := { s.trg with cid := (id + 1) % 2 ^ 32, asked := s.trg.asked ++ [{ x with cid := id, sent := s.time }] } }
  match s.roleDev 1 with
  | none => s1
  | some d => s1.send d 2 1 [0x01 * 2 ^ 56 + x.c * 2 ^ 54 + x.term * 2 ^ 52 + s.dev * 2 ^ 32 + id, stampOf x.t.toNat, x.chan, 0]

/-! Ends (R237). -/

/-- RUN falls once the stop is decided and every segment published. -/
def State.trgSettle (s : State) : State :=
  match s.trg.stopT with
  | none => s
  | some z =>
    let en := (List.range 4).filter s.clsEn
    if s.trgRun && s.trg.segs.isEmpty && s.trg.asked.isEmpty && (List.range 4).all (fun c => (s.waiting (68 + c)).isEmpty) && en.all (fun c => (s.nextCand c).isNone && decide (z + s.clsHold c ≤ s.timeZ)) then
      let s1 := s.setB TRG_STAT 29 false
      { s1 with trg := { s1.trg with stopT := none } }
    else s

/-- TRG_ARM_STOP: the acquisition ends at this stamp of the engine's follower (R16). -/
def State.trgStop (s : State) : State :=
  if !s.trgRun || s.trg.stopT.isSome then s else ({ s with trg := { s.trg with stopT := some ((s.nowAt 6 : Nat) : Int) } }).trgSettle

/-- TRG.ARM. -/
def State.writeTrgArm (s : State) (v : Word) : State :=
  let s1 := cond (bit v 30) State.trgStop s
  cond (bit v 31) State.trgArm s1

/-- CLASS_DECIDE: the first candidate of a class at T + HOLD (R226 to R231). -/
def State.classDecide (s : State) (c : Nat) : State :=
  match (if s.trgRun && s.clsEn c then s.nextCand c else none) with
  | none => s.trgSettle
  | some x =>
    if s.timeZ < x.t + s.clsHold c then s.trgSettle
    else
      let s1 : State := { s with trg := { s.trg with decided := (c, x.t) :: s.trg.decided } }
      let s2 :=
        if s.vetoed c x.t then s1.inc (TRG_CLS_VETOED c)
        else if s.b TRG_STAT (12 + c) then s1.inc (TRG_CLS_AFTER c)
        else if s.b (TRG_CLS_CFG c) 30 then s1.askDecider x
        else s1.decideLocal x
      s2.trgSettle

/-! Segments (R234 to R239). -/

/-- The sub-blocks of some items in ascending kind and port: one per DAS frame or stream output, else one per port, items in stamp order. -/
def subBlocks (items : List RingItem) : List SubBlock :=
  let keys : List Nat := (sortBy (fun (a b : Nat) => decide (a ≤ b)) (items.map (fun (i : RingItem) => i.kind * 128 + i.port))).eraseDups
  (keys.map (fun k =>
    let l := sortBy (fun (a b : RingItem) => decide (a.t ≤ b.t)) (items.filter (fun (i : RingItem) => i.kind * 128 + i.port == k))
    if k / 128 < 2 then l.map (fun (i : RingItem) => ({ kind := k / 128, port := k % 128, items := [i] } : SubBlock))
    else [{ kind := k / 128, port := k % 128, items := l }])).flatten

/-- The item words of a sub-block: DT from word b for kinds 2 to 4. -/
def SubBlock.body (b : SubBlock) : List Nat :=
  match b.items with
  | [] => []
  | f :: _ => (b.items.map (fun (i : RingItem) => if i.kind < 2 then i.words else i.words.map (fun w => ofSigned 29 (i.t - f.t) * 2 ^ 35 + w))).flatten

/-- A sub-block as words (R239). -/
def SubBlock.words (b : SubBlock) : List Nat :=
  match b.items with
  | [] => []
  | f :: _ => (b.kind * 2 ^ 60 + b.port * 2 ^ 53 + b.body.length) :: stampOf f.t.toNat :: b.body

/-- Sub-blocks cut into parts of at most `cap` words, a sub-block continued under a new head: parts, oldest first. -/
def splitSubs (cap : Nat) (subs : List SubBlock) : List (List SubBlock) :=
  let step (acc : List (List SubBlock) × List SubBlock × Nat × Option Nat) (bi : Nat × SubBlock × RingItem) :
      List (List SubBlock) × List SubBlock × Nat × Option Nat :=
    let same := acc.2.2.2 == some bi.1
    let need := if same then 1 else 3
    if acc.2.2.1 + need ≤ cap then
      if same then (acc.1, acc.2.1.dropLast ++ (acc.2.1.getLast?.toList.map (fun (l : SubBlock) => { l with items := l.items ++ [bi.2.2] })), acc.2.2.1 + need, some bi.1)
      else (acc.1, acc.2.1 ++ [{ bi.2.1 with items := [bi.2.2] }], acc.2.2.1 + need, some bi.1)
    else (acc.1 ++ [acc.2.1], [{ bi.2.1 with items := [bi.2.2] }], 3, some bi.1)
  let words (b : SubBlock) : List RingItem := (b.items.map (fun (i : RingItem) => i.words.map (fun w => { i with words := [w] }))).flatten
  let r := ((subs.mapIdx (fun n (b : SubBlock) => (words b).map (fun i => (n, b, i)))).flatten).foldl step ([], [], 0, none)
  r.1 ++ [r.2.1]

/-- Flags a segment takes from its items. -/
def itemFlags (items : List RingItem) : Nat := items.foldl (fun f (i : RingItem) => f ||| i.flags) 0

/-- The words that items take as sub-blocks. -/
def layoutWords (items : List RingItem) : Nat := (subBlocks items).foldl (fun n b => n + b.words.length) 0

/-- The items of a part: in stamp order, as many as fit in `cap` words, cut where the stamp changes; those of the first stamp at the least. -/
def fitPart (cap : Nat) (items : List RingItem) : List RingItem :=
  let l := sortBy (fun (a b : RingItem) => decide (a.t ≤ b.t)) items
  let cuts := (List.range l.length).filter (fun n => match l[n]?, l[n + 1]? with | some a, some b => decide (a.t < b.t) | _, _ => true)
  match (cuts.filter (fun n => decide (layoutWords (l.take (n + 1)) ≤ cap))).getLast? with
  | some n => l.take (n + 1)
  | none => l.take ((cuts.head?.getD 0) + 1)


/-- The flags of a segment: those of its items, and of the interval and trigger it is of (R238, R347). -/
def State.segFlags (s : State) (g : Seg) (items : List RingItem) : Nat :=
  itemFlags items ||| g.flags ||| s.gapFlag (g.t - s.clsPre g.c) (g.t + s.clsPost g.c) ||| (if g.coarse then 16 else 0)

/-- A part of a segment record (Table TRG-5): `flags` those of the whole window. -/
def State.segRec (s : State) (g : Seg) (flags : Nat) (subs : List SubBlock) (pre post part : Nat) (last streamed short ended trunc : Bool) (lost : Nat) : Rec :=
  let ports := (subs.map (fun (b : SubBlock) => b.port)).eraseDups
  let first := firstStamp (subs.map (fun (b : SubBlock) => b.items)).flatten
  s.mkRec (68 + g.c) 6 0x05 (match ports with | [p] => p | _ => 127)
    ([g.num % 2 ^ 32 * 2 ^ 32 + part % 65536 * 2 ^ 16 + b2n last * 2 ^ 15, fullSecZ g.t * 2 ^ 32 + g.seg % 2 ^ 21,
      pre % 2 ^ 32 * 2 ^ 32 + post % 2 ^ 32, g.cond % 16 * 2 ^ 60 + g.term % 4 * 2 ^ 58 + s.f (TRG_CLS_CFG g.c) 28 27 * 2 ^ 56 + (if g.fab then 0 else g.chan % 2 ^ 34),
      min (2 ^ 32 - 1) lost * 2 ^ 32 + subs.length % 65536 * 2 ^ 16] ++ (subs.map SubBlock.words).flatten)
    (s.pair (TRG_CLS_SBUF_LO g.c)) ((s.csrRaw (TRG_CLS_SBUFSIZE g.c)).toNat * 0x100000) (TRG_CLS_SBUF_LO g.c)
    (flags := flags ||| (if short then 2 else 0) ||| (if trunc then 4 else 0))
    (spec := g.c * 2 ^ 14 + b2n streamed * 2 ^ 13 + b2n g.coarse * 2 ^ 12 + b2n g.femiss * 2 ^ 11 + b2n g.fab * 2 ^ 10 + b2n ended * 2 ^ 9)
    (t := some g.t) (first := first)

/-- Length in units of a span. -/
def State.inUnits (s : State) (c : Nat) (z : Int) : Nat := z.toNat / s.clsUnit c

/-- What a fragment takes of its segment, part by part, reaches the window that waits for it; it waits on until the last part is published (R244). -/
def State.segToEvb (s : State) (g : Seg) (items : List RingItem) (flags : Nat) : State :=
  { s with evb := { s.evb with wins := s.evb.wins.map (fun (w : EvbWin) =>
      if w.segWait && w.c == g.c && w.t == g.t && w.num == g.num then
        { w with subs := subBlocks (w.subs.flatMap (fun (b : SubBlock) => b.items) ++ items.filter (fun (i : RingItem) => i.kind != 2)), flags := w.flags ||| flags }
      else w) } }

/-- The last of the records of a segment that ends tells the window. -/
def segFollow (g : Seg) (ends : Bool) (rs : List Rec) : List Rec :=
  rs.mapIdx (fun i r => if ends && i + 1 == rs.length then { r with follow := .seg g.c g.t g.num } else r)

/-- The first segment of a class that waits. -/
def State.firstSeg (s : State) (c : Nat) (streamed : Bool) : Option Seg :=
  if s.b (TRG_CLS_CFG c) 29 == streamed then s.trg.segs.find? (fun (g : Seg) => g.c == c) else none

/-- The items of a ring in a span. -/
def State.ringSpan (s : State) (c : Nat) (lo hi : Int) : List RingItem := (s.ringOf c).filter (fun (i : RingItem) => decide (lo ≤ i.t) && decide (i.t < hi))

/-- SEGMENT_COPY: the first segment of a class is copied at T + POST + HOLD and its parts are published; one that its region or a queue that drops
has no room for is dropped whole. While class EVT is throttled the copy is late (R235, R320). -/
def State.segCopy (s0 : State) (c : Nat) : State :=
  let s := s0.ringDrain
  match s.firstSeg c false with
  | none => s.trgSettle
  | some g =>
    let e := s.segEnd g
    if s.timeZ < max (e.1 + s.clsHold c) g.notBefore || s.stopped 2 then s.trgSettle
    else
      let st := s.segStart c g.t
      let items := s.ringSpan c st.1 e.1
      let subs := subBlocks items
      let flags := s.segFlags g items
      let parts := splitSubs 65527 subs
      let post := if e.2 then s.inUnits c (e.1 - g.t) else (s.csrRaw (TRG_CLS_POST c)).toNat
      let recs := (parts.mapIdx (fun i p => (i, p))).map (fun (ip : Nat × List SubBlock) =>
        let endOf := match (ip.2.map (fun (b : SubBlock) => b.items)).flatten.getLast? with | some i => s.inUnits c (i.t - g.t) | none => post
        s.segRec g flags ip.2 st.2.1 (if ip.1 + 1 = parts.length then post else endOf) ip.1 (ip.1 + 1 == parts.length) false st.2.2 e.2 false 0)
      let s0 := s.segToEvb g items flags
      let recs := segFollow g true recs
      let s1 := if s0.recsFit (s0.waiting (68 + c) ++ recs) then s0.publishAll (68 + c) recs else recs.foldl State.dropRec s0
      let s2 := s1.bump 0xA9 1
      ({ s2 with trg := { s2.trg with segs := s2.trg.segs.erase g, copied := (c, g.t - s.clsPre c, e.1) :: s2.trg.copied } }).trgSettle

/-- Parts of a streamed segment are posted, the last of them the last of the segment or not; `upTo` is the end of what is posted then. -/
def State.segEmit (s : State) (g : Seg) (items : List RingItem) (recs : List Rec) (n : Nat) (last trunc : Bool) (upTo : Int) (lost : Nat) (flags : Nat) : State :=
  let s1 := (segFollow g last recs).foldl State.publish (s.segToEvb g items flags)
  let g' := { g with part := g.part + n, upTo := upTo, lost := lost, trunc := trunc, flags := flags, lostTo := none }
  let s2 : State := { s1 with trg := { s1.trg with segs := if last then s1.trg.segs.erase g else s1.trg.segs.map (fun (x : Seg) => if x = g then g' else x) } }
  (cond last (·.bump 0xA9 1) s2).trgSettle

/-- SEGMENT_STREAM_PART: the next part of a streamed segment is posted: its unposted data stamped at or before fabric time less HOLD, in stamp order
up to the size of a record. Data of the window that the ring has overwritten are lost (R236). A queue that is not enabled drops its parts (R29). -/
def State.segPart (s0 : State) (c : Nat) : State :=
  let s := s0.ringDrain
  match s.firstSeg c true with
  | none => s.trgSettle
  | some g =>
    let e := s.segEnd g
    let st := g.start.getD (s.segStart c g.t)
    let to_ := min e.1 (s.timeZ - s.clsHold c + 1)
    let gone := g.lostTo.isSome
    let oldest := (firstStamp (s.ringSpan c g.upTo e.1)).getD (min e.1 ((g.lostTo.getD g.upTo) + 1))
    let from_ := if gone then max g.upTo oldest else g.upTo
    let lost := g.lost + (if gone then s.inUnits c (from_ - g.upTo) else 0)
    let items := s.ringSpan c from_ to_
    let done := decide (e.1 + s.clsHold c ≤ s.timeZ)
    let words := layoutWords items
    let now := fitPart 65527 items
    let whole := now.length == items.length
    let last := done && whole
    let upTo := if whole then max from_ to_ else match now.getLast? with | some i => i.t + 1 | none => to_
    let flags := s.segFlags g (s.ringSpan c st.1 e.1)
    let parts := splitSubs 65527 (subBlocks now)
    let recs := (parts.mapIdx (fun i p => (i, p))).map (fun (ip : Nat × List SubBlock) =>
      s.segRec g flags ip.2 st.2.1 (if last && !e.2 then (s.csrRaw (TRG_CLS_POST c)).toNat else s.inUnits c (upTo - g.t)) (g.part + ip.1)
        (last && ip.1 + 1 == parts.length) true st.2.2 e.2 (g.trunc || gone) lost)
    let room := !s.qEn (68 + c) || (decide (s.qFill (68 + c) + recs.length ≤ s.qDepth (68 + c)) && s.recsFit recs)
    if (!done && decide (words < 65528) && decide (8 * words < s.ringSize c / 4)) || !room || s.stopped 2 then s.trgSettle
    else s.segEmit g now recs parts.length last (g.trunc || gone) upTo lost flags

/-- TRG.CTL: HPHOLD outside 1 to 1,000 sets CFGERR where the write is accepted (Tables TRG-7, TRG-8). -/
def State.writeTrgCtl (s : State) (v : Word) : State :=
  cond (!s.trgRun && (fld v 9 0 == 0 || decide (1000 < fld v 9 0))) (·.setB TRG_STAT 31 true) (s.writeReg TRG_CTL v)

/-- A register of the window: a size above 16,384 MiB sets CFGERR where the write is accepted (Tables TRG-7, TRG-8). -/
def State.writeTrgSize (s : State) (a : Nat) (v : Word) : State :=
  cond (!s.trgRun && decide (16384 < v.toNat)) (·.setB TRG_STAT 31 true) (s.writeReg a v)

end Sys2Proof.Machine
end

