-- ==== Sys2Proof/Machine/Evb.lean ====
section
/-! DEFINITION. Event building: fragments, stragglers, the trigger decider, builders and back-pressure (R242 to R259). -/

namespace Sys2Proof.Machine

open Csr

/-- The map of R247: bit `d` of the 128 bytes at an address stands for DEV `d`. -/
def State.devSet (s : State) (a : Nat) : List Nat := (List.range 1024).filter (fun d => (s.byte (a + d / 8)).toNat.testBit (d % 8))

/-- The builder role a trigger goes to (R250). -/
def State.bldRole (s : State) (keyed : Bool) (num : Nat) : Nat := if keyed then num % (s.f EVB_CTL 29 28 + 1) else 0

/-- This module holds a role. -/
def State.holds (s : State) (r : Nat) : Bool := match s.flt.roles[r]? with | some x => x.held | none => false

/-- EVB_HEAD_ADVANCE: the oldest block of a link is let go once its keep time has passed (R242). -/
def State.evbAdvance (s0 : State) (l : Nat) : State :=
  let s := s0.evbSyncLink l
  if !s.evbLink l then s
  else
    match s.evb.blocks.find? (fun (b : HitRead) => b.l == l) with
    | none => s
    | some b =>
      let last := b.hits.foldl (fun m (h : HitEntry) => max m h.t) 0
      let pre := ((List.range 4).map (fun c => (s.csrRaw (EVB_CLS_WPRE c)).toNat)).foldl max 0
      if s.timeZ ≤ last + (pre * 1000 + max 1 (s.f EVB_CTL 23 16) * us : Nat) then s
      else
        let s1 := s.dequeue l
        { s1 with evb := { s1.evb with blocks := s1.evb.blocks.erase b } }

/-! The builder (R250 to R254). -/

/-- Fields of a fragment record: device, class, KEYED, RESENT, EPOCH, TRIGNUM, PART, LAST, FSEQ and T. -/
def fragDev (w : List Nat) : Nat := nfld (nth w 0 0) 23 14
def fragType (w : List Nat) : Nat := nfld (nth w 0 0) 63 56
def fragClass (w : List Nat) : Nat := nfld (nth w 1 0) 15 14
def fragKeyed (w : List Nat) : Bool := (nth w 1 0).testBit 13
def fragResent (w : List Nat) : Bool := (nth w 1 0).testBit 12
def fragNum (w : List Nat) : Nat := nfld (nth w 3 0) 63 32
def fragEpoch (w : List Nat) : Nat := nfld (nth w 3 0) 31 16
def fragPart (w : List Nat) : Nat := nfld (nth w 3 0) 15 8
def fragLast (w : List Nat) : Bool := (nth w 3 0).testBit 7
def fragSeq (w : List Nat) : Nat := nfld (nth w 4 0) 31 0
def fragT (w : List Nat) : Int := ((nfld (nth w 4 0) 63 32 * psPerSec + nth w 2 0 % 2 ^ 40 : Nat) : Int)

/-- The 4 KiB credit units of some records. -/
def fragUnits (ws : List (List Nat)) : Nat := ((ws.map (fun w => 8 * w.length)).foldl (· + ·) 0 + 4095) / 4096

/-- CREDITs are owed under a new number. -/
def State.owe (s : State) (l : List OwedCredit) : State × Nat :=
  ({ s with evb := { s.evb with owedId := s.evb.owedId + 1, owed := s.evb.owed ++ l.map (fun (x : OwedCredit) => { x with id := s.evb.owedId }) } }, s.evb.owedId)

/-- Records of one item are published whole, or not one of them where their region or a queue that drops has no room for all. -/
def State.publishWhole (s : State) (q key : Nat) (rs : List Rec) : State :=
  if s.recsFit ((s.que.stalled ++ s.que.cross).filter (fun x => x.key == key && x.bare.isNone) ++ rs) then s.publishAll q rs else rs.foldl State.dropRec s

/-- A record of the builder region for a role. -/
def State.bldRec (s : State) (q ty : Nat) (words : List Nat) (spec : Nat) (t : Int) (follow : Follow) : Rec :=
  { s.mkRec q 6 ty 127 words (s.pair EVB_BLDBUF_LO) ((s.csrRaw EVB_BLDBUFSIZE).toNat * 0x100000) EVB_BLDBUF_LO (spec := spec) (t := some t) with follow := follow }

/-- The events closed and published by a role since it was taken. -/
def State.bldCount (s : State) (role : Nat) : Nat := vget s.evb.bcount role 0

/-- What a builder has posted of a fragment in stragglers: its units are owed with the last part (R251). -/
def State.stragOwed (s : State) (role : Nat) (w : List Nat) : State × List OwedCredit :=
  let mine (x : Nat × Nat × Nat × Nat) : Bool := x.1 == role && x.2.1 == fragDev w && x.2.2.1 == fragSeq w
  let n := ((s.evb.strag.filter mine).map (fun (x : Nat × Nat × Nat × Nat) => x.2.2.2)).foldl (· + ·) w.length
  let rest := s.evb.strag.filter (fun (x : Nat × Nat × Nat × Nat) => !mine x)
  if fragLast w then ({ s with evb := { s.evb with strag := rest } }, [{ id := 0, role := role, dev := fragDev w, units := (8 * n + 4095) / 4096, fseq := fragSeq w }])
  else ({ s with evb := { s.evb with strag := (role, fragDev w, fragSeq w, n) :: rest } }, [])

/-- A fragment record in a builder straggler on Q74, naming the closed event it belongs to if any (R250, R253, Table EVB-4); its CREDIT follows.
In MODE 1 without an event the event count is the present one (DESIGN CHOICE, notes/assumptions/70.md). -/
def State.stragglerOf (s : State) (role : Nat) (w : List Nat) (ev : Option ClosedEvent) : State :=
  let mode1 := s.b EVB_BLDCFG 31
  let num := if mode1 then (match ev with | some e => e.count | none => s.bldCount role) else fragNum w
  let t := match ev with | some e => e.t | none => fragT w
  let seq := match ev with | some e => e.seq | none => 2 ^ 32 - 1
  let x := s.stragOwed role w
  let y := x.1.owe x.2
  let parts := chunks ((w.length + 65528) / 65529) 65529 w
  y.1.publishWhole 74 EVB_BLDBUF_LO (parts.mapIdx (fun i p =>
    let last := i + 1 == parts.length
    y.1.bldRec 74 0x0E ([num % 2 ^ 32 * 2 ^ 32 + (if mode1 then 0 else fragEpoch w % 65536) * 2 ^ 16 + i % 256 * 2 ^ 8 + b2n last * 2 ^ 7,
      fullSecZ t * 2 ^ 32 + seq % 2 ^ 32, 0] ++ p) (2 ^ 15) t (.builder role (if last then some y.2 else none))))

/-- The FSEQ quoted for a local straggler, which has none (R253). -/
def noFseq : Nat := 2 ^ 32 - 1

/-- A straggler that is posted on Q74 unchanged, its words apart. -/
def State.wholeRec (s : State) (follow : Follow) : Rec :=
  { s.bldRec 74 0x0E [] 0 0 follow with bare := some { status := 0, type := 0x0E, addr := 0, length := 0, qseq := 0, stamp := 0, tag := 0 } }

/-- Where `n` bytes of it lie in the region of Q74; none where the queue takes nothing. -/
def State.wholePlace (s : State) (r : Rec) (n : Nat) : Option Nat :=
  if r.regionOk && s.qEn 74 && !(s.qFull 74 && s.qPol 74 == 1) then s.place r.key r.size n else none

/-- The words of it are written at `o` in the region, and its entry published. -/
def State.wholePut (s : State) (r : Rec) (w : List Nat) (o : Nat) : State :=
  ((s.putWords (r.base + o) w).claimWait r.key o (8 * w.length) 74).publishEntry 74 6
    { status := 0, type := 0x0E, addr := r.base + o, length := 8 * w.length, qseq := 0, stamp := 0, tag := 0 } r.follow

/-- A local straggler that has come from its module is posted on Q74 unchanged (R253). -/
def State.postWhole (s : State) (w : List Nat) (follow : Follow) : State :=
  (s.wholePlace (s.wholeRec follow) (8 * w.length)).elim (s.dropRec (s.wholeRec follow)) (s.wholePut (s.wholeRec follow) w)

/-- The devices of an event that have delivered their LAST part. -/
def OpenEvent.done (e : OpenEvent) : List Nat := ((e.frags.filter (fun (f : Nat × List Nat) => fragLast f.2)).map (fun (f : Nat × List Nat) => f.1)).eraseDups

/-- Every expected device has delivered. -/
def OpenEvent.complete (e : OpenEvent) : Bool := match e.expect with | some l => l.all (fun d => e.done.contains d) | none => false

/-- The records of an event in directory order. -/
def OpenEvent.sorted (e : OpenEvent) : List (Nat × List Nat) :=
  sortBy (fun (a b : Nat × List Nat) => decide (a.1 < b.1) || (a.1 == b.1 && decide (fragPart a.2 ≤ fragPart b.2))) e.frags

/-- The items that the sub-blocks of a fragment's payload hold, in order; `near` is an instant near their stamps (R239). -/
def subItems (near : Nat) : Nat → List Nat → List SubBlock
  | 0, _ => []
  | n + 1, ws =>
    match ws with
    | a :: b :: rest =>
      let kind := nfld a 63 60
      let t : Int := (stampTime near b : Nat)
      let its := (rest.take (nfld a 31 0)).map (fun w =>
        if kind < 2 then ({ kind := kind, port := nfld a 59 53, t := t, words := [w], flags := 0 } : RingItem)
        else { kind := kind, port := nfld a 59 53, t := t + toSigned 29 (w / 2 ^ 35), words := [w % 2 ^ 35], flags := 0 })
      { kind := kind, port := nfld a 59 53, items := its } :: subItems near n (rest.drop (nfld a 31 0))
    | _ => []

/-- A part of a fragment record with other payload words: PART one or more higher, LAST as given, LEN, NHIT and NSUB its own (Table EVB-1). -/
def fragPiece (w : List Nat) (i : Nat) (last : Bool) (nhit nsub : Nat) (body : List Nat) : List Nat :=
  (w.take 8).mapIdx (fun k x =>
    if k = 0 then nset x 39 24 (8 + body.length)
    else if k = 3 then nset (nset x 15 8 ((fragPart w + i) % 256)) 7 7 (b2n (last && fragLast w))
    else if k = 7 then nhit % 2 ^ 32 * 2 ^ 32 + nsub % 65536 * 2 ^ 16 else x) ++ body

/-- A fragment record as the parts it takes where it is longer than `cap` words: what does not fit goes on as its next fragment part, its sub-blocks
under repeated heads, a container's words as they are (R239, R252). -/
def fragCut (cap : Nat) (w : List Nat) : List (List Nat) :=
  if w.length ≤ cap then [w]
  else if (nth w 0 0).testBit 45 then
    let ps := chunks ((w.length - 8 + cap - 9) / (cap - 8)) (cap - 8) (w.drop 8)
    ps.mapIdx (fun i p => fragPiece w i (i + 1 == ps.length) (nfld (nth w 7 0) 63 32) (nfld (nth w 7 0) 31 16) p)
  else
    let ps := splitSubs (cap - 8) (subItems (fragT w).toNat w.length (w.drop 8))
    ps.mapIdx (fun i p =>
      let nh := ((p.filter (fun (b : SubBlock) => b.kind == 2)).map (fun (b : SubBlock) => b.items.length)).foldl (· + ·) 0
      fragPiece w i (i + 1 == ps.length) nh p.length (p.map SubBlock.words).flatten)

/-- Records in parts of at most `cap` words each, those after a cut one counted on as fragment parts. -/
def cutRecs (cap : Nat) (l : List (Nat × List Nat)) : List (Nat × List Nat) :=
  let step (a : List (Nat × List Nat) × List (Nat × Nat)) (f : Nat × List Nat) : List (Nat × List Nat) × List (Nat × Nat) :=
    let more := (spGet a.2 f.1).getD 0
    let ps := fragCut cap (if more = 0 then f.2 else f.2.mapIdx (fun k x => if k = 3 then nset x 15 8 ((nfld x 15 8 + more) % 256) else x))
    (a.1 ++ ps.map (fun w => (f.1, w)), spPut a.2 f.1 (some (more + ps.length - 1)))
  (l.foldl step ([], [])).1

/-- Records packed into parts of at most `cap` words; one longer than that is continued in the next part. -/
def packRecs (cap : Nat) (l : List (Nat × List Nat)) : List (List (Nat × List Nat)) :=
  let r := (cutRecs cap l).foldl (fun (a : List (List (Nat × List Nat)) × List (Nat × List Nat) × Nat) f =>
    let n := f.2.length
    if a.2.2 + n ≤ cap ∨ a.2.1.isEmpty then (a.1, a.2.1 ++ [f], a.2.2 + n) else (a.1 ++ [a.2.1], [f], n)) ([], [], 0)
  r.1 ++ [r.2.1]

/-- The words of a part of a built event from word 6: a directory word for each device present, with its class, and for each missing one, then the
fragment records of this part (Table EVB-3). -/
def dirWords (present : List (Nat × Nat)) (missing : List Nat) (fs : List (Nat × List Nat)) : List Nat :=
  let words (d : Nat) : Nat := ((fs.filter (fun (f : Nat × List Nat) => f.1 == d)).map (fun (f : Nat × List Nat) => f.2.length)).foldl (· + ·) 0
  let dir := present.foldl (fun (a : List Nat × Nat) x =>
    (a.1 ++ [x.1 * 2 ^ 54 + x.2 * 2 ^ 52 + (if words x.1 = 0 then 0 else a.2 % 65536 * 2 ^ 16 + words x.1 % 65536)], a.2 + words x.1))
    ([], 6 + present.length + missing.length)
  dir.1 ++ missing.map (fun d => d * 2 ^ 54) ++ (fs.map (fun (f : Nat × List Nat) => f.2)).flatten

/-- The units that return with an event, for each device that has delivered whole. -/
def OpenEvent.owed (e : OpenEvent) : List OwedCredit :=
  e.done.map (fun d =>
    let mine := (e.frags.filter (fun (f : Nat × List Nat) => f.1 == d)).map (fun (f : Nat × List Nat) => f.2)
    { id := 0, role := e.role, dev := d, units := fragUnits mine, fseq := fragSeq (nth mine 0 []) })

/-- The records of a built event (Table EVB-3). -/
def State.eventRecs (s : State) (e : OpenEvent) (id : Nat) : List Rec :=
  let exp := e.expect.getD []
  let fs := e.sorted
  let got := (fs.map (fun (f : Nat × List Nat) => f.1)).eraseDups
  let present := got.map (fun d => (d, match fs.find? (fun (f : Nat × List Nat) => f.1 == d) with | some f => fragClass f.2 | none => 0))
  let absent := sortBy (fun (a b : Nat) => decide (a ≤ b)) (exp.filter (fun d => !got.contains d))
  let missing := exp.any (fun d => !e.done.contains d) || e.expect.isNone
  let num := if e.keyed then e.num else s.bldCount e.role
  let parts := packRecs (65529 - present.length - absent.length) fs
  let spec := b2n missing * 2 ^ 15 + b2n (fs.any (fun (f : Nat × List Nat) => fragResent f.2)) * 2 ^ 14 + b2n e.keyed * 2 ^ 13 + e.role * 2 ^ 11
  parts.mapIdx (fun i p =>
    let last := i + 1 == parts.length
    s.bldRec 73 0x07 ([num % 2 ^ 32 * 2 ^ 32 + (if e.keyed then e.epoch else 0) % 65536 * 2 ^ 16 + i % 256 * 2 ^ 8 + b2n last * 2 ^ 7,
      fullSecZ e.t * 2 ^ 32 + exp.length % 65536 * 2 ^ 16 + e.done.length % 65536, 0] ++ dirWords present absent p) spec e.t
      (.builder e.role (if last then some id else none)))

/-- BLDOPEN follows the open events. -/
def State.bldOpen (s : State) : State := s.setCsr EVB_BLDOPEN (BitVec.ofNat 32 s.evb.opens.length)

/-- An event closes: the built event is published on Q73, with which its credit returns (R251, R252). -/
def State.closeEvent (s : State) (e : OpenEvent) : State :=
  let missing := (e.expect.getD []).any (fun d => !e.done.contains d) || e.expect.isNone
  let c : ClosedEvent := { keyed := e.keyed, epoch := e.epoch, num := e.num, t := e.t, seq := s.seriesNext 73 0x07 127, count := s.bldCount e.role }
  let x := s.owe e.owed
  let s1 := cond missing (·.inc EVB_BLDMISS) (x.1.publishWhole 73 EVB_BLDBUF_LO (s.eventRecs e x.2))
  let part := (e.frags.filter (fun (f : Nat × List Nat) => !e.done.contains f.1)).map (fun (f : Nat × List Nat) => (e.role, f.1, fragSeq f.2, f.2.length))
  ({ s1 with evb := { s1.evb with
    opens := s1.evb.opens.erase e, bcount := vmod s1.evb.bcount e.role (· + 1), closed := (c :: s1.evb.closed).take 65536, strag := s1.evb.strag ++ part } } : State).bldOpen

/-- The oldest open event. -/
def State.oldestEvent (s : State) : Option OpenEvent :=
  s.evb.opens.foldl (fun b e => match b with | some (x : OpenEvent) => if e.t < x.t then some e else b | none => some e) none

/-- A new event opens; the oldest closes first where 16,384 are open (R253). -/
def State.openEvent (s : State) (e : OpenEvent) : State :=
  let s1 := if 16384 ≤ s.evb.opens.length then (match s.oldestEvent with | some o => s.closeEvent o | none => s) else s
  ({ s1 with evb := { s1.evb with opens := s1.evb.opens ++ [e] } } : State).bldOpen

/-- An open event changed, and closed where it is complete. -/
def State.touchEvent (s : State) (e e' : OpenEvent) : State :=
  let s1 : State := { s with evb := { s.evb with opens := s.evb.opens.map (fun (x : OpenEvent) => if x = e then e' else x) } }
  if e'.complete then s1.closeEvent e' else s1

/-- An event opens, and closes at once where it is complete. -/
def State.startEvent (s : State) (e : OpenEvent) : State := if e.complete then (s.openEvent e).closeEvent e else s.openEvent e

/-- BLDBTMO and BLDTW. -/
def State.bldTmo (s : State) : Nat := clampN 1 1000000 (s.csrRaw EVB_BLDBTMO).toNat * us
def State.bldTw (s : State) : Nat := (s.csrRaw EVB_BLDTW).toNat * 1000

/-- The held role that a local straggler belongs to: that of its trigger, or the first held. -/
def State.stragRole (s : State) (w : List Nat) : Option Nat :=
  let b := if s.b EVB_BLDCFG 31 then 0 else s.bldRole true (fragNum w)
  if s.holds (2 + b) then some b else (List.range 4).find? (fun b => s.holds (2 + b))

/-- The remembered event that a fragment record belongs to: by key in MODE 0; in MODE 1, for a later part, by T (R253). -/
def State.closedFor (s : State) (w : List Nat) : Option ClosedEvent :=
  s.evb.closed.find? (fun (c : ClosedEvent) =>
    if fragKeyed w then c.keyed && c.epoch == fragEpoch w && c.num == fragNum w
    else !c.keyed && decide (0 < fragPart w) && decide (c.t ≤ fragT w) && decide (fragT w < c.t + (s.bldTw : Nat)))

/-- A fragment record joins an open event: by key in MODE 0; in MODE 1 by T, unless its device already stands in it with another fragment (R252). -/
def State.joins (s : State) (role : Nat) (w : List Nat) (e : OpenEvent) : Bool :=
  e.role == role && e.keyed == fragKeyed w &&
    (if fragKeyed w then e.epoch == fragEpoch w && e.num == fragNum w
     else decide (e.t ≤ fragT w) && decide (fragT w < e.t + (s.bldTw : Nat))
          && e.frags.all (fun (f : Nat × List Nat) => f.1 != fragDev w || fragSeq f.2 == fragSeq w))

/-- A fragment record of the kind that the builder merges (R252, R253). -/
def State.merge (s : State) (role : Nat) (w : List Nat) : State :=
  match s.evb.opens.find? (s.joins role w) with
  | some e => s.touchEvent e { e with frags := e.frags ++ [(fragDev w, w)] }
  | none =>
    match s.closedFor w with
    | some c => s.stragglerOf role w (some c)
    | none =>
      if 0 < fragPart w then s.stragglerOf role w none
      else s.startEvent { role := role, keyed := fragKeyed w, epoch := fragEpoch w, num := fragNum w, t := fragT w,
                          expect := if fragKeyed w then none else some (s.devSet (s.pair EVB_BLDEXP_LO)), frags := [(fragDev w, w)] }

/-- FRAGMENT_RECEIVE: a record of a fragment or a local straggler reaches this module's builder (R250 to R253). -/
def State.fragReceive (s : State) (w : List Nat) : State :=
  if fragType w = 0x0E then
    match s.stragRole w with
    | none => s
    | some b =>
      let x := s.owe [{ id := 0, role := b, dev := fragDev w, units := fragUnits [w], fseq := noFseq }]
      x.1.postWhole w (.builder b (some x.2))
  else
    let role := s.bldRole (fragKeyed w) (fragNum w)
    if !s.holds (2 + role) then s
    else if fragKeyed w == s.b EVB_BLDCFG 31 then s.stragglerOf role w none
    else s.merge role w

/-- BUILD: the decider fixes the expected set of an event (R252). -/
def State.build (s : State) (epoch num stamp : Nat) (devs : List Nat) : State :=
  let role := s.bldRole true num
  let t : Int := (stampTime s.time stamp : Nat)
  if !s.holds (2 + role) || s.b EVB_BLDCFG 31 then s
  else
    match s.evb.opens.find? (fun (e : OpenEvent) => e.keyed && e.epoch == epoch && e.num == num) with
    | some e => s.touchEvent e { e with expect := some devs, t := t }
    | none =>
      if s.evb.closed.any (fun (c : ClosedEvent) => c.keyed && c.epoch == epoch && c.num == num) then s
      else s.startEvent { role := role, keyed := true, epoch := epoch, num := num, t := t, expect := some devs, frags := [] }

/-- EVENT_CLOSE_TIMEOUT: the open event that is due first closes incomplete, once the cycle of its timeout is over: a part that arrives in that cycle
is included (R252). -/
def State.eventTimeout (s : State) : State :=
  match s.oldestEvent with
  | some e => if (e.t + s.bldTmo) / (s.islPeriod 6 : Nat) < s.timeZ / (s.islPeriod 6 : Nat) then s.closeEvent e else s
  | none => s

/-! Fragments (R243, R244, R250, R257). -/

/-- Every part of a fragment is published and, under ZIP, has its container. -/
def State.fragReady (s : State) (f : Frag) : Bool := f.left == 0 && !s.evb.zip.any (fun (z : ZipPart) => z.id == f.id)

/-- Acknowledged fragments at the front are let go, their entries on Q72 with them. -/
def State.fragFree (s : State) : State :=
  let done := s.evb.frags.takeWhile (fun (f : Frag) => f.acked)
  let n := (done.flatMap (fun (f : Frag) => f.parts.filter (fun (p : FragPart) => p.q == 72 && !s.qPassed 72 p.qseq))).length
  let s1 := (List.range (min n (s.qFill 72))).foldl (fun st _ => st.dequeue 72) s
  { s1 with evb := { s1.evb with frags := s1.evb.frags.drop done.length } }

/-- Fragments that are ready and whose builder is this module are merged here (R250); its own local stragglers stand on its Q74 already. -/
def State.evbMerge (s : State) : State :=
  let mine := s.evb.frags.filter (fun (f : Frag) => !f.sent && s.fragReady f && s.holds (2 + f.role))
  let s1 : State := { s with evb := { s.evb with frags := s.evb.frags.map (fun (f : Frag) => if mine.contains f then { f with sent := true, acked := true } else f) } }
  (mine.foldl (fun st f =>
    let s2 := cond (f.parts.any (fun (p : FragPart) => fragType p.words == 6 && fragResent p.words)) (·.inc EVB_RESENT) st
    if f.fseq = noFseq then s2 else f.parts.foldl (fun z p => z.fragReceive p.words) s2) s1).fragFree

/-- A fragment that finds its region full is not written (R257). -/
def State.fragDrop (s : State) : State :=
  let s1 := ((s.inc EVB_DROP).setB EVB_STAT 29 true).alarm 1 EVB_STAT 29
  { s1 with evb := { s1.evb with loss := true } }

/-- The sub-blocks of the hits of a window, by link. -/
def EvbWin.subHits (w : EvbWin) : List SubBlock :=
  subBlocks (w.hits.map (fun (x : Nat × Nat × Nat × HitEntry) =>
    { kind := 2, port := x.1, t := x.2.2.2.t, flags := x.2.2.1 % 32,
      words := [b2n x.2.2.2.late * 2 ^ 34 + x.2.2.2.keep * 2 ^ 32 + x.2.2.2.chan * 2 ^ 20 + x.2.2.2.q] }))

/-- The instant a window closes: T + WPOST + LHOLD. -/
def State.winClose (s : State) (w : EvbWin) : Int := (s.winSpan w).2 + (max 1 (s.f (EVB_CLS_CFG w.c) 15 0) * us : Nat)

/-- The records of a fragment on queue `q` (Table EVB-1), the parts of fragment number `id`. -/
def State.fragRecs (s : State) (w : EvbWin) (q fseq id : Nat) : List Rec :=
  let hits := w.subHits
  let all := hits ++ w.subs
  let items := (all.map (fun (b : SubBlock) => b.items)).flatten
  let links := hits.foldl (fun m (b : SubBlock) => m ||| 2 ^ b.port) 0
  let flags := ((itemFlags items ||| w.flags) &&& 0x19) ||| s.gapFlag (s.winSpan w).1 (s.winSpan w).2 ||| (if s.evb.loss then 0x80 else 0)
  let parts := splitSubs 65527 all
  parts.mapIdx (fun i subs =>
    let nh := ((subs.filter (fun (b : SubBlock) => b.kind == 2)).map (fun (b : SubBlock) => b.items.length)).foldl (· + ·) 0
    { s.mkRec q 6 0x06 127
        ([w.num % 2 ^ 32 * 2 ^ 32 + w.epoch % 65536 * 2 ^ 16 + i % 256 * 2 ^ 8 + b2n (i + 1 == parts.length) * 2 ^ 7, fullSecZ w.t * 2 ^ 32 + fseq % 2 ^ 32,
          (s.csrRaw (EVB_CLS_WPRE w.c)).toNat * 2 ^ 32 + (s.csrRaw (EVB_CLS_WPOST w.c)).toNat, links, nh % 2 ^ 32 * 2 ^ 32 + subs.length % 65536 * 2 ^ 16]
          ++ (subs.map SubBlock.words).flatten)
        (s.pair EVB_FBUF_LO) ((s.csrRaw EVB_FBUFSIZE).toNat * 0x100000) EVB_FBUF_LO (flags := flags)
        (spec := w.c * 2 ^ 14 + b2n w.keyed * 2 ^ 13 + b2n w.hits.isEmpty * 2 ^ 11 + b2n (s.b (EVB_CLS_CFG w.c) 30) * 2 ^ 10) (t := some w.t)
        (first := firstStamp (subs.flatMap (fun (b : SubBlock) => b.items)))
      with follow := .frag id })

/-- The region has room for a whole fragment beside what waits for it. -/
def State.fragFits (s : State) (rs : List Rec) : Bool :=
  rs.all Rec.regionOk && s.recsFit ((s.que.stalled ++ s.que.cross).filter (fun x => x.key == EVB_FBUF_LO) ++ rs)

/-- A fragment on its way to a builder is kept until it is acknowledged (R255). -/
def State.keepFrag (s : State) (role fseq n : Nat) (zip : Bool) : State :=
  { s with evb := { s.evb with
    fragId := s.evb.fragId + 1,
    frags := s.evb.frags ++ [{ id := s.evb.fragId, fseq := fseq, role := role, parts := [], left := n, zip := zip, sent := false, acked := false }] } }

/-- A window closes: its fragment is published on Q72, or on Q75 where its builder is this module; without room it is dropped whole (R244, R250, R257). -/
def State.winCut (s : State) (w : EvbWin) : State :=
  let role := s.bldRole w.keyed w.num
  let q := if s.holds (2 + role) then 75 else 72
  let fseq : Nat := vget s.evb.fseq role 0
  let recs := s.fragRecs w q fseq s.evb.fragId
  let fits := s.fragFits recs
  let w' := { w with closed := some s.time, evseq := if fits then s.seriesNext q 0x06 127 else 2 ^ 32 - 1 }
  let s1 : State := { s with evb := { s.evb with wins := s.evb.wins.map (fun (x : EvbWin) => if x = w then w' else x) } }
  if !fits then s1.fragDrop
  else
    let s2 := s1.keepFrag role fseq recs.length (s.b EVB_CTL 30)
    ({ s2 with evb := { s2.evb with loss := false, fseq := vmod s2.evb.fseq role (fun n => (n + 1) % 2 ^ 32) } } : State).publishAll q recs |>.evbMerge

/-- EVB_WINDOW_CLOSE: the open window that closes first is cut into a fragment (R244). -/
def State.evbClose (s0 : State) : State :=
  let s := s0.evbSync
  let due := s.evb.wins.filter (fun (w : EvbWin) => w.closed.isNone && !w.segWait && decide (s.winClose w ≤ s.timeZ))
  match due.foldl (fun b w => match b with | some (x : EvbWin) => if s.winClose w < s.winClose x then some w else b | none => some w) none with
  | none => s
  | some w => s.winCut w

/-- The record of a fragment part with a compressed container of its payload from word 8 on (R244, R37). -/
def zipWords (w body : List Nat) : List Nat :=
  (w.take 8).mapIdx (fun i x => if i = 0 then nset (nset x 45 45 1) 39 24 (8 + body.length) else x) ++ body

/-- The fragment region's base. -/
def State.fragBase (s : State) : Nat := s.pair EVB_FBUF_LO

/-- Where a part whose record becomes `n` bytes long may lie, by address: where it lies, or, where it grows, a new place of the region; none without
room. -/
def State.partPlace (s : State) (p : FragPart) (n : Nat) : Option Nat :=
  if n ≤ 8 * p.words.length then some p.addr
  else (s.place EVB_FBUF_LO ((s.csrRaw EVB_FBUFSIZE).toNat * 0x100000) n).map (fun o => s.fragBase + o)

/-- The record of a published part is replaced in its region, and its address and length in its entry, while no consumer has passed it; a record that has
moved holds its new place until then. -/
def State.rewrite (s : State) (p : FragPart) (addr : Nat) (w : List Nat) : State :=
  if s.qPassed p.q p.qseq then s
  else
    let e : Entry := { s.qEntry p.q p.qseq with addr := addr, length := 8 * w.length }
    let s1 := (s.putWords addr w).putWords (s.qSlot p.q p.qseq) e.words
    if addr = p.addr then s1
    else
      let o := addr - s.fragBase
      { s1 with que := { s1.que with
          pieces := s1.que.pieces.filter (fun x => !(x.q == p.q && x.qseq == p.qseq)) ++ [{ key := EVB_FBUF_LO, lo := o, hi := o + 8 * w.length, q := p.q, qseq := p.qseq }],
          wr := spPut s1.que.wr EVB_FBUF_LO (some (o + 8 * w.length)) } }

/-- A fragment part comes back from the compression engine with its container body, or as it was (R244); one whose container finds no room in the
region stays as it was (DESIGN CHOICE, notes/assumptions/178.md). -/
def State.zipDone (s : State) (z : ZipPart) (body : Option (List Nat)) : State :=
  let s1 : State := { s with evb := { s.evb with zip := s.evb.zip.erase z } }
  match s.evb.frags.find? (fun (f : Frag) => f.id == z.id), body with
  | some f, some b =>
    let w := zipWords z.words b
    match f.parts[z.part]? with
    | none => s1.evbMerge
    | some p =>
      match s1.partPlace p (8 * w.length) with
      | none => s1.evbMerge
      | some a =>
        let parts := f.parts.mapIdx (fun i (x : FragPart) => if i = z.part then { x with words := w, addr := a } else x)
        let s2 := s1.rewrite p a w
        ({ s2 with evb := { s2.evb with frags := s2.evb.frags.map (fun (x : Frag) => if x.id = z.id then { x with parts := parts } else x) } } : State).evbWater.evbMerge
  | _, _ => s1.evbMerge

/-- The record of a local straggler (Table EVB-4): its hits in KIND 2 sub-blocks, with the flags of their blocks and the instar of the first (R35, R37,
R347). -/
def State.stragRec (s : State) (w : EvbWin) (follow : Follow) : Rec :=
  let items := w.late.map (fun (x : Nat × Nat × HitEntry) =>
    ({ kind := 2, port := x.1, t := x.2.2.t, flags := x.2.1 % 32, words := [b2n x.2.2.late * 2 ^ 34 + x.2.2.keep * 2 ^ 32 + x.2.2.chan * 2 ^ 20 + x.2.2.q] } : RingItem))
  { s.mkRec 74 6 0x0E 127
      ([w.num % 2 ^ 32 * 2 ^ 32 + w.epoch % 65536 * 2 ^ 16 + 2 ^ 7, fullSecZ w.t * 2 ^ 32 + w.evseq % 2 ^ 32, 0] ++ ((subBlocks items).map SubBlock.words).flatten)
      s.fragBase ((s.csrRaw EVB_FBUFSIZE).toNat * 0x100000) EVB_FBUF_LO
      (flags := (itemFlags items &&& 0x19) ||| s.gapFlag (s.winSpan w).1 (s.winSpan w).2) (t := some w.t) (first := firstStamp items)
    with follow := follow }

/-- LOCAL_STRAGGLER_POST: the straggler of a closed window at its time limit, or when it holds 4,096 hits; it goes to the builder of its trigger
too, where that is another module (R245, R253). -/
def State.stragglerPost (s0 : State) : State :=
  let s := s0.evbSync
  match s.evb.wins.find? (fun (w : EvbWin) => !w.posted && !w.late.isEmpty &&
      (match w.closed with | some z => decide (z + s.smem ≤ s.time) || decide (4096 ≤ w.late.length) | none => false)) with
  | none => s
  | some w =>
    let role := s.bldRole w.keyed w.num
    let r := s.stragRec w (if s.holds (2 + role) then .none else .frag s.evb.fragId)
    let s1 := if s.holds (2 + role) then s else s.keepFrag role noFseq 1 false
    let s2 : State := { s1 with evb := { s1.evb with wins := s1.evb.wins.map (fun (x : EvbWin) => if x = w then { w with posted := true } else x) } }
    s2.publish r

/-! Sending and credit (R251, R255). -/

/-- FRAGMENT_SEND: the first waiting fragment of a builder that its credit covers is sent whole. -/
def State.fragSend (s : State) : State :=
  let first (f : Frag) : Bool := !f.sent && (s.evb.frags.find? (fun (g : Frag) => g.role == f.role && !g.sent)) == some f
  let units (f : Frag) : Nat := fragUnits (f.parts.map (fun (p : FragPart) => p.words))
  match s.evb.frags.find? (fun (f : Frag) => first f && s.fragReady f && decide (units f ≤ (vget s.evb.credit f.role 0 : Nat)) && (s.roleDev (2 + f.role)).isSome) with
  | none => s
  | some f =>
    let d := (s.roleDev (2 + f.role)).getD 0
    let s1 := f.parts.foldl (fun st (p : FragPart) => st.send d 3 0 p.words) s
    let s2 := cond (f.parts.any (fun (p : FragPart) => fragType p.words == 6 && fragResent p.words)) (·.inc EVB_RESENT) s1
    { s2 with evb := { s2.evb with frags := s2.evb.frags.map (fun (g : Frag) => if g = f then { g with sent := true } else g),
                                   credit := vmod s2.evb.credit f.role (fun n => n - units f) } }

/-- GRANT: the module's credit for a builder is replaced. -/
def State.grant (s : State) (bnum bepoch units : Nat) : State :=
  { s with evb := { s.evb with credit := vmod s.evb.credit bnum (fun _ => units), bepoch := vmod s.evb.bepoch bnum (fun _ => bepoch) } }

/-- CREDIT: units return and a fragment is acknowledged, of the local stragglers sent the oldest. -/
def State.credit (s : State) (bnum bepoch units fseq : Nat) : State :=
  let one := s.evb.frags.find? (fun (f : Frag) => f.role == bnum && f.fseq == fseq && f.sent && !f.acked)
  let s1 : State := { s with evb := { s.evb with
    credit := if (vget s.evb.bepoch bnum 0 : Nat) = bepoch then vmod s.evb.credit bnum (· + units) else s.evb.credit,
    frags := match one with | none => s.evb.frags | some x => s.evb.frags.map (fun (f : Frag) => if f = x then { f with acked := true } else f) } }
  s1.fragFree

/-- Another device takes a builder role under an epoch: credit not of its own GRANT is discarded, and what is not acknowledged is to be sent again,
the fragments with RESENT (R255; bit 12 of word 1 is reserved in a straggler). -/
def State.builderMoved (s : State) (role epoch : Nat) : State :=
  let again (p : FragPart) : FragPart :=
    if fragType p.words = 6 then { p with words := p.words.mapIdx (fun i x => if i = 1 then nset x 12 12 1 else x) } else p
  { s with evb := { s.evb with
      credit := if (vget s.evb.bepoch role 0 : Nat) = epoch then s.evb.credit else vmod s.evb.credit role (fun _ => 0),
      frags := s.evb.frags.map (fun (f : Frag) => if f.role = role ∧ f.sent ∧ !f.acked then { f with sent := false, parts := f.parts.map again } else f) } }

/-- This module takes a builder role: it starts empty and grants credit (R251). -/
def State.builderTake (s : State) (role : Nat) : State :=
  let devs := s.devSet (if s.b EVB_BLDCFG 31 then s.pair EVB_BLDEXP_LO else s.pair EVB_DECSET_LO)
  let u := min (s.f EVB_BLDCFG 15 0) (if devs.isEmpty then 0 else (s.csrRaw EVB_BLDBUFSIZE).toNat * 256 / devs.length)
  let s1 : State := { s with evb := { s.evb with opens := s.evb.opens.filter (fun (e : OpenEvent) => e.role != role), bcount := vmod s.evb.bcount role (fun _ => 0) } }
  let s2 := devs.foldl (fun st d => if d = s.dev then st
    else st.send d 2 1 [0x06 * 2 ^ 56 + role * 2 ^ 48 + s.roleEpoch (2 + role) % 65536 * 2 ^ 32 + u % 65536, 0, 0, 0]) s1
  (s2.setB EVB_STAT (24 + role) true).bldOpen.evbMerge

/-- This module loses a builder role: it publishes nothing more for it, and its open events are abandoned (R254). -/
def State.builderLose (s : State) (role : Nat) : State :=
  let keep (r : Rec) : Bool := match r.follow with | .builder b _ => b != role | _ => true
  let s1 : State := { s with
    que := { s.que with stalled := s.que.stalled.filter keep, cross := s.que.cross.filter keep },
    evb := { s.evb with opens := s.evb.opens.filter (fun (e : OpenEvent) => e.role != role), owed := s.evb.owed.filter (fun (x : OwedCredit) => x.role != role),
                        strag := s.evb.strag.filter (fun (x : Nat × Nat × Nat × Nat) => x.1 != role) } }
  (s1.setB EVB_STAT (24 + role) false).bldOpen

/-! The decider (R246 to R249). -/

/-- This module takes the decider role (R249). -/
def State.deciderTake (s : State) : State :=
  let s1 := ((s.setCsr EVB_DECTRIGNUM 0).setCsr EVB_DECEPOCH (BitVec.ofNat 32 (s.roleEpoch 1))).setB EVB_STAT 28 true
  { s1 with evb := { s1.evb with decPend := [], decDone := none, decTp := none } }

/-- It loses the role. -/
def State.deciderLose (s : State) : State := s.setB EVB_STAT 28 false

/-- REJECT to a candidate's device. -/
def State.sendReject (s : State) (x : DecCand) (cause : Nat) : State :=
  s.send x.dev 2 1 [0x03 * 2 ^ 56 + x.c * 2 ^ 54 + cause * 2 ^ 48 + x.cid, 0, 0, 0]

/-- CAND at this module's decider (R247). -/
def State.cand (s : State) (dev c stamp cid : Nat) : State :=
  let t : Int := (stampTime s.time stamp : Nat)
  let x : DecCand := { dev := dev, c := c, t := t, cid := cid }
  if !s.holds 1 then s
  else if !(s.devSet (s.pair EVB_DECSET_LO)).contains dev then s.sendReject x 4
  else if (match s.evb.decDone with | some d => decide (t < d) | none => false) then (s.sendReject x 5).inc EVB_DECLATE
  else { s with evb := { s.evb with decPend := insBy (fun (a b : DecCand) => decide (a.t < b.t) || (a.t == b.t && decide (a.dev ≤ b.dev))) x s.evb.decPend } }

/-- BUSY: a device is busy, or no longer. -/
def State.decBusyMsg (s : State) (dev : Nat) (busy : Bool) : State :=
  if !s.holds 1 then s
  else { s with evb := { s.evb with decBusy := (if busy then [dev] else []) ++ s.evb.decBusy.filter (· != dev) } }

/-- DECIDER_DECIDE: the group of the earliest candidate at T0 + DECHOLD (R247). -/
def State.decDecide (s : State) : State :=
  match s.evb.decPend with
  | [] => s
  | x0 :: _ =>
    let t0 := x0.t
    if !s.holds 1 ∨ s.timeZ < t0 + (clampN 1 1000000 (s.csrRaw EVB_DECHOLD).toNat * us : Nat) then s
    else
      let fin := t0 + ((s.csrRaw EVB_DECDW).toNat * 1000 : Nat)
      let g := s.evb.decPend.filter (fun (x : DecCand) => decide (x.t < fin))
      let s1 : State := { s with evb := { s.evb with decPend := s.evb.decPend.filter (fun (x : DecCand) => !g.contains x), decDone := some fin } }
      let devs := (g.map (fun (x : DecCand) => x.dev)).eraseDups
      let d := devs.filter (fun v => !s.evb.decBusy.contains v)
      let mult := max 1 (s.f EVB_DECCFG 9 0)
      let rejectAll (cause : Nat) : State := g.foldl (fun st x => st.sendReject x cause) s1
      let early (gap : Nat) : Bool := match s.evb.decTp with | some p => decide (t0 < p + (gap : Nat)) | none => false
      if devs.length < mult then rejectAll 0
      else if d.length < mult then rejectAll 3
      else if early 800000 then (rejectAll 1).inc EVB_DECMISSED
      else if early ((s.csrRaw EVB_DECHOTIME).toNat * 1000) then (rejectAll 2).inc EVB_DECMISSED
      else
        let n := (s.csrRaw EVB_DECTRIGNUM).toNat
        let ep := s.roleEpoch 1 % 65536
        let r := if s.b EVB_DECCFG 31 then (s.devSet (s.pair EVB_DECSET_LO)).filter (fun v => !s.evb.decBusy.contains v) else d
        let quoted (v : Nat) : Option DecCand := g.find? (fun (x : DecCand) => x.dev == v)
        let msg (ty c cid : Nat) : List Nat := [ty * 2 ^ 56 + c * 2 ^ 54 + ep * 2 ^ 32 + cid, stampZ t0, n * 2 ^ 32, 0]
        let s2 : State := { (s1.incMod EVB_DECTRIGNUM) with evb := { (s1.incMod EVB_DECTRIGNUM).evb with decTp := some t0 } }
        let s3 := r.foldl (fun st v => match quoted v with | some x => st.send v 2 1 (msg 2 x.c x.cid) | none => st.send v 2 1 (msg 2 x0.c 0)) s2
        let others := g.filter (fun (x : DecCand) => !(r.contains x.dev && quoted x.dev == some x))
        let s4 := others.foldl (fun st x => st.sendReject x 0) s3
        let map := (List.range 16).map (fun i => (List.range 64).foldl (fun m b => if r.contains (64 * i + b) then m + 2 ^ b else m) 0)
        match s.roleDev (2 + s.bldRole true n) with
        | some b => s4.send b 2 1 (msg 4 x0.c 0 ++ map)
        | none => s4

/-- ACCEPT: the trigger of a candidate, or under ALL one without a candidate (R231, R248). -/
def State.acceptMsg (s : State) (c epoch cid stamp num : Nat) : State :=
  let t : Int := (stampTime s.time stamp : Nat)
  if !s.trgRun then s
  else
    let x := (s.trg.asked.find? (fun (x : Cand) => x.cid == cid && x.c == c))
    let k : Cand := match x with
      | some y => { y with t := t }
      | none => { c := c, t := t, term := 0, cond := 0, chan := 0, coarse := false, cid := cid, sent := 0 }
    let s1 : State := { s with trg := { s.trg with asked := s.trg.asked.filter (fun (y : Cand) => !(some y == x)) } }
    if s.b TRG_STAT (12 + c) then (s1.inc (TRG_CLS_AFTER c)).trgSettle else s1.accept k num epoch true

/-- REJECT. -/
def State.rejectMsg (s : State) (c cid : Nat) : State :=
  let s1 := s.inc EVB_REJ
  ({ s1 with trg := { s1.trg with asked := s1.trg.asked.filter (fun (x : Cand) => !(x.cid == cid && x.c == c)) } }).trgSettle

/-- CAND_TIMEOUT: the candidate that has waited DTMO is dropped (R248). -/
def State.candTimeout (s : State) : State :=
  match s.trg.asked.find? (fun (x : Cand) => decide (x.sent + max 1 (s.csrRaw EVB_DTMO).toNat * us ≤ s.time)) with
  | none => s
  | some x =>
    let s1 := (s.inc EVB_DTMOCNT).alarm 2 EVB_DTMOCNT 0x3F
    ({ s1 with trg := { s1.trg with asked := s1.trg.asked.erase x } }).trgSettle

/-! Registers (R259). -/

/-- A register of the window with a field out of its range is left unchanged and sets CFGERR. -/
def State.writeEvb (s : State) (a : Nat) (v : Word) : State :=
  let n := v.toNat
  let bad :=
    if a = EVB_CTL then fld v 23 16 == 0 || fld v 15 0 == 0
    else if a = EVB_FBUFSIZE then n == 0 || decide (16384 < n)
    else if a = EVB_WATER then decide (fld v 23 16 ≤ fld v 7 0) || decide (100 < fld v 23 16)
    else if a = EVB_CLS_CFG 0 ∨ a = EVB_CLS_CFG 1 ∨ a = EVB_CLS_CFG 2 ∨ a = EVB_CLS_CFG 3 then fld v 15 0 == 0
    else if a = EVB_DECHOLD ∨ a = EVB_BLDBTMO then n == 0 || decide (1000000 < n)
    else if a = EVB_BLDBUFSIZE then decide (16384 < n)
    else false
  if bad then s.setB EVB_STAT 31 true
  else
    let s1 := s.writeReg a v
    if a = EVB_CTL ∧ s1.b EVB_CTL 31 ≠ s.b EVB_CTL 31 then s1.evbEnable else if a = EVB_WATER then s1.evbWater else s1

/-- The HI half of a pair of the window: a region base off 1 MiB, or a device map not whole in on-chip SRAM or off 8 bytes, leaves the pair unchanged
and sets CFGERR (Table EVB-6). -/
def State.writeEvbHi (s : State) (who a : Nat) (v : Word) (lease : Bool) : State :=
  let base := (s.loFor who (a - 4)).toNat + v.toNat * 2 ^ 32
  let ok :=
    if a = EVB_FBUF_HI ∨ a = EVB_BLDBUF_HI then base % 0x100000 == 0
    else if a = EVB_DECSET_HI ∨ a = EVB_BLDEXP_HI then base % 8 == 0 && inSram base 128
    else true
  if ok then s.writePair who a v lease else (s.dropLo who (a - 4)).setB EVB_STAT 31 true

end Sys2Proof.Machine
end

