-- ==== Sys2Proof/Machine/Hit.lean ====
section
/-! DEFINITION. Hit frames and second-level zero suppression (R203 to R205, R210 to R215). -/

namespace Sys2Proof.Machine

open Csr

/-! Suppression (R212 to R214). -/

/-- A word of the suppression table entry of a channel. -/
def State.zsWord (s : State) (l chan k : Nat) : Nat := s.word64 ((s.csrRaw (FEL_ZSBASE l)).toNat + 24 * chan + 8 * k)

/-- MASK, FORCE, THR_HI and THR_LO of a hit's entry. -/
def State.zsMask (s : State) (h : Hit) : Bool := (s.zsWord h.link h.chan 0).testBit 63
def State.zsForce (s : State) (h : Hit) : Bool := (s.zsWord h.link h.chan 0).testBit 62
def State.zsHi (s : State) (h : Hit) : Nat := nfld (s.zsWord h.link h.chan 0) 59 40
def State.zsLo (s : State) (h : Hit) : Nat := nfld (s.zsWord h.link h.chan 0) 39 20

/-- The channels that the enabled slots of an entry name; a slot at or above a link's NCH matches nothing (R212). -/
def State.zsNames (s : State) (l chan : Nat) : List (Nat × Nat) :=
  ((List.range 2).map (fun k => (List.range 3).filterMap (fun i =>
    let f := nfld (s.zsWord l chan (1 + k)) (20 * i + 19) (20 * i)
    if f.testBit 19 && decide (nfld f 12 1 < s.f (FEL_NCH (nfld f 18 13)) 12 0) then some (nfld f 18 13, nfld f 12 1) else none))).flatten

/-- Two hits lie on neighbouring channels. -/
def State.hitNeighbours (s : State) (a b : Hit) : Bool :=
  (s.zsNames a.link a.chan).contains (b.link, b.chan) || (s.zsNames b.link b.chan).contains (a.link, a.chan)

/-- FEL.ZSCTL.WIN in ps. -/
def State.zsWin (s : State) : Int := (s.f FEL_ZSCTL 23 12 * 25 : Nat)

/-- The hits reachable from some hits by steps of the cluster rule, with fuel. -/
def State.cluster (s : State) (top : Int) : Nat → List Hit → List Hit → List Hit
  | 0, got, _ => got
  | n + 1, got, rest =>
    let new := rest.filter (fun (g : Hit) => decide (g.t ≤ top) && decide (s.zsLo g ≤ g.q) && !s.zsMask g &&
      got.any (fun (a : Hit) => s.hitNeighbours a g && decide ((a.t - g.t).natAbs ≤ s.zsWin.natAbs)))
    if new.isEmpty then got else s.cluster top n (got ++ new) (rest.filter (fun g => !new.contains g))

/-- decide(h) of R213: the KEEP code, or none for a cut. -/
def State.zsDecide (s : State) (h : Hit) : Option Nat :=
  if !s.b FEL_ZSCTL 31 || s.b (FEL_LCFG h.link) 31 then some 0
  else if s.zsMask h then none
  else if s.zsForce h || decide (s.zsHi h ≤ h.q) then some 1
  else if h.q < s.zsLo h then none
  else
    let w := s.zsWin
    let p := s.fel.hits.filter (fun (g : Hit) => !s.zsMask g && s.hitNeighbours h g && decide ((g.t - h.t).natAbs ≤ w.natAbs) && decide (s.zsLo g ≤ g.q))
    if s.b FEL_ZSCTL 30 && p.any (fun (g : Hit) => decide (s.zsHi g ≤ g.q)) then some 2
    else if s.b FEL_ZSCTL 29 && decide (max 2 (s.f FEL_ZSCTL 27 24) ≤
        (s.cluster (h.t + w) s.fel.hits.length [h] (s.fel.hits.erase h)).length) then some 3
    else none

/-- A hit is kept or cut: the block, the rings and the counts (R213, R216, R232). -/
def State.zsApply (s : State) (h : Hit) (late : Bool) : State :=
  match s.zsDecide h with
  | none => ((s.inc FEL_ZSCUT).linkUpd h.link (fun k => { k with ncut := k.ncut + 1 })).bump 0xA6 1
  | some k =>
    let s1 := ((s.blockHit h k late).bump 0xA5 1)
    s1.ringPut 2 h.link h.t (if (s.link h.link).jump || (s.link h.link).syncBad then 16 else 0)
      (fun m => if m.contains (s.dev, h.link, h.chan) then [b2n late * 2 ^ 34 + k * 2 ^ 32 + h.chan * 2 ^ 20 + h.q] else [])

/-- FEL.ZSCTL.HOLD in ps. -/
def State.zsHold (s : State) : Nat := clampN 1 1000 (s.f FEL_ZSCTL 9 0) * us

/-- The held hit that is first in the order of R214 leaves the buffer and is decided. -/
def State.zsFirst (s : State) : State :=
  match firstHit s.fel.held with
  | none => s
  | some h => ({ s with fel := { s.fel with held := s.fel.held.erase h } }).zsApply h false

/-- ZS_DECIDE: the first held hit at its decision time; while class EVT is throttled the buffer fills (Table MEM-2). -/
def State.zsStep (s : State) : State :=
  match firstHit s.fel.held with
  | none => s
  | some h => if s.timeZ < h.t + s.zsHold ∨ s.stopped 2 then s else s.zsFirst

/-- The hold buffer in hits. -/
def zsCap : Nat := 262144

/-- A hit arrives: it is seen, offered to the primitives, and held, or decided at once when late (R214, R223). -/
def State.hitArrive (s : State) (h : Hit) : State :=
  let s1 := (({ s with fel := { s.fel with hits := s.fel.hits ++ [h] } }).bump 0xA4 1).hpHit h
  if h.t + s.zsHold < s.timeZ then (s1.inc FEL_ZSLATE).zsApply h true
  else
    let s2 : State := cond (decide (zsCap ≤ s1.fel.held.length)) (fun st => ((st.inc FEL_ZSEARLY).setB FEL_STAT 26 true).zsFirst) s1
    { s2 with fel := { s2.fel with held := s2.fel.held ++ [h] } }

/-! Hit frames (R203, R204, R210, R211). -/

/-- The reading of a frame's blocks: HDR seen, TRL seen, data payloads in order, unlisted types, and whether it is malformed. -/
structure FrameRead where
  hdr : Option Nat
  trl : Option Nat
  data : List Nat
  unlisted : Nat
  bad : Bool

/-- One block (sync header, payload) of a frame. -/
def FrameRead.block (f : FrameRead) (b : Nat × Nat) : FrameRead :=
  let isOpen := f.hdr.isSome && f.trl.isNone
  if b.1 = 1 then (if isOpen then { f with data := f.data ++ [b.2] } else { f with bad := true })
  else if b.1 = 2 then
    let ty := b.2 % 256
    if ty = 0x55 then (if isOpen then { f with bad := true } else { f with hdr := some b.2 })
    else if ty = 0x66 then (if isOpen then { f with trl := some b.2 } else { f with bad := true })
    else if [0x1E, 0x4B, 0x4C, 0x2D, 0x34].contains ty then f
    else { f with unlisted := f.unlisted + 1 }
  else if isOpen then { f with bad := true } else f

/-- Some block of a frame is there. -/
def FrameRead.any (f : FrameRead) : Bool := f.bad || f.hdr.isSome || f.trl.isSome

/-- A frame read whole. -/
def readFrame (bs : List (Nat × Nat)) : FrameRead := bs.foldl FrameRead.block { hdr := none, trl := none, data := [], unlisted := 0, bad := false }

/-- R204: the frame stands. -/
def FrameRead.ok (f : FrameRead) : Bool :=
  match f.hdr, f.trl with
  | some h, some t => !f.bad && f.data.length == nfld h 15 8 && crc32c ((f.data.map (bytesOf 8)).flatten) == nfld t 63 32
  | _, _ => false

/-- The stamp of a hit (R210), from T0 and the coarse extension it is converted with. -/
def State.hitTime (s : State) (l t0 ext epoch data : Nat) : Int :=
  let c := ext * 2 ^ 48 + epoch * 2 ^ 16 + nfld data 51 36
  let fine := nfld data 35 20 % 2 ^ (nfld (s.link l).page1 63 60 + 1)
  ((t0 + c * felTick : Nat) : Int) + (s.csrRaw (FEL_DDOWN l)).toInt - (s.csrRaw (FEL_HITOFS l)).toInt
    + (((fine * s.f (FEL_FINELSB l) 23 0 + 128) / 256 : Nat) : Int)

/-- A good frame: EPOCH, the trailer's flags, and its hits (R203, R211). -/
def State.frameHits (s : State) (l hdr trl : Nat) (data : List Nat) : State :=
  let k := s.link l
  let flags := nfld trl 15 8
  let first := flags.testBit 2
  let epoch := nfld hdr 63 32
  let old := if first then none else k.old
  let (t0, ext0, prev) := match old with | some o => (o.1, o.2.1, o.2.2) | none => (k.t0, s.f (FEL_EPOCHX l) 15 0, k.epoch)
  let wrap := match prev with | some p => decide (epoch + 2 ^ 31 < p) | none => false
  let ext := if wrap then ext0 + 1 else ext0
  let s1 := s.linkUpd l (fun x => match old with
    | some _ => { x with old := some (t0, ext, some epoch) }
    | none => { x with old := none, epoch := some epoch })
  let s2 := if old.isNone then s1.setCsr (FEL_EPOCHX l) (BitVec.ofNat 32 (ext % 65536)) else s1
  let s3 := if flags.testBit 1 then ((s2.setB (FEL_LSTAT l) 24 true).linkUpd l (fun x => { x with syncBad := true })).linkAlarm 2 l (FEL_LSTAT l) 24 else s2
  data.foldl (fun st d =>
    let chan := nfld d 63 52
    if st.f (FEL_NCH l) 12 0 ≤ chan then st.incF (FEL_ERR l) 7 0
    else st.hitArrive { t := s.hitTime l t0 ext epoch d, link := l, chan := chan, q := nfld d 19 0, lost := flags.testBit 0 }) s3

/-- HIT_FRAME: the blocks of a frame up to its trailer, or blocks outside a frame, reach link `l`, whose ingress FIFO holds `fill` blocks (R194, R203
to R205). -/
def State.hitFrame (s : State) (l fill : Nat) (bs : List (Nat × Nat)) : State :=
  let f := readFrame bs
  let h := s.feHeaders l f.any (bs.map (·.1))
  if h.1 then h.2 else
  let s0 := h.2.linkUpd l (fun k => { k with fill := min 16384 (fill + bs.length) })
  let s1 := cond (decide (0 < f.unlisted)) (·.incF (FEL_ERR l) 31 24 f.unlisted) s0
  let s2 := if 12288 ≤ fill + bs.length ∧ !(s.link l).throttled ∧ s.linkUp l then
      ((s1.linkUpd l (fun k => { k with throttled := true })).fastCmd l 7 0 1).1 else s1
  if !f.any then s2
  else if 16384 < fill + bs.length then (s2.frDrop l).linkUpd l (fun k => { k with ingDrop := true })
  else if !f.ok || !s.linkUp l then s2.frDrop l
  else match f.hdr, f.trl with
    | some h, some t => s2.frameHits l h t f.data
    | _, _ => s2

end Sys2Proof.Machine
end

