-- ==== Sys2Proof/Machine/Inflate.lean ====
section
/-! DEFINITION. Raw DEFLATE streams (RFC 1951) as R329 and R334 use them: inflation, and streams of stored blocks. A stream is read as
one number whose bit 0 is the first bit. -/

namespace Sys2Proof.Machine

/-- The number that a byte list spells, least significant byte first. -/
def bytesNat : List Nat → Nat
  | [] => 0
  | b :: t => b % 256 + 256 * bytesNat t

/-- `k` bits of a stream at a position. -/
def zbits (n pos k : Nat) : Nat := (n >>> pos) % 2 ^ k

/-- The symbols of a canonical code in the order of their codes: by length, then by value. -/
def zsyms (lens : List Nat) : List (Nat × Nat) :=
  (List.range 15).flatMap (fun i => (lens.mapIdx (fun v l => (l, v))).filter (fun x => x.1 == i + 1))

/-- A code assigns no more codes than its lengths admit. -/
def zfits (lens : List Nat) : Bool := decide ((lens.map (fun l => if l = 0 then 0 else 2 ^ (15 - l))).foldl (· + ·) 0 ≤ 2 ^ 15)

/-- One symbol: the code so far, the first code and the symbol index of the present length. -/
def zsym (syms : List (Nat × Nat)) (n : Nat) : Nat → Nat → Nat → Nat → Nat → Option (Nat × Nat)
  | 0, _, _, _, _ => none
  | k + 1, pos, code, first, idx =>
    let len := 15 - k
    let c := code * 2 + zbits n pos 1
    let f := first * 2
    let cnt := (syms.filter (fun x => x.1 == len)).length
    if f ≤ c ∧ c < f + cnt then (syms[idx + (c - f)]?).map (fun x => (x.2, pos + 1))
    else zsym syms n k (pos + 1) c (f + cnt) (idx + cnt)

/-- A symbol of a code at a position. -/
def zdecode (syms : List (Nat × Nat)) (n pos : Nat) : Option (Nat × Nat) := zsym syms n 15 pos 0 0 0

/-- Base and extra bits of length symbol 257 + i. -/
def zlen (i : Nat) : Nat × Nat :=
  if i < 8 then (3 + i, 0) else if i = 28 then (258, 0) else let e := i / 4 - 1; (3 + (4 + i % 4) * 2 ^ e, e)

/-- Base and extra bits of distance symbol i. -/
def zdist (i : Nat) : Nat × Nat := if i < 4 then (1 + i, 0) else let e := i / 2 - 1; (1 + (2 + i % 2) * 2 ^ e, e)

/-- `k` bytes copied from `d` bytes back, onto a reversed output. -/
def zcopy (d : Nat) : Nat → List Nat → List Nat
  | 0, out => out
  | k + 1, out => zcopy d k ((out[d - 1]?).getD 0 :: out)

/-- The symbols of a compressed block, onto a reversed output of at most `lim` bytes. -/
def zblock (ls ds : List (Nat × Nat)) (n lim : Nat) : Nat → Nat → List Nat → Option (Nat × List Nat)
  | 0, _, _ => none
  | k + 1, pos, out =>
    match zdecode ls n pos with
    | none => none
    | some (v, p1) =>
      if v < 256 then (if lim ≤ out.length then none else zblock ls ds n lim k p1 (v :: out))
      else if v = 256 then some (p1, out)
      else if 285 < v then none
      else
        let l := zlen (v - 257)
        let len := l.1 + zbits n p1 l.2
        match zdecode ds n (p1 + l.2) with
        | none => none
        | some (dv, p2) =>
          if 29 < dv then none
          else
            let d := zdist dv
            let dist := d.1 + zbits n p2 d.2
            if out.length < dist ∨ lim < out.length + len then none else zblock ls ds n lim k (p2 + d.2) (zcopy dist len out)

/-- The order of the code-length code lengths. -/
def zorder : List Nat := [16, 17, 18, 0, 8, 7, 9, 6, 10, 5, 11, 4, 12, 3, 13, 2, 14, 1, 15]

/-- The literal and distance code lengths of a dynamic block, reversed, until `m` are read. -/
def zlens (cs : List (Nat × Nat)) (n m : Nat) : Nat → Nat → List Nat → Option (Nat × List Nat)
  | 0, _, _ => none
  | k + 1, pos, acc =>
    if m ≤ acc.length then (if acc.length = m then some (pos, acc.reverse) else none)
    else match zdecode cs n pos with
      | none => none
      | some (v, p) =>
        if v < 16 then zlens cs n m k p (v :: acc)
        else if v = 16 then
          match acc with
          | [] => none
          | a :: _ => zlens cs n m k (p + 2) (List.replicate (3 + zbits n p 2) a ++ acc)
        else if v = 17 then zlens cs n m k (p + 3) (List.replicate (3 + zbits n p 3) 0 ++ acc)
        else zlens cs n m k (p + 7) (List.replicate (11 + zbits n p 7) 0 ++ acc)

/-- The fixed codes. -/
def zfixed : List Nat := List.replicate 144 8 ++ List.replicate 112 9 ++ List.replicate 24 7 ++ List.replicate 8 8

/-- Blocks until BFINAL: `fuel` bounds blocks and symbols. -/
def zstream (n total lim fuel : Nat) : Nat → Nat → List Nat → Option (List Nat)
  | 0, _, _ => none
  | k + 1, pos, out =>
    let fin := zbits n pos 1 == 1
    let next (r : Option (Nat × List Nat)) : Option (List Nat) :=
      match r with
      | none => none
      | some (p, o) => if total < p then none else if fin then some o.reverse else zstream n total lim fuel k p o
    match zbits n (pos + 1) 2 with
    | 0 =>
      let p := (pos + 3 + 7) / 8 * 8
      let len := zbits n p 16
      if zbits n (p + 16) 16 ≠ 65535 - len ∨ lim < out.length + len then none
      else next (some (p + 32 + 8 * len, ((List.range len).map (fun i => zbits n (p + 32 + 8 * i) 8)).reverse ++ out))
    | 1 => next (zblock (zsyms zfixed) (zsyms (List.replicate 30 5)) n lim fuel (pos + 3) out)
    | 2 =>
      let hl := zbits n (pos + 3) 5 + 257
      let hd := zbits n (pos + 8) 5 + 1
      let hc := zbits n (pos + 13) 4 + 4
      let cl := (List.range 19).map (fun v => match (zorder.take hc).idxOf? v with | some i => zbits n (pos + 17 + 3 * i) 3 | none => 0)
      match zlens (zsyms cl) n (hl + hd) 400 (pos + 17 + 3 * hc) [] with
      | none => none
      | some (p, lens) =>
        let ll := lens.take hl
        let dl := lens.drop hl
        if !zfits cl || !zfits ll || !zfits dl || 286 < hl || 30 < hd then none
        else next (zblock (zsyms ll) (zsyms dl) n lim fuel p out)
    | _ => none

/-- Inflation of a stream of bytes that yields at most `lim` bytes. -/
def inflate (bs : List Nat) (lim : Nat) : Option (List Nat) :=
  zstream (bytesNat bs) (8 * bs.length) lim (8 * bs.length + 1) (8 * bs.length + 1) 0 []

/-- Stored blocks that hold the input, each of at most 65,535 bytes. -/
def zstored : Nat → List Nat → List Nat
  | 0, _ => []
  | k + 1, bs =>
    let h := bs.take 65535
    let t := bs.drop 65535
    (if t = [] then 1 else 0) :: (bytesOf 2 h.length ++ bytesOf 2 (65535 - h.length) ++ h ++ (if t = [] then [] else zstored k t))

/-- The stored form of a block. -/
def storedStream (bs : List Nat) : List Nat := zstored (bs.length / 65535 + 1) bs

end Sys2Proof.Machine
end

