-- ==== Sys2Proof/Machine/Deflate.lean ====
section
/-! DEFINITION. The streams a healthy compression lane makes (R329, R330): the match search of Table CMP-4, and DEFLATE blocks of dynamic
Huffman codes. A token is (0, byte) for a literal, (length, distance) for a match. -/

namespace Sys2Proof.Machine

/-! The match search (R330, notes/assumptions/187.md). -/

/-- Bytes that two positions have in common, at most `k`. -/
def matchLen : Nat → List Nat → List Nat → Nat
  | k + 1, x :: t, y :: u => if x = y then matchLen k t u + 1 else 0
  | _, _, _ => 0

/-- The longest match at a position among at most `steps` earlier positions that begin with its three bytes, the nearest first: length and distance.
`hist` holds what follows each earlier position, the nearest, at distance `d`, first. -/
def bestMatch (cur : List Nat) : List (List Nat) → Nat → Nat → Nat × Nat → Nat × Nat
  | [], _, _, best => best
  | h :: t, d, steps, best =>
    if steps = 0 ∨ 32768 < d then best
    else
      let m := matchLen 258 h cur
      if m < 3 then bestMatch cur t (d + 1) steps best
      else bestMatch cur t (d + 1) (steps - 1) (if best.1 < m then (m, d) else best)

/-- The positions of the next `n` bytes join the history. -/
def pushHist : Nat → List Nat → List (List Nat) → List (List Nat)
  | n + 1, x :: t, h => pushHist n t ((x :: t) :: h)
  | _, _, h => h

/-- The tokens of a block: a match is taken where one is found; with `lazy` a longer one at the next byte defers it. -/
def lzTokens (steps : Nat) (lazy : Bool) : Nat → List (List Nat) → List Nat → List (Nat × Nat)
  | k + 1, hist, b :: t =>
    let m := bestMatch (b :: t) hist 1 steps (0, 0)
    let hist' := (b :: t) :: hist
    if m.1 < 3 || (lazy && decide (m.1 < (bestMatch t hist' 1 steps (0, 0)).1)) then (0, b) :: lzTokens steps lazy k hist' t
    else m :: lzTokens steps lazy k (pushHist m.1 (b :: t) hist) ((b :: t).drop m.1)
  | _, _, _ => []

/-- Chain steps of a level (Table CMP-4). -/
def chainSteps (level : Nat) : Nat := if level ≤ 7 then 2 ^ (level + 1) else if level = 8 then 1024 else 4096

/-- The tokens of a block's input at a level: a match is deferred at levels 4 and up. -/
def levelTokens (level : Nat) (input : List Nat) : List (Nat × Nat) := lzTokens (chainSteps level) (decide (4 ≤ level)) input.length [] input

/-- Tokens in groups that each stand for at most 64 KiB of input: the DEFLATE blocks of a stream (R329). -/
def tokenBlocks : List (Nat × Nat) → Nat → List (Nat × Nat) → List (List (Nat × Nat))
  | [], _, acc => [acc.reverse]
  | t :: ts, n, acc =>
    let k := max 1 t.1
    if 65536 < n + k then acc.reverse :: tokenBlocks ts k [t] else tokenBlocks ts (n + k) (t :: acc)

/-! Symbols and codes (RFC 1951). -/

/-- The symbol of a length, and its extra bits' count and value; the same of a distance. -/
def lenSym (n : Nat) : Nat × Nat × Nat :=
  let i := ((List.range 29).reverse.find? (fun i => decide ((zlen i).1 ≤ n))).getD 0
  (257 + i, (zlen i).2, n - (zlen i).1)
def distSym (n : Nat) : Nat × Nat × Nat :=
  let i := ((List.range 30).reverse.find? (fun i => decide ((zdist i).1 ≤ n))).getD 0
  (i, (zdist i).2, n - (zdist i).1)

/-- The literal and length symbols of a block, and its distance symbols. -/
def litSyms (ts : List (Nat × Nat)) : List Nat := ts.map (fun t => if t.1 = 0 then t.2 else (lenSym t.1).1) ++ [256]
def distSyms (ts : List (Nat × Nat)) : List Nat := (ts.filter (fun t => t.1 != 0)).map (fun t => (distSym t.2).1)

/-- Code lengths that give each of the used symbols a code: those of the two lengths next to the logarithm of their number. -/
def plainLens (used : List Nat) : List Nat :=
  let all := (List.range 286).filter (fun v => used.contains v)
  let n := all.length
  let k := ((List.range 10).find? (fun k => decide (n ≤ 2 ^ k))).getD 9
  (List.range (all.getLast?.getD 0 + 1)).map (fun v => match all.idxOf? v with | some i => max 1 (if i < 2 ^ k - n then k - 1 else k) | none => 0)

/-- Code lengths a lane may use: every used symbol has a code, of at most 15 bits, and no more codes are given than there are. -/
def lensOk (used lens : List Nat) (m : Nat) : Bool :=
  decide (lens.length ≤ m) && lens.all (fun l => decide (l ≤ 15)) && zfits lens && used.all (fun v => nth lens v 0 != 0)

/-- The canonical codes of lengths: symbol, length and code. -/
def canonCodes : List (Nat × Nat) → Nat → Nat → List (Nat × Nat × Nat)
  | [], _, _ => []
  | (len, v) :: t, prev, code => let c := code * 2 ^ (len - prev); (v, len, c) :: canonCodes t len (c + 1)

/-- Bits of a number, least significant first, and of a code, most significant first. -/
def lsbBits (k n : Nat) : List Bool := (List.range k).map n.testBit
def codeBits (codes : List (Nat × Nat × Nat)) (v : Nat) : List Bool :=
  match codes.find? (fun c => c.1 == v) with | some c => (lsbBits c.2.1 c.2.2).reverse | none => []

/-- A token in bits. -/
def tokenBits (ls ds : List (Nat × Nat × Nat)) (t : Nat × Nat) : List Bool :=
  if t.1 = 0 then codeBits ls t.2
  else
    let l := lenSym t.1
    let d := distSym t.2
    codeBits ls l.1 ++ lsbBits l.2.1 l.2.2 ++ codeBits ds d.1 ++ lsbBits d.2.1 d.2.2

/-- Lengths padded with zeros to at least `m` symbols. -/
def padLens (m : Nat) (ls : List Nat) : List Nat := ls ++ List.replicate (m - ls.length) 0

/-- A DEFLATE block of dynamic codes, with the code lengths the lane chose where they serve (notes/assumptions/188.md). The lengths are sent one
by one, in a code of 4 bits. -/
def dynBlock (fin : Bool) (ts : List (Nat × Nat)) (choice : List Nat × List Nat) : List Bool :=
  let lu := litSyms ts
  let du := distSyms ts
  let ll := padLens 257 (if lensOk lu choice.1 286 then choice.1 else plainLens lu)
  let dl := padLens 1 (if lensOk du choice.2 30 then choice.2 else if du.isEmpty then [] else plainLens du)
  let ls := canonCodes (zsyms ll) 0 0
  let ds := canonCodes (zsyms dl) 0 0
  [fin, false, true] ++ lsbBits 5 (ll.length - 257) ++ lsbBits 5 (dl.length - 1) ++ lsbBits 4 15
    ++ zorder.flatMap (fun v => lsbBits 3 (if v < 16 then 4 else 0)) ++ (ll ++ dl).flatMap (fun l => (lsbBits 4 l).reverse)
    ++ ts.flatMap (tokenBits ls ds) ++ codeBits ls 256

/-- Bits packed into `n` bytes. -/
def packBits (bits : List Bool) : List Nat :=
  (chunks (bits.length / 8 + 1) 8 bits).map (fun b => b.foldr (fun x n => 2 * n + b2n x) 0)

/-- The stream of one block's input at a level above 0: `choice` gives the code lengths of each DEFLATE block. -/
def deflate (level : Nat) (input : List Nat) (choice : List (List Nat × List Nat)) : List Nat :=
  let bs := tokenBlocks (levelTokens level input) 0 []
  packBits ((bs.mapIdx (fun i ts => dynBlock (i + 1 == bs.length) ts (nth choice i ([], [])))).flatten)

end Sys2Proof.Machine
end

