-- ==== Sys2Proof/Machine/Crypt.lean ====
section
/-! DEFINITION. The cryptographic functions the spec names: AES-256 (FIPS 197) and GCM (NIST SP 800-38D), SHA-384 (FIPS 180-4), HMAC (RFC 2104) and
HKDF (RFC 5869), and ECDH and ECDSA over P-384 (FIPS 186), over bytes in ascending order (R305, R307, R422, R423, R429;
notes/assumptions/182.md). -/

namespace Sys2Proof.Machine

/-- A number from its bytes, the first most significant. -/
def beNat (bs : List Nat) : Nat := bs.foldl (fun n b => n * 256 + b % 256) 0

/-- `n` bytes of a number, the most significant first. -/
def beBytes (n v : Nat) : List Nat := (bytesOf n v).reverse

/-- Byte by byte exclusive or of two lists; the shorter decides. -/
def xorBytes (a b : List Nat) : List Nat := List.zipWith (· ^^^ ·) a b

/-- 64-bit words, little-endian, from bytes; `n` words. -/
def wordsOfBytes (n : Nat) (bs : List Nat) : List Nat := (List.range n).map (fun i => beNat ((bs.drop (8 * i)).take 8).reverse)

/-- Bytes of 64-bit words, little-endian. -/
def bytesOfWords (ws : List Nat) : List Nat := (ws.map (bytesOf 8)).flatten

/-! AES-256. -/

/-- Multiplication in GF(2^8). -/
def gf8 (a b : Nat) : Nat :=
  ((List.range 8).foldl (fun (r : Nat × Nat) i =>
    (if b.testBit i then r.1 ^^^ r.2 else r.1, if 128 ≤ r.2 then (2 * r.2) % 256 ^^^ 0x1B else 2 * r.2)) (0, a % 256)).1

/-- The S-box: the inverse x^254, and the affine map. -/
def aesSbox (x : Nat) : Nat :=
  let y := ((List.range 7).foldl (fun (r : Nat × Nat) _ => let q := gf8 r.2 r.2; (gf8 r.1 q, q)) (1, x % 256)).1
  let rot (k : Nat) : Nat := (y * 2 ^ k) % 256 + y / 2 ^ (8 - k)
  y ^^^ rot 1 ^^^ rot 2 ^^^ rot 3 ^^^ rot 4 ^^^ 0x63

/-- The 60 words of the key schedule, the last first. -/
def aesKeys (key : List Nat) : List (List Nat) :=
  let first : List (List Nat) := ((List.range 8).map (fun i => (key.drop (4 * i)).take 4)).reverse
  (List.range 52).foldl (fun ws j =>
    let i := j + 8
    let last := nth ws 0 []
    let t := if i % 8 = 0 then xorBytes ((last.drop 1 ++ last.take 1).map aesSbox) [2 ^ (i / 8 - 1), 0, 0, 0]
      else if i % 8 = 4 then last.map aesSbox else last
    xorBytes (nth ws 7 []) t :: ws) first

/-- MixColumns of one column. -/
def aesMix (c : List Nat) : List Nat :=
  (List.range 4).map (fun i => gf8 2 (nth c i 0) ^^^ gf8 3 (nth c ((i + 1) % 4) 0) ^^^ nth c ((i + 2) % 4) 0 ^^^ nth c ((i + 3) % 4) 0)

/-- One block of 16 bytes encrypted under a key schedule. -/
def aesBlock (ks : List (List Nat)) (b : List Nat) : List Nat :=
  let w := ks.reverse
  let rk (r : Nat) : List Nat := ((w.drop (4 * r)).take 4).flatten
  let shift (x : List Nat) : List Nat := (List.range 16).map (fun i => nth x ((i + 4 * (i % 4)) % 16) 0)
  (List.range 14).foldl (fun x r =>
    let y := shift (x.map aesSbox)
    xorBytes (if r = 13 then y else ((List.range 4).map (fun c => aesMix ((y.drop (4 * c)).take 4))).flatten) (rk (r + 1))) (xorBytes b (rk 0))

/-! GCM. -/

/-- Multiplication in GF(2^128), bit 0 of a block being its most significant. -/
def gf128 (x y : Nat) : Nat :=
  ((List.range 128).foldl (fun (r : Nat × Nat) i =>
    (if x.testBit (127 - i) then r.1 ^^^ r.2 else r.1, if r.2.testBit 0 then r.2 / 2 ^^^ 0xE1 * 2 ^ 120 else r.2 / 2)) (0, y)).1

/-- Bytes as blocks of 16, the last one padded with zeros. -/
def blocks16 (bs : List Nat) : List Nat :=
  (List.range ((bs.length + 15) / 16)).map (fun i => let b := (bs.drop (16 * i)).take 16; beNat (b ++ List.replicate (16 - b.length) 0))

/-- The tag of a ciphertext with additional data. -/
def gcmTag (ks : List (List Nat)) (iv aad ct : List Nat) : List Nat :=
  let h := beNat (aesBlock ks (List.replicate 16 0))
  let g := (blocks16 aad ++ blocks16 ct ++ [8 * aad.length * 2 ^ 64 + 8 * ct.length]).foldl (fun a b => gf128 (a ^^^ b) h) 0
  xorBytes (beBytes 16 g) (aesBlock ks (iv ++ [0, 0, 0, 1]))

/-- The counter mode of GCM: encryption and decryption are the same. -/
def gcmCtr (ks : List (List Nat)) (iv bs : List Nat) : List Nat :=
  ((List.range ((bs.length + 15) / 16)).map (fun i => xorBytes ((bs.drop (16 * i)).take 16) (aesBlock ks (iv ++ beBytes 4 (i + 2))))).flatten

/-! SHA-384. -/

/-- The first 80 primes. -/
def primes80 : List Nat := (List.range 410).filter (fun n => decide (2 ≤ n) && (List.range n).all (fun d => decide (d < 2) || n % d != 0))

/-- The cube root of a number below 2^216, rounded down. -/
def cbrtNat (n : Nat) : Nat := (List.range 72).reverse.foldl (fun r i => if (r + 2 ^ i) ^ 3 ≤ n then r + 2 ^ i else r) 0

/-- The constants of the rounds: fractions of the cube roots of the first 80 primes. -/
def shaK : List Nat := primes80.map (fun p => cbrtNat (p * 2 ^ 192) % 2 ^ 64)

/-- The initial value: fractions of the square roots of the ninth to sixteenth primes. -/
def shaInit : List Nat := ((primes80.drop 8).take 8).map (fun p => Nat.sqrt (p * 2 ^ 128) % 2 ^ 64)

/-- Rotation and the sums of SHA-512. -/
def rotr64 (n x : Nat) : Nat := x / 2 ^ n + x % 2 ^ n * 2 ^ (64 - n)
def shaS (a b c x : Nat) : Nat := rotr64 a x ^^^ rotr64 b x ^^^ rotr64 c x
def shaT (a b c x : Nat) : Nat := rotr64 a x ^^^ rotr64 b x ^^^ x / 2 ^ c

/-- The 80 words of the schedule of a block, the last first. -/
def shaSched (blk : List Nat) : List Nat :=
  (List.range 64).foldl (fun w _ =>
    (shaT 19 61 6 (nth w 1 0) + nth w 6 0 + shaT 1 8 7 (nth w 14 0) + nth w 15 0) % 2 ^ 64 :: w)
    ((List.range 16).map (fun i => beNat ((blk.drop (8 * i)).take 8))).reverse

/-- One block of 128 bytes. -/
def shaBlock (hs blk : List Nat) : List Nat :=
  let out := (List.zip shaK (shaSched blk).reverse).foldl (fun (v : List Nat) kw =>
    let x (i : Nat) : Nat := nth v i 0
    let ch := (x 4 &&& x 5) ^^^ ((2 ^ 64 - 1 - x 4) &&& x 6)
    let maj := (x 0 &&& x 1) ^^^ (x 0 &&& x 2) ^^^ (x 1 &&& x 2)
    let t1 := x 7 + shaS 14 18 41 (x 4) + ch + kw.1 + kw.2
    [(t1 + shaS 28 34 39 (x 0) + maj) % 2 ^ 64, x 0, x 1, x 2, (x 3 + t1) % 2 ^ 64, x 4, x 5, x 6]) hs
  List.zipWith (fun a b => (a + b) % 2 ^ 64) hs out

/-- SHA-384: 48 bytes. -/
def sha384 (bs : List Nat) : List Nat :=
  let pad := bs ++ [0x80] ++ List.replicate ((111 + 128 - bs.length % 128) % 128) 0 ++ beBytes 16 (8 * bs.length)
  let hs := (List.range (pad.length / 128)).foldl (fun h i => shaBlock h ((pad.drop (128 * i)).take 128)) shaInit
  ((hs.take 6).map (beBytes 8)).flatten

/-- HMAC-SHA-384 under a key of at most 128 bytes. -/
def hmac384 (key msg : List Nat) : List Nat :=
  let k := key ++ List.replicate (128 - key.length) 0
  sha384 (k.map (· ^^^ 0x5C) ++ sha384 (k.map (· ^^^ 0x36) ++ msg))

/-- The first 48 bytes of HKDF-SHA-384. -/
def hkdf384 (salt ikm info : List Nat) : List Nat := hmac384 (hmac384 salt ikm) (info ++ [1])

/-! P-384. -/

/-- The field, the coefficient b, the order of the base point, and that point. -/
def ecP : Nat := 2 ^ 384 - 2 ^ 128 - 2 ^ 96 + 2 ^ 32 - 1
def ecB : Nat := 0xb3312fa7e23ee7e4988e056be3f82d19181d9c6efe8141120314088f5013875ac656398d8a2ed19d2a85c8edd3ec2aef
def ecN : Nat := 0xffffffffffffffffffffffffffffffffffffffffffffffffc7634d81f4372ddf581a0db248b0a77aecec196accc52973
def ecG : Nat × Nat :=
  (0xaa87ca22be8b05378eb1c71ef320ad746e1d3b628ba79b9859f741e082542a385502f25dbf55296c3a545e3872760ab7,
   0x3617de4a96262c6f5d9e98bf9292dc29f8f41dbd289a147ce9da3113b5f0b8c00a60b1ce1d7e819d7a431d7c90ea0e5f)

/-- `b ^ e` modulo `m`, for an exponent below 2^384. -/
def powMod (m b e : Nat) : Nat :=
  ((List.range 384).foldl (fun (r : Nat × Nat) i => (if e.testBit i then r.1 * r.2 % m else r.1, r.2 * r.2 % m)) (1, b % m)).1

/-- The point lies on the curve. -/
def ecOn (q : Nat × Nat) : Bool :=
  decide (q.1 < ecP) && decide (q.2 < ecP) && q.2 * q.2 % ecP == (q.1 * q.1 * q.1 + (ecP - 3) * q.1 + ecB) % ecP

/-- The sum of two points; none is the point at infinity. -/
def ecAdd : Option (Nat × Nat) → Option (Nat × Nat) → Option (Nat × Nat)
  | none, b => b
  | a, none => a
  | some (x1, y1), some (x2, y2) =>
    if x1 = x2 ∧ (y1 + y2) % ecP = 0 then none
    else
      let l := if x1 = x2 then (3 * x1 * x1 + ecP - 3) * powMod ecP (2 * y1) (ecP - 2) % ecP
        else (y2 + ecP - y1) * powMod ecP (x2 + ecP - x1) (ecP - 2) % ecP
      let x3 := (l * l + 2 * ecP - x1 - x2) % ecP
      some (x3, (l * (x1 + ecP - x3) + ecP - y1) % ecP)

/-- A multiple of a point. -/
def ecMul (k : Nat) (q : Nat × Nat) : Option (Nat × Nat) :=
  ((List.range 384).foldl (fun (r : Option (Nat × Nat) × Option (Nat × Nat)) i => (if k.testBit i then ecAdd r.1 r.2 else r.1, ecAdd r.2 r.2)) (none, some q)).1

/-- The ECDSA signature (r, s) of a digest verifies under a public key. -/
def ecdsaOk (q : Nat × Nat) (digest r s : Nat) : Bool :=
  if !ecOn q || r == 0 || s == 0 || decide (ecN ≤ r) || decide (ecN ≤ s) then false
  else
    let w := powMod ecN s (ecN - 2)
    match ecAdd (ecMul (digest * w % ecN) ecG) (ecMul (r * w % ecN) q) with
    | some p => p.1 % ecN == r
    | none => false

/-- A coordinate of 48 big-endian bytes packed into six words from the least significant byte up, and back (R422). -/
def coordWords (v : Nat) : List Nat := wordsOfBytes 6 (beBytes 48 v)
def wordsCoord (ws : List Nat) : Nat := beNat (bytesOfWords (ws.take 6))

end Sys2Proof.Machine
end

