-- ==== Sys2Proof/Machine/Answer.lean ====
section
/-! DEFINITION. Response entries: how the gate and the program answer a command in Q126 (R57, R60, R473). -/

namespace Sys2Proof.Machine

open Csr

/-- Base of the gate area (R60). -/
def State.gateBase (s : State) : Nat := s.pair SEQ_GATEBUF_LO

/-- A result block of the gate is written to its next slot: the block's address and the state (R60). -/
def State.gateBlock (s : State) (ws : List Nat) : Nat × State :=
  let a := s.gateBase + 32 * s.gate.slot
  let s1 := s.putWords a ws
  (a, { s1 with gate := { s1.gate with slot := (s.gate.slot + 1) % 127 } })

/-- A response block (R57). -/
def respBlock (code status : Nat) (res : List Nat) : List Nat := (code * 2 ^ 48 + 2 ^ 44 + res.length * 2 ^ 16 + status % 256) :: res

/-- A response entry. -/
def respEntry (tag status addr len : Nat) : Entry :=
  { status := status, type := 0, addr := addr, length := len, qseq := 0, stamp := 0, tag := tag }

/-- POST, TAKE and the gate's answers use the holding buffers (R60, R473). -/
def State.ansHeld (s : State) : Bool := !(s.qEn 125 && s.qEn 126)

/-- The holding buffer of the gate's answers is full: the gate judges no further entry (R60). -/
def State.gateBlocked (s : State) : Bool := s.ansHeld && decide (4 ≤ s.dbg.ansBuf.length)

/-- A response of the gate is posted on Q126, or kept in the holding buffer. -/
def State.gatePost (s : State) (e : Entry) : State :=
  if s.ansHeld then { s with dbg := { s.dbg with ansBuf := s.dbg.ansBuf ++ [{ e with stamp := s.stampAt 11 }] } }
  else s.publishEntry 126 0 e

/-- The gate answers a command without a block. -/
def State.gateAnswer (s : State) (tag status : Nat) : State := s.gatePost (respEntry tag status 0 0)

/-- The region of the program's result blocks: the spec leaves it to the program (notes/assumptions/17.md). -/
def State.progBlock (s : State) (ws : List Nat) : Nat × State :=
  if ws = [] then (0, s) else (Config.recordBase 126, s.putWords (Config.recordBase 126) ws)

/-- The program's response entry is posted on Q126; posting to a disabled Q126 does nothing (R60). -/
def State.progPost (s : State) (tag status code : Nat) (res : List Nat) : State :=
  if !s.qEn 126 then s
  else
    let b := s.progBlock (if res = [] then [] else respBlock code status res)
    b.2.publishEntry 126 1 (respEntry tag status b.1 (if res = [] then 0 else 8 * (res.length + 1)))

/-- The oldest command with a TAG awaits its response no longer. -/
def State.gateDone (s : State) (tag : Nat) : State :=
  { s with gate := { s.gate with out := s.gate.out.eraseP (fun (o : OutCmd) => o.tag == tag) } }

/-- The answer of a command whose execution has ended, unless the gate has answered it meanwhile (R435). -/
def State.lateAnswer (s : State) (tag status code : Nat) (res : List Nat) : State :=
  if s.gate.out.any (fun (o : OutCmd) => o.tag == tag) then (s.progPost tag status code res).gateDone tag else s

end Sys2Proof.Machine
end

