-- ==== Sys2Proof/Machine/Chan.lean ====
section
/-! DEFINITION. From ADC samples to compressed values: sample instants, lane correction, the slot filters, the DTS window filter, pulse
compression and the filter banks they use (R97 to R106, R108, R109). -/

namespace Sys2Proof.Machine

open Csr

/-! ADC samples (R97, R98). -/

/-- The sample taken at an instant; zero where none is kept. -/
def State.adcAt (s : State) (t : Int) : Adc :=
  let has (r : Nat × List Adc) : Bool := decide ((r.1 : Int) ≤ t) && decide (t < r.1 + 500 * (r.2.length : Nat)) && decide ((t - r.1) % 500 = 0)
  match s.rcv.adc.find? has with
  | some r => nth r.2 ((t - r.1) / 500).toNat ⟨0, 0, 0, 0⟩
  | none => ⟨0, 0, 0, 0⟩

/-- A code at a limit of the converter. -/
def clipped (c : BitVec 12) : Bool := c == 0x7FF#12 || c == 0x800#12

/-- The lanes XI, XQ, YI, YQ of a sample. -/
def laneOf (a : Adc) (l : Nat) : BitVec 12 := match l with | 0 => a.xi | 1 => a.xq | 2 => a.yi | _ => a.yq

/-- The sample clips in some lane. -/
def adcClips (a : Adc) : Bool := clipped a.xi || clipped a.xq || clipped a.yi || clipped a.yq

/-- A launch whose capture window contains a clipped sample: its frame carries OVR (R97). -/
def Launch.markClip (l : Launch) (at_ : List Nat) : Launch :=
  { l with clip := l.clip || at_.any (fun t => decide (l.start ≤ t) && decide (t < l.closes)) }

/-- Margin in ps by which filters and interpolators reach beyond a sample: 192 + 32 + 32 samples and the two delays of R100. -/
def filterReach : Nat := 137000

/-- The latest ADC samples, up to now, at the instants of R98 since those taken before; where fewer are given than instants have passed, they
are the last ones. Clipped samples count by lane and mark every frame whose window contains them; samples no launch still needs are let go (R97). -/
def State.feed (s : State) (xs : List Adc) : State :=
  let ph := s.f RCV_ADCPH 8 0 % 500
  if s.time < ph then s
  else
    let last := s.time - (s.time - ph) % 500
    let new := (last - s.rcv.adcTo + 499) / 500
    let ys := xs.drop (xs.length - new)
    if ys.isEmpty then { s with rcv := { s.rcv with adcTo := last } }
    else
      let first := last - 500 * (ys.length - 1)
      let at_ := ((ys.mapIdx (fun i y => (first + 500 * i, y))).filter (fun x => adcClips x.2)).map (·.1)
      let s1 := (List.range 4).foldl (fun st i => st.inc (RCV_CLIP i) (ys.countP (fun (y : Adc) => clipped (laneOf y i)))) s
      let s2 : State := cond (!at_.isEmpty) (·.setB RCV_STAT 28 true) s1
      let mark (l : List Launch) : List Launch := l.map (·.markClip at_)
      let live := s.lch.wins ++ s.lch.tails ++ s.lch.frames ++ s.lch.unjudged
      let from_ := live.foldl (fun m (l : Launch) => min m l.start) s.time - filterReach
      { s2 with
        rcv := { s2.rcv with adc := (s2.rcv.adc ++ [(first, ys)]).filter (fun r => decide (from_ ≤ r.1 + 500 * r.2.length)), adcTo := last },
        lch := { s2.lch with wins := mark s2.lch.wins, tails := mark s2.lch.tails, frames := mark s2.lch.frames } }

/-! Sample instants (R86, R98, R99). -/

/-- Launch time t_L in fabric ps (R86). -/
def Launch.tL (l : Launch) : Nat := l.start + l.delay

/-- The ideal instant of position 0 of a launch. -/
def State.posZero (s : State) (l : Launch) : Nat := l.tL + (s.csrRaw LCH_ZDLY).toNat + (s.csrRaw RCV_RXDLY).toNat

/-- The residual e: the nearest ADC sample instant minus the ideal one, a tie to the earlier. -/
def State.residual (s : State) (l : Launch) : Int :=
  let r := (s.posZero l + 500 - s.f RCV_ADCPH 8 0 % 500) % 500
  if r ≤ 250 then -(r : Int) else 500 - r

/-- The ADC sample instant on which position 0 is centred. -/
def State.origin (s : State) (l : Launch) : Int := (s.posZero l : Int) + s.residual l

/-! I/Q and polarisation-arm correction (R100). -/

/-- The correction registers as a launch takes them: RCV.IQA, RCV.IQB and RCV.IQC of X and Y, and RCV.POLDLY. -/
def State.iqRegs (s : State) : List Word :=
  [s.csrRaw (RCV_IQA 0), s.csrRaw (RCV_IQA 1), s.csrRaw (RCV_IQB 0), s.csrRaw (RCV_IQB 1), s.csrRaw (RCV_IQC 0), s.csrRaw (RCV_IQC 1), s.csrRaw RCV_POLDLY]

/-- Raw I and Q of a polarisation at sample `n` from an origin. -/
def State.rawIQ (s : State) (o : Int) (p : Nat) (n : Int) : Int × Int :=
  let a := s.adcAt (o + 500 * n)
  if p = 0 then (a.xi.toInt, a.xq.toInt) else (a.yi.toInt, a.yq.toInt)

/-- I and Q of one polarisation after the correction of offsets, skew, phase and gain. -/
def State.armIQ (s : State) (k : List Word) (o : Int) (p : Nat) (n : Int) : Cx :=
  let a := nth k p 0
  let c := nth k (4 + p) 0
  let phi := cisRad (((sfld a 15 0 : Int) : Rat) / 65536)
  let i1 : Rat := ((((s.rawIQ o p n).1 - sfld c 11 0 : Int)) : Rat)
  let q1 (m : Int) : Rat := (((s.rawIQ o p m).2 - sfld c 27 16 : Int) : Rat)
  let q2 := fracDelay q1 n (sfld (nth k (2 + p) 0) 9 0)
  ⟨i1, (((fld a 31 16 : Nat) : Rat) / 32768 * q2 - i1 * phi.im) / phi.re⟩

/-- The corrected sample of a polarisation, Y advanced against X, in ADC LSB. -/
def State.corrected (s : State) (l : Launch) (p : Nat) (n : Int) : Cx :=
  let o := s.origin l
  if p = 0 then s.armIQ l.iq o 0 n
  else
    let d := sfld (nth l.iq 6 0) 9 0
    ⟨fracDelay (fun m => (s.armIQ l.iq o 1 m).re) n d, fracDelay (fun m => (s.armIQ l.iq o 1 m).im) n d⟩

/-- The corrected sample against the converter's full scale. -/
def State.field (s : State) (l : Launch) (p : Nat) (n : Int) : Cx := Cx.scale (1 / 2048) (s.corrected l p n)

/-! Filter banks (R105, R106, R108, R109). -/

/-- Members A and B of a complementary pair of `2^k` chips (R105). -/
def memberSeq : Nat → List Int × List Int
  | 0 => ([1], [1])
  | k + 1 =>
    let m := memberSeq k
    (m.1 ++ m.2, m.1 ++ m.2.map (fun x => -x))

/-- Chip `i` of a member of LEN chips; 0 beyond the last. -/
def chipAt (len member i : Nat) : Int := nth (if member = 0 then (memberSeq len.log2).1 else (memberSeq len.log2).2) i 0

/-- Number of taps that Table RCV-5 gives an entry's set, per half. -/
def genTaps (a b : Word) : Nat :=
  let t := tCode a b
  if eCode a = 0 then max 1 ((t + 2000) / 4000) else ceilDiv t 4000

/-- The constant of the Taylor window, arcosh(10^(35/20)) / pi, and the square of its dilation for n-bar 4. -/
def taylorA : Rat := 1503247730600918 / 1000000000000000
def taylorS2 : Rat := 16 / (taylorA * taylorA + 49 / 4)

/-- Coefficient `m` of the Taylor window with n-bar 4 and sidelobes at -35 dB. -/
def taylorF (m : Nat) : Rat :=
  let mm : Rat := ((m * m : Nat) : Rat)
  let up := [1, 2, 3].foldl (fun (a : Rat) (n : Nat) => a * (1 - mm / (taylorS2 * (taylorA * taylorA + (((2 * n - 1) * (2 * n - 1) : Nat) : Rat) / 4)))) 1
  let dn := ([1, 2, 3].filter (· != m)).foldl (fun (a : Rat) (n : Nat) => a * (1 - mm / ((n * n : Nat) : Rat))) 1
  (if m % 2 = 1 then 1 else -1) * up / (2 * dn)

/-- The window of PCCTL.WIN at tap `k` of `n`, sampled at the centre of its interval: 0 none, 1 Hann, 2 Taylor; 3 acts as 0
(notes/assumptions/52.md). -/
def winAt (win n k : Nat) : Rat :=
  let x : Rat := ((2 * k + 1 : Nat) : Rat) / ((2 * n : Nat) : Rat)
  match win with
  | 1 => (1 - (cisTurn x).re) / 2
  | 2 => 1 + 2 * ([1, 2, 3].foldl (fun (a : Rat) m => a + taylorF m * (cisTurn (((m : Nat) : Rat) * (x - 1 / 2))).re) 0)
  | _ => 1

/-- Tap `i` of a generated set before scaling, half A from 0 and half B from 2,560 (Table RCV-5). -/
def genRaw (a b : Word) (win i : Nat) : Cx :=
  let n := genTaps a b
  let k := i % 2560
  let t : Rat := ((4000 * k + 2000 : Nat) : Rat)
  if n ≤ k ∨ (2560 ≤ i ∧ eCode a ≠ 2) then Cx.zero
  else
    match eCode a with
    | 0 => Cx.one
    | 1 =>
      let tc : Rat := ((tCode a b : Nat) : Rat)
      let turns := ((eBw b : Nat) : Rat) / 10000000 * (t - tc / 2) * (t - tc / 2) / (2 * tc)
      Cx.scale (winAt win n k) (cisTurn (if bit a 25 then turns else -turns))
    | _ => ⟨((chipAt (eLen a) (i / 2560) ((4000 * k + 2000) / (250 * max 1 (eChip b))) : Int) : Rat), 0⟩

/-- A part of a tap as the filters hold it: 18 bits signed, LSB 2^-17 (R104), rounded to the nearest (notes/assumptions/165.md). -/
def tapPart (x : Rat) : Rat := ((clampZ (-131072) 131071 (ratAway (x * 131072)) : Int) : Rat) / 131072

/-- Tap `i` of a generated set: scaled so that sum |h|^2 is 1, within 0.1 dB, with parts of 18 bits (R104, R106). -/
def genTap (a b : Word) (win i : Nat) : Cx :=
  let g := max (988553 / 1000000) (min (1011579 / 1000000) (Config.mfGain a b win))
  let h := Cx.scale (g / sqrtR (ratSum 5120 (fun k => Cx.normSq (genRaw a b win k)))) (genRaw a b win i)
  ⟨tapPart h.re, tapPart h.im⟩

/-- Word `i` of a bank that holds words, in units of 2^-17 (R108). A staging word not written since reset is 0 (DESIGN CHOICE,
notes/assumptions/166.md). -/
def Bank.word (filt : Nat) (b : Bank) (i : Nat) : Rat :=
  match b with
  | .loaded ws => ((toSigned 18 ((spGet ws i).getD 0) : Int) : Rat) / 131072
  | _ => ((toSigned 18 (ofSigned 18 (Config.factoryTap filt i)) : Int) : Rat) / 131072

/-- Tap `k` of a real, symmetric filter of `n` words, mirrored about its last word (R108). -/
def Bank.real (filt n : Nat) (b : Bank) (k : Nat) : Rat := b.word filt (if k < n then k else 2 * (n - 1) - k)

/-- Tap `i` of a matched-filter set. -/
def Bank.tap (filt : Nat) (b : Bank) (i : Nat) : Cx :=
  match b with
  | .generated x y win => genTap x y win i
  | _ => ⟨b.word filt (2 * i), b.word filt (2 * i + 1)⟩

/-- The weight of the new bank in fade frame `j` of `F` (R109). -/
def Mix.w (m : Mix) : Rat := ((m.j : Nat) : Rat) / ((m.f + 1 : Nat) : Rat)

/-- What the banks of a fade give for the frame: (1 - w) x old + w x new. -/
def Mix.blend (m : Mix) (f : Bank → Cx) : Cx := Cx.add (Cx.scale (1 - m.w) (f m.old)) (Cx.scale m.w (f m.new))

/-- A filter that applies one bank alone. -/
def Mix.only (b : Bank) : Mix := { old := b, new := b, j := 0, f := 0 }

/-- The banks applied in a slot. -/
def mixOf (l : List (Nat × Mix)) (sl : Nat) : Mix := (spGet l sl).getD (Mix.only .factory)

/-! Slot filters and the DTS window (R102, R103). -/

/-- Centre of a slot in turns per ADC sample: -600, -200, +200 and +600 MHz at 2.0 GS/s. -/
def slotTurns (sl : Nat) : Rat := match sl with | 0 => -3 / 10 | 1 => -1 / 10 | 2 => 1 / 10 | _ => 3 / 10

/-- A sample mixed down by an oscillator. -/
def State.mixed (s : State) (l : Launch) (p : Nat) (turns phase : Rat) (n : Int) : Cx := Cx.mul (s.field l p n) (cisTurn (-(turns * (n : Rat)) - phase))

/-- The slot-filter output of a slot and polarisation at position `q`: 385 taps about its sample, decimated by 8. -/
def State.slotOut (s : State) (l : Launch) (sl p : Nat) (q : Int) : Cx :=
  (mixOf l.mix0 sl).blend (fun b =>
    Cx.sum 385 (fun k => Cx.scale (b.real 0 193 k) (s.mixed l p (slotTurns sl) (Config.ncoPhase l.n sl) (8 * q + ((k : Int) - 192)))))

/-- The DTS window output of a polarisation at sample `m`, 1 ns apart from position 0: 47 taps after a mix by -400 MHz. -/
def State.dtsOut (s : State) (l : Launch) (p : Nat) (m : Int) : Cx :=
  l.mixD.blend (fun b => Cx.sum 47 (fun k => Cx.scale (b.real 1 24 k) (s.mixed l p (1 / 5) (Config.ncoPhase l.n 4) (2 * m + ((k : Int) - 23)))))

/-- The samples of a period that lie in the capture window of a launch, counted from position 0: the first, and the end. -/
def State.winRange (s : State) (l : Launch) (per : Nat) : Int × Int :=
  let cdiv (x : Int) : Int := -((-x) / (per : Int))
  (cdiv (l.start - s.origin l), cdiv (l.closes - s.origin l))

/-- The 64-bit word of a sample of both polarisations in 16 bits each, and whether a part was held at a limit (Table RCV-9). -/
def iqWord (x y : Cx) : Nat × Bool :=
  let p := [x.re, x.im, y.re, y.im].map sat16
  ((p.mapIdx (fun i v => v.1 * 2 ^ (16 * i))).foldl (· + ·) 0, p.any (·.2))

/-- A filter output as raw capture and staging carry it: saturating at 32,767 codes. -/
def iqScaled (x y : Cx) : Nat × Bool := iqWord (Cx.scale Config.rawScale x) (Cx.scale Config.rawScale y)

/-! Pulse compression (R104, R105). -/

/-- The matched-filter output y[q] of a slot and polarisation, by the half of the launch's member; samples beyond the range read as 0. -/
def State.compress (s : State) (l : Launch) (sl p : Nat) (q : Int) : Cx :=
  let u (n : Int) : Cx := if (l.range : Int) ≤ n then Cx.zero else s.slotOut l sl p n
  (mixOf l.mixM sl).blend (fun b => Cx.sum 2560 (fun k => Cx.mul (b.tap (2 + l.entry) (2560 * l.member + k)) (u (q + (k : Int)))))

/-- Compressed values of a frame by slot and position from -740, X and Y. -/
def State.compressed (s : State) (l : Launch) : List (List (Cx × Cx)) :=
  (slotsOf (eSlots l.enta)).map (fun sl => (List.range (740 + l.range)).map (fun (i : Nat) =>
    (s.compress l sl 0 ((i : Int) - 740), s.compress l sl 1 ((i : Int) - 740))))

end Sys2Proof.Machine
end

