-- ==== Sys2Proof/Machine/Dts.lean ====
section
/-! DEFINITION. Temperature frames: which launches are accumulated, LO windows and hops, spectra, the peak search and the
profile record (R138 to R151). -/

namespace Sys2Proof.Machine

open Csr

/-- READY of an LO window: that of its SYN-M slot (R341). -/
def State.winReady (s : State) (w : Nat) : Bool := s.b (CLK_MSLOT_STAT w) 31

/-- The windows of the rotation, in ascending order (R141). -/
def State.rotation (s : State) : List Nat :=
  (List.range 8).filter (fun w => s.b DTS_HOP w && s.winReady w && s.f (DTS_WIN w) 23 0 != 0)

/-- The window after `w` in the rotation. -/
def nextWindow (rot : List Nat) (w : Nat) : Nat := ((rot.find? (fun x => decide (w < x))).orElse (fun _ => rot.head?)).getD w

/-- The latest window of the rotation in force: `w` itself, or the first one where `w` takes no part. -/
def State.curWindow (s : State) : Nat := if s.rotation.contains s.dts.cur then s.dts.cur else s.rotation.headD s.dts.cur

/-- R140: the entry of a temperature launch may be accumulated. -/
def Launch.tempOk (l : Launch) : Bool :=
  let t := tCode l.enta l.entb
  eCode l.enta == 0 && decide (20000 ≤ t) && decide (t ≤ 200000) && (!bit l.plan 26 || eSlots l.enta == 2)

/-- An update of the profile in progress, the one that is not over. -/
def State.profUpd (s : State) (f : Prof → Prof) : State :=
  { s with dts := { s.dts with prof := s.dts.prof.map (fun (p : Prof) => if p.lim.isNone then f p else p) } }

/-- The profile in progress and those that have ended early carry SUSPECT. -/
def State.profSuspect (s : State) : State :=
  { s with dts := { s.dts with prof := s.dts.prof.map (fun (p : Prof) => if p.lim.isNone || p.ended then { p with suspect := true } else p) } }

/-- A profile begins with a temperature launch where none is in progress (R146). -/
def State.profStart (s : State) (l : Launch) : State :=
  if s.dts.prof.any (fun p => p.lim.isNone) then s
  else
    let p : Prof :=
      { acc := [], nacc := 0, first := 0, last := 0, nhopd := 0, nskip := 0, settle := false, clip := false, suspect := false,
        navg := max 1 (s.f DTS_ACC 23 0), fit := s.csrRaw DTS_FIT, fiba := s.csrRaw (DTS_FIBA l.port), fibb := s.csrRaw (DTS_FIBB l.port),
        fibc := s.csrRaw (DTS_FIBC l.port), fibd := s.csrRaw (DTS_FIBD l.port), plan := l.plan, range := l.range, port := l.port,
        ctl := s.csrRaw DTS_CTL, nucs := (List.range 8).map (fun w => s.f (DTS_WIN w) 23 0), lim := none, ended := false }
    { s with dts := { s.dts with prof := s.dts.prof ++ [p] } }

/-- A temperature launch is skipped: DTS.SKIP and the profile's count. -/
def State.dtsSkip (s : State) : State := (s.inc DTS_SKIP).profUpd (fun p => { p with nskip := p.nskip + 1 })

/-- A temperature launch is discarded at a hop (R142). -/
def State.dtsDiscard (s : State) : State := (s.inc DTS_HOPDISC).profUpd (fun p => { p with nhopd := p.nhopd + 1 })

/-- Does a launch whose window closes at `closes` meet the hop under way or due? -/
def State.meetsHop (s : State) (closes : Nat) : Bool :=
  match s.dts.hop with
  | .none => false
  | .hopping _ _ => true
  | .after n =>
    match s.lch.wins.find? (fun w => w.n == n) with | some w => decide (w.closes < closes) | none => true

/-- A temperature launch counts towards the dwell of the window in force; the hop is due after the last of a dwell (R142). -/
def State.dwellStep (s : State) (n : Nat) : State :=
  let d := s.dts.dwell + 1
  let last := decide (max 1 (s.f DTS_HOP 15 8) ≤ d) && decide (1 < s.rotation.length)
  { s with dts := { s.dts with cur := s.curWindow, dwell := if last then 0 else d, hop := if last then .after n else s.dts.hop } }

/-- The staging region, 32 MiB aligned, and whether it lies in DRAM (R145). -/
def State.stageBase (s : State) : Nat := s.pair DTS_BUF_LO / 0x2000000 * 0x2000000
def State.stageOk (s : State) : Bool := inDram s.stageBase 0x2000000

/-- A free half of the staging region. -/
def State.halfFree (s : State) : Option Nat :=
  if !s.stageOk then none else if s.dts.halves[0].isNone then some 0 else if s.dts.halves[1].isNone then some 1 else none

/-- A half is taken for a launch. -/
def State.takeHalf (s : State) (h n : Nat) : State :=
  { s with dts := { s.dts with halves := s.dts.halves.mapIdx (fun i v => if i = h then some n else v) } }

/-- A launch of FIBRECAL cannot be accumulated: the command fails. -/
def State.fibFail (s : State) : State := { s with dts := { s.dts with fib := s.dts.fib.map (fun f => { f with failed := true }) } }

/-- What a temperature launch does at its launch instant: the window and half it accumulates in, or none; and whether it overlaps the hop under
way or due and is discarded; one made while SYN-M is unlocked, or class VEC throttled, is skipped (R138 to R145, R347, Table MEM-2).
One of FIBRECAL's accumulates for the command whatever DTS.CTL.EN is
(DESIGN CHOICE, notes/assumptions/171.md). -/
def State.dtsLaunch (s : State) (l : Launch) : Option (Nat × Nat) × Bool × State :=
  if l.fib then
    if !s.b CLK_STAT 28 then (none, false, s.fibFail)
    else match s.dts.fib, s.halfFree with
    | some f, some h => (some (f.made / f.prof.navg, h), false, s.takeHalf h l.n)
    | _, _ => (none, false, s)
  else if !l.temp || !s.b DTS_CTL 31 then (none, false, s)
  else
    let meets := s.meetsHop l.closes || s.clk.hop.isSome
    let s0 := s.profStart l
    let s1 := if s.rotation.isEmpty || meets then s0 else s0.dwellStep l.n
    let s2 := cond meets State.dtsDiscard s1
    if !l.tempOk then (none, meets, (s2.setB DTS_STAT 30 true).dtsSkip)
    else if s.rotation.isEmpty || !s.b CLK_STAT 28 || s.stopped 5 then (none, meets, s2.dtsSkip)
    else if meets then (none, meets, s2)
    else match s.halfFree with
      | none => (none, meets, s2.dtsSkip)
      | some h => (some (s.curWindow, h), meets, s2.takeHalf h l.n)

/-- The half of a launch is freed. -/
def State.freeHalf (s : State) (n : Nat) : State :=
  { s with dts := { s.dts with halves := s.dts.halves.map (fun v => if v = some n then none else v) } }

/-- Address of sample `m` of a launch in its half of the staging region, 8 bytes a sample from the first of the capture window on. -/
def State.stageAt (s : State) (l : Launch) (half : Nat) (m : Int) : Nat := s.stageBase + half * 0x1000000 + 8 * (m - (s.winRange l 1000).1).toNat

/-- The samples of a temperature launch are all there: they are written to its half and wait for the vector engine; one in whose window a PLL
was unlocked is skipped (R145, R347). The order of I and Q within a staged sample is that of Table RCV-9 (DESIGN CHOICE, notes/assumptions/172.md). -/
def State.dtsClose (s : State) (l : Launch) : State :=
  match l.accum with
  | none => s
  | some (_, h) =>
    if l.unlocked then
      let s1 := s.freeHalf l.n
      if l.fib then s1.fibFail else s1.dtsSkip
    else
      let r := s.winRange l 1000
      let ws := (List.range (r.2 - r.1).toNat).map (fun (i : Nat) => (iqScaled (s.dtsOut l 0 (r.1 + (i : Int))) (s.dtsOut l 1 (r.1 + (i : Int)))).1)
      let s1 := s.putWords (s.stageAt l h r.1) ws
      { s1 with dts := { s1.dts with staged := s1.dts.staged ++ [{ l with stagedAt := s.up }] } }

/-- The profile in progress ends early: the launches made so far still belong to it (R146). -/
def State.dtsEnd (s : State) : State := s.profUpd (fun p => { p with lim := some s.lch.count, ended := true })

/-- DTS_HOP_START: the window of the last launch of a dwell has closed, and SYN-M hops to the next window of the rotation. Every
other temperature launch whose window is open is discarded (R142). -/
def State.hopStart (s : State) : State :=
  match s.dts.hop with
  | .after n =>
    if s.lch.wins.any (fun w => w.n == n) then s
    else
      let meets (w : Launch) : Bool := w.hops && decide (s.time < w.closes)
      let s1 : State := (s.lch.wins.filter meets).foldl (fun st w => (st.freeHalf w.n).dtsDiscard) s
      let s2 := { s1 with lch := { s1.lch with wins := s1.lch.wins.map (fun (w : Launch) => if meets w then { w with accum := none, hops := false } else w) } }
      let w := nextWindow s.rotation s.dts.cur
      if w = s.dts.cur then { s2 with dts := { s2.dts with hop := .none, dwell := 0 } }
      else
        let s3 := { s2 with dts := { s2.dts with hop := .hopping s.up w } }
        s3.setB CLK_MCUR 4 true
  | _ => s

/-- DTS_HOP_END: the hop completes and the new LO window applies (R142). -/
def State.hopEnd (s : State) : State :=
  match s.dts.hop with
  | .hopping since w =>
    if s.up ≤ since + 1500000 then
      ({ s with dts := { s.dts with hop := .none, cur := w, dwell := 0 } }).setF CLK_MCUR 4 0 w
    else s
  | _ => s

/-! Spectra (R143 to R145). -/

/-- Points of a transform under a DTS.CTL (Table DTS-2). -/
def nfft (ctl : Word) : Nat := 32 * 2 ^ fld ctl 29 28

/-- Profile positions of a range (R143), and position windows of a launch with those of the coil (R144, R145). -/
def profCount (ctl : Word) (range : Nat) : Nat := (range + fld ctl 6 0 - 1) / max 1 (fld ctl 6 0)
def winCount (ctl : Word) (range : Nat) : Nat := profCount ctl range + 583 / max 1 (fld ctl 6 0) + 1

/-- Cycles of the job of one launch: T_proc in units of 2 ns (R145, Table DTS-2). -/
def procCycles (ctl : Word) (range : Nat) : Nat := 2000 + winCount ctl range * nth [24, 44, 92, 190] (fld ctl 29 28) 0

/-- Sum of two spectra, bin by bin. -/
def addSpec : List Rat → List Rat → List Rat
  | [], b => b
  | a, [] => a
  | x :: a, y :: b => (x + y) :: addSpec a b

/-- Sum of two tables of spectra. -/
def addSpecs : List (List Rat) → List (List Rat) → List (List Rat)
  | [], b => b
  | a, [] => a
  | x :: a, y :: b => addSpec x y :: addSpecs a b

/-- The Hann weight of sample `j` of `n`, sampled at its centre (notes/assumptions/52.md). -/
def hannAt (n j : Nat) : Rat := winAt 1 n j

/-- Power by bin, bin `k` of `nf` at k mod nf, of `n` samples weighted by a Hann window, zero-padded to `nf` points and transformed (R143). -/
def powerSpec (n nf : Nat) (x : Nat → Cx) : List Rat :=
  (List.range nf).map (fun k =>
    Cx.normSq (Cx.sum n (fun j => Cx.mul (Cx.scale (hannAt n j) (x j)) (cisTurn (-(((j * k : Nat) : Rat) / ((nf : Nat) : Rat)))))))

/-- A staged sample of a polarisation; 0 outside the capture window. -/
def State.stagedAt (s : State) (l : Launch) (half p : Nat) (m : Int) : Cx :=
  let r := s.winRange l 1000
  let w := s.word64 (s.stageAt l half m)
  if m < r.1 ∨ r.2 ≤ m then Cx.zero
  else ⟨((toSigned 16 (nfld w (32 * p + 15) (32 * p)) : Int) : Rat), ((toSigned 16 (nfld w (32 * p + 31) (32 * p + 16)) : Int) : Rat)⟩

/-- The first sample of the position window of position `p`: the nearest to t_p + T_code/2 - WLEN/2 x 1 ns, the earlier on a tie (R143). -/
def State.posWindow (s : State) (l : Launch) (ctl : Word) (p : Int) : Int :=
  let x : Int := p * 4000 + (tCode l.enta l.entb / 2 : Nat) - (500 * fld ctl 19 12 : Nat) - s.residual l
  let m := (500 - x) / 1000
  0 - m

/-- The spectrum of a position window, both polarisations summed. -/
def State.posSpec (s : State) (l : Launch) (ctl : Word) (half : Nat) (p : Int) : List Rat :=
  let m0 := s.posWindow l ctl p
  let one (pol : Nat) : List Rat := powerSpec (fld ctl 19 12) (nfft ctl) (fun (j : Nat) => s.stagedAt l half pol (m0 + (j : Int)))
  addSpec (one 0) (one 1)

/-- The spectra of a launch at every profile position (R143). -/
def State.profSpecs (s : State) (l : Launch) (ctl : Word) (half : Nat) : List (List Rat) :=
  (List.range (profCount ctl l.range)).map (fun (i : Nat) => s.posSpec l ctl half (((i * fld ctl 6 0 : Nat) : Int)))

/-- The spectrum of the coil: the sum over positions -600 + j x STEP up to -17 (R144). -/
def State.coilSpec (s : State) (l : Launch) (ctl : Word) (half : Nat) : List Rat :=
  (List.range (583 / max 1 (fld ctl 6 0) + 1)).foldl (fun a (j : Nat) => addSpec a (s.posSpec l ctl half (((j * fld ctl 6 0 : Nat) : Int) - 600))) []

/-- Every window of the rotation holds NAVG launches (R146). -/
def State.profFull (s : State) (p : Prof) : Bool :=
  s.rotation.all (fun w => decide (p.navg ≤ ((p.acc.find? (fun a => a.1 == w)).map (·.2.1)).getD 0)) && !s.rotation.isEmpty

/-- Does a launch still belong to a profile? -/
def Prof.owns (p : Prof) (n : Nat) : Bool := match p.lim with | none => true | some k => decide (n < k)

/-- A launch is added to a profile, with its window and its spectra by position and bin. -/
def Prof.add (p : Prof) (l : Launch) (w : Nat) (pos : List (List Rat)) (coil : List Rat) : Prof :=
  let old := (p.acc.find? (fun a => a.1 == w)).getD (w, 0, [], [])
  { p with acc := (w, old.2.1 + 1, addSpecs old.2.2.1 pos, addSpec old.2.2.2 coil) :: p.acc.filter (fun a => a.1 != w),
           nacc := p.nacc + 1, first := if p.nacc = 0 then l.tL else p.first, last := l.tL,
           settle := p.settle || l.settle, clip := p.clip || l.clip, suspect := p.suspect || l.suspect }

/-- The oldest profile that owns a launch takes it; one that is complete with it is over (R146). -/
def State.profTake (s : State) (l : Launch) (w : Nat) (pos : List (List Rat)) (coil : List Rat) : List Prof → List Prof
  | [] => []
  | p :: ps =>
    if !p.owns l.n then p :: s.profTake l w pos coil ps
    else
      let q := p.add l w pos coil
      (if q.lim.isNone && s.profFull q then { q with lim := some (l.n + 1) } else q) :: ps

/-- The vector engine has worked in its reserved elements: what they hold is free (R160, notes/assumptions/55.md). -/
def State.dtsWrote (s : State) : State :=
  let keep (n : Nat) (l : List (Nat × Nat)) : List (Nat × Nat) := l.filter (fun x => decide (x.1 < n))
  let f := s.free
  { f.2 with vec := { f.2.vec with x := keep 57344 s.vec.x, y := keep 57344 s.vec.y, z := keep 12288 s.vec.z, dtsMark := f.1 + 1, own := [], freeAt := s.up, dtsRun := false } }

/-- The instant at which the job of a staged launch ends: T_proc after the launch is staged and the engine free for it (R145, R160). -/
def State.procEnd (s : State) (l : Launch) : Nat := max l.stagedAt s.vec.freeAt + procCycles (s.csrRaw DTS_CTL) l.range * s.islPeriod 4

/-- DTS_LAUNCH_JOB: while VEC.CTL.EN is 1 and no user job runs, the vector engine adds the spectra of the oldest staged launch, by position and
bin, and frees its half, T_proc after it took it up (R143 to R145, R160, R171); before that nothing happens. -/
def State.dtsJob (s : State) : State :=
  match s.dts.staged with
  | [] => s
  | l :: rest =>
    if s.vec.job.isSome || !(s.b VEC_CTL 31 || s.vec.dtsRun) || decide (s.up < s.procEnd l) then s
    else
      let ctl := s.csrRaw DTS_CTL
      let cyc := procCycles ctl l.range
      let s0 := ((s.freeHalf l.n).setCsr VEC_DTSCYC (BitVec.ofNat 32 cyc)).setPair VEC_BUSY_LO (s.pair VEC_BUSY_LO + cyc)
      let s1 := ({ s0 with dts := { s0.dts with staged := rest } } : State).dtsWrote
      match l.accum with
      | none => s1
      | some (w, h) =>
        let at_ := s.stageAt l h (s.winRange l 1000).1
        let s2 := s1.engineRead at_ (8 * ((s.winRange l 1000).2 - (s.winRange l 1000).1).toNat)
        let pos := s.profSpecs l ctl h
        let coil := s.coilSpec l ctl h
        if l.fib then { s2 with dts := { s2.dts with fib := s2.dts.fib.map (fun f => { f with prof := f.prof.add l w pos coil }) } }
        else
          let s3 := if s2.dts.prof.any (fun p => p.owns l.n) then s2 else s2.profStart l
          { s3 with dts := { s3.dts with prof := s3.profTake l w pos coil s3.dts.prof } }

/-! The peak search (R147). -/

/-- Bin `k` of a spectrum, `k` counted from minus half the points. -/
def binAt (spec : List Rat) (k : Int) : Rat := nth spec (if k < 0 then (spec.length : Int) + k else k).toNat 0

/-- A valid peak: shift u in kHz, width in kHz squared, and the signal-to-floor ratio (none: F is 0). -/
structure Peak where
  u : Rat
  w2 : Rat
  snr : Option Rat
  deriving DecidableEq, Repr

/-- SNR in dB units of 0.25 is at least `k - 1/2`, in exact arithmetic: x^80 ≥ 10^(2k - 1). -/
def snrAtLeastHalf (x : Rat) (k : Nat) : Bool := decide (((10 ^ (2 * k) : Nat) : Rat) ≤ x ^ 80 * 10)

/-- The SNR field: 0.25 dB units rounded to the nearest, saturating at 255. -/
def snrField (x : Option Rat) : Nat :=
  match x with
  | none => 255
  | some x => (List.range 255).countP (fun k => snrAtLeastHalf x (k + 1))

/-- An SNR is at least `m` quarters of a dB: x^40 ≥ 10^m. -/
def snrGe (x : Option Rat) (m : Nat) : Bool :=
  match x with
  | none => decide (m ≤ 255)
  | some x => decide (((10 ^ m : Nat) : Rat) ≤ x ^ 40)

/-- The peak search of one spectrum; `h` is the half-width of the band and `bw` the bin width, both in kHz. -/
def peakSearch (spec : List Rat) (h bw : Rat) (fit : Word) : Option Peak :=
  let m := (h / bw).floor
  let band := (List.range (2 * m.toNat + 1)).map (fun (i : Nat) => ((i : Int) - m))
  let f := (band.map (binAt spec)).foldl min (binAt spec 0)
  let k0 := band.foldl (fun b k => if binAt spec b < binAt spec k then k else b) (-m)
  let p (k : Int) : Rat := binAt spec k - f
  if p (k0 - 1) ≤ 0 ∨ p k0 ≤ 0 ∨ p (k0 + 1) ≤ 0 then none
  else
    let ym := 1 / p (k0 - 1)
    let y0 := 1 / p k0
    let yp := 1 / p (k0 + 1)
    let c2 := (ym - 2 * y0 + yp) / 2
    if c2 ≤ 0 then none
    else
      let d := (ym - yp) / (4 * c2)
      let ymin := y0 - c2 * d * d
      if d < -1 ∨ 1 < d ∨ ymin ≤ 0 then none
      else
        let u := ((k0 : Rat) + d) * bw
        let w2 := 4 * (ymin / c2) * bw * bw
        let snr := if f = 0 then none else some (1 / ymin / f)
        let lim (n : Nat) : Rat := ((n * 500 : Nat) : Rat)
        if u < -h ∨ h < u ∨ !snrGe snr (fld fit 31 24) ∨ w2 < lim (fld fit 23 16) * lim (fld fit 23 16)
            ∨ lim (fld fit 15 8) * lim (fld fit 15 8) < w2 then none
        else some { u := u, w2 := w2, snr := snr }

/-- Is the first SNR below the second? F = 0 stands for 63.75 dB, 10^6.375 (R147). -/
def snrLt (a b : Option Rat) : Bool :=
  let lim : Rat := ((10 ^ 255 : Nat) : Rat)
  match a, b with
  | some x, some y => decide (x < y)
  | some x, none => decide (x ^ 40 < lim)
  | none, some y => decide (lim < y ^ 40)
  | none, none => false

/-- The best valid window of a list of (window, centre in kHz, spectrum), ties to the lowest window. -/
def bestPeak (l : List (Nat × Nat × List Rat)) (h bw : Rat) (fit : Word) : Option (Nat × Rat × Peak) :=
  l.foldl (fun b x =>
    match peakSearch x.2.2 h bw fit with
    | none => b
    | some p =>
      let new := (x.1, ((x.2.1 : Nat) : Rat) - p.u, p)
      match b with
      | none => some new
      | some o => if snrLt o.2.2.snr p.snr then some new else some o) none

/-- The width field: the full width in 0.5 MHz units, rounded to the nearest: (2w)^2 against (2k - 1)^2. -/
def widthField (w2 : Rat) : Nat := (List.range 255).countP (fun k => decide ((((2 * k + 1) * 250 * ((2 * k + 1) * 250) : Nat) : Rat) ≤ w2))

/-! From shift to temperature (R148, R149). -/

/-- The result of a sentinel RTD in mK; none while it carries a fault flag. Before its first result it is the reset value of the result
register, 0 mK (DESIGN CHOICE, notes/assumptions/173.md). -/
def State.rtd (s : State) (c : Nat) : Option Int :=
  if s.b (HKC_CH_FLG c) 8 || s.b (HKC_CH_FLG c) 9 then none else some (s.sf (HKC_CH_RES c) 23 0)

/-- T_RTD in mK. -/
def State.tRtd (s : State) : Option Rat :=
  match s.rtd 16, s.rtd 17 with
  | some a, some b => some (((a + b : Int) : Rat) / 2)
  | some a, none => some (a : Rat)
  | none, some b => some (b : Rat)
  | none, none => none

/-- T in mK of a corrected shift in kHz (R149). -/
def Prof.temp (p : Prof) (nu : Rat) : Rat :=
  let ct := max 1 (fld p.fibc 31 16)
  let eps : Rat := ((fld p.fibc 15 0 : Nat) : Rat) * ((sfld p.fibd 31 0 : Int) : Rat) / 1000000
  ((sfld p.fibb 31 0 : Int) : Rat) + 10000 * (nu - ((fld p.fiba 23 0 : Nat) : Rat) - eps) / ((ct : Nat) : Rat)

/-- A position entry (Table DTS-6) and whether TEMP was held at its limit. -/
def Prof.entry (p : Prof) (o : Rat) (best : Option (Nat × Rat × Peak)) : Nat × Bool :=
  match best with
  | none => (0, false)
  | some (w, nuB, pk) =>
    let nu := nuB - o
    let t := ratAway (p.temp nu)
    let tc := clampZ (-524287) 524287 t
    (ofSigned 24 (ratAway nu) * 2 ^ 40 + ofSigned 20 tc * 2 ^ 20 + widthField pk.w2 % 256 * 2 ^ 12 + w % 8 * 2 ^ 9 + 2 ^ 8 + snrField pk.snr,
     tc != t)

/-- The record of one part of a profile (Table DTS-5). -/
def State.profRec (s : State) (p : Prof) (noref : Bool) (o nucoil : Int) (trtd : Int) (ovr : Bool) (part : Nat) (last : Bool) (first : Nat) (es : List Nat) : Rec :=
  let mask := (p.acc.map (fun a => 2 ^ a.1)).foldl (· ||| ·) 0
  let fl := b2n p.settle + (if ovr || p.clip then 8 else 0) + (if p.suspect || noref || s.phs.failed || s.flt.suspect.contains 2 then 16 else 0)
  s.mkRec 65 4 0x02 (64 + p.port)
    ([s.f DTS_PROFNUM 31 0 * 2 ^ 32 + fld p.ctl 6 0 * 2 ^ 24 + fld p.ctl 19 12 * 2 ^ 16 + part % 256 * 2 ^ 8 + b2n last * 2 ^ 7 + fld p.ctl 29 28 * 2 ^ 5,
      first * 2 ^ 32 + es.length, p.first / psPerSec % 2 ^ 32 * 2 ^ 32 + p.nacc % 2 ^ 32, stampOf p.last,
      p.nhopd % 2 ^ 32 * 2 ^ 32 + p.nskip % 2 ^ 32, ofSigned 24 nucoil * 2 ^ 40 + ofSigned 24 o * 2 ^ 16, ofSigned 32 trtd * 2 ^ 32] ++ es)
    (Config.recordBase 65) (Config.recordSize 65) 65 (flags := fl ||| s.gapFlag p.first p.last)
    (spec := b2n p.ended * 2 ^ 15 + b2n noref * 2 ^ 14 + b2n (bit p.plan 27) * 2 ^ 13 + b2n (bit p.plan 26) * 2 ^ 12 + mask % 256)
    (t := some (p.first : Int))

/-- What the spectra of a profile give (R147, R148): the offset O and whether it had no reference, the coil's peak, T_RTD, and by position the
best valid window, over the windows of the list. -/
structure ProfFit where
  o : Rat
  noref : Bool
  coil : Option (Nat × Rat × Peak)
  best : List (Option (Nat × Rat × Peak))
  deriving DecidableEq, Repr

/-- The fit of a profile over some windows. -/
def State.profFit (s : State) (p : Prof) (use : List Nat) : ProfFit :=
  let h : Rat := if bit p.plan 27 then 75000 else 200000
  let bw : Rat := 1000000 / ((nfft p.ctl : Nat) : Rat)
  let wins := use.filterMap (fun w => p.acc.find? (fun a => a.1 == w))
  let nuc (w : Nat) : Nat := nth p.nucs w 0
  let coil := bestPeak (wins.map (fun a => (a.1, nuc a.1, a.2.2.2))) h bw p.fit
  let o : Rat :=
    if !bit p.ctl 30 then 0
    else match coil, s.tRtd with
      | some (_, nc, _), some t => nc - (((s.f DTS_COILNU 23 0 : Nat) : Rat) + ((s.f DTS_COILCT 15 0 : Nat) : Rat) / 10 * (t - 40000) / 1000)
      | _, _ => s.dts.o
  { o := o, noref := bit p.ctl 30 && (coil.isNone || s.tRtd.isNone), coil := coil,
    best := (List.range (profCount p.ctl p.range)).map (fun i => bestPeak (wins.map (fun a => (a.1, nuc a.1, nth a.2.2.1 i []))) h bw p.fit) }

/-- DTS_PROFILE_POST: a profile that is complete or ended is fitted over the windows of the rotation and posted; one without an accumulated
launch is not posted (R146 to R151). NU, OFFSET, COILNU and TRTD are rounded to the nearest, halves away from 0 (DESIGN CHOICE,
notes/assumptions/174.md). -/
def State.profPost (s : State) : State :=
  match s.dts.prof with
  | [] => s
  | p :: rest =>
    if p.lim.isNone || (s.dts.staged ++ s.lch.tails ++ s.lch.wins).any (fun l => l.accum.isSome && !l.fib && p.owns l.n) then s
    else
      let done (st : State) : State := { st with dts := { st.dts with prof := rest } }
      if p.nacc = 0 then done s
      else
        let r := s.profFit p s.rotation
        let es := r.best.map (p.entry r.o)
        let trtd := match s.tRtd with | some t => ((ratAway t), s) | none => ((s.free.1 : Int), s.free.2)
        let nucoil := match r.coil with | some (_, nc, _) => ratAway nc | none => 0
        let parts := chunks (es.length + 1) 65525 (es.map (·.1))
        let s1 := (parts.mapIdx (fun i x => (i, x))).foldl (fun st ip =>
          st.publish (st.profRec p r.noref (ratAway r.o) nucoil trtd.1 (es.any (·.2)) ip.1 (ip.1 + 1 == parts.length) (ip.1 * 65525 * fld p.ctl 6 0) ip.2)) trtd.2
        let s2 := ((s1.incMod DTS_PROFNUM).bump 0xA3 1).result DTS_REFRES DTS_REFFLG (ofSigned 24 (ratAway r.o)) (if r.noref then 4 else 0)
        let out : ProfOut := { port := p.port, num := s.f DTS_PROFNUM 31 0, last := p.last, step := fld p.ctl 6 0,
                               temps := (es.map (·.1)).map (fun w => (toSigned 20 (nfld w 39 20), w.testBit 8)) }
        done { s2 with dts := { s2.dts with o := r.o, profs := out :: s2.dts.profs.filter (fun (x : ProfOut) => x.port != p.port) } }

/-! Registers with a rule of their own. -/

/-- DTS.CTL: WLEN above NFFT points and STEP outside 1 to 64 make the write void with CFGERR (R144). A WLEN below the 16 of
Table DTS-8 is stored: R144 does not name it (DESIGN CHOICE, notes/assumptions/175.md). -/
def State.writeDtsCtl (s : State) (v : Word) : State :=
  let wlen := fld v 19 12
  if 32 * 2 ^ fld v 29 28 < wlen ∨ fld v 6 0 = 0 ∨ 64 < fld v 6 0 then s.setB DTS_STAT 31 true
  else s.writeReg DTS_CTL v

/-- A SYN-M search of a slot is asked for: SEARCH 1, READY 0; one already running for it starts again (R341). -/
def State.searchSlot (s : State) (n f : Nat) : State :=
  let s1 := ((s.setPair (CLK_MSLOT_FREQ_LO n) f).setB (CLK_MSLOT_STAT n) 31 false).setB (CLK_MSLOT_STAT n) 30 true
  { s1 with clk := { s1.clk with search := if s.clk.search = some n then none else s.clk.search } }

/-- DTS.WIN[w]: 0 marks the window unused, a value in range is set and its band search starts, any other is ignored with
CFGERR (R141). -/
def State.writeDtsWin (s : State) (w : Nat) (v : Word) : State :=
  let nuc := fld v 23 0
  if nuc ≠ 0 ∧ (nuc < 8900000 ∨ 11400000 < nuc) then s.setB DTS_STAT 31 true
  else
    let s1 := s.writeReg (DTS_WIN w) v
    if s.chanStopped && decide (nuc ≠ 0) then s1.searchSlot w (nuc * 1000 + 600000000) else s1

end Sys2Proof.Machine
end

