-- ==== Sys2Proof/Machine/Route.lean ====
section
/-! DEFINITION. What the module names itself on the fabric, its own LSA, and routes (R290, R294, R297). -/

namespace Sys2Proof.Machine

open Csr

/-- Port `p` carries fabric frames: state UP in fabric mode (Table FAB-5). -/
def State.portUp (s : State) (p : Nat) : Bool := s.f (FAB_PORT_STAT p) 31 29 == 5

/-- Serial number of the module. -/
def State.serial (s : State) : Nat := s.pair SEC_SERIAL_LO

/-- The identifier a module names in its PHER and LSA: the one claimed, else the one held, else 0. -/
def State.namedDev (s : State) : Nat := match s.fab.claim with | some c => c.1 | none => if s.b FAB_ID 30 then s.dev else 0

/-- COST of a port. -/
def State.fcost (s : State) (p : Nat) : Nat := max 1 (s.f (FAB_PORT_CFG p) 19 16)

/-- This module's own LSA. -/
def State.ownLsa (s : State) : Lsa :=
  { dev := s.namedDev, claim := s.fab.claim.isSome, fixed := !s.b FAB_ID 31, instar := s.flt.instar,
    seq := (s.csrRaw FAB_LSASEQ).toNat, serial := s.serial,
    links := ((List.range 8).filter (fun p => s.portUp p)).map (fun p => (p, s.f (FAB_PORT_STAT p) 9 0, s.f (FAB_PORT_STAT p) 15 13, s.fcost p)),
    heard := s.up }

/-! Routes (R297). -/

/-- A route: device, cost, links, neighbour and port of the first hop. -/
abbrev Route := Nat × Nat × Nat × Nat × Nat

/-- A route is better than another to the same device. -/
def routeLt (a b : Route) : Bool :=
  decide (a.2.1 < b.2.1) || (a.2.1 == b.2.1 && (decide (a.2.2.1 < b.2.2.1) || (a.2.2.1 == b.2.2.1 &&
    (decide (a.2.2.2.1 < b.2.2.2.1) || (a.2.2.2.1 == b.2.2.2.1 && decide (a.2.2.2.2 < b.2.2.2.2))))))

/-- A table with one more route considered. -/
def routePut : List Route → Route → List Route
  | [], r => [r]
  | x :: t, r => if x.1 = r.1 then (if routeLt r x then r :: t else x :: t) else x :: routePut t r

/-- The links both ends list: from, port, to, cost. -/
def State.edges (s : State) : List (Nat × Nat × Nat × Nat) :=
  let own := s.ownLsa
  let db := own :: s.fab.lsdb.filter (fun (a : Lsa) => a.dev != own.dev)
  db.flatMap (fun (a : Lsa) => a.links.filterMap (fun (l : Nat × Nat × Nat × Nat) =>
    match (db.find? (fun (b : Lsa) => b.dev == l.2.1)) with
    | none => none
    | some b => (b.links.find? (fun (m : Nat × Nat × Nat × Nat) => m.1 == l.2.2.1 && m.2.1 == a.dev && m.2.2.1 == l.1)).map
        (fun m => (a.dev, l.1, l.2.1, max l.2.2.2 m.2.2.2))))

/-- One more link on every route. -/
def routeStep (own : Nat) (es : List (Nat × Nat × Nat × Nat)) (tab : List Route) : List Route :=
  es.foldl (fun acc (e : Nat × Nat × Nat × Nat) =>
    if e.2.2.1 = own then acc
    else match tab.find? (fun (r : Route) => r.1 == e.1) with
      | none => acc
      | some r => routePut acc (e.2.2.1, r.2.1 + e.2.2.2, r.2.2.1 + 1, r.2.2.2.1, r.2.2.2.2)) tab

/-- `n` such steps. -/
def routeIter (own : Nat) (es : List (Nat × Nat × Nat × Nat)) : Nat → List Route → List Route
  | 0, t => t
  | n + 1, t => routeIter own es n (routeStep own es t)

/-- The routes to every device within 16 links. -/
def State.routes (s : State) : List Route :=
  let es := s.edges
  let first := (es.filter (fun (e : Nat × Nat × Nat × Nat) => e.1 == s.dev && e.2.2.1 != s.dev)).map (fun e => ((e.2.2.1, e.2.2.2, 1, e.2.2.1, e.2.1) : Route))
  routeIter s.dev es 15 (first.foldl routePut [])

/-- The route to a device. -/
def State.route (s : State) (d : Nat) : Option Route := if !s.b FAB_ID 30 then none else s.routes.find? (fun (r : Route) => r.1 == d)

/-- The first-hop port to a device. -/
def State.hopPort (s : State) (d : Nat) : Option Nat := (s.route d).map (fun r => r.2.2.2.2)

end Sys2Proof.Machine
end

