-- ==== Sys2Proof/Machine/Tim.lean ====
section
/-! DEFINITION. Fabric time: exchanges, the servo, the time root, references and the asymmetry of links (R260 to R272). -/

namespace Sys2Proof.Machine

open Csr

/-- TIM.STAT.STATE: 0 FREE, 1 ACQUIRE, 2 LOCKED, 3 HOLDOVER. -/
def State.timState (s : State) : Nat := s.f TIM_STAT 31 30

/-- A time state is entered. -/
def State.setTimState (s : State) (n : Nat) : State :=
  let s1 := s.setF TIM_STAT 31 30 n
  { s1 with tim := { s1.tim with okSince := none } }

/-- This module holds the root role. -/
def State.isRoot (s : State) : Bool := match s.flt.roles[0]? with | some x => x.held | none => false

/-- A port's time transfer. -/
def State.ptime (s : State) (p : Nat) : PortTime := s.tim.ports[p % 8]'(by omega)
def State.ptimeUpd (s : State) (p : Nat) (f : PortTime → PortTime) : State := { s with tim := { s.tim with ports := vmod s.tim.ports p f } }

/-- A port's asymmetry. -/
def State.asyOf (s : State) (p : Nat) : AsySt := s.tim.asy[p % 8]'(by omega)
def State.asyUpd (s : State) (p : Nat) (f : AsySt → AsySt) : State := { s with tim := { s.tim with asy := vmod s.tim.asy p f } }

/-- The applied a of a port: A0 while its computation is off (R269). -/
def State.asyApplied (s : State) (p : Nat) : Rat :=
  if s.b (TIM_ASY_CFG p) 31 then (s.asyOf p).applied else (((s.csrRaw (TIM_ASY_A0 p)).toInt : Int) : Rat)

/-- The parent port: where a path to the root that this module knows exists, the UP port with the fewest hops to it, the lower one at a tie
(R263, R290, R297). -/
def State.parentPort (s : State) : Option Nat :=
  match s.roleDev 0 with
  | none => none
  | some r =>
    if s.isRoot || (s.hopPort r).isNone then none
    else
      ((List.range 8).filterMap (fun p =>
        if s.portUp p then ((s.ptime p).peer.bind (fun x => if x.2.2.2.1 = r ∧ x.2.2.1 < 16 then some (p, x.2.2.1) else none)) else none)).foldl
        (fun b x => match b with | some (y : Nat × Nat) => if x.2 < y.2 then some x else b | none => some x) none |>.map (fun x => x.1)

/-- PARENT, NOPARENT, HOPS, ROOT, ROOTHOLD and ROOTID follow the parent. -/
def State.timParent (s : State) : State :=
  let s1 := s.setB TIM_STAT 29 s.isRoot
  match s.parentPort with
  | none =>
    let s2 := ((s1.setF TIM_STAT 22 20 0).setB TIM_STAT 19 true).setF TIM_STAT 4 0 0
    if s.isRoot then (s2.setB TIM_STAT 28 (s.timState == 3)).setCsr TIM_ROOTID (BitVec.ofNat 32 (s.dev * 2 ^ 16 +
        (match s.flt.roles[0]? with | some x => x.epoch | none => 0) % 65536)) else s2
  | some p =>
    match (s.ptime p).peer with
    | none => s1
    | some x => (((((s1.setF TIM_STAT 22 20 p).setB TIM_STAT 19 false).setF TIM_STAT 4 0 (x.2.2.1 + 1)).setB TIM_STAT 28 x.2.1)).setCsr TIM_ROOTID
        (BitVec.ofNat 32 (x.2.2.2.1 % 1024 * 2 ^ 16 + x.2.2.2.2 % 65536))

/-- TIM.SERVO: STEPTHR in ps, BW. -/
def State.stepThr (s : State) : Nat := s.f TIM_SERVO 31 16 * 1000
def State.servoBw (s : State) : Nat := max 1 (s.f TIM_SERVO 7 0)

/-- The count becomes `t`; the next superframe is the first that begins from there on (R194); a lnch whose stamp the change passes is refused as
late: it launches nothing and FLAGS.T is set (R46, R265; its status was given before, DEDUCED,
notes/assumptions/177.md). -/
def State.timeTo (s : State) (t : Nat) : State :=
  let late (l : Lnch) : Bool := decide (l.start < t)
  let s1 := cond (s.lch.lnch.any late) (·.sticky 4) s
  { s1 with time := t, lch := { s1.lch with lnch := s1.lch.lnch.filter (fun (l : Lnch) => !late l) },
            fel := { s1.fel with sfNext := (t + 206249) / 206250 } }

/-- The counter steps by `-θ` (R265). -/
def State.stepTime (s : State) (theta : Int) : State := (s.setB TIM_STAT 25 true).timeTo ((s.time : Int) - theta).toNat

/-- The correction applied at this instant: it approaches the one asked for by at most 1e-9 per ms, which is one unit of TIM.FREQ per us (R337). -/
def State.freqNow (s : State) : Int :=
  let n : Int := (((s.up - s.tim.freqAt) / us : Nat) : Int)
  s.tim.freq + clampZ (-n) n (s.tim.freqReq - s.tim.freq)

/-- The correction the servo asks for: in ACQUIRE, the exchange that enters it included, in the modes that do not step, within SLEWMAX (R265). -/
def State.servoReq (s : State) (theta : Int) : Int :=
  let req := Config.servoFreq s.tim.theta theta s.servoBw
  let top : Int := ((s.f TIM_SERVO 15 8 * 100000 : Nat) : Int)
  if (s.timState ≠ 2 || decide (s.stepThr < theta.natAbs)) && (s.mode == .armed || s.mode == .run || s.mode == .moult) then clampZ (-top) top req else req

/-- The servo takes an offset to its reference: filter, frequency held within 8.0 ppm (R337), states, and a step where R265 allows one. -/
def State.servo (s : State) (theta : Int) : State :=
  let f := Config.servoTheta s.tim.theta theta s.servoBw
  let req := s.servoReq theta
  let lim := decide (8000000 < req.natAbs)
  let s' : State := { s.result TIM_OFFS TIM_OFFSFLG (ofSigned 24 f) 0 with
    tim := { s.tim with freq := s.freqNow, freqAt := s.up, freqReq := clampZ (-8000000) 8000000 req } }
  let s0 := if lim && !s.b CLK_STAT 21 then (s'.setB CLK_STAT 21 true).alarm 1 CLK_STAT 21 else s'
  let s1 : State := { s0 with tim := { s0.tim with theta := f, heard := s.up } }
  let s2 := if s.timState = 0 ∨ s.timState = 3 then s1.setTimState 1 else if s.timState = 2 ∧ s.stepThr < theta.natAbs then s1.setTimState 1 else s1
  let step := s2.timState == 1 && (s.mode == .startup || s.mode == .idle) && decide (s.stepThr < theta.natAbs)
  let s3 := if step then s2.stepTime theta else s2
  { s3 with tim := { s3.tim with okSince := if f.natAbs ≤ 100 && s3.timState == 1 && !step then some (s3.tim.okSince.getD s.up) else none } }

/-- TIMEX: an exchange on port `p` (R263, R290). -/
def State.timex (s : State) (p xseq rxseq txprev rxlast : Nat) (peer : Nat × Bool × Nat × Nat × Nat) : State :=
  let k := s.ptime p
  if !s.portUp p then s else
  let s1 := (s.ptimeUpd p (fun x => { x with got := ((xseq, s.time) :: x.got).take 64, peer := some peer })).timParent
  match k.got.find? (fun (g : Nat × Nat) => (g.1 + 1) % 2 ^ 32 == xseq), k.sent.find? (fun (g : Nat × Nat) => g.1 == rxseq) with
  | some t2, some t3 =>
    let a : Int := (t2.2 : Int) - (stampTime s.time txprev : Nat)
    let b : Int := (stampTime s.time rxlast : Nat) - (t3.2 : Int)
    let d2 := a + b
    let theta : Int := ratRound (((a - b : Int) : Rat) / 2 - s.asyApplied p)
    if k.ds ≠ [] ∧ 200 < (2 * d2 - twiceMedian k.ds).natAbs then s1.inc (TIM_LINK_REJ p)
    else
      let s2 := ((s1.setCsr (TIM_LINK_DLY p) (BitVec.ofInt 32 (ratRound ((d2 : Rat) / 2)))).setCsr (TIM_LINK_OFS p) (BitVec.ofInt 32 theta)).ptimeUpd p
        (fun x => { x with ds := (d2 :: x.ds).take 64 })
      if s2.parentPort = some p ∧ s.b TIM_CTL 31 then s2.servo theta else s2
  | _, _ => s1

/-- TIM.CTL.XLOG in force. -/
def State.xlog (s : State) : Nat := clampN 4 12 (s.f TIM_CTL 19 16)

/-- PARENT_EXCHANGE_LOSS: LOCKED without an accepted parent exchange for 100 ms. -/
def State.parentLoss (s : State) : State :=
  if s.timState = 2 ∧ !s.isRoot ∧ s.tim.heard + 100 * ms ≤ s.up then s.setTimState 3 else s

/-- LOCKED_TIMER: within 100 ps for 10 s. -/
def State.lockedTimer (s : State) : State :=
  match s.tim.okSince with
  | some t => if s.timState = 1 ∧ t + 10 * psPerSec ≤ s.up then s.setTimState 2 else s
  | none => s


/-! The root (R267, R268). -/

/-- PTP is an enabled reference: FAB.PTP.CFG.EN, and LOCK (R313). -/
def State.ptpOk (s : State) : Bool := s.b FAB_PTP_CFG 31 && s.b FAB_PTP_STAT 30

/-- The references of the root: some enabled, some valid, and a valid one that holds the second boundary. -/
def State.refEnabled (s : State) : Bool := s.b TIM_CTL 29 || s.b TIM_CTL 28 || s.ptpOk
def State.refValid (s : State) : Bool := (s.b TIM_CTL 29 && s.b TIM_STAT 27) || (s.b TIM_CTL 28 && s.b TIM_STAT 26) || s.ptpOk
def State.boundaryHeld (s : State) : Bool := !s.b TIM_CTL 29 || s.b TIM_STAT 27 || s.ptpOk

/-- The root's time state follows its references; CTL.EN 0 holds it (Table TIM-1, R267, Table TIM-7). -/
def State.rootEval (s : State) : State :=
  if !s.isRoot then s
  else
    let lost := (s.refEnabled && !s.refValid) || !s.boundaryHeld
    let st := s.timState
    let s1 := if !s.b TIM_CTL 31 then s
      else if lost then (if st = 1 ∨ st = 2 then s.setTimState 3 else s)
      else if s.tim.firstSet && !s.b TIM_CTL 29 && !s.b TIM_CTL 28 && st != 2 then s.setTimState 2
      else if st = 3 then s.setTimState 1
      else if st = 0 ∧ s.refValid then s.setTimState 1
      else s
    s1.timParent

/-- TIM.CTL: with EN 0 the module runs free and STATE is held at FREE or HOLDOVER; the root judges its references anew. -/
def State.writeTimCtl (s : State) (v : Word) : State :=
  let s1 := s.writeReg TIM_CTL v
  if bit v 31 then s1.rootEval else if s1.timState = 2 then s1.setTimState 3 else if s1.timState = 1 then s1.setTimState 0 else s1

/-- How far the own count lies after the second boundary that a 1PPS_IN edge of this instant marks: the edge plus PPSDLY is the boundary (R267). -/
def State.ppsOffset (s : State) : Int :=
  let d := ((s.time : Int) + (s.csrRaw TIM_PPSDLY).toInt) % (psPerSec : Nat)
  if 2 * d < (psPerSec : Nat) then d else d - (psPerSec : Nat)

/-- The second boundaries of this module's count are set: its own first second is, or it has been steered to a root (R266, R267). -/
def State.secondsSet (s : State) : Bool := s.tim.firstSet || decide (2 ≤ s.timState)

/-- PPS_EDGE: a 1PPS_IN edge comes, or is missing where it was expected (R268). The root steers to a good edge of a valid 1PPS_IN (R267). -/
def State.ppsEdge (s : State) (present : Bool) : State :=
  let off := if present then some s.ppsOffset else none
  let win := max 1 (s.f TIM_PPSWIN 15 0) * 1000
  let good := match off with | some d => decide (d.natAbs ≤ win) || !s.secondsSet | none => false
  let g := if good then s.tim.ppsGood + 1 else 0
  let b := if good then 0 else s.tim.ppsBad + 1
  let s1 : State := { s with tim := { s.tim with ppsGood := g, ppsBad := b } }
  let s2 := if decide (3 ≤ g) || (good && !s.secondsSet) then s1.setB TIM_STAT 27 true
    else if 3 ≤ b ∧ s.secondsSet then s1.setB TIM_STAT 27 false else s1
  let s3 := s2.rootEval
  match off with
  | some d => if good ∧ s.isRoot ∧ s.b TIM_CTL 29 ∧ s.b TIM_CTL 31 ∧ s2.b TIM_STAT 27 ∧ s.secondsSet then s3.servo d else s3
  | none => s3

/-- REF10M_IN is valid: `n` of its cycles come in 100 ms, within 5 ppm of 1,000,000 (R268). -/
def refGood (n : Nat) : Bool := decide (999995 ≤ n) && decide (n ≤ 1000005)

/-- REF10M_CHANGE: a window of 100 ms ends in which REF10M_IN gave `n` cycles. -/
def State.refChange (s : State) (n : Nat) : State :=
  ({ (s.setB TIM_STAT 26 (refGood n)) with pin := { s.pin with ref10m := refGood n } }).rootEval

/-- ROOT_SECOND_BOUNDARY: in FREE or ACQUIRE the root gives the count in TIM.NEXTSEC to this boundary; to a boundary that is its own
count it has no offset. A write in the same cycle applies to the following boundary. -/
def State.rootBoundary (s : State) : State :=
  if !s.isRoot ∨ (s.timState ≠ 0 ∧ s.timState ≠ 1) then s
  else
    let now := s.tim.nextPend && decide (s.tim.nextAt / tick < s.up / tick)
    let s1 : State := if now then s.timeTo ((s.csrRaw TIM_NEXTSEC).toNat * psPerSec) else s
    let set := s.tim.firstSet || now
    let s2 : State := { s1 with tim := { s1.tim with firstSet := set, nextPend := s.tim.nextPend && !now } }
    let s3 := if !s.b TIM_CTL 31 then s2
      else if set && !s.b TIM_CTL 29 && !s.b TIM_CTL 28 then (s2.setTimState 2).timParent
      else if set && s.timState == 0 then (s2.setTimState 1).timParent else s2
    if s3.timState = 1 && !(s.b TIM_CTL 29 && s.b TIM_STAT 27) && !s.ptpOk then
      { s3 with tim := { s3.tim with okSince := some (s3.tim.okSince.getD s.up) } }
    else s3

/-- NEXTSEC_WRITE: kept for the next boundary; in LOCKED or HOLDOVER a differing count is not applied and is reported. -/
def State.writeNextsec (s : State) (v : Word) (lease : Bool) : State :=
  let s1 := s.writeReg TIM_NEXTSEC v lease
  if !lease then s1
  else if s.timState = 2 ∨ s.timState = 3 then
    if v.toNat = (s.sec32 + 1) % 2 ^ 32 then s1 else (s1.setB TIM_STAT 24 true).alarm 1 TIM_STAT 24
  else { s1 with tim := { s1.tim with nextPend := true, nextAt := s.up } }

/-- The root role is taken or lost: a module that takes it keeps its time, whose seconds are set where it was steered; without a holder every module
enters HOLDOVER (R267). -/
def State.rootTake (s : State) : State :=
  (({ s with tim := { s.tim with firstSet := s.secondsSet } } : State).rootEval).timParent
def State.rootLapse (s : State) : State := (if s.timState = 2 ∨ s.timState = 1 then s.setTimState 3 else s).timParent

/-! Link asymmetry (R269 to R271). -/

/-- Position spacing in metres. -/
def State.posSpacing (s : State) : Rat := 599584916 / ((1000 * max 1 (s.f PHS_GIDX 20 0) : Nat) : Rat)

/-- I and VALIDPM of R269 over the entries of a profile in a range; none where no entry lies in it. -/
def State.asyIntegral (s : State) (p : ProfOut) (first last : Nat) (tref : Int) : Option (Rat × Nat) :=
  let es := ((p.temps.mapIdx (fun i x => (i * p.step, x))).filter (fun (x : Nat × Int × Bool) => decide (first ≤ x.1) && decide (x.1 ≤ last))).map (fun x => x.2)
  let valid := es.filter (fun (x : Int × Bool) => x.2)
  if es.isEmpty then none
  else
    let tm : Rat := if valid.isEmpty then 0 else ((valid.foldl (fun n (x : Int × Bool) => n + x.1) (0 : Int) : Int) : Rat) / (valid.length : Nat)
    some (es.foldl (fun (t : Rat) (x : Int × Bool) => t + ((if x.2 then ((x.1 : Int) : Rat) else tm) - (tref : Int)) * (p.step : Nat) * s.posSpacing) 0,
          1000 * valid.length / es.length)

/-- The applied a moves towards its target by at most SLEW ps a second (R269). -/
def State.asyMove (s : State) (p : Nat) : State :=
  let a := s.asyOf p
  let m : Rat := ((max 1 (s.f (TIM_ASY_LIM p) 15 0) * (s.up - a.slewAt) : Nat) : Rat) / ((psPerSec : Nat) : Rat)
  let d := a.target - a.applied
  let d' := if m < d then m else if d < -m then -m else d
  let s1 := s.asyUpd p (fun x => { x with applied := a.applied + d', slewAt := s.up })
  s1.setCsr (TIM_LINK_ASYAPP p) (BitVec.ofInt 32 (ratRound (s1.asyApplied p)))

/-- A register of the asymmetry block: enabling starts from the a in force, A0 (R269). -/
def State.writeAsy (s : State) (p a : Nat) (v : Word) : State :=
  let a0 : Rat := (((s.csrRaw (TIM_ASY_A0 p)).toInt : Int) : Rat)
  let s1 := s.writeReg a v
  let s2 := if !s.b (TIM_ASY_CFG p) 31 && s1.b (TIM_ASY_CFG p) 31 then s1.asyUpd p (fun _ => { target := a0, applied := a0, slewAt := s.up, last := none, subAt := none, subSince := some s.up, stale := false })
    else s1
  s2.setCsr (TIM_LINK_ASYAPP p) (BitVec.ofInt 32 (ratRound (s2.asyApplied p)))

/-- A new integral gives a new target (R269). -/
def State.asyTarget (s : State) (p : Nat) (i : Rat) (pm last : Nat) : State :=
  let s1 := (s.asyMove p).setF (TIM_ASY_STAT p) 9 0 pm
  if pm < 500 then s1
  else
    let th : Rat := (((s.csrRaw (TIM_ASY_KA p)).toInt : Int) : Rat) * i / 1000000000
    let top : Rat := ((s.f (TIM_ASY_LIM p) 31 16 : Nat) : Rat)
    let ovr := decide (top < th) || decide (th < -top)
    let th' := if top < th then top else if th < -top then -top else th
    let s2 := cond ovr (·.setB (TIM_ASY_STAT p) 29 true) (s1.setB (TIM_ASY_STAT p) 31 true)
    s2.asyUpd p (fun a => { a with target := (((s.csrRaw (TIM_ASY_A0 p)).toInt : Int) : Rat) + th', last := some last, stale := false })

/-- ASY_UPDATE: this module's latest profile of the port's SENSE gives a new target. -/
def State.asyUpdate (s : State) (p : Nat) : State :=
  if !s.b (TIM_ASY_CFG p) 31 || s.b (TIM_ASY_CFG p) 30 then s
  else
    match s.dts.profs.find? (fun (x : ProfOut) => x.port == s.f (TIM_ASY_CFG p) 29 28) with
    | none => s
    | some pr =>
      match s.asyIntegral pr (s.f (TIM_ASY_FIRST p) 17 0) (s.f (TIM_ASY_LAST p) 17 0) (s.csrRaw (TIM_ASY_TREF p)).toInt with
      | none => s.setB (TIM_ASY_STAT p) 28 true
      | some r => s.asyTarget p r.1 r.2 pr.last

/-- TSUB received: a subscription to this module's profiles. -/
def State.tsubMsg (s : State) (x : TSubscr) : State :=
  { s with tim := { s.tim with subs := s.tim.subs.filter (fun (y : TSubscr) => !(y.dev == x.dev && y.sense == x.sense && y.first == x.first && y.last == x.last)) ++ [x] } }

/-- TSUB sent for port `p` every 60 s while REMOTE is 1. -/
def State.tsubSend (s : State) (p : Nat) : State :=
  let due := match (s.asyOf p).subAt with | some t => decide (t + 60 * psPerSec ≤ s.up) | none => true
  if !s.b (TIM_ASY_CFG p) 31 || !s.b (TIM_ASY_CFG p) 30 || !due then s
  else
    (s.asyUpd p (fun a => { a with subAt := some s.up })).send (s.f (TIM_ASY_CFG p) 25 16) 2 1
      [0x20 * 2 ^ 56 + s.f (TIM_ASY_CFG p) 29 28 * 2 ^ 54 + s.dev * 2 ^ 32, s.f (TIM_ASY_FIRST p) 17 0 * 2 ^ 46 + s.f (TIM_ASY_LAST p) 17 0 * 2 ^ 28,
       (s.csrRaw (TIM_ASY_TREF p)).toNat, 0]

/-- ASY_SLEW: the applied a moves, and a TSUB that is due goes out. -/
def State.asySlew (s : State) (p : Nat) : State := (s.asyMove p).tsubSend p

/-- TINT: the integral of a remote profile. -/
def State.tintMsg (s : State) (sense dev last : Nat) (i : Int) (pm : Nat) : State :=
  (List.range 8).foldl (fun st p =>
    if st.b (TIM_ASY_CFG p) 31 && st.b (TIM_ASY_CFG p) 30 && st.f (TIM_ASY_CFG p) 29 28 == sense && st.f (TIM_ASY_CFG p) 25 16 == dev
      then (st.asyUpd p (fun a => { a with subSince := some st.up })).asyTarget p ((i : Int) : Rat) pm (stampTime st.time last) else st) s

/-- The owner answers a profile it has completed with TINTs (R270). -/
def State.tintAll (s : State) (port : Nat) : State :=
  match s.dts.profs.find? (fun (x : ProfOut) => x.port == port) with
  | none => s
  | some pr =>
    s.tim.subs.foldl (fun st (x : TSubscr) =>
      if x.sense ≠ port then st
      else match st.asyIntegral pr x.first x.last x.tref with
        | none => st
        | some r => st.send x.dev 2 1 [0x21 * 2 ^ 56 + port * 2 ^ 54 + s.dev * 2 ^ 32 + pr.num % 2 ^ 32, stampOf pr.last, ofSigned 64 (ratRound r.1), r.2]) s

/-- PROFILE_AGE_EXPIRY: the profile last used is older than AGE, and under REMOTE no TINT has come for AGE (R270, R271). -/
def State.profileAge (s : State) (p : Nat) : State :=
  let age := max 1 (s.f (TIM_ASY_CFG p) 15 0) * psPerSec
  if !s.b (TIM_ASY_CFG p) 31 then s
  else
    let dry := s.b (TIM_ASY_CFG p) 30 && (match (s.asyOf p).subSince with | some t => decide (t + age < s.up) | none => false)
    let s1 := cond dry (·.setB (TIM_ASY_STAT p) 28 true) s
    match (s.asyOf p).last with
    | none => s1
    | some t =>
      if t + age < s.time ∧ !(s.asyOf p).stale then
        (((s1.asyMove p).setB (TIM_ASY_STAT p) 30 true).alarm 2 (TIM_ASY_STAT p) 30 (70 + p) (chanId s.dev (70 + p) 1)).asyUpd p
          (fun a => { a with target := a.applied, stale := true })
      else s1

end Sys2Proof.Machine
end

