-- ==== Sys2Proof/Machine/Role.lean ====
section
/-! DEFINITION. The fabric roles held under lease (R406 to R408). Roles: 0 time root, 1 trigger decider, 2 to 5 builders. -/

namespace Sys2Proof.Machine

open Csr

/-- A role as this module knows it. -/
def State.role (s : State) (r : Nat) : RoleSt := s.flt.roles[r % 6]'(by omega)
def State.roleUpd (s : State) (r : Nat) (f : RoleSt → RoleSt) : State := { s with flt := { s.flt with roles := vmod s.flt.roles r f } }

/-- PRIO of this module for a role (R407). -/
def State.rolePrio (s : State) (r : Nat) : Nat := if r = 0 then s.f TIM_CTL 7 0 else s.f (FLT_ROLE_PRIO r) 7 0

/-- AUTO of this module for a role; TIM.CTL.ROOTOK for role 0 (R407). -/
def State.roleAuto (s : State) (r : Nat) : Bool := if r = 0 then s.b TIM_CTL 30 else s.b (FLT_ROLE r) 29

/-- DEVs of the neighbours on the ports that are UP. -/
def State.neighbours (s : State) : List Nat :=
  ((List.range 8).filter (fun p => s.portUp p)).map (fun p => s.f (FAB_PORT_STAT p) 9 0)

/-- A role message: MSG, role, DEV, EPOCH, PRIO, stamp and serial number (Table FLT-4). -/
def roleWords (msg r dev epoch prio stamp serial : Nat) : List Nat :=
  [msg * 2 ^ 56 + r * 2 ^ 52 + dev % 1024 * 2 ^ 32 + epoch % 65536 * 2 ^ 16 + prio % 256 * 2 ^ 8, stamp, serial, 0]

/-- A role message is flooded to the neighbours. -/
def State.roleFlood (s : State) (ws : List Nat) : State := s.neighbours.foldl (fun st d => st.send d 2 1 ws) s

/-- The FLT.ROLE register follows the role. -/
def State.roleReg (s : State) (r : Nat) (lapsed : Bool) : State :=
  let x := s.role r
  (((s.setB (FLT_ROLE r) 31 x.held).setB (FLT_ROLE r) 30 lapsed).setF (FLT_ROLE r) 25 16 x.dev).setF (FLT_ROLE r) 15 0 x.epoch

/-- The log entry of a role change. -/
def State.roleLog (s : State) (r : Nat) (taken : Bool) (dev epoch : Nat) : State :=
  s.log 2 0x0004 [b2n taken * 2 ^ 8 + r, dev, epoch % 65536]

/-- RANN of this module. -/
def State.rannSend (s : State) (r : Nat) : State :=
  s.roleFlood (roleWords 0x40 r s.dev (s.role r).epoch (s.rolePrio r) (s.stampAt 11) s.serial)

/-- What a role does when this module takes it (R249, R251, R267). -/
def State.roleTakeEffect (s : State) (r : Nat) : State :=
  if r = 0 then s.rootTake else if r = 1 then s.deciderTake else s.builderTake (r - 2)

/-- What it does when this module loses it, or nobody holds it (R249, R254, R267). -/
def State.roleLoseEffect (s : State) (r : Nat) (nobody : Bool) : State :=
  if r = 0 then (if nobody then s.rootLapse else s.timParent) else if r = 1 then s.deciderLose else s.builderLose (r - 2)

/-- The module takes role `r` with an epoch. -/
def State.roleTake (s : State) (r epoch : Nat) : State :=
  let moved := (s.role r).dev != s.dev
  let s1 := s.roleUpd r (fun x => { x with held := true, live := true, dev := s.dev, epoch := epoch % 65536, serial := s.serial, prio := s.rolePrio r,
                                            stamp := s.stampAt 11, heard := s.up, req := none })
  let s2 := (cond (moved && decide (2 ≤ r)) (·.builderMoved (r - 2) (epoch % 65536)) s1).roleReg r false
  ((s2.roleLog r true s.dev epoch).rannSend r).roleTakeEffect r

/-- The answer of a ROLEREQ whose request has ended. -/
def State.roleAnswer (s : State) (x : RoleSt) (status : Nat) : State :=
  match x.req with
  | some (_, _, some tag) => s.lateAnswer tag status 0x0060 []
  | _ => s

/-- A request withdraws. -/
def State.roleWithdraw (s : State) (r : Nat) : State := (s.roleAnswer (s.role r) 3).roleUpd r (fun x => { x with req := none })

/-- The module requests a role: RREQ with EPOCH one above the last known. -/
def State.roleRequest (s : State) (r : Nat) (tag : Option Nat) : State :=
  let e := ((s.role r).epoch + 1) % 65536
  let s1 := s.roleUpd r (fun x => { x with req := some (s.up, e, tag) })
  s1.roleFlood (roleWords 0x41 r s.dev e (s.rolePrio r) (s.stampAt 11) s.serial)

/-- The lease ends without a new holder: it has lapsed, or the role was released (R407); the change is logged whoever held the role (DEDUCED,
notes/assumptions/206.md). -/
def State.roleVacant (s : State) (r : Nat) (lapsed : Bool) : State :=
  let x := s.role r
  let s1 := (s.roleUpd r (fun y => { y with held := false, live := false })).roleReg r lapsed
  if x.held || x.live then (s1.roleLog r false 0x3FF x.epoch).roleLoseEffect r true else s1

/-- The module gives its role up to another holder. -/
def State.roleYield (s : State) (r dev epoch : Nat) : State :=
  let s1 := s.roleUpd r (fun x => { x with held := false })
  (s1.roleLog r false dev epoch).roleLoseEffect r false

/-- An epoch is newer than another (R406). -/
def epochNewer (a b : Nat) : Bool := decide (0 < (a + 65536 - b % 65536) % 65536) && decide ((a + 65536 - b % 65536) % 65536 < 32768)

/-- A role message with epoch and stamp is newer than those known. -/
def State.roleNewer (s : State) (e t e0 t0 : Nat) : Bool :=
  epochNewer e e0 || (e == e0 % 65536 && decide (stampDelta s.time t0 < stampDelta s.time t))

/-- RANN: a renewal of another holder; one that has not expired has a request withdrawn (R406, R407). -/
def State.rann (s : State) (r dev epoch prio stamp serial : Nat) : State :=
  let x := s.role r
  let ws := roleWords 0x40 r dev epoch prio stamp serial
  let alive := decide ((s.time : Int) < (stampTime s.time stamp : Nat) + (10 * ms : Nat))
  let s1 := cond (x.req.isSome && alive) (·.roleWithdraw r) s
  if dev = s.dev ∨ 5 < r then s
  else if x.held && !(epochNewer epoch x.epoch || (epoch == x.epoch && decide (serial < s.serial))) then s
  else if !x.held && !s.roleNewer epoch stamp x.epoch x.stamp then s1
  else
    let s2 := if x.held then s1.roleYield r dev epoch else s1
    let s3 := s2.roleUpd r (fun y => { y with held := false, live := true, dev := dev, epoch := epoch, serial := serial, prio := prio, stamp := stamp, heard := s.up })
    let s4 := if 2 ≤ r ∧ x.dev ≠ dev then s3.builderMoved (r - 2) epoch else s3
    let s5 := s4.roleReg r false
    let s6 := if r = 0 then (s5.setCsr TIM_ROOTID (BitVec.ofNat 32 (dev % 1024 * 2 ^ 16 + epoch % 65536))).timParent else s5
    s6.roleFlood ws

/-- RANN_RENEW: the holder floods RANN every 2.5 ms. -/
def State.rannRenew (s : State) (r : Nat) : State :=
  let x := s.role r
  if !x.held ∨ s.up < x.heard + 2500 * us then s
  else (s.roleUpd r (fun y => { y with heard := s.up, stamp := s.stampAt 11, prio := s.rolePrio r })).rannSend r

/-- RREQ of another candidate (R407). -/
def State.rreq (s : State) (r dev epoch prio stamp serial : Nat) : State :=
  let x := s.role r
  let new := match x.reqSeen with
    | some (e0, t0) => s.roleNewer epoch stamp e0 t0
    | none => true
  let new := new && epochNewer epoch x.epoch
  if dev = s.dev ∨ 5 < r then s
  else
    let beats := match x.req with
      | some (_, e, _) => e == epoch && (decide (s.rolePrio r < prio) || (s.rolePrio r == prio && decide (serial < s.serial)))
      | none => false
    let s1 := cond beats (·.roleWithdraw r) s
    if new then (s1.roleUpd r (fun y => { y with reqSeen := some (epoch, stamp) })).roleFlood (roleWords 0x41 r dev epoch prio stamp serial) else s1

/-- RREL: the holder releases the role, which ends its lease at once (R407). -/
def State.rrel (s : State) (r dev epoch prio stamp : Nat) : State :=
  let x := s.role r
  if 5 < r ∨ x.held ∨ !x.live ∨ x.dev ≠ dev ∨ !s.roleNewer epoch stamp x.epoch x.stamp then s
  else ((s.roleFlood (roleWords 0x42 r dev epoch prio stamp 0)).roleUpd r (fun y => { y with epoch := epoch, stamp := stamp })).roleVacant r false

/-- ROLE_LAPSE: 10 ms without a renewal; an AUTO candidate requests the role by itself (R407). -/
def State.roleLapse (s : State) (r : Nat) : State :=
  if s.up < (s.role r).heard + 10 * ms then s
  else
    let s1 := (s.roleVacant r true).roleUpd r (fun y => { y with heard := s.up })
    if s1.roleAuto r && (s1.role r).req.isNone then s1.roleRequest r none else s1

/-- ROLE_REQUEST_WAIT_END: 20 ms after the request the module takes the role (R407). -/
def State.roleWaitEnd (s : State) (r : Nat) : State :=
  match (s.role r).req with
  | some (t, e, _) => if s.up < t + 20 * ms then s else (s.roleTake r e).roleAnswer (s.role r) 0
  | none => s

/-- ROLEREL: the role is released with RREL (R407). -/
def State.roleRelease (s : State) (r : Nat) : State :=
  let x := s.role r
  ((s.roleFlood (roleWords 0x42 r s.dev x.epoch x.prio (s.stampAt 11) 0)).roleUpd r (fun y => { y with stamp := s.stampAt 11 })).roleVacant r false

end Sys2Proof.Machine
end

