-- ==== Sys2Proof/Machine/Fab.lean ====
section
/-! DEFINITION. The Hulis fabric: frames, ports, discovery, identifiers and routes (R283 to R300). -/

namespace Sys2Proof.Machine

open Csr

/-! Frames (R285). -/

def Frame.cls (f : Frame) : Nat := nfld f.h0 59 58
def Frame.kind (f : Frame) : Nat := nfld f.h0 57 56
def Frame.sr (f : Frame) : Bool := f.h0.testBit 55
def Frame.auth (f : Frame) : Bool := f.h0.testBit 54
def Frame.last (f : Frame) : Bool := f.h0.testBit 52
def Frame.hops (f : Frame) : Nat := nfld f.h0 51 47
def Frame.crit (f : Frame) : Bool := f.h0.testBit 46
def Frame.plen (f : Frame) : Nat := nfld f.h0 44 32
def Frame.dst (f : Frame) : Nat := nfld f.h0 31 22
def Frame.src (f : Frame) : Nat := nfld f.h0 21 12
def Frame.host (f : Frame) : Nat := nfld f.h0 11 5
def Frame.nhop (f : Frame) : Nat := nfld f.h0 4 0
def Frame.msgid (f : Frame) : Nat := nfld f.h1 63 32
def Frame.foff (f : Frame) : Nat := nfld f.h1 31 16
def Frame.ltype (f : Frame) : Nat := nfld f.h1 15 8
def Frame.keyid (f : Frame) : Nat := nfld f.h2 63 48
/-- ROUTE[h]. -/
def Frame.hop (f : Frame) (h : Nat) : Nat := nfld f.h2 (3 * h + 2) (3 * h)
def Frame.fcnt (f : Frame) : Nat := nfld f.h3 63 16

/-- HCRC of a header: the CRC-16 over its bytes but those of HCRC itself (notes/assumptions/18.md). -/
def hcrcOf (h0 h1 h2 h3 : Nat) : Nat := crc16 (bytesOf 8 h0 ++ bytesOf 8 h1 ++ bytesOf 8 h2 ++ bytesOf 6 (h3 / 65536))

/-- The CRC-32C over every byte before it (R285). -/
def Frame.crcOf (f : Frame) : Nat := crc32c (bytesOfWords ([f.h0, f.h1, f.h2, f.h3] ++ f.payload ++ f.tag))

/-- A frame with its HCRC and its CRC-32C computed. -/
def Frame.seal (f : Frame) : Frame :=
  let g : Frame := { f with h3 := nset f.h3 15 0 (hcrcOf f.h0 f.h1 f.h2 f.h3) }
  { g with crc := g.crcOf }

/-- A sealed frame that ends with its CRC inverted (R286, R317). -/
def Frame.stomped (f : Frame) (stomp : Bool) : Frame := if stomp then { f with crc := f.crc ^^^ 0xFFFFFFFF } else f

/-- What the CRC of a received frame says: 0 right, 2 inverted, else 1, as for a frame whose length is not that of its header. -/
def Frame.crcState (f : Frame) : Nat :=
  if 8 * f.payload.length != f.plen || f.tag.length != (if f.auth then 2 else 0) then 1
  else if f.crc = f.crcOf then 0 else if f.crc = f.crcOf ^^^ 0xFFFFFFFF then 2 else 1

/-! Authentication and encryption with AES-256-GCM (R305, R306). -/

def Frame.enc (f : Frame) : Bool := f.h0.testBit 53

/-- The nonce: FCNT, SRC, HOST and three zero bytes. -/
def Frame.nonce (f : Frame) : List Nat := bytesOf 6 f.fcnt ++ bytesOf 2 f.src ++ [f.host, 0, 0, 0]

/-- The header as additional data: HOPS, ROUTE and HCRC taken as 0. -/
def Frame.aad (f : Frame) : List Nat := bytesOfWords [nset f.h0 51 47 0, f.h1, nset f.h2 47 0 0, nset f.h3 15 0 0]

/-- The tag of a frame as it is sent: over the ciphertext with ENC 1, else over header and payload as additional data (GMAC;
notes/assumptions/182.md). -/
def Frame.tagOf (f : Frame) (key : List Nat) : List Nat :=
  let pay := bytesOfWords f.payload
  wordsOfBytes 2 (if f.enc then gcmTag (aesKeys key) f.nonce f.aad pay else gcmTag (aesKeys key) f.nonce (f.aad ++ pay) [])

/-- The payload encrypted or decrypted where ENC is 1. -/
def Frame.crypt (f : Frame) (key : List Nat) : Frame :=
  if f.enc then { f with payload := wordsOfBytes f.payload.length (gcmCtr (aesKeys key) f.nonce (bytesOfWords f.payload)) } else f

/-- A frame of this module is encrypted where ENC is 1, and gets its tag. -/
def Frame.protect (f : Frame) (key : List Nat) : Frame := let g := f.crypt key; { g with tag := g.tagOf key }

/-- HCRC is right. -/
def Frame.hcrcOk (f : Frame) : Bool := nfld f.h3 15 0 == hcrcOf f.h0 f.h1 f.h2 f.h3

/-- Bytes of a frame on the wire, and the buffer units it needs (R287). -/
def Frame.bytes (f : Frame) : Nat := 32 + f.plen + (if f.auth then 16 else 0) + 4
def Frame.units (f : Frame) : Nat := (f.bytes + 63) / 64

/-- Units of the receive buffer of a class (Table FAB-3). -/
def classUnits (c : Nat) : Nat := match c with | 0 => 64 | 1 => 256 | 2 => 512 | _ => 32768

/-- Units of the ALARM buffer kept for CRIT 1. -/
def critReserve : Nat := 128

/-! Ports. -/

/-- A fabric port. -/
def State.fport (s : State) (p : Nat) : FabPort := s.fab.ports[p % 8]'(by omega)
def State.fportUpd (s : State) (p : Nat) (f : FabPort → FabPort) : State := { s with fab := { s.fab with ports := vmod s.fab.ports p f } }

/-- FAB.PORT[p].STAT.LSTATE. -/
def State.fstate (s : State) (p : Nat) : Nat := s.f (FAB_PORT_STAT p) 31 29

/-- A port enabled in fabric mode whose PCS holds block lock. -/
def State.fabPort (s : State) (p : Nat) : Bool := s.b (FAB_PORT_CFG p) 31 && !s.b (FAB_PORT_CFG p) 30 && s.b (FAB_PORT_STAT p) 27

/-- A port enabled in Ethernet mode whose PCS holds block lock. -/
def State.ethPort (s : State) (p : Nat) : Bool := s.b (FAB_PORT_CFG p) 31 && s.b (FAB_PORT_CFG p) 30 && s.b (FAB_PORT_STAT p) 27

/-- UPMASK and ETHMASK of FAB.STAT follow the ports. -/
def State.fabMasks (s : State) : State :=
  let m (f : Nat → Bool) : Nat := (List.range 8).foldl (fun n p => if f p then n + 2 ^ p else n) 0
  (s.setF FAB_STAT 23 16 (m s.portUp)).setF FAB_STAT 15 8 (m s.ethPort)

/-- A port enters a state of Table FAB-5; it leaves TRAIN at once while it has block lock. -/
def State.fenter (s : State) (p n : Nat) : State :=
  ((s.setF (FAB_PORT_STAT p) 31 29 (if n = 1 ∧ s.b (FAB_PORT_STAT p) 27 then 2 else n)).fportUpd p (fun x => { x with since := s.up, auth := 0 })).fabMasks

/-- Interval of PHER frames in ps, and the peer's dead time (R291). -/
def State.pherIntv (s : State) : Nat := clampN 100 10000 (s.f FAB_PHER 15 0) * us
def State.pherDead (s : State) : Nat := max 2 (s.f FAB_PHER 23 16) * s.pherIntv

/-- A frame leaves a port: TXFR, counter source 0xAC, and the frame itself. -/
def State.fsent (s : State) (p : Nat) (f : Frame) : State :=
  let s1 := (s.incMod (FAB_PORT_TXFR p)).bump 0xAC 1
  { s1 with fab := { s1.fab with tx := spPut s1.fab.tx p (some f) } }

/-! Keys and counts (R305). -/

/-- FCNT of a slot's current key. -/
def State.fcnt (s : State) (slot : Nat) : Nat := if slot = 0 then s.pair FAB_FCNT_LO else s.fab.fcnt1
def State.setFcnt (s : State) (slot n : Nat) : State :=
  if slot = 0 then s.setPair FAB_FCNT_LO n else { s with fab := { s.fab with fcnt1 := n } }

/-- The current KEYID of a slot. -/
def State.keyid (s : State) (slot : Nat) : Nat := if slot = 0 then s.f FAB_KEYID 15 0 else s.f FAB_KEYID 31 16

/-- At 2^48 - 1 the module sends no more frames under the key. -/
def State.keySpent (s : State) (slot : Nat) : Bool := decide (2 ^ 48 - 1 ≤ s.fcnt slot)

/-- One frame is authenticated under a slot's key: FCNT counts, and at 2^47 FCNTHI is set with a major alarm. -/
def State.useFcnt (s : State) (slot : Nat) : State :=
  let n := s.fcnt slot + 1
  let s1 := s.setFcnt slot n
  if n = 2 ^ 47 then (s1.setB FAB_STAT 28 true).alarm 1 FAB_STAT 28 else s1

/-- The key of a slot under a KEYID it accepts, its key being installed: current, next, or the previous one still kept (R305, R307, R425). -/
def State.keyFor (s : State) (slot k : Nat) : Option (List Nat) :=
  if k == s.keyid slot && vget s.sec.keys (3 + 2 * slot) false then some (vget s.fab.keyVals (3 * slot) [])
  else if some k == vget s.fab.nextKey slot none && vget s.sec.keys (4 + 2 * slot) false then some (vget s.fab.keyVals (3 * slot + 1) [])
  else if some k == vget s.fab.prevKey slot none then some (vget s.fab.keyVals (3 * slot + 2) [])
  else none

/-- A slot's current key can authenticate a frame: it is installed, and its count is not spent (R305, notes/assumptions/185.md). -/
def State.keyUsable (s : State) (slot : Nat) : Bool := vget s.sec.keys (3 + 2 * slot) false && !s.keySpent slot

/-- The window of a source accepts a count (R305). -/
def State.fcntFresh (s : State) (src host k n : Nat) : Bool :=
  match s.fab.wins.find? (fun (w : FcntWin) => w.src == src && w.host == host && w.keyid == k) with
  | none => true
  | some w => decide (w.hi < n) || (decide (w.hi ≤ n + 64) && n != w.hi && !w.seen.contains n)

/-- The window after a count is accepted. -/
def State.fcntTake (s : State) (src host k n : Nat) : State :=
  let key (w : FcntWin) : Bool := w.src == src && w.host == host && w.keyid == k
  let w' : FcntWin := match s.fab.wins.find? key with
    | none => { src := src, host := host, keyid := k, hi := n, seen := [n] }
    | some w => let h := max w.hi n
                { w with hi := h, seen := (n :: w.seen).filter (fun m => decide (h ≤ m + 64)) }
  { s with fab := { s.fab with wins := w' :: s.fab.wins.filter (fun w => !key w) } }

/-- A frame fails authentication. -/
def State.authFail (s : State) : State := (s.inc FAB_AUTHFAIL).setB FAB_STAT 29 true

/-- An authenticated frame is checked (R305): what it carries, if it stands, and the state. -/
def State.authCheck (s : State) (slot : Nat) (f : Frame) : Option Frame × State :=
  match s.keyFor slot f.keyid with
  | none => (none, s.authFail)
  | some key =>
    if f.tag != f.tagOf key then (none, s.authFail)
    else if !s.fcntFresh f.src f.host f.keyid f.fcnt then (none, s.inc FAB_REPLAY)
    else (some (f.crypt key), s.fcntTake f.src f.host f.keyid f.fcnt)

/-! Sending link-local frames (R289). -/

/-- A frame of this module. -/
def State.mkFrame (s : State) (cls kind : Nat) (auth enc last crit : Bool) (dst host msgid foff ltype slot : Nat) (route : Option (List Nat))
    (pay : List Nat) : Frame :=
  let sr := route.isSome
  let r := route.getD []
  let h0 := 2 ^ 60 + cls * 2 ^ 58 + kind * 2 ^ 56 + b2n sr * 2 ^ 55 + b2n auth * 2 ^ 54 + b2n enc * 2 ^ 53 + b2n last * 2 ^ 52 + b2n crit * 2 ^ 46
    + pay.length * 8 % 8192 * 2 ^ 32 + dst % 1024 * 2 ^ 22 + s.dev * 2 ^ 12 + host % 128 * 2 ^ 5 + (if sr then r.length % 32 else 0)
  let h1 := msgid % 2 ^ 32 * 2 ^ 32 + foff % 65536 * 2 ^ 16 + ltype * 2 ^ 8
  let h2 := (if auth then s.keyid slot * 2 ^ 48 else 0) + (r.mapIdx (fun i x => x % 8 * 2 ^ (3 * i))).foldl (· + ·) 0
  let h3 := if auth then s.fcnt slot % 2 ^ 48 * 2 ^ 16 else 0
  let f : Frame := { h0 := h0, h1 := h1, h2 := h2, h3 := h3, payload := pay }
  (if auth then f.protect (vget s.fab.keyVals (3 * slot) []) else f).seal

/-- A link-local frame leaves a port; PHER and LSA frames are authenticated while LAUTH is 1. -/
def State.llSend (s : State) (p cls ltype : Nat) (pay : List Nat) : State :=
  let auth := s.b FAB_CTL 29 && (ltype == 1 || ltype == 4)
  if auth && !s.keyUsable 0 then s
  else
    let f := s.mkFrame cls 3 auth false true false 0 0 0 0 ltype 0 none pay
    cond auth (·.useFcnt 0) (s.fsent p f)

/-! Identifiers and the link-state database (R293 to R296). -/

/-- TIMEX_SEND: the next exchange of a port that is UP, 2^XLOG a second: XSEQ, the stamp of the previous departure, what arrived last, and this
module's place under the root (R263, R290). -/
def State.timexSend (s : State) (p : Nat) : State :=
  let k := s.ptime p
  if !s.portUp p || decide (s.up < k.sentAt + psPerSec / 2 ^ s.xlog) then s
  else
    let prev := match k.sent with | x :: _ => stampOf x.2 | [] => 0
    let got := match k.got with | x :: _ => (x.1, stampOf x.2) | [] => (0, 0)
    let id := (s.csrRaw TIM_ROOTID).toNat
    let w3 := s.timState * 2 ^ 62 + b2n (s.b TIM_STAT 28) * 2 ^ 61 + s.f TIM_STAT 4 0 * 2 ^ 56 + nfld id 25 16 * 2 ^ 46 + nfld id 15 0 * 2 ^ 30
    (s.ptimeUpd p (fun x => { x with xseq := (x.xseq + 1) % 2 ^ 32, sent := ((x.xseq, s.time) :: x.sent).take 64, sentAt := s.up })).llSend p 0 2
      [k.xseq * 2 ^ 32 + got.1, prev, got.2, w3]

/-- An LSA as words (Table FAB-4). -/
def Lsa.words (a : Lsa) : List Nat :=
  [b2n a.claim * 2 ^ 63 + b2n a.fixed * 2 ^ 62 + a.dev % 1024 * 2 ^ 48 + a.instar % 65536 * 2 ^ 32 + a.seq % 2 ^ 32, a.serial]
    ++ a.links.map (fun (l : Nat × Nat × Nat × Nat) => l.1 * 2 ^ 61 + l.2.1 * 2 ^ 51 + l.2.2.1 * 2 ^ 48 + l.2.2.2 * 2 ^ 44)

/-- The module holds an identifier or claims one. -/
def State.hasId (s : State) : Bool := s.b FAB_ID 30 || s.fab.claim.isSome

/-- This module floods its LSA with LSASEQ one higher (R296). -/
def State.lsaFlood (s : State) : State :=
  if !s.hasId then s
  else
    let s1 := s.incMod FAB_LSASEQ
    let s2 : State := { s1 with fab := { s1.fab with floodAt := s1.up } }
    ((List.range 8).filter (fun p => s.portUp p)).foldl (fun st p => st.llSend p 2 4 s2.ownLsa.words) s2

/-- The instar changes and is flooded (R409). -/
def State.instarTo (s : State) (n : Nat) : State := (s.setInstar n).lsaFlood

/-- A port leaves UP: counted, a minor alarm, and a new LSA (R292). -/
def State.fleave (s : State) (p n : Nat) : State :=
  if s.portUp p then
    let s1 := ((s.fenter p n).inc (FAB_PORT_DOWNS p)).alarm 2 (FAB_PORT_DOWNS p) 0x3F
    s1.lsaFlood.timParent
  else s.fenter p n

/-- Identifiers named by an LSA of the database or by a PHER heard (R294). -/
def State.idsSeen (s : State) : List Nat :=
  s.fab.lsdb.map (fun (a : Lsa) => a.dev)
    ++ ((List.range 8).filter (fun p => s.b (FAB_PORT_STAT p) 16 && (s.fport p).named)).map (fun p => s.f (FAB_PORT_STAT p) 9 0)

/-- The next candidate of R294. -/
def State.idCandidate (s : State) (skip : List Nat) : Option Nat :=
  let used := s.idsSeen ++ skip
  let last := if s.b FAB_IDLAST 31 then [s.f FAB_IDLAST 9 0] else []
  let cell := s.f FAB_ID 9 5
  let order := last ++ (List.range 1024).map (fun i => (cell * 32 + i) % 1024)
  order.find? (fun d => !used.contains d)

/-- NODEV of FAB.STAT: the module has no identifier. -/
def State.idFlags (s : State) : State := s.setB FAB_STAT 30 (!s.b FAB_ID 30)

/-- A claim is made, or without a free identifier none (R294, R295). -/
def State.idClaim (s : State) (skip : List Nat) : State :=
  match s.idCandidate skip with
  | none => ({ s with fab := { s.fab with claim := none } }).idFlags
  | some d => ({ s with fab := { s.fab with claim := some (d, s.up) } }).lsaFlood.idFlags

/-- Under MODE 0 the identifier is FIXDEV, and no claim is pending; under MODE 1 there is none until one is taken (R293, R294). -/
def State.idFixed (s : State) : State :=
  if s.b FAB_ID 31 then ((s.setB FAB_ID 30 false).setF FAB_ID 25 16 0).idFlags
  else
    let s1 := ((s.setB FAB_ID 30 true).setF FAB_ID 25 16 (s.f FAB_ID 9 0)).idFlags
    { s1 with fab := { s1.fab with claim := none } }

/-- ID_CLAIM_DONE: 50 ms after the claim the module takes the identifier. -/
def State.idTake (s : State) : State :=
  match s.fab.claim with
  | none => s
  | some (d, t) =>
    if s.up < t + 50 * ms ∨ !s.b FAB_ID 31 then s
    else
      let s1 := ((s.setB FAB_ID 30 true).setF FAB_ID 25 16 d).setCsr FAB_IDLAST (BitVec.ofNat 32 (2 ^ 31 + d))
      ({ s1 with fab := { s1.fab with claim := none } }).lsaFlood.idFlags

/-- Another module names this module's identifier: its serial number, FIXED and CLAIM bits (R294, R295). -/
def State.idClash (s : State) (d serial : Nat) (fixed claim : Bool) : State :=
  match s.fab.claim with
  | some (c, _) => if c = d ∧ (fixed ∨ !claim ∨ serial < s.serial) then s.idClaim [d] else s
  | none =>
    if s.b FAB_ID 30 && decide (s.dev = d) && fixed && !s.b FAB_ID 31 && decide (serial < s.serial) && !s.b FAB_STAT 31 then
      let s1 := ((List.range 8).filter (fun p => s.portUp p)).foldl (fun st p => st.fleave p 4) s
      (s1.setB FAB_STAT 31 true).alarm 1 FAB_STAT 31
    else s

/-- FAB.RTE for the device of FAB.RTDEV. -/
def State.rte (s : State) : Word :=
  match s.route (s.f FAB_RTDEV 9 0) with
  | none => 0
  | some r => BitVec.ofNat 32 (2 ^ 31 + r.2.2.2.2 * 2 ^ 28 + r.2.2.1 * 2 ^ 16 + r.2.1 % 65536)

/-! Discovery (R291, R292). -/

/-- PHER_SEND: every INTV on a port with block lock. -/
def State.pherSend (s : State) (p : Nat) : State :=
  let x := s.fport p
  if !s.fabPort p ∨ s.up < x.sentAt + s.pherIntv then s
  else
    let st := s.csrRaw (FAB_PORT_STAT p)
    let nb := fld st 9 0
    let li := if bit st 16 then spGet s.fab.instarOf nb else none
    let w0 := b2n (s.b FAB_ID 30) * 2 ^ 63 + b2n (!s.b FAB_ID 31) * 2 ^ 62 + b2n s.fab.claim.isSome * 2 ^ 61 + p * 2 ^ 58 + s.namedDev * 2 ^ 48
      + (s.f GLB_REV 31 24 * 2 ^ 8 + s.f GLB_REV 23 16) * 2 ^ 32 + x.phers % 2 ^ 32
    let w3 := b2n (bit st 16) * 2 ^ 63 + fld st 15 13 * 2 ^ 60 + nb * 2 ^ 50 + b2n li.isSome * 2 ^ 49 + li.getD 0 % 65536 * 2 ^ 32
    (s.fportUpd p (fun y => { y with sentAt := s.up, phers := y.phers + 1 })).llSend p 2 1 [w0, s.serial, (s.csrRaw FAB_FABID).toNat * 2 ^ 32, w3]

/-- A port enters SYNCDB: under MODE 1 the first such port starts the choice of an identifier; and the whole database goes to the port, the own LSA with
its claim first (R292, R294). -/
def State.syncdb (s : State) (p : Nat) : State :=
  let s0 := (s.fenter p 4).fportUpd p (fun x => { x with dbIn := false })
  let s1 := if s0.b FAB_ID 31 && !s0.hasId then s0.idClaim [] else s0
  (if s1.hasId then s1.ownLsa :: s1.fab.lsdb else s1.fab.lsdb).foldl (fun st (a : Lsa) => st.llSend p 2 4 a.words) s1

/-- A port comes UP: each side holds credit for the whole of the other's buffers, and frames that wait here since an earlier UP free nothing any more
(R288). -/
def State.fup (s : State) (p : Nat) : State :=
  let z : Vector Nat 4 := Vector.replicate 4 0
  let s1 := (s.fenter p 5).fportUpd p (fun x => { x with credit := #v[64, 256, 512, 32768], heardFreed := z, occ := z, freed := z, told := z, toldAt := s.up })
  let s2 : State := { s1 with flt := { s1.flt with firstUp := some (s1.flt.firstUp.getD s1.up) },
                              fab := { s1.fab with fwd := s1.fab.fwd.map (fun (x : FwdFrame) => if x.arr = p then { x with arr := 8 } else x) } }
  s2.lsaFlood.timParent

/-- The larger of two instars, modulo 2^16 (R410). -/
def instarMax (a b : Nat) : Nat := if (b + 65536 - a % 65536) % 65536 < 32768 then b else a

/-- A PHER or LSA is authentic: checked while LAUTH is 1 (R305). -/
def State.llAuth (s : State) (f : Frame) : Bool × State :=
  if f.auth then let v := s.authCheck 0 f; (v.1.isSome, v.2)
  else if s.b FAB_CTL 29 then (false, s.inc FAB_AUTHFAIL) else (true, s)

/-- PHER: a pheromone frame. -/
def State.pher (s : State) (p : Nat) (f : Frame) : State :=
  let w0 := nth f.payload 0 0
  let w1 := nth f.payload 1 0
  let w2 := nth f.payload 2 0
  let w3 := nth f.payload 3 0
  let dev := nfld w0 57 48
  let v := s.llAuth f
  let s0 := v.2
  if !s.fabPort p then s
  else if !v.1 then (if s.fstate p = 3 then s0.fportUpd p (fun x => { x with auth := 0 }) else s0)
  else
    let s1 := (((s0.setB (FAB_PORT_STAT p) 16 true).setF (FAB_PORT_STAT p) 15 13 (nfld w0 60 58)).setF (FAB_PORT_STAT p) 9 0 dev).fportUpd p
      (fun x => { x with heard := some s.up, nserial := w1, named := w0.testBit 63 || w0.testBit 61 })
    let s2 := if w0.testBit 63 || w0.testBit 61 then s1.idClash dev w1 (w0.testBit 62) (w0.testBit 61) else s1
    let me := w3.testBit 63 && nfld w3 59 50 == s1.namedDev && nfld w3 62 60 == p
    let s3 : State := if me && w3.testBit 49 then
        { s2 with fab := { s2.fab with lastInstar := some (match s2.fab.lastInstar with | some i => instarMax i (nfld w3 47 32) | none => nfld w3 47 32) } }
      else s2
    let same := nfld w2 63 32 == (s.csrRaw FAB_FABID).toNat
    match s.fstate p with
    | 2 =>
      if !same then s3.setB (FAB_PORT_STAT p) 25 true
      else if me then (if s.b FAB_CTL 29 then s3.fenter p 3 else s3.syncdb p)
      else s3
    | 3 =>
      let s4 := s3.fportUpd p (fun x => { x with auth := x.auth + 1 })
      if 3 ≤ (s4.fport p).auth ∨ !s.b FAB_CTL 29 then s4.syncdb p else s4
    | _ => s3

/-- PEER_DEAD: DEAD intervals without a valid PHER (R291). -/
def State.peerDead (s : State) (p : Nat) : State :=
  match (s.fport p).heard with
  | none => s
  | some t =>
    if s.up < t + s.pherDead ∨ !s.b (FAB_PORT_STAT p) 16 then s
    else
      let s1 := (s.setB (FAB_PORT_STAT p) 16 false).fportUpd p (fun x => { x with heard := none })
      if s.portUp p then s1.fleave p 1 else s1

/-- The first header word of a datagram (Table FAB-10): DKIND, VER, PORT, DEV and DSEQ. -/
def ethHead (kind p dev dseq : Nat) : Nat := kind * 2 ^ 56 + 2 ^ 52 + p % 8 * 2 ^ 42 + dev % 1024 * 2 ^ 32 + dseq % 2 ^ 32

/-- An Ethernet port. -/
def State.eport (s : State) (p : Nat) : EthPort := s.fab.eth[p % 8]'(by omega)
def State.eportUpd (s : State) (p : Nat) (f : EthPort → EthPort) : State := { s with fab := { s.fab with eth := vmod s.fab.eth p f } }

/-- Frames leave an Ethernet port. -/
def State.ethTxs (s : State) (p : Nat) (os : List EthOut) : State :=
  (s.incMod (FAB_PORT_TXFR p) os.length).eportUpd p (fun x => { x with tx := os })

/-- One frame does. -/
def State.ethTx (s : State) (p : Nat) (o : EthOut) : State := s.ethTxs p [o]

/-- A port's IPv6 addresses: the link-local one from the modified EUI-64 of its MAC address, and the global one where it is set (R310). -/
def State.ethLinkLocal (s : State) (p : Nat) : Nat :=
  let m := s.pair (FAB_ETH_MAC_LO p)
  0xFE80 * 2 ^ 112 + ((nfld m 47 24) ^^^ 0x020000) * 2 ^ 40 + 0xFFFE * 2 ^ 24 + nfld m 23 0
def State.ethGlobal (s : State) (p : Nat) : Nat := (List.range 4).foldl (fun n i => n + (s.csrRaw (FAB_ETH_IP6 p i)).toNat * 2 ^ (32 * i)) 0
def State.ethOwn6 (s : State) (p : Nat) : List Nat := s.ethLinkLocal p :: (if s.ethGlobal p = 0 then [] else [s.ethGlobal p])

/-- The solicited-node group of an IPv6 address. -/
def solicitedNode (a : Nat) : Nat := 0xFF02 * 2 ^ 112 + 2 ^ 32 + 0xFF * 2 ^ 24 + a % 2 ^ 24

/-- The PTP groups. -/
def ptpGroup (v6 : Bool) : Nat := if v6 then 0xFF0E * 2 ^ 112 + 0x181 else 0xE0000181

/-- The PTP clock runs on a port. -/
def State.ptpOn (s : State) (p : Nat) : Bool := s.b FAB_PTP_CFG 31 && s.f FAB_PTP_CFG 30 28 == p

/-- Reports of the groups joined beside all-nodes: MLDv2 for the solicited-node groups, and IGMPv2 or MLDv2 for the PTP group (R310). -/
def State.ethGroups (s : State) (p : Nat) : List EthOut :=
  let ptp := s.ptpOn p
  let v6 := s.b FAB_PTP_CFG 27
  { kind := .groupReport, dst := 0xFF02 * 2 ^ 112 + 0x16,
    words := (s.ethOwn6 p).map solicitedNode ++ (if ptp && v6 then [ptpGroup true] else []) }
    :: (if ptp && !v6 then [{ kind := .groupReport, dst := ptpGroup false, words := [ptpGroup false] }] else [])

/-- An Ethernet port's link comes up: one gratuitous ARP leaves, the groups are reported, duplicates of its IPv6 addresses are looked for, and its
stream begins with a SYNC (R310, R311). -/
def State.ethFresh (s : State) (p : Nat) : State :=
  (s.ethTxs p ([{ kind := .arpRequest, dst := (s.csrRaw (FAB_ETH_IP4 p)).toNat }] ++ s.ethGroups p
    ++ (s.ethOwn6 p).map (fun a => { kind := .neighbourSolicit, dst := a }))).eportUpd p
    (fun e => { e with sync := false, ackAt := 0, dadAt := s.up, dups := [] })

/-- The Ethernet ports whose link is up now and was not in an earlier state. -/
def State.ethRises (s old : State) : State :=
  ((List.range 8).filter (fun p => !old.ethPort p && s.ethPort p)).foldl State.ethFresh s

/-- FAB_PORT_LOCK: signal and block lock of a port are gained or lost (R284, R292); an Ethernet port announces itself (R310). -/
def State.fabLock (s : State) (p : Nat) (signal lock : Bool) : State :=
  let s1 := (((s.setB (FAB_PORT_STAT p) 28 (!signal)).setB (FAB_PORT_STAT p) 27 (signal && lock)).fabMasks).ethRises s
  let up := signal && lock
  if up then (if s.fstate p = 1 then s1.fenter p 2 else s1)
  else if s.portUp p then s1.fleave p 1 else s1

/-- FAB_PORT_TIMEOUT: HELLO and AUTH end after 10 intervals, SYNCDB after 20 ms. -/
def State.fabTimeout (s : State) (p : Nat) : State :=
  let t := (s.fport p).since
  match s.fstate p with
  | 2 => if t + 10 * s.pherIntv ≤ s.up then s.fenter p 1 else s
  | 3 => if t + 10 * s.pherIntv ≤ s.up then (s.fenter p 1).setB (FAB_PORT_STAT p) 26 true else s
  | 4 => if t + 20 * ms ≤ s.up && !s.b FAB_STAT 31 then s.fenter p 1 else s
  | _ => s

/-- LSASEQ `a` is larger than `b` modulo 2^32 (R296). -/
def seqLarger (a b : Nat) : Bool := decide (0 < (a + 2 ^ 32 - b % 2 ^ 32) % 2 ^ 32) && decide ((a + 2 ^ 32 - b % 2 ^ 32) % 2 ^ 32 < 2 ^ 31)

/-- The links an LSA lists. -/
def lsaLinks (ws : List Nat) : List (Nat × Nat × Nat × Nat) := ws.map (fun w => (nfld w 63 61, nfld w 60 51, nfld w 50 48, nfld w 47 44))

/-- A port in SYNCDB comes UP once the peer has sent its whole database (Table FAB-5). -/
def State.dbDone (s : State) (p : Nat) (done : Bool) : State :=
  let s1 := cond done (·.fportUpd p (fun x => { x with dbIn := true })) s
  if s1.fstate p = 4 && (s1.fport p).dbIn && !s1.b FAB_STAT 31 then s1.fup p else s1

/-- An LSA is stored and sent on every other UP port where its LSASEQ is larger than the one held (R296). -/
def State.lsaStore (s : State) (p : Nat) (a : Lsa) : State :=
  if (match s.fab.lsdb.find? (fun (b : Lsa) => b.dev == a.dev) with | some b => seqLarger a.seq b.seq | none => true) then
    let s1 : State := { s with fab := { s.fab with lsdb := s.fab.lsdb.filter (fun (b : Lsa) => b.dev != a.dev) ++ [a],
                                                    instarOf := spPut s.fab.instarOf a.dev (some a.instar) } }
    ((List.range 8).filter (fun q => q != p && s1.portUp q)).foldl (fun st q => st.llSend q 2 4 a.words) s1
  else s

/-- LSA: an LSA arrives on a port; `done` says that the peer has now sent its whole database (R292, R294 to R296). -/
def State.lsa (s : State) (p : Nat) (f : Frame) (done : Bool) : State :=
  let w0 := nth f.payload 0 0
  let w1 := nth f.payload 1 0
  let v := s.llAuth f
  if !s.fabPort p ∨ s.fstate p < 4 then s
  else if !v.1 then v.2
  else
    let d := nfld w0 57 48
    let a : Lsa := { dev := d, claim := w0.testBit 63, fixed := w0.testBit 62, instar := nfld w0 47 32, seq := nfld w0 31 0, serial := w1,
                     links := lsaLinks (f.payload.drop 2), heard := s.up }
    let s0 := v.2
    let mine := s0.hasId && d == s0.ownLsa.dev
    let s1 :=
      if mine && w1 == s0.serial then
        (if seqLarger a.seq s0.ownLsa.seq then (s0.setCsr FAB_LSASEQ (BitVec.ofNat 32 a.seq)).lsaFlood else s0)
      else (cond mine (·.idClash d w1 a.fixed a.claim) s0).lsaStore p a
    s1.dbDone p done

/-- LSA_REFRESH: the own LSA every REFRESH seconds. -/
def State.lsaRefresh (s : State) : State :=
  if s.up < s.fab.floodAt + max 1 (s.f FAB_LSA 15 0) * psPerSec then s else s.lsaFlood

/-- LSA_MAXAGE: an LSA not refreshed for MAXAGE seconds is removed. -/
def State.lsaMaxage (s : State) (d : Nat) : State :=
  { s with fab := { s.fab with lsdb := s.fab.lsdb.filter (fun (a : Lsa) => !(a.dev == d && decide (a.heard + s.f FAB_LSA 31 16 * psPerSec ≤ s.up))) } }

/-! Link credit (R288). -/

/-- LCRED: the peer's cumulative counts of units freed. -/
def State.lcred (s : State) (p w : Nat) : State :=
  let c (i : Nat) : Nat := nfld w (16 * i + 15) (16 * i)
  let x := s.fport p
  if !s.portUp p then s
  else s.fportUpd p (fun y => { y with
    credit := y.credit.mapIdx (fun i v => v + (c i + 65536 - vget x.heardFreed i 0 % 65536) % 65536),
    heardFreed := y.heardFreed.mapIdx (fun i _ => c i) })

/-- LCRED_SEND: after 8 units of a class, or 10 us while freed units are unreported. -/
def State.lcredSend (s : State) (p : Nat) : State :=
  let x := s.fport p
  let d (i : Nat) : Nat := (vget x.freed i 0 : Nat) - (vget x.told i 0 : Nat)
  let due := (List.range 4).any (fun i => decide (8 ≤ d i)) || ((List.range 4).any (fun i => decide (0 < d i)) && decide (x.toldAt + 10 * us ≤ s.up))
  if !s.portUp p || !due then s
  else
    let w := (List.range 4).foldl (fun n i => n + (vget x.freed i 0 : Nat) % 65536 * 2 ^ (16 * i)) 0
    (s.fportUpd p (fun y => { y with told := y.freed, toldAt := s.up })).llSend p 2 3 [w]

/-- Units of a class are freed at a port. -/
def State.funfree (s : State) (p c n : Nat) : State :=
  s.fportUpd p (fun x => { x with occ := vmod x.occ c (fun v => v - n), freed := vmod x.freed c (· + n) })

/-! Enables. -/

/-- A port starts when FAB is released, FAB.CTL.EN and CFG.EN are 1 and MODE is 0 (R292, R449). -/
def State.fabStart (s : State) (p : Nat) : State :=
  if s.pwr.fabFree && s.b FAB_CTL 31 && s.b (FAB_PORT_CFG p) 31 && !s.b (FAB_PORT_CFG p) 30 && decide (s.fstate p = 0) then s.fenter p 1 else s

/-- A port goes to DOWN. -/
def State.fabDown (s : State) (p : Nat) : State := if s.fstate p = 0 then s else s.fleave p 0

/-- Every port follows its enables. -/
def State.fabEnables (s : State) : State :=
  ((List.range 8).foldl (fun st p =>
    if st.b FAB_CTL 31 && st.b (FAB_PORT_CFG p) 31 && !st.b (FAB_PORT_CFG p) 30 then st.fabStart p else st.fabDown p) s).fabMasks

/-- A write of a port's CFG: the port follows, and an Ethernet port enabled while it has block lock comes up (R292, R310). -/
def State.writePortCfg (s : State) (a : Nat) (v : Word) (lease : Bool) : State := ((s.writeReg a v lease).fabEnables).ethRises s

/-- A write of FAB.PTP.CFG: a port that runs PTP from now on reports its groups (R310). -/
def State.writePtpCfg (s : State) (a : Nat) (v : Word) (lease : Bool) : State :=
  let s1 := s.writeReg a v lease
  let p := s1.f FAB_PTP_CFG 30 28
  if s1.ptpOn p && s1.ethPort p && !(s.ptpOn p && s.b FAB_PTP_CFG 27 == s1.b FAB_PTP_CFG 27) then s1.ethTxs p (s1.ethGroups p) else s1

/-- FAB is released at step 9 of Table PWR-4: identifier and ports (R293, R449). -/
def State.fabRelease (s : State) : State :=
  let s1 : State := { s with pwr := { s.pwr with fabFree := true } }
  s1.idFixed.fabEnables

end Sys2Proof.Machine
end

