-- ==== Sys2Proof/Machine/FabRx.lean ====
section
/-! DEFINITION. Frames that arrive over the fabric: checks, forwarding, reassembly and delivery (R286 to R289, R298, R300, R301,
R304, R305). -/

namespace Sys2Proof.Machine

open Csr

/-! Delivery of complete messages. -/

/-- Words from another device are kept in FAB.RXBUF and posted as an entry (notes/assumptions/19.md). -/
def State.postForeign (s : State) (q ty tag : Nat) (ws : List Nat) : State :=
  let n := 8 * ws.length
  let drop : State := (s.inc (QUE_DROP q))
  if !s.qEn q then drop
  else match s.place FAB_RXBUF_LO 0x1000000 n with
    | none => drop
    | some o =>
      let a := s.pair FAB_RXBUF_LO + o
      ((s.putWords a ws).claim FAB_RXBUF_LO o n q).publishEntry q 7
        { status := 0, type := ty, addr := a, length := n, qseq := 0, stamp := 0, tag := tag }

/-- The devices of a BUILD map. -/
def mapDevs (ws : List Nat) : List Nat := (List.range 1024).filter (fun d => (nth ws (d / 64) 0).testBit (d % 64))

/-- A KIND 1 message goes to the engine its MSG byte names. -/
def State.fabMessage (s : State) (ws : List Nat) : State :=
  let w0 := nth ws 0 0
  let w1 := nth ws 1 0
  let w2 := nth ws 2 0
  let c := nfld w0 55 54
  let dev := nfld w0 41 32
  let r := nfld w0 55 52
  let ep := nfld w0 31 16
  match nfld w0 63 56 with
  | 0x01 => s.cand dev c w1 (nfld w0 31 0)
  | 0x02 => s.acceptMsg c (nfld w0 47 32) (nfld w0 31 0) w1 (nfld w2 63 32)
  | 0x03 => s.rejectMsg c (nfld w0 31 0)
  | 0x04 => s.build (nfld w0 47 32) (nfld w2 63 32) w1 (mapDevs (ws.drop 4))
  | 0x05 => s.decBusyMsg dev (w0.testBit 48)
  | 0x06 => s.grant (nfld w0 49 48) (nfld w0 47 32) (nfld w0 15 0)
  | 0x07 => s.credit (nfld w0 49 48) (nfld w0 47 32) (nfld w0 15 0) (nfld w1 31 0)
  | 0x20 => s.tsubMsg { dev := dev, sense := c, first := nfld w1 63 46, last := nfld w1 45 28, tref := toSigned 32 w2 }
  | 0x21 => s.tintMsg c dev w1 (toSigned 64 w2) (nfld (nth ws 3 0) 9 0)
  | 0x40 => s.rann r dev ep (nfld w0 15 8) w1 w2
  | 0x41 => s.rreq r dev ep (nfld w0 15 8) w1 w2
  | 0x42 => s.rrel r dev ep (nfld w0 15 8) w1
  | m => if 0x40 ≤ m ∧ m ≤ 0x4F then s else s.inc FAB_RXDISC

/-- The words of a frame without its CRC (R312). -/
def Frame.words (f : Frame) : List Nat := [f.h0, f.h1, f.h2, f.h3] ++ f.payload ++ f.tag

/-- A management block (R304, R312): a request goes to Q125 under a handle; a response to the open request it answers, its frames as they came. -/
def State.fabMgmt (s : State) (src host : Nat) (route : Option (Nat × List Nat)) (auth : Bool) (frames : List Frame) (ws : List Nat) : State :=
  let tag := nth ws 0 0
  let is_ (x : Nat × Nat × Nat × Nat) : Bool := x.1 == host && x.2.1 == tag
  if (nth ws 1 0).testBit 63 then
    match (List.range 8).find? (fun p => (s.eport p).reqs.any is_) with
    | none => s.inc FAB_RXDISC
    | some p =>
      let s1 := s.bump 0xAC frames.length
      let out : List EthOut := match (s.eport p).reqs.find? is_ with
        | some x => frames.map (fun (f : Frame) => { kind := .datagram, dst := x.2.2.1, port := x.2.2.2, w0 := ethHead 4 p s.dev 0, w1 := 0, words := f.words })
        | none => []
      (s1.ethTxs p out).eportUpd p (fun e => { e with reqs := e.reqs.filter (fun x => !is_ x) })
  else
    let h := 2 ^ 63 + s.fab.handles
    let q : MgmtReq := { handle := h, tag := tag, src := src, host := host, route := route, code := nfld (nth ws 2 0) 63 48, auth := auth || !s.b FAB_CTL 30 }
    let s1 : State := { s with fab := { s.fab with handles := s.fab.handles + 1, reqs := s.fab.reqs ++ [q] } }
    s1.postForeign 125 0 h (ws.drop 2)

/-- A complete message is handed on (R301). -/
def State.fabDeliver (s : State) (src host cls kind : Nat) (route : Option (Nat × List Nat)) (auth : Bool) (frames : List Frame) (ws : List Nat) : State :=
  match kind with
  | 0 =>
    let ty := nfld (nth ws 0 0) 63 56
    let frag := (ty == 0x06 && s.holds (2 + s.bldRole (fragKeyed ws) (fragNum ws))) || (ty == 0x0E && (List.range 4).any (fun b => s.holds (2 + b)))
    if frag then s.fragReceive ws
    else if s.b FAB_GW 31 then s.postForeign (80 + 4 * s.f FAB_GW 2 0 + (if cls = 1 then 1 else 3)) ty 0 ws
    else s.inc FAB_RXDISC
  | 1 => s.fabMessage ws
  | _ => s.fabMgmt src host route auth frames ws

/-! Reassembly. -/

/-- The words a message's fragments cover from its beginning. -/
def fragWords (fs : List (Nat × List Nat)) : List Nat :=
  (sortBy (fun (a b : Nat × List Nat) => decide (a.1 ≤ b.1)) fs).foldl
    (fun (acc : List Nat) (f : Nat × List Nat) => if f.1 ≤ acc.length then acc ++ f.2.drop (acc.length - f.1) else acc) []

/-- A fragment, which came as the frame `raw`, joins its message; a complete one is handed on. -/
def State.fabFragment (s : State) (arr : Nat) (f raw : Frame) (auth : Bool) : State :=
  let key (x : Reasm) : Bool := x.src == f.src && x.host == f.host && x.cls == f.cls && x.msgid == f.msgid
  let back := if f.sr && decide (arr < 8) then some ((List.range f.nhop).reverse.filterMap (fun i => if i = 0 then none else some (f.hop i))) else none
  let fin := if f.last then some (f.foff + f.payload.length) else none
  let x : Reasm := match s.fab.reasm.find? key with
    | some x => { x with frags := x.frags ++ [(f.foff, f.payload)], frames := x.frames ++ [raw], fin := if f.last then fin else x.fin, auth := x.auth && auth, arr := arr, route := back }
    | none => { src := f.src, host := f.host, cls := f.cls, msgid := f.msgid, kind := f.kind, since := s.up, frags := [(f.foff, f.payload)], fin := fin,
                arr := arr, route := back, auth := auth, frames := [raw] }
  let rest := s.fab.reasm.filter (fun y => !key y)
  let ws := fragWords x.frags
  let whole := match x.fin with | some n => decide (n ≤ ws.length) | none => false
  if whole then
    ({ s with fab := { s.fab with reasm := rest } } : State).fabDeliver x.src x.host x.cls x.kind (x.route.map (fun r => (x.arr, r))) x.auth x.frames ws
  else
    if s.fab.reasm.any key then { s with fab := { s.fab with reasm := s.fab.reasm.map (fun y => if key y then x else y) } }
    else
      let full := decide (1024 ≤ rest.length)
      let s1 := if full then s.inc FAB_REASMDROP else s
      { s1 with fab := { s1.fab with reasm := (if full then rest.drop 1 else rest) ++ [x] } }

/-- REASSEMBLY_TIMEOUT: messages not complete 10 ms after their first fragment. -/
def State.reasmTimeout (s : State) : State :=
  let old := s.fab.reasm.filter (fun (x : Reasm) => decide (x.since + 10 * ms ≤ s.up))
  let s1 := s.inc FAB_REASMDROP old.length
  { s1 with fab := { s1.fab with reasm := s1.fab.reasm.filter (fun (x : Reasm) => !decide (x.since + 10 * ms ≤ s.up)) } }

/-! Frames. -/

/-- A frame is counted in CRCERR. -/
def State.crcErr (s : State) (p : Nat) : State := (s.inc (FAB_PORT_CRCERR p)).bump 0xAE 1

/-- A frame for this module: its authentication is checked, it is decrypted, and it joins its message (R304 to R306). -/
def State.fabHere (s : State) (arr : Nat) (f : Frame) : State :=
  if f.auth then
    match s.authCheck (if f.kind = 2 then 0 else 1) f with
    | (some g, s1) => s1.fabFragment arr g f true
    | (none, s1) => s1
  else s.fabFragment arr f f false

/-- A frame that is not for this module waits for its output (R286, R298, R300). -/
def State.fabForward (s : State) (arr out : Nat) (f : Frame) (units : Nat) (stomp : Bool) : State :=
  if 16 ≤ f.hops then s.inc FAB_HOPDROP
  else
    let h2 := if f.sr then nset f.h2 (3 * f.hops + 2) (3 * f.hops) arr else f.h2
    let g := ({ f with h0 := nset f.h0 51 47 (f.hops + 1), h2 := h2 } : Frame).seal
    { s with fab := { s.fab with fwd := s.fab.fwd ++ [{ cls := f.cls, arr := arr, units := units, out := out, frame := g, stomp := stomp }] } }

/-- The fate of a frame with KIND 0 to 2 that has arrived at port `arr`: 0 delivered here, 1 forwarded on a port, 2 no route. -/
def State.fabFate (s : State) (f : Frame) : Nat × Nat :=
  if f.sr then (if f.hops = f.nhop then (0, 0) else (1, f.hop f.hops))
  else if s.b FAB_ID 30 && f.dst == s.dev then (0, 0)
  else match s.hopPort f.dst with
    | some q => (1, q)
    | none => (2, 0)

/-- TIMEX from its payload. -/
def State.timexFrame (s : State) (p : Nat) (ws : List Nat) : State :=
  let w0 := nth ws 0 0
  let w3 := nth ws 3 0
  s.timex p (nfld w0 63 32) (nfld w0 31 0) (nth ws 1 0) (nth ws 2 0) (nfld w3 63 62, w3.testBit 61, nfld w3 60 56, nfld w3 55 46, nfld w3 45 30)

/-- A link-local frame (R289). -/
def State.fabLocal (s : State) (p : Nat) (f : Frame) (done : Bool) : State :=
  match f.ltype with
  | 1 => (s.pher p f).dbDone p done
  | 2 => (s.timexFrame p f.payload).dbDone p done
  | 3 => (s.lcred p (nth f.payload 0 0)).dbDone p done
  | 4 => s.lsa p f done
  | _ => s

/-- Units of a class that a peer may still send here: the buffer, less what it has sent and has not been told to be free (R287, R288). -/
def State.rxRoom (s : State) (p c : Nat) (crit : Bool) : Nat :=
  let x := s.fport p
  let occ : Nat := vget x.occ c 0
  let freed : Nat := vget x.freed c 0
  let told : Nat := vget x.told c 0
  (if c = 1 ∧ !crit then classUnits 1 - critReserve else classUnits c) - (occ + (freed - told))

/-- FABRIC_FRAME: a frame arrives at port `p`. `sfd`: its seventh byte is 0xD6; `done`: with a link-local frame, the peer's whole database has been
sent. -/
def State.fabFrame (s : State) (p : Nat) (sfd : Bool) (f : Frame) (done : Bool) : State :=
  let crc := f.crcState
  if !s.fabPort p then s
  else if !sfd || !f.hcrcOk then s.crcErr p
  else
    let s1 := (s.incMod (FAB_PORT_RXFR p)).bump 0xAD 1
    if f.kind = 3 then (if crc = 1 then s1.crcErr p else if crc = 0 then s1.fabLocal p f done else s1)
    else if !s.portUp p then s1
    else
      let c := f.cls
      if s.rxRoom p c f.crit < f.units then s1.crcErr p
      else
        let s1 := s1.fportUpd p (fun x => { x with occ := vmod x.occ c (· + f.units) })
        if f.sr && !(f.kind == 2 || (f.kind == 1 && c == 2)) then s1.funfree p c f.units
        else match s.fabFate f with
          | (0, _) =>
            let s2 := if crc = 1 then s1.crcErr p else if crc = 0 then s1.fabHere p f else s1
            s2.funfree p c f.units
          | (1, q) =>
            let s2 := if crc = 1 then s1.inc (FAB_PORT_STOMP p) else s1
            if 16 ≤ f.hops then (s2.inc FAB_HOPDROP).funfree p c f.units else s2.fabForward p q f f.units (decide (crc ≠ 0))
          | _ => (s1.inc FAB_NOROUTE).funfree p c f.units

end Sys2Proof.Machine
end

