-- ==== Sys2Proof/Machine/FabTx.lean ====
section
/-! DEFINITION. What FAB sends: queue entries, engine messages, forwarded frames, forward taps, responses to management
requests (R287, R301 to R306). -/

namespace Sys2Proof.Machine

open Csr

/-! Responses to management requests (R304). -/

/-- FAB takes the oldest entry of Q126 that belongs to it and sends it as a KIND 2 frame with RESP 1. -/
def State.fabAnswer (s : State) : State :=
  match (if s.qEn 126 && !s.qHeld 126 then s.takeMine 126 (·.testBit 63) else none) with
  | none => s
  | some (e, s1) =>
    match s.fab.reqs.find? (fun (x : MgmtReq) => x.handle == e.tag) with
    | none => s1
    | some x =>
      let block := if e.length = 0 then respBlock x.code e.status [] else s.words64 e.addr (e.length / 8)
      let m : Msg := { dst := x.src, cls := 2, kind := 2, words := [x.tag, 2 ^ 63] ++ block, host := x.host, route := x.route }
      { s1 with fab := { s1.fab with reqs := s1.fab.reqs.filter (fun (y : MgmtReq) => y.handle != e.tag), out := s1.fab.out ++ [m] } }

/-- It takes every such entry. -/
def State.fabAnswers (s : State) : State := (List.range (s.qFill 126)).foldl (fun st _ => st.fabAnswer) s

/-! Chained containers: FAB and the decompressor follow the links (R333). -/

/-- The space CMP reserves for a container of `u` uncompressed bytes. -/
def State.reserve (s : State) (u : Nat) : Nat :=
  ((u * max 1 (s.f CMP_OCFG 19 16) + 15) / 16 + 72 + 4095) / 4096 * 4096

/-- Addresses of the words that follow a link. -/
def State.linkAddrs (s : State) : Nat → Nat → List Nat
  | 0, _ => []
  | k + 1, link => if link.testBit 63 then
      let a := nfld link 39 0
      (List.range 8191).map (fun i => a + 8 * i) ++ State.linkAddrs s k (s.word64 (a + 8 * 8191))
    else []

/-- Addresses of the `n` words of a record, the links of a chained container followed. -/
def State.recAddrs (s : State) (a n : Nat) : List Nat :=
  let chain := nfld (s.word64 a) 63 56 == 0x0C && (s.word64 (a + 8)).testBit 15
  if !chain then (List.range n).map (fun i => a + 8 * i)
  else
    let k := s.reserve (s.word64 (a + 56)) / 8 - 1
    ((List.range k).map (fun i => a + 8 * i) ++ s.linkAddrs (n / 8191 + 1) (s.word64 (a + 8 * k))).take n

/-- Its words. -/
def State.recWords (s : State) (a n : Nat) : List Nat := (s.recAddrs a n).map s.word64

/-! Messages (R301). -/

/-- The destination of a queue entry of class `k`: TAG, or FAB.DSINK for DATA. -/
def State.entryDst (s : State) (k : Nat) (e : Entry) : Option Nat :=
  if e.tag.testBit 31 then some (nfld e.tag 25 16)
  else if k = 3 && s.b FAB_DSINK 31 then some (s.f FAB_DSINK 9 0) else none

/-- The port on which a message for a device leaves: the port of its queue while that is UP, else the first hop; none while the device is
unreachable. -/
def State.outPort (s : State) (p d : Nat) : Option Nat := match s.hopPort d with | some h => some (if s.portUp p then p else h) | none => none

/-- The port on which a message that has begun goes on: that of a source route, of its queue or tap as above, or the first hop. -/
def State.progPort (s : State) (x : TxProg) : Option Nat :=
  if x.route.isSome then some x.port
  else if x.tap.isSome || (decide (80 ≤ x.src) && decide (x.src ≤ 111)) then s.outPort x.port x.dst
  else s.hopPort x.dst

/-- The payload of a queue entry. -/
def State.entryWords (s : State) (e : Entry) : List Nat := s.recWords e.addr ((e.length + 7) / 8)

/-- A message begun for the oldest entry of a queue. -/
def State.txEntry (s : State) (q : Nat) (tap : Option Nat) (port k d : Nat) : TxProg :=
  { src := q, tap := tap, msgid := 0, sent := 0, port := port, cls := k, kind := 0, crit := q == 120, dst := d, host := 0, route := none,
    words := s.entryWords (s.qEntry q (s.qHead q)), addr := some (s.qEntry q (s.qHead q)).addr }

/-- A message begun for one of the engines. -/
def txMsg (port : Nat) (m : Msg) : TxProg :=
  { src := 128, tap := none, msgid := 0, sent := 0, port := port, cls := m.cls, kind := m.kind, crit := false, dst := m.dst, host := m.host,
    route := m.route, words := m.words, addr := none }

/-- A queue's oldest entry is already on its way. -/
def State.txBusy (s : State) (q : Nat) : Bool := s.fab.prog.any (fun (x : TxProg) => x.src == q)

/-- The destination of a forward tap's oldest entry (R302). -/
def State.tapDst (s : State) (t : Nat) : Option Nat :=
  let c := s.csrRaw (FAB_FWD t)
  let q := fld c 30 24
  if bit c 18 then some (fld c 9 0) else s.entryDst (fld c 20 19) (s.qEntry q (s.qHead q))

/-- The message a forward tap of class `k` could begin on port `p` (R302). -/
def State.tapCand (s : State) (p k t : Nat) : Option TxProg :=
  let c := s.csrRaw (FAB_FWD t)
  let q := fld c 30 24
  let p' := fld c 23 21
  if !bit c 31 || fld c 20 19 != k || s.b (FAB_PORT_CFG p') 30 || !s.qReady q || s.txBusy q || !s.b FAB_ID 30 then none
  else match s.tapDst t with
    | some d => if d != s.dev && s.outPort p' d == some p then some (s.txEntry q (some t) p' k d) else none
    | none => none

/-- The messages that could leave on port `p` in class `k`, those begun first. -/
def State.txCands (s : State) (p k : Nat) : List TxProg :=
  let begun := s.fab.prog.filter (fun (x : TxProg) => x.cls == k && s.progPort x == some p)
  let eng := (s.fab.out.filter (fun (m : Msg) => m.cls == k && m.dst != s.dev || m.cls == k && m.route.isSome)).filterMap (fun (m : Msg) =>
    match m.route with
    | some r => if r.1 = p then some (txMsg p m) else none
    | none => if s.b FAB_ID 30 && s.hopPort m.dst == some p then some (txMsg p m) else none)
  let qs := (List.range 8).filterMap (fun p' =>
    let q := 80 + 4 * p' + k
    if s.b (FAB_PORT_CFG p') 30 || !s.qReady q || s.txBusy q || !s.b FAB_ID 30 then none
    else match s.entryDst k (s.qEntry q (s.qHead q)) with
      | some d => if d != s.dev && s.outPort p' d == some p then some (s.txEntry q none p' k d) else none
      | none => none)
  let al := if k = 1 && s.b FAB_ASINK 31 && s.b FAB_ID 30 then [120, 121, 122, 123].filterMap (fun q =>
      let d := s.f FAB_ASINK 9 0
      if s.qReady q && !s.txBusy q && s.hopPort d == some p then some (s.txEntry q none p 1 d) else none) else []
  begun ++ eng ++ al ++ (List.range 8).filterMap (s.tapCand p k) ++ qs

/-- The slot a message's frames are authenticated with, and whether they are encrypted (R305, R306). -/
def State.txKey (s : State) (x : TxProg) : Option Nat × Bool :=
  let enc := s.b FAB_CTL 28 && x.cls != 0
  if x.kind = 2 then (if s.b FAB_CTL 30 || enc then some 0 else none, enc) else (if enc then some 1 else none, enc)

/-- The first word of the next frame that holds poison (R317). -/
def State.txPoison (s : State) (x : TxProg) : Option Nat :=
  match x.addr with | some a => (((s.recAddrs a x.words.length).drop x.sent).take 512).find? (fun b => s.poisoned b 8) | none => none

/-- The next frame of a message. -/
def State.txFrame (s : State) (x : TxProg) : Frame :=
  let key := s.txKey x
  let pay := (x.words.drop x.sent).take 512
  (s.mkFrame x.cls x.kind key.1.isSome key.2 (decide (x.words.length ≤ x.sent + 512)) x.crit x.dst x.host x.msgid x.sent 0 (key.1.getD 0) (x.route.map (·.2)) pay).stomped
    (s.txPoison x).isSome

/-- The port holds credit for a frame (R287). -/
def State.txCredit (s : State) (p c n : Nat) (crit : Bool) : Bool :=
  let have_ : Nat := vget (s.fport p).credit c 0
  decide (n + (if c = 1 ∧ !crit then critReserve else 0) ≤ have_)

/-- The key of a message's frames, if they need one, can be used. -/
def State.txKeyed (s : State) (x : TxProg) : Bool := match (s.txKey x).1 with | some k => s.keyUsable k | none => true

/-- The record of a message lies in DRAM whose requests are held. -/
def State.txHeld (s : State) (x : TxProg) : Bool := match x.addr with | some a => s.memHeld && inDram a 1 | none => false

/-- The next frame of a message can leave now. -/
def State.txReady (s : State) (p : Nat) (x : TxProg) : Bool := !s.txHeld x && s.txCredit p x.cls (s.txFrame x).units x.crit && s.txKeyed x

/-- Credit is spent. -/
def State.txSpend (s : State) (p c n : Nat) : State := s.fportUpd p (fun x => { x with credit := vmod x.credit c (fun v => v - n) })

/-- A message has left whole: its queue's HEAD advances, its tap counts. -/
def State.txDone (s : State) (x : TxProg) : State :=
  if x.src = 128 then s
  else
    let s1 := s.dequeue x.src
    match x.tap with | some t => s1.incMod (FAB_FWDCNT t) | none => s1

/-- One frame of a message is made: errors in the words it reads are counted, and so is the frame under its key. -/
def State.txMade (s : State) (x : TxProg) : State :=
  let s0 := match x.addr with
    | some a => (((s.recAddrs a x.words.length).drop x.sent).take 512).foldl (fun st b => st.dramRead b 8) s
    | none => s
  match (s.txKey x).1 with | some k => s0.useFcnt k | none => s0

/-- The next frame of a message leaves on port `p`; what is left of it waits, so that a higher class can go between two frames (R287). -/
def State.txRun (s : State) (p : Nat) (x : TxProg) : State :=
  let f := s.txFrame x
  let s1 := ((s.txMade x).txSpend p x.cls f.units).fsent p f
  if x.words.length ≤ x.sent + 512 then s1.txDone x
  else { s1 with fab := { s1.fab with prog := { x with sent := x.sent + 512 } :: s1.fab.prog } }

/-- A message takes its MSGID, and leaves the list it waits in. -/
def State.txTake (s : State) (p : Nat) (x : TxProg) : TxProg × State :=
  if s.fab.prog.contains x then (x, { s with fab := { s.fab with prog := s.fab.prog.erase x } })
  else
    let id : Nat := vget s.fab.msgid x.cls 0
    let out := if x.src = 128 then (match s.fab.out.find? (fun (m : Msg) => txMsg p m == x) with | some m => s.fab.out.erase m | none => s.fab.out) else s.fab.out
    ({ x with msgid := id }, { s with fab := { s.fab with msgid := vmod s.fab.msgid x.cls (fun v => (v + 1) % 2 ^ 32), out := out } })

/-- A message starts or goes on with one frame. -/
def State.txStart (s : State) (p : Nat) (x : TxProg) : State := let r := s.txTake p x; r.2.txRun p r.1

/-- The frames of a message to this module itself, as they would leave. -/
def State.selfFrames (s : State) : Nat → TxProg → List Frame × State
  | 0, _ => ([], s)
  | n + 1, x =>
    let f := s.txFrame x
    let s1 := s.txMade x
    if x.words.length ≤ x.sent + 512 then ([f], s1)
    else
      let r := State.selfFrames s1 n { x with sent := x.sent + 512 }
      (f :: r.1, r.2)

/-- A message of an engine to this module itself; a management message goes as the frames it is (R298, R312). -/
def State.selfMsg (s : State) (m : Msg) : State :=
  let r := s.txTake 0 (txMsg 0 m)
  let x := if m.kind = 2 then r.2.selfFrames (m.words.length / 512 + 1) r.1
    else ([], { s with fab := { s.fab with out := s.fab.out.erase m } })
  x.2.fabDeliver s.dev m.host m.cls m.kind none true x.1 m.words

/-- The queues whose oldest entry is for this module itself, with the CLASS of its message: those of the ports, and Q120 to Q123 while FAB.ASINK
names it (R298, R301). -/
def State.selfQueue (s : State) : Option (Nat × Nat) :=
  let ready (q : Nat) : Bool := s.qReady q && !s.txBusy q && s.b FAB_ID 30 && !(s.memHeld && inDram (s.qEntry q (s.qHead q)).addr 1)
  match (List.range 32).find? (fun i => ready (80 + i) && !s.b (FAB_PORT_CFG (i / 4)) 30
      && s.entryDst (i % 4) (s.qEntry (80 + i) (s.qHead (80 + i))) == some s.dev) with
  | some i => some (80 + i, i % 4)
  | none =>
    if s.b FAB_ASINK 31 && s.f FAB_ASINK 9 0 == s.dev then ([120, 121, 122, 123].find? ready).map (fun q => (q, 1)) else none

/-- Messages of this module to itself are delivered without leaving (R298). -/
def State.txSelf (s : State) : State :=
  match s.fab.out.find? (fun (m : Msg) => s.b FAB_ID 30 && m.dst == s.dev && m.route.isNone && s.txKeyed (txMsg 0 m)) with
  | some m => s.selfMsg m
  | none =>
    match s.selfQueue with
    | some (q, k) =>
      let ws := s.entryWords (s.qEntry q (s.qHead q))
      (s.dequeue q).fabDeliver s.dev 0 k 0 none true [] ws
    | none => s

/-- An entry without a destination is discarded (R301), and on an Ethernet port the entries of its TIME and CONTROL queues (R311). -/
def State.txDiscard (s : State) (p : Nat) : State :=
  (List.range 4).foldl (fun st k =>
    let q := 80 + 4 * p + k
    if !st.qReady q || st.txBusy q then st
    else if st.b (FAB_PORT_CFG p) 30 then (if k % 2 = 0 then (st.dequeue q).incF (FAB_ETH_DISC p) 31 16 else st)
    else if (st.entryDst k (st.qEntry q (st.qHead q))).isNone then (st.dequeue q).inc FAB_NOROUTE else st) s

/-- A forwarded frame leaves. -/
def State.txForward (s : State) (p : Nat) (x : FwdFrame) : State :=
  let s1 := (s.txSpend p x.cls x.frame.units).fsent p (x.frame.stomped x.stomp)
  let s2 : State := { s1 with fab := { s1.fab with fwd := s1.fab.fwd.erase x } }
  if x.arr < 8 then s2.funfree x.arr x.cls x.units else s2

/-- A forwarded frame can leave on port `p`: the port of its source route, or the first hop. -/
def State.fwdReady (s : State) (p k : Nat) (x : FwdFrame) : Bool :=
  x.cls == k && (if x.frame.sr then x.out == p else s.hopPort x.frame.dst == some p) && s.txCredit p k x.frame.units x.frame.crit

/-- What leaves next on port `p` in class `k`, where credit allows: frames that are forwarded first. -/
def State.txPick (s : State) (p k : Nat) : Option (Sum FwdFrame TxProg) :=
  match s.fab.fwd.find? (s.fwdReady p k) with
  | some x => some (.inl x)
  | none => ((s.txCands p k).find? (s.txReady p)).map .inr

/-- Frames that wait here and whose destination has become unreachable are discarded (R298). -/
def State.fwdPurge (s : State) : State :=
  s.fab.fwd.foldl (fun st (x : FwdFrame) =>
    if x.frame.sr || (st.hopPort x.frame.dst).isSome then st
    else
      let s1 := st.inc FAB_NOROUTE
      let s2 : State := { s1 with fab := { s1.fab with fwd := s1.fab.fwd.erase x } }
      if x.arr < 8 then s2.funfree x.arr x.cls x.units else s2) s

/-- FAB_SEND on port `p`: the first frame or message, in the class order of R287, that credit allows. -/
def State.fabSend (s0 : State) (p : Nat) : State :=
  let s := (s0.fabAnswers.txSelf.txDiscard p).fwdPurge
  if !s.portUp p then s
  else
    match (List.range 4).findSome? (s.txPick p) with
    | some (.inl x) => s.txForward p x
    | some (.inr x) => s.txStart p x
    | none => s

/-! Forward taps (R302). -/

/-- The queues a tap may take. -/
def tapQueues : List Nat := [64, 65, 66, 67, 68, 69, 70, 71, 73, 74, 76, 77, 78, 79, 114, 115, 124]


/-- A tap is switched off: on a port in Ethernet mode the record it has begun is still sent, and its pieces awaited (R302). -/
def State.drainTap (s : State) (t : Nat) : State :=
  let c := s.csrRaw (FAB_FWD t)
  let p := fld c 23 21
  let q := fld c 30 24
  let begun := (match spGet (s.eport p).prog q with | some x => decide (0 < x.2) | none => false) || (s.eport p).pieces.any (fun (x : EthPiece) => x.q == q)
  cond (s.b (FAB_PORT_CFG p) 30 && begun) (·.eportUpd p (fun y => { y with drain := y.drain ++ [(q, t, fld c 20 19)] })) s

/-- FWD_WRITE: a write of FAB.FWD[t]. -/
def State.writeFwd (s : State) (t : Nat) (v : Word) : State :=
  let old := s.csrRaw (FAB_FWD t)
  if bit old 31 then
    let s1 := cond (!bit v 31) (·.drainTap t) (s.setB (FAB_FWD t) 31 (bit v 31))
    if setBit old 31 false != setFld (setBit v 31 false) 17 10 0 then s1.bump 0x05 1 else s1
  else
    let q := fld v 30 24
    let bad := !tapQueues.contains q || (List.range 8).any (fun u => u != t && s.b (FAB_FWD u) 31 && s.f (FAB_FWD u) 30 24 == q) || s.cmpTaps q
    let w := setFld v 17 10 0
    if bit v 31 && bad then (s.setCsr (FAB_FWD t) (setBit w 31 false)).setB FAB_STAT 7 true
    else s.setCsr (FAB_FWD t) w

/-- A message can leave on port `p` now: credit allows it, and nothing of a higher class is ready there (R287). -/
def State.txTurn (s : State) (p : Nat) (x : TxProg) : Bool := s.portUp p && s.txReady p x && ((List.range x.cls).findSome? (s.txPick p)).isNone

/-- FWD_TAP_SEND on a fabric-mode port: the tap's oldest entry, or the message it has begun. -/
def State.tapSend (s : State) (t : Nat) : State :=
  let c := s.csrRaw (FAB_FWD t)
  let q := fld c 30 24
  match s.fab.prog.find? (fun (x : TxProg) => x.tap == some t) with
  | some x =>
    match s.progPort x with
    | some p => if s.txTurn p x then s.txStart p x else s
    | none => s
  | none =>
    if !bit c 31 || !s.qReady q || !s.b FAB_ID 30 then s
    else match s.tapDst t with
      | none => ((s.dequeue q).inc FAB_NOROUTE)
      | some d =>
        if d = s.dev then ((s.dequeue q).incMod (FAB_FWDCNT t)).fabDeliver s.dev 0 (fld c 20 19) 0 none true [] (s.entryWords (s.qEntry q (s.qHead q)))
        else match s.outPort (fld c 23 21) d with
          | none => s
          | some p =>
            let x := s.txEntry q (some t) (fld c 23 21) (fld c 20 19) d
            if s.txTurn p x then s.txStart p x else s

end Sys2Proof.Machine
end

