-- ==== Sys2Proof/Machine/Eth.lean ====
section
/-! DEFINITION. Ethernet-mode ports, management datagrams, the PTP clock and fabric keys (R307, R310 to R313). -/

namespace Sys2Proof.Machine

open Csr

/-- Where records of a port go, DST4 or DST6; and over IPv4 the address whose owner takes the datagram: the destination itself within the prefix,
else the gateway (R310, R311). -/
def State.ethDst (s : State) (p : Nat) : Nat :=
  if s.b (FAB_ETH_XCFG p) 31 then (List.range 4).foldl (fun n i => n + (s.csrRaw (FAB_ETH_DST6 p i)).toNat * 2 ^ (32 * i)) 0
  else (s.csrRaw (FAB_ETH_DST4 p)).toNat
def State.ethHop (s : State) (p : Nat) : Nat :=
  let d := s.ethDst p
  let n := 2 ^ (32 - min 32 (s.f (FAB_ETH_MASK4 p) 5 0))
  if d / n = (s.csrRaw (FAB_ETH_IP4 p)).toNat / n then d else (s.csrRaw (FAB_ETH_GW4 p)).toNat

/-- The link address of the next hop is known: an entry of the ARP cache, or over IPv6 of the ND cache, of 300 s (R310; for ND DESIGN CHOICE,
notes/assumptions/123.md). -/
def State.ethKnown (s : State) (p : Nat) : Bool :=
  let has (l : List (Nat × Nat)) (a : Nat) : Bool := l.any (fun x => x.1 == a && decide (s.up < x.2 + 300 * psPerSec))
  if s.b (FAB_ETH_XCFG p) 31 then has (s.eport p).nd (s.ethDst p) else has (s.eport p).arp (s.ethHop p)

/-- A cache with an address just heard: 16 entries of 300 s. -/
def State.ethCache (s : State) (l : List (Nat × Nat)) (a : Nat) : List (Nat × Nat) :=
  ((a, s.up) :: l.filter (fun x => x.1 != a && decide (s.up < x.2 + 300 * psPerSec))).take 16

/-- A datagram to the record destination leaves; and the ARP request that must come before it. -/
def State.ethTo (s : State) (p kind dseq w1 : Nat) (words : List Nat) : State :=
  s.ethTx p { kind := .datagram, dst := s.ethDst p, port := s.f (FAB_ETH_UDP p) 31 16, w0 := ethHead kind p s.dev dseq, w1 := w1, words := words }
/-- The link address of the next hop is asked for (R310). -/
def State.ethAsk (s : State) (p : Nat) : State :=
  s.ethTx p (if s.b (FAB_ETH_XCFG p) 31 then { kind := .neighbourSolicit, dst := s.ethDst p } else { kind := .arpRequest, dst := s.ethHop p })

/-- The bytes of a piece, as little-endian words, the last one padded with zeros. -/
def State.pieceWords (s : State) (x : EthPiece) : List Nat :=
  let e := s.qEntry x.q x.qseq
  (((s.recWords e.addr ((e.length + 7) / 8)).drop (x.roff / 8)).take ((x.n + 7) / 8)).mapIdx (fun i w => w % 2 ^ (8 * min 8 (x.n - 8 * i)))

/-- A piece leaves, for the first time or again. -/
def State.ethPieceTx (s : State) (p : Nat) (x : EthPiece) : State := s.ethTo p 1 x.dseq (x.roff * 2 ^ 32 + x.rlen) (s.pieceWords x)

/-- A frame is received on an Ethernet port. -/
def State.ethRx (s : State) (p : Nat) : State := s.incMod (FAB_PORT_RXFR p)

/-- A frame is discarded on receipt. -/
def State.ethDisc (s : State) (p : Nat) : State := s.incF (FAB_ETH_DISC p) 15 0

/-- UNACK follows the pieces outstanding. -/
def State.ethUnack (s : State) (p : Nat) : State :=
  s.setF (FAB_ETH_UNACK p) 12 0 ((s.eport p).pieces.filter (fun (x : EthPiece) => !x.acked)).length

/-- Queues whose records an Ethernet port sends, ALARM first: its own, those of the taps to it, and those of taps switched off in the middle of a
record (R302, R311). -/
def State.ethQueues (s : State) (p : Nat) : List Nat :=
  let taps (k : Nat) : List Nat := (List.range 8).filterMap (fun t =>
    let c := s.csrRaw (FAB_FWD t)
    if bit c 31 && fld c 23 21 == p && fld c 20 19 == k then some (fld c 30 24) else none)
    ++ ((s.eport p).drain.filter (fun (d : Nat × Nat × Nat) => d.2.2 == k)).map (fun d => d.1)
  [80 + 4 * p + 1] ++ taps 1 ++ [80 + 4 * p + 3] ++ taps 3

/-- Bytes of a piece: as many as the MTU allows, a multiple of 8. -/
def State.ethPieceMax (s : State) (p : Nat) : Nat :=
  let mtu := clampN 1280 9000 (s.f (FAB_ETH_XCFG p) 15 0)
  (mtu - (if s.b (FAB_ETH_XCFG p) 31 then 40 else 20) - 8 - 16) / 8 * 8

/-- RTO in ps. -/
def State.ethRto (s : State) (p : Nat) : Nat := max 1 (s.f (FAB_ETH_WIN p) 31 16) * ms

/-- Next record (entry count) and byte of a queue. -/
def State.ethNext (s : State) (p q : Nat) : Nat × Nat := (spGet (s.eport p).prog q).getD (s.qHead q, 0)

/-- A queue has a record of which a piece is still to be sent; of a tap switched off, only the record it has begun. -/
def State.ethHas (s : State) (p q : Nat) : Bool :=
  let i := (s.ethNext p q).1
  s.qEn q && !s.qHeld q && !(s.memHeld && inDram (s.qEntry q i).addr 1) && (decide (0 < (s.ethNext p q).2) || !(s.eport p).drain.any (fun (d : Nat × Nat × Nat) => d.1 == q)) && decide ((i + 2 ^ 32 - s.qHead q) % 2 ^ 32 < s.qFill q) && (s.word64 (s.qSlot q i)).testBit 63

/-- The window has room for another piece (R311). -/
def State.ethRoom (s : State) (p : Nat) : Bool :=
  match (s.eport p).pieces.find? (fun (x : EthPiece) => !x.acked) with
  | none => true
  | some x => decide (((s.eport p).dseq + 2 ^ 32 - x.dseq) % 2 ^ 32 ≤ clampN 1 4096 (s.f (FAB_ETH_WIN p) 15 0))

/-- The next piece of a queue's record leaves. -/
def State.ethPieceOf (s : State) (p q : Nat) : State :=
  let x := s.ethNext p q
  let e := s.qEntry q x.1
  let n := min (s.ethPieceMax p) (e.length - x.2)
  let fin := decide (e.length ≤ x.2 + n)
  let pc : EthPiece := { dseq := (s.eport p).dseq, q := q, qseq := x.1, roff := x.2, n := n, rlen := e.length, sentAt := s.up, first := s.up, reps := 0, acked := false }
  let nx := if fin then ((x.1 + 1) % 2 ^ 32, 0) else (x.1, x.2 + n)
  let s1 := s.eportUpd p (fun y => { y with dseq := (y.dseq + 1) % 2 ^ 32, pieces := y.pieces ++ [pc], prog := spPut y.prog q (some nx) })
  (s1.ethPieceTx p pc).ethUnack p

/-- ETH_PIECE_SEND: the next piece within the window. -/
def State.ethPiece (s : State) (p : Nat) : State :=
  if !s.ethPort p || !s.b (FAB_ETH_XCFG p) 30 || !s.ethRoom p then s
  else match (s.ethQueues p).find? (s.ethHas p) with
    | some q => if s.ethKnown p then s.ethPieceOf p q else s.ethAsk p
    | none => s

/-- FWD_TAP_SEND on any port: on an Ethernet port TIME and CONTROL entries are discarded and the others go as pieces. -/
def State.fwdTap (s : State) (t : Nat) : State :=
  let c := s.csrRaw (FAB_FWD t)
  let p := fld c 23 21
  let q := fld c 30 24
  if !s.b (FAB_PORT_CFG p) 30 then s.tapSend t
  else if !bit c 31 then (match (s.eport p).drain.find? (fun (d : Nat × Nat × Nat) => d.2.1 == t) with
    | some d => if s.ethPort p && s.ethRoom p && s.ethHas p d.1 then (if s.ethKnown p then s.ethPieceOf p d.1 else s.ethAsk p) else s
    | none => s)
  else if fld c 20 19 % 2 = 0 then (if s.qReady q then (s.dequeue q).incF (FAB_ETH_DISC p) 31 16 else s)
  else if s.ethPort p && s.b (FAB_ETH_XCFG p) 30 && s.ethRoom p && s.ethHas p q then (if s.ethKnown p then s.ethPieceOf p q else s.ethAsk p) else s

/-- QUE.HEAD of a queue advances past the records whose pieces are all acknowledged. -/
def State.ethRelease (s : State) (p q : Nat) : State :=
  (List.range (s.qFill q)).foldl (fun st _ =>
    let h := st.qHead q
    let sent := match spGet (st.eport p).prog q with | some x => x.1 != h | none => false
    let mine := (st.eport p).pieces.filter (fun (x : EthPiece) => x.q == q && x.qseq == h)
    if sent && !mine.isEmpty && mine.all (fun (x : EthPiece) => x.acked) then
      let s1 := (st.dequeue q).eportUpd p (fun y => { y with pieces := y.pieces.filter (fun (x : EthPiece) => !(x.q == q && x.qseq == h)) })
      match (st.eport p).drain.find? (fun (d : Nat × Nat × Nat) => d.1 == q), (List.range 8).find? (fun t => s.b (FAB_FWD t) 31 && s.f (FAB_FWD t) 30 24 == q) with
      | some d, _ =>
        let s2 := s1.incMod (FAB_FWDCNT d.2.1)
        let y := s2.eport p
        cond ((match spGet y.prog q with | some x => x.2 == 0 | none => true) && !y.pieces.any (fun (x : EthPiece) => x.q == q))
          (·.eportUpd p (fun y => { y with drain := y.drain.filter (fun d => d.1 != q) })) s2
      | none, some t => if q < 80 ∨ 111 < q then s1.incMod (FAB_FWDCNT t) else s1
      | none, none => s1
    else st) s

/-- ETH_ACK: DSEQ is the next piece expected and bit i of SACK stands for piece DSEQ + 1 + i. -/
def State.ethAck (s : State) (p dseq sack : Nat) : State :=
  if !s.ethPort p then s
  else
    let got (x : EthPiece) : Bool :=
      let d := (x.dseq + 2 ^ 32 - dseq) % 2 ^ 32
      decide (2 ^ 31 ≤ d) || (decide (1 ≤ d) && decide (d ≤ 32) && sack.testBit (d - 1))
    let old := (s.eport p).pieces.find? (fun (x : EthPiece) => !x.acked)
    let ps := (s.eport p).pieces.map (fun (x : EthPiece) => if got x then { x with acked := true } else x)
    let moved := match old with | some x => got x | none => false
    let ps := if moved then ps.map (fun (x : EthPiece) => { x with reps := 0 }) else ps
    let s1 := (s.ethRx p).eportUpd p (fun y => { y with pieces := ps, sync := false, ackAt := s.up, alarmed := y.alarmed && !moved })
    ((s1.ethQueues p).foldl (fun st q => st.ethRelease p q) s1).ethUnack p

/-- Pieces outstanding for 5 s raise a major alarm once. -/
def State.ethStale (s : State) (p : Nat) : State :=
  let x := s.eport p
  if x.pieces.any (fun (y : EthPiece) => !y.acked && decide (y.first + 5 * psPerSec ≤ s.up)) && !x.alarmed then
    (s.eportUpd p (fun y => { y with alarmed := true })).alarm 1 (FAB_ETH_UNACK p) 0x3F
  else s

/-- ETH_SYNC_TIMEOUT: at link up and after 5 s without an ACK a SYNC with the first number of the stream is sent. -/
def State.ethSync (s0 : State) (p : Nat) : State :=
  let s := s0.ethStale p
  let x := s.eport p
  let late := decide (x.ackAt + 5 * psPerSec ≤ s.up)
  if !s.ethPort p || !s.b (FAB_ETH_XCFG p) 30 || !(late || !x.sync && x.ackAt == 0) then s
  else if !s.ethKnown p then s.ethAsk p
  else
    let first := match x.pieces.find? (fun (y : EthPiece) => !y.acked) with | some y => y.dseq | none => x.dseq
    (s.eportUpd p (fun y => { y with sync := true, ackAt := s.up })).ethTo p 3 first 0 []

/-- ETH_RETRANSMIT: a piece not acknowledged within its timeout, which doubles at each repeat up to 1 s. -/
def State.ethRetransmit (s0 : State) (p : Nat) : State :=
  let s := s0.ethStale p
  let due (x : EthPiece) : Bool := !x.acked && decide (x.sentAt + min (psPerSec) (s.ethRto p * 2 ^ x.reps) ≤ s.up)
  match (if s.ethPort p then (s.eport p).pieces.find? due else none) with
  | none => s
  | some x =>
    if !s.ethKnown p then s.ethAsk p else
    ((s.eportUpd p (fun y => { y with pieces := y.pieces.map (fun (z : EthPiece) => if z = x then { z with sentAt := s.up, reps := z.reps + 1 } else z) })).inc
      (FAB_ETH_RETX p)).ethPieceTx p x

/-- ETH_MGMT_DATAGRAM: a KIND 2 frame in a datagram at MPORT; its first fragment opens a request (R312). -/
def State.ethMgmt (s : State) (p addr port : Nat) (f : Frame) : State :=
  if !s.ethPort p then s
  else if !s.b (FAB_ETH_XCFG p) 29 || f.kind != 2 || f.src != s.dev || f.host == 0 || !f.hcrcOk then (s.ethRx p).ethDisc p
  else
    let s1 := s.ethRx p
    match (if f.auth then s1.authCheck 0 f else (some f, s1)) with
    | (none, s2) => s2
    | (some g, s2) =>
      let open_ := (s2.eport p).reqs
      let first := f.foff == 0
      if first && decide (256 ≤ open_.length) then s2.ethDisc p
      else
        let s3 := cond first (·.eportUpd p (fun y => { y with reqs := y.reqs ++ [(f.host, nth g.payload 0 0, addr, port)] })) s2
        match s3.fabFate f with
        | (0, _) => s3.fabFragment 8 g f f.auth
        | (1, q) => s3.fabForward p q f 0 false
        | _ => s3.inc FAB_NOROUTE

/-- ETH_ARP: a request for this port's address is answered; the sender of a request to this port or of a reply enters the cache of 16 entries
for 300 s (R310). -/
def State.ethArp (s : State) (p : Nat) (reply : Bool) (target sender : Nat) : State :=
  if !s.ethPort p then s
  else
    let s1 := s.ethRx p
    let mine := decide (target = (s.csrRaw (FAB_ETH_IP4 p)).toNat)
    let s2 := cond (reply || mine) (·.eportUpd p (fun y => { y with arp := s.ethCache y.arp sender })) s1
    cond (!reply && mine) (·.ethTx p { kind := .arpReply, dst := sender }) s2

/-- Duplicate address detection of an own address is over, a second after the link came up, and has found none (RFC 4862, R310). -/
def State.ethHolds (s : State) (p a : Nat) : Bool :=
  (s.ethOwn6 p).contains a && decide ((s.eport p).dadAt + psPerSec ≤ s.up) && !(s.eport p).dups.contains a

/-- An own address is found in use elsewhere. -/
def State.ethDup (s : State) (p a : Nat) : State := s.eportUpd p (fun y => { y with dups := a :: y.dups.filter (· != a) })

/-- ETH_ND: a solicitation for one of this port's addresses is answered, and its sender enters the cache, as does the target of an advertisement; an
advertisement of an own address, or during detection a solicitation for it from the unspecified address, shows a duplicate (RFC 4861, RFC 4862, R310). -/
def State.ethNd (s : State) (p : Nat) (solicit : Bool) (target sender : Nat) : State :=
  let own := (s.ethOwn6 p).contains target
  let s1 := s.ethRx p
  if !s.ethPort p then s
  else if !solicit then
    if own then s1.ethDup p target else s1.eportUpd p (fun y => { y with nd := s.ethCache y.nd target })
  else if !own then s1.ethDisc p
  else if !s.ethHolds p target then (if sender = 0 && !(s.eport p).dups.contains target then s1.ethDup p target else s1)
  else (cond (sender != 0) (·.eportUpd p (fun y => { y with nd := s.ethCache y.nd sender })) s1).ethTx p { kind := .neighbourAdvert, dst := sender }

/-- ETH_ECHO: an ICMP or ICMPv6 echo request to one of this port's addresses is answered with the bytes it carries after its checksum: identifier,
sequence number and data (RFC 792, RFC 4443). -/
def State.ethEcho (s : State) (p : Nat) (v6 : Bool) (target sender : Nat) (data : List Nat) : State :=
  let mine := if v6 then s.ethHolds p target else decide (target = (s.csrRaw (FAB_ETH_IP4 p)).toNat)
  if !s.ethPort p then s else if mine then (s.ethRx p).ethTx p { kind := .echoReply, dst := sender, words := data } else (s.ethRx p).ethDisc p

/-- ETHERNET_FRAME_DISCARDED. -/
def State.ethOther (s : State) (p : Nat) : State := if !s.ethPort p then s else (s.ethRx p).ethDisc p

/-! PTP (R313): an ordinary clock of IEEE 1588-2019, slave only. -/

/-- One list of numbers is smaller than another of the same length in their first difference. -/
def lexLt : List Nat → List Nat → Bool
  | a :: x, b :: y => decide (a < b) || (a == b && lexLt x y)
  | _, _ => false

/-- The data-set comparison: by grandmaster where the grandmasters differ, else by the steps to it and then by the sender (clause 9.3.4). -/
def PtpMaster.better (a b : PtpMaster) : Bool :=
  if nth a.ds 5 0 = nth b.ds 5 0 then lexLt [nth a.ds 6 0, a.src] [nth b.ds 6 0, b.src] else lexLt (a.ds.take 6) (b.ds.take 6)

/-- The Announce interval of a master in ps. -/
def PtpMaster.intv (m : PtpMaster) : Nat := if 0 ≤ m.logInt then psPerSec * 2 ^ m.logInt.toNat else psPerSec / 2 ^ (-m.logInt).toNat

/-- A master is heard: its last Announce came within three intervals. -/
def State.ptpHeard (s : State) (m : PtpMaster) : Bool := decide (s.up ≤ m.last + 3 * m.intv)

/-- It qualifies: the two last Announces came within four intervals, and it lies within 255 steps (clause 9.3.2.5). -/
def State.ptpQualified (s : State) (m : PtpMaster) : Bool :=
  s.ptpHeard m && (match m.before with | some t => decide (m.last ≤ t + 4 * m.intv) | none => false) && decide (nth m.ds 6 0 < 255)

/-- The PTP state changed. -/
def State.ptpUpd (s : State) (f : PtpSt → PtpSt) : State := { s with fab := { s.fab with ptp := f s.fab.ptp } }

/-- The masters no longer heard are dropped and the best of those that qualify is chosen: SEL and GMID (notes/assumptions/184.md). -/
def State.ptpChoose (s : State) : State :=
  let ms := s.fab.ptp.masters.filter s.ptpHeard
  let best := (ms.filter s.ptpQualified).foldl (fun (b : Option PtpMaster) m => match b with | some x => if m.better x then some m else b | none => some m) none
  let src := best.map (·.src)
  let s1 := s.ptpUpd (fun x => { x with masters := ms, best := src, wait := if src = x.best then x.wait else none, sync := if src = x.best then x.sync else none,
                                        req := if src = x.best then x.req else none })
  let s2 := s1.setB FAB_PTP_STAT 31 src.isSome
  match best with | some m => s2.setPair FAB_PTP_GMID_LO (nth m.ds 5 0) | none => s2

/-- An Announce is heard; one whose timescale is not PTP is not accepted. -/
def State.ptpAnnounce (s : State) (src : Nat) (scale : Bool) (logInt : Int) (ds : List Nat) : State :=
  if !scale then s
  else
    let old := s.fab.ptp.masters.find? (fun m => m.src == src)
    let m : PtpMaster := { src := src, ds := ds, logInt := logInt, last := s.up, before := old.map (·.last) }
    (s.ptpUpd (fun x => { x with masters := m :: x.masters.filter (fun m => m.src != src) })).ptpChoose

/-- The times of a Sync are known, and a Delay_Req leaves at once; its departure is stamped (notes/assumptions/184.md). -/
def State.ptpSynced (s : State) (p : Nat) (t1 t2 : Int) : State :=
  let n := (s.fab.ptp.seq + 1) % 65536
  (s.ptpUpd (fun x => { x with wait := none, sync := some (t1, t2), req := some (n, s.timeZ), seq := n })).ethTx p
    { kind := .delayReq, dst := ptpGroup (s.b FAB_PTP_CFG 27), port := 319, words := [n] }

/-- The identity of this clock's port: the EUI-64 of its MAC address, and port number 1. -/
def State.ptpSelf (s : State) (p : Nat) : Nat :=
  let m := s.pair (FAB_ETH_MAC_LO p)
  (nfld m 47 24 * 2 ^ 40 + 0xFFFE * 2 ^ 24 + nfld m 23 0) * 2 ^ 16 + 1

/-- An offset from the master is measured: the result register, and the root's steering where PTP is its reference. -/
def State.ptpOffset (s : State) (ofs : Int) : State :=
  let s1 := s.result FAB_PTP_OFS FAB_PTP_OFSFLG (ofSigned 24 (roundDiv ofs 1000)) 0
  if s.isRoot && s.b FAB_PTP_STAT 30 && s.b TIM_CTL 31 && s.tim.firstSet && (!s.b TIM_STAT 27 || !s.b TIM_CTL 29) then s1.servo ofs else s1

/-- PTP_MESSAGE: a message of the domain and transport of FAB.PTP.CFG; others are not accepted. Events are stamped as they arrive. -/
def State.ptpMessage (s : State) (v6 : Bool) (domain : Nat) (m : PtpMsg) : State :=
  let p := s.f FAB_PTP_CFG 30 28
  let x := s.fab.ptp
  if !s.b FAB_PTP_CFG 31 || !s.ethPort p then s
  else if v6 != s.b FAB_PTP_CFG 27 || domain != s.f FAB_PTP_CFG 23 16 then (s.ethRx p).ethDisc p
  else
    let s0 := s.ethRx p
    match m with
    | .announce src scale li ds => s0.ptpAnnounce src scale li ds
    | .sync src seq two t1 =>
      if x.best ≠ some src then s0
      else if two then s0.ptpUpd (fun x => { x with wait := some (seq, s.timeZ) })
      else s0.ptpSynced p t1 s.timeZ
    | .followUp src seq t1 =>
      match x.wait with
      | some (n, t2) => if x.best = some src ∧ n = seq then s0.ptpSynced p t1 t2 else s0
      | none => s0
    | .delayResp src seq req t4 =>
      match x.sync, x.req with
      | some (t1, t2), some (n, t3) =>
        if x.best = some src ∧ n = seq ∧ req = s.ptpSelf p then
          (s0.ptpUpd (fun x => { x with req := none })).ptpOffset (ratRound ((((t2 - t1) - (t4 - t3) : Int) : Rat) / 2))
        else s0
      | _, _ => s0

/-- PTP_LOCK_CHANGE: the reference is gained or lost. -/
def State.ptpLock (s : State) (ok : Bool) : State := (s.setB FAB_PTP_STAT 30 ok).rootEval

/-! Keys (R307). -/

/-- The next key of a slot is installed; the previous one is no longer accepted. -/
def State.keyInstall (s : State) (slot k : Nat) (key : List Nat) : State :=
  { s with fab := { s.fab with nextKey := vmod s.fab.nextKey slot (fun _ => some k), prevKey := vmod s.fab.prevKey slot (fun _ => none),
                               keyVals := vmod (vmod s.fab.keyVals (3 * slot + 1) (fun _ => key)) (3 * slot + 2) (fun _ => []) } }

/-- The next key becomes current, with FCNT 0; FCNTHI goes with the count that set it. -/
def State.keyActivate (s : State) (slot k : Nat) : State :=
  let old := s.keyid slot
  let s0 := (if slot = 0 then s.setF FAB_KEYID 15 0 k else s.setF FAB_KEYID 31 16 k).setFcnt slot 0
  let s1 := s0.setB FAB_STAT 28 (decide (2 ^ 47 ≤ s0.fcnt 0) || decide (2 ^ 47 ≤ s0.fcnt 1))
  let v (i : Nat) : List Nat := vget s.fab.keyVals (3 * slot + i) []
  { s1 with fab := { s1.fab with nextKey := vmod s1.fab.nextKey slot (fun _ => none), prevKey := vmod s1.fab.prevKey slot (fun _ => some old),
                                 keyVals := vmod (vmod (vmod s1.fab.keyVals (3 * slot + 2) (fun _ => v 0)) (3 * slot) (fun _ => v 1)) (3 * slot + 1) (fun _ => []) } }

end Sys2Proof.Machine
end

