-- ==== Sys2Proof/Machine/Mem.lean ====
section
/-! DEFINITION. The DRAM controller: scheduling, admission, scrubbing, training, rate changes (R315 to R327). -/

namespace Sys2Proof.Machine

open Csr

/-- A DRAM channel. -/
def State.mchan (s : State) (n : Nat) : MemChan := s.dram.chans[n % 4]'(by omega)
def State.mchanUpd (s : State) (n : Nat) (f : MemChan → MemChan) : State := { s with dram := { s.dram with chans := vmod s.dram.chans n f } }

/-- Channel, bank and row of a DRAM address, and the 64-byte burst within its 2 KiB row (R316). -/
def dramChan (a : Nat) : Nat := nfld (a - 0x100000000) 9 8
def dramBank (a : Nat) : Nat := nfld (a - 0x100000000) 16 13
def dramRow (a : Nat) : Nat := nfld (a - 0x100000000) 34 17
def dramBurst (a : Nat) : Nat := nfld (a - 0x100000000) 12 10 * 4 + nfld (a - 0x100000000) 7 6

/-- The fill of a channel is summed up to now. -/
def State.mtouch (s : State) (n : Nat) : State :=
  s.mchanUpd n (fun c => { c with sum := c.sum + c.reqs.length * (s.up - c.changed), changed := s.up })

/-- Rank of a class (MEM.YIELD). -/
def State.rank (s : State) (k : Nat) : Nat := s.f MEM_YIELD (31 - 4 * k) (28 - 4 * k)

/-- Requests are admitted to a channel: not of a throttled class, at most 64 in all, none while they are held (R319, R320, R324). -/
def State.admitEv (s : State) (n : Nat) (new : List (Nat × Nat × Bool)) : State :=
  if s.memHeldAt n then s
  else
    let ok := new.filter (fun (x : Nat × Nat × Bool) => !s.throttled x.1 && inDram x.2.1 1 && dramChan x.2.1 == n)
    let rs := ok.map (fun (x : Nat × Nat × Bool) => ({ cls := x.1, addr := x.2.1, since := s.up, write := x.2.2 } : MemReq))
    (s.mtouch n).mchanUpd n (fun c => { c with reqs := (c.reqs ++ rs).take 64 })

/-- The stores of the cores that wait for a channel are admitted: not yet admitted, oldest first (R51, R319). -/
def State.admitStores (s : State) (n : Nat) : State :=
  let wait := s.core.stores.filter (fun (x : Nat × Nat × Nat) =>
    dramChan x.1 == n && !(s.mchan n).reqs.any (fun (r : MemReq) => r.write && r.cls == 0 && r.addr == x.1))
  s.admitEv n (wait.map (fun (x : Nat × Nat × Nat) => (0, x.1, true)))

/-- The request a channel serves next (R319). -/
def State.memPick (s : State) (n : Nat) : Option MemReq :=
  let c := s.mchan n
  let aged (r : MemReq) : Bool := s.f (MEM_CLS_AGE r.cls) 15 0 != 0 && decide (r.since + s.f (MEM_CLS_AGE r.cls) 15 0 * 10000 ≤ s.up)
  let hit (r : MemReq) : Bool := c.rows.any (fun (x : Nat × Nat) => x.1 == dramBank r.addr && x.2 == dramRow r.addr)
  match c.reqs.find? aged with
  | some r => some r
  | none => match c.reqs.find? hit with
    | some r => some r
    | none => c.reqs.head?

/-- The oldest outstanding store of the cores to an address becomes visible (R51). -/
def State.commitStore (s : State) (a : Nat) : State :=
  match s.core.stores.find? (fun (x : Nat × Nat × Nat) => x.1 / 8 == a / 8) with
  | none => s
  | some x =>
    let s1 : State := { s with core := { s.core with stores := s.core.stores.erase x }, mem := Memory.writeN s.mem x.1 x.2.1 x.2.2 }
    if x.2.1 = 8 then { s1 with poison := s1.poison.filter (· != x.1), dram := { s1.dram with single := s1.dram.single.filter (· != x.1) } } else s1

/-- A request is served; a read corrects or counts what is wrong in its word (R317). -/
def State.memServe (s : State) (n : Nat) (r : MemReq) : State :=
  let b := dramBank r.addr
  let s1 := (s.mtouch n).mchanUpd n (fun c => { c with reqs := c.reqs.erase r, rows := spPut c.rows b (some (dramRow r.addr)), bytes := c.bytes + 64 })
  if r.write then (if r.cls = 0 then s1.commitStore r.addr else s1)
  else if r.cls = 0 then s1.dramRead (r.addr / 8 * 8) 8 else s1.engineRead (r.addr / 8 * 8) 8

/-- The staged delays of a channel take effect (R321). -/
def State.applyDelays (s : State) (n : Nat) : State :=
  let d := (List.range 35).foldl (fun l b => spPut l (n * 64 + b) (some (s.csrRaw (MEM_DLY n b)))) s.dram.dly
  { s with dram := { s.dram with apply := s.dram.apply.filter (· != n), dly := d } }

/-- MEM_REQUEST_SERVE: with the requests newly admitted, the channel refreshes or serves one request, unless they are held; `err`: an upset the read meets
in its word, as in State.upset. -/
def State.memStep (s : State) (n : Nat) (new : List (Nat × Nat × Bool)) (err : Nat) : State :=
  let s1 := (s.admitStores n).admitEv n new
  if s.onSafe 8 then s1
  else if (s1.mchan n).refresh then
    let s2 := s1.mchanUpd n (fun c => { c with refresh := false, rows := [] })
    if s2.dram.apply.contains n then s2.applyDelays n else s2
  else if s1.memHeldAt n then s1
  else match s1.memPick n with
    | some r => (cond (!r.write) (·.upset (r.addr / 8 * 8) err) s1).memServe n r
    | none => s1

/-- MEM_REFRESH: a refresh falls due. -/
def State.memRefresh (s : State) (n : Nat) : State := s.mchanUpd n (fun c => { c with refresh := true })

/-- What waited for DRAM requests goes on, as far as they are not held. -/
def State.memRelease (s : State) : State := s.ringDrain.crossDrain.evbMerge

/-- A scrub pass that takes longer than MEM.SCRUB.PER is late: once for each pass (R318). -/
def State.scrubJudge (s : State) : State :=
  let late := decide (s.dram.scrubAt + clampN 1 168 (s.f MEM_SCRUB 7 0) * 3600 * psPerSec < s.up)
  if !late || s.dram.scrubLate || !s.b MEM_CTL 30 then s
  else (({ s with dram := { s.dram with scrubLate := true } } : State).setB MEM_STAT 20 true).alarm 2 MEM_STAT 20

/-- MEM_ADMISSION_TICK (R320): the mean fill of the microsecond is the sum of entry-ps over its length. -/
def State.admissionTick (s : State) : State :=
  let s0 := (List.range 4).foldl (fun st n => st.mtouch n) s
  let dt := s.up - s.dram.tickAt
  if dt < us then s
  else
    let top := (List.range 4).foldl (fun m n => max m (s0.mchan n).sum) 0
    let hi := decide (s.f MEM_CONG 31 24 * dt ≤ top)
    let lo := decide (top ≤ s.f MEM_CONG 23 16 * dt)
    let free := (List.range 8).filter (fun k => !s.throttled k && decide (s.rank k < 7))
    let held := (List.range 8).filter (fun k => s.throttled k)
    let lowest := free.foldl (fun m k => min m (s.rank k)) 7
    let highest := held.foldl (fun m k => max m (s.rank k)) 0
    let ms0 := s.up / ms != s.dram.tickAt / ms
    let s1 : State := { s0 with dram := { s0.dram with tickAt := s.up, throttled := s0.dram.throttled.filter (fun (x : Nat × Nat × Bool) => decide (s.rank x.1 < 7)), chans := s0.dram.chans.map (fun (c : MemChan) => { c with sum := 0, bytes := if ms0 then 0 else c.bytes }) } }
    let s2 := if ms0 then (List.range 4).foldl (fun st n => st.setCsr (MEM_CH_BW n) (BitVec.ofNat 32 ((s0.mchan n).bytes / 1000000))) s1 else s1
    let s3 :=
      if hi && !free.isEmpty then
        let l := s2.dram.throttled ++ (free.filter (fun k => s.rank k == lowest)).map (fun k => (k, s.up, false))
        (({ s2 with dram := { s2.dram with throttled := l } } : State).inc MEM_THROTTLES).bump 0xB1 1
      else if lo && !held.isEmpty then
        let l := s2.dram.throttled.filter (fun (x : Nat × Nat × Bool) => s.rank x.1 != highest)
        { s2 with dram := { s2.dram with throttled := l } }
      else s2
    let late (x : Nat × Nat × Bool) : Bool := !x.2.2 && decide (x.2.1 + psPerSec ≤ s.up)
    let s4 : State := { s3 with dram := { s3.dram with throttled := s3.dram.throttled.map (fun (x : Nat × Nat × Bool) => if late x then (x.1, x.2.1, true) else x) } }
    let s5 := s4.setB MEM_STAT 30 (!s4.dram.throttled.isEmpty)
    ((s3.dram.throttled.filter late).foldl (fun st _ => st.alarm 2 MEM_STAT 30) s5).scrubJudge.memRelease

/-! Scrubbing (R318). -/

/-- SCRUB_STEP: the next DRAM word is read, and a corrected one written back; an uncorrectable one keeps its poison. `err`: an upset met in it, as in
State.upset. -/
def State.scrubStep (s : State) (err : Nat) : State :=
  if !s.b MEM_CTL 30 || s.stopped 7 then s.scrubJudge
  else
    let a := s.pair MEM_SCRUBPOS_LO
    let s1 := (s.upset a err).dramRead a 8
    let next := if a + 8 = 0x900000000 then 0x100000000 else a + 8
    let s2 := ({ s1 with dram := { s1.dram with single := s1.dram.single.filter (· != a) } } : State).setPair MEM_SCRUBPOS_LO next
    let s3 := s2.scrubJudge
    if next ≠ 0x100000000 then s3 else { s3 with dram := { s3.dram with scrubAt := s3.up, scrubLate := false } }

/-! Training (R321 to R323) and the rate (R324). -/

/-- MEM.STAT.TRN follows the training. -/
def State.trnFlags (s : State) : State :=
  let m := match s.dram.train with
    | some t => match t.chans with | n :: _ => 2 ^ n | [] => 0
    | none => 0
  s.setF MEM_STAT 29 26 m

/-- A training starts. -/
def State.trainStart (s : State) (t : Training) : State := ({ s with dram := { s.dram with train := some t } } : State).trnFlags

/-- The next training that waits starts. -/
def State.trainNext (s : State) : State :=
  match s.dram.later with
  | [] => s
  | t :: ts => ({ s with dram := { s.dram with later := ts } } : State).trainStart t

/-- A training starts, or waits for the one in progress; while a rate changes all channels are trained anyway (R323, R324, R327). -/
def State.trainAdd (s : State) (t : Training) : State :=
  if s.dram.rate.isSome then s
  else if s.dram.train.isSome then { s with dram := { s.dram with later := s.dram.later ++ [t] } } else s.trainStart t

/-- Beat `k` of a pattern (Table MEM-3). -/
def trnBeat (pat seed k : Nat) : Nat :=
  match pat with
  | 0 => (Config.prbs31 k).toNat
  | 1 => 2 ^ (k % 32)
  | 2 => if k % 2 = 0 then 0x55555555 else 0xAAAAAAAA
  | _ => seed % 2 ^ 32

/-- The training row of every bank of a channel is written with the pattern selected (R316, R321, notes/assumptions/190.md). -/
def State.trnWrite (s : State) (n : Nat) : State :=
  let x := some (s.f MEM_TRN_PAT 1 0, (s.csrRaw MEM_TRN_SEED).toNat)
  s.mchanUpd n (fun c => { c with rowPat := Vector.replicate 16 x })

/-- A channel carries traffic: its requests are served (R321). -/
def State.carries (s : State) (n : Nat) : Bool := s.mode != .startup && !s.memHeldAt n

/-- A gather starts (R321). -/
def State.trnGo (s : State) (v : Word) : State :=
  if s.b MEM_TRN_STAT 31 then s
  else
    let n := fld v 29 28
    let g : Gather := { ch := n, step := min 4 (fld v 27 24), first := fld v 23 16, last := fld v 15 8,
                        bursts := 2 ^ min (if s.carries n then 7 else 9) (fld v 3 0), pat := s.f MEM_TRN_PAT 1 0, seed := (s.csrRaw MEM_TRN_SEED).toNat }
    let s1 := (s.setB MEM_TRN_STAT 31 true).trnWrite n
    { s1 with dram := { s1.dram with gather := some g } }

/-- MEM.TRN.RES of one setting: the data bits that matched in every burst, 16 beats each. `reads` holds the beats that were not read as written; for STEP 0
the command-address bits that matched, by burst. -/
def Gather.mask (g : Gather) (reads : List (Nat × Nat)) : Nat :=
  reads.foldl (fun m x =>
    if g.step = 0 then (if x.1 < g.bursts then m &&& x.2 else m)
    else if x.1 < 16 * g.bursts then m &&& (0xFFFFFFFF ^^^ (x.2 % 2 ^ 32 ^^^ trnBeat g.pat g.seed x.1)) else m) 0xFFFFFFFF

/-- TRN_GO and TRN_APPLY: a write of MEM.TRN.CTL. -/
def State.writeTrnCtl (s : State) (v : Word) : State :=
  let s1 := s.writeReg MEM_TRN_CTL v
  let s2 := if bit v 31 then s1.trnGo v else s1
  if bit v 30 then { s2 with dram := { s2.dram with apply := fld v 29 28 :: s2.dram.apply.filter (· != fld v 29 28) } } else s2

/-- The first commit point at least `d` ps away (R344). -/
def State.commitFrom (s : State) (d : Nat) : Nat := ceilDiv (s.time + d) 50000 * 50000

/-- A rate change starts: requests are held, a training in progress is discarded, and the clock switches at a commit of its own
(R324, R344, notes/assumptions/192.md). -/
def State.rateStart (s : State) (r : RateChange) : State :=
  let keep := match s.dram.train with | some x => some { x with chans := x.named, res := [] } | none => none
  let s1 : State := { s with dram := { s.dram with rate := some { r with started := true, point := some (s.commitFrom 200000) }, redo := keep, train := none } }
  (if s.dram.train.isSome then s1.setB MEM_TRN_STAT 30 true else s1).trnFlags

/-- The commit point of a rate change: while SYN-S is locked the clock switches, and all four channels are trained at the new rate in mode 0. -/
def State.rateSettle (s : State) : State :=
  match s.dram.rate with
  | none => s
  | some r => match r.point with
    | none => s
    | some t =>
      if s.time < t then s
      else if !s.b CLK_STAT 30 then { s with dram := { s.dram with rate := some { r with point := some (s.commitFrom 1) } } }
      else
        let s1 : State := { s with dram := { s.dram with rate := some { r with point := none } } }
        (s1.setF MEM_STAT 31 31 r.sel).trainStart { chans := [0, 1, 2, 3], mode := 0, res := [], named := [0, 1, 2, 3], tag := none, forRate := true, hold := false }

/-- DRAMRATE begins: at once, or when the gather in progress ends. -/
def State.rateRequest (s : State) (sel tag : Nat) : State :=
  let r : RateChange := { sel := sel, tag := tag, started := false, point := none }
  let s1 := (s.setB MEM_STAT 21 true).setF MEM_RATE 0 0 sel
  if s.b MEM_TRN_STAT 31 then { s1 with dram := { s1.dram with rate := some r } } else s1.rateStart r

/-- A training's command, if it has one, is answered: E_FAULT where every channel failed (R322). -/
def State.trainAnswer (s : State) (t : Training) : State :=
  match t.tag with
  | none => s
  | some tag =>
    let failed := t.res.all (fun w => w % 256 == 1)
    s.lateAnswer tag (if failed then 7 else 0) 0x0054 (if failed then [] else t.res)

/-- The whole training has ended: its command is answered, or the rate change completes, requests are released and a discarded training restarts. -/
def State.trainDone (s : State) (t : Training) : State :=
  let s1 : State := ({ s with dram := { s.dram with train := none } } : State).trnFlags
  if t.forRate then
    match s.dram.rate with
    | none => s1
    | some r =>
      let s2 : State := { s1 with dram := { s1.dram with rate := none, redo := none } }
      let s3 := match s.dram.redo with | some x => s2.trainStart x | none => s2.trainNext
      ((s3.setB MEM_STAT 21 false).memRelease).lateAnswer r.tag 0 0x0055 []
  else ((s1.trainAnswer t).trainNext).memRelease

/-- Delays found for a channel take effect, and stand in MEM.DLY: those of all five steps in mode 0, those of the eyes in mode 1
(R322, notes/assumptions/191.md). -/
def State.putDelays (s : State) (n mode : Nat) (ds : List Nat) : State :=
  (List.range (min (if mode = 1 then 32 else 35) ds.length)).foldl (fun st b =>
    let v := BitVec.ofNat 32 (nth ds b 0)
    let s1 := st.setCsr (MEM_DLY n b) v
    { s1 with dram := { s1.dram with dly := spPut s1.dram.dly (n * 64 + b) (some v) } }) s

/-- A channel has been trained: one that fails keeps its delays and raises a major alarm (R322). -/
def State.chanResult (s : State) (n mode : Nat) (r : TrnResult) : State :=
  let s1 := (s.setF (MEM_CH_STAT n) 31 24 r.temp).trnWrite n
  if r.ok then ((s1.setF (MEM_CH_STAT n) 23 16 r.temp).setB MEM_STAT (22 + n) false).putDelays n mode r.delays
  else s1.alarm 1 (MEM_CH_STAT n) 0x3F

/-- The result word of a channel (R322). -/
def TrnResult.word (r : TrnResult) : Nat := r.rd % 256 * 2 ^ 24 + r.wr % 256 * 2 ^ 16 + r.temp % 256 * 2 ^ 8 + b2n (!r.ok)

/-- The training of the current channel ends. -/
def State.chanTrained (s : State) (r : TrnResult) : State :=
  match s.dram.train with
  | none => s
  | some t =>
    match t.chans with
    | [] => s
    | n :: rest =>
      let t' : Training := { t with chans := rest, res := t.res ++ [r.word] }
      if rest.isEmpty then (s.chanResult n t.mode r).trainDone t' else (s.chanResult n t.mode r).trainStart t'

/-- TRN_GATHER_DONE: what was read at the gather's settings, as in Gather.mask; `fin`: the gather ends the training of its channel. -/
def State.gatherDone (s : State) (reads : List (List (Nat × Nat))) (fin : Option TrnResult) : State :=
  let s1 := match s.dram.gather with
    | none => s
    | some g =>
      let s1 := (List.range (g.last + 1 - g.first)).foldl (fun (st : State) i => st.setCsr (MEM_TRN_RES (g.first + i)) (BitVec.ofNat 32 (g.mask (nth reads i [])))) s
      ({ s1 with dram := { s1.dram with gather := none } } : State).setB MEM_TRN_STAT 31 false
  let ended (t : State) : State := match fin with | some r => t.chanTrained r | none => t
  match s1.dram.rate with
  | some r => if r.started then ended s1.rateSettle else s1.rateStart r
  | none => ended s1

/-- DRAM_TEMP_DRIFT: a channel's temperature is read (R323). -/
def State.dramTemp (s : State) (n temp : Nat) : State :=
  let s1 := s.setF (MEM_CH_STAT n) 31 24 temp
  let d := absDiff (toSigned 8 temp) (toSigned 8 (s.f (MEM_CH_STAT n) 23 16))
  if d ≤ max 1 (s.f MEM_CTL 7 0) then s1
  else
    let s2 := if s.b MEM_STAT (22 + n) then s1 else (s1.setB MEM_STAT (22 + n) true).alarm 2 MEM_STAT (22 + n)
    let due := (s.dram.train.toList ++ s.dram.later).any (fun (t : Training) => t.chans.contains n)
    if s.b MEM_CTL 31 && !due then s2.trainAdd { chans := [n], mode := 1, res := [], named := [n], tag := none, forRate := false, hold := false } else s2

/-! Out of self-refresh (R327, R348). -/

/-- The channels to be trained before they serve: a training row does not read as the pattern it holds, or the temperature differs from the training's
by more than RTDT. `rows` holds the beats that were read otherwise: channel, bank, beat, bits. `temps` are the temperatures now. -/
def State.refreshBad (s : State) (rows : List (Nat × Nat × Nat × Nat)) (temps : List Nat) : List Nat :=
  (List.range 4).filter (fun n =>
    rows.any (fun x => x.1 == n && (match vget (s.mchan n).rowPat x.2.1 none with
      | some p => trnBeat p.1 p.2 x.2.2.1 != x.2.2.2
      | none => false))
    || decide (max 1 (s.f MEM_CTL 7 0) < absDiff (toSigned 8 (nth temps n 0)) (toSigned 8 (s.f (MEM_CH_STAT n) 23 16))))

/-- The temperatures of the channels are read. -/
def State.putTemps (s : State) (temps : List Nat) : State :=
  (List.range 4).foldl (fun st n => st.setF (MEM_CH_STAT n) 31 24 (nth temps n 0)) s

end Sys2Proof.Machine
end

