-- ==== Sys2Proof/Machine/Cmp.lean ====
section
/-! DEFINITION. The compression engine: containers, chain buffers and decompression jobs (R328 to R334). -/

namespace Sys2Proof.Machine

open Csr

/-! Bytes, elements and preconditioners (R331). -/

/-- Bytes of 64-bit words, and words of bytes padded with zeros. -/
def wordsBytes (ws : List Nat) : List Nat := ws.flatMap (bytesOf 8)
def bytesWords (bs : List Nat) : List Nat := (chunks (bs.length / 8 + 1) 8 bs).map bytesNat

/-- Whole 32-bit elements of a block, and the bytes beyond them. -/
def elements (bs : List Nat) : List Nat × List Nat :=
  let n := bs.length / 4 * 4
  ((chunks (n / 4) 4 (bs.take n)).map bytesNat, bs.drop n)

/-- PHI, bits [31:12] of an element. -/
def phiOf (x : Nat) : Nat := x / 4096 % 2 ^ 20

/-- Delta, and its inverse. -/
def delta (prev : Option Nat) : List Nat → List Nat
  | [] => []
  | x :: t => (match prev with | none => x | some p => (phiOf x + 2 ^ 20 - phiOf p) % 2 ^ 20 * 4096 + x % 4096) :: delta (some x) t
def undelta (prev : Option Nat) : List Nat → List Nat
  | [] => []
  | x :: t =>
    let y := match prev with | none => x | some p => (phiOf x + phiOf p) % 2 ^ 20 * 4096 + x % 4096
    y :: undelta (some y) t

/-- Shuffle: byte `j` of every element to the `j`-th quarter. -/
def shuffle (es : List Nat) : List Nat := (List.range 4).flatMap (fun j => es.map (fun x => x / 256 ^ j % 256))
def unshuffle (bs : List Nat) : List Nat :=
  let n := bs.length / 4
  (List.range n).map (fun i => (List.range 4).foldl (fun a j => a + nth bs (j * n + i) 0 * 256 ^ j) 0)

/-- The last whole element of a block's input: what the first element of the next is taken against, since elements count from the start of the body's input
(R331, notes/assumptions/189.md). -/
def lastElement (bs : List Nat) : Option Nat := (elements bs).1.getLast?

/-- A block preconditioned under PRE, bit 0 delta and bit 1 shuffle, after the element `prev` of the block before it. -/
def precond (pre : Nat) (prev : Option Nat) (bs : List Nat) : List Nat :=
  let e := elements bs
  let es := if pre.testBit 0 then delta prev e.1 else e.1
  (if pre.testBit 1 then shuffle es else es.flatMap (bytesOf 4)) ++ e.2

/-- The inverse. -/
def unprecond (pre : Nat) (prev : Option Nat) (bs : List Nat) : List Nat :=
  let n := bs.length / 4 * 4
  let es := if pre.testBit 1 then unshuffle (bs.take n) else (chunks (n / 4) 4 (bs.take n)).map bytesNat
  (if pre.testBit 0 then undelta prev es else es).flatMap (bytesOf 4) ++ bs.drop n

/-! Container bodies (Table CMP-3). -/

/-- The stream of one block and whether it is stored: stored blocks at level 0, and where the compressed stream would not be shorter (R329). -/
def blockStream (level : Nat) (input : List Nat) (codes : List (List Nat × List Nat)) : List Nat × Bool :=
  let z := if level = 0 then input else deflate level input codes
  if z.length < input.length then (z, false) else (storedStream input, true)

/-- A block as a lane emits it: input, stream, stored, CRC. -/
structure OutBlock where
  input : List Nat
  stream : List Nat
  stored : Bool
  crc : Nat

/-- The blocks of a body. `codes` are the code lengths the lane chooses; `spoilt` names the blocks that a fault inside the lane spoils, with the
stream and CRC that come of it, which nothing checks (R332). -/
def outBlocks (level pre k : Nat) (bs : List Nat) (codes : List (List (List Nat × List Nat))) (spoilt : List (Nat × List Nat × Nat)) : List OutBlock :=
  let blocks := chunks (bs.length / 2 ^ k + 1) (2 ^ k) bs
  blocks.mapIdx (fun i b =>
    let x := blockStream level (precond pre (if i = 0 then none else lastElement (nth blocks (i - 1) [])) b) (nth codes i [])
    match spoilt.find? (fun y => y.1 == i) with
    | some y => { input := b, stream := y.2.1, stored := x.2, crc := y.2.2 }
    | none => { input := b, stream := x.1, stored := x.2, crc := crc32c b })

/-- The container body of words, and the number of stored blocks. -/
def containerBody (level pre blklog : Nat) (ws : List Nat) (codes : List (List (List Nat × List Nat))) (spoilt : List (Nat × List Nat × Nat)) : List Nat × Nat :=
  let bs := wordsBytes ws
  let k := clampN 12 18 blklog
  let outs := outBlocks level pre k bs codes spoilt
  let dir := outs.flatMap (fun x => [x.stream.length * 2 ^ 32 + x.input.length, x.crc * 2 ^ 32 + b2n x.stored * 2 ^ 31])
  let body := outs.flatMap (fun x => bytesWords x.stream)
  ([0xFC * 2 ^ 56 + 2 ^ 52 + level % 16 * 2 ^ 48 + pre % 4 * 2 ^ 46 + k * 2 ^ 40 + outs.length, bs.length] ++ dir ++ body,
   (outs.filter (fun x => x.stored)).length)

/-! Lanes (R328). -/

/-- A lane's work. -/
def State.lane (s : State) (l : Nat) : Option LaneJob := s.cmp.lanes[l % 4]'(by omega)
def State.laneSet (s : State) (l : Nat) (j : Option LaneJob) : State :=
  ({ s with cmp := { s.cmp with lanes := vmod s.cmp.lanes l (fun _ => j), order := s.cmp.order.filter (· != l) ++ (if j.isSome then [l] else []) } } : State).setB
    CMP_STAT (24 + l) j.isSome

/-- Input and output queue of a source. -/
def State.srcQueue (s : State) (k : Nat) : Nat := if k = 0 then 112 else if k = 1 then 113 else s.f (CMP_CFG k) 27 20
def State.outQueue (s : State) (k : Nat) : Nat := if k = 0 then 114 else if k = 1 then 115 else 114 + s.f (CMP_CFG k) 19 19

/-- Inputs of a source that lanes hold. -/
def State.srcHeld (s : State) (k : Nat) : Nat :=
  ((List.range 4).filter (fun l => match s.lane l with | some j => j.src == k | none => false)).length

/-- The next input of a queue source is there. -/
def State.srcNext (s : State) (k : Nat) : Option Nat :=
  let q := s.srcQueue k
  let i := (s.qHead q + s.srcHeld k) % 2 ^ 32
  let on := decide (k < 2) || s.b (CMP_CFG k) 31
  if on && s.qEn q && decide (s.srcHeld k < s.qFill q) && (s.word64 (s.qSlot q i)).testBit 63 then some i else none

/-- A lane takes an input from a queue; of one that does not lie in memory nothing is read (R22). -/
def State.takeQueue (s : State) (l k i : Nat) : State :=
  let e := s.qEntry (s.srcQueue k) i
  let zip := decide (k < 2) && e.type == 0
  let n := if !inMem e.addr e.length then 0 else if zip then 32 else (e.length + 7) / 8 * 8
  let s1 := s.engineRead e.addr n
  let s2 := (s1.setPair CMP_INB_LO (s1.pair CMP_INB_LO + n)).bump 0xB2 1
  let s3 : State := if 2 ≤ k then { s2 with cmp := { s2.cmp with rot := (k - 1) % 4 } } else s2
  s3.laneSet l (some { src := k, idx := i, entry := e, words := s.words64 e.addr (n / 8), zip := none, inflate := zip, wait := none })

/-- CMP_LANE_TAKE: a free lane takes the next record: EVB, Q112, Q113, then the taps in rotation; none during the entry into COCOON (R326). -/
def State.laneTake (s : State) : State :=
  if s.onSafe 9 || !s.clk.gate.testBit 9 || s.mode == .cocoon then s else
  let free (l : Nat) : Bool := s.b CMP_CTL 31 && !s.stopped 6 && s.b CMP_CTL (24 + l) && (s.lane l).isNone
  match (List.range 4).find? free with
  | none => s
  | some l =>
    match s.evb.zip.find? (fun (z : ZipPart) => !z.taken) with
    | some z =>
      let z' : ZipPart := { z with taken := true }
      let s1 : State := { s with evb := { s.evb with zip := s.evb.zip.map (fun (x : ZipPart) => if x = z then z' else x) } }
      let n := 8 * (z.words.length - 8)
      ((s1.setPair CMP_INB_LO (s1.pair CMP_INB_LO + n)).bump 0xB2 1).laneSet l
        (some { src := 6, idx := 0, entry := { status := 0, type := 0, addr := 0, length := 0, qseq := 0, stamp := 0, tag := 0 }, words := z.words, zip := some z',
                inflate := false, wait := none })
    | none =>
      let taps := (List.range 4).map (fun i => 2 + (s.cmp.rot + i) % 4)
      match ([0, 1] ++ taps).findSome? (fun k => (s.srcNext k).map (fun i => (k, i))) with
      | some (k, i) => s.takeQueue l k i
      | none => s

/-- The lane holds the oldest input its source has given out. -/
def State.laneFirst (s : State) (l k : Nat) : Bool :=
  (s.cmp.order.find? (fun m => match s.lane m with | some j => j.src == k | none => false)) == some l

/-- A lane has finished: the source's HEAD advances. -/
def State.laneFree (s : State) (l : Nat) (j : LaneJob) : State :=
  let s1 := s.laneSet l none
  if j.src = 6 then s1 else s1.dequeue (s.srcQueue j.src)

/-! Output region and chain buffers (R333). -/

/-- Free chain buffers. -/
def State.chainFree (s : State) : List Nat :=
  (List.range (s.f CMP_CHAINN 15 0)).filter (fun i => inMem (s.pair CMP_CHAIN_LO + 65536 * i) 65536 && !(s.held CMP_CHAIN_LO).any (fun (p : Piece) => p.lo == 65536 * i))

/-- CHAINLOW: fewer than 16 buffers of the pool are free; 0 while there is no pool, as at reset (notes/assumptions/193.md). -/
def State.chainLow (s : State) : Bool := s.f CMP_CHAINN 15 0 != 0 && decide (s.chainFree.length < 16)

/-- Chain buffers a container of `n` words needs beyond a reservation of `r` bytes. -/
def chainNeed (r n : Nat) : Nat := if 8 * n ≤ r then 0 else (n - (r / 8 - 1) + 8190) / 8191

/-- A chained tail is written: buffers, and the words that follow. -/
def State.putChain (s : State) (q : Nat) : List Nat → List Nat → State
  | [], _ => s
  | b :: bs, ws =>
    let a := s.pair CMP_CHAIN_LO + 65536 * b
    let link := match bs with | [] => 0 | c :: _ => 2 ^ 63 + s.pair CMP_CHAIN_LO + 65536 * c
    State.putChain (((s.putWords a (ws.take 8191)).putWords (a + 8 * 8191) [link]).claimWait CMP_CHAIN_LO (65536 * b) 65536 q) q bs (ws.drop 8191)

/-- A container or an unchanged record is written to CMP.OREG and published on the output queue. -/
def State.putOut (s : State) (q : Nat) (o r : Nat) (bufs ws : List Nat) (tag : Nat) : State :=
  let a := s.pair CMP_OREG_LO + o
  let s1 := if bufs = [] then s.putWords a ws
    else (s.putWords a (ws.take (r / 8 - 1) ++ [2 ^ 63 + s.pair CMP_CHAIN_LO + 65536 * nth bufs 0 0])).putChain q bufs (ws.drop (r / 8 - 1))
  let s2 := s1.claimWait CMP_OREG_LO o r q
  ((s2.setPair CMP_OUTB_LO (s2.pair CMP_OUTB_LO + 8 * ws.length)).publishEntry q 9
    { status := 0, type := 0x0C, addr := a, length := 8 * ws.length, qseq := 0, stamp := 0, tag := tag })

/-- The output queue takes no entry now and its policy does not drop. -/
def State.outStuck (s : State) (q : Nat) : Bool := s.qEn q && s.qFull q && s.qPol q != 1

/-- The output region and the inputs of CMP lie in memory; a region that does not gives no space (R21, R22). -/
def State.oregPlace (s : State) (r : Nat) : Option Nat :=
  let size := s.f CMP_OREGSIZE 31 0 * 1048576
  if inMem (s.pair CMP_OREG_LO) size then s.place CMP_OREG_LO size r else none

/-- An input that points into a reserved range is refused with E_RANGE (R22). -/
def State.laneRefuse (s : State) (l : Nat) (j : LaneJob) : State :=
  (s.publishEntry (s.outQueue j.src) 9 { status := 2, type := 0x0C, addr := 0, length := 0, qseq := 0, stamp := 0, tag := j.entry.tag }).laneFree l j

/-- The header of a container of `n` words for a lane's record: its own flags with ZIP, LOSS and SUSPECT, chained where it needs buffers; SEQ counts the
containers of the record's DEV and PORT. -/
def State.laneHead (s : State) (j : LaneJob) (q n need : Nat) : List Nat :=
  let w0 := nth j.words 0 0
  let bad := s.poisoned j.entry.addr j.entry.length
  let loss := s.que.loss.contains q || s.cmp.loss.contains j.src
  let fl := nfld w0 51 40 ||| 0x20 ||| (if loss then 0x80 else 0) ||| (if bad then 0x10 else 0)
  [0x0C * 2 ^ 56 + 2 ^ 52 + fl % 4096 * 2 ^ 40 + n % 65536 * 2 ^ 24 + nfld w0 23 7 * 2 ^ 7,
   s.recSeq q 0x0C (nfld w0 23 7) * 2 ^ 32 + nfld (nth j.words 1 0) 31 16 * 2 ^ 16 + (if need = 0 then 0 else 2 ^ 15), nth j.words 2 0] ++ j.words.take 3

/-- A container, or with `pass` the record itself, is written for a lane and its entry published. -/
def State.lanePut (s : State) (l : Nat) (j : LaneJob) (o r : Nat) (bufs : List Nat) (pass : Bool) (ws : List Nat) (stored : Nat) : State :=
  let q := s.outQueue j.src
  let s1 := (s.putOut q o r bufs ws j.entry.tag).inc CMP_STORED (if pass then 0 else stored)
  let s2 := if pass then s1.inc CMP_PASS else s1.recNext q 0x0C (nfld (nth j.words 0 0) 23 7)
  let s3 : State := { s2 with cmp := { s2.cmp with loss := s2.cmp.loss.filter (· != j.src) }, que := { s2.que with loss := s2.que.loss.filter (· != q) } }
  s3.laneFree l j

/-- What a lane has made is put into its region of `r` bytes with `need` buffers chained, or waits for room. -/
def State.laneGo (s : State) (l : Nat) (j : LaneJob) (r need : Nat) (pass : Bool) (ws : List Nat) (stored : Nat) : State :=
  let free := s.chainFree
  if s.outStuck (s.outQueue j.src) then s
  else if !inMem j.entry.addr j.entry.length then s.laneRefuse l j
  else match s.oregPlace r with
    | none => s
    | some o =>
      if free.length < need then
        (if j.wait.isSome then s
         else { s with cmp := { s.cmp with lanes := vmod s.cmp.lanes l (fun _ => some { j with wait := some s.up }) } })
      else s.lanePut l j o r (free.take need) pass ws stored

/-- A container is published for a lane's record. -/
def State.laneContainer (s : State) (l : Nat) (j : LaneJob) (codes : List (List (List Nat × List Nat))) (spoilt : List (Nat × List Nat × Nat)) : State :=
  let q := s.outQueue j.src
  let c := s.csrRaw (CMP_CFG j.src)
  let b := containerBody (fld c 15 12) (fld c 11 10) (fld c 7 0) (j.words.drop 3) codes spoilt
  let u := 8 * (j.words.length - 3)
  let pass := decide (65535 < 6 + b.1.length)
  let n := if pass then j.words.length else 6 + b.1.length
  let r := if pass then (8 * n + 4095) / 4096 * 4096 else s.reserve u
  let need := if pass then 0 else chainNeed r n
  s.laneGo l j r need pass (if pass then j.words else s.laneHead j q n need ++ b.1) b.2

/-! Decompression (R334). -/

/-- Blocks of a body inflated one after another, `prev` the element before them: their bytes, and whether all were right. -/
def inflateBlocks (pre : Nat) (prev : Option Nat) (body : List Nat) : List (Nat × Nat × Nat) → List Nat × Bool
  | [] => ([], true)
  | (clen, bulen, crc) :: t =>
    let bs := (wordsBytes (body.take ((clen + 7) / 8))).take clen
    match inflate bs bulen with
    | none => ([], false)
    | some x =>
      let y := unprecond pre prev x
      if y.length ≠ bulen ∨ crc32c y ≠ crc then ([], false)
      else let r := inflateBlocks pre ((lastElement y).or prev) (body.drop ((clen + 7) / 8)) t
           (y ++ r.1, r.2)

/-- A container body is checked and inflated: the status and the bytes. -/
def inflateBody (maxout ratio cap : Nat) (body : List Nat) : Nat × List Nat :=
  let c := nth body 0 0
  let n := nfld c 31 0
  let dir := (List.range n).map (fun i => (nfld (nth body (2 + 2 * i) 0) 63 32, nfld (nth body (2 + 2 * i) 0) 31 0, nth body (3 + 2 * i) 0))
  let ulen := nth body 1 0
  if nfld c 63 56 ≠ 0xFC ∨ nfld c 55 52 ≠ 1 ∨ nfld c 39 32 ≠ 0 ∨ body.length < 2 + 2 * n ∨ dir.any (fun x => nfld x.2.2 30 0 != 0) then (9, [])
  else if maxout < ulen ∨ cap < ulen ∨ dir.any (fun x => decide (ratio * x.1 < x.2.1)) then (2, [])
  else
    let r := inflateBlocks (nfld c 47 46) none (body.drop (2 + 2 * n)) (dir.map (fun x => (x.1, x.2.1, nfld x.2.2 63 32)))
    if r.2 ∧ r.1.length = ulen then (0, r.1) else (9, r.1)

/-- The record of a job is read: errors in its words are counted (R317). -/
def State.jobRead (s : State) (as : List Nat) : State :=
  let t := as.foldl (fun st b => st.dramRead b 8) s
  if as.any (fun b => s.poisoned b 8) then t.momentary else t

/-- DECOMPRESS_JOB: the lane's job is checked, inflated and answered on the output queue; a record rebuilt from poisoned data carries SUSPECT. -/
def State.inflateJob (s : State) (l : Nat) (j : LaneJob) : State :=
  let q := s.outQueue j.src
  let b (i : Nat) : Nat := nth j.words i 0
  let a := b 0
  let n := nfld (b 1) 63 32 / 8
  let dst := b 2
  let cap := nfld (b 3) 63 32
  let w := s.recWords a n
  let w0 := nth w 0 0
  let isC := nfld w0 63 56 == 0x0C
  let at_ := if isC then 6 else 8
  let out := !inMem j.entry.addr 32 || !inMem a (8 * n) || !inMem dst 8
  let blockOk := j.entry.length == 32 && nfld (b 1) 31 0 == 0 && nfld (b 3) 31 0 == 0
  let entryOk := blockOk && a % 8 == 0 && dst % 8 == 0 && ((isC && nfld (nth w 1 0) 14 0 == 0) || (!isC && w0.testBit 45 && nfld w0 63 56 == 0x06)) && decide (at_ ≤ n)
  let r := if out then (2, []) else if entryOk then inflateBody (max 1 (s.f CMP_DLIM 31 16) * 4096) (max 1 (s.f CMP_DLIM 15 0)) cap (w.drop at_) else (9, [])
  let bw := bytesWords r.2
  let head := if isC then (w.drop 3).take 3 else (w.take 8).mapIdx (fun i x => if i = 0 then nset (nset x 45 45 0) 39 24 (8 + bw.length) else x)
  let bad := (s.recAddrs a n).any (fun x => s.poisoned x 8)
  let full := (if bad then head.mapIdx (fun i x => if i = 0 then x ||| 2 ^ 44 else x) else head) ++ bw
  let ok := r.1 == 0 && inMem dst (8 * full.length)
  if s.outStuck q then s
  else
    let s0 := if out then s else s.jobRead (s.recAddrs a n)
    let s1 := if r.1 = 2 ∨ (r.1 ≠ 0 ∧ r.2 = []) ∨ !inMem dst (8 * full.length) then s0 else s0.putWords dst full
    let st := if ok then 0 else if r.1 = 0 then 2 else r.1
    let s2 := if ok then s1 else s1.inc CMP_DFAIL
    (s2.publishEntry q 9 { status := st, type := 0, addr := if ok then dst else 0, length := if ok then 8 * full.length else 0, qseq := 0, stamp := 0, tag := j.entry.tag }).laneFree l j

/-- CMP_OUTPUT_PUBLISH and DECOMPRESS_JOB: lane `l` publishes its output when it is first in its source's order. -/
def State.laneDone (s : State) (l : Nat) (codes : List (List (List Nat × List Nat))) (spoilt : List (Nat × List Nat × Nat)) : State :=
  match s.lane l with
  | none => s
  | some j =>
    if !s.laneFirst l j.src || s.stopped 6 || s.onSafe 9 || !s.clk.gate.testBit 9 then s
    else match j.zip with
      | some z =>
        let c := s.csrRaw (CMP_CFG 6)
        let b := containerBody (fld c 15 12) (fld c 11 10) (fld c 7 0) (z.words.drop 8) codes spoilt
        let fits := decide (8 + b.1.length ≤ 65535)
        ((s.inc CMP_STORED (if fits then b.2 else 0)).inc CMP_PASS (if fits then 0 else 1)).laneFree l j |>.zipDone z (if fits then some b.1 else none)
      | none => if j.inflate then s.inflateJob l j else s.laneContainer l j codes spoilt

/-- CMP_CHAIN_WAIT_EXPIRY: the input is abandoned with E_NOMEM. -/
def State.chainExpiry (s : State) (l : Nat) : State :=
  match s.lane l with
  | none => s
  | some j =>
    match j.wait with
    | none => s
    | some t =>
      if s.up < t + s.f CMP_OCFG 15 0 * us then s
      else
        let s1 := (s.publishEntry (s.outQueue j.src) 9 { status := 8, type := 0x0C, addr := 0, length := 0, qseq := 0, stamp := 0, tag := j.entry.tag }).inc CMP_NOCHAIN
        ({ s1 with cmp := { s1.cmp with loss := j.src :: s1.cmp.loss.filter (· != j.src) } } : State).laneFree l j

/-- Queues a CMP tap may name. -/
def cmpQueues : List Nat := [64, 65, 66, 68, 69, 70, 71, 72, 73, 74, 75]

/-- A queue has another consumer: a forward tap, or another tap of CMP (notes/assumptions/194.md). -/
def State.otherTap (s : State) (k q : Nat) : Bool :=
  (List.range 8).any (fun t => s.b (FAB_FWD t) 31 && s.f (FAB_FWD t) 30 24 == q)
  || [2, 3, 4, 5].any (fun i => i != k && s.b (CMP_CFG i) 31 && s.f (CMP_CFG i) 27 20 == q)

/-- A write of CMP.CFG[k], EN of taps only: a tap that names another queue, or one that is consumed, stays off and sets CFGERR (R328). -/
def State.writeCmpCfg (s : State) (k : Nat) (v : Word) : State :=
  let tap := decide (2 ≤ k) && decide (k < 6)
  let s1 := s.writeReg (CMP_CFG k) (if tap then v else setBit v 31 false)
  let q := s1.f (CMP_CFG k) 27 20
  if tap && s1.b (CMP_CFG k) 31 && (!cmpQueues.contains q || s1.otherTap k q) then (s1.setB (CMP_CFG k) 31 false).setB CMP_STAT 31 true else s1

/-- CMP_KNOWN_ANSWER, every 1 s: a lane that fails its round trip is removed (class 18). -/
def State.cmpTest (s : State) (l : Nat) (ok : Bool) : State :=
  if !s.testDue (2 + l) || !s.b CMP_CTL (24 + l) then s
  else cond (!ok) (fun st : State => (st.setB CMP_CTL (24 + l) false).alarm 1 CMP_CTL (24 + l)) (s.testRun (2 + l))

end Sys2Proof.Machine
end

