-- ==== Sys2Proof/Machine/Rcv.lean ====
section
/-! DEFINITION. Coherent receive: filter banks, staging, swaps and fades, generated taps, sample instants and raw capture
(R96 to R118). -/

namespace Sys2Proof.Machine

open Csr

/-- A filter at rest on its factory bank. -/
def Filter.rest : Filter :=
  { bankA := .factory, bankB := .factory, onB := false, staging := [], phase := .idle, wait := none, gen := none, made := none }

/-- Filter FILT. -/
def State.filt (s : State) (i : Nat) : Filter := vget s.rcv.filt i .rest

/-- Filter FILT changed. -/
def State.filtUpd (s : State) (i : Nat) (f : Filter → Filter) : State := { s with rcv := { s.rcv with filt := vmod s.rcv.filt i f } }

/-! Settling (R82, R113, R132). -/

/-- Frames with SETTLING owed to every slot from now on; counts do not add. -/
def State.settleAll (s : State) (n : Nat) : State := { s with lch := { s.lch with settle := s.lch.settle.map (max n) } }

/-- The same for the slots of a mask. -/
def State.settleSlots (s : State) (m n : Nat) : State :=
  { s with lch := { s.lch with settle := s.lch.settle.mapIdx (fun i v => if m.testBit i then max n v else v) } }

/-- Words of a staging buffer (R108, R109). -/
def stageWords (i : Nat) : Nat := if i = 0 then 193 else if i = 1 then 24 else 10240

/-- The active bank and the other one. -/
def Filter.active (f : Filter) : Bank := if f.onB then f.bankB else f.bankA
def Filter.spare (f : Filter) : Bank := if f.onB then f.bankA else f.bankB

/-- A filter is fading or copying (R110). -/
def Filter.busy (f : Filter) : Bool := match f.phase with | .copying _ _ => true | .fading _ _ _ => true | _ => false

/-- The inactive bank is replaced. -/
def Filter.setInactive (f : Filter) (b : Bank) : Filter := if f.onB then { f with bankA := b } else { f with bankB := b }

/-- The module copies the staging buffer of a filter (step 1 of R109). -/
def State.startCopy (s : State) (i fade : Nat) : State :=
  s.filtUpd i (fun f => { f with phase := .copying (s.up + 2000 * stageWords i + 100000) fade, wait := none })

/-- RCV.SWAP with GO (R109, R110, R112). -/
def State.writeSwap (s : State) (v : Word) : State :=
  let i := fld v 20 16
  let fade := if i = 1 then 0 else fld v 5 0
  if !bit v 31 then s
  else if 18 ≤ i ∨ (2 ≤ i ∧ s.b RCV_PCCTL 31) then s.setB RCV_STAT 30 true
  else if !(s.filt i).busy && (s.filt i).wait.isNone then s.startCopy i fade
  else (cond (s.filt i).wait.isSome (·.inc RCV_SWAPREPL) s).filtUpd i (fun f => { f with wait := some fade })

/-- SWAP_COPY_DONE: the staging buffer stands in the inactive bank (R109). -/
def State.copyDone (s : State) (i : Nat) : State :=
  match (s.filt i).phase with
  | .copying _ fade => s.filtUpd i (fun f => { f.setInactive (.loaded f.staging) with phase := .ready s.time fade })
  | _ => s

/-- A filter comes to rest: a set generated meanwhile stands in the inactive bank, or else a waiting request is served; `keep` false makes it a
swap with F = 0 (R106, R110, R111). -/
def State.fadeOver (s : State) (i : Nat) (keep : Bool) : State :=
  match (s.filt i).made, (s.filt i).wait with
  | some (b, since, fade), _ => s.filtUpd i (fun f => { f.setInactive b with phase := .ready since fade, made := none })
  | none, some fade => (s.filtUpd i (fun f => { f with phase := .idle })).startCopy i (if keep then fade else 0)
  | none, none => s.filtUpd i (fun f => { f with phase := .idle })

/-- FADE_END: every active slot has had its fade frames and the windows of them all have closed (R110). -/
def State.fadeEnd (s : State) (i : Nat) : State :=
  match (s.filt i).phase with
  | .fading fade done frames =>
    let active := if 2 ≤ i then eSlots (s.enta (i - 2)) else s.plan.sloten
    if (slotsOf active).all (fun sl => decide (fade ≤ vget done sl 0)) && !s.lch.wins.any (fun l => frames.contains l.n) then s.fadeOver i true else s
  | _ => s

/-- What a filter applies to a frame that meets no fade. -/
def State.mixNow (s : State) (i : Nat) : List (Nat × Mix) := (List.range 4).map (fun sl => (sl, Mix.only (s.filt i).active))

/-- The launch of a frame that a filter processes: a waiting bank is faded in from it on; the frame carries SETTLING while it
is a fade frame or the first of a whole swap; a whole swap of the slot filter marks the first frame of every slot. With it, what the filter
applies to the frame in each slot (R109, R113). -/
def State.filtLaunch (s : State) (i slots start n : Nat) : Bool × List (Nat × Mix) × State :=
  let go (fade : Nat) (done : Vector Nat 4) (st : State) : Bool × List (Nat × Mix) × State :=
    let hit := (slotsOf slots).any (fun sl => decide (vget done sl 0 < fade))
    let f := st.filt i
    let mix (sl : Nat) : Mix :=
      if slots.testBit sl && decide (vget done sl 0 < fade) then { old := f.spare, new := f.active, j := vget done sl 0 + 1, f := fade } else Mix.only f.active
    (hit, (List.range 4).map (fun sl => (sl, mix sl)), st.filtUpd i (fun f =>
      let old := match f.phase with | .fading _ _ l => l | _ => []
      { f with phase := .fading fade (done.mapIdx (fun j x => if slots.testBit j then x + 1 else x)) (if hit then n :: old else old) }))
  match (s.filt i).phase with
  | .ready since fade =>
    if start < since then (false, s.mixNow i, s)
    else
      let s1 := s.filtUpd i (fun f => { f with onB := !f.onB })
      if fade = 0 then (true, s1.mixNow i, cond (i == 0) (·.settleAll 1) (s1.fadeOver i true)) else go fade (Vector.replicate 4 0) s1
  | .fading fade done _ => go fade done s
  | _ => (false, s.mixNow i, s)

/-- The run has ended and the last window has closed: fades complete at once (R111). -/
def State.fadesEnd (s : State) : State :=
  (List.range 18).foldl (fun st i => match (st.filt i).phase with | .fading _ _ _ => st.fadeOver i false | _ => st) s

/-! Matched-filter generation (R106). -/

/-- Generation of entry `k`'s set starts. -/
def State.genStart (s : State) (k : Nat) : State := s.filtUpd (2 + k) (fun f => { f with gen := some s.up })

/-- MF_GEN_DONE: the generated set waits in the inactive bank for the first frame of its entry, or beside the banks while a fade or a copy
occupies them (R106). The spec does not say when ENTA, ENTB, WIN and F are taken: here, as the generation completes (notes/assumptions/56.md). -/
def State.genDone (s : State) (k : Nat) : State :=
  let f := s.filt (2 + k)
  let b : Bank := .generated (s.enta k) (s.entb k) (s.f RCV_PCCTL 29 28)
  if f.gen.isNone then s
  else if f.busy then s.filtUpd (2 + k) (fun f => { f with gen := none, made := some (b, s.time, s.f RCV_PCCTL 5 0) })
  else s.filtUpd (2 + k) (fun f => { f.setInactive b with gen := none, phase := .ready s.time (s.f RCV_PCCTL 5 0) })

/-- RCV.PCCTL: AUTO from 0 to 1 starts generation for every entry with slots (R106). -/
def State.writePcctl (s : State) (v : Word) : State :=
  let s1 := s.writeReg RCV_PCCTL v
  if bit v 31 && !s.b RCV_PCCTL 31 then
    (List.range 16).foldl (fun st k => if eSlots (st.enta k) = 0 then st else st.genStart k) s1
  else s1

/-! Coefficients (R108). -/

/-- RCV.CSDATA: a coefficient is staged and WORD increments; ignored past the last word, and with STAGEBUSY during a copy. With FILT 18 to 31, of
which the spec says nothing here, it is ignored without a flag (notes/assumptions/57.md). -/
def State.writeCsData (s : State) (v : Word) : State :=
  let i := s.f RCV_CSADDR 31 27
  let w := s.f RCV_CSADDR 13 0
  if 18 ≤ i then s
  else match (s.filt i).phase with
  | .copying _ _ => s.setB RCV_STAT 29 true
  | _ =>
    if stageWords i ≤ w then s
    else (s.filtUpd i (fun f => { f with staging := spPut f.staging w (some (fld v 17 0)) })).setF RCV_CSADDR 13 0 (w + 1)

/-- RCV.CTL: a change marks the frames of Table RCV-7. -/
def State.writeRcvCtl (s : State) (v : Word) : State :=
  let s1 := s.writeReg RCV_CTL v
  let o := s.csrRaw RCV_CTL
  let n := s1.csrRaw RCV_CTL
  let d (hi lo : Nat) : Bool := fld o hi lo != fld n hi lo
  cond (d 31 31) (·.settleAll 2) (cond (d 27 24 || d 21 16) (·.settleAll 1) s1)

/-- RCV.LOSB: a change marks one frame. -/
def State.writeLosb (s : State) (v : Word) : State :=
  let s1 := s.writeReg RCV_LOSB v
  cond (s.csrRaw RCV_LOSB != s1.csrRaw RCV_LOSB) (·.settleAll 1) s1

/-- RCV.RAW: EN stays 0, with CFGERR, while RAWSIZE is out of range (R116). -/
def State.writeRaw (s : State) (v : Word) : State :=
  let n := (s.csrRaw RCV_RAWSIZE).toNat
  if bit v 31 && (decide (n = 0) || decide (16384 < n)) then (s.writeReg RCV_RAW (setBit v 31 false)).setB RCV_RAWSTAT 31 true
  else s.writeReg RCV_RAW v

/-- RCV.RAWLEN: a larger length is held at 16,775,424 (R115). -/
def State.writeRawlen (s : State) (v : Word) : State := s.writeReg RCV_RAWLEN (setFld v 23 0 (min 16775424 (fld v 23 0)))

/-- The LO sideband during a launch, by its LEVEL, or none while it is off. MODE 3, which the spec leaves without a meaning, keeps it off (R101,
notes/assumptions/58.md). A launch of FIBRECAL is neither of the split nor of the interleaved
plan, so MODE 1 keeps it off there. -/
def State.sideFor (s : State) (p : PlanRegs) (temp : Bool) : Option Nat :=
  let on := match s.f RCV_LOSB 29 28 with | 1 => p.split || (p.ilv && temp) | 2 => true | _ => false
  if on then some (min 160 (s.f RCV_LOSB 7 0)) else none

/-! Raw capture (R114 to R117). -/

/-- The raw capture a launch with number `i` takes: latched registers, if any. None is taken while captures in flight can use up RCV.RAWCNT, even where
one of them is later skipped or empty (DESIGN CHOICE, notes/assumptions/168.md). -/
def State.rawLatch (s : State) (i : Nat) : Option (Word × Word × Word) :=
  let cnt := (s.csrRaw RCV_RAWCNT).toNat
  let open_ := (s.lch.wins ++ s.lch.tails).countP (fun (l : Launch) => l.raw.isSome)
  if s.b RCV_RAW 31 && i % max 1 (s.f RCV_RAW 15 0) == 0 && (decide (cnt = 0) || decide (open_ < cnt)) then
    some (s.csrRaw RCV_RAW, s.csrRaw RCV_RAWSTART, s.csrRaw RCV_RAWLEN)
  else none

/-- SRC in force: 5 to 7 act as 0. -/
def rawSrc (r : Word) : Nat := if 5 ≤ fld r 30 28 then 0 else fld r 30 28

/-- Sample period of a source in ps (R115). -/
def rawPer (src : Nat) : Nat := match src with | 0 => 500 | 1 => 500 | 4 => 1000 | _ => 4000

/-- The clipped sample range of a capture: first index and count. It is empty for RAWLEN 0, and for SRC 4 on a launch that the DTS window filter does
not process (notes/assumptions/59.md). -/
def State.rawRange (s : State) (l : Launch) (r : Word × Word × Word) : Int × Nat :=
  let w := s.winRange l (rawPer (rawSrc r.1))
  let a := sfld r.2.1 23 0
  let lo := max a w.1
  let hi := min (a + (min 16775424 (fld r.2.2 23 0) : Nat)) w.2
  (lo, if rawSrc r.1 = 4 ∧ !l.dts then 0 else (hi - lo).toNat)

/-- A captured sample, and whether it is saturated (Table RCV-9). -/
def State.rawSample (s : State) (l : Launch) (src sl : Nat) (n : Int) : Nat × Bool :=
  let o := s.origin l
  match src with
  | 0 =>
    let a := s.adcAt (o + 500 * n)
    (((List.range 4).map (fun i => ofSigned 16 (laneOf a i).toInt * 2 ^ (16 * i))).foldl (· + ·) 0, false)
  | 1 => ((iqWord (Cx.scale 4 (s.corrected l 0 n)) (Cx.scale 4 (s.corrected l 1 n))).1, false)
  | 2 => iqScaled (s.slotOut l sl 0 n) (s.slotOut l sl 1 n)
  | 3 => iqScaled (s.compress l sl 0 n) (s.compress l sl 1 n)
  | _ => iqScaled (s.dtsOut l 0 n) (s.dtsOut l 1 n)

/-- The records of a capture: one per slot and part (Table RCV-9). With SRC 2 or 3 and SLOTS 0 there is none (notes/assumptions/60.md). -/
def State.rawRecs (s : State) (l : Launch) (r : Word × Word × Word) (lo : Int) (n : Nat) : List Rec :=
  let src := rawSrc r.1
  let slots := if src = 2 ∨ src = 3 then slotsOf (fld r.1 27 24) else [0]
  let nparts := (n + 65528) / 65529
  (slots.map (fun sl =>
    (List.range nparts).map (fun part =>
      let i0 := part * 65529
      let k := min 65529 (n - i0)
      let data := (List.range k).map (fun (j : Nat) => s.rawSample l src sl (lo + ((i0 + j : Nat) : Int)))
      let t := s.origin l + (lo + i0) * rawPer src
      s.mkRec 67 3 0x03 (64 + l.port)
        ([src * 2 ^ 60 + sl * 2 ^ 56 + part % 256 * 2 ^ 48 + b2n (part + 1 == nparts) * 2 ^ 47 + k,
          stampZ t, l.frame % 2 ^ 32 * 2 ^ 32 + ofSigned 32 (lo + i0)] ++ data.map (·.1))
        (s.pair RCV_RAWBUF_LO) ((s.csrRaw RCV_RAWSIZE).toNat * 0x100000) RCV_RAWBUF_LO
        (flags := ((if data.any (·.2) then 8 else 0) + (if l.suspect then 16 else 0)) ||| s.gapFlag t (t + (k * rawPer src : Nat))) (spec := 0xFFFF) (t := some t)))).flatten

/-- A capture is made whole, or skipped whole with LOSS in the next record; records of earlier captures that still wait for a place in the queue
hold theirs in the region. A region that does not lie wholly in DRAM has no room (R115, R116, notes/assumptions/61.md). -/
def State.rawCapture (s : State) (l : Launch) : State :=
  match l.raw with
  | none => s
  | some r =>
    let (lo, n) := s.rawRange l r
    if l.unlocked then s
    else if n = 0 then s.incF RCV_RAWSTAT 7 0
    else
      let recs := s.rawRecs l r lo n
      if inDram (s.pair RCV_RAWBUF_LO) ((s.csrRaw RCV_RAWSIZE).toNat * 0x100000) && !s.stopped 3 && s.recsFit (s.waiting 67 ++ recs) then
        let s1 := s.publishAll 67 recs
        let cnt := (s.csrRaw RCV_RAWCNT).toNat
        if cnt = 0 then s1
        else cond (decide (cnt = 1)) (·.setB RCV_RAW 31 false) (s1.setF RCV_RAWCNT 31 0 (cnt - 1))
      else
        let s1 := s.incF RCV_RAWSTAT 15 8
        { s1 with que := { s1.que with loss := 67 :: s1.que.loss.filter (· != 67) } }

/-- The last samples of launches whose window has closed have come: raw captures are made, and temperature launches staged. -/
def State.tailsDone (s : State) : State :=
  (s.lch.tails.filter (fun (l : Launch) => decide (l.closes + filterReach ≤ s.rcv.adcTo))).foldl (fun st (l : Launch) =>
    (({ st with lch := { st.lch with tails := st.lch.tails.filter (fun x => x.n != l.n) } } : State).rawCapture l).dtsClose l) s

/-- Samples come from the ADCs, and what waited for them is done. -/
def State.take (s : State) (xs : List Adc) : State := (s.feed xs).tailsDone

end Sys2Proof.Machine
end

