-- ==== Sys2Proof/Machine/Lch.lean ====
section
/-! DEFINITION. Launch: laser, sequencer, launches, monitor, port switch, open ports and LASER_EN (R66 to R95). -/

namespace Sys2Proof.Machine

open Csr

/-- The short stamp limit of R46: at least 2 µs after TNOW. -/
def State.soonEnough (s : State) (stamp : Nat) : Bool := decide ((2000000 : Int) ≤ stampDelta s.tnow stamp)

/-! Ends of runs and windows. -/

/-- The run of the sequencer is over and the last window closed, whatever lnch is pending: fades complete, STR flushes, the profile ends (R111,
R146, R186). -/
def State.runEnded (s : State) : State :=
  if !s.lch.ran || s.running || !s.lch.wins.isEmpty then s
  else
    let s1 := s.fadesEnd.dtsEnd.strEnd
    { s1 with lch := { s1.lch with ran := false } }

/-- The sequencer stops at once: LCH.STAT.RUN becomes 0. -/
def State.seqStop (s : State) : State := { s with lch := { s.lch with seq := none, runTail := none } }.runEnded

/-! frm.start, lnch and frm.stop (R46, R73, R79). -/

/-- A refusal leaves its entry and reason in LCH.STAT (R79). -/
def State.refuse (s : State) (w : Why) : State := (s.setF LCH_STAT 19 16 w.2).setF LCH_STAT 15 12 w.1

/-- The frames owed for a change of an entry are owed to its slots from now on (Table LCH-16, notes/assumptions/163.md). -/
def State.settleChanged (s : State) (k : Nat) : State :=
  match spGet s.lch.changed k with
  | some n =>
    let s1 := s.settleSlots (eSlots (s.enta k)) n
    { s1 with lch := { s1.lch with changed := spPut s1.lch.changed k none } }
  | none => s

/-- frm.start with stamp S and period P: status, FLAGS.T, and the state (R46, R73, R79). -/
def State.frmStart (s : State) (stamp : Nat) (per : Nat) : Nat × Bool × State :=
  if !s.soonEnough stamp then (2, true, s)
  else if s.running then (3, false, s)
  else match s.checkStart per with
  | some w =>
    (whyStatus w.1, false, (cond (w.1 == 4 && s.periodRules s.plan per) (·.setB STR_STAT 30 true) s).refuse w)
  | none =>
    let p := s.plan
    let t := stampTime s.tnow stamp
    let k := s.planK p per
    let s0 := ((s.setF LCH_PLANSTAT 15 0 (s.planTail p per)).setF LCH_PLANSTAT 31 16 k).settleAll 1
    let s1 := p.launched.foldl State.settleChanged s0
    let s2 := { s1 with lch := { s1.lch with seq := some { s := t, p := per, j := 0, stopAt := none, k := k }, runTail := none, memb := [],
                                             freshNext := true, polNext := true, ran := true, runs := s1.lch.runs + 1, periods := 0 },
                        phs := { s1.phs with winAt := t, taken := [], sentChk := s1.csrRaw PHS_SENTCHK, sentTol := s1.csrRaw PHS_SENTTOL, sentOn := t } }
    (0, false, s2.strStart t per)

/-- lnch of entry `k` at a stamp: status, FLAGS.T, and the state (R46, R68, R79). -/
def State.lnch (s : State) (k stamp : Nat) : Nat × Bool × State :=
  let t := stampTime s.tnow stamp
  if !s.soonEnough stamp then (2, true, s)
  else if s.running then (3, false, s)
  else match s.checkLnch k t with
  | some w => (whyStatus w.1, false, s.refuse w)
  | none =>
    let l : Lnch := { entry := k, start := t, slots := eSlots (s.enta k), closes := t + s.window s.plan.range k }
    (0, false, { s with lch := { s.lch with lnch := s.lch.lnch ++ [l] } })

/-- The entry that period `j` of the plan launches, if any (R73, R76). -/
def PlanRegs.period (p : PlanRegs) (k j : Nat) : Option Nat :=
  if p.ilv then
    let cyc := p.count * p.n + 2 * k
    let q := j % cyc
    if q < p.count * p.n then some ((p.first + q % p.count) % 16)
    else if q = p.count * p.n + k then some p.ent else none
  else if p.count = 0 then none else some ((p.first + j % p.count) % 16)

/-- The next period from `j` on that launches. -/
def PlanRegs.nextPeriod (p : PlanRegs) (k j : Nat) : Nat :=
  (((List.range (2 * k + 1)).map (j + ·)).find? (fun i => (p.period k i).isSome)).getD j

/-- The sequencer stops; RUN stays 1 while the window of the launch given, if it is still open, lasts (R46). -/
def State.stopAfter (s : State) (w : Option Launch) : State :=
  match w with
  | some l => { s with lch := { s.lch with seq := none, runTail := some l.n } }
  | none => s.seqStop

/-- The first period, of those from `j0` on, that launches, and its instant. -/
def State.scheduled (s : State) (q : SeqRun) (j0 : Nat) : Nat × Nat :=
  let j := s.plan.nextPeriod q.k j0
  (j, q.s + j * q.p)

/-- frm.stop: after the pulse in flight for A = 0, else after the first launch scheduled at or after the stamp. Where that launch has fallen due,
the sequencer stops at once; RUN stays 1 until its window closes, or is 0 where it was withheld or its window has closed (R46). The stamp of a
later frm.stop takes the place of one still to come (DESIGN CHOICE, notes/assumptions/162.md). -/
def State.frmStop (s : State) (a : Option Nat) : State :=
  match s.lch.seq with
  | none => s
  | some q =>
    match a with
    | none => s.stopAfter (s.lch.wins.filter (fun (w : Launch) => !w.single && w.run == s.lch.runs)).getLast?
    | some stamp =>
      let t := stampTime s.tnow stamp
      let c := s.scheduled q (ceilDiv (t - q.s) q.p)
      if c.1 < q.j then s.stopAfter (s.lch.wins.find? (fun (w : Launch) => !w.single && w.run == s.lch.runs && w.start == c.2))
      else { s with lch := { s.lch with seq := some { q with stopAt := some t } } }

/-! Launches. -/

/-- A launch is withheld while LOCK is 0 or SYN-S or SYN-C is unlocked (R68, R347). -/
def State.withholds (s : State) : Bool := !s.lch.lock || !s.b CLK_STAT 30 || !s.b CLK_STAT 29

/-- A withheld launch: LCH.SKIP counts, and the first launch made later carries SETTLING (R68). -/
def State.withhold (s : State) : State :=
  let s1 := (s.inc LCH_SKIP).bump 0xA1 1
  { s1 with lch := { s1.lch with withheld := true } }

/-- SAFE is left (R93). -/
def State.leaveSafe (s : State) : State :=
  let s1 := ((s.setB LCH_OPENSTAT 31 false).setB LCH_OPENSTAT 30 false).settleAll 1
  { s1 with lch := { s1.lch with passes := 0 } }

/-- Is a launch of an entry a temperature launch: of entry ILV.ENT in the interleaved plan, of slot 1 in the split plan (R138)? -/
def PlanRegs.isTemp (p : PlanRegs) (entry slots : Nat) : Bool := (p.ilv && entry == p.ent) || (p.split && slots.testBit 1)

/-- The PEAK codes of a cycle's launches reduced by `d`: their energy against 1 mW (R92). -/
def lowPower (l : List (Nat × Nat × Nat)) (cycle d : Nat) : Bool :=
  decide ((l.map (fun x => x.1 * peakPower (min 120 x.2.1 - d) * x.2.2)).foldl (· + ·) 0 ≤ 10 ^ 11 * cycle)

/-- The PEAK code emitted under SAFE: at most +10 dBm per slot, and all of a cycle's peaks reduced together, in steps of 0.25 dB, until its average is
at most 0 dBm (R92, notes/assumptions/62.md). `l` lists slots, PEAK and T_code of the cycle's launches. -/
def safePeak (l : List (Nat × Nat × Nat)) (cycle peak : Nat) : Nat :=
  min 120 peak - ((List.range 121).find? (lowPower l cycle)).getD 120

/-- The launches of a cycle as `safePeak` takes them, and the cycle's length: of the running plan, or of one launch in its window (R83). -/
def State.powerCycle (s : State) (p : PlanRegs) (single : Bool) (per : Nat) (a b c : Word) (window : Nat) : List (Nat × Nat × Nat) × Nat :=
  let e (k : Nat) : Nat × Nat × Nat := (popSlots (eSlots (s.enta k)), fld (s.entc k) 7 0, s.entTcode k)
  if single then ([(popSlots (eSlots a), fld c 7 0, tCode a b)], window)
  else if p.ilv then ((List.replicate p.n (p.rotation.map e)).flatten ++ [e p.ent], (p.count * p.n + 2 * s.planK p per) * per)
  else (p.rotation.map e, p.count * per)

/-- The launch is over: it starts a measurement of the launch monitor's TDC unit (R85); true where the unit measures it. -/
def State.monStart (s : State) (start : Nat) : Bool × State :=
  if s.b LCH_MON 31 then s.tdcStart (s.f LCH_MON 26 24) 4 start else (false, s)

/-- A launch of the codes given is emitted: it latches the plan and the receive settings, opens its capture window, and takes part in settling,
fades, raw capture, the launch monitor and temperature accumulation (R70 to R78, R82, R85, R97, R101, R103, R109, R114, R121, R125, R138). -/
def State.emitCode (s : State) (p : PlanRegs) (plan a b c : Word) (entry start frame per tail : Nat) (single fib : Bool) : State :=
  let slots := eSlots a
  let code := eCode a
  let temp := fib || p.isTemp entry slots
  let dts := fib || p.split || (p.ilv && entry == p.ent)
  let das := !fib && !(temp && p.ilv)
  let window := s.tCoil + p.range * 4000 + tCode a b
  let cyc := s.powerCycle p single per a b c window
  let s1 := cond (s.b LCH_OPENSTAT 30 && s.b LCH_OPEN 31) State.leaveSafe s
  let s2 := cond s1.lch.withheld (·.settleAll 1) s1
  let side := s2.sideFor p temp
  let s3 := cond (side != s2.rcv.sideband) (fun st => ({ st with rcv := { st.rcv with sideband := side } }).settleAll 1) s2
  let s4 := s3.settleChanged entry
  let n := s4.lch.count
  let f0 := if !das then (false, s4.mixNow 0, s4) else s4.filtLaunch 0 slots start n
  let f1 := if dts then f0.2.2.filtLaunch 1 slots start n else (false, f0.2.2.mixNow 1, f0.2.2)
  let fk := f1.2.2.filtLaunch (2 + entry) slots start n
  let m := fk.2.2.monStart start
  let s5 := m.2
  let memb := if code = 2 then (spGet s5.lch.memb entry).getD 0 else 0
  let owed := (slotsOf slots).any (fun sl => decide (0 < (vget s5.lch.settle sl 0 : Nat)))
  let single3 := single && p.mode == 3
  let safe := s5.b LCH_OPENSTAT 31
  let first := (start + 249) / 250 * 250
  let l : Launch :=
    { n := n, start := start, gateOn := first - 20000, gateOff := first + tCode a b - 250 + 20000, entry := entry, plan := plan, range := p.range,
      enta := a, entb := b, entc := c, port := s.lch.port, single := single, run := s.lch.runs, temp := temp, dts := dts, fib := fib, member := memb,
      peak := if safe then safePeak cyc.1 cyc.2 (fld c 7 0) else fld c 7 0,
      settle := owed || f0.1 || fk.1 || (s.filt (2 + entry)).gen.isSome, settleCoil := decide (0 < s5.lch.settleCoil), closes := start + window,
      waits := s.b LCH_MON 31, timed := m.1, delay := (s.csrRaw LCH_MONNOM).toNat, suspect := safe, tail := tail,
      iq := s.iqRegs, rcvCtl := s.csrRaw RCV_CTL, gauge := s.f PHS_GAUGE 8 0, strCtl := s.csrRaw STR_CTL, raw := if fib then none else s.rawLatch frame, frame := frame, period := per,
      fresh := s5.lch.freshNext || single3, polReset := s5.lch.polNext || single3, clip := false, unlocked := false, accum := none, stagedAt := 0, hops := false,
      mix0 := f0.2.1, mixM := fk.2.1, mixD := mixOf f1.2.1 0 }
  let r := s5.dtsLaunch l
  let l' := { l with accum := r.1, hops := temp && !fib && s.b DTS_CTL 31 && !r.2.1 }
  let s7 := (r.2.2.bump 0xA0 1).hkBlank 29 (s.up + l.gateOn - s.time - 1000000) (s.up + l.gateOff - s.time + 5000000)
  { s7 with
    lch := { s7.lch with
      wins := s7.lch.wins ++ [l'], unjudged := s7.lch.unjudged ++ [l'], count := n + 1, withheld := false, sent := s.csrRaw LCH_SENT,
      freshNext := s7.lch.freshNext && !das, polNext := s7.lch.polNext && !das,
      memb := if code = 2 then spPut s7.lch.memb entry (some (1 - memb)) else s7.lch.memb,
      settle := if das then s7.lch.settle.mapIdx (fun i v => if slots.testBit i then v - 1 else v) else s7.lch.settle,
      settleCoil := if das then s7.lch.settleCoil - 1 else s7.lch.settleCoil },
    phs := { s7.phs with lastGauge := s.f PHS_GAUGE 8 0 } }

/-- A launch of an entry is emitted under the plan in the registers. -/
def State.emit (s : State) (entry start frame per tail : Nat) (single : Bool) : State :=
  s.emitCode s.plan (s.csrRaw LCH_PLAN) (s.enta entry) (s.entb entry) (s.entc entry) entry start frame per tail single false

/-- A launch of FIBRECAL: a single-plan temperature launch of slot 1, a rectangular code of 50 ns at +21.0 dBm (R138, R153). -/
def State.fibEmit (s : State) : State :=
  let p : PlanRegs := { mode := 3, split := false, ilv := false, sloten := 2, first := 0, count := 1, n := 0, ent := 0, range := s.f LCH_RANGE 17 0 }
  let s1 := s.emitCode p 0x30200001#32 0x200000C8#32 0#32 0xA4#32 16 s.time 0 0 0 true true
  { s1 with dts := { s1.dts with fib := s1.dts.fib.map (fun f => { f with made := f.made + 1 }) } }

/-- TAIL of a frame: the largest over its slots (R75, Table PHS-4). -/
def State.frameTail (s : State) (p : PlanRegs) (per entry : Nat) : Nat :=
  ((slotsOf (eSlots (s.enta entry))).map (fun sl => if (s.slotPos p sl).isEmpty then 0 else s.tailOf p per sl entry)).foldl max 0

/-- The next launch of the sequencer: period, instant and entry. -/
def State.seqNext (s : State) : Option (Nat × Nat × Nat) :=
  match s.lch.seq with
  | none => none
  | some q =>
    let j := s.plan.nextPeriod q.k q.j
    match s.plan.period q.k j with
    | some e => some (j, q.s + j * q.p, e)
    | none => none

/-- The sequencer's launch falls due. -/
def State.seqLaunch (s : State) (q : SeqRun) (j start entry : Nat) : State :=
  let hold := s.withholds
  let s0 := { s with lch := { s.lch with periods := j + 1 } }
  let s1 := if hold then s0.withhold else s0.emit entry start j q.p (s.frameTail s.plan q.p entry) false
  let stop := match q.stopAt with | some t => decide (t ≤ start) | none => false
  if !stop then { s1 with lch := { s1.lch with seq := some { q with j := j + 1 } } }
  else if hold then s1.seqStop
  else { s1 with lch := { s1.lch with seq := none, runTail := some s.lch.count } }

/-- The lnch that falls due first. -/
def State.nextLnch (s : State) : Option Lnch :=
  s.lch.lnch.foldl (fun b l => match b with | some x => if l.start < x.start then some l else b | none => some l) none

/-- A pending lnch falls due. Each counts in FRAME, made or withheld, from 0 at reset: the spec does not say where the count starts nor whether a
withheld lnch counts (notes/assumptions/63.md). -/
def State.lnchDue (s : State) (l : Lnch) : State :=
  let s0 := { s with lch := { s.lch with lnch := s.lch.lnch.erase l, lnchs := s.lch.lnchs + 1 } }
  if s.withholds then s0.withhold else s0.emit l.entry l.start s.lch.lnchs 0 0 true

/-- The window centre of FIBRECAL's next launch, kHz. -/
def FibRun.centre (f : FibRun) : Nat := nth f.prof.nucs (f.made / f.prof.navg) 0

/-- FIBRECAL steps on: SYN-M is retuned to the window of its next launch, or, 1.5 µs after a retune began, the launch is made, with no window open, the switch
settled, a half of the staging region free and launches still to make; it fails where the launch is withheld or the staging region is none
(R142, R153, notes/assumptions/42.md, 71.md). -/
def State.fibLaunch (s : State) (f : FibRun) : State :=
  let fail : State := { s with dts := { s.dts with fib := some { f with failed := true } } }
  if !s.lch.wins.isEmpty || !s.lch.portRdy || decide (f.prof.navg * f.prof.nucs.length ≤ f.made) || f.failed then s
  else if s.withholds || !s.stageOk then fail
  else if f.lo ≠ f.centre then ({ s with dts := { s.dts with fib := some { f with lo := f.centre, since := s.up } } } : State).setB CLK_MCUR 4 true
  else if s.up < f.since + 1500000 ∨ s.halfFree.isNone then s
  else (s.setB CLK_MCUR 4 false).fibEmit

/-- LAUNCH: the launch that falls due first is emitted or withheld; without one due, FIBRECAL makes its next one, or nothing happens. -/
def State.launch (s : State) : State :=
  match s.lch.seq, s.seqNext, s.nextLnch with
  | some q, some (j, start, e), _ => if start ≤ s.time then s.seqLaunch q j start e else s
  | _, _, some l => if l.start ≤ s.time then s.lnchDue l else s
  | _, _, none => match s.dts.fib with | some f => s.fibLaunch f | none => s

/-! The launch monitor (R85 to R87). -/

/-- The oldest launch whose monitor edge is awaited. -/
def State.monitored (s : State) : Option Launch := s.lch.wins.find? (·.waits)

/-- A launch in the capture list changed. -/
def State.winUpd (s : State) (n : Nat) (f : Launch → Launch) : State :=
  { s with lch := { s.lch with wins := s.lch.wins.map (fun (l : Launch) => if l.n = n then f l else l) } }

/-- The launch whose start the monitor's TDC unit holds and whose edge is awaited. -/
def State.timedLaunch (s : State) : Option Launch :=
  s.lch.wins.find? (fun (l : Launch) => l.waits && l.timed && (s.tdc (s.f LCH_MON 26 24)).start == some ((l.start * 4096 : Nat) : Int))

/-- RCV.ADCPH takes the phase found after a relock of SYN-C, once no launch awaits its monitor edge: the launch monitor's unit measures it (R98, R274;
DEDUCED, notes/assumptions/176.md). -/
def State.phaseSettle (s : State) : State :=
  match s.clk.phase with
  | none => s
  | some p => if s.monitored.isSome then s else ({ s with clk := { s.clk with phase := none } } : State).setF RCV_ADCPH 8 0 (p % 500)

/-- LAUNCH_MONITOR_EDGE: the monitor comparator's edge, seen at the fine count `n`, ends the measurement of the unit; its result gives the deviation,
unless a MISS was posted before it (R85 to R87). -/
def State.monEdge (s : State) (n : Nat) : State :=
  let u := s.f LCH_MON 26 24
  match s.timedLaunch with
  | none => s
  | some l =>
    let s0 := (s.tdcEdge u 4 true n).1
    let r := s0.tdcLast u
    let dev : Int := r - (s.csrRaw LCH_MONNOM).toNat
    let tol := decide (s.f LCH_MON 15 0 < dev.natAbs)
    if l.start + 1000000 < s.time then s0
    else
      let s1 := ((s0.result LCH_MONRES LCH_MONFLG (ofSigned 24 dev) (if tol then 4 else 0)).winUpd l.n
        (fun l => { l with waits := false, delay := r.toNat, suspect := l.suspect || tol })).phaseSettle
      cond tol (fun st => (st.alarm 2 LCH_MONFLG 2 (64 + l.port) (chanId st.dev (64 + l.port) 0)).momentary) s1

/-- LAUNCH_MONITOR_MISS: no edge within 1 µs of the commanded stamp (R87). -/
def State.monMiss (s : State) : State :=
  match s.monitored with
  | none => s
  | some l =>
    if s.time < l.start + 1000000 then s
    else
      ((s.result LCH_MONRES LCH_MONFLG 0 2).winUpd l.n (fun l => { l with waits := false, suspect := true })).phaseSettle.momentary

/-! The end of a capture window (R73, R97, R115, R145). -/

/-- The window that closes first. -/
def State.firstWin (s : State) : Option Launch :=
  s.lch.wins.foldl (fun b l => match b with | some x => if l.closes < x.closes then some l else b | none => some l) none

/-- Insertion of a launch by its number. -/
def insertLaunch (l : Launch) : List Launch → List Launch
  | [] => [l]
  | x :: t => if l.n < x.n then l :: x :: t else x :: insertLaunch l t

/-- A frame that a spoilt window takes away passes its restart of the unwrapping and of the averages on to the next frame (R107, R125, R347). -/
def State.passRestart (s : State) (l : Launch) : State :=
  let later := (s.lch.wins ++ s.lch.frames).filter (fun (w : Launch) => decide (l.n < w.n) && !w.fib && !(w.temp && bit w.plan 26) && !w.unlocked)
  let on (w : Launch) : Launch := { w with fresh := w.fresh || l.fresh, polReset := w.polReset || l.polReset }
  match later.foldl (fun (m : Option Nat) (w : Launch) => some (match m with | some x => min x w.n | none => w.n)) none with
  | some n => { s with lch := { s.lch with wins := s.lch.wins.map (fun (w : Launch) => if w.n = n then on w else w),
                                           frames := s.lch.frames.map (fun (w : Launch) => if w.n = n then on w else w) } }
  | none => { s with lch := { s.lch with freshNext := s.lch.freshNext || l.fresh, polNext := s.lch.polNext || l.polReset } }

/-- CAPTURE_WINDOW_CLOSE: with the ADC samples come since the last ones. -/
def State.windowClose (s0 : State) (xs : List Adc) : State :=
  let s := s0.take xs
  match s.firstWin with
  | none => s
  | some l =>
    if s.time < l.closes then s
    else
      let das := !l.fib && !(l.temp && bit l.plan 26)
      let s1 := { s with lch := { s.lch with
        wins := s.lch.wins.filter (fun w => w.n != l.n),
        runTail := if s.lch.runTail = some l.n then none else s.lch.runTail,
        tails := s.lch.tails ++ [l],
        frames := if das && !l.unlocked then insertLaunch l s.lch.frames else s.lch.frames } }
      (cond (das && l.unlocked) (·.passRestart l) s1).runEnded

/-! Laser (R67, R68, R94). -/

/-- LOCK falls; while the sequencer runs a major alarm is raised once for the loss (R68). -/
def State.lockFall (s : State) : State :=
  if !s.lch.lock then s
  else
    let s1 := { s with lch := { s.lch with lock := false } }
    cond s.running (·.alarm 1 LCH_STAT 31 (64 + s.lch.port) (chanId s.dev (64 + s.lch.port) 0)) s1

/-- LASER_LOCK_GAIN: the etalon error has stayed within its limits for 1 ms; the laser must be driven (R68). -/
def State.lockGain (s : State) : State :=
  if s.b LCH_LASER 30 && s.pin.laserEn then { s with lch := { s.lch with lock := true } } else s

/-- LCH.LASER: a WL above 10,000 is held at 10,000; a change of WL clears LOCK, and so does EN 0 (R67, R68). -/
def State.writeLaser (s : State) (v : Word) : State :=
  let s1 := s.writeReg LCH_LASER (setFld v 13 0 (min 10000 (fld v 13 0)))
  cond (s1.f LCH_LASER 13 0 != s.f LCH_LASER 13 0 || !s1.b LCH_LASER 30) State.lockFall s1

/-- LASER_EN changes while the module is held in reset: nothing but the pin (R94). -/
def State.laserPin (s : State) (v : Bool) : State := { s with pin := { s.pin with laserEn := v } }

/-- LASER_EN_LOW: the hardware turns everything off and the sequencer stops (R94). -/
def State.laserLow (s : State) : State :=
  if !s.pin.laserEn then s
  else
    let s1 := { s.lockFall with pin := { s.pin with laserEn := false } }
    let n := s1.lch.lnch.length
    let s2 := { (s1.inc LCH_SKIP n).bump 0xA1 n with lch := { s1.lch with lnch := [] } }
    (s2.alarm 1 LCH_STAT 30 (64 + s.lch.port) (chanId s.dev (64 + s.lch.port) 0)).dtsEnd.seqStop

/-- LASER_EN_HIGH: the laser begins to relock (R94). -/
def State.laserHigh (s : State) : State := { s with pin := { s.pin with laserEn := true } }

/-! Open ports (R92, R93). -/

/-- Mean power of the positions from `a` to `b`, both ends in, summed over the slots of a launch and the polarisations, at the output of the slot
filters: the only values that are there within the 5 us of R92 whatever the code (notes/assumptions/64.md). -/
def State.power (s : State) (l : Launch) (a b : Int) : Rat :=
  let n := (b + 1 - a).toNat
  let at_ (q : Int) : Rat := (slotsOf (eSlots l.enta)).foldl (fun t sl => t + Cx.normSq (s.slotOut l sl 0 q) + Cx.normSq (s.slotOut l sl 1 q)) 0
  ratSum n (fun (i : Nat) => at_ (a + (i : Int))) / ((n : Nat) : Rat)

/-- The positions that the open-port test of a launch reads: from CONNPOS + 5 to CONNPOS + 5 + SPAN, in whole positions (R92). -/
def State.openSpan (s : State) (l : Launch) : Int × Int :=
  let c : Nat := s.f (LCH_CONNPOS l.port) 23 0
  (((c + 255) / 256 + 5 : Nat), (c / 256 + 5 + max 16 (s.f LCH_OPEN 7 0) : Nat))

/-- The ratio of two powers lies below a threshold in whole dB: exact. -/
def belowDb (near coil : Rat) (thr : Int) : Bool :=
  if 0 ≤ thr then decide (near ^ 10 < coil ^ 10 * ((10 ^ thr.toNat : Nat) : Rat)) else decide (near ^ 10 * ((10 ^ (-thr).toNat : Nat) : Rat) < coil ^ 10)

/-- The test of a launch has failed: SAFE is entered, or its count of passes starts again (R92, R93). -/
def State.openFail (s : State) (l : Launch) : State :=
  let zero (st : State) : State := { st with lch := { st.lch with passes := 0 } }
  if s.b LCH_OPENSTAT 31 then zero (s.setB LCH_OPENSTAT 30 false)
  else (zero (((s.setB LCH_OPENSTAT 31 true).incF LCH_OPENSTAT 15 0).settleAll 1)).alarm 0 LCH_OPENSTAT 31 (64 + l.port) (chanId s.dev (64 + l.port) 0)

/-- The test of a launch has passed: under SAFE it counts towards RESTORED (R93). -/
def State.openPass (s : State) : State :=
  if !s.b LCH_OPENSTAT 31 then s
  else
    let s1 := { s with lch := { s.lch with passes := s.lch.passes + 1, passAt := if s.lch.passes = 0 then s.up else s.lch.passAt } }
    cond (decide (1000 ≤ s1.lch.passes) && decide (s1.lch.passAt + psPerSec ≤ s.up)) (·.setB LCH_OPENSTAT 30 true) s1

/-- OPEN_PORT_DECISION: with the ADC samples come since the last ones, the oldest launch not yet judged is judged on the power of its tested
positions and of coil positions -600 to -17, once its last tested position has been sampled (R92, R93). -/
def State.openPort (s0 : State) (xs : List Adc) : State :=
  let s := s0.take xs
  match s.lch.unjudged with
  | [] => s
  | l :: rest =>
    let sp := s.openSpan l
    if ((s.rcv.adcTo : Nat) : Int) < s.origin l + sp.2 * 4000 then s
    else
      let s1 := { s with lch := { s.lch with unjudged := rest } }
      if belowDb (s.power l sp.1 sp.2) (s.power l (-600) (-17)) (s.sf LCH_OPEN 15 8) then s1.openFail l else s1.openPass

/-- LCH.OPENSTAT: a 1 to SAFE leaves SAFE while RESTORED is 1 and LCH.OPEN.AUTO is 0, and has no effect otherwise (R93). -/
def State.writeOpenstat (s : State) (v : Word) : State :=
  if bit v 31 && s.b LCH_OPENSTAT 31 && s.b LCH_OPENSTAT 30 && !s.b LCH_OPEN 31 then s.leaveSafe else s

/-! The port switch (R88). -/

/-- The switch moves to a port: the profile in progress ends, and the first launches on the port settle and restart the unwrapping and the
averages (R82, R88, R107, R125, R146). -/
def State.movePortTo (s : State) (p : Nat) : State :=
  let s1 := ({ s with lch := { s.lch with port := p, portPend := false, portRdy := false } } : State).dtsEnd.settleAll 2
  { s1 with lch := { s1.lch with freshNext := true, polNext := true } }

/-- The switch moves to the port of the register. -/
def State.movePort (s : State) : State := s.movePortTo (s.f LCH_PLAN 25 24)

/-- LCH.PLAN: a new PORT moves the switch at once or waits; other changes settle and restart the unwrapping (R82, R88, R125). -/
def State.writePlan (s : State) (v : Word) : State :=
  let s1 := s.writeReg LCH_PLAN v
  let o := s.csrRaw LCH_PLAN
  let n := s1.csrRaw LCH_PLAN
  let port := fld o 25 24 != fld n 25 24
  let form := setFld o 25 24 0 != setFld n 25 24 0
  let s2 := cond form (fun st =>
    let st' := st.settleAll 2
    { st' with lch := { st'.lch with freshNext := true } }) s1
  if !port then s2
  else if s.chanStopped then s2.movePort
  else { s2 with lch := { s2.lch with portPend := true, portRdy := false } }

/-- PORT_SWITCH_MOVE: the waiting change is made once nothing launches and no window is open (R88). -/
def State.portMove (s : State) : State := if s.lch.portPend && s.chanStopped then s.movePort else s

/-- PORT_SETTLED (R88). -/
def State.portSettled (s : State) : State :=
  if s.lch.portPend then s else { s with lch := { s.lch with portRdy := true } }

/-! Other registers of the window. -/

/-- LCH.RANGE: a change marks two frames per slot (Table LCH-16). -/
def State.writeRange (s : State) (v : Word) : State :=
  let s1 := s.writeReg LCH_RANGE v
  cond (s.csrRaw LCH_RANGE != s1.csrRaw LCH_RANGE) (·.settleAll 2) s1

/-- LCH.SENT takes effect at the next launch, whose coil positions carry SETTLING (R91). -/
def State.writeSent (s : State) (v : Word) : State :=
  let s1 := s.writeReg LCH_SENT v
  { s1 with lch := { s1.lch with settleCoil := 1 } }

/-- LCH.ENTA, ENTB and ENTC: a change marks the entry's next frames, and a write of ENTA or ENTB starts the generation of its
taps while AUTO is 1 (Table LCH-16, R106). -/
def State.writeEntry (s : State) (a k : Nat) (owed : Nat) (gen : Bool) (v : Word) : State :=
  let s1 := s.writeReg a v
  let s2 := if s.csrRaw a = s1.csrRaw a then s1
    else { s1 with lch := { s1.lch with changed := spPut s1.lch.changed k (some (max owed ((spGet s1.lch.changed k).getD 0))) } }
  cond (gen && s.lchStopped && s.b RCV_PCCTL 31) (·.genStart k) s2

/-- MF_GEN_START: the write that starts generation: 0 ENTA, 1 ENTB of an entry, 2 RCV.PCCTL (R106). -/
def State.genWrite (s : State) (which k : Nat) (v : Word) : State :=
  match which with
  | 0 => s.writeEntry (LCH_ENTA k) k 2 true v
  | 1 => s.writeEntry (LCH_ENTB k) k 2 true v
  | _ => s.writePcctl v

end Sys2Proof.Machine
end

