-- ==== Sys2Proof/Machine/Thermo.lean ====
section
/-! DEFINITION. The thermocouple reference functions of IEC 60584-1, which R355 names (PRESUMED: the spec does not print their coefficients,
notes/assumptions/145.md). A coefficient (m, k) is m / 10^k. -/

namespace Sys2Proof.Machine

/-- Type K, -270 to 0 degrees: coefficients of t, t^2 and on, in mV. -/
def tcK0 : List (Int × Nat) :=
  [(394501280250, 13), (236223735980, 16), (-328589067840, 18), (-499048287770, 20), (-675090591730, 22), (-574103274280, 24),
   (-310888728940, 26), (-104516093650, 28), (-198892668780, 31), (-163226974860, 34)]

/-- Type K from 0 degrees: coefficients of t, t^2 and on, in mV. -/
def tcK1 : List (Int × Nat) :=
  [(389212049750, 13), (185587700320, 16), (-994575928740, 19), (318409457190, 21), (-560728448890, 24), (560750590590, 27),
   (-320207200030, 30), (971511471520, 34), (-121047212750, 37)]

/-- Type N, -270 to 0 degrees: coefficients of t, t^2 and on, in mV. -/
def tcN0 : List (Int × Nat) :=
  [(261591059620, 13), (109574842280, 16), (-938411115540, 19), (-464120397590, 22), (-263033577160, 23), (-226534380030, 25),
   (-760893007910, 28), (-934196678350, 31)]

/-- Type N from 0 degrees: coefficients of t, t^2 and on, in mV. -/
def tcN1 : List (Int × Nat) :=
  [(259293946010, 13), (157101418800, 16), (438256272370, 19), (-252611697940, 21), (643118193390, 24), (-100634715190, 26), (997453389920, 30),
   (-608632456070, 33), (208492293390, 36), (-306821961510, 40)]

/-- Type T, -270 to 0 degrees: coefficients of t, t^2 and on, in mV. -/
def tcT0 : List (Int × Nat) :=
  [(387481063640, 13), (441944343470, 16), (118443231050, 18), (200329735540, 19), (901380195590, 21), (226511565930, 22), (360711542050, 24),
   (384939398830, 26), (282135219250, 28), (142515947790, 30), (487686622860, 33), (107955392700, 35), (139450270620, 38), (797951539270, 42)]

/-- Type T from 0 degrees: coefficients of t, t^2 and on, in mV. -/
def tcT1 : List (Int × Nat) :=
  [(387481063640, 13), (332922278800, 16), (206182434040, 18), (-218822568460, 20), (109968809280, 22), (-308157587720, 25), (454791352900, 28),
   (-275129016730, 31)]

/-- A polynomial without constant term at `t`. -/
def tcPoly (cs : List (Int × Nat)) (t : Rat) : Rat := t * cs.foldr (fun c acc => (c.1 : Rat) / ((10 ^ c.2 : Nat) : Rat) + t * acc) 0

/-- A number cut to 80 binary places. -/
def cut80 (x : Rat) : Rat := ((x * ((2 ^ 80 : Nat) : Rat)).floor : Rat) / ((2 ^ 80 : Nat) : Rat)

/-- exp (-x) for x from 0 on, to 12 decimal places: eight squarings of its series at x / 256. -/
def expNeg (x : Rat) : Rat :=
  if 64 < x then 0
  else
    let y := x / 256
    let e := (List.range 14).reverse.foldl (fun acc k => 1 - y / ((k + 1 : Nat) : Rat) * acc) 1
    (List.range 8).foldl (fun a _ => cut80 (a * a)) (cut80 e)

/-- The voltage in uV of a thermocouple of type K (0), N (1) or T (2) at `t` mK. -/
def tcVolt (sub : Nat) (t : Rat) : Rat :=
  let c := t / 1000
  let mv := match sub with
    | 0 => if c < 0 then tcPoly tcK0 c
      else tcPoly tcK1 c - 176004136860 / 10000000000000 + 1185976 / 10000000 * expNeg (1183432 / 10000000000 * (c - 1269686 / 10000) * (c - 1269686 / 10000))
    | 1 => tcPoly (if c < 0 then tcN0 else tcN1) c
    | _ => tcPoly (if c < 0 then tcT0 else tcT1) c
  1000 * mv

/-- Upper end of a thermocouple's range in mK (R355). -/
def tcTop (sub : Nat) : Int := match sub with | 0 => 1372000 | 1 => 1300000 | _ => 400000

/-- The inverse of a reference function, to the nearest mK, and whether it was held at an end of the range; the function rises with temperature. -/
def tcTemp (sub : Nat) (v : Rat) : Int × Bool :=
  if v < tcVolt sub (-200000) then (-200000, true)
  else if tcVolt sub (tcTop sub) < v then (tcTop sub, true)
  else ((List.range 21).foldl (fun (lo : Int) k => let m : Int := lo + 2 ^ (20 - k); if m ≤ tcTop sub ∧ tcVolt sub ((m : Rat) - 1 / 2) ≤ v then m else lo) (-200000), false)

end Sys2Proof.Machine
end

