-- ==== Sys2Proof/Machine/Hkc.lean ====
section
/-! DEFINITION. The housekeeping converter: sequences, conversions, results, sample blocks and calibration (R352 to R377). -/

namespace Sys2Proof.Machine

open Csr

/-! Fields of CFG and the arithmetic of results (R353 to R359). -/

def hkType (c : Word) : Nat := fld c 31 29
def hkSub (c : Word) : Nat := fld c 28 26
def hkGain (c : Word) : Nat := 2 ^ fld c 25 23
def hkPreset (c : Word) : Nat := fld c 22 21
def hkBo (c : Word) : Nat := fld c 19 18

/-- K of Table HKC-4. -/
def hkK (preset : Nat) : Nat := nth [4, 3, 2, 1] preset 1

/-- The window of a preset in ps, rounded to whole SLOW periods of 10 ns (R360). -/
def hkWindow (mains60 : Bool) (preset : Nat) : Nat :=
  if mains60 then nth [166667, 1666667, 3333333, 16666667] preset 0 * 10000 else nth [200000, 2000000, 4000000, 20000000] preset 0 * 10000

/-- The largest code. -/
def hkMax : Int := 8388607

/-- A code held to the range, and whether it was held. -/
def hkHold (x : Int) : Int × Bool := if x < -hkMax then (-hkMax, true) else if hkMax < x then (hkMax, true) else (x, false)

/-- Nearest integer, halves away from zero. -/
def hkRound (x : Rat) : Int := if 0 ≤ x then (x + 1 / 2).floor else -((-x + 1 / 2).floor)

/-- CALOFF and CALGAIN in force. -/
def State.hkOff (s : State) (c : Nat) : Int := s.sf (HKC_CH_CALOFF c) 23 0
def State.hkCal (s : State) (c : Nat) : Nat := s.f (HKC_CH_CALGAIN c) 23 0

/-- RREF of a channel in milliohm: RREF0 for Pt100, RREF1 for Pt1000. -/
def State.hkRref (s : State) (cfg : Word) : Nat := (s.csrRaw (if hkSub cfg = 1 then HKC_RREF1 else HKC_RREF0)).toNat

/-- Resistance of a platinum sensor in milliohm at `t` mK under IEC 60751; `r0` in milliohm. -/
def rtdOhm (r0 : Nat) (t : Rat) : Rat :=
  let x := t / 1000
  (r0 : Rat) * (1 + 39083 / 10000000 * x - 5775 / 10000000000 * x * x - (if x < 0 then 4183 / 1000000000000000 * (x - 100) * x * x * x else 0))

/-- The temperature in mK, rounded to the nearest, at which a sensor has resistance `r`; it rises with `r`. -/
def rtdTemp (r0 : Nat) (r : Rat) : Int :=
  (List.range 21).foldl (fun (lo : Int) k => let m : Int := lo + 2 ^ (20 - k); if m ≤ 850000 ∧ rtdOhm r0 ((m : Rat) - 1 / 2) ≤ r then m else lo) (-200000)

/-- An RTD value and whether it was held (R355). -/
def rtdValue (r0 : Nat) (r : Rat) : Int × Bool :=
  if r < rtdOhm r0 (-200000) then (-200000, true) else if rtdOhm r0 850000 < r then (850000, true) else (rtdTemp r0 r, false)


/-- The result value of a corrected code, and RANGE (R355, R358, R359). -/
def State.hkValue (s : State) (c : Nat) (cfg : Word) (code : Int) : Int × Bool :=
  if 40 ≤ c then (code, false)
  else if 16 ≤ c then (Config.hkcScale c code, false)
  else match hkType cfg with
    | 1 => if s.b HKC_VEX (hkSub cfg) then (code, false) else (0, true)
    | 2 => rtdValue (if hkSub cfg = 1 then 1000000 else 100000) ((s.hkRref cfg : Nat) * code / ((hkGain cfg * 8388608 : Nat) : Rat))
    | 3 => match s.hkc.aux with
      | none => (0, true)
      | some (v, fl, _) =>
        if fl.testBit 3 || fl.testBit 1 then (0, true)
        else tcTemp (hkSub cfg) (code * 2500000 / ((hkGain cfg * 8388608 : Nat) : Rat) + tcVolt (hkSub cfg) (toSigned 24 v))
    | _ => (code, false)

/-! Passes (R367, R368). -/

/-- LEN of a sequence. -/
def State.hkLen (s : State) (inj : Bool) : Nat :=
  if inj then (let n := s.f HKC_ISEQCFG 19 16; if 1 ≤ n ∧ n ≤ 8 then n else 1) else (let n := s.f HKC_RSEQCFG 21 16; if 1 ≤ n ∧ n ≤ 32 then n else 1)

/-- A pass of the regular or the injected sequence. -/
def State.hkRun (s : State) (inj : Bool) : Option HkRun := if inj then s.hkc.inj else s.hkc.reg

/-- A pass replaced. -/
def State.hkSetRun (s : State) (inj : Bool) (r : Option HkRun) : State :=
  { s with hkc := if inj then { s.hkc with inj := r } else { s.hkc with reg := r } }

/-- The data words of a sample. -/
def HkSample.words (x : HkSample) : List Nat :=
  [stampOf x.t, x.chan * 2 ^ 58 + x.fl * 2 ^ 54 + x.entry * 2 ^ 47 + x.seq * 2 ^ 40 + x.value]

/-- A block of a pass is posted on Q76 (R371). -/
def State.hkBlock (s : State) (inj : Bool) (r : HkRun) : State :=
  match r.samples with
  | [] => s
  | x :: _ =>
    if s.f HKC_SBUFSIZE 15 0 = 0 then s
    else
      let any (b : Nat) : Bool := r.samples.any (fun (y : HkSample) => y.fl.testBit b)
      let fl := b2n (any 2) + b2n (any 1) * 8 + b2n (any 3 || any 0 || s.flt.suspect.contains 3) * 16
      let ws := [r.num * 2 ^ 32 + r.samples.length * 2 ^ 16, x.t / psPerSec % 2 ^ 32 * 2 ^ 32 + (if s.b HKC_CTL 30 then 16666667 else 20000000)]
                ++ r.samples.flatMap HkSample.words
      let last := (r.samples.getLast?.map (fun (y : HkSample) => y.t)).getD x.t
      s.publish (s.mkRec 76 11 8 68 ws (s.pair HKC_SBUF_LO) (s.f HKC_SBUFSIZE 15 0 * 1024) HKC_SBUF_LO
        (flags := fl ||| s.gapFlag x.t last) (spec := b2n inj * 2 ^ 15) (t := some (x.t : Int)))

/-- A sample joins its pass; a block with MAX samples closes. -/
def State.hkSample (s : State) (inj : Bool) (x : HkSample) : State :=
  let s0 := cond (x.fl.testBit 3 || x.fl.testBit 0) State.momentary s
  match s0.hkRun inj with
  | none => s0
  | some r =>
    let r1 : HkRun := { r with samples := r.samples ++ [x] }
    let top := clampN 1 32765 (s.f HKC_BLKCFG 15 0)
    if top ≤ r1.samples.length then (s0.hkBlock inj r1).hkSetRun inj (some { r1 with samples := [] }) else s0.hkSetRun inj (some r1)

/-- A pass ends: its block closes, and under SRC 3 the next regular pass starts (R367, R371). -/
def State.hkPassEnd (s : State) (inj : Bool) (r : HkRun) : State :=
  let s1 := (s.hkBlock inj r).hkSetRun inj none
  if !inj && s.f HKC_RSEQCFG 31 30 == 3 && !s.hkc.stop then s1.hkRegular s1.up else s1

/-- Does conversion `c` need the excitation changed, and to what (R356, R361)? -/
def State.hkExc (s : State) (c : Nat) (cfg : Word) : Option (Option (Nat × Nat)) :=
  if hkType cfg ≠ 2 then none
  else
    let e := s.csrRaw (HKC_CH_EXC c)
    let want := if bit e 31 then some (fld e 27 24, fld e 23 16) else none
    if want = s.hkc.exc then none else some want

/-- A conversion begins (R361, R362). The internal conversions of HKSELFCAL need no excitation and no open check (R374). -/
def State.hkBegin (s : State) (kind : HkKind) (c entry : Nat) (lead : Bool) (cfg : Word) : State :=
  let inLine := kind == HkKind.regular && s.hkLen false == 1 && bit cfg 20 && !lead
  let cont := inLine && s.hkc.last == some (c, cfg)
  let own := kind == HkKind.cal && s.hkSelf
  let x := if cont || lead || own then none else s.hkExc c cfg
  let wait := match x with | some _ => s.f (HKC_CH_EXC c) 15 0 * us | none => 0
  let pre := if cont then 0 else (if bit cfg 17 && !lead && !own then 200 * us else 0) + 100 * us
  let v : HkConv := { kind := kind, chan := c, entry := entry, lead := lead, start := s.up, wait := wait, pre := pre,
                      win := hkWindow (s.b HKC_CTL 30) (hkPreset cfg), cont := cont, cfg := cfg }
  { s with hkc := { s.hkc with conv := some v, exc := match x with | some e => e | none => s.hkc.exc,
                               last := if inLine then some (c, cfg) else none, hist := if cont then s.hkc.hist else [],
                               settle := if cont then s.hkc.settle else if inLine then hkK (hkPreset cfg) - 1 else 0 } }

/-- The latest result of channel 18 as a sample; before its first one the value is free (R352). -/
def State.hkAux (s : State) (entry : Nat) : HkSample × State :=
  match s.hkc.aux with
  | some (v, fl, t) => ({ chan := 18, entry := entry, seq := s.f (HKC_CH_RES 18) 30 24, value := v, fl := fl, t := t }, s)
  | none => ({ chan := 18, entry := entry, seq := 0, value := s.free.1 % 2 ^ 24, fl := 0, t := s.nowAt 11 }, s.free.2)

/-- A pass converts its next entries: channel 18 yields its sample at once, any other starts a conversion, and an entry above 47 names no channel and is
passed over (R352, notes/assumptions/196.md). A lead conversion keeps the CFG of its main conversion (R353, R357). -/
def State.hkAdvance (s : State) (inj : Bool) : Nat → State
  | 0 => s
  | k + 1 =>
    match s.hkRun inj with
    | none => s
    | some r =>
      match r.lead with
      | some (c, e, _, _, _, cfg) => s.hkBegin (if inj then .injected else .regular) c e true cfg
      | none =>
        if s.hkLen inj ≤ r.next ∨ (!inj ∧ s.hkc.stop) then s.hkPassEnd inj r
        else
          let c := s.f (if inj then HKC_ISEQ r.next else HKC_RSEQ r.next) 5 0
          let s1 := s.hkSetRun inj (some { r with next := r.next + 1 })
          if 48 ≤ c then State.hkAdvance s1 inj k
          else if c = 18 then (let a := s1.hkAux r.next; State.hkAdvance (a.2.hkSample inj a.1) inj k)
          else s1.hkBegin (if inj then .injected else .regular) c r.next false (s.csrRaw (HKC_CH_CFG c))

/-- A pass whose start has come begins or goes on. -/
def State.hkGoOn (s : State) (inj : Bool) : State :=
  match s.hkRun inj with
  | none => s
  | some r => (s.hkSetRun inj (some { r with on := true })).hkAdvance inj 40

/-- The pass is under way, or its start and delay have passed. -/
def State.hkDue (s : State) (inj : Bool) : Bool :=
  match s.hkRun inj with | some r => r.on || decide (r.due ≤ s.up) | none => false

/-- The next conversion of a calibration: HKCAL on its channel; self-calibration zero, then reference, at 10 PLC (R373, R374). -/
def State.hkCalBegin (s : State) (k : HkCal) : State :=
  let c := k.chans.headD 0
  let cfg := s.csrRaw (HKC_CH_CFG c)
  s.hkBegin .cal c 0 false (if k.self then setFld cfg 22 21 3 else cfg)

/-- An idle converter takes up the next activity: an injected sequence that is due, a calibration, whatever EN is (DEDUCED, notes/assumptions/204.md),
the regular sequence (R367, R368). -/
def State.hkNext (s : State) : State :=
  if s.hkc.conv.isSome || s.onSafe 11 then s.hkFlags
  else
    let s1 := if s.hkDue true && !s.hkSelf then s.hkGoOn true else s
    if s1.hkc.conv.isSome then s1.hkFlags
    else match s1.hkc.cal with
      | some k => (s1.hkCalBegin k).hkFlags
      | none => (if s1.hkDue false then s1.hkGoOn false else s1).hkFlags

/-- HKC_GO, HKC_IGO and HKC_STOP: the parts of a write of HKC.SEQCTL. -/
def State.hkGo (s : State) : State :=
  let src := s.f HKC_RSEQCFG 31 30
  if src = 0 ∨ src = 3 then (s.hkRegular s.up).hkNext else s
def State.hkIgo (s : State) : State := if s.hkIsrc = 0 then (s.hkInject s.up).hkNext else s
def State.hkStop (s : State) : State :=
  match s.hkc.reg with
  | none => s
  | some r =>
    let s1 : State := { s with hkc := { s.hkc with stop := true } }
    let busy : Bool := match s.hkc.conv with | some c => c.kind == HkKind.regular | none => false
    if busy || r.lead.isSome then s1 else (s1.hkPassEnd false r).hkNext

/-- A write of HKC.SEQCTL. -/
def State.writeSeqctl (s : State) (v : Word) : State :=
  cond (bit v 2) State.hkStop (cond (bit v 1) State.hkIgo (cond (bit v 0) State.hkGo s))

/-- HKC_TIMER: under SRC 1 a pass starts every TIMER ms from EN (R367). -/
def State.hkTimer (s : State) : State :=
  let p := max 1 (s.f HKC_TIMER 23 0) * ms
  if !s.b HKC_CTL 31 || s.up < s.hkc.timerAt + p then s
  else
    let s1 : State := { s with hkc := { s.hkc with timerAt := s.hkc.timerAt + p } }
    if s.f HKC_RSEQCFG 31 30 = 1 then (s1.hkRegular s1.hkc.timerAt).hkNext else s1

/-! Results (R355, R357, R370, R371). -/

/-- Time blanked in the span `[lo, hi)`: the union of the intervals. -/
def blankedIn (lo hi : Nat) (l : List (Nat × Nat)) : Nat :=
  let cut := (l.map (fun (x : Nat × Nat) => (max lo x.1, min hi x.2))).filter (fun x => decide (x.1 < x.2))
  ((sortBy (fun (a b : Nat × Nat) => decide (a.1 ≤ b.1)) cut).foldl (fun (acc : Nat × Nat) x => (acc.1 + (x.2 - max acc.2 x.1), max acc.2 x.2)) (0, 0)).1

/-- The previous completed value of a channel. -/
def State.hkPrev (s : State) (c : Nat) : Nat := s.f (HKC_CH_RES c) 23 0

/-- A sample goes to the rings of SRC 1 classes (R232, Table TRG-6). -/
def State.hkRing (s : State) (c value fl t : Nat) : State :=
  s.ringPut 3 68 t (b2n (fl.testBit 2) + b2n (fl.testBit 1) * 8 + b2n (fl.testBit 3 || fl.testBit 0) * 16)
    (fun m => if m.contains (s.dev, 68, c) then
      [c * 2 ^ 29 + (fl / 8 % 2) * 2 ^ 28 + (fl / 4 % 2) * 2 ^ 27 + (fl / 2 % 2) * 2 ^ 26 + value] else [])

/-- A conversion is completed: result register, conditions and rings take it (R361, R370, R219). -/
def State.hkShow (s : State) (inj : Bool) (c value fl t : Nat) : State :=
  let s1 := s.result (HKC_CH_RES c) (HKC_CH_FLG c) value ((fl / 2 % 2) * 256 + (fl / 8 % 2) * 512 + (fl / 4 % 2) * 1024 + (fl % 2) * 2048 + b2n inj * 4096)
  let s2 := cond (fl.testBit 3) (fun st => st.setB (if c < 32 then HKC_FAULT_LO else HKC_FAULT_HI) (c % 32) true) s1
  let s3 := cond (fl.testBit 0) (·.inc HKC_BLANKED) s2
  let id := chanId s.dev 68 c
  let z := toSigned 24 value
  let s4 := if fl.testBit 3 || fl.testBit 2 then s3
    else (List.range 16).foldl (fun st k =>
      if st.condSrc k = 1 then
        match (st.mapChans (st.f (TRG_COND_CFG k) 23 20)).findIdx? (· == (s.dev, 68, c)) with
        | some i => st.condSample k i id t (z : Rat) false
        | none => st
      else st) s3
  s4.hkRing c value fl t

/-- A sample of a sequence is completed: it is shown and joins the pass's block. -/
def State.hkResult (s : State) (inj : Bool) (c entry value fl t : Nat) : State :=
  let s5 := s.hkShow inj c value fl t
  s5.hkSample inj { chan := c, entry := entry, seq := s5.f (HKC_CH_RES c) 30 24, value := value, fl := fl, t := t }

/-- A channel's input is found open: its bit in HKC.FAULT and the minor alarm (R364). -/
def State.hkOpenAlarm (s : State) (c : Nat) : State :=
  let r := if c < 32 then HKC_FAULT_LO else HKC_FAULT_HI
  (s.setB r (c % 32) true).alarm 2 r (c % 32) 68 (chanId s.dev 68 c)

/-- The main conversion's codes become a result: `d` the raw code, `dl` the lead code for three-wire (R355, R357). -/
def State.hkFinish (s : State) (inj : Bool) (c entry : Nat) (cfg : Word) (d : Int) (dl : Option Int) (fl t : Nat) : State :=
  let off := s.hkOff c
  let d' := match dl with | some l => d - 2 * l + off | none => d
  let k := hkHold (roundDiv ((d' - off) * s.hkCal c) 4194304)
  let v := s.hkValue c cfg k.1
  s.hkResult inj c entry (ofSigned 24 v.1) (fl ||| (if k.2 || v.2 then 2 else 0)) t

/-- A lead conversion is due on this pass (R357). -/
def hkLeadDue (cfg : Word) (num : Nat) : Bool := num % 2 ^ fld cfg 11 8 == 0

/-! Calibration (R372 to R375). -/

/-- The answer of a calibration. -/
def State.hkCalDone (s : State) (k : HkCal) (status : Nat) (res : List Nat) : State :=
  ({ s with hkc := { s.hkc with cal := none } } : State).lateAnswer k.tag status (if k.self then 0x51 else 0x50) res

/-- New coefficients are computed from a full-scale step; none where they fail R375, or do not fit their fields (DESIGN CHOICE,
notes/assumptions/204.md). -/
def State.hkCoef (s : State) (c : Nat) (d : Rat) (a : Int) (zero : Option (Rat × Int)) : Option (Int × Int) :=
  let zd : Rat := match zero with | some z => z.1 | none => s.hkOff c
  let za : Int := match zero with | some z => z.2 | none => 0
  if d - zd = 0 then none
  else
    let g := hkRound (4194304 * ((a - za : Int) : Rat) / (d - zd))
    if g = 0 then none
    else
      let o := match zero with | some _ => hkRound (zd - za * 4194304 / (g : Rat)) | none => s.hkOff c
      if o.natAbs * 10000 ≤ s.f HKC_CALLIM 31 16 * 8388608 ∧ (g - 4194304).natAbs * 10000 ≤ s.f HKC_CALLIM 15 0 * 4194304 ∧ 0 < g ∧ g < 16777216
        ∧ o.natAbs ≤ 8388607 then some (o, g) else none

/-- The result words: mean code, CALOFF, CALGAIN. -/
def State.hkCalWords (s : State) (c : Nat) (d : Rat) : List Nat :=
  [ofSigned 64 (hkRound d), ofSigned 64 (s.hkOff c), s.hkCal c]

/-- A calibration's minor alarm. -/
def State.hkCalFail (s : State) (c : Nat) : State := s.alarm 2 (HKC_CH_CALGAIN c) 0 68 (chanId s.dev 68 c)

/-- The coefficients of a channel are set; a CALOFF that is held waits on for a write of CALGAIN (R372). -/
def State.hkSetCoef (s : State) (c : Nat) (o g : Int) : State :=
  (s.setF (HKC_CH_CALOFF c) 23 0 (ofSigned 24 o)).setF (HKC_CH_CALGAIN c) 23 0 g.toNat

/-- An HKCAL step ends (R373). -/
def State.hkStepEnd (s : State) (k : HkCal) : State :=
  let c := k.chans.headD 0
  let d : Rat := (k.sum : Rat) / ((max 1 k.n : Nat) : Rat)
  if k.step = 0 then
    if ((s.f HKC_CALLIM 31 16 * 8388608 : Nat) : Rat) < 10000 * (if d - k.a < 0 then k.a - d else d - k.a) then (s.hkCalFail c).hkCalDone k 7 (s.hkCalWords c d)
    else ({ s with hkc := { s.hkc with zeros := spPut s.hkc.zeros c (some (d, k.a)) } } : State).hkCalDone k 0 (s.hkCalWords c d)
  else
    let s1 : State := { s with hkc := { s.hkc with zeros := spPut s.hkc.zeros c none } }
    match s.hkCoef c d k.a (spGet s.hkc.zeros c) with
    | some (o, g) => let s2 := s1.hkSetCoef c o g
                     s2.hkCalDone k 0 (s2.hkCalWords c d)
    | none => (s1.hkCalFail c).hkCalDone k 7 (s1.hkCalWords c d)

/-- 90 % of full scale as an ideal code. -/
def hkRefCode : Int := 7549747

/-- A conversion of a self-calibration ends: zero, then reference of each channel (R374). -/
def State.hkSelfStep (s : State) (k : HkCal) (d : Int) : State :=
  let c := k.chans.headD 0
  let put (st : State) (k' : HkCal) : State := { st with hkc := { st.hkc with cal := some k' } }
  if k.step = 0 then put s { k with step := 1, zero := d }
  else
    let r := s.hkCoef c d hkRefCode (some (k.zero, 0))
    let s1 := match r with | some (o, g) => s.hkSetCoef c o g | none => s.hkCalFail c
    let k1 : HkCal := { k with step := 0, chans := k.chans.drop 1, bad := k.bad || r.isNone }
    if k1.chans.isEmpty then s1.hkCalDone k1 (if k1.bad then 7 else 0) [] else put s1 k1

/-- A calibration conversion completes with raw code `d`. -/
def State.hkCalConv (s : State) (d : Int) : State :=
  match s.hkc.cal with
  | none => s
  | some k =>
    if k.self then s.hkSelfStep k d
    else
      let k1 : HkCal := { k with left := k.left - 1, sum := k.sum + d, n := k.n + 1 }
      if k1.left = 0 then s.hkStepEnd k1 else { s with hkc := { s.hkc with cal := some k1 } }

/-- HKCAL is taken: E_RANGE, E_BUSY, or its conversions begin (R373); a running HKSELFCAL counts as one that runs (DESIGN CHOICE,
notes/assumptions/204.md). -/
def State.hkcal (s : State) (tag c step : Nat) (a : Int) : State :=
  if 15 < c ∨ 1 < step then s.lateAnswer tag 2 0x50 []
  else if s.hkc.cal.isSome then s.lateAnswer tag 3 0x50 []
  else
    let k : HkCal := { tag := tag, self := false, chans := [c], step := step, a := a, left := clampN 1 32 (s.f HKC_CALCFG 5 0), sum := 0, n := 0, zero := 0, bad := false }
    ({ s with hkc := { s.hkc with cal := some k } } : State).hkNext

/-- HKSELFCAL is taken (R374). -/
def State.hkselfcal (s : State) (tag mask : Nat) : State :=
  if mask % 65536 = 0 then s.lateAnswer tag 2 0x51 []
  else if s.hkc.cal.isSome then s.lateAnswer tag 3 0x51 []
  else
    let k : HkCal := { tag := tag, self := true, chans := (List.range 16).filter (fun c => mask.testBit c), step := 0, a := 0, left := 0, sum := 0, n := 0, zero := 0, bad := false }
    ({ s with hkc := { s.hkc with cal := some k } } : State).hkNext

/-! Conversions (R361 to R366). -/

/-- The end of a conversion in `up` time: its window's end, or the end of a failed open check. -/
def HkConv.fin (j : HkConv) (open_ : Bool) : Nat := j.start + j.wait + (if open_ then 200 * us else j.pre + j.win)

/-- A main conversion completes: the lead conversion follows, or the result, with the stored D_L, 0 where none has been made yet (DESIGN CHOICE,
notes/assumptions/203.md). -/
def State.hkMain (s : State) (j : HkConv) (d : Int) (fl t : Nat) : State :=
  let inj := j.kind == HkKind.injected
  let three := fld j.cfg 16 15 == 1 && decide (j.chan < 16)
  match s.hkRun inj with
  | none => s
  | some r =>
    if three && hkLeadDue j.cfg r.num then s.hkSetRun inj (some { r with lead := some (j.chan, j.entry, d, fl, t, j.cfg) })
    else s.hkFinish inj j.chan j.entry j.cfg d (if three then some ((spGet s.hkc.leads j.chan).getD 0) else none) fl t

/-- A lead conversion completes: D_L is stored, LEAD shows it, and the main result is formed, with the flags of both (R357). -/
def State.hkLead (s : State) (j : HkConv) (d : Int) (flags : Nat) : State :=
  let inj := j.kind == HkKind.injected
  match s.hkRun inj with
  | none => s
  | some r =>
    match r.lead with
    | none => s
    | some (c, e, dm, fl, t, _) =>
      let s1 := (s.hkSetRun inj (some { r with lead := none }))
      let s2 : State := { s1 with hkc := { s1.hkc with leads := spPut s1.hkc.leads c (some d) } }
      let ohm := hkRound (((s.hkRref j.cfg : Nat) : Rat) * ((d - s.hkOff c) * s.hkCal c : Int) / ((hkGain j.cfg * 2 ^ 45 : Nat) : Rat))
      (s2.setF (HKC_CH_LEAD c) 23 0 (ofSigned 24 ohm)).hkFinish inj c e j.cfg dm (some d) (fl ||| flags) t

/-- The raw code of a window: the continuous filter's mean over the last K (R362), the flags of those windows, the middle of the span. The first
K - 1 results after a change or an interruption carry SETTLING, the single-cycle one that begins them among them (DEDUCED, notes/assumptions/202.md). -/
def State.hkFilter (s : State) (j : HkConv) (d : Int) (fl : Nat) : Int × Nat × Nat × State :=
  let k := hkK (hkPreset j.cfg)
  let h := ((d, fl) :: s.hkc.hist).take k
  let s1 : State := { s with hkc := { s.hkc with hist := h, settle := s.hkc.settle - 1 } }
  let m := roundDiv ((h.map (·.1)).foldl (· + ·) 0) h.length
  let f := (h.map (·.2)).foldl (· ||| ·) 0 ||| (if 0 < s.hkc.settle then 4 else 0)
  (m, f, h.length * j.win / 2, s1)

/-- HKC_CONVERSION_DONE: `d` is the code the integrator gathered in its active time, `over` the comparator of R354, `openFail` the
verdict of the open check. -/
def State.hkDone (s : State) (d : Int) (ovr openFail : Bool) : State :=
  match s.hkc.conv with
  | none => s
  | some j =>
    let inj := j.kind == HkKind.injected
    let held : Int := if d < 0 then -hkMax else hkMax
    let opened := openFail && bit j.cfg 17 && !j.lead && !j.cont && j.kind != HkKind.cal
    if s.up < j.fin opened ∨ s.onSafe 11 then s
    else
      let s0 := ({ s with hkc := { s.hkc with conv := none } } : State).bump 0xB3 1
      let endT := s.time - (s.up - j.fin opened)
      let mid (back : Nat) : Nat := (endT - back) / s.grain 11 * s.grain 11
      if opened then (s0.hkFinish inj j.chan j.entry j.cfg held none 10 (mid 0)).hkNext
      else
        let hi := j.fin false
        let pin := match s.hkc.blankSince with | some t => [(t, s.up)] | none => []
        let bl := blankedIn (hi - j.win) hi (s.hkc.blanks ++ pin)
        let act := j.win - bl
        let lost := decide (act * 10 < j.win)
        let x := hkHold (if act = 0 then d else roundDiv (d * j.win) act)
        let broken := ovr && (hkBo j.cfg == 1 || hkBo j.cfg == 2) && j.kind != HkKind.cal
        let code := if broken then held else x.1
        let fl := (if x.2 || ovr then 2 else 0) + (if broken then 8 else 0) + b2n (decide (j.win < bl * 100))
        let s1 := cond broken (·.hkOpenAlarm j.chan) s0
        let s2 := match j.kind with
          | .cal => s1.hkCalConv code
          | _ =>
            if j.lead then s1.hkLead j code fl
            else
              let f := s1.hkFilter j code fl
              if lost then f.2.2.2.hkResult inj j.chan j.entry (s.hkPrev j.chan) (1 ||| f.2.1 / 4 % 2 * 4 ||| (if ovr then 2 else 0) ||| (if broken then 8 else 0)) (mid f.2.2.1)
              else f.2.2.2.hkMain j f.1 f.2.1 (mid f.2.2.1)
        s2.hkNext

/-- HKC_AUX_CONVERSION: channel 18 every 100 ms; `d` its raw code (R352). -/
def State.hkAuxDone (s : State) (d : Int) (ovr open_ : Bool) : State :=
  if s.up < s.hkc.auxAt + 100 * ms then s
  else
    let x := hkHold d
    let k := hkHold (roundDiv ((x.1 - s.hkOff 18) * s.hkCal 18) 4194304)
    let v := ofSigned 24 (Config.hkcScale 18 k.1)
    let fl := (if x.2 || k.2 || ovr then 2 else 0) + b2n open_ * 8
    let t := s.nowAt 11
    let s1 := s.hkShow false 18 v fl t
    { s1 with hkc := { s1.hkc with auxAt := s.up, aux := some (v, fl, t) } }

/-- The conversion in progress is abandoned and yields no sample (R369). -/
def State.hkAbandon (s : State) : State :=
  let drop (r : Option HkRun) : Option HkRun := r.map (fun (x : HkRun) => { x with lead := none })
  ({ s with hkc := { s.hkc with conv := none, last := none, reg := drop s.hkc.reg, inj := drop s.hkc.inj } } : State).hkFlags

/-- An aborted conversion yields a sample with SETTLING and restarts at step 1 (R363). -/
def State.hkRestart (s : State) : State :=
  match s.hkc.conv with
  | none => s
  | some j =>
    let s1 := match j.kind with
      | .cal => s
      | _ => if j.lead then s else (s.hkRing j.chan (s.hkPrev j.chan) 4 (s.nowAt 11)).hkSample (j.kind == HkKind.injected)
          { chan := j.chan, entry := j.entry, seq := s.f (HKC_CH_RES j.chan) 30 24, value := s.hkPrev j.chan, fl := 4, t := s.nowAt 11 }
    let s2 : State := { s1 with hkc := { s1.hkc with last := none, hist := [] } }
    (s2.hkBegin j.kind j.chan j.entry j.lead j.cfg).hkFlags

/-- EXC of channel `c` may be written: ICUR 1 to 100, at most 125 uA with RREF1 (R356). -/
def State.hkExcOk (s : State) (c : Nat) (v : Word) : Bool :=
  let i := fld v 23 16
  decide (1 ≤ i) && decide (i ≤ 100) && (s.f (HKC_CH_CFG c) 31 26 != 17 || decide (i ≤ 12))

/-- HKC_EXC_WRITE: channel `c`'s EXC, or HKC.VEX for `c` = 48 (R356, R363). -/
def State.writeExc (s : State) (c : Nat) (v : Word) : State :=
  if 48 ≤ c then
    let s1 := s.writeReg HKC_VEX v
    match s.hkc.conv with | some j => cond (hkType j.cfg == 1 && decide (j.chan < 16)) State.hkRestart s1 | none => s1
  else if !s.hkExcOk c v then s.setB HKC_STAT 31 true
  else
    let s1 := s.writeReg (HKC_CH_EXC c) v
    match s.hkc.conv with | some j => cond (hkType j.cfg == 2 && j.chan == c) State.hkRestart s1 | none => s1

/-- HKC_EN_WRITE and other writes of HKC.CTL: EN 0 abandons the conversion and stops both sequences, EN set restarts the counts (R367, R369). -/
def State.writeHkcCtl (s : State) (v : Word) : State :=
  let was := s.b HKC_CTL 31
  let s1 := s.writeReg HKC_CTL v
  if was && !bit v 31 then
    let s2 := match s1.hkc.reg with | some r => (s1.hkBlock false r) | none => s1
    let s3 := match s2.hkc.inj with | some r => (s2.hkBlock true r) | none => s2
    ({ s3 with hkc := { s3.hkc with conv := none, reg := none, inj := none, last := none, hist := [] } } : State).hkNext
  else if !was && bit v 31 then ({ s1 with hkc := { s1.hkc with timerAt := s1.up, nreg := 0, ninj := 0 } } : State).hkNext
  else s1

/-- CALOFF is held until CALGAIN is written (R372). -/
def State.writeCaloff (s : State) (c : Nat) (v : Word) : State :=
  { s with hkc := { s.hkc with off := spPut s.hkc.off c (some v) } }

/-- CALGAIN_WRITE: it applies together with a held CALOFF. -/
def State.writeCalgain (s : State) (c : Nat) (v : Word) : State :=
  let s1 := match spGet s.hkc.off c with | some o => s.writeReg (HKC_CH_CALOFF c) o | none => s
  let s2 := s1.writeReg (HKC_CH_CALGAIN c) v
  { s2 with hkc := { s2.hkc with off := spPut s2.hkc.off c none } }

/-- A channel's CFG may be written (R353). -/
def hkCfgOk (v : Word) : Bool :=
  let t := hkType v
  let u := hkSub v
  decide (t < 4) && fld v 25 23 != 7 && hkBo v != 3 &&
    (match t with | 0 => u == 0 | 1 => decide (u < 2) | 2 => decide (u < 2) | _ => decide (u < 3))

/-- A write of CFG: internal channels take PRESET, CONT and LEADEVERY only (R353). -/
def State.writeHkcCfg (s : State) (c : Nat) (v : Word) : State :=
  if 16 ≤ c then s.setCsr (HKC_CH_CFG c) (setFld (setFld (s.csrRaw (HKC_CH_CFG c)) 22 20 (fld v 22 20)) 11 8 (fld v 11 8))
  else if hkCfgOk v then s.writeReg (HKC_CH_CFG c) v else s.setB HKC_STAT 31 true

/-- BLANK_PIN: the pin rises, or falls; blanking lasts 2 us longer (R366). -/
def State.blankPin (s : State) (high : Bool) : State :=
  let s1 : State := { s with pin := { s.pin with blank := high } }
  match s.hkc.blankSince, high && s.b HKC_CTL 27 with
  | none, true => { s1 with hkc := { s1.hkc with blankSince := some s.up } }
  | some t, false => ({ s1 with hkc := { s1.hkc with blankSince := none } } : State).hkBlank 27 t (s.up + 2 * us)
  | _, _ => s1

/-- HKC_REF_CHECK: the internal zero and reference conversions of R405, by their codes. -/
def State.hkRefCheck (s : State) (z r : Int) : State :=
  if !s.b FLT_CTL 31 || s.up < s.hkc.testAt + 500 * ms || s.onSafe 11 then s
  else
    let ok := decide (z.natAbs * 1000 ≤ 8388608) && decide ((r - hkRefCode).natAbs * 1000 ≤ 8388608)
    let s1 := (({ s with hkc := { s.hkc with testAt := s.up } } : State).bump 0xB3 2).suspectSrc 3 (!ok)
    if ok then s1 else s1.alarm 1 HKC_STAT 26 68 (chanId s.dev 68 (if 8388608 < z.natAbs * 1000 then 40 else 44))

end Sys2Proof.Machine
end

