-- ==== Sys2Proof/Machine/Fls.lean ====
section
/-! DEFINITION. The calibration-light drive: schedules, pulses, limits, checks, diagnosis and status records (R378 to R395). -/

namespace Sys2Proof.Machine

open Csr

/-- A flasher channel that has not been armed. -/
def FlsCh.off : FlsCh :=
  { plan := { mode := 0, width := 0, per := 0, t0 := 0 }, nxt := none, i := 0, pend := false, on := none, ending := false, glow := false, acc := 0,
    slotAt := 0, slotOn := false, charge := [], cnt := 0, nopen := 0, nshort := 0, cntFor := (0, 0), winAt := 0, verdict := false, diagAt := 0,
    diagDone := false, toCheck := [], cold := false, rDer := false, rLim := false, rDiag := false, head := none }

def State.flsCh (s : State) (n : Nat) : FlsCh := vget s.fls.ch n FlsCh.off
def State.flsUpd (s : State) (n : Nat) (f : FlsCh → FlsCh) : State := { s with fls := { s.fls with ch := vmod s.fls.ch n f } }
def State.flsArmed (s : State) (n : Nat) : Bool := s.fls.armed.contains n
def State.flsAlarm (s : State) (cls n bit_ : Nat) : State := s.alarm cls (FLS_CH_STAT n) bit_ 69 (chanId s.dev 69 n)

/-- The channel is disarmed at once. -/
def State.flsDisarm (s : State) (n : Nat) : State :=
  let s1 : State := { s with fls := { s.fls with armed := s.fls.armed.filter (· != n) } }
  (s1.setF (FLS_CH_STAT n) 28 27 0).flsUpd n (fun c =>
    { c with nxt := none, pend := false, on := none, ending := false, glow := false, slotOn := false, toCheck := [] })

/-- EN goes to 0: the channel stops once the pulse in progress has ended, and disarms (R382). -/
def State.flsStop (s : State) (n : Nat) : State :=
  if !s.flsArmed n then s
  else if (s.flsCh n).on.isSome then s.flsUpd n (fun c => { c with ending := true })
  else s.flsDisarm n

/-- STATE takes a new value with its effects (R390). -/
def State.flsSet (s : State) (n st : Nat) : State :=
  if s.flsState n = st then s
  else
    let s1 := s.setF (FLS_CH_STAT n) 31 29 st
    let s2 : State := { s1 with fls := { s1.fls with changed := true } }
    match st with
    | 3 => s2.flsAlarm 2 n 29
    | 4 => ((s2.flsAlarm 1 n 29).setB (FLS_CH_CFG n) 31 false).flsStop n
    | 5 => s2.flsAlarm 2 n 29
    | _ => s2

/-! Arming (R381). -/

/-- T0 of a channel's registers as fabric time, rounded up to 250 ps; none where the stamp lies in the past. -/
def State.flsT0 (s : State) (n : Nat) : Option Nat :=
  let d := stampDelta s.time (s.pair (FLS_CH_T0_LO n))
  if d < 0 then none else some (ceilDiv (s.time + d.toNat) 250 * 250)

/-- One channel is armed. PER is judged where it is used, in MODE 1: Example FLS-1 arms a MODE 2 channel whose PER is 0 (DEDUCED,
notes/assumptions/75.md). -/
def State.flsArm (s : State) (n : Nat) : State :=
  let w := s.f (FLS_CH_WIDTH n) 23 0
  let p := (s.csrRaw (FLS_CH_PER n)).toNat
  let mode := match s.f (FLS_CH_CFG n) 30 29 with | 1 => 1 | 2 => 2 | _ => 0
  if !s.b (FLS_CH_CFG n) 31 || !s.b FLS_CTL 31 then s
  else if w < 80 ∨ (mode = 1 ∧ p < w + 200) then s.setB FLS_STAT 31 true
  else match s.flsT0 n with
    | none => s.setB (FLS_CH_STAT n) 26 true
    | some t =>
      if t < s.time + us then s.setB (FLS_CH_STAT n) 26 true
      else
        let q : FlsPlan := { mode := mode, width := w, per := p, t0 := t }
        let c := s.flsCh n
        let s1 : State := { s with fls := { s.fls with armed := n :: s.fls.armed.filter (· != n) } }
        let busy := s.flsArmed n && (c.on.isSome || c.plan.mode != 2)
        let s2 := s1.flsUpd n (fun c =>
          let c1 : FlsCh := { c with ending := false, acc := 0, cnt := 0, nopen := 0, nshort := 0, winAt := s.up, verdict := false, diagDone := false,
                                     diagAt := s.up + (max 1 (s.f FLS_DIAG 15 0) - 1) * psPerSec }
          if busy then { c1 with nxt := some q } else { c1 with plan := q, nxt := none, i := 0, pend := true, slotAt := t })
        s2.flsSet n 1

/-- FLS_ARM. -/
def State.writeFlsArm (s : State) (v : Word) : State :=
  (List.range 16).foldl (fun st n => cond (bit v n) (·.flsArm n) st) s

/-! Current (R379, R385, R386). -/

/-- The heatsink reading of a channel in 0.1 degrees. -/
def State.flsTemp (s : State) (n : Nat) : Int := if n < 8 then s.sf FLS_TEMP 31 16 else s.sf FLS_TEMP 15 0

/-- The fraction of I_FS that the derated limit allows. -/
def State.flsDerate (s : State) (n : Nat) : Rat :=
  let d := s.flsTemp n - s.sf FLS_DERATE 31 16
  if d ≤ 0 then 1 else max 0 (1 - ((s.f FLS_DERATE 15 0 : Nat) : Rat) * d / 100000)

/-- L of R379 and R383. -/
def State.flsLevel (s : State) (n : Nat) : Rat := ((s.f FLS_CTL 7 0 * s.f (FLS_CH_CFG n) 9 0 : Nat) : Rat) / 260865

/-- I_FS in uA. -/
def flsFull (mode width : Nat) : Rat := if mode ≠ 0 ∧ width ≤ 40000 then 1000000 else 100000

/-- The charge in uA ps that pulses carried after `lo`. -/
def chargeSince (lo : Nat) (l : List (Nat × Nat × Rat)) : Rat := l.foldl (fun a x => a + x.2.2 * ((x.2.1 - max lo x.1 : Nat) : Rat)) 0

/-- The current in uA of a pulse of a schedule that begins at `t`, and whether LIMITED or DERATED shows it; a diagnostic pulse is one of 200 ns at
min(I, 100 mA) (R379, R389). -/
def State.flsCurrent (s : State) (n mode width per t : Nat) (diag : Bool) : Rat × Bool × Bool :=
  let dur := (if diag then 800 else width) * 250
  let i0 := flsFull mode width * s.flsLevel n
  let i := if diag then min i0 100000 else i0
  let der := flsFull mode width * s.flsDerate n
  let pw := match s.fls.ovr with | some mw => i * 12000 / (mw : Nat) | none => i
  let wps : Rat := ((min dur ms : Nat) : Rat)
  let lim := match mode with
    | 1 => 100000 * (per : Nat) / (width : Nat)
    | 2 => max 0 ((100000000000000 - chargeSince (t + dur - ms) (s.flsCh n).charge) / wps)
    | _ => i
  let m := min i (min der (min pw lim))
  (m, decide (m < i) && !decide (der = m) || s.fls.ovr.isSome, decide (m < i) && decide (der = m))

/-! Pulses (R380 to R382, R391, R392). -/

/-- The instant of the channel's next turn-on. -/
def State.flsDue (s : State) (n : Nat) : Option Nat :=
  let c := s.flsCh n
  if !s.flsArmed n || c.ending then none
  else match c.plan.mode with
    | 1 => some (c.plan.t0 + c.i * c.plan.per * 250)
    | 2 => if c.pend then some c.plan.t0 else none
    | _ => if c.glow then none else some c.plan.t0

/-- A re-armed schedule takes over at the later of its T0 and the end of the pulse in progress; pulses that would overlap the old one are
left out (R381). -/
def State.flsTakeOver (s : State) (n : Nat) : State :=
  let c := s.flsCh n
  match c.nxt with
  | none => s
  | some q =>
    let fin := match c.charge with | x :: _ => x.2.1 | [] => 0
    let old := match s.flsDue n with | some t => t | none => q.t0
    if c.on.isSome || (decide (s.time < q.t0) && (c.glow || decide (old < q.t0))) then s
    else
      let skip := if q.mode = 1 ∧ q.t0 < fin then ceilDiv (fin - q.t0) (q.per * 250) else 0
      s.flsUpd n (fun c => { c with plan := q, nxt := none, i := skip, pend := decide (fin ≤ q.t0), glow := false, slotAt := q.t0, slotOn := false })

/-- Instant `t` of fabric time, not later than now, on the count of `up`. -/
def State.upAt (s : State) (t : Nat) : Nat := s.up - (s.time - t)

/-- The flasher pulse event at an edge of pulse `i`, at fabric time `t` (R392). -/
def State.flsEvent (s : State) (n i edge t : Nat) : State :=
  let e := s.csrRaw FLS_HKEVT
  if bit e 31 && fld e 27 24 == n && fld e 23 23 == edge && decide (i % max 1 (fld e 15 0) = 0) then (s.hkFlash (s.upAt t)).hkNext else s

/-- A pulse of a schedule begins at `t`: counts, flags, blanking, the block of R388. -/
def State.flsOn (s : State) (n mode width0 per i t : Nat) (diag : Bool) : State :=
  let r := s.flsCurrent n mode width0 per t diag
  let width := if diag then 800 else width0
  let p : FlsPulse := { t := t, fin := t + width * 250, cur := r.1, diag := diag, i := i }
  let s1 := ((s.incMod (FLS_CH_PULSES n)).bump 0xB4 1).setF (FLS_CH_STAT n) 28 27 (b2n r.2.2 * 2 + b2n r.2.1)
  let s2 := s1.flsUpd n (fun c =>
    let same := c.cntFor == (width, r.1)
    { c with on := some p, toCheck := c.toCheck ++ [p], rLim := c.rLim || r.2.1, rDer := c.rDer || r.2.2, rDiag := c.rDiag || diag,
             charge := (t, p.fin, r.1) :: c.charge.filter (fun (x : Nat × Nat × Rat) => decide (t < x.2.1 + ms)),
             cnt := if diag || same then c.cnt else 0, nopen := if diag || same then c.nopen else 0, nshort := if diag || same then c.nshort else 0,
             cntFor := if diag then c.cntFor else (width, r.1) })
  s2.hkBlank 28 (s.upAt t - us) (s.upAt t + width * 250 + 2 * us)

/-- FLASH_TURN_ON: the channel's scheduled pulse falls due. -/
def State.flashOn (s0 : State) (n : Nat) : State :=
  let s := s0.flsTakeOver n
  let c := s.flsCh n
  match s.flsDue n with
  | none => s
  | some t =>
    if s.time < t ∨ c.on.isSome then s
    else
      let s1 := s.flsUpd n (fun c => { c with i := c.i + 1, pend := false })
      if c.plan.mode = 0 then s.flsUpd n (fun c => { c with glow := true })
      else if s.flsHeld || decide (s.flsDerate n = 0) then s1.incF (FLS_CH_STAT n) 15 0
      else (s1.flsOn n c.plan.mode c.plan.width c.plan.per c.i t false).flsEvent n c.i 0 t

/-- A pulse ends, by its width or cut short: a channel that is stopping disarms. -/
def State.flsEnd (s : State) (n : Nat) (p : FlsPulse) : State :=
  let c := s.flsCh n
  let cut (l : List (Nat × Nat × Rat)) : List (Nat × Nat × Rat) := match l with | x :: r => (x.1, min x.2.1 s.time, x.2.2) :: r | [] => []
  let s1 := (s.flsUpd n (fun c => { c with on := none, charge := cut c.charge })).setF (FLS_CH_STAT n) 28 27 0
  let s2 := if p.diag then s1 else s1.flsEvent n p.i 1 (min p.fin s.time)
  if c.ending then s2.flsDisarm n else s2

/-- FLASH_TURN_OFF. -/
def State.flashOff (s : State) (n : Nat) : State :=
  match (s.flsCh n).on with
  | none => s
  | some p => if s.time < p.fin then s else s.flsEnd n p

/-- Every sink goes off when a hold-off begins: a pulse in progress is cut short (R391). -/
def State.flsCut (s : State) : State :=
  (List.range 16).foldl (fun st n =>
    let st1 := cond (st.flsCh n).slotOn (fun x : State => (x.setF (FLS_CH_STAT n) 28 27 0).flsUpd n (fun c => { c with slotOn := false })) st
    match (st1.flsCh n).on with | some p => st1.flsEnd n p | none => st1) s

/-- Entry to COCOON disarms every channel; STATE reads OFF (R391). -/
def State.flsCocoon (s : State) : State :=
  (List.range 16).foldl (fun st n => (st.flsDisarm n).setF (FLS_CH_STAT n) 31 29 0) s.flsCut

/-- The current of MODE 0 in uA, continuous or in an on-slot, and whether LIMITED or DERATED shows it (R379, R383). -/
def State.dimCurrent (s : State) (n : Nat) : Rat × Bool × Bool :=
  let l := s.flsLevel n
  let i : Rat := if 1 / 10 ≤ l then 100000 * l else 10000
  let der := 100000 * s.flsDerate n
  let pw := match s.fls.ovr with | some mw => i * 12000 / (mw : Nat) | none => i
  let m := min i (min der pw)
  (m, decide (m < i) && !decide (der = m) || s.fls.ovr.isSome, decide (m < i) && decide (der = m))

/-- The sink conducts in a slot of MODE 0, or not; each on-slot, and each begin of continuous conduction, is a pulse for the checks (R383, R387). -/
def State.dimOn (s : State) (n : Nat) (on : Bool) (acc : Nat) : State :=
  let r := s.dimCurrent n
  let fresh := on && (decide (s.flsLevel n < 1 / 10) || !(s.flsCh n).slotOn)
  (s.setF (FLS_CH_STAT n) 28 27 (if on then b2n r.2.2 * 2 + b2n r.2.1 else 0)).flsUpd n (fun c =>
    { c with acc := acc, slotOn := on, rLim := c.rLim || (on && r.2.1), rDer := c.rDer || (on && r.2.2),
             toCheck := if fresh then c.toCheck ++ [{ t := s.time, fin := s.time + us, cur := r.1, diag := false, i := 0 }] else c.toCheck })

/-- DIM_SLOT: a 1 us slot of MODE 0 begins (R383). -/
def State.dimSlot (s0 : State) (n : Nat) : State :=
  let s := s0.flsTakeOver n
  let c := s.flsCh n
  if !s.flsArmed n || c.plan.mode ≠ 0 || !c.glow || s.time < c.slotAt then s
  else
    let l := s.flsLevel n
    let s1 := s.flsUpd n (fun c => { c with slotAt := c.slotAt + us })
    let a := c.acc + (hkRound (l * 10240)).toNat
    if s.flsHeld || decide (s.flsDerate n = 0) then s1.dimOn n false c.acc
    else if 1 / 10 ≤ l then s1.dimOn n true c.acc
    else if 1024 ≤ a then s1.dimOn n true (a - 1024) else s1.dimOn n false a

/-- FLS_CH_DISABLE, and any other write of FLS.CH[n].CFG. -/
def State.writeFlsCfg (s : State) (n : Nat) (v : Word) : State :=
  let s1 := s.writeReg (FLS_CH_CFG n) v
  if bit v 31 then s1 else s1.flsStop n

/-- FLS.CTL: EN 0 stops every channel (R382). -/
def State.writeFlsCtl (s : State) (v : Word) : State :=
  let s1 := s.writeReg FLS_CTL v
  if bit v 31 then s1 else (List.range 16).foldl (fun st n => st.flsStop n) s1

/-! Checks and diagnosis (R387 to R390). -/

/-- A verdict is reached (R390): 0 good, 1 open, 2 short, 3 low head. -/
def State.flsVerdict (s : State) (n v : Nat) : State :=
  let s1 := s.flsUpd n (fun c => { c with verdict := true })
  match v with
  | 1 => s1.flsSet n 3
  | 2 => s1.flsSet n 4
  | 3 => s1.flsSet n (if s.flvLim then 5 else 2)
  | _ => s1.flsSet n 2

/-- FLASH_CHECK: the comparator judges the oldest pulse not yet checked 150 ns after turn-on: in regulation, current in percent of the applied one,
sink voltage in 10 mV (R387, R388). -/
def State.flashCheck (s : State) (n : Nat) (reg : Bool) (pct sink : Nat) : State :=
  match (s.flsCh n).toCheck with
  | [] => s
  | p :: rest =>
    if s.time < p.t + 150000 ∨ !s.flsArmed n then s
    else
      let ev := if !reg ∧ pct < 25 then 1 else if s.fls.flv < sink + s.f (FLS_CH_VSMIN n) 15 0 then 2 else if !reg then 3 else 0
      let s1 := s.flsUpd n (fun c => { c with toCheck := rest, head := some (match c.head with | some h => min h sink | none => sink) })
      let s2 : State := { s1 with fls := { s1.fls with heads := (n, sink) :: s1.fls.heads } }
      if 200000 ≤ p.fin - p.t then s2.flsVerdict n ev
      else
        let s3 := s2.flsUpd n (fun c => { c with cnt := c.cnt + 1, nopen := c.nopen + b2n (ev == 1), nshort := c.nshort + b2n (ev == 2) })
        let c := s3.flsCh n
        if c.cnt < clampN 16 256 (s.f FLS_DIAG 24 16) then s3
        else (s3.flsUpd n (fun c => { c with cnt := 0, nopen := 0, nshort := 0 })).flsVerdict n (if c.cnt < 2 * c.nopen then 1 else if c.cnt < 2 * c.nshort then 2 else 0)

/-- DIAG_WINDOW_END (R389). -/
def State.diagEnd (s : State) (n : Nat) : State :=
  let c := s.flsCh n
  let w := max 1 (s.f FLS_DIAG 15 0)
  if !s.flsArmed n || s.up < c.winAt + w * psPerSec then s
  else
    let s1 := s.flsUpd n (fun c => { c with winAt := c.winAt + w * psPerSec, verdict := false, diagDone := false, diagAt := c.winAt + (2 * w - 1) * psPerSec })
    if c.verdict || s.b FLS_DIAGPULSE n then s1 else (s1.flsSet n 1).flsAlarm 2 n 29

/-- A pulse of any channel lies within 2 us of now (R389). -/
def State.flsNear (s : State) : Bool :=
  (List.range 16).any (fun n =>
    (s.flsCh n).on.isSome || (match s.flsDue n with | some t => decide (t ≤ s.time + 2 * us) && (s.flsCh n).plan.mode != 0 | none => false)
      || (s.flsCh n).charge.any (fun (x : Nat × Nat × Rat) => decide (s.time ≤ x.2.1 + 2 * us)))

/-- DIAGNOSTIC_PULSE: a 200 ns pulse in the last second of a window without a verdict, or 5 ms later while another pulse is near. -/
def State.diagPulse (s : State) (n : Nat) : State :=
  let c := s.flsCh n
  if !s.flsArmed n || c.verdict || c.diagDone || !s.b FLS_DIAGPULSE n || s.up < c.diagAt || s.flsHeld || decide (s.flsDerate n = 0) then s
  else if s.flsNear then s.flsUpd n (fun c => { c with diagAt := c.diagAt + 5 * ms })
  else ((s.flsOn n c.plan.mode c.plan.width c.plan.per 0 (ceilDiv s.time 250 * 250) true).flsUpd n (fun c => { c with diagDone := true })).setB (FLS_CH_STAT n) 25 true

/-! Boost stage, power, derating (R384 to R386). -/

/-- FLV within its limits; `vin` is the main input in 10 mV. -/
def State.flvSet (s : State) (vin x : Nat) : State :=
  let lo := max 1200 (vin + 50)
  { s with fls := { s.fls with flv := min s.flsTop (max lo x) } }

/-- FLV_ADAPT, every 10 ms. -/
def State.flvAdapt (s : State) (vin : Nat) : State :=
  if s.up < s.fls.flvAt + 10 * ms then s
  else
    let s1 : State := { s with fls := { s.fls with flvAt := s.up, vin := vin, heads := [] } }
    let lo := s.f FLS_HEAD 15 8 * 10
    let hi := lo + s.f FLS_HEAD 7 0 * 10
    let heads := (s.fls.heads.filter (fun (x : Nat × Nat) => s.flsArmed x.1 && s.flsState x.1 != 3 && s.flsState x.1 != 4)).map (·.2)
    if !s.b FLS_FLV 31 then s1.flvSet vin (s.f FLS_FLV 7 0 * 50)
    else if heads.any (fun h => decide (h < lo)) then s1.flvSet vin (s.fls.flv + 50)
    else if !heads.isEmpty && heads.all (fun h => decide (hi < h)) then s1.flvSet vin (s.fls.flv - 10)
    else s1.flvSet vin s.fls.flv

/-- A write of FLS.FLV: with AUTO 0 FLV goes to VSET at once, and in either mode it stays within VMAX; the lower limit follows the main input as last
measured (R384; DEDUCED, notes/assumptions/205.md). -/
def State.writeFlsFlv (s : State) (v : Word) : State :=
  let s1 := s.writeReg FLS_FLV v
  s1.flvSet s1.fls.vin (if bit v 31 then s1.fls.flv else s1.f FLS_FLV 7 0 * 50)

/-- FLS_POWER_CHECK: `mw` is the mean power of the last 10 ms. -/
def State.flsPower (s : State) (mw : Nat) : State :=
  if s.up < s.fls.pwrAt + 10 * ms then s
  else
    let s1 := ({ s with fls := { s.fls with pwrAt := s.up, ovr := if 12000 < mw then some mw else none } } : State).setF FLS_PWR 15 0 mw
    if 12000 < mw then (s1.setB FLS_STAT 29 true).alarm 2 FLS_STAT 29 69 (chanId s.dev 69 0) else s1

/-- FLS_DERATE: the heatsinks are read, in 0.1 degrees; a limit that reaches 0 raises a major alarm once. -/
def State.flsHeat (s : State) (ta tb : Int) : State :=
  if s.up < s.fls.tmpAt + 10 * ms then s
  else
    let s1 := (({ s with fls := { s.fls with tmpAt := s.up } } : State).setF FLS_TEMP 31 16 (ofSigned 16 ta)).setF FLS_TEMP 15 0 (ofSigned 16 tb)
    (List.range 16).foldl (fun st n =>
      let z := decide (st.flsDerate n = 0) && st.flsArmed n
      let fresh := z && !(st.flsCh n).cold
      cond fresh (·.flsAlarm 1 n 28) (st.flsUpd n (fun c => { c with cold := z }))) s1

/-! Status records (R394). -/

/-- FLS_STATUS_POST. -/
def State.flsPost (s : State) : State :=
  let per := max 1 (s.f FLS_STPER 15 0) * ms
  let due := decide (s.fls.stBase + per ≤ s.up)
  if !s.fls.changed && !due then s
  else
    let chg := s.fls.changed
    let s1 : State := { s with fls := { s.fls with stAt := s.up, stBase := if due then s.up - (s.up - s.fls.stBase) % per else s.fls.stBase, changed := false } }
    let size := s.f FLS_SBUFSIZE 15 0
    if size = 0 then s1
    else
      let w (n : Nat) : Nat :=
        let c := s.flsCh n
        s.flsState n * 2 ^ 61 + b2n c.rDer * 2 ^ 60 + b2n c.rLim * 2 ^ 59 + b2n c.rDiag * 2 ^ 58 + min 65535 (c.head.getD 0) * 2 ^ 32 + (s.csrRaw (FLS_CH_PULSES n)).toNat
      let ws := [s.fls.nrep * 2 ^ 32 + s.fls.flv * 2 ^ 16 + s.f FLS_PWR 15 0, s.sec32 * 2 ^ 32 + (s.csrRaw FLS_TEMP).toNat] ++ (List.range 16).map w
      let s2 := s1.publish (s.mkRec 77 11 8 69 ws (s.pair FLS_SBUF_LO) (size * 1024) FLS_SBUF_LO (flags := b2n s.flsSuspect * 16 ||| s.gapFlag ((s.time : Int) - (s.up - s.fls.stAt : Nat)) s.time) (spec := b2n chg * 2 ^ 15))
      { s2 with fls := { s2.fls with nrep := (s2.fls.nrep + 1) % 2 ^ 32,
                                     ch := s2.fls.ch.map (fun (c : FlsCh) => { c with rDer := false, rLim := false, rDiag := false, head := none }) } }

end Sys2Proof.Machine
end

