-- ==== Sys2Proof/Machine/Hold.lean ====
section
/-! DEFINITION. Entry into HOLD (R34, R490, Table GLB-18). -/

namespace Sys2Proof.Machine

open Csr

/-- Pending lnchs are dropped, the sequencer stops, and FIBRECAL is abandoned. -/
def State.launchOff (s : State) : State :=
  let s1 := s.seqStop
  { s1 with lch := { s1.lch with lnch := [] }, dts := { s1.dts with fib := none } }

/-- The states a fault that leads to hold leaves (Table GLB-18). -/
def Mode.holds : Mode → Bool
  | .startup | .idle | .armed | .run | .moult => true
  | .cocoon | .hold => false

/-- The move to HOLD: the cause is recorded, a critical alarm raised, launches, sinks and outputs go off, the lease is suspended
(R34, R391, R401, R490). -/
def State.holdMove (s : State) (cause : Nat) : State :=
  let s1 : State := { s.setF FLT_SUMMARY 27 24 cause with
    mode := .hold, gate := { s.gate with start := none, fin := none, stopPend := false },
    flt := { s.flt with leaseSusp := true, recovery := none }, sec := { s.sec with moult := none } }
  let s2 := (s1.launchOff.trgStop).flsCut
  (s2.setB FLT_STAT 29 false).alarm 0 FLT_SUMMARY 24

/-- The module has moved to COCOON in this CORE cycle: a fault of it that leads to hold takes precedence (R34, notes/assumptions/161.md). -/
def State.cocoonJust (s : State) : Bool :=
  s.mode == .cocoon && (match s.pwr.phase with | .entering t => s.sameCycle 1 t s.up | _ => false)

/-- HOLD_ENTRY. Where Table GLB-18 gives no move, only the alarm is raised, and the fault is kept for a transition of the same cycle. -/
def State.enterHold (s : State) (cause : Nat) : State :=
  if s.mode.holds then s.holdMove cause
  else if s.cocoonJust then (({ s with pwr := { s.pwr with phase := .awake } } : State).fabEnables).holdMove cause
  else ({ s with flt := { s.flt with holdFault := some (s.up, cause) } } : State).alarm 0 FLT_SUMMARY 24

/-- A fault that leads to hold has come in the CORE cycle of a transition out of COCOON: HOLD takes precedence (R34). -/
def State.holdFirst (s : State) : State :=
  match s.flt.holdFault with
  | some (t, cause) => if s.sameCycle 1 t s.up then s.holdMove cause else s
  | none => s

end Sys2Proof.Machine
end

