-- ==== Sys2Proof/Machine/Clk.lean ====
section
/-! DEFINITION. Clocks and synthesizers: loss of lock and relock, commits, SYN-M slots and hops (R337 to R351). PLLs are numbered
0 SYN-S, 1 SYN-C, 2 SYN-M, 3 fabric SerDes, 4 FE SerDes. -/

namespace Sys2Proof.Machine

open Csr

/-- The lock bit of a PLL in CLK.STAT. -/
def pllBit (p : Nat) : Nat := 30 - p

/-- A PLL is locked and its outputs run. -/
def State.pllOn (s : State) (p : Nat) : Bool := s.b CLK_STAT (pllBit p)

/-- The islands a PLL feeds, as ISLSAFE bits (Table CLK-2). -/
def pllIslands (p : Nat) : Nat := match p with | 0 => 0x0B7E | 3 => 0x80 | _ => 0

/-- CLK.UNLOCKS counts a loss. -/
def State.pllCount (s : State) (p : Nat) : State :=
  match p with
  | 0 => s.incF CLK_UNLOCKS 31 24 | 1 => s.incF CLK_UNLOCKS 23 16 | 2 => s.incF CLK_UNLOCKS 15 8 | 3 => s.incF CLK_UNLOCKS 7 4 | _ => s.incF CLK_UNLOCKS 3 0

/-- The clock of an island is stopped by CLK.GATE (R344). -/
def State.gateOff (s : State) (i : Nat) : Bool := (i == 4 || i == 5 || i == 9) && !s.clk.gate.testBit i

/-- An island does no work: on the SAFE clock, or stopped. -/
def State.islandIdle (s : State) (i : Nat) : Bool := s.onSafe i || s.gateOff i

/-- Every link in UP leaves to LOCK (R207, Table CLK-2). A frame that is cut short counts when its blocks come (R204, notes/assumptions/181.md). -/
def State.linksLeave (s : State) : State := (List.range 64).foldl (fun st l => if st.linkUp l then st.linkLost l false else st) s

/-- Launches whose windows overlap the loss are marked (R347); a profile in progress carries SUSPECT. -/
def State.spoilWindows (s : State) : State :=
  let s1 := s.profSuspect
  { s1 with lch := { s1.lch with wins := s1.lch.wins.map (fun (l : Launch) => { l with unlocked := true, suspect := true }) } }

/-- Temperature launches that overlap a loss of SYN-M are not accumulated (R347). -/
def State.spoilTemps (s : State) : State :=
  let hit := s.lch.wins.filter (fun (l : Launch) => l.accum.isSome)
  let s1 := (hit.foldl (fun (st : State) (l : Launch) => if l.fib then (st.freeHalf l.n).fibFail else (st.freeHalf l.n).dtsSkip) s).profSuspect
  { s1 with lch := { s1.lch with wins := s1.lch.wins.map (fun (l : Launch) => { l with accum := none }) } }

/-- TDC measurements open on a loss of SYN-S end with TIMEOUT (R277, Table CLK-2). -/
def State.tdcAbort (s : State) : State :=
  (List.range 8).foldl (fun st u =>
    let x := st.tdc u
    if x.start.isNone && x.stop.isNone then st
    else (st.tdcResult u 0 16 0).tdcUpd u (fun y => { y with start := none, stop := none })) s

/-- What a loss of each PLL does beside its clocks (Table CLK-2, R347). -/
def State.pllEffect (s : State) (p : Nat) : State :=
  match p with
  | 0 => s.spoilWindows.linksLeave.tdcAbort.flsCut.hkAbandon
  | 1 => s.spoilWindows
  | 2 => s.spoilTemps
  | 3 => (List.range 8).foldl (fun st q => let u := st.setB (FAB_PORT_STAT q) 27 false; if u.fstate q = 0 then u.fabMasks else u.fleave q 1) s
  | _ => s.linksLeave

/-- PLL_UNLOCK (R346). -/
def State.pllUnlock (s : State) (p : Nat) : State :=
  if !s.pllOn p then s
  else
    let s1 := ((s.setB CLK_STAT (pllBit p) false).pllCount p).bump 0xB6 1
    let s2 := s1.setF CLK_STAT 11 0 (s1.f CLK_STAT 11 0 ||| pllIslands p)
    let s3 : State := { s2 with clk := { s2.clk with lost := vmod s2.clk.lost p (fun _ => some s.up), gaps := (p, s.time, none) :: s2.clk.gaps, alarmed := vmod s2.clk.alarmed p (fun _ => false) } }
    s3.pllEffect p

/-! SYN-M (R341, R342). -/

/-- A search may run: nothing it could disturb (R341). -/
def State.searchFree (s : State) : Bool :=
  (!s.running && s.lch.wins.isEmpty) || (!s.b DTS_CTL 31 && s.f RCV_LOSB 29 28 != 2)

/-- Slots that wait for a search. -/
def State.searchWait (s : State) : List Nat := (List.range 16).filter (fun n => s.b (CLK_MSLOT_STAT n) 30)

/-- BAND_SEARCH_START: the lowest waiting slot's search begins. -/
def State.searchStart (s : State) : State :=
  if s.clk.search.isSome || !s.searchFree then s else { s with clk := { s.clk with search := s.searchWait.head? } }

/-- The slot that should be selected: the window in force while DTS is enabled, else CLK.MSEL as committed (R342). -/
def State.slotWanted (s : State) : Nat := if s.b DTS_CTL 31 then s.curWindow else s.clk.msel

/-- SYN-M begins a hop to a slot; without READY it stays and MSELERR is set (R342). -/
def State.hopTo (s : State) (n : Nat) : State :=
  if !s.b (CLK_MSLOT_STAT n) 31 then s.setB CLK_STAT 23 true
  else ({ s with clk := { s.clk with hop := some n } } : State).setB CLK_MCUR 4 true

/-- The result of a slot's band search is stored: band and amplitude code. -/
def State.searchResult (s : State) (n band amp : Nat) : State :=
  ({ s with clk := { s.clk with search := if s.clk.search = some n then none else s.clk.search, amp := vmod s.clk.amp n (fun _ => amp) } } : State).setCsr
    (CLK_MSLOT_STAT n) (BitVec.ofNat 32 (2 ^ 31 + band % 512))

/-- BAND_SEARCH_DONE: the result is stored; after the last search SYN-M returns to the selected slot (R341). -/
def State.searchDone (s : State) (band amp : Nat) : State :=
  match s.clk.search with
  | none => s
  | some n =>
    let s1 := s.searchResult n band amp
    if s1.searchWait.isEmpty then s1.hopTo s1.slotWanted else s1

/-- The slot in force, or the one a hop goes to. -/
def State.slotNow (s : State) : Nat := s.clk.hop.getD (s.f CLK_MCUR 3 0)

/-- While DTS is enabled SYN-M stands on a window of its rotation: where it does not, and no hop or search is under way, it hops there
(notes/assumptions/195.md). -/
def State.dtsAlign (s : State) : State :=
  if s.b DTS_CTL 31 && !s.rotation.isEmpty && s.clk.hop.isNone && s.clk.search.isNone && decide (s.dts.hop = .none) && s.slotNow != s.curWindow
    then s.hopTo s.curWindow else s

/-- MSEL_HOP: a hop outside the DTS rotation ends locked, or the slot loses READY and the loss-of-lock rules apply (R342). -/
def State.mselHop (s : State) (locked : Bool) : State :=
  match s.clk.hop with
  | none => s
  | some n =>
    let s1 := ({ s with clk := { s.clk with hop := none } } : State).setF CLK_MCUR 4 0 n
    if locked then s1 else (s1.setB (CLK_MSLOT_STAT n) 31 false).pllUnlock 2

/-- DTS_HOP_END: the hop of the DTS rotation ends, or is not locked 1.5 us after it began (R142, R342). -/
def State.dtsHopEnd (s : State) : State :=
  match s.dts.hop with
  | .hopping since w =>
    if s.up ≤ since + 1500000 then s.hopEnd
    else ((({ s with dts := { s.dts with hop := .none, cur := w, dwell := 0 } } : State).setF CLK_MCUR 4 0 w).setB (CLK_MSLOT_STAT w) 31 false).pllUnlock 2
  | _ => s

/-- MSLOT_WRITE: a write of CLK.MSLOT[n].FREQ_HI (R341). -/
def State.writeMslot (s : State) (who n : Nat) (v : Word) : State :=
  let a := CLK_MSLOT_FREQ_LO n
  let f := (s.loFor who a).toNat + fld v 1 0 * 2 ^ 32
  let s1 := s.dropLo who a
  if n < 8 ∨ f < 9500000000 ∨ 12000000000 < f then s1.setB CLK_STAT 20 true else s1.searchSlot n f

/-! Commits (R344, R345). -/


/-- CLK_COMMIT. -/
def State.writeCommit (s : State) (v : Word) : State :=
  if !bit v 31 || s.b CLK_STAT 25 then s
  else ({ s with clk := { s.clk with commitAt := some (s.commitFrom 200000) } } : State).setB CLK_STAT 25 true

/-- The gate bits staged. -/
def State.gateStaged (s : State) : Nat := b2n (s.b CLK_GATE 4) * 16 + b2n (s.b CLK_GATE 5) * 32 + b2n (s.b CLK_GATE 9) * 512

/-- The commit stops an island that runs. -/
def State.stops (s : State) (i : Nat) : Bool := s.clk.gate.testBit i && !s.gateStaged.testBit i

/-- The commit would write MSEL, or with DTS disabled move SYN-M from the slot in force. -/
def State.mselMoves (s : State) : Bool := s.f CLK_MSEL 3 0 != s.clk.msel || (!s.b DTS_CTL 31 && s.f CLK_MSEL 3 0 != s.slotNow)

/-- The commit is refused whole (R345). -/
def State.commitRefused (s : State) : Bool :=
  (s.stops 4 && (s.vec.job.isSome || s.b DTS_CTL 31)) || (s.stops 9 && (List.range 4).any (fun l => (s.lane l).isSome)) ||
  (s.stops 5 && s.pair FEL_LINKEN_LO != 0) || (s.mselMoves && s.b DTS_CTL 31)

/-- A PLL whose outputs the commit would change is unlocked: SYN-S for the gates of VEC and CMP and the MEM divider, SYN-S and the FE PLL
for FEL, SYN-M for MSEL (R345). -/
def State.commitWaits (s : State) : Bool :=
  let diff := s.clk.gate ^^^ s.gateStaged
  let memDiv := s.f MEM_RATE 0 0 != s.f MEM_STAT 31 31
  (!s.pllOn 0 && (diff != 0 || memDiv)) || (!s.pllOn 4 && s.stops 5) || (!s.pllOn 2 && s.mselMoves)

/-- A PLL that was stopped starts: its outputs run once it has locked (R348, R350). It has not lost lock, so R349 raises no alarm. -/
def State.pllStart (s : State) (p : Nat) : State :=
  if s.pllOn p then s
  else { s with clk := { s.clk with lost := vmod s.clk.lost p (fun t => some (t.getD s.up)), alarmed := vmod s.clk.alarmed p (fun _ => true) } }

/-- A PLL is stopped. -/
def State.pllStop (s : State) (p : Nat) : State :=
  ({ s with clk := { s.clk with lost := vmod s.clk.lost p (fun _ => none) } } : State).setB CLK_STAT (pllBit p) false

/-- The staged changes are applied. -/
def State.commitApply (s : State) : State :=
  let moves := s.mselMoves
  let m := s.f CLK_MSEL 3 0
  let fe := s.stops 5
  let feOn := !s.clk.gate.testBit 5 && s.gateStaged.testBit 5
  let s1 : State := { s with clk := { s.clk with gate := s.gateStaged, msel := m } }
  let s2 := if fe then s1.pllStop 4 else if feOn then s1.pllStart 4 else s1
  let s3 := if s.dram.rate.isSome then s2 else s2.setF MEM_STAT 31 31 (s.f MEM_RATE 0 0)
  if moves then s3.hopTo m else s3

/-- COMMIT_POINT: that of a rate change (R324), and that of CLK.COMMIT. -/
def State.commitPoint (s0 : State) : State :=
  let s := s0.rateSettle
  match s.clk.commitAt with
  | none => s
  | some t =>
    if s.time < t then s
    else if s.commitWaits then { s with clk := { s.clk with commitAt := some (s.commitFrom 1) } }
    else
      let s1 := ({ s with clk := { s.clk with commitAt := none } } : State).setB CLK_STAT 25 false
      if s1.commitRefused then s1.setB CLK_STAT 24 true else s1.commitApply

/-! Relock and timeouts (R348, R349). -/

/-- The outputs of a PLL run: its lock bit is set, its islands leave the SAFE clock, and a loss ends. -/
def State.pllReturn (s : State) (p : Nat) : State :=
  let s1 := s.setB CLK_STAT (pllBit p) true
  let s2 := s1.setF CLK_STAT 11 0 (s1.f CLK_STAT 11 0 &&& (0xFFF ^^^ pllIslands p))
  let close (g : Nat × Nat × Option Nat) : Nat × Nat × Option Nat := if g.1 = p ∧ g.2.2.isNone then (g.1, g.2.1, some s.time) else g
  { s2 with clk := { s2.clk with lost := vmod s2.clk.lost p (fun _ => none), gaps := s2.clk.gaps.map close, alarmed := vmod s2.clk.alarmed p (fun _ => false),
                                 commitAt := s2.clk.commitAt.map (fun t => if t ≤ s.time then s.commitFrom 1 else t) } }

/-- The DRAM leaves self-refresh after a loss of SYN-S: the channels whose training rows or temperatures fail are trained before they serve (R327, R348). -/
def State.memReturn (s : State) (rows : List (Nat × Nat × Nat × Nat)) (temps : List Nat) : State :=
  let s1 := ((List.range 4).foldl (fun (st : State) n => st.mchanUpd n (fun (c : MemChan) => { c with rows := [] })) s).putTemps temps
  let bad := s.refreshBad rows temps
  (if bad.isEmpty then s1 else s1.trainAdd { chans := bad, mode := 0, res := [], named := bad, tag := none, forRate := false, hold := true }).memRelease

/-- SYN-M has relocked after a fresh search of the selected slot (R348). -/
def State.synmReturn (s : State) (band amp : Nat) : State :=
  let n := s.slotWanted
  let s1 := ({ s with clk := { s.clk with hop := none } } : State).setF CLK_MCUR 4 0 n
  if s1.pair (CLK_MSLOT_FREQ_LO n) = 0 then s1 else s1.searchResult n band amp

/-- The outputs of a PLL return; `band` and `amp` are the search of the selected slot for SYN-M, `phase` RCV.ADCPH for SYN-C, `rows` and `temps` what
the DRAM reads, as in State.refreshBad, for SYN-S (R327, R348). -/
def State.pllRelock (s : State) (p band amp : Nat) (phase : Word) (rows : List (Nat × Nat × Nat × Nat)) (temps : List Nat) : State :=
  if s.pllOn p || (vget s.clk.lost p none).isNone then s
  else
    let s3 := s.pllReturn p
    match p with
    | 0 => (s3.memReturn rows temps).hkNext
    | 1 => ({ s3 with clk := { s3.clk with phase := some phase.toNat } } : State).phaseSettle
    | 2 => s3.synmReturn band amp
    | _ => s3

/-- How long a PLL has been unlocked. -/
def State.pllLate (s : State) (p : Nat) : Bool := match vget s.clk.lost p none with | some t => decide (t + 10 * ms ≤ s.up) | none => false

/-- SYN_S_LOCK_TIMEOUT. -/
def State.synsTimeout (s : State) : State :=
  if s.pllLate 0 && !vget s.clk.alarmed 0 false then
    ({ s with clk := { s.clk with alarmed := vmod s.clk.alarmed 0 (fun _ => true) } } : State).enterHold 4
  else s

/-- PLL_RETRY_ALARM: a major alarm once for each loss. -/
def State.pllAlarm (s : State) (p : Nat) : State :=
  if p ≠ 0 && s.pllLate p && !vget s.clk.alarmed p false then
    ({ s with clk := { s.clk with alarmed := vmod s.clk.alarmed p (fun _ => true) } } : State).alarm 1 CLK_STAT (pllBit p)
  else s

/-- REF_COUNT_FAIL. -/
def State.refFail (s : State) : State :=
  if !s.b CLK_STAT 31 then s else (s.setB CLK_STAT 31 false).enterHold 5

end Sys2Proof.Machine
end

