-- ==== Sys2Proof/Machine/Flt.lean ====
section
/-! DEFINITION. Faults, redundancy and monitors: the core lease, recovery, tests, alarms in waiting, snapshots, the stale check
(R396 to R418). -/

namespace Sys2Proof.Machine

open Csr

/-! The twin cores (R398 to R404). -/

/-- FLT.STAT.SINGLE and FOREB follow the cores. -/
def State.fltFlags (s : State) : State :=
  (s.setB FLT_STAT 30 (!(s.flt.inA && s.flt.inB))).setB FLT_STAT 26 s.flt.foreB

/-- The forewing role passes to core A or core B; a change is logged as event 0x0004, role 15. -/
def State.setFore (s : State) (b : Bool) : State :=
  if s.flt.foreB = b then s.fltFlags
  else (({ s with flt := { s.flt with foreB := b } } : State).fltFlags).log 2 0x0004 [2 ^ 8 + 15, b2n b, 0]

/-- Comparison is on (R399). -/
def State.comparing (s : State) : Bool :=
  s.mode.live && s.mode != .moult && s.flt.recovery.isNone && s.flt.inA && s.flt.inB

/-- A recovery or core test begins: both cores stop issuing (Table FLT-2). -/
def State.recover (s : State) (cause : Nat) : State :=
  { s with flt := { s.flt with recovery := some { cause := cause, since := s.up, verdict := none } }, core := { s.core with stall := .none } }

/-- A lease expiry has begun its recovery in this very cycle: a mismatch of the same cycle is handled in its place (R399). -/
def State.expiring (s : State) : Bool :=
  match s.flt.recovery with | some r => r.cause == 1 && r.verdict.isNone && r.since == s.up && s.flt.inA && s.flt.inB | none => false

/-- MISMATCH (R399, R400). -/
def State.mismatch (s : State) : State :=
  if !s.comparing && !s.expiring then s else (((s.setB FLT_STAT 31 true).bump 0x09 1).alarm 1 FLT_STAT 31).recover 0

/-- LEASE_RENEWAL: every 250 us, not while the forewing is stopped under R50 or an uncorrectable ECC error is pending in it (R401). -/
def State.leaseRenew (s : State) : State :=
  if !s.mode.live || s.flt.leaseSusp || s.flt.recovery.isSome || s.b SEQ_TSTAT 30 || !s.core.eccBad.isEmpty || s.up < s.flt.leaseAt + 250 * us then s
  else ({ s with flt := { s.flt with leaseAt := s.up } } : State).bump 0x0B 1

/-- LEASE_EXPIRY: 1 ms after the last renewal (R401, R436). -/
def State.leaseExpire (s : State) : State :=
  if s.flt.leaseSusp || s.flt.recovery.isSome || !s.mode.live || s.up < s.flt.leaseAt + ms then s
  else
    let s1 := s.bump 0x0C 1
    if s.mode = .moult ∨ !(s.flt.inA && s.flt.inB) then s1.enterHold 3 else s1.recover 1

/-- A core is taken out of service: SINGLE and a major alarm. -/
def State.coreOut (s : State) (b : Bool) : State :=
  let s1 : State := { s with flt := { s.flt with inA := s.flt.inA && b, inB := s.flt.inB && !b, outAt := s.up, passes := 0, resync := false } }
  (s1.fltFlags).alarm 1 FLT_STAT 30

/-- The log entry of a recovery or core test. -/
def State.recovLog (s : State) (level : Nat) (a b : Bool) (cause : Nat) : State :=
  s.log level 0x0005 [b2n a + 2 * b2n b + cause * 16 + b2n s.flt.foreB * 256, s.core.ckpt.pc.toNat]

/-- SELF_TEST_VERDICT: step 3 of Table FLT-2. An expired core counts as failed; a core out of service is not tested. -/
def State.selfTest (s : State) (va vb : Bool) : State :=
  match s.flt.recovery with
  | none => s
  | some r =>
    if r.verdict.isSome then s
    else
      let a := va && s.flt.inA && !(r.cause == 1 && !s.flt.foreB)
      let b := vb && s.flt.inB && !(r.cause == 1 && s.flt.foreB)
      let s1 : State := { s with flt := { s.flt with recovery := some { r with verdict := some (a, b) } } }
      if a && b then s1.setFore false
      else if a then (cond s.flt.inB (·.coreOut true) s1).setFore false
      else if b then (cond s.flt.inA (·.coreOut false) s1).setFore true
      else (s1.recovLog 3 a b r.cause).enterHold 1

/-- The trap registers are loaded from the checkpoint, DOUBLE 0 (Table FLT-2). -/
def State.loadTrap (s : State) : State :=
  let k := s.core.ckpt
  ((((s.setF SEQ_TSTAT 31 30 (2 * b2n k.intrap)).setCsr SEQ_EPC k.epc).setCsr SEQ_CAUSE k.cause).setCsr SEQ_TVAL_LO k.tvalLo).setCsr SEQ_TVAL_HI k.tvalHi

/-- RECOVERY_RESUME: issue resumes at the checkpoint, with the journal to replay, in cores that have passed their self-test (steps 4 and 5, R402). -/
def State.resume (s : State) : State :=
  match s.flt.recovery with
  | none => s
  | some r =>
    match r.verdict with
    | none => s
    | some (a, b) =>
      let k := s.core.ckpt
      let s1 : State := { s with core := { s.core with regs := k.regs, flags := k.flags, pc := k.pc, stall := .none, eccBad := [], replay := s.core.journal },
                                 flt := { s.flt with recovery := none, leaseAt := s.up } }
      let s2 := ((s1.loadTrap).inc FLT_RECOV).bump 0x0A 1
      (cond (!s.core.journal.isEmpty) (·.bump 0x0D 1) s2).recovLog 2 a b r.cause

/-- CORE_RETEST: the core out of service is retested; after 3 passes it resynchronises at the next ckpt (R403). -/
def State.coreRetest (s : State) (pass : Bool) : State :=
  if (s.flt.inA && s.flt.inB) || s.up < s.flt.outAt + psPerSec || !s.mode.live then s
  else
    let n := if pass then s.flt.passes + 1 else 0
    { s with flt := { s.flt with outAt := s.up, passes := n, resync := s.flt.resync || decide (3 ≤ n) } }

/-- The core out of service returns as hindwing (R403). -/
def State.coreBack (s : State) : State :=
  if !s.flt.resync then s else ({ s with flt := { s.flt with inA := true, inB := true, resync := false, passes := 0 } } : State).fltFlags

/-- CTEST: a write of 1 to FLT.CTL.CTEST (R404); `lease`: it comes from the lease holder. -/
def State.ctest (s : State) (lease : Bool) : State :=
  let ok := match s.sec.lc with | .egg => true | .larva => true | .exuvia => false | _ => s.dbgOpen
  if !ok || !lease then s.bump 0x06 1
  else if s.flt.recovery.isSome || !s.mode.live || s.mode == .moult then s
  else s.recover 2

/-- A write of FLT.CTL: PERTEST, and CTEST where bit 30 is 1. -/
def State.writeFltCtl (s : State) (v : Word) (lease : Bool) : State :=
  cond (bit v 30) (·.ctest lease) (s.writeReg FLT_CTL v lease)

/-! Periodic tests (R405, R406, R417). -/

/-- COMPARATOR_TEST, every 1 s: a missed detection or a CRC failure is class 4. -/
def State.comparatorTest (s : State) (ok : Bool) : State := if !s.testDue 0 then s else cond (!ok) (·.enterHold 7) (s.testRun 0)

/-- VEC_KNOWN_ANSWER, every 1 s, at a job boundary: class 17. -/
def State.vecTest (s : State) (ok : Bool) : State :=
  if !s.testDue 1 || s.islandIdle 4 || s.vec.job.isSome then s else cond (!ok) (·.alarm 1 VEC_STAT 0x3F) ((s.testRun 1).suspectSrc 2 (!ok))

/-- TIME_CROSS_CHECK: time differs from that of a non-parent port by `diff` ps, filtered over 1 s (class 15). -/
def State.timeCheck (s : State) (p : Nat) (diff : Int) : State :=
  if !s.portUp p || s.parentPort == some p || decide (diff.natAbs ≤ (s.csrRaw FLT_TCHK).toNat) then s
  else ((if s.timState = 2 then s.setTimState 3 else s)).alarm 1 (TIM_LINK_OFS p) 0x3F (70 + p) (chanId s.dev (70 + p) 0)

/-- SRAM_SCRUB: an error found in core program (0) or data (1) SRAM, on-chip SRAM (2) or VEC X, Y, Z (3 to 5), at an address or element;
a single-bit one is corrected. -/
def State.sramScrub (s : State) (mem a : Nat) (double : Bool) : State :=
  match mem, double with
  | 0, false | 1, false => s.bump 0x07 1
  | 0, true | 1, true => (({ s with core := { s.core with eccBad := (mem, a) :: s.core.eccBad.filter (· != (mem, a)) } } : State).bump 0x08 1).alarm 1 FLT_SUMMARY 0x3F
  | 2, true => ({ s with poison := (a / 8 * 8) :: s.poison.filter (· != a / 8 * 8) } : State).alarm 1 FLT_SUMMARY 0x3F
  | 2, false => s
  | _, false => s.incF VEC_ECC 31 16
  | m, true => (({ s with vec := { s.vec with bad := (m - 3, a) :: s.vec.bad.filter (· != (m - 3, a)) } } : State).incF VEC_ECC 15 0).alarm 1 VEC_STAT 0x3F

/-- CONFIGURATION_PARITY_ERROR in an island other than CORE (R417). -/
def State.parityError (s : State) (island : Nat) : State := (s.alarm 1 FLT_SUMMARY 28 127 island).momentary

/-- SUPERVISOR_FAULT: class 14. -/
def State.supervisorFault (s : State) : State := s.enterHold 7

/-! Alarms in waiting (R412). -/

/-- A summary slot as an alarm record. -/
def SumSlot.alarmOf (x : SumSlot) : AlarmRec :=
  { cls := x.cls, summary := true, catchall := x.catchall, srcreg := x.srcreg, srcbit := x.srcbit, chan := x.chan, port := x.port, value := x.value,
    first := x.first, firstSec := x.firstSec, last := x.last, count := min (2 ^ 32 - 1) x.count }

/-- ALARM_SUMMARY_POST: the slot open longest, at least 1 s, whose class has a token and room, is posted and closes. -/
def State.summaryPost (s : State) : State :=
  let ready (x : SumSlot) : Bool := x.cls != 0 && decide (x.opened + psPerSec ≤ s.up) && decide (0 < (vget s.flt.tokens x.cls 0 : Nat)) && s.alarmRoom x.cls
  match s.flt.slots.find? ready with
  | none => s
  | some x => ({ s with flt := { s.flt with slots := s.flt.slots.erase x, tokens := vmod s.flt.tokens x.cls (· - 1) } } : State).postAlarm x.alarmOf

/-- ALARM_TOKEN_REFILL: a bucket refills at RATE per second up to BURST; 0 acts as 1. -/
def State.tokenRefill (s : State) (c : Nat) : State :=
  let rate := max 1 (s.f (FLT_ABKT c) 15 0)
  let burst := max 1 (s.f (FLT_ABKT c) 31 16)
  let n := (s.up - vget s.flt.tokAt c 0) * rate / psPerSec
  { s with flt := { s.flt with tokens := vmod s.flt.tokens c (fun t => min burst (t + n)), tokAt := vmod s.flt.tokAt c (fun t => t + n * psPerSec / rate) } }

/-- Critical summary slots enter the buffer while it has room, in the order in which they opened. -/
def State.critSlots (s : State) : Nat → State
  | 0 => s
  | k + 1 =>
    match (if s.flt.crit.length < 1024 then s.flt.slots.find? (fun (x : SumSlot) => x.cls == 0) else none) with
    | none => s
    | some x => State.critSlots { s with flt := { s.flt with slots := s.flt.slots.erase x, crit := s.flt.crit ++ [x.alarmOf] } } k

/-- CRITICAL_BUFFER_DRAIN: the oldest waiting critical alarm is published when there is room. -/
def State.critDrain (s : State) : State :=
  let s1 := s.critSlots 257
  match s1.flt.crit with
  | [] => s1
  | a :: t => if s1.alarmRoom 0 then (({ s1 with flt := { s1.flt with crit := t } } : State).postAlarm a).critSlots 1 else s1

/-! Counters (R416). -/

/-- SNAPAT_WRITE: the write of HI arms the stamp. -/
def State.writeSnapat (s : State) (who : Nat) (v : Word) : State :=
  let s1 := s.writePair who CNT_SNAPAT_HI v
  { s1 with flt := { s1.flt with snapAt := some (some (s1.pair CNT_SNAPAT_LO)), snapPer := true } }

/-- CNTSNAP: a snapshot at a stamp, or at once for 0; it replaces a pending request. -/
def State.cntsnap (s : State) (stamp : Nat) : State :=
  { s with flt := { s.flt with snapAt := some (if stamp = 0 then none else some stamp), snapPer := false } }

/-- A snapshot is taken and posted on Q79. -/
def State.snapshot (s : State) : State :=
  let mask := (List.range 32).foldl (fun m i => m + b2n (s.b (CNT_CFG i) 31) * 2 ^ i) 0
  let ws := [(s.csrRaw CNT_SNAPNUM).toNat * 2 ^ 32 + mask, s.sec32 * 2 ^ 32] ++
    (List.range 32).map (fun i => s.f (CNT_CFG i) 7 0 * 2 ^ 56 + vget s.flt.cnt i 0)
  (s.publish (s.mkBare 79 11 0x0B 127 ws 0 0 (s.nowAt 11))).incMod CNT_SNAPNUM

/-- COUNTER_SNAPSHOT: an armed stamp, a request for now or the next period has come. -/
def State.counterSnap (s : State) : State :=
  let per := (s.csrRaw CNT_SNAPPER).toNat
  let due := match s.flt.snapAt with | some none => true | some (some t) => stampReached s.time t | none => false
  let next := if per = 0 then none else some (s.up + per * ms)
  if due then
    ({ s with flt := { s.flt with snapAt := none, snapNext := if s.flt.snapPer then next else s.flt.snapNext } } : State).snapshot
  else match s.flt.snapNext with
    | some t => if per ≠ 0 ∧ t ≤ s.up then ({ s with flt := { s.flt with snapNext := some (t + per * ms) } } : State).snapshot else s
    | none => s

/-! Stale state (R410). -/

/-- STALE_CHECK: the instar is compared with the largest one neighbours remember, within 1 s of the first port UP. -/
def State.staleCheck (s : State) : State :=
  match s.flt.firstUp with
  | none => s
  | some t =>
    if s.flt.compared then s
    else match s.fab.lastInstar with
      | none => if s.up < t + psPerSec then s else { s with flt := { s.flt with compared := true } }
      | some e =>
        let s1 : State := { s with flt := { s.flt with compared := true, stale := s.flt.stale || s.flt.instar != e } }
        s1.setCsr FLT_EXPINSTAR (BitVec.ofNat 32 (2 ^ 16 + e % 65536))

end Sys2Proof.Machine
end

