-- ==== Sys2Proof/Machine/Journal.lean ====
section
/-! DEFINITION. The replay journal (R402). -/

namespace Sys2Proof.Machine

open Csr

/-- A queue, idle or result-reading instruction is recorded; beyond the 64th, JOVF is set with a major alarm. -/
def State.jpush (s : State) (e : JEntry) : State :=
  if s.core.journal.length < 64 then { s with core := { s.core with journal := s.core.journal ++ [e] } }
  else if s.core.jover then s
  else (({ s with core := { s.core with jover := true } } : State).setB FLT_STAT 27 true).alarm 1 FLT_STAT 27

/-- The instruction met differs from the journal: the rest of it is discarded and execution goes on live. -/
def State.jdiverge (s : State) : State :=
  if s.core.replay.isEmpty then s
  else
    let keep := s.core.journal.take (s.core.journal.length - s.core.replay.length)
    ({ s with core := { s.core with journal := keep, replay := [] } } : State).setB FLT_STAT 28 true

/-- The next journaled instruction, if `f` recognises it: what it recorded, and the state with the entry met. -/
def State.jmeet {α : Type} (s : State) (f : JEntry → Option α) : Option (α × State) :=
  match s.core.replay with
  | [] => none
  | e :: t => (f e).map (fun x => (x, { s with core := { s.core with replay := t } }))

end Sys2Proof.Machine
end

