-- ==== Sys2Proof/Machine/Phs.lean ====
section
/-! DEFINITION. Phase, gauge and strain: polarisation combine, unwrapping, the frame record, the coil record and the
sentinel check (R104, R105, R107, R119 to R137). -/

namespace Sys2Proof.Machine

open Csr

/-- The index of position `p` in a frame's data, which begins at position -740 (notes/assumptions/15.md). -/
def posIx (p : Int) : Nat := (p + 740).toNat

/-! Combine (R105, R107). -/

/-- One step of the averages of R107 and the combined value. -/
def polStep (mode k : Nat) (old : Option PolSt) (x y : Cx) : Cx × PolSt :=
  let g : Rat := ((2 ^ min 10 k : Nat) : Rat)
  let xy := Cx.mul x (Cx.conj y)
  let st : PolSt :=
    match old with
    | none => { sx := Cx.normSq x, sy := Cx.normSq y, cxy := xy }
    | some o => { sx := o.sx + (Cx.normSq x - o.sx) / g, sy := o.sy + (Cx.normSq y - o.sy) / g,
                  cxy := Cx.add o.cxy (Cx.scale (1 / g) (Cx.sub xy o.cxy)) }
  let z :=
    if mode = 0 then x else if mode = 1 then y
    else if st.sx + st.sy = 0 then Cx.zero
    else Cx.scale (1 / sqrtR (st.sx + st.sy)) (Cx.add (Cx.scale (sqrtR st.sx) x) (Cx.scale (sqrtR st.sy) (Cx.mul (unit st.cxy) y)))
  (z, st)

/-- Element-wise sum of compressed values; a half that is not there adds nothing. -/
def addData (a b : List (Cx × Cx)) : List (Cx × Cx) :=
  a.mapIdx (fun i p => let q := nth b i (Cx.zero, Cx.zero); (Cx.add p.1 q.1, Cx.add p.2 q.2))

/-- The compressed values of a frame after the pair rule of R105; the halves are kept. -/
def State.pairHalves (s : State) (l : Launch) (data : List (List (Cx × Cx))) : List (List (Cx × Cx)) × State :=
  let slots := slotsOf (eSlots l.enta)
  if eCode l.enta ≠ 2 then (data, s)
  else
    let keep := slots.mapIdx (fun i sl => (sl * 2 + l.member, nth data i []))
    let out := slots.mapIdx (fun i sl => addData (nth data i []) ((spGet s.phs.halves (sl * 2 + 1 - l.member)).getD []))
    (out, { s with phs := { s.phs with halves := keep.foldl (fun h kv => spPut h kv.1 (some kv.2)) s.phs.halves } })

/-- The combined values of a frame, by slot, and the averages after it. -/
def State.combine (s : State) (l : Launch) (data : List (List (Cx × Cx))) : List (Nat × List Cx) × State :=
  let pol := fld l.rcvCtl 21 16
  let keep := !(l.polReset || pol != s.phs.lastPol)
  let old := if keep then s.phs.pol else []
  let res : List (Nat × List (Cx × PolSt)) := (slotsOf (eSlots l.enta)).mapIdx (fun i sl =>
    (sl, (nth data i []).mapIdx (fun p (xy : Cx × Cx) =>
      polStep (fld l.rcvCtl 21 20) (fld l.rcvCtl 19 16) (spGet old (sl * 2 ^ 20 + p)) xy.1 xy.2)))
  let new := (res.map (fun r => r.2.mapIdx (fun p (zs : Cx × PolSt) => (r.1 * 2 ^ 20 + p, zs.2)))).flatten
  let rest := old.filter (fun o => !(res.any (fun r => r.1 == o.1 / 2 ^ 20)))
  (res.map (fun r => (r.1, r.2.map (·.1))), { s with phs := { s.phs with pol := rest ++ new, lastPol := pol } })

/-! The phase word (R123). -/

/-- AMP: round(40 log10 Peff) + 255, clamped to 0 to 255; exact, Peff^80 against powers of 10 (notes/assumptions/13.md). -/
def ampCode (peff : Rat) : Nat :=
  (List.range 255).countP (fun k => decide (1 ≤ peff ^ 80 * ((10 ^ (509 - 2 * k) : Nat) : Rat)))

/-- The state of a position after a restart (R125). -/
def PosSt.start (u : Int) : PosSt := { lw := 0, u := u, dp := 0, steps := 0, fresh := true, c := [], ref := 0 }

/-- The fields of PHS.CTL and PHS.QCFG in force. -/
structure PhCfg where
  pred : Bool
  pk : Nat
  divk : Nat
  afloor : Nat
  qmin : Nat
  maxgap : Nat
  deriving DecidableEq, Repr

/-- The configuration of the phase pipeline. -/
def State.phCfg (s : State) : PhCfg :=
  { pred := s.b PHS_CTL 30, pk := min 8 (s.f PHS_CTL 27 24), divk := min 10 (s.f PHS_CTL 19 16), afloor := s.f PHS_QCFG 23 16, qmin := s.qmin,
    maxgap := max 1 (s.f PHS_QCFG 7 0) }

/-- What a position yields: word, state, and the counters it moves. -/
structure PhOut where
  word : PhW
  st : PosSt
  held : Bool
  reacq : Bool
  limit : Bool
  deriving DecidableEq, Repr

/-- The alignment values before a frame's combination: those of K are set anew while the position is fresh, else where unset (R123). -/
def alignC (dive fresh : Bool) (c : List (Nat × Cx)) (v : List (Nat × Cx)) (vm : Cx) (pred : Int) : List (Nat × Cx) :=
  v.foldl (fun acc sv =>
    if !fresh && (spGet acc sv.1).isSome then acc
    else spPut acc sv.1 (some (if dive then Cx.mul sv.2 (Cx.conj vm) else if fresh then Cx.one else Cx.mul sv.2 (cisNeg pred)))) c

/-- The procedure of R123 for one non-excluded position. Phases that leave the 40 bits of the rule through a long hold go on unwrapped (DESIGN CHOICE,
notes/assumptions/169.md). -/
def phaseWord (g : PhCfg) (st0 : PosSt) (v : List (Nat × Cx)) (amp delta : Nat) : PhOut :=
  let dive := decide (1 < v.length)
  let vm := (v.head?.map (·.2)).getD Cx.zero
  let m := (v.head?.map (·.1)).getD 0
  let qa := clampN 0 15 ((amp - g.afloor) / 12)
  let dp := if g.pred then st0.dp else 0
  let steps := st0.steps + delta
  let pred := st0.lw + dp * steps
  let c := alignC dive st0.fresh st0.c v vm pred
  let ref := if st0.fresh ∧ !dive then m else st0.ref
  let vsum := v.foldl (fun a sv => Cx.add a (Cx.mul sv.2 (unit (Cx.conj ((spGet c sv.1).getD Cx.one))))) Cx.zero
  let w := argR vsum
  let st := { st0 with dp := dp, steps := steps, c := c, ref := ref }
  let out (u : Int) (q : Nat) (s' : PosSt) : PhOut := { word := (u, q, amp), st := s', held := false, reacq := false, limit := false }
  if st0.fresh then
    if qa < g.qmin then out 0 0 st
    else
      let u := roundDiv w 16
      out u qa { st with lw := w, u := u, dp := 0, steps := 0, fresh := false }
  else
    let e := wrap (w - pred)
    let qc := clampN 0 15 (16 - (16 * e.natAbs * 100000000 + 20588741614565) / 20588741614566)
    let q := min qa qc
    if q < g.qmin then { out st.u (max q 2) st with held := true }
    else
      let d := dp * steps + e
      if 2 ^ 31 ≤ (roundDiv (st.lw + d) 16).natAbs then { out st.u 0 (PosSt.start st.u) with limit := true }
      else
        let long := decide (g.maxgap < steps)
        let dp' := if long then 0 else dp + roundDiv (d - dp * steps) (steps * 2 ^ g.pk)
        let k : Rat := 1 / ((2 ^ g.divk : Nat) : Rat)
        let move (t : Cx) (o : Cx) : Cx := Cx.add o (Cx.scale k (Cx.sub t o))
        let c' :=
          if dive then v.foldl (fun acc sv => spPut acc sv.1 (some (move (Cx.mul sv.2 (Cx.conj vm)) ((spGet acc sv.1).getD Cx.one)))) c
          else if m ≠ ref then spPut c m (some (move (Cx.mul vm (cisNeg pred)) ((spGet c m).getD Cx.one)))
          else c
        let lw := st.lw + d
        let u := roundDiv lw 16
        { out u (if long then 1 else q) { st with lw := lw, u := u, dp := dp', steps := 0, c := c' } with reacq := long }

/-- The products v[s] of a gauge from `a` to `b`, and Peff. -/
def gaugeOf (z : List (Nat × List Cx)) (a b : Int) : List (Nat × Cx) × Rat :=
  let at_ (l : List Cx) (p : Int) : Cx := nth l (posIx p) Cx.zero
  (z.map (fun sz => (sz.1, Cx.mul (at_ sz.2 a) (Cx.conj (at_ sz.2 b)))),
   z.foldl (fun t sz => t + min (Cx.normSq (at_ sz.2 a)) (Cx.normSq (at_ sz.2 b))) 0)

/-- The words of a run of positions from `first`, with their states, `limit` the first excluded end (R122, R123). -/
def phaseWords (g : PhCfg) (states : List (Nat × PosSt)) (fresh : Bool) (z : List (Nat × List Cx)) (gauge delta : Nat) (first : Int) (n : Nat) (limit : Int) :
    List (Nat × PhOut) :=
  (List.range n).map (fun i =>
    let p : Int := first + (i : Nat)
    let ix := posIx p
    let st0 := if fresh then PosSt.start 0 else (spGet states ix).getD (PosSt.start 0)
    let a := p - (gauge / 2 : Nat)
    let b := a + gauge
    let vp := gaugeOf z a b
    let amp := ampCode vp.2
    (ix, if limit ≤ b then { word := (st0.u, 0, amp), st := st0, held := false, reacq := false, limit := false }
         else phaseWord g st0 vp.1 amp delta))

/-! The frame record (R128 to R131). -/

/-- A part of a frame or coil record (Table PHS-4). -/
def State.frameRec (s : State) (l : Launch) (coil gap : Bool) (flags part : Nat) (last : Bool) (first : Nat) (d : Nat) (ws : List PhW) : Rec :=
  let p := planOf l.plan 0 0
  s.mkRec 64 3 0x01 (64 + l.port)
    ([l.frame % 2 ^ 32 * 2 ^ 32 + l.gauge % 512 * 2 ^ 23 + d % 128 * 2 ^ 16 + part % 256 * 2 ^ 8 + b2n last * 2 ^ 7,
      first % 2 ^ 32 * 2 ^ 32 + ws.length,
      fullSecZ l.tL * 2 ^ 32 + ofSigned 16 (s.residual l) * 2 ^ 16 + min 65535 (s.qlow ws),
      l.tail % 65536 * 2 ^ 48 + l.period % 2 ^ 40] ++ pack32 (ws.map phWord))
    (s.pair STR_FBUF_LO) ((s.csrRaw STR_FBUFSIZE).toNat * 0x100000) STR_FBUF_LO (flags := flags ||| s.gapFlag l.tL (l.tL + (l.closes - l.start)))
    (spec := b2n coil * 2 ^ 15 + b2n gap * 2 ^ 14 + p.mode % 4 * 2 ^ 12 + eSlots l.enta * 2 ^ 8 + l.entry % 16 * 2 ^ 4 + b2n p.split * 2 ^ 3 + b2n p.ilv * 2 ^ 2)
    (t := some (l.tL : Int))

/-- The frame's records are published in parts of at most 131,056 channel words. -/
def State.postFrame (s : State) (l : Launch) (gap : Bool) (flags : Nat) (chans : List PhW) : State :=
  let parts := chunks (chans.length + 1) 131056 chans
  (parts.mapIdx (fun i x => (i, x))).foldl (fun st ip =>
    let st1 := (st.publish (st.frameRec l false gap flags ip.1 (ip.1 + 1 == parts.length) (ip.1 * 131056) (max 1 (fld l.strCtl 6 0)) ip.2)).bump 0xA2 1
    cond gap (·.inc PHS_GAPS) st1) s

/-- The coil record of a frame (R130). -/
def State.postCoil (s : State) (l : Launch) (gap : Bool) (flags : Nat) (ws : List PhW) : State :=
  let st := (s.publish (s.frameRec l true gap flags 0 true (2 ^ 32 - 612) 1 ws)).bump 0xA2 1
  cond gap (·.inc PHS_GAPS) st

/-- LVexp of R134 in AMP steps. -/
def State.levelExp (s : State) (l : Launch) : Int :=
  (s.f PHS_COILREF 7 0 : Int) + ((l.peak : Int) - 136) + 4 * ((fld l.rcvCtl 27 24 : Int) - 8) + (if bit l.rcvCtl 31 then Config.preampGain else 0)

/-- Sum over positions -600 to -17 of the AMP that R123 gives their words, with the frame's gauge (notes/assumptions/65.md). -/
def coilAmp (z : List (Nat × List Cx)) (gauge : Nat) : Nat :=
  (List.range 584).foldl (fun t (i : Nat) => let a : Int := (i : Int) - 600 - (gauge / 2 : Nat); t + ampCode (gaugeOf z a (a + gauge)).2) 0

/-- The check gauge takes a frame while PHS.SENTCHK.EN is 1; one whose q is below QMIN is seen and not kept. PHS.SENTCHK and PHS.SENTTOL act from here
on (R134, R137). Its Peff is the sum of those of its four gauges (DESIGN CHOICE, notes/assumptions/170.md). -/
def State.checkFrame (s : State) (l : Launch) (z : List (Nat × List Cx)) (delta : Nat) : State :=
  let parts := (List.range 4).map (fun (p : Nat) => gaugeOf z ((p : Int) - 16) (p : Int))
  let v := z.mapIdx (fun i sz => (sz.1, parts.foldl (fun a gp => Cx.add a ((gp.1[i]?.map (·.2)).getD Cx.zero)) Cx.zero))
  let o := phaseWord s.phCfg (if l.fresh then PosSt.start 0 else s.phs.chk) v (ampCode (parts.foldl (fun a gp => a + gp.2) 0)) delta
  let k : ChkFrame := { ok := decide (s.qmin ≤ o.word.2.1), t := l.tL, hz := s.sentHz, phi := o.st.lw, lv := (coilAmp z l.gauge : Nat) - 584 * s.levelExp l, tol := s.csrRaw PHS_SENTTOL }
  let c := s.csrRaw PHS_SENTCHK
  { s with phs := { s.phs with chk := o.st, taken := if bit c 31 then s.phs.taken ++ [k] else s.phs.taken, sentChk := c, sentTol := k.tol,
                               sentOn := if bit c 31 && !bit s.phs.sentChk 31 then l.tL else s.phs.sentOn } }

/-- The oldest frame waits for no earlier launch. -/
def State.nextFrame (s : State) : Option Launch :=
  match s.lch.frames with
  | [] => none
  | l :: _ => if s.lch.wins.any (fun w => decide (w.n < l.n)) then none else some l

/-- A frame leaves the list of those under way; the first of a run combines with no launch before it (R78). -/
def State.frameTaken (s : State) (l : Launch) : State :=
  { s with lch := { s.lch with frames := s.lch.frames.drop 1 }, phs := if l.polReset && !l.single then { s.phs with halves := [] } else s.phs,
           str := if l.fresh then s.chansFresh.str else s.str }

/-- The counts and the unwrap state that the words of a frame and of the coil leave (R123 to R126). -/
def State.frameKept (s : State) (l : Launch) (coilOn : Bool) (outs coils : List (Nat × PhOut)) : State :=
  let nl := outs.countP (fun o => o.2.limit)
  let nc := coils.countP (fun o => o.2.limit)
  let all := outs ++ coils
  let mask := eSlots l.enta
  let s3 := (((s.inc PHS_HELD (all.countP (fun o => o.2.held))).inc PHS_REACQ (all.countP (fun o => o.2.reacq))).inc PHS_LIMITS (nl + nc))
  let s4 : State := cond (decide (0 < nl + nc)) (·.setB PHS_STAT 30 true) s3
  { s4 with phs := { s4.phs with pos := outs.map (fun o => (o.1, o.2.st)),
                                 coil := if coilOn then coils.map (fun o => (o.1, o.2.st)) else s4.phs.coil,
                                 lastFrame := (l.port, l.frame) :: s4.phs.lastFrame.filter (fun x => x.1 != l.port),
                                 restart := if nl = 0 then s4.phs.restart &&& (15 - mask) else 15,
                                 restartC := if nc = 0 then s4.phs.restartC &&& (15 - mask) else 15 } }

/-- The blocks, the ring and the stream of a frame; `s` is the state in which it came. -/
def State.frameOut (s5 s : State) (l : Launch) (coilOn gap : Bool) (delta : Nat) (z : List (Nat × List Cx)) (outs coils : List (Nat × PhOut)) : State :=
  let words : List PhW := outs.map (fun o => o.2.word)
  let mask := eSlots l.enta
  let fc := s5.frameChannels l.strCtl words (outs.map (fun o => o.2.st.u))
  let chans := fc.1
  let suspect := l.suspect || s.phs.failed
  let settle := l.settle || s.phs.restart &&& mask != 0
  let ovr := l.clip || outs.any (fun o => o.2.limit) || fc.2.2.1 || words.any (fun w => decide (w.2.2 = 255))
  let s6 : State := cond (bit l.strCtl 31) (·.postFrame l gap (recFlags settle ovr suspect) chans) fc.2.2.2
  let s7 : State := s6.ringPut 0 (64 + l.port) l.tL (recFlags settle ovr suspect)
    (dasWords s.dev (64 + l.port) (l.frame % 2 ^ 32 * 2 ^ 32 + ofSigned 16 (s.residual l) * 2 ^ 16 + max 1 (fld l.strCtl 6 0) % 128 * 2 ^ 9)
      (fun c => (chans[c]?).map phWord))
  let cw : List PhW := coils.map (fun o => o.2.word)
  let s8 : State := cond (coilOn && l.frame % max 1 (s.f PHS_CTL 15 0) == 0)
    (·.postCoil l gap (recFlags (l.settle || l.settleCoil || s.phs.restartC &&& mask != 0)
      (l.clip || coils.any (fun o => o.2.limit) || cw.any (fun w => decide (w.2.2 = 255))) suspect) cw) s7
  let s9 : State := if l.single then s8 else s8.pushFrame l.frame settle suspect l.tL (s.residual l) fc.2.1
  let s10 : State := s9.checkFrame l z delta
  cond (s10.str.flush && s10.lch.frames.all (fun f => s10.str.next.isSome && f.run == s10.lch.runs)) State.strFlush s10

/-- FRAME_PUBLISH: with the ADC samples come since the last ones, the oldest frame leaves the combine stage once its last sample has come; it is
unwrapped, decimated, published and streamed (R102, R104 to R107, R122 to R132, R174, R179). -/
def State.framePublish (s0 : State) (xs : List Adc) : State :=
  let s := s0.take xs
  match s.nextFrame with
  | none => s
  | some l =>
    if s.lch.tails.any (fun (x : Launch) => x.n == l.n) then s
    else
      let p := (s.frameTaken l).pairHalves l (s.compressed l)
      let c := p.2.combine l p.1
      let last := (s.phs.lastFrame.find? (fun x => x.1 == l.port)).map (·.2)
      let delta := match last with | some f => if l.frame ≤ f then 1 else l.frame - f | none => 1
      let gap := match last with | some f => decide (f + 1 < l.frame) | none => false
      let limit : Int := (l.range : Int) - (l.tail : Int)
      let outs := phaseWords s.phCfg s.phs.pos l.fresh c.1 l.gauge delta 0 l.range limit
      let coilOn := s.b PHS_CTL 31
      let coils : List (Nat × PhOut) := if coilOn then phaseWords s.phCfg s.phs.coil l.fresh c.1 l.gauge delta (-612) 612 limit else []
      (c.2.frameKept l coilOn outs coils).frameOut s l coilOn gap delta c.1 outs coils

/-! The sentinel check (R134, R135). -/

/-- Aexp in mrad, of the LCH.SENT in force. -/
def State.sentExp (s : State) : Rat :=
  if !bit s.lch.sent 31 then 0
  else ((fld s.lch.sent 15 8 * 10 : Nat) : Rat) * (if bit s.lch.sent 30 then 4 / piR else 1)

/-- What remains of the kept phases when their least-squares straight line against t_L is removed. -/
def lineRemoved (l : List ChkFrame) : List Rat :=
  let n : Rat := ((l.length : Nat) : Rat)
  let tm := (l.map (fun k => ((k.t : Nat) : Rat))).foldl (· + ·) 0 / n
  let pm := (l.map (fun k => (k.phi : Rat))).foldl (· + ·) 0 / n
  let d (k : ChkFrame) : Rat := ((k.t : Nat) : Rat) - tm
  let den : Rat := (l.map (fun k => d k * d k)).foldl (· + ·) 0
  let slope : Rat := if den = 0 then 0 else (l.map (fun k => d k * ((k.phi : Rat) - pm))).foldl (· + ·) 0 / den
  l.map (fun k => (k.phi : Rat) - pm - slope * d k)

/-- I + jQ of the kept frames, in units of 2^-16 rad. -/
def State.sentVector (s : State) (l : List ChkFrame) : Cx :=
  let th (k : ChkFrame) : Cx := cisTurn (((k.hz * (k.t + (s.csrRaw LCH_ZDLY).toNat) : Nat) : Rat) / ((psPerSec : Nat) : Rat))
  let sum := (List.zipWith (fun k r => Cx.scale r ⟨(th k).im, (th k).re⟩) l (lineRemoved l)).foldl Cx.add Cx.zero
  Cx.scale (2 / ((l.length : Nat) : Rat)) sum

/-- A in mrad and psi in units of 2^-16 rad of a window; free numbers where no frame was kept. -/
def State.sentMeasure (s : State) (kept : List ChkFrame) : (Rat × Int) × State :=
  if kept.isEmpty then
    let a := s.free
    let b := a.2.free
    ((((a.1 % 4096 : Nat) : Rat), ((b.1 % 205887 : Nat) : Int)), b.2)
  else
    let v := s.sentVector kept
    ((sqrtR (Cx.normSq v) * 1000 / 65536, argR v), s)

/-- The verdicts of a window: all but the level, and the level. `seen` frames, of which those of the list are kept; `a` in mrad, `psi` in 2^-16 rad. -/
def State.sentPass (s : State) (tol : Word) (seen : Nat) (kept : List ChkFrame) (a : Rat) (psi : Int) : Bool × Bool :=
  let ae := s.sentExp
  let dev := if ae ≤ a then a - ae else ae - a
  let w := kept.length
  let lv := kept.foldl (fun t (k : ChkFrame) => t + k.lv) 0
  (decide (seen ≤ 2 * w)
   && decide (dev ≤ ((fld tol 15 8 : Nat) : Rat) * ae / 100 + 20)
   && (decide (ae < 100) || decide (psi.natAbs * 1000 ≤ fld tol 7 0 * 10 * 65536)),
   decide (lv.natAbs ≤ fld tol 23 16 * 584 * w))

/-- A frame of the sentinel window that ends at an instant is still under way. -/
def State.sentAwaits (s : State) (fin : Nat) : Bool :=
  (s.lch.wins ++ s.lch.frames).any (fun (l : Launch) => !l.fib && !(l.temp && bit l.plan 26) && decide (l.tL < fin))

/-- SENTINEL_WINDOW_END: once the frames of the window have been taken they give A, psi and the coil level, and the verdict; a window that lies wholly
in times of EN 0 gives none (R134, R135, R137). -/
def State.sentinelEnd (s : State) : State :=
  let len := sentWinOf s.phs.sentChk * ms
  if !s.lch.ran || decide (s.time < s.phs.winAt + len) || s.sentAwaits (s.phs.winAt + len) then s
  else
    let next (st : State) : State := { st with phs := { st.phs with winAt := s.phs.winAt + len, taken := st.phs.taken.filter (fun (k : ChkFrame) => decide (s.phs.winAt + len ≤ k.t)) } }
    if !bit s.phs.sentChk 31 || decide (s.phs.winAt + len ≤ s.phs.sentOn) then next s
    else if !s.sentRuns s.str.period (sentWinOf s.phs.sentChk) then next (s.setB PHS_SENTFLG 0 true)
    else
      let seen := s.phs.taken.filter (fun (k : ChkFrame) => decide (s.phs.winAt ≤ k.t) && decide (k.t < s.phs.winAt + len))
      let kept := seen.filter ChkFrame.ok
      let m := s.sentMeasure kept
      let (p, lvl) := s.sentPass ((seen.getLast?.map (·.tol)).getD s.phs.sentTol) seen.length kept m.1.1 m.1.2
      let ok := p && lvl
      let psi := ratAway (((m.1.2 : Int) : Rat) * 500 / 65536)
      let s1 := m.2.result PHS_SENTRES PHS_SENTFLG (min 4095 (ratAway m.1.1).toNat * 2 ^ 12 + ofSigned 12 psi) ((if ok then 0 else 4) + (if lvl then 0 else 2))
      let s2 := (s1.setB PHS_STAT 29 (!ok)).suspectSrc 1 (!ok)
      let s3 := { s2 with phs := { s2.phs with failed := !ok } }
      next (cond (!ok) (·.alarm 1 PHS_SENTFLG 2 (64 + s.lch.port) (chanId s.dev (64 + s.lch.port) 0)) s3)

/-! Registers with a rule of their own. -/

/-- PHS.GAUGE: LEN outside 2 to 256 changes nothing and sets CFGERR; a change restarts the unwrapping (R121, R125, R132). -/
def State.writeGauge (s : State) (v : Word) : State :=
  let n := fld v 8 0
  if n < 2 ∨ 256 < n then s.setB PHS_STAT 31 true
  else
    let s1 := s.writeReg PHS_GAUGE v
    if n = s.f PHS_GAUGE 8 0 then s1
    else
      let s2 := s1.settleAll 2
      { s2 with lch := { s2.lch with freshNext := true } }

/-- PHS.GIDX: outside 1,400,000 to 1,500,000 nothing changes and CFGERR is set (R137). -/
def State.writeGidx (s : State) (v : Word) : State :=
  if fld v 20 0 < 1400000 ∨ 1500000 < fld v 20 0 then s.setB PHS_STAT 31 true else s.writeReg PHS_GIDX v

/-- PHS.XI: 0 is refused with CFGERR (R127). -/
def State.writeXi (s : State) (v : Word) : State :=
  if fld v 15 0 = 0 then s.setB PHS_STAT 31 true else s.writeReg PHS_XI v

end Sys2Proof.Machine
end

