-- ==== Sys2Proof/Machine/Vec.lean ====
section
/-! DEFINITION. The vector engine: jobs, their checks and transfers, and the SV instructions (R154 to R171). -/

namespace Sys2Proof.Machine

open Csr

/-! Elements and rounding (R155, R165). -/

/-- The value of a stored element. -/
def elemLane (e : Nat) : Lane := (toSigned 18 (nfld e 17 0), toSigned 18 (nfld e 49 32))

/-- The stored form of a value: each part sign-extended to 32 bits. -/
def elemOf (l : Lane) : Nat := ofSigned 32 l.1 + ofSigned 32 l.2 * 2 ^ 32

/-- rnd(x >> s): a tie rounds towards plus infinity. -/
def rnd (x : Int) (s : Nat) : Int := if s = 0 then x else (x + 2 ^ (s - 1)) / 2 ^ s

/-- Saturation of a part to `w` bits and whether it limited. -/
def satPart (w : Nat) (x : Int) : Int × Bool := (satZ w x, satZ w x != x)

/-- Saturation of both parts. -/
def satLane (w : Nat) (l : Lane) : Lane × Bool := ((satZ w l.1, satZ w l.2), satZ w l.1 != l.1 || satZ w l.2 != l.2)

def laneAdd (a b : Lane) : Lane := (a.1 + b.1, a.2 + b.2)
def laneSub (a b : Lane) : Lane := (a.1 - b.1, a.2 - b.2)
def laneMul (a b : Lane) : Lane := (a.1 * b.1 - a.2 * b.2, a.1 * b.2 + a.2 * b.1)
def laneConj (c : Bool) (b : Lane) : Lane := if c then (b.1, -b.2) else b
def laneRnd (a : Lane) (s : Nat) : Lane := (rnd a.1 s, rnd a.2 s)
def laneMag (a : Lane) : Nat := max a.1.natAbs a.2.natAbs

/-- The low `n` bits of a number in reverse order. -/
def bitrev : Nat → Nat → Nat
  | 0, _ => 0
  | n + 1, x => (x % 2) * 2 ^ n + bitrev n (x / 2)

/-- address(x) of R165. -/
def brAddr (n x : Nat) : Nat := if n = 0 then x else x - x % 2 ^ n + bitrev n (x % 2 ^ n)

/-! The memories (R154, R160). -/

/-- Elements of memory 0 X, 1 Y, 2 Z. -/
def vecSize (m : Nat) : Nat := if m = 2 then 16384 else 65536

/-- First element of the DTS reservation. -/
def vecReserve (m : Nat) : Nat := if m = 2 then 12288 else 57344

/-- An element may be used by a job with or without the reservation in its view. -/
def vecElemOk (dtsres : Bool) (m e : Nat) : Bool := decide (e < (if dtsres then vecReserve m else vecSize m))

/-- An element of a memory; a reserved one that the DTS function has worked in and no job has stored to since holds a free value (R160,
notes/assumptions/55.md). -/
def VecSt.get (v : VecSt) (m e : Nat) : Nat :=
  if v.dtsMark ≠ 0 ∧ vecReserve m ≤ e ∧ !v.own.contains (m, e) then Config.dtsElem v.dtsMark m e % 2 ^ 64
  else (spGet (match m with | 0 => v.x | 1 => v.y | _ => v.z) e).getD 0

/-- A memory with an element stored; a full write makes valid ECC. -/
def VecSt.put (v : VecSt) (m e x : Nat) : VecSt :=
  let o := if x = 0 then none else some x
  let v' := { v with bad := v.bad.filter (· != (m, e)), own := if v.dtsMark ≠ 0 ∧ vecReserve m ≤ e then (m, e) :: v.own.erase (m, e) else v.own }
  match m with
  | 0 => { v' with x := spPut v'.x e o }
  | 1 => { v' with y := spPut v'.y e o }
  | _ => { v' with z := spPut v'.z e o }

/-! Jobs (R157 to R159). -/

/-- A transfer of a job block: FORM, MEM, PADDR, COUNT, ELEM, and its reserved bits. -/
structure Xfer where
  form : Nat
  mem : Nat
  paddr : Nat
  count : Nat
  elem : Nat
  res : Nat
  deriving DecidableEq, Repr

/-- Transfer `t` of a block. -/
def xferOf (b : List Nat) (t : Nat) : Xfer :=
  let a := nth b (7 + 2 * t) 0
  let c := nth b (8 + 2 * t) 0
  { form := nfld a 51 50, mem := nfld a 49 48, paddr := nfld a 39 0, count := nfld c 48 32, elem := nfld c 15 0,
    res := nfld a 63 52 + nfld a 47 40 + nfld c 63 49 + nfld c 31 16 }

/-- Bytes of one element in memory. -/
def Xfer.bytes (x : Xfer) : Nat := if x.form = 1 then 4 else 8

/-- NIN and NOUT of a block. -/
def blockNin (b : List Nat) : Nat := nfld (nth b 1 0) 31 28
def blockNout (b : List Nat) : Nat := nfld (nth b 1 0) 27 24

/-- The first check of R158: the format. -/
def jobFormatOk (e : Entry) (b : List Nat) : Bool :=
  let n := blockNin b + blockNout b
  let xs := (List.range n).map (xferOf b)
  e.length == 8 * (7 + 2 * n) && decide (1 ≤ nfld (nth b 0 0) 63 48) && decide (nfld (nth b 0 0) 63 48 ≤ 16384)
  && decide (blockNin b ≤ 8) && decide (blockNout b ≤ 8) && nfld (nth b 0 0) 47 40 == 0 && nfld (nth b 1 0) 23 0 == 0
  && xs.all (fun x => x.res == 0 && x.mem != 3)
  && (xs.drop (blockNin b)).all (fun x => x.mem != 2 && decide (x.form < 2))

/-- The second check of R158: the ranges. -/
def jobRangeOk (dtsres : Bool) (b : List Nat) : Bool :=
  let k := nfld (nth b 0 0) 39 0
  let xs := (List.range (blockNin b + blockNout b)).map (xferOf b)
  k % 4 == 0 && inSram k (4 * nfld (nth b 0 0) 63 48)
  && xs.all (fun x => x.paddr % x.bytes == 0 && inMem x.paddr (x.count * x.bytes) && decide (1 ≤ x.count) && decide (x.count ≤ 65536)
                      && vecElemOk dtsres x.mem (x.elem + x.count - 1))

/-- The stored element that an input of a form brings (R157). -/
def xferIn (form w : Nat) : Nat :=
  let pair (p : Nat) : Nat := elemOf (4 * toSigned 16 (nfld p 15 0), 4 * toSigned 16 (nfld p 31 16))
  match form with
  | 0 => w
  | 3 => pair (nfld w 63 32)
  | _ => pair (nfld w 31 0)

/-- An input transfer. -/
def State.xferLoad (s : State) (x : Xfer) : State :=
  let v := (List.range x.count).foldl (fun v i => v.put x.mem (x.elem + i) (xferIn x.form (Memory.readN s.mem (x.paddr + i * x.bytes) x.bytes))) s.vec
  let s1 := { s with vec := v }
  s1.engineRead x.paddr (x.count * x.bytes)

/-- The elements of an output up to the first with an uncorrectable error. -/
def State.xferGood (s : State) (x : Xfer) : Nat := ((List.range x.count).find? (fun i => s.vec.bad.contains (x.mem, x.elem + i))).getD x.count

/-- An output transfer, up to an element in error: FORM 1 stores each part rounded from bits [17:2] and saturated. -/
def State.xferStore (s : State) (x : Xfer) : State :=
  (List.range (s.xferGood x)).foldl (fun st i =>
    let e := s.vec.get x.mem (x.elem + i)
    let a := x.paddr + i * x.bytes
    if x.form = 1 then
      let l := elemLane e
      { st with mem := Memory.writeN st.mem a 4 (ofSigned 16 (satZ 16 (rnd l.1 2)) + ofSigned 16 (satZ 16 (rnd l.2 2)) * 2 ^ 16) }
    else st.putWords a [e]) s

/-- The outputs in the order listed; an uncorrectable error in X or Y ends them, with ECC (R159, Table VEC-3). -/
def State.outputs (s : State) : List Xfer → Nat × State
  | [] => (0, s)
  | x :: xs => if s.xferGood x = x.count then (s.xferStore x).outputs xs else (3, s.xferStore x)

/-- The status of a cause (Table VEC-3). -/
def causeStatus (c : Nat) : Nat := if c = 0 then 0 else if c = 2 then 2 else 7

/-- The result entry of a job goes to Q118 or Q119, and VEC.JOBS counts (R159). -/
def State.jobResult (s : State) (q : Nat) (e : Entry) (status : Nat) : State :=
  (s.incMod VEC_JOBS).publishEntry (q + 2) 4 { e with status := status, type := 0 }

/-- The state of a job that has passed its checks, its inputs in place. -/
def newJob (q : Nat) (e : Entry) (b : List Nat) (dtsres : Bool) (jobmax : Nat) : VecJob :=
  let z : Vector Lane 16 := Vector.replicate 16 (0, 0)
  let k := nfld (nth b 0 0) 39 0
  { q := q, entry := e, block := b, dtsres := dtsres, limit := if nfld (nth b 1 0) 63 32 = 0 then max 1 jobmax else nfld (nth b 1 0) 63 32,
    kaddr := k, klen := nfld (nth b 0 0) 63 48, pc := k,
    w := Vector.ofFn (fun i => if i.val < 4 then BitVec.ofNat 64 (nth b (2 + i.val) 0) else 0),
    v := Vector.replicate 16 z, acc := Vector.replicate 4 z, peak := 0, shift := 0,
    ext := Vector.replicate 16 { mxv := -(2 ^ 48), mxi := 0xFFFFFFFF, mnv := 2 ^ 48, mni := 0xFFFFFFFF },
    satcnt := 0, loops := [], cyc := 12, fill := 0, slot := 0, vrdy := Vector.replicate 16 0, srdy := Vector.replicate 16 0, bfrdy := 0, mxrdy := 0,
    strdy := [], ended := none }

/-- VEC_JOB_START: at a job boundary, with EN 1 and no DTS work waiting, the next job of Q116, then Q117, is taken and checked;
one that passes is loaded, and one that fails is answered (R158 to R160, R171). A block that does not lie in memory cannot be read: its entry is
refused with E_RANGE (R22). -/
def State.vecStart (s : State) : State :=
  if s.vec.job.isSome || !s.b VEC_CTL 31 || !s.dts.staged.isEmpty || s.onSafe 4 || s.stopped 5 then s
  else
    let q := if s.qReady 116 then 116 else 117
    if !s.qReady q then s
    else
      let e := s.qEntry q (s.qHead q)
      let s1 := s.dequeue q
      let b := s.words64 e.addr (e.length / 8)
      let res := s.b DTS_CTL 31
      if !inMem e.addr e.length then s1.jobResult q e 2
      else if !jobFormatOk e b then s1.jobResult q e 9
      else if !jobRangeOk res b then (s1.putWords (e.addr + 48) [0]).jobResult q e 2
      else
        let s2 := ((List.range (blockNin b)).map (xferOf b)).foldl State.xferLoad s1
        { s2 with vec := { s2.vec with job := some (newJob q e b res (s.csrRaw VEC_JOBMAX).toNat) } }

/-- VEC_JOB_DONE: the kernel has ended; its outputs are transferred after vdone with code 0, word 6 is written and the result is
published (R159, R162). `cycles` counts what the transfers took. -/
def State.vecDone (s : State) (cycles : Nat) : State :=
  match s.vec.job with
  | none => s
  | some j =>
    match j.ended with
    | none => s
    | some (cause, code) =>
      if s.stopped 5 then s else
      let outs := ((List.range (blockNout j.block)).map (fun t => xferOf j.block (blockNin j.block + t)))
      let r := if cause = 0 ∧ code = 0 then s.outputs outs else (if cause = 0 then 7 else cause, s)
      let s1 := r.2
      let cause' := r.1
      let s2 := s1.putWords (j.entry.addr + 48) [min (2 ^ 32 - 1) j.cyc * 2 ^ 32 + min 65535 j.satcnt * 2 ^ 16 + cause' * 2 ^ 8 + code]
      let s3 := (s2.setPair VEC_BUSY_LO (s2.pair VEC_BUSY_LO + j.cyc + cycles)).setF VEC_STAT 23 16 cause'
      let s4 := cond (decide (cause' = 3)) (·.incF VEC_ECC 15 0) (cond (decide (cause' ≠ 0)) (·.setB VEC_STAT 28 true) s3)
      ({ s4 with vec := { s4.vec with job := none, freeAt := s.up } }).jobResult j.q j.entry (causeStatus cause')

/-- A fault ends the kernel; the faulting instruction has no effect (R162). -/
def State.vecFault (s : State) (cause : Nat) : State :=
  match s.vec.job with
  | none => s
  | some j => if j.ended.isSome then s else { s with vec := { s.vec with job := some { j with cyc := min j.limit (j.cyc + j.fill), fill := 0, ended := some (cause, 0) } } }

/-- VEC_CYCLE_LIMIT: the kernel has reached its limit; before that nothing happens (R162). -/
def State.vecLimit (s : State) : State :=
  match s.vec.job with
  | none => s
  | some j => if j.ended.isSome || decide (j.cyc + j.fill < j.limit) then s else { s with vec := { s.vec with job := some { j with cyc := j.limit, fill := 0, ended := some (5, 0) } } }

/-- A DTS job runs: a launch is staged and the engine has taken it up (R160, R171). -/
def State.dtsRuns (s : State) : Bool := s.vec.job.isNone && !s.dts.staged.isEmpty && (s.b VEC_CTL 31 || s.vec.dtsRun)

/-- VEC.CTL: EN, and ABORT, which ends the running job; a DTS job that runs when EN falls completes, and the engine takes up work again when EN
rises (R162, R171). -/
def State.writeVecCtl (s : State) (v : Word) : State :=
  let s1 : State := { s with vec := { s.vec with freeAt := if s.b VEC_CTL 31 || s.dtsRuns then s.vec.freeAt else s.up, dtsRun := s.dtsRuns && !bit v 31 } }
  cond (bit v 30) (·.vecFault 6) (s1.writeReg VEC_CTL v)

/-! Issue (R168 to R170). -/

/-- A scalar register; w0 reads 0. -/
def VecJob.reg (j : VecJob) (i : Nat) : DWord := if i = 0 then 0 else vget j.w (i - 1) 0

/-- A scalar register written; w0 discards the write. -/
def VecJob.setReg (j : VecJob) (i : Nat) (x : DWord) : VecJob := if i = 0 then j else { j with w := vmod j.w (i - 1) (fun _ => x) }

/-- A vector register, and one written. -/
def VecJob.vreg (j : VecJob) (i : Nat) : Vector Lane 16 := vget j.v i (Vector.replicate 16 (0, 0))
def VecJob.setVreg (j : VecJob) (i : Nat) (x : Vector Lane 16) : VecJob := { j with v := vmod j.v i (fun _ => x) }

/-- An accumulator, and one written. -/
def VecJob.accr (j : VecJob) (i : Nat) : Vector Lane 16 := vget j.acc i (Vector.replicate 16 (0, 0))
def VecJob.setAcc (j : VecJob) (i : Nat) (x : Vector Lane 16) : VecJob := { j with acc := vmod j.acc i (fun _ => x) }

/-- Is the body of a loop resident in the cache? -/
def VecJob.resident (j : VecJob) : Bool := j.loops.any (·.again)

/-- An instruction issues no earlier than the slot given and takes `count` cycles; the wait is stall cycles (R168, R170). -/
def VecJob.issue (j : VecJob) (need count : Nat) : VecJob :=
  let stall := need - j.slot
  { j with slot := j.slot + stall + count, cyc := j.cyc + stall + (if j.resident then 1 else 2) + (count - 1) }

/-- The program counter after an instruction at the end of which loops may turn round or end, and the cycles that adds. -/
def VecJob.loopEnd : List VLoop → Nat → Nat → List VLoop × Nat × Nat
  | [], next, fill => ([], next, fill)
  | l :: rest, next, fill =>
    if next = l.last then
      if 1 < l.left then ({ l with left := l.left - 1, again := true } :: rest, l.first, fill)
      else VecJob.loopEnd rest next (fill + 12)
    else (l :: rest, next, fill)

/-- The kernel goes on with the next instruction. -/
def VecJob.next (j : VecJob) : VecJob :=
  let r := VecJob.loopEnd j.loops (j.pc + 4) 0
  { j with loops := r.1, pc := r.2.1, fill := r.2.2 }

/-- A taken branch or jump to a target inside the kernel ends every loop it leaves; `all` ends every loop. -/
def VecJob.goto (j : VecJob) (t : Nat) (all : Bool) : VecJob :=
  let keep := if all then [] else j.loops.dropWhile (fun l => decide (t < l.first) || decide (l.last ≤ t))
  let j' := { j with loops := keep, pc := t }
  { j' with fill := if j'.resident then 1 else 12 }

/-- A target lies in the kernel (Table VEC-3). -/
def VecJob.targetOk (j : VecJob) (t : Int) : Bool :=
  decide ((j.kaddr : Int) ≤ t) && decide (t < (j.kaddr + 4 * j.klen : Nat)) && decide (t % 4 = 0)

/-- What an SV instruction does to its job and the memories, or the cause it faults with. -/
abbrev SvOut := Except Nat (VecJob × VecSt)

/-- The kernel issues an instruction: a fall-through past the end, an error in its word, a fault, or the limit reached before its last cycle stops
it; a body that issues from the loop cache fetches nothing (R170); saturation is counted once (R162, R165). -/
def State.svStep (s : State) (f : VecJob → VecSt → SvOut) : State :=
  match s.vec.job with
  | none => s
  | some j0 =>
    let j := { j0 with cyc := j0.cyc + j0.fill, fill := 0 }
    if j.ended.isSome || s.onSafe 4 then s
    else if j.limit ≤ j.cyc then s.vecLimit
    else if j.kaddr + 4 * j.klen ≤ j.pc then s.vecFault 4
    else if !j.resident && s.poisoned j.pc 4 then s.vecFault 3
    else match f j s.vec with
    | .error c => s.vecFault c
    | .ok (j', v') =>
      if j.limit < j'.cyc then { s with vec := { s.vec with job := some { j with cyc := j.limit, ended := some (5, 0) } } } else
      let s1 := { s with vec := { v' with job := some j' } }
      cond (decide (j.satcnt < j'.satcnt)) (·.setB VEC_STAT 29 true) s1

/-- SATCNT counts a limiting event. -/
def VecJob.sat (j : VecJob) (b : Bool) : VecJob := if b then { j with satcnt := j.satcnt + 1 } else j

/-- The slot at which some vector and scalar registers are ready. -/
def VecJob.ready (j : VecJob) (vs ws : List Nat) : Nat :=
  max (vs.foldl (fun m i => max m (vget j.vrdy i 0)) 0) (ws.foldl (fun m i => max m (vget j.srdy i 0)) 0)

/-- Registers that a vector instruction produces become ready two slots after its issue; w0 holds no result (R163, Table VEC-6). -/
def VecJob.made (j : VecJob) (vs ws : List Nat) : VecJob :=
  { j with vrdy := vs.foldl (fun r i => vmod r i (fun _ => j.slot + 1)) j.vrdy, srdy := (ws.filter (· != 0)).foldl (fun r i => vmod r i (fun _ => j.slot + 1)) j.srdy }

/-! Vector loads and stores (R164). -/

/-- Lane numbers. -/
def lanes : List Nat := List.range 16

/-- The lanes of a list. -/
def ofLanes (l : List Lane) : Vector Lane 16 := Vector.ofFn (fun i => nth l i.val (0, 0))

/-- The elements that a load or store touches. -/
def vlAddrs (wa wb : DWord) (br : Nat) : List Nat := lanes.map (fun l => brAddr br ((wa.toNat + l * wb.toNat) % 2 ^ 64))

/-- The slot at which the elements of a memory may be read after a store. -/
def VecJob.stReady (j : VecJob) (m : Nat) (es : List Nat) : Nat :=
  j.strdy.foldl (fun n x => if x.1.1 = m ∧ es.contains x.1.2 then max n x.2 else n) 0

/-- Elements read: out of range, in error, or their values. -/
def VecSt.fetch (v : VecSt) (dtsres : Bool) (m : Nat) (es : List Nat) : Except Nat (List Lane) :=
  if !es.all (vecElemOk dtsres m) then .error 2
  else if es.any (fun e => v.bad.contains (m, e)) then .error 3
  else .ok (es.map (fun e => elemLane (v.get m e)))

/-- vld. -/
def svVld (d a b m : Nat) (pi : Bool) (br : Nat) (j : VecJob) (v : VecSt) : SvOut :=
  if m = 3 ∨ 16 < br then .error 1
  else
    let es := vlAddrs (j.reg a) (j.reg b) br
    match v.fetch j.dtsres m es with
    | .error c => .error c
    | .ok ls =>
      let j1 := ((j.issue (max (j.ready [] [a, b]) (j.stReady m es)) 1).setVreg d (ofLanes ls)).made [d] []
      .ok ((if pi then j1.setReg a (j.reg a + 16 * j.reg b) else j1).next, v)

/-- vst: the last lane that names an element wins. -/
def svVst (d a b m : Nat) (pi : Bool) (br : Nat) (j : VecJob) (v : VecSt) : SvOut :=
  if 2 ≤ m ∨ 16 < br then .error 1
  else
    let es := vlAddrs (j.reg a) (j.reg b) br
    if !es.all (vecElemOk j.dtsres m) then .error 2
    else
      let src := (j.vreg d).toList
      let v' := (es.zip src).foldl (fun st es => st.put m es.1 (elemOf es.2)) v
      let j1 := j.issue (j.ready [d] [a, b]) 1
      let j2 := { j1 with strdy := es.map (fun e => ((m, e), j1.slot + 2)) ++ j1.strdy.filter (fun (x : (Nat × Nat) × Nat) => decide (j1.slot < x.2)) }
      .ok ((if pi then j2.setReg a (j.reg a + 16 * j.reg b) else j2).next, v')

/-- A part of vlw; beyond 18 bits Table VEC-5 states no value (notes/assumptions/21.md). -/
def vlwPart (x : Int) : Int := if satZ 18 x = x then x else (Config.vlwOver x).toInt

/-- vlw. -/
def svVlw (d a b m : Nat) (pi : Bool) (br : Nat) (j : VecJob) (v : VecSt) : SvOut :=
  if m = 3 ∨ br ≠ 0 then .error 1
  else
    let es := vlAddrs (j.reg a) 1 0
    let zs := vlAddrs (j.reg b) 1 0
    match v.fetch j.dtsres m es, v.fetch j.dtsres 2 zs with
    | .ok xs, .ok ws =>
      let r := (xs.zip ws).map (fun p => let y := laneRnd (laneMul p.1 p.2) 17; (vlwPart y.1, vlwPart y.2))
      let j1 := ((j.issue (max (j.ready [] [a, b]) (j.stReady m es)) 1).setVreg d (ofLanes r)).made [d] []
      let j2 := if pi then (let k := j1.setReg a (j1.reg a + 16); k.setReg b (k.reg b + 16)) else j1
      .ok (j2.next, v)
    | .error c, _ => .error c
    | _, .error c => .error c

/-! Lane arithmetic (R164 to R166). -/

/-- A lane-wise result written to vd. -/
def svLanes (j : VecJob) (v : VecSt) (d : Nat) (vs ws : List Nat) (r : List (Lane × Bool)) : SvOut :=
  .ok (((((j.issue (j.ready vs ws) 1).setVreg d (ofLanes (r.map (·.1)))).made [d] []).sat (r.any (·.2))).next, v)

/-- Lane `l` of a register. -/
def VecJob.lane (j : VecJob) (i l : Nat) : Lane := vget (j.vreg i) l (0, 0)

/-- vadd and vsub. -/
def svAddSub (sub : Bool) (d a b m : Nat) (j : VecJob) (v : VecSt) : SvOut :=
  if 2 ≤ m then .error 1
  else svLanes j v d [a, b] [] (lanes.map (fun l =>
    satLane 18 (laneRnd ((if sub then laneSub else laneAdd) (j.lane a l) (j.lane b l)) (m % 2))))

/-- vmul. -/
def svMul (d a b m : Nat) (j : VecJob) (v : VecSt) : SvOut :=
  if 128 ≤ m ∨ 35 < m % 64 then .error 1
  else svLanes j v d [a, b] [] (lanes.map (fun l =>
    satLane 18 (laneRnd (laneMul (j.lane a l) (laneConj (m.testBit 6) (j.lane b l))) (m % 64))))

/-- A new accumulator value. -/
def svAcc (j : VecJob) (v : VecSt) (d : Nat) (vs : List Nat) (r : List (Lane × Bool)) : SvOut :=
  .ok ((((j.issue (j.ready vs []) 1).setAcc d (ofLanes (r.map (·.1)))).sat (r.any (·.2))).next, v)

/-- Lane `l` of an accumulator. -/
def VecJob.accLane (j : VecJob) (i l : Nat) : Lane := vget (j.accr i) l (0, 0)

/-- vmac and vmsu. -/
def svMac (sub : Bool) (d a b m : Nat) (j : VecJob) (v : VecSt) : SvOut :=
  if 4 ≤ d ∨ (m ≠ 0 ∧ m ≠ 64) then .error 1
  else svAcc j v d [a, b] (lanes.map (fun l =>
    satLane 48 ((if sub then laneSub else laneAdd) (j.accLane d l) (laneMul (j.lane a l) (laneConj (m.testBit 6) (j.lane b l))))))

/-- The squared magnitude of a lane. -/
def lanePow (a : Lane) : Int := a.1 * a.1 + a.2 * a.2

/-- vpwr. -/
def svPwr (d a b m : Nat) (j : VecJob) (v : VecSt) : SvOut :=
  if 4 ≤ d ∨ 2 ≤ m then .error 1
  else svAcc j v d [a, b] (lanes.map (fun l =>
    let o := j.accLane d l
    let r := satPart 48 (o.1 + lanePow (j.lane a l) + (if m = 1 then 0 else lanePow (j.lane b l)))
    ((r.1, o.2), r.2)))

/-- vclr. -/
def svClr (d m : Nat) (j : VecJob) (v : VecSt) : SvOut :=
  if 4 ≤ d ∨ m ≠ 0 then .error 1 else svAcc j v d [] (lanes.map (fun _ => ((0, 0), false)))

/-- vrd. -/
def svRd (d a m : Nat) (j : VecJob) (v : VecSt) : SvOut :=
  if 4 ≤ a ∨ 47 < m then .error 1
  else svLanes j v d [] [] (lanes.map (fun l => satLane 18 (laneRnd (j.accLane a l) m)))

/-- The block-floating shift that M[7:6] selects. -/
def VecJob.bfShift (j : VecJob) (m : Nat) : Nat := if m / 64 = 3 then j.shift else m / 64

/-- M of a butterfly is well formed: bit 4 unused, and with NT 1 the twiddle field unused. -/
def bfOk (m : Nat) : Bool := !m.testBit 4 && (!m.testBit 5 || m % 16 == 0)

/-- A twiddled difference, or a plain one with NT. -/
def bfDiff (j : VecJob) (m l : Nat) (x : Lane) : Lane × Bool :=
  satLane 18 (if m.testBit 5 then laneRnd x (j.bfShift m) else laneRnd (laneMul x (j.lane (m % 16) l)) (17 + j.bfShift m))

/-- PEAK takes the parts of some lanes. -/
def VecJob.peaked (j : VecJob) (ls : List Lane) : VecJob := { j with peak := ls.foldl (fun p l => max p (laneMag l)) j.peak }

/-- vbf. -/
def svBf (d a b m : Nat) (j : VecJob) (v : VecSt) : SvOut :=
  if !bfOk m ∨ d % 2 = 1 then .error 1
  else
    let sums : List (Lane × Bool) := lanes.map (fun l => satLane 18 (laneRnd (laneAdd (j.lane a l) (j.lane b l)) (j.bfShift m)))
    let difs : List (Lane × Bool) := lanes.map (fun l => bfDiff j m l (laneSub (j.lane a l) (j.lane b l)))
    let tw := if m.testBit 5 then [] else [m % 16]
    let j1 := j.issue (j.ready ([a, b] ++ tw) []) 1
    let j2 := (((j1.setVreg d (ofLanes (sums.map (·.1)))).setVreg (d + 1) (ofLanes (difs.map (·.1)))).made [d, d + 1] []).sat ((sums ++ difs).any (fun (p : Lane × Bool) => p.2))
    .ok (({ j2.peaked ((sums ++ difs).map (fun (p : Lane × Bool) => p.1)) with bfrdy := j1.slot + 2 }).next, v)

/-- vbfx. -/
def svBfx (d a b m : Nat) (j : VecJob) (v : VecSt) : SvOut :=
  let span := (j.reg b).toNat
  if !bfOk m ∨ !([1, 2, 4, 8].contains span) then .error 1
  else
    let r : List (Lane × Bool) := lanes.map (fun l =>
      let x := j.lane a l
      let y := j.lane a (l ^^^ span)
      if l &&& span = 0 then satLane 18 (laneRnd (laneAdd x y) (j.bfShift m)) else bfDiff j m l (laneSub y x))
    let tw := if m.testBit 5 then [] else [m % 16]
    let j1 := j.issue (j.ready ([a] ++ tw) [b]) 1
    let j2 := ((j1.setVreg d (ofLanes (r.map (·.1)))).made [d] []).sat (r.any (fun (p : Lane × Bool) => p.2))
    .ok (({ j2.peaked (r.map (fun (p : Lane × Bool) => p.1)) with bfrdy := j1.slot + 2 }).next, v)

/-- vperm. -/
def svPerm (d a b m : Nat) (j : VecJob) (v : VecSt) : SvOut :=
  if 2 ≤ m then .error 1
  else
    let w := (j.reg b).toNat
    svLanes j v d [a] [b] (lanes.map (fun l => (j.lane a (if m = 0 then (l + w) % 16 else l ^^^ (w % 16)), false)))

/-- vsplat. -/
def svSplat (d a m : Nat) (j : VecJob) (v : VecSt) : SvOut :=
  if m ≠ 0 then .error 1 else svLanes j v d [] [a] (lanes.map (fun _ => (elemLane (j.reg a).toNat, false)))

/-- Redundant sign bits of an 18-bit part. -/
def redundant (x : Int) : Nat :=
  let y := if x < 0 then (-x - 1).toNat else x.toNat
  17 - (if y = 0 then 0 else Nat.log2 y + 1)

/-- vbexp. -/
def svBexp (d a m : Nat) (j : VecJob) (v : VecSt) : SvOut :=
  if m ≠ 0 then .error 1
  else
    let ls := (j.vreg a).toList
    let n := ls.foldl (fun n l => min n (min (redundant l.1) (redundant l.2))) 17
    let j1 := (((j.issue (j.ready [a] []) 1).peaked ls).setReg d (BitVec.ofNat 64 n)).made [] [d]
    .ok (({ j1 with bfrdy := j1.slot + 2 }).next, v)

/-- vstage. -/
def svStage (d m : Nat) (j : VecJob) (v : VecSt) : SvOut :=
  if m ≠ 0 then .error 1
  else
    let n := if j.peak < 2 ^ 15 then 0 else if j.peak < 2 ^ 16 then 1 else 2
    let j1 := (j.issue (max j.bfrdy (j.ready [] [d])) 1)
    .ok (((({ j1 with shift := n, peak := 0 }).setReg d (j.reg d + BitVec.ofNat 64 n)).made [] [d]).next, v)

/-- vsclr. -/
def svSclr (m : Nat) (j : VecJob) (v : VecSt) : SvOut :=
  if m ≠ 0 then .error 1
  else
    .ok (({ j.issue 0 1 with ext := Vector.replicate 16 { mxv := -(2 ^ 48), mxi := 0xFFFFFFFF, mnv := 2 ^ 48, mni := 0xFFFFFFFF } }).next, v)

/-- The value vmx and vmn form for a lane. -/
def VecJob.extVal (j : VecJob) (m a l : Nat) : Int :=
  match m with
  | 0 => (j.lane a l).1
  | 1 => lanePow (j.lane a l)
  | _ => (j.accLane a l).1

/-- vmx and vmn. -/
def svExt (mn : Bool) (a b m : Nat) (j : VecJob) (v : VecSt) : SvOut :=
  if 3 ≤ m ∨ (m = 2 ∧ 4 ≤ a) then .error 1
  else
    let w := (j.reg b).toNat
    let ext := j.ext.mapIdx (fun l x =>
      let y := j.extVal m a l
      let ix := (w + l) % 2 ^ 32
      if mn then (if y < x.mnv then { x with mnv := y, mni := ix } else x) else (if x.mxv < y then { x with mxv := y, mxi := ix } else x))
    let j1 := j.issue (j.ready (if m = 2 then [] else [a]) [b]) 1
    .ok (({ j1 with ext := ext, mxrdy := j1.slot + 2 }).next, v)

/-- vmxr and vmnr: the extreme over the lanes, the lowest index of those that hold it. -/
def svExtr (mn : Bool) (d a m : Nat) (j : VecJob) (v : VecSt) : SvOut :=
  if m ≠ 0 then .error 1
  else
    let l := j.ext.toList.map (fun x => if mn then (x.mnv, x.mni) else (x.mxv, x.mxi))
    let best := l.foldl (fun b x =>
      if (if mn then decide (x.1 < b.1) else decide (b.1 < x.1)) || (x.1 == b.1 && decide (x.2 < b.2)) then x else b) (l.headD (0, 0))
    let j1 := j.issue j.mxrdy 1
    .ok (((((j1.setReg d (BitVec.ofInt 64 best.1)).setReg a (BitVec.ofNat 64 best.2))).made [] [d, a]).next, v)

/-- vloop. -/
def svLoop (a : Nat) (n : Nat) (j : VecJob) (v : VecSt) : SvOut :=
  let last := j.pc + 4 + 4 * n
  if n = 0 ∨ 64 < n then .error 1
  else if 2 ≤ j.loops.length ∨ j.loops.any (fun l => decide (l.last < last)) then .error 1
  else
    let cnt := (j.reg a).toNat % 2 ^ 32
    let j1 := j.issue (j.ready [] [a]) 1
    if cnt = 0 then
      let r := VecJob.loopEnd j1.loops last 12
      .ok ({ j1 with loops := r.1, pc := r.2.1, fill := r.2.2 }, v)
    else .ok ({ j1 with loops := { first := j.pc + 4, last := last, left := cnt, again := false } :: j1.loops, pc := j.pc + 4 }, v)

/-- vdone: the kernel ends with a code. -/
def svDone (a : Nat) (j : VecJob) (v : VecSt) : SvOut :=
  .ok ({ j.issue (j.ready [] [a]) 1 with ended := some (0, (j.reg a).toNat % 256) }, v)

/-! Scalar instructions (R163). -/

/-- A scalar result of an arithmetic instruction. -/
def svSet (d : Nat) (x : DWord) (count : Nat) (need : Nat) (j : VecJob) (v : VecSt) : SvOut := .ok (((j.issue need count).setReg d x).next, v)

/-- A branch or jump of the kernel. -/
def svGo (t : Int) (all : Bool) (link : Option Nat) (count need : Nat) (j : VecJob) (v : VecSt) : SvOut :=
  if !j.targetOk t then .error 4
  else
    let j1 := j.issue need 1
    let j2 := match link with | some d => j1.setReg d (BitVec.ofNat 64 (j.pc + 4)) | none => j1
    .ok ({ j2.goto t.toNat all with slot := j1.slot + (count - 1) }, v)

/-- ldl and stl address X by byte. -/
def svLocal (st : Bool) (d a : Nat) (imm : BitVec 18) (j : VecJob) (v : VecSt) : SvOut :=
  let ad := (j.reg a + sext18 imm).toNat
  let e := ad / 8
  if ad % 8 ≠ 0 ∨ !vecElemOk j.dtsres 0 e then .error 2
  else if st then .ok ((j.issue (j.ready [] [a, d]) 1).next, v.put 0 e (j.reg d).toNat)
  else if v.bad.contains (0, e) then .error 3
  else svSet d (BitVec.ofNat 64 (v.get 0 e)) 2 (j.ready [] [a]) j v

/-- SV_SCALAR_INSTR: a Shaham scalar instruction by its word; any other encoding is ILLEGAL (R163). -/
def svScalar (w : Word) (j : VecJob) (v : VecSt) : SvOut :=
  let op := fld w 31 26
  let d := fld w 25 22
  let a := fld w 21 18
  let b := fld w 17 14
  let fn := fld w 5 0
  let imm : BitVec 18 := BitVec.ofNat 18 (fld w 17 0)
  let ra := j.reg a
  let rdy := j.ready [] [a]
  if op = 0 then
    if fld w 13 6 ≠ 0 ∨ 13 < fn then .error 1 else svSet d (alu fn ra (j.reg b)) (aluCycles fn) (j.ready [] [a, b]) j v
  else if op = 1 then svSet d (ra + sext18 imm) 1 rdy j v
  else if op ≤ 4 then svSet d (alu op ra (zext18 imm)) 1 rdy j v
  else if op ≤ 7 then (if 64 ≤ imm.toNat then .error 1 else svSet d (alu op ra (zext18 imm)) 1 rdy j v)
  else if op = 8 then svSet d (BitVec.ofNat 64 (fld w 21 0 * 2 ^ 18)) 1 0 j v
  else if op = 0x0C then svLocal false d a imm j v
  else if op = 0x0D then svLocal true d a imm j v
  else if 0x18 ≤ op ∧ op ≤ 0x1D then
    let need := j.ready [] [d, a]
    if branchTaken (op - 0x18) (j.reg d) ra then svGo (branchTarget j.pc (sfld w 17 0)) false none 2 need j v
    else .ok ((j.issue need 1).next, v)
  else if op = 0x1E then svGo (branchTarget j.pc (sfld w 25 0)) false none 2 0 j v
  else if op = 0x1F then svGo (branchTarget j.pc (sfld w 25 0)) false (some 15) 2 0 j v
  else if op = 0x20 then
    if fld w 13 0 ≠ 0 then .error 1 else svGo (ra.toNat : Int) true none 3 rdy j v
  else if op = 0x25 then .ok ((j.issue 0 (1 + imm.toNat)).next, v)
  else .error 1

end Sys2Proof.Machine
end

