-- ==== Sys2Proof/Machine/View.lean ====
section
/-! DEFINITION. What registers show that are computed from the rest of the state (status words, TIM.NOW, PHS.SCALE, identification
of the security state). -/

namespace Sys2Proof.Machine

open Csr

/-- One bit for each of the 18 filters. -/
def State.filtMask (s : State) (f : Filter → Bool) : Nat := bitsOf ((List.range 18).map (fun i => (i, f (s.filt i))))

/-- Twice pi, to 30 digits, times 10^30 / 2 (notes/assumptions/12.md). -/
def piScaled : Nat := 3141592653589793238462643383280

/-- PHS.SCALE (R127). A strain per LSB beyond 32 bits reads modulo 2^32: the spec does not say what it reads (DESIGN CHOICE,
notes/assumptions/74.md). -/
def State.phsScale (s : State) : Nat :=
  let g := s.phs.lastGauge
  if g = 0 then 0
  else
    let n := (1545000 + s.f LCH_LASER 13 0) * 4 * 10 ^ 45
    let d := piScaled * s.f PHS_XI 15 0 * g * 599584916
    (2 * n + d) / (2 * d)

/-- The life-cycle state of a code. -/
def LifeCycle.of : Nat → Option LifeCycle
  | 0 => some .egg | 1 => some .larva | 2 => some .pupa | 3 => some .imago | 4 => some .exuvia | _ => none

/-- The image of a slot. -/
def State.slot (s : State) (i : Nat) : Image := if i % 2 = 0 then s.sec.slots[0] else s.sec.slots[1]

/-- SEC.SLOT[i].INFO (Table SEC-12). -/
def Image.info (m : Image) : Nat := b2n m.valid * 2 ^ 31 + m.keysel % 2 * 2 ^ 24 + m.minrev % 256 * 2 ^ 16 + m.build % 65536

/-- Milliseconds left in the presence window. -/
def State.presLeft (s : State) : Nat := match s.sec.window with | some w => (w.opened + 60 * psPerSec - s.up) / ms | none => 0

/-- Minutes left of the debug kind that stays open longer; 0xFFFF without limit. -/
def State.dbgLeft (s : State) : Nat :=
  let m (k : Option (Option Nat)) : Nat := match k with | none => 0 | some none => 0xFFFF | some (some t) => (t - s.up + 60 * psPerSec - 1) / (60 * psPerSec)
  max (m s.dbg.mux) (m s.dbg.tap)

/-- Registers of the GLB, SEQ, LCH, RCV, PHS and DTS windows that are computed. -/
def State.viewA (s : State) (a : Nat) : Option Nat :=
  if a = SEQ_TACTSTAT then some (s.f SEQ_TACTSTAT 31 16 * 2 ^ 16 + bitsOf (s.core.tacts.map (fun (t : TimedAct) => (t.k % 16, true))))
  else if a = RCV_STAT then some (s.f RCV_STAT 30 0 + bitsOf [(31, s.rcv.filt.toArray.any (fun (f : Filter) => f.gen.isSome))])
  else if a = RCV_RAWSTAT then some (nset (s.csrRaw a).toNat 30 30 (b2n ((s.lch.wins ++ s.lch.tails).any (fun l => l.raw.isSome))))
  else if a = RCV_SWAPPEND then some (s.filtMask (fun f => f.wait.isSome))
  else if a = RCV_FADING then some (s.filtMask Filter.busy)
  else if a = RCV_BANK then some (s.filtMask (fun f => f.onB))
  else if a = PHS_SCALE then some s.phsScale
  else if a = DTS_STAT then some (s.f DTS_STAT 31 30 * 2 ^ 30 + b2n (!s.dts.prof.isEmpty) * 2 ^ 29 + s.curWindow % 8 * 2 ^ 24)
  else if DTS_WIN 0 ≤ a ∧ a ≤ DTS_WIN 7 then some (b2n (s.winReady ((a - DTS_WIN 0) / 4)) * 2 ^ 31 + s.f a 30 0)
  else none

/-- Those of the VEC, TRG, TIM and FAB windows. -/
def State.viewB (s : State) (a : Nat) : Option Nat :=
  if a = TIM_NOW_LO then some (s.stampAt 10 % 2 ^ 32)
  else if a = TIM_NOW_HI then some (s.stampAt 10 / 2 ^ 32)
  else if a = TIM_FULLSEC then some s.sec32
  else if a = TIM_FREQ then some (ofSigned 24 s.freqNow)
  else if TIM_TDC_CFG 0 ≤ a ∧ a ≤ TIM_TDC_CFG 7 ∧ (a - TIM_TDC_CFG 0) % 0x20 = 0 then
    some (nset (s.csrRaw a).toNat 18 16 (s.tdcOwner ((a - TIM_TDC_CFG 0) / 0x20)))
  else if TIM_TDC_PINDLY 0 ≤ a ∧ a ≤ TIM_TDC_PINDLY 7 ∧ (a - TIM_TDC_PINDLY 0) % 0x20 = 0 then some (s.pinDly ((a - TIM_TDC_PINDLY 0) / 0x20))
  else if FAB_PORT_RXPWR 0 ≤ a ∧ a ≤ FAB_PORT_RXPWR 7 ∧ (a - FAB_PORT_RXPWR 0) % 0x40 = 0 then
    (if s.b (FAB_PORT_STAT ((a - FAB_PORT_RXPWR 0) / 0x40)) 27 then some ((Config.rxPower ((a - FAB_PORT_RXPWR 0) / 0x40) s.up).toNat) else none)
  else if a = FAB_RTE then some s.rte.toNat
  else if a = FAB_NDEV then some ((if s.b FAB_ID 30 then s.routes.length else 0) % 2 ^ 11)
  else none

/-- Those of the CMP, FLS, FLT, SEC, PWR, DBG, QUE and CNT windows. -/
def State.viewC (s : State) (a : Nat) : Option Nat :=
  if a = CMP_CHAINFREE then some s.chainFree.length
  else if a = CMP_STAT then some (s.f CMP_STAT 31 31 * 2 ^ 31 + b2n s.chainLow * 2 ^ 30 + s.f CMP_STAT 29 28 * 2 ^ 28 + bitsOf ((List.range 4).map (fun l => (24 + l, (s.lane l).isSome))) + s.f CMP_STAT 23 0)
  else if a = FLT_LEASE then some (min 65535 ((s.up - s.flt.leaseAt) / us) * 2 ^ 16 + b2n s.flt.foreB)
  else if a = SEC_RBC then some s.sec.rbc
  else if a = SEC_LCCNT then some (s.sec.lccnt % 32)
  else if a = SEC_SLOT_VER 0 ∨ a = SEC_SLOT_VER 1 then some (s.slot ((a - SEC_SLOT_VER 0) / 8)).version
  else if a = SEC_SLOT_INFO 0 ∨ a = SEC_SLOT_INFO 1 then some (s.slot ((a - SEC_SLOT_INFO 0) / 8)).info
  else if a = SEC_PRESLEFT then some (s.presLeft % 65536)
  else if a = DBG_STAT then some (bitsOf [(31, s.dbgKind s.dbg.mux), (30, s.dbgKind s.dbg.tap)] + s.dbgLeft % 65536)
  else if 0x170000 ≤ a ∧ a < 0x170200 ∧ a % 0x10 = 4 then some (vget s.flt.cnt ((a - 0x170000) / 0x10) 0 % 2 ^ 32)
  else if 0x170000 ≤ a ∧ a < 0x170200 ∧ a % 0x10 = 8 then some (vget s.flt.cnt ((a - 0x170000) / 0x10) 0 / 2 ^ 32)
  else none

/-- The value a register shows at this moment; a reserved address shows 0 (R1). -/
def State.csrView (s : State) (a : Nat) : Word :=
  if (regAt a).isNone then 0
  else
    match (s.shown a).orElse (fun _ => if a < 0x60000 then s.viewA a else if a < 0xD0000 then s.viewB a else s.viewC a) with
    | some n => BitVec.ofNat 32 n
    | none => s.csrRaw a

end Sys2Proof.Machine
end

