-- ==== Sys2Proof/Machine/Sec.lean ====
section
/-! DEFINITION. Images and their checks, the boot slot, moult, keys, life-cycle changes, the seal loop, the random source and presence
(R419 to R436). -/

namespace Sys2Proof.Machine

open Csr

/-- The security state changed. -/
def State.secUpd (s : State) (f : SecSt → SecSt) : State := { s with sec := f s.sec }

/-! Images (R64, R429 to R433). -/

/-- A key selected by an image is permitted and installed (R430 step 5, Table SEC-7). -/
def State.keyPermits (s : State) (k : Nat) : Bool := decide (k < 2) && (s.sec.lc != LifeCycle.imago || k == 1) && vget s.sec.keys k false

/-- MINREV is not later than the module revision (R430 step 2). -/
def State.revOk (s : State) (minrev : Nat) : Bool := decide (minrev ≤ s.f GLB_REV 23 16)

/-- The image of a slot passes R430. What of its check cannot change while it is stored was checked as it was written, and `valid` holds that verdict; its
signature is verified again under a K1 that may be another by now (R422). -/
def State.imageOk (s : State) (i : Nat) : Bool :=
  let m := s.slot i
  m.valid && s.revOk m.minrev && decide (s.sec.rbc ≤ m.version) && s.keyPermits m.keysel && (m.keysel == 0 || ecdsaOk s.sec.k1 m.dig m.sig.1 m.sig.2)

/-- The bytes of a span of memory that differ from 0, at addresses from 0. -/
def State.span (s : State) (a n : Nat) : List Host.Cell :=
  (s.mem.filter (fun c => decide (a ≤ c.1) && decide (c.1 < a + n))).map (fun c => (c.1 - a, c.2))

/-- The bytes of `n` words of memory. -/
def State.wordBytes (s : State) (a n : Nat) : List Nat := bytesOfWords (s.words64 a n)

/-- The public key of K0 or K1 (Table SEC-2). -/
def State.imageKey (s : State) (k : Nat) : Nat × Nat := if k = 0 then Config.farindKey else s.sec.k1

/-- What is signed of a container, the digest of words 0 to 10, and R and S (Table SEC-8). -/
def State.imageDig (s : State) (a : Nat) : Nat := beNat (sha384 (s.wordBytes a 11))
def State.imageSig (s : State) (a : Nat) : Nat × Nat := (wordsCoord (s.words64 (a + 88) 6), wordsCoord (s.words64 (a + 136) 6))

/-- The signature of a container verifies (R429). -/
def State.sigOk (s : State) (a k : Nat) : Bool := ecdsaOk (s.imageKey k) (s.imageDig a) (s.imageSig a).1 (s.imageSig a).2

/-- Its HASH matches: the digest of words 0 to 4, the text and the data (R429). -/
def State.hashOk (s : State) (a textlen datalen : Nat) : Bool :=
  sha384 (s.wordBytes a 5 ++ s.wordBytes (a + 184) ((textlen + datalen) / 8)) == s.wordBytes (a + 40) 6

/-- The container at an address: its status under R430, and the image it holds (Table SEC-8). -/
def State.container (s : State) (a len : Nat) : Nat × Image :=
  let w (i : Nat) : Nat := s.word64 (a + 8 * i)
  let textlen := nfld (w 2) 63 32
  let datalen := nfld (w 2) 31 0
  let bsslen := nfld (w 3) 63 32
  let entry := nfld (w 3) 17 0
  let tvec := nfld (w 4) 17 0
  let m : Image := { valid := true, keysel := nfld (w 0) 7 0, version := nfld (w 1) 63 32, minrev := nfld (w 1) 31 24, build := nfld (w 4) 63 32,
                     entry := entry, tvec := tvec, hash := (List.range 6).map (fun i => w (5 + i)), dig := s.imageDig a, sig := s.imageSig a, text := s.span (a + 184) textlen,
                     data := s.span (a + 184 + textlen) datalen }
  let shape := decide (184 ≤ len) && len == 184 + textlen + datalen && nfld (w 0) 63 32 == 0x474E4F49 && nfld (w 0) 31 24 == 0x11
    && nfld (w 0) 23 8 == 0 && nfld (w 1) 23 0 == 0 && textlen % 8 == 0 && datalen % 8 == 0
  let limits := decide (textlen ≤ 0x40000) && decide (datalen + bsslen ≤ 0x40000) && entry % 4 == 0 && tvec % 4 == 0 && decide (entry < textlen)
    && decide (tvec < textlen)
  let st :=
    if !(shape && s.revOk m.minrev && limits) then 9
    else if m.version < s.sec.rbc ∨ !s.keyPermits m.keysel ∨ !s.sigOk a m.keysel then 4
    else if !s.hashOk a textlen datalen then 9 else 0
  (st, m)

/-- An image slot is written. -/
def State.putSlot (s : State) (i : Nat) (f : Image → Image) : State := s.secUpd (fun x => { x with slots := vmod x.slots (i % 2) f })

/-- LOADIMG (R431): the container is checked and goes to the slot that does not hold the running image. The answer follows with
IMAGE_SLOT_WRITE_DONE, or at once on a failure. -/
def State.loadimg (s : State) (tag a len : Nat) : State × Option Nat :=
  if s.sec.loading.isSome || s.sec.moult.isSome || s.mode == Mode.moult then (s, some 3)
  else if !inDram a len then (s, some 2)
  else
    let t := 1 - s.sec.runslot % 2
    let c := s.container a len
    let st := if s.poisoned a len then 7 else c.1
    let s1 := (s.dramRead a len).putSlot t (fun m => { m with valid := false })
    if st = 0 then (s1.secUpd (fun x => { x with loading := some (t, c.2, tag) }), none) else (s1, some st)

/-- SETBOOT (R432). -/
def State.setboot (s : State) (slot : Nat) (commit : Bool) : State × Nat :=
  if !s.imageOk slot then (s, 9)
  else if commit && slot % 2 != s.sec.runslot % 2 then (s, 1)
  else (s.secUpd (fun x => { x with bootslot := slot % 2, rbc := if commit then max x.rbc (s.slot slot).version else x.rbc }), 0)

/-! The moult (R434 to R436); its handover is part of ckpt. -/

/-- MOULT: the program's answer. -/
def State.moultCheck (s : State) (slot : Nat) : Nat :=
  if !s.imageOk slot then 9 else if s.sec.loading.isSome then 3 else if !(s.flt.inA && s.flt.inB) then 7 else 0

/-- The gate has seen the OK response to MOULT: step 1 of Table SEC-9. -/
def State.moultBegin (s : State) (slot : Nat) : State :=
  let s1 : State := { s with mode := .moult, gate := { s.gate with moultFrom := s.mode, moultStop := false } }
  (s1.setB FLT_STAT 29 true).secUpd (fun x => { x with moult := some (.loading (slot % 2)) })

/-- The state a moult returns to (Table GLB-18). -/
def State.moultTo (s : State) : Mode := if s.gate.moultStop then .idle else s.gate.moultFrom

/-- A moult is abandoned: both cores go on with the old image (R436). -/
def State.moultAbandon (s : State) : State :=
  let s1 : State := { s with mode := s.moultTo }
  ((s1.setB FLT_STAT 29 false).secUpd (fun x => { x with moult := none })).alarm 1 FLT_STAT 29

/-- MOULT_LOAD_DONE: the hindwing has loaded and checked the slot, or its check has failed. -/
def State.moultLoaded (s : State) (ok : Bool) : State :=
  match s.sec.moult with
  | some (.loading k) =>
    if ok && s.imageOk k then s.secUpd (fun x => { x with moult := some (.loaded k s.up) }) else s.moultAbandon
  | _ => s

/-- MOULT_CKPT_TIMEOUT: no ckpt within 1 s after step 2. -/
def State.moultTimeout (s : State) : State :=
  match s.sec.moult with
  | some (.loaded _ t) => if t + psPerSec ≤ s.up then s.moultAbandon else s
  | _ => s

/-- ABANDON (R436). -/
def State.abandon (s : State) : State × Nat :=
  match s.sec.moult with
  | some (.handed _) => (s, 3)
  | some _ => (s.moultAbandon, 0)
  | none => (s, 0)

/-! Keys (R420 to R423, R307). -/

/-- A key entry becomes installed or not. -/
def State.setKey (s : State) (k : Nat) (v : Bool) : State := s.secUpd (fun x => { x with keys := vmod x.keys k (fun _ => v) })

/-- `n` free 64-bit words, drawn one after another. -/
def State.freeWords (s : State) : Nat → List Nat × State
  | 0 => ([], s)
  | k + 1 => let r := s.free; let t := r.2.freeWords k; (r.1 % 2 ^ 64 :: t.1, t.2)

/-- KEYREPL (R422): status and result words. A new K2 is a private key drawn at random (notes/assumptions/186.md). -/
def State.keyrepl (s : State) (args : List Nat) : State × Nat × List Nat :=
  match nth args 0 0 % 8 with
  | 1 =>
    if s.sec.lc = .imago then (s, 4, [])
    else if s.sec.rngfail then (s, 7, [])
    else ((s.setKey 1 true).secUpd (fun x => { x with k1 := (wordsCoord (args.drop 1), wordsCoord (args.drop 7)) }), 0, [])
  | 2 =>
    if s.sec.rngfail then (s, 7, [])
    else
      let r := s.free
      let k := 1 + r.1 % (ecN - 1)
      ((r.2.setKey 2 true).secUpd (fun x => { x with k2 := k }), 0,
        match ecMul k ecG with | some q => coordWords q.1 ++ coordWords q.2 | none => [])
  | _ => (s, 2, [])

/-- A wrapped key: argument 1 of FABKEY and the words of Table SEC-3 give its 32 bytes, unless the point is not on the curve or the tag fails (R423,
notes/assumptions/182.md). -/
def State.unwrapKey (s : State) (arg1 : Nat) (ws : List Nat) : Option (List Nat) :=
  let q := (wordsCoord ws, wordsCoord (ws.drop 6))
  let ct := bytesOfWords ((ws.drop 12).take 4)
  if !ecOn q then none
  else match ecMul s.sec.k2 q with
    | none => none
    | some z =>
      let okm := hkdf384 (bytesOf 8 s.serial) (beBytes 48 z.1) (bytesOf 8 arg1)
      let ks := aesKeys (okm.take 32)
      let iv := (okm.drop 32).take 12
      if gcmTag ks iv (bytesOf 8 arg1) ct = bytesOfWords ((ws.drop 16).take 2) then some (gcmCtr ks iv ct) else none

/-- An entry of K3 to K6 is written. -/
def State.putFabKey (s : State) (i : Nat) (x : Nat × List Nat) : State := s.secUpd (fun y => { y with fabKeys := vmod y.fabKeys i (fun _ => x) })

/-- FABKEY (R307). -/
def State.fabkey (s : State) (args : List Nat) : State × Nat :=
  let arg1 := nth args 0 0
  let act := nth args 1 0
  let slot := nfld arg1 15 0
  let k := nfld arg1 31 16
  if 1 < slot ∨ k = 0 ∨ k = s.keyid slot ∨ 1 < act then (s, 2)
  else if act = 0 then
    match (if vget s.sec.keys 2 false then s.unwrapKey arg1 (args.drop 2) else none) with
    | some key => (((s.setKey (4 + 2 * slot) true).putFabKey (2 * slot + 1) (k, key)).keyInstall slot k key, 0)
    | none => (s, 4)
  else match vget s.fab.nextKey slot none with
    | none => (s, 1)
    | some n =>
      let s1 := (s.setKey (3 + 2 * slot) true).setKey (4 + 2 * slot) false
      (((s1.putFabKey (2 * slot) (vget s.sec.fabKeys (2 * slot + 1) (0, []))).putFabKey (2 * slot + 1) (0, [])).keyActivate slot n, 0)

/-- SEC.RNG: 32 fresh bits, or 0 while the health tests fail (R421). -/
def State.rng (s : State) : Word × State := if s.sec.rngfail then (0, s) else let r := s.free; (BitVec.ofNat 32 r.1, r.2)

/-- RNG_READ: a read of SEC.RNG by the cores (0) or the service SPI port (1); the value read stands in the reader's latch. -/
def State.rngRead (s : State) (who : Nat) : State :=
  let r := s.rng
  { r.2 with latch := pairPut r.2.latch (who, SEC_RNG) (some r.1) }

/-- RNG_HEALTH_FAIL. -/
def State.rngFail (s : State) : State := (s.secUpd (fun x => { x with rngfail := true })).alarm 0 SEC_STATUS 20

/-- RNGFAIL_CLEAR. -/
def State.rngClear (s : State) : State := s.secUpd (fun x => { x with rngfail := false })

/-! The seal loop and the LCJ jumper (R425 to R427). -/

/-- Keys K2 to K7 are zeroised. -/
def State.zeroise (s : State) : State :=
  let s1 := s.secUpd (fun x => { x with keys := x.keys.mapIdx (fun i v => v && decide (i < 2)), k2 := 0, fabKeys := Vector.replicate 4 (0, []) })
  { s1 with fab := { s1.fab with nextKey := Vector.replicate 2 none, prevKey := Vector.replicate 2 none, keyVals := Vector.replicate 6 [] } }

/-- A break of the seal is recorded in IMAGO: SEALBRK, seal log, critical alarm. -/
def State.sealRecord (s : State) (atStart : Bool) : State :=
  (s.secUpd (fun x => { x with sealbrk := true, sealLog := x.sealLog ++ [(s.stampAt 0, atStart)] })).alarm 0 SEC_STATUS 25

/-- SEAL_BREAK: 3 samples above 10 kohm; with main power absent in IMAGO the break latch is set. -/
def State.sealBreak (s : State) : State :=
  if !s.pwr.mainOk && !s.pwr.kaOk then s
  else
    let fresh := s.sec.sealOk || !(s.sec.sealbrk || s.sec.latch)
    let s1 := s.secUpd (fun x => { x with sealOk := false })
    if !fresh then s1
    else if s.sec.lc = .imago then
      if s.pwr.mainOk then (s1.zeroise).sealRecord false else s1.secUpd (fun x => { x with latch := true })
    else if s.pwr.mainOk then s1.secUpd (fun x => { x with sealLog := x.sealLog ++ [(s.stampAt 0, false)] }) else s1

/-- SEAL_CLOSE: 3 samples below 10 kohm. -/
def State.sealClose (s : State) : State :=
  if !s.pwr.mainOk && !s.pwr.kaOk then s else s.secUpd (fun x => { x with sealOk := true })

/-- LCJ_CHANGE: a change while a life-cycle change waits for presence breaks its precondition. -/
def State.lcjChange (s : State) (fitted : Bool) : State :=
  let win := s.sec.window.map (fun (w : PresWin) => { w with held := w.held && !(w.cmd.code == 0x70 && s.sec.lcj != fitted) })
  s.secUpd (fun x => { x with lcj := fitted, window := win })

/-! Life-cycle changes (R428). -/

/-- The rows of Table SEC-5. -/
def lcRow : LifeCycle → LifeCycle → Bool
  | .larva, .pupa | .pupa, .larva | .pupa, .imago | .imago, .pupa | .imago, .imago | .larva, .exuvia | .pupa, .exuvia | .imago, .exuvia => true
  | _, _ => false

/-- The preconditions of Table SEC-5. -/
def State.lcPre (s : State) (target : LifeCycle) : Bool :=
  match s.sec.lc, target with
  | .larva, .pupa => true
  | .pupa, .imago => s.sec.sealOk && !s.sec.lcj && vget s.sec.keys 1 false && vget s.sec.keys 2 false && vget s.sec.keys 3 false
      && s.imageOk s.sec.bootslot && (s.slot s.sec.bootslot).keysel == 1
  | .imago, .imago => s.sec.sealOk && !s.sec.lcj && !s.sec.sealbrk
  | _, _ => s.sec.lcj

/-- A change that wipes the profiles has K7 generated at the next start (R428). -/
def lcMakesKey : LifeCycle → LifeCycle → Bool
  | .pupa, .imago | .imago, .imago => false
  | _, _ => true

/-- The program's answer to LCSET but for presence: target and argument 2. -/
def State.lcCheck (s : State) (target serialLo : Nat) : Nat :=
  if s.sec.lc = .egg then 4
  else match LifeCycle.of (target % 8) with
    | none => 2
    | some t =>
      if serialLo ≠ (s.csrRaw SEC_SERIAL_LO).toNat ∨ !lcRow s.sec.lc t then 2
      else if t = .imago ∧ s.sec.lc ≠ .imago ∧ 16 ≤ s.sec.lccnt then 2
      else if s.lcPre t then 0 else 4

/-- The program's answer to LCSET whose presence was given; `pre` says that the preconditions held at the take. A change that generates a key fails
under RNGFAIL (R421). -/
def State.lcAnswer (s : State) (target serialLo : Nat) (pre : Bool) : Nat :=
  let c := s.lcCheck target serialLo
  let makes := match LifeCycle.of (target % 8) with | some t => lcMakesKey s.sec.lc t | none => false
  if c ≠ 0 then c else if !pre then 4 else if s.sec.rngfail && makes then 7 else 0

/-- Debug access as reset and life-cycle changes leave it (R482). -/
def State.dbgDefault (s : State) : State :=
  let k : Option (Option Nat) := if s.sec.lc = .egg ∨ s.sec.lc = .larva then some none else none
  { s with dbg := { s.dbg with mux := k, tap := k } }

/-- After the OK response to LCSET: the fuse bank and the pending-wipe marker are written, or KALOST clears (R426). The fuse bank admits the
changes of Table SEC-5 and 16 entries into IMAGO. Every change of that table locks debug access (R482). -/
def State.lcApply (s : State) (target : LifeCycle) : State :=
  if !lcRow s.sec.lc target || (target == LifeCycle.imago && s.sec.lc != LifeCycle.imago && decide (16 ≤ s.sec.lccnt)) then s
  else if s.sec.lc = .imago ∧ target = .imago then (s.secUpd (fun x => { x with kalost := false })).dbgDefault
  else
    (s.secUpd (fun x => { x with wipe := some (x.lc, target), lc := target, lccnt := x.lccnt + (if target = .imago then 1 else 0) })).dbgDefault

/-- DRAM is wiped to zeros with valid ECC (R330). -/
def State.wipeDram (s : State) : State :=
  { s with mem := s.mem.filter (fun c => decide (c.1 < 0x100000000)), poison := s.poison.filter (fun p => decide (p < 0x100000000)),
           dram := { s.dram with single := [] } }

/-- The key entries that a change wipes. -/
def lcKeys : LifeCycle → LifeCycle → Nat → Bool
  | .larva, .pupa, k => decide (3 ≤ k)
  | .pupa, .imago, _ => false
  | .imago, .pupa, k => decide (2 ≤ k)
  | _, _, k => decide (1 ≤ k)

/-- What the wipe of a change clears in MRAM and DRAM (Table SEC-5). -/
def State.wipeFor (s : State) (a b : LifeCycle) : State :=
  let images := b == LifeCycle.exuvia || (a == LifeCycle.pupa && b == LifeCycle.larva)
  let profs := !(a == LifeCycle.pupa && b == LifeCycle.imago)
  let idlast := profs && !(a == LifeCycle.imago && b == LifeCycle.pupa)
  let keep := !(a == LifeCycle.imago && b == LifeCycle.pupa)
  let x := s.sec
  let ks := x.keys.mapIdx (fun i v => v && !lcKeys a b i)
  let ps := if profs then Vector.replicate 4 Profile.blank else x.profiles
  let im := if images then Vector.replicate 2 (Image.blank false) else x.slots
  let lg := if profs then [] else x.sealLog
  let fk := x.fabKeys.mapIdx (fun i (v : Nat × List Nat) => if lcKeys a b (3 + i) then (0, []) else v)
  let k1 := if lcKeys a b 1 then (0, 0) else x.k1
  let k2 := if lcKeys a b 2 then 0 else x.k2
  let y : SecSt := { x with keys := ks, k1 := k1, k2 := k2, fabKeys := fk, k7due := x.k7due || profs, profiles := ps, slots := im, sealLog := lg, wipe := none }
  let s1 := (s.wipeDram).secUpd (fun _ => { y with sealbrk := x.sealbrk && keep, kalost := x.kalost && keep })
  cond idlast (·.setCsr FAB_IDLAST 0) s1

/-! Presence (R424) and debug access (R482). -/

/-- A presence window opens. -/
def State.windowOpen (s : State) (c : OutCmd) (e : Entry) (row : Bool) : State :=
  let ok := c.code != 0x70 || s.lcCheck (nth c.args 0 0) (nth c.args 1 0) != 4
  s.secUpd (fun x => { x with window := some { cmd := c, entry := e, opened := s.up, row := row, held := ok }, prstuck := false })

/-- DBGUNLOCK (R482). -/
def State.dbgunlock (s : State) (kinds minutes : Nat) : State × Nat :=
  if kinds % 4 = 0 ∨ 1440 < minutes then (s, 2)
  else if s.sec.lc = .egg ∨ s.sec.lc = .larva then (s, 0)
  else
    let k : Option (Option Nat) := some (if minutes = 0 then none else some (s.up + minutes * 60 * psPerSec))
    ({ s with dbg := { s.dbg with mux := if kinds.testBit 0 then k else s.dbg.mux, tap := if kinds.testBit 1 then k else s.dbg.tap } }, 0)

/-- DBG_LOCK: a 1 written to DBG.CTL.LOCK; in EGG and LARVA both kinds are open at all times. -/
def State.dbgLock (s : State) : State :=
  if s.sec.lc = .egg ∨ s.sec.lc = .larva then s else { s with dbg := { s.dbg with mux := none, tap := none } }

/-- DEBUG_OPEN_EXPIRY: kinds whose open time has ended lock. -/
def State.dbgExpire (s : State) : State :=
  let f (k : Option (Option Nat)) : Option (Option Nat) := if s.dbgKind k then k else none
  { s with dbg := { s.dbg with mux := f s.dbg.mux, tap := f s.dbg.tap } }

end Sys2Proof.Machine
end

