-- ==== Sys2Proof/Machine/Pwr.lean ====
section
/-! DEFINITION. Supplies, reset, the cocoon mailbox, cocoon entry and emergence (R443 to R457). -/

namespace Sys2Proof.Machine

open Csr

/-- The power state changed. -/
def State.pwrUpd (s : State) (f : PwrSt → PwrSt) : State := { s with pwr := f s.pwr }

/-! Reset (R447, R448, Table PWR-3). -/

/-- What MRAM, the fuses and the SAFE island keep of the security state; the rest returns to its reset value. A profile whose write is
interrupted reads as invalid (R440). -/
def SecSt.kept (x : SecSt) : SecSt :=
  let y : SecSt := { SecSt.reset with lc := x.lc, lccnt := x.lccnt, wipe := x.wipe, sealOk := x.sealOk, sealbrk := x.sealbrk, latch := x.latch }
  let z : SecSt := { y with kalost := x.kalost, lcj := x.lcj, rbc := x.rbc, keys := x.keys, slots := x.slots, bootslot := x.bootslot }
  let after (i : Nat) (p : Profile) : Profile := match x.saving with | some (n, q, _) => if n = i then { q with good := false } else p | none => p
  { z with profiles := x.profiles.mapIdx after, sealLog := x.sealLog, k7due := x.k7due, k1 := x.k1, k2 := x.k2, fabKeys := x.fabKeys }

/-- DRAM survives a reset: not a cold start, power-on or brown-out, and not in IMAGO (Table SEC-6). -/
def State.keepsDram (s : State) (cause : Nat) : Bool := decide (4 ≤ cause) && s.sec.lc != LifeCycle.imago

/-- Channels with the training rows of an earlier state: they keep their contents as the rest of the DRAM does. -/
def keepRows (old : MemSt) (cs : Vector MemChan 4) : Vector MemChan 4 :=
  cs.mapIdx (fun i (c : MemChan) => { c with rowPat := (vget old.chans i c).rowPat })

/-- The module resets and is held in reset: every island but SAFE returns to its reset values, SRAM and VEC memories are wiped, DRAM where
Table PWR-3 says so (R447). -/
def State.doReset (s : State) (cause : Nat) : State :=
  let n := if cause = 1 then 1 else satAdd 0xFFFF (s.f PWR_RSTCAUSE 31 16) 1
  let cocoons := if cause = 1 then 0 else s.csrRaw PWR_COCOONS
  let r : State := { State.reset with up := s.up, fresh := s.fresh, pin := s.pin, pending := s.pending, sec := s.sec.kept }
  let r1 : State := if s.keepsDram cause then { r with mem := s.mem.filter (fun c => decide (0x100000000 ≤ c.1)), poison := s.poison.filter (fun p => decide (0x100000000 ≤ p)) } else r
  let d := if s.keepsDram cause then { r1.dram with single := s.dram.single, chans := keepRows s.dram r1.dram.chans } else r1.dram
  let r2 : State := { r1 with dram := d, flt := { r1.flt with tokAt := Vector.replicate 4 s.up }, pwr := { r1.pwr with mainOk := s.pwr.mainOk, kaOk := s.pwr.kaOk, cause := cause, resetN := s.pwr.resetN, hot := s.pwr.hot } }
  (((r2.dbgDefault).setCsr PWR_RSTCAUSE (BitVec.ofNat 32 (n * 2 ^ 16 + cause))).setCsr PWR_COCOONS cocoons).setCsr FAB_IDLAST (s.csrRaw FAB_IDLAST)

/-- COLD_START: an input has risen after both were absent; `main` and `ka` say which are present (R426, R444). -/
def State.coldStart (s : State) (main ka : Bool) : State :=
  let s1 := (s.doReset 1).pwrUpd (fun x => { x with mainOk := main, kaOk := ka, resetN := false, hot := false })
  let s2 := s1.secUpd (fun x => { x with sealOk := false, latch := false })
  if s2.sec.lc = .imago then (s2.secUpd (fun x => { x with kalost := true })).alarm 1 SEC_STATUS 24 else s2

/-- POWER_GOOD: the main supply has stayed good for 100 ms. After a start with KA_3V3 alone, or an outage, it is a power-on (cause 2);
a dip that left the SAFE island running keeps the cause of the brown-out; a cold start not yet released stays one. -/
def State.powerGood (s : State) (absent : Bool) : State :=
  if s.pwr.mainOk then s
  else
    let s1 := s.pwrUpd (fun x => { x with mainOk := true })
    if absent && s.pwr.cause != 1 then (s1.pwrUpd (fun x => { x with cause := 2 })).setF PWR_RSTCAUSE 3 0 2 else s1

/-- The laser, the booster, every sink and TRIG_OUT0 to 3 go off (R446). -/
def State.lightsOut (s : State) : State :=
  let s1 : State := { s with lch := { s.lch with lock := false, lnch := [], seq := none, runTail := none } }
  let s2 := s1.flsCut
  { s2 with trg := { s2.trg with outs := Vector.replicate 4 false, edges := [], pulse := Vector.replicate 4 none } }

/-- BROWN_OUT (R446); in COCOON the next start is a power-on (R456). -/
def State.brownOut (s : State) : State := if !s.pwr.mainOk then s else (s.lightsOut.doReset (if s.mode = .cocoon then 2 else 3)).pwrUpd (fun x => { x with mainOk := false })

/-- RAIL_FAULT: an internal rail has departed; `chan` is its HKC channel (class 13). -/
def State.railFault (s : State) (chan : Nat) : State := ((s.setB PWR_STAT 29 true).setF PWR_STAT 13 8 chan).enterHold 6

/-- RESET_N_ASSERT: RESET_N has been low for 1 us. -/
def State.resetNLow (s : State) : State := (s.doReset 4).pwrUpd (fun x => { x with resetN := true })

/-- A RESET is answered OK: the reset follows after 10 ms; a second one changes nothing (R448). -/
def State.resetSoon (s : State) : State :=
  if s.pwr.resetAt.isSome then s else s.pwrUpd (fun x => { x with resetAt := some (s.up + 10 * ms) })

/-- RESET_DELAY_EXPIRY. -/
def State.resetExpire (s : State) : State :=
  match s.pwr.resetAt with
  | some t => if t ≤ s.up then s.doReset 5 else s
  | none => s

/-- RESET_RELEASE: RESET_N is high and the main supply good; step 1 of Table PWR-4. `profsel` is the level of PROFSEL1 and PROFSEL0.
A break latched while main power was absent in IMAGO zeroises the keys before they are unwrapped (R425). -/
def State.resetRelease (s : State) (profsel : Nat) : State :=
  if !s.pwr.held || !s.pwr.mainOk then s
  else
    let s1 : State := { s with time := 0, pwr := { s.pwr with held := false, resetN := false, startAt := s.up, step := 1 } }
    let s2 := s1.secUpd (fun x => { x with profsel := profsel % 4, uneval := true })
    if s2.sec.latch && s2.sec.lc == LifeCycle.imago then ((s2.zeroise).sealRecord true).secUpd (fun x => { x with latch := false }) else s2

/-- LIFE_CYCLE_WIPE_DONE: the wipe is complete and its marker cleared; the module resets with cause 6, or a start-up that waited for the wipe
goes on (R428, R449). -/
def State.wipeDone (s : State) : State :=
  match s.sec.wipe with
  | none => s
  | some (a, b) => let s1 := s.wipeFor a b; if s1.mode = .startup then s1 else s1.doReset 6

/-- KA_3V3_CHANGE. -/
def State.kaChange (s : State) (ok : Bool) : State := s.pwrUpd (fun x => { x with kaOk := ok })

/-- BASEPLATE_TEMPERATURE_CHECK: a major alarm on each entry above +70 degrees (R479); `temp` in mK above 0 degrees. -/
def State.baseplate (s : State) (temp : Int) : State :=
  let hot := decide (70000 < temp)
  cond (hot && !s.pwr.hot) (·.alarm 1 PWR_STAT 0x3F 68 (chanId s.dev 68 19)) (s.pwrUpd (fun x => { x with hot := hot }))

/-! Cocoon (R325, R326, R453 to R455). -/

/-- The gate has seen the OK response to COCOON: steps 1 to 3 of R453. -/
def State.cocoonBegin (s : State) : State :=
  let s1 : State := { s with mode := .cocoon, lch := { s.lch with lock := false }, pwr := { s.pwr with phase := .entering s.up } }
  let s2 := s1.flsCocoon.hkAbandon
  let s3 : State := { s2 with hkc := { s2.hkc with reg := none, inj := none } }
  (List.range 8).foldl (fun st p => st.fabDown p) s3.hkFlags

/-- The PLLs that COCOON stops: SYN-C, SYN-M, the fabric SerDes PLL, and the FE SerDes PLL unless CLK.GATE has stopped it (R344, R350). -/
def State.cocoonPlls (s : State) : List Nat := [1, 2, 3] ++ (if s.clk.gate.testBit 5 then [4] else [])

/-- They start together. -/
def State.startPlls (s : State) : State := s.cocoonPlls.foldl State.pllStart s

/-- Emergence begins: the PLLs start and PWR.WAKEAT is disarmed; `tag` is that of an EMERGE to answer at step 4. -/
def State.emergeBegin (s : State) (tag : Option Nat) : State :=
  s.startPlls.pwrUpd (fun x => { x with phase := .emerging s.up tag, wakeArmed := false, wakeHeld := none })

/-- Fabric time has reached an armed PWR.WAKEAT. -/
def State.wakeReached (s : State) : Bool := s.pwr.wakeArmed && stampReached s.time (s.pair PWR_WAKEAT_LO)

/-- Every admitted DRAM request is served, and every store is visible (R326). -/
def State.dramFlush (s : State) : State :=
  let s0 := (List.range 4).foldl (fun (st : State) n => (st.mchan n).reqs.foldl (fun u r => u.memServe n r) st) s
  let s1 := s0.core.stores.foldl (fun (st : State) (x : Nat × Nat × Nat) => st.commitStore x.1) s0
  (List.range 4).foldl (fun (st : State) n => st.mchanUpd n (fun (c : MemChan) => { c with reqs := [], rows := [] })) s1

/-- Channel delays and training temperatures are saved in the SAFE island (R326). -/
def State.dramSave (s : State) : State :=
  s.pwrUpd (fun x => { x with savedDly := s.dram.dly, savedTemp := (List.range 4).map (fun n => s.f (MEM_CH_STAT n) 23 16) })

/-- They are restored (R327). -/
def State.dramRestore (s : State) : State :=
  (List.range 4).foldl (fun st n => st.setF (MEM_CH_STAT n) 23 16 (nth s.pwr.savedTemp n 0)) { s with dram := { s.dram with dly := s.pwr.savedDly } }

/-- COCOON_ENTRY_DONE: the compression lanes have finished, DRAM is in self-refresh and the clocks stop, which takes the FE links with them. -/
def State.cocoonDone (s : State) : State :=
  match s.pwr.phase with
  | .entering _ =>
    if s.cmp.lanes.toArray.any (·.isSome) then s
    else
      let s0 := (s.dramFlush.linksLeave.inc PWR_COCOONS).dramSave
      let s1 := ([1, 2, 3, 4].foldl State.pllStop s0).pwrUpd (fun x => { x with phase := .asleep })
      match s1.pwr.wakeHeld with
      | some tag => s1.emergeBegin tag
      | none => cond s1.wakeReached (·.emergeBegin none) s1
  | _ => s

/-- WAKEAT_EXPIRY: in COCOON emergence begins; during entry it is held. -/
def State.wakeExpire (s : State) : State :=
  if !s.wakeReached then s
  else match s.pwr.phase with
    | .asleep => s.emergeBegin none
    | .entering _ => s.pwrUpd (fun x => { x with wakeHeld := some (x.wakeHeld.getD none) })
    | _ => s

/-! The cocoon mailbox (R454, R455). -/

/-- A mailbox command is answered: PWR.MBOXRSP and its result words. -/
def State.mboxAnswer (s : State) (tag status : Nat) (res : List Nat) : State :=
  let q := s.f PWR_MBOXRSP 30 24
  let s1 := s.setCsr PWR_MBOXRSP (BitVec.ofNat 32 (2 ^ 31 + (if q = 127 then 1 else q + 1) * 2 ^ 24 + tag % 65536 * 256 + status % 256))
  let s2 := (List.range 3).foldl (fun (st : State) j => st.setCsr (PWR_MBOXRES j) (BitVec.ofNat 32 (nth res j 0))) s1
  (s2.keepResult s PWR_MBOXRSP none).pwrUpd (fun x => { x with mbox := none })

/-- The three result words of STATUS (R60). -/
def State.statusWords (s : State) : List Nat := [s.stateWord, s.summary, s.secStatus]

/-- The gate counts a rejection with E_STATE (R59). -/
def State.rejectLog (s : State) (code tag : Nat) : State := ((s.inc SEQ_CMDREJ).bump 0x04 1).log 0 0x0001 [code, tag, s.mode.code]

/-- EMERGE from the mailbox; one in the cycle in which a wake stamp began the emergence is answered with it (R455). -/
def State.mboxEmerge (s : State) (tag : Nat) : State :=
  match s.pwr.phase with
  | .awake => (s.rejectLog 0x0031 tag).mboxAnswer tag 1 []
  | .emerging t none =>
    if s.sameCycle 0 t s.up then s.pwrUpd (fun x => { x with mbox := some (0x31, tag), phase := .emerging t (some tag) }) else s.mboxAnswer tag 3 []
  | .emerging _ _ => s.mboxAnswer tag 3 []
  | .asleep => (s.pwrUpd (fun x => { x with mbox := some (0x31, tag) })).emergeBegin (some tag)
  | .entering _ => s.pwrUpd (fun x => { x with mbox := some (0x31, tag), wakeHeld := some (some tag) })

/-- MBOXCMD: a write of PWR.MBOXCMD. -/
def State.mboxWrite (s : State) (v : Word) : State :=
  let tag := fld v 15 0
  if s.pwr.mbox.isSome then s.setB PWR_STAT 28 true
  else match fld v 31 16 with
    | 0x0001 => s.mboxAnswer tag 0 []
    | 0x0002 => s.mboxAnswer tag 0 s.statusWords
    | 0x0003 => (s.mboxAnswer tag 0 []).resetSoon
    | 0x0031 => s.mboxEmerge tag
    | _ => s.mboxAnswer tag 10 []

/-- A write of PWR.WAKEAT_HI arms the wake stamp; a stamp of 0 disarms it (Table PWR-6). -/
def State.writeWakeat (s : State) (who : Nat) (v : Word) : State :=
  let s1 := s.writePair who PWR_WAKEAT_HI v
  s1.pwrUpd (fun x => { x with wakeArmed := s1.pair PWR_WAKEAT_LO != 0 })

/-- The idle at which the cores stopped returns 1 (R455). -/
def State.wakeIdle (s : State) : State :=
  match s.core.stall with
  | .idle d _ =>
    let regs := if d = 0 then s.core.regs else vmod s.core.regs (d.val - 1) (fun _ => 1)
    (({ s with core := { s.core with regs := regs, stall := .none, pc := s.core.pc + 4 } } : State).bump 0x02 1).jpush (.idle 1)
  | _ => s

/-- Step 3 of Table PWR-5: delays and temperatures are restored, and the channels that fail are trained in mode 0 with the results `res`; then R323 applies
(R327). -/
def State.dramWake (s : State) (rows : List (Nat × Nat × Nat × Nat)) (temps : List Nat) (res : List TrnResult) : State :=
  let s1 := s.dramRestore
  let s2 := (s1.refreshBad rows temps).foldl (fun st n => st.chanResult n 0 (nth res n {})) (s1.putTemps temps)
  (List.range 4).foldl (fun st n => st.dramTemp n (nth temps n 0)) s2

/-- EMERGENCE_DONE: step 4 of Table PWR-5, which needs the PLLs locked: those started have done so by then. `phase` is RCV.ADCPH as measured, `rows` and
`temps` what the DRAM reads, as in State.refreshBad, `res` the results of a training by channel (R327). -/
def State.emergeDone (s0 : State) (phase : Word) (rows : List (Nat × Nat × Nat × Nat)) (temps : List Nat) (res : List TrnResult) : State :=
  let s := s0.cocoonPlls.foldl State.pllReturn s0
  match s0.pwr.phase with
  | .emerging _ tag =>
    if !s0.pllOn 0 then s0 else
    let s1 : State := { s with mode := .idle, vec := VecSt.reset, pwr := { s.pwr with phase := .awake },
                               flt := { s.flt with leaseAt := s.up, firstUp := none, compared := false }, lch := { s.lch with port := s.f LCH_PLAN 25 24, portRdy := true, portPend := false } }
    let s2 := s1.wakeIdle.setF RCV_ADCPH 8 0 (phase.toNat % 500)
    let s5 := (s2.dramWake rows temps res).fabEnables
    let s6 := ({ s5 with fab := { s5.fab with lastInstar := none }, flt := { s5.flt with stale := false } } : State).setB FLT_EXPINSTAR 16 false
    (match tag with | some t => s6.mboxAnswer t 0 [] | none => s6).holdFirst
  | _ => s0

end Sys2Proof.Machine
end

