-- ==== Sys2Proof/Machine/Regs.lean ====
section
/-! DEFINITION. The registers of the cores, issue of one instruction, traps and the return from them (R39 to R42, R50). -/

namespace Sys2Proof.Machine

open Csr

/-! Registers. -/

/-- A general register; w0 reads 0. -/
def State.wreg (s : State) (r : Fin 16) : DWord := if r = 0 then 0 else vget s.core.regs (r.val - 1) 0

/-- A general register written; a write of w0 is discarded. -/
def State.setW (s : State) (d : Fin 16) (v : DWord) : State :=
  if d = 0 then s else { s with core := { s.core with regs := vmod s.core.regs (d.val - 1) (fun _ => v) } }

/-- PC written. -/
def State.setPc (s : State) (a : BitVec 18) : State := { s with core := { s.core with pc := a } }

/-- An instruction retires and PC goes on at an address (counter source 0x02). -/
def State.retireTo (s : State) (a : BitVec 18) : State := (s.setPc a).bump 0x02 1

/-- An instruction retires and PC advances to the next one. The spec does not say what follows the instruction at 0x3_FFFC: PC, 18 bits
wide, goes on at 0 (DESIGN CHOICE, notes/assumptions/50.md). -/
def State.advance (s : State) : State := s.retireTo (s.core.pc + 4)

/-- The stall of the cores. -/
def State.setStall (s : State) (x : Stall) : State := { s with core := { s.core with stall := x } }

/-- A result is written and the instruction completes. -/
def State.retire (s : State) (d : Fin 16) (v f : DWord) : State := ((s.setW d v).setFlags f).advance

/-- A status-returning instruction completes: wd and FLAGS.E (Table SEQ-2). -/
def State.retireStatus (s : State) (d : Fin 16) (status : Nat) : State :=
  s.retire d (BitVec.ofNat 64 status) (flagsE s.core.flags status)

/-! Traps (R50). -/

/-- A trap is taken: the address of the instruction goes to SEQ.EPC, the cause to SEQ.CAUSE, the value of Table SEQ-7 to SEQ.TVAL, INTRAP is set
and execution goes on at SEQ.TVEC. Inside a handler the core sets DOUBLE and stops, and the module enters HOLD with cause 2. -/
def State.trapRaise (s : State) (cause code tval : Nat) : State :=
  let s0 := s.setStall .none
  if s.b SEQ_TSTAT 31 then (s0.setB SEQ_TSTAT 30 true).enterHold 2
  else
    let s1 := (s0.setCsr SEQ_EPC (BitVec.ofNat 32 (s.core.pc.toNat / 4 * 4))).setCsr SEQ_CAUSE (BitVec.ofNat 32 (code % 65536 * 65536 + cause % 256))
    let s2 := (s1.setPair SEQ_TVAL_LO (tval % 2 ^ 64)).setB SEQ_TSTAT 31 true
    s2.setPc (BitVec.ofNat 18 (s.f SEQ_TVEC 17 2 * 4))

/-- The return from a trap: PC = SEQ.EPC, INTRAP clears. -/
def State.trapReturn (s : State) : State := (s.setB SEQ_TSTAT 31 false).retireTo (BitVec.ofNat 18 (s.f SEQ_EPC 17 2 * 4))

/-! Issue. -/

/-- What an instruction does when it issues. -/
inductive IssueOut where
  /-- It completes, or stalls; the CORE cycles it takes. -/
  | done (s : State) (cycles : Nat)
  /-- It raises a trap and has no other effect: CAUSE, CODE and SEQ.TVAL. -/
  | trap (cause code tval : Nat)

/-- The cores run the image: in the states of Mode.live, and in COCOON until their next idle or 10 ms after step 1 of R453. -/
def State.coreRuns (s : State) : Bool :=
  s.mode.live ||
  (s.mode == Mode.cocoon && (match s.pwr.phase with | .entering t => decide (s.up < t + 10 * ms) | _ => false))

/-- The cores issue: they run, are not stalled, not held by a recovery, and have not stopped under R50. -/
def State.issues (s : State) : Bool :=
  s.coreRuns && decide (s.core.stall = .none) && s.flt.recovery.isNone && !s.b SEQ_TSTAT 30

/-- The 8-byte word of core SRAM `m` (0 program, 1 data) at a local address has an uncorrectable error. -/
def State.eccAt (s : State) (m a : Nat) : Bool := s.core.eccBad.any (fun (x : Nat × Nat) => x.1 == m && x.2 / 8 == a / 8)

/-- CORE cycles pass. -/
def State.cycles (s : State) (n : Nat) : State := s.elapse (n * s.corePeriod)

/-- One instruction issues: an uncorrectable word of program SRAM under PC raises ECC; otherwise the instruction acts as `f` says. -/
def State.issue (s : State) (f : State → IssueOut) : State :=
  if !s.issues then s
  else match (if s.eccAt 0 s.core.pc.toNat then .trap 5 0 s.core.pc.toNat else f s) with
    | .done t n => t.cycles n
    | .trap cause code tval => (s.trapRaise cause code tval).cycles 6

/-- An instruction that only computes: its result, FLAGS and cycles. -/
def State.compute (s : State) (d : Fin 16) (v f : DWord) (n : Nat) : IssueOut := .done (s.retire d v f) n

end Sys2Proof.Machine
end

