-- ==== Sys2Proof/Machine/CsrBus.lean ====
section
/-! DEFINITION. A read or a write of one CSR by a reader or writer (0 the cores, 1 the service SPI port), with everything it does:
access codes, pairs, result registers, reserved offsets, queue enables and heads, and the registers whose write acts (R1, R9 to R12, R22,
R27 to R32). -/

namespace Sys2Proof.Machine

open Csr

/-- The window of an address belongs to an island whose clock CLK.GATE has stopped (R345). -/
def State.gatedWin (s : State) (a : Nat) : Bool :=
  match a / 0x10000 with
  | 0x06 => s.gateOff 4
  | 0x08 => s.gateOff 5
  | 0x0E => s.gateOff 9
  | _ => false

/-- Is the register at an address a result register? -/
def isResult (a : Nat) : Bool := match regAt a with | some r => r.rc | none => false

/-- Companions of result registers: the flags at the next offset, FEL.SCRDATA and PWR.MBOXRES. -/
def isCompanion (a : Nat) : Bool := isResult (a - 4) || a == FEL_SCRDATA || a == PWR_MBOXRES 1 || a == PWR_MBOXRES 2

/-- The last latched value of a companion or HI half, 0 before the first (R12). -/
def State.latched (s : State) (who a : Nat) : Word := (pairGet s.latch (who, a)).getD 0

/-- A value is latched for a reader. -/
def State.putLatch (s : State) (who a : Nat) (v : Word) : State := { s with latch := pairPut s.latch (who, a) (some v) }

/-- A result register is read with all its companions. -/
def State.readRes (s : State) (who a : Nat) : Word × State :=
  let r := s.readResult who a
  let w (i : Nat) : Word := match s.resultNow a with | some x => nth x.after i 0 | none => s.csrRaw (a + 4 + 4 * i)
  if a = FEL_SCRES then (r.1, r.2.putLatch who FEL_SCRDATA (w 1))
  else if a = PWR_MBOXRSP then (r.1, (r.2.putLatch who (PWR_MBOXRES 1) (w 1)).putLatch who (PWR_MBOXRES 2) (w 2))
  else r

/-- The LO half of a pair is read: HI is latched, and with TIM.NOW also FULLSEC (R12, R262). -/
def State.readLo (s : State) (who a : Nat) : Word × State :=
  let s1 := s.latchHi who a (s.csrView (a + 4))
  (s.csrView a, if a = TIM_NOW_LO then s1.putLatch who TIM_FULLSEC (s.csrView TIM_FULLSEC) else s1)

/-- A read of a CSR: the value and what the read does. -/
def State.readCsr (s : State) (who a : Nat) : Word × State :=
  match regAt a with
  | none => (0, s)
  | some r =>
    if s.gatedWin a then (0, s.setB CLK_STAT 22 true)
    else if r.rc then s.readRes who a
    else if isCompanion a || a == TIM_FULLSEC then (s.latched who a, s)
    else if a = SEC_RNG then s.rng
    else match r.half with
      | .lo => s.readLo who a
      | .hi => (s.latched who a, s)
      | .one => (s.csrView a, s)

/-! Queues (R27 to R29). -/

/-- The configuration of a queue can be enabled (R28). -/
def State.queOk (s : State) (n : Nat) : Bool :=
  let d := s.f (QUE_CFG n) 4 0
  decide (1 ≤ d) && decide (d ≤ 16) && s.qBase n % 32 == 0 && inMem (s.qBase n) (32 * 2 ^ d)

/-- A post of the cores stalled on a queue that is disabled returns E_STATE (R29, R47); it is journaled (R402). -/
def State.coreRelease (s : State) (n : Nat) : State :=
  match s.core.stall with
  | .post d q e _ kind =>
    if q = n then ((s.setStall .none).retireStatus d 1).jpush (.post kind q e.words 1) else s
  | _ => s

/-- A queue is disabled: producers stalled on it are released (R29). -/
def State.queRelease (s : State) (n : Nat) : State :=
  let hit (r : Rec) : Bool := r.q == n
  let s1 : State := { s with que := { s.que with stalled := s.que.stalled.filter (fun r => !hit r) } }
  ((s.que.stalled.filter hit).foldl (fun st r => st.dropRec r) s1).coreRelease n

/-- A queue is enabled: HEAD and TAIL restart at 0, and what was held for its old entries is free. -/
def State.queStart (s : State) (n : Nat) : State :=
  let s1 := (s.setCsr (QUE_HEAD n) 0).setCsr (QUE_TAIL n) 0
  let s2 : State := { s1 with que := { s1.que with pieces := s1.que.pieces.filter (fun p => p.q != n) } }
  let s3 : State := { s2 with fab := { s2.fab with eth := s2.fab.eth.map (fun (x : EthPort) => { x with prog := x.prog.filter (fun y => y.1 != n) }) } }
  cond (decide (n < 64)) (·.evbRestart n) (s3.headMoved n)

/-- QUE_ENABLE: a write of QUE.CFG[n] (R27, R28). A write of EN = 1 while EN is 1 enables nothing: HEAD and TAIL stay (DESIGN CHOICE,
notes/assumptions/160.md). -/
def State.writeQueCfg (s : State) (n : Nat) (v : Word) : State :=
  let s1 := s.writeReg (QUE_CFG n) v
  if s.qEn n then (if bit v 31 then s1 else (cond (decide (n < 64)) State.evbSync s1).queRelease n)
  else if !bit v 31 then s1
  else if s1.queOk n then s1.queStart n
  else (s1.setB (QUE_CFG n) 31 false).setB (QUE_STAT n) 31 true

/-- QUE_HEAD_WRITE: a consumer's write of QUE.HEAD[n]; beyond TAIL or backwards it is refused with HEADERR (R28); it does nothing while a tap is the
sole consumer (R302, R328, notes/assumptions/183.md). -/
def State.writeQueHead (s : State) (n : Nat) (v : Word) : State :=
  if s.tapped n then s
  else if s.qFill n < (v.toNat + 2 ^ 32 - s.qHead n) % 2 ^ 32 then s.setB (QUE_STAT n) 30 true
  else cond (decide (n < 64)) State.evbSync ((s.setCsr (QUE_HEAD n) v).headMoved n)

/-- A write in the QUE window. -/
def State.writeQue (s : State) (who a : Nat) (v : Word) (lease : Bool) : State :=
  let n := (a - 0x160000) / 0x20
  match a % 0x20 with
  | 0x04 => s.writePair who a v lease
  | 0x08 => s.writeQueCfg n v
  | 0x0C => s.writeQueHead n v
  | _ => s.writeReg a v lease

/-! The windows. -/

/-- SEQ.GATEBUF_HI: another base than a 4,096-byte area wholly in one memory leaves the pair and counts as a refusal (R60). -/
def State.writeGatebuf (s : State) (who : Nat) (v : Word) (lease : Bool) : State :=
  let base := (s.loFor who SEQ_GATEBUF_LO).toNat + v.toNat * 2 ^ 32
  if base % 4096 = 0 ∧ inMem base 4096 then s.writePair who SEQ_GATEBUF_HI v lease
  else (s.dropLo who SEQ_GATEBUF_LO).bump 0x06 1

/-- A write in the SEQ or LCH window. -/
def State.writeSeqLch (s : State) (who a : Nat) (v : Word) (lease : Bool) : State :=
  if a = SEQ_GATEBUF_HI then s.writeGatebuf who v lease
  else if a = LCH_PLAN then s.writePlan v
  else if a = LCH_RANGE then s.writeRange v
  else if a = LCH_LASER then s.writeLaser v
  else if a = LCH_MON then s.writeTdcOwner a v
  else if a = LCH_OPENSTAT then s.writeOpenstat v
  else if a = LCH_SENT then s.writeSent v
  else if 0x20100 ≤ a ∧ a < 0x20200 then
    let k := (a - 0x20100) / 0x10
    match a % 0x10 with
    | 0 => s.writeEntry a k 2 true v
    | 4 => s.writeEntry a k 2 true v
    | 8 => s.writeEntry a k 1 false v
    | _ => s
  else s.writeReg a v lease

/-- A write in the RCV, PHS, DTS or VEC window. -/
def State.writeChan (s : State) (a : Nat) (v : Word) (lease : Bool) : State :=
  if a = RCV_CTL then s.writeRcvCtl v
  else if a = RCV_LOSB then s.writeLosb v
  else if a = RCV_PCCTL then s.writePcctl v
  else if a = RCV_SWAP then s.writeSwap v
  else if a = RCV_CSDATA then s.writeCsData v
  else if a = RCV_RAW then s.writeRaw v
  else if a = RCV_RAWLEN then s.writeRawlen v
  else if a = PHS_GAUGE then s.writeGauge v
  else if a = PHS_GIDX then s.writeGidx v
  else if a = PHS_XI then s.writeXi v
  else if a = DTS_CTL then (s.writeDtsCtl v).dtsAlign
  else if a = DTS_HOP then (s.writeReg a v lease).dtsAlign
  else if DTS_WIN 0 ≤ a ∧ a ≤ DTS_WIN 7 then s.writeDtsWin ((a - DTS_WIN 0) / 4) v
  else if a = VEC_CTL then s.writeVecCtl v
  else s.writeReg a v lease

/-- A write in the STR, FEL, TRG, EVB or TIM window. -/
def State.writeEvt (s : State) (who a : Nat) (v : Word) (lease : Bool) : State :=
  if a = STR_CTL then s.writeStrCtl v
  else if a = STR_CSDATA then s.writeStrTap v
  else if a = STR_CSADDR then s.writeStrCsaddr v
  else if a = STR_MAPDATA then s.writeMapData v
  else if a = STR_MAPCOMMIT then s.writeMapCommit v
  else if a = FEL_CTL then s.writeFelCtl v
  else if a = FEL_LINKEN_HI then s.writeLinken who v
  else if a = FEL_FCMD then s.writeFcmd v
  else if a = FEL_SCCMD then s.writeSccmd v
  else if a = FEL_PATROL then s.writeTdcOwner a v
  else if a = TRG_CTL then s.writeTrgCtl v
  else if a = TRG_ARM then s.writeTrgArm v
  else if a = TRG_OUTCLR then s.writeOutclr v
  else if TRG_DIN 0 ≤ a ∧ a ≤ TRG_DIN 3 then s.writeTdcOwner a v
  else if 0x90400 ≤ a ∧ a < 0x90600 ∧ (a % 0x80 = 0x50 ∨ a % 0x80 = 0x5C) then s.writeTrgSize a v
  else if a = TIM_CTL then s.writeTimCtl v
  else if 0xB0140 ≤ a ∧ a < 0xB0240 ∧ a % 0x20 < 0x1C then s.writeAsy ((a - 0xB0140) / 0x20) a v
  else if a = TIM_NEXTSEC then s.writeNextsec v lease
  else if TIM_TDC_CFG 0 ≤ a ∧ a ≤ TIM_TDC_CFG 7 ∧ (a - TIM_TDC_CFG 0) % 0x20 = 0 then s.writeTdcCfg ((a - TIM_TDC_CFG 0) / 0x20) v
  else match regAt a with
    | some r => if r.half = .hi then s.writePair who a v lease else if a / 0x10000 = 0x0A then s.writeEvb a v else s.writeReg a v lease
    | none => s

/-- A write in the FAB, MEM, CMP or CLK window. -/
def State.writeSys (s : State) (who a : Nat) (v : Word) (lease : Bool) : State :=
  if a = FAB_CTL then (s.writeReg a v lease).fabEnables
  else if a = FAB_ID then (s.writeReg a v lease).idFixed
  else if 0xC0100 ≤ a ∧ a < 0xC0300 ∧ a % 0x40 = 0 then s.writePortCfg a v lease
  else if a = FAB_PTP_CFG then s.writePtpCfg a v lease
  else if FAB_FWD 0 ≤ a ∧ a ≤ FAB_FWD 7 then s.writeFwd ((a - FAB_FWD 0) / 4) v
  else if a = MEM_TRN_CTL then s.writeTrnCtl v
  else if CMP_CFG 0 ≤ a ∧ a ≤ CMP_CFG 6 then s.writeCmpCfg ((a - CMP_CFG 0) / 4) v
  else if a = CLK_COMMIT then s.writeCommit v
  else if 0xF0100 ≤ a ∧ a < 0xF0200 ∧ a % 0x10 = 4 then s.writeMslot who ((a - 0xF0100) / 0x10) v
  else s.writeReg a v lease

/-- A write in the HKC, FLS, FLT, PWR, DBG or CNT window. -/
def State.writeSlow (s : State) (a : Nat) (v : Word) (lease : Bool) : State :=
  if a = HKC_CTL then s.writeHkcCtl v
  else if a = HKC_SEQCTL then s.writeSeqctl v
  else if 0x100200 ≤ a ∧ a < 0x100800 then
    let c := (a - 0x100200) / 0x20
    match a % 0x20 with
    | 0x00 => s.writeHkcCfg c v
    | 0x04 => s.writeExc c v
    | 0x10 => s.writeCaloff c v
    | 0x14 => s.writeCalgain c v
    | _ => s.writeReg a v lease
  else if a = FLS_ARM then s.writeFlsArm v
  else if a = FLS_CTL then s.writeFlsCtl v
  else if a = FLS_FLV then s.writeFlsFlv v
  else if 0x110100 ≤ a ∧ a < 0x110300 ∧ a % 0x20 = 0 then s.writeFlsCfg ((a - 0x110100) / 0x20) v
  else if a = FLT_CTL then s.writeFltCtl v lease
  else if a = PWR_MBOXCMD then s.mboxWrite v
  else if a = DBG_CTL then cond (bit v 31) State.dbgLock s
  else s.writeReg a v lease

/-- A write of a single register or of the HI half of a pair. -/
def State.writeHit (s : State) (who a : Nat) (v : Word) (lease hi : Bool) : State :=
  if a = PWR_WAKEAT_HI then s.writeWakeat who v
  else if a = CNT_SNAPAT_HI then s.writeSnapat who v
  else if a / 0x10000 = 0x16 then s.writeQue who a v lease
  else if a = SEQ_GATEBUF_HI ∨ a = FEL_LINKEN_HI ∨ (0xF0100 ≤ a ∧ a < 0xF0200 ∧ a % 0x10 = 4) then
    (if a < 0x80000 then s.writeSeqLch who a v lease else if a < 0xC0000 then s.writeEvt who a v lease else s.writeSys who a v lease)
  else if hi then (if a / 0x10000 = 0x0A then s.writeEvbHi who a v lease else s.writePair who a v lease)
  else if a < 0x30000 then s.writeSeqLch who a v lease
  else if a < 0x70000 then s.writeChan a v lease
  else if a < 0xC0000 then s.writeEvt who a v lease
  else if a < 0x100000 then s.writeSys who a v lease
  else s.writeSlow a v lease

/-- A write of a CSR by a writer, as lease holder or not (R1, R9 to R12, R22). -/
def State.writeCsr (s : State) (who : Nat) (lease : Bool) (a : Nat) (v : Word) : State :=
  match regAt a with
  | none => s
  | some r =>
    if s.gatedWin a then s.setB CLK_STAT 22 true
    else match r.half with
      | .lo => if 0xF0100 ≤ a ∧ a < 0xF0180 then s.setB CLK_STAT 20 true else s.holdLo who a v
      | .hi => s.writeHit who a v lease true
      | .one => s.writeHit who a v lease false

/-- Every csrw of the cores not yet acknowledged takes effect, oldest first (R52). -/
def State.csrFlush (s : State) : State :=
  s.core.csrOut.foldl (fun (st : State) (x : Nat × Word × Nat) => st.writeCsr 0 true x.1 x.2.1) { s with core := { s.core with csrOut := [] } }

end Sys2Proof.Machine
end

