-- ==== Sys2Proof/Machine/Prof.lean ====
section
/-! DEFINITION. Configuration commands and profiles (R63, R409, R410, R437 to R440). -/

namespace Sys2Proof.Machine

open Csr

/-- First address past the CSR windows. -/
def csrEnd : Nat := 0x180000

/-- An address lies in the SEC window. -/
def inSec (a : Nat) : Bool := a / 0x10000 == 0x13

/-- CSRREAD (R63): status and result words. -/
def State.csrread (s : State) (a : Nat) : State × Nat × List Nat :=
  if csrEnd ≤ a then (s, 2, []) else let r := s.readCsr 0 a; (r.2, 0, [r.1.toNat])

/-- CSRWRITE (R63): the program writes as lease holder; the SEC window is answered E_AUTH. Bits [63:32] of the value are ignored: the spec does not
say what they do (DESIGN CHOICE, notes/assumptions/72.md). -/
def State.csrwrite (s : State) (a v : Nat) : State × Nat :=
  if csrEnd ≤ a then (s, 2) else if inSec a then (s, 4) else (s.writeCsr 0 true a (BitVec.ofNat 32 v), 0)

/-- Pairs are written in order as lease holder. -/
def State.writePairs (s : State) (ps : List (Nat × Nat)) : State :=
  ps.foldl (fun (st : State) (x : Nat × Nat) => st.writeCsr 0 true x.1 (BitVec.ofNat 32 x.2)) s

/-- Addresses are remembered for SAVEPROF in order of first writing (R440). -/
def noteAddrs (old new : List Nat) : List Nat := new.foldl (fun l a => if l.contains a then l else l ++ [a]) old

/-- FLT.CFGDIGEST after the pairs of a SETCFG: the CRC-32C of its previous value followed by the argument words (R409). -/
def State.digest (s : State) (ps : List (Nat × Nat)) : Nat :=
  crc32c (bytesOf 4 (s.csrRaw FLT_CFGDIGEST).toNat ++ ps.flatMap (fun x => bytesOf 8 x.1 ++ bytesOf 8 x.2))

/-- SETCFG (R409); `odd` says that NARG was odd. -/
def State.setcfg (s : State) (ps : List (Nat × Nat)) (odd : Bool) : State × Nat :=
  if ps.isEmpty || odd || ps.any (fun x => decide (csrEnd ≤ x.1)) then (s, 2)
  else if ps.any (fun x => inSec x.1) then (s, 4)
  else
    let s1 := (s.csrFlush.writePairs ps).secUpd (fun x => { x with cfgSince := noteAddrs x.cfgSince (ps.map (·.1)) })
    ((s1.setCsr FLT_CFGDIGEST (BitVec.ofNat 32 (s.digest ps))).instarTo (s.flt.instar + 1), 0)

/-- GETCFG: three words (R409). -/
def State.getcfg (s : State) : List Nat :=
  [s.flt.instar % 65536 + b2n s.flt.stale * 65536, (s.csrRaw FLT_CFGDIGEST).toNat, (s.csrRaw FLT_EXPINSTAR).toNat % 2 ^ 17]

/-! Profiles. -/

/-- The addresses that calibration pairs may name (R437). -/
def calAddrs : List Nat :=
  (List.range 2).flatMap (fun p => [RCV_IQA p, RCV_IQB p, RCV_IQC p])
  ++ (List.range 16).flatMap (fun c => [HKC_CH_CALOFF c, HKC_CH_CALGAIN c])
  ++ (List.range 8).flatMap (fun u => [TIM_TDC_CFG u, TIM_TDC_TMO u, TIM_TDC_NSTAT u])
  ++ (List.range 4).flatMap (fun p => [DTS_FIBA p, DTS_FIBB p, DTS_FIBC p, DTS_FIBD p])

/-- A profile can be applied: its MAC and MAGIC are right and its calibration pairs name what they may (R437, R438). -/
def Profile.usable (p : Profile) : Bool := p.good && p.cal.all (fun x => calAddrs.contains x.1)

/-- A profile as it reads: without K7 no MAC verifies (R437). -/
def State.profile (s : State) (n : Nat) : Profile :=
  let p := vget s.sec.profiles (n % 4) Profile.blank
  { p with good := p.good && vget s.sec.keys 7 false }

/-- IHASH and SLOT name the running image. -/
def State.namesRunning (s : State) (p : Profile) : Bool := p.slot % 2 == s.sec.runslot % 2 && p.ihash == s.sec.running.hash

/-- The pairs of a profile are applied; those that name the SEC window are skipped and counted (R437). -/
def State.applyPairs (s : State) (ps : List (Nat × Word)) : State :=
  ps.foldl (fun (st : State) (x : Nat × Word) => if inSec x.1 then st.inc SEC_PROFSKIP else st.writeCsr 0 true x.1 x.2) s

/-- A usable profile is loaded (R438): HKC stops, MAINS and the pairs are applied, the instar becomes `instar`. The result says whether a reset
is needed, the profile naming another image. -/
def State.loadProfile (s : State) (n instar : Nat) : State × Bool :=
  let p := s.profile n
  let s1 := s.writeCsr 0 true HKC_CTL (setBit (s.csrRaw HKC_CTL) 31 false)
  let s2 := s1.writeCsr 0 true HKC_CTL (setBit (s1.csrRaw HKC_CTL) 30 p.mains)
  let s3 := (s2.applyPairs p.cal).applyPairs p.cfg
  let other := !s.namesRunning p
  let s4 := s3.secUpd (fun x => { x with prof := n % 4, cfgSince := noteAddrs [] (p.cfg.map (·.1)), bootslot := if other then p.slot % 2 else x.bootslot })
  (s4.instarTo instar, other)

/-- A profile whose MAC or MAGIC is bad, an empty area apart (R439). -/
def Profile.torn (p : Profile) : Bool := !p.good && p != Profile.blank

/-- A profile found bad: PROFERR and a major alarm (R438). -/
def State.profBad (s : State) : State := (s.secUpd (fun x => { x with proferr := true })).alarm 1 SEC_STATUS 16

/-- SELPROF (R439): an invalid profile is answered E_FAULT and not applied (R438); under STALE the instar becomes FLT.EXPINSTAR + 1 and STALE clears (R410). Status and result word. -/
def State.selprof (s : State) (n : Nat) : State × Nat × List Nat :=
  if !(s.profile n).usable then (cond (s.profile n).torn State.profBad s, 7, [])
  else
    let r := s.loadProfile n (if s.flt.stale then s.f FLT_EXPINSTAR 15 0 + 1 else s.flt.instar + 1)
    ({ r.1 with flt := { r.1.flt with stale := false } }, 0, [b2n r.2])

/-- The contents that SAVEPROF gives a profile: the parts named by the mask are rewritten, the others kept (R440). -/
def State.saveContents (s : State) (n mask : Nat) : Profile :=
  let p := s.profile n
  let now (l : List Nat) : List (Nat × Word) := l.map (fun a => (a, s.csrView a))
  let p1 : Profile := if mask.testBit 0 then { p with cfg := now s.sec.cfgSince, mains := s.b HKC_CTL 30 } else p
  let p2 : Profile := if mask.testBit 1 then { p1 with cal := now calAddrs } else p1
  let p3 : Profile := if mask.testBit 2 then { p2 with slot := s.sec.runslot, version := s.sec.running.version, ihash := s.sec.running.hash } else p2
  { p3 with good := true }

/-- SAVEPROF: the profile is written; the answer follows with PROFILE_WRITE_DONE. While another is being written it is answered E_BUSY, and
without K7 E_FAULT, no MAC being possible (DESIGN CHOICE, notes/assumptions/76.md). -/
def State.saveprof (s : State) (tag n mask : Nat) : State × Option Nat :=
  let p := s.saveContents n mask
  if s.sec.saving.isSome then (s, some 3)
  else if !vget s.sec.keys 7 false then (s, some 7)
  else if 16000 < p.cfg.length ∨ 256 < p.cal.length then (s, some 8)
  else (s.secUpd (fun x => { x with saving := some (n % 4, p, tag) }), none)

end Sys2Proof.Machine
end

