-- ==== Sys2Proof/Machine/Start.lean ====
section
/-! DEFINITION. Start-up, the start of an image, the handover of a moult, and TDC calibration (R279, R433 to R435, R449 to R452, R65). -/

namespace Sys2Proof.Machine

open Csr

/-! Images in the cores. -/

/-- Both cores' memories hold an image and its initial checkpoint: PC at ENTRY, registers and trap registers 0, SEQ.TVEC from the image
(R64, R65). Timed actions stay. -/
def State.coreLoad (s : State) (i : Nat) : State :=
  let m := s.slot i
  let pc : BitVec 18 := BitVec.ofNat 18 m.entry
  let core : CoreSt := { CoreSt.reset with pc := pc, pmem := m.text, dmem := m.data, tacts := s.core.tacts, ckpt := { CoreSt.reset.ckpt with pc := pc } }
  let s1 : State := { s with core := core, sec := { s.sec with running := m, runslot := i % 2 } }
  ((((s1.setCsr SEQ_TVEC (BitVec.ofNat 32 (m.tvec / 4 * 4))).setCsr SEQ_EPC 0).setCsr SEQ_CAUSE 0).setPair SEQ_TVAL_LO 0).setCsr SEQ_TSTAT 0

/-- Commands with the old program are answered E_FAULT by the gate (R435). -/
def State.answerAll (s : State) : State :=
  let s1 : State := { s with gate := { s.gate with out := [] } }
  s.gate.out.foldl (fun (st : State) (o : OutCmd) => st.gateAnswer o.tag 7) s1

/-- Step 3 of Table SEC-9, at the forewing's ckpt: outstanding requests complete, the lease passes to the other core, which starts the image. -/
def State.handover (s : State) (slot : Nat) : State :=
  let s1 := (s.bump 0x02 1).csrFlush
  let s2 := s1.core.stores.foldl (fun (st : State) (x : Nat × Nat × Nat) => st.commitStore x.1) s1
  let s3 := (s2.coreLoad slot).answerAll
  let s4 : State := { s3 with flt := { s3.flt with foreB := !s3.flt.foreB, leaseAt := s3.up }, sec := { s3.sec with moult := some (.handed slot) } }
  s4.fltFlags

/-- Step 5 of Table SEC-9, at the next ckpt: comparison is on again and the module returns to its state. -/
def State.moultEnd (s : State) : State :=
  let s1 : State := { s with mode := s.moultTo, sec := { s.sec with moult := none } }
  (s1.setB FLT_STAT 29 false).log 2 0x0004 [2 ^ 8 + 15, b2n s.flt.foreB, 0]

/-! Start-up (Table PWR-4). -/

/-- The fabric keys that the key store holds stand in FAB: current key with its KEYID, and next key; FCNT starts at 0 (R305, R447; DEDUCED,
notes/assumptions/207.md). -/
def State.keyLoad (s : State) (slot : Nat) : State :=
  let cur := vget s.sec.fabKeys (2 * slot) (0, [])
  let nxt := vget s.sec.fabKeys (2 * slot + 1) (0, [])
  let s1 := if vget s.sec.keys (3 + 2 * slot) false then
      ({ s with fab := { s.fab with keyVals := vmod s.fab.keyVals (3 * slot) (fun _ => cur.2) } } : State).setF FAB_KEYID (16 * slot + 15) (16 * slot) cur.1
    else s
  if vget s.sec.keys (4 + 2 * slot) false then
    { s1 with fab := { s1.fab with nextKey := vmod s1.fab.nextKey slot (fun _ => some nxt.1), keyVals := vmod s1.fab.keyVals (3 * slot + 1) (fun _ => nxt.2) } }
  else s1

/-- The entries of the key store whose unwrap or MAC fails read as not installed, each with a major alarm (R420); K7 is generated where that is
due. -/
def State.unwrapKeys (s : State) (bad : Nat) : State :=
  let s1 := (List.range 8).foldl (fun (st : State) k =>
    if bad.testBit k && vget st.sec.keys k false then (st.setKey k false).alarm 1 SEC_KEYS k else st) s
  let s2 := (s1.keyLoad 0).keyLoad 1
  if s2.sec.k7due then (s2.setKey 7 true).secUpd (fun x => { x with k7due := false }) else s2

/-- The boot slot, or with BOOTALT the other one (R433). -/
def State.bootPick (s : State) : Option (Nat × Bool) :=
  let b := s.sec.bootslot % 2
  if s.imageOk b then some (b, false) else if s.imageOk (1 - b) then some (1 - b, true) else none

/-- The profile that PROFSEL selects is loaded, or with PROFDEF none (R438, R439). -/
def State.bootProfile (s : State) (torn : Bool) : State :=
  let n := s.sec.profsel
  let p := s.profile n
  let s1 := cond (torn || p.torn) State.profBad s
  if (s1.profile n).usable then (s1.loadProfile n (s1.flt.instar + 1)).1 else s1.secUpd (fun x => { x with profdef := true })

/-- MRAM areas that read back bad at start: image slots (bits 8, 9) and profiles (bits 10 to 13) become invalid. -/
def State.mramBad (s : State) (bad : Nat) : State :=
  let sl := s.sec.slots.mapIdx (fun i (m : Image) => { m with valid := m.valid && !bad.testBit (8 + i) })
  let pr := s.sec.profiles.mapIdx (fun i (p : Profile) => { p with good := p.good && !bad.testBit (10 + i) })
  s.secUpd (fun x => { x with slots := sl, profiles := pr })

/-- START_UP_PROFILE_LOADED: steps 2 to 9. The reference and the PLLs run, the key store is unwrapped, the boot slot checked and loaded, the
profile loaded and FAB released. `bad` names what MRAM returns wrongly. It waits for a pending wipe, and EXUVIA loads no image. -/
def State.startProfile (s : State) (bad : Nat) : State :=
  if s.pwr.held || s.mode != Mode.startup || s.pwr.step != 1 || s.sec.wipe.isSome || s.sec.lc == LifeCycle.exuvia then s
  else
    let torn := (s.profile s.sec.profsel).good && bad.testBit (10 + s.sec.profsel)
    let s1 := (((s.setF CLK_STAT 31 26 63).unwrapKeys bad).mramBad bad).pwrUpd (fun x => { x with step := 7 })
    match s1.bootPick with
    | none => (s1.secUpd (fun x => { x with noimg := true })).enterHold 8
    | some (i, alt) =>
      let s2 := (cond alt (fun z => (z.secUpd (fun x => { x with bootalt := true })).alarm 1 SEC_STATUS 18) s1).coreLoad i
      ((s2.bootProfile torn).fabRelease).pwrUpd (fun x => { x with step := 9 })

/-- One unit's calibration: LSB in units of 2^-12 ps and the largest non-linearity in 0.001 LSB; outside Table TIM-3 the unit keeps its previous
calibration with a minor alarm; TIM.TDC[u].CAL counts the run (R279, R281, R450). -/
def calGood (lsb dnl : Nat) : Bool := decide (11060 ≤ lsb) && decide (lsb ≤ 13516) && decide (dnl ≤ 300)
def State.tdcCalibrate (s : State) (u lsb dnl : Nat) : State :=
  let s := s.incF (TIM_TDC_CAL u) 15 0
  if calGood lsb dnl then s.setF (TIM_TDC_CAL u) 31 16 lsb else s.alarm 2 (TIM_TDC_CAL u) 16 79 (chanId s.dev 79 u)

/-- STARTUP_COMPLETE: steps 7 and 10 to 12. The DRAM channels are trained with the results `res`, of which none may fail (R450). The TDC units are calibrated, RCV.ADCPH measured, the switch stands on the port of
LCH.PLAN, and the image starts at ENTRY in IDLE (R88). -/
def State.startDone (s : State) (cal : List (Nat × Nat)) (phase : Word) (res : List TrnResult) : State :=
  if s.pwr.held || s.mode != Mode.startup || s.pwr.step != 9 then s
  else if res.any (fun r => !r.ok) then s.enterHold 8
  else
    let s0 := (List.range 4).foldl (fun st n => st.chanResult n 0 (nth res n { ok := true })) s
    let s1 := (List.range 8).foldl (fun (st : State) u => st.tdcCalibrate u (nth cal u (0, 0)).1 (nth cal u (0, 0)).2) s0
    let s2 := (s1.setF RCV_ADCPH 8 0 (phase.toNat % 500)).setF PWR_STARTT 15 0 (min 65535 ((s.up - s.pwr.startAt) / ms))
    let s3 : State := { s2 with lch := { s2.lch with port := s2.f LCH_PLAN 25 24, portRdy := true, portPend := false }, flt := { s2.flt with leaseAt := s.up } }
    { s3 with mode := .idle, pwr := { s3.pwr with step := 12 } }

/-- START_UP_FAILURE: 0 the reference, 1 PUF, 2 no valid image, 3 a DRAM channel, 4 both cores, 5 core A or 6 core B (R420, R433, R450). -/
def State.startFail (s : State) (kind : Nat) : State :=
  if s.pwr.held || s.mode != Mode.startup then s
  else match kind with
    | 0 => (s.setB CLK_STAT 31 false).enterHold 5
    | 1 => (s.secUpd (fun x => { x with puffail := true })).enterHold 8
    | 2 => (s.secUpd (fun x => { x with noimg := true })).enterHold 8
    | 3 => s.enterHold 8
    | 4 => s.enterHold 8
    | 5 => if s.flt.inA && s.flt.inB then (s.coreOut true).setFore true else s
    | _ => if s.flt.inA && s.flt.inB then s.coreOut false else s

/-! TDCCAL (R279). -/

/-- The units of a mask, ascending. -/
def maskUnits (m : Nat) : List Nat := (List.range 8).filter (fun u => m.testBit u)

/-- TDCCAL: an answer at once, or none while the units calibrate; one that names other units runs beside those in progress. -/
def State.tdccal (s : State) (tag mask : Nat) : State × Option Nat :=
  let us := maskUnits mask
  if us.isEmpty then (s, some 2)
  else if us.any (fun u => s.tdcOwner u != 0) then (s, some 3)
  else
    let s1 := s.setF TIM_CALSTAT 7 0 (s.f TIM_CALSTAT 7 0 ||| us.foldl (fun m u => m + 2 ^ u) 0)
    ({ s1 with tim := { s1.tim with cal := s1.tim.cal ++ [(tag, us, [], false)] } }, none)

/-- TDC_CALIBRATION_DONE: the unit under calibration is done; after the last of a TDCCAL that one is answered. -/
def State.tdcCalDone (s : State) (u lsb dnl : Nat) : State :=
  match s.tim.cal.find? (fun (c : Nat × List Nat × List Nat × Bool) => c.2.1.head? == some u) with
  | some c =>
    let s1 := (s.tdcCalibrate u lsb dnl).setB TIM_CALSTAT u false
    let c' : Nat × List Nat × List Nat × Bool := (c.1, c.2.1.tail, c.2.2.1 ++ [lsb % 65536 * 65536 + dnl % 65536], c.2.2.2 || !calGood lsb dnl)
    if c'.2.1.isEmpty then
      let s2 : State := { s1 with tim := { s1.tim with cal := s1.tim.cal.erase c } }
      s2.lateAnswer c'.1 (if c'.2.2.2 then 7 else 0) 0x0053 c'.2.2.1
    else { s1 with tim := { s1.tim with cal := s1.tim.cal.map (fun x => if x = c then c' else x) } }
  | none => s

/-! Storage in MRAM (R431, R440). -/

/-- IMAGE_SLOT_WRITE_DONE: the slot is valid if the image read back from MRAM passes the check again. -/
def State.slotDone (s : State) (sigOk hashOk : Bool) : State :=
  match s.sec.loading with
  | none => s
  | some (t, m, tag) =>
    let ok := sigOk && hashOk && s.revOk m.minrev && decide (s.sec.rbc ≤ m.version) && s.keyPermits m.keysel
    let st := if ok then 0 else if !sigOk || decide (m.version < s.sec.rbc) || !s.keyPermits m.keysel then 4 else 9
    let s1 := (s.putSlot t (fun _ => { m with valid := ok })).secUpd (fun x => { x with loading := none })
    s1.lateAnswer tag st 0x0020 []

/-- PROFILE_WRITE_DONE. -/
def State.profDone (s : State) : State :=
  match s.sec.saving with
  | none => s
  | some (n, p, tag) => (s.secUpd (fun x => { x with profiles := vmod x.profiles n (fun _ => p), saving := none })).lateAnswer tag 0 0x0014 []

end Sys2Proof.Machine
end

