-- ==== Sys2Proof/Machine/Gate.lean ====
section
/-! DEFINITION. The command gate: judging commands, the commands it serves itself, the state changes it makes (R56 to R62). -/

namespace Sys2Proof.Machine

open Csr

/-- Table SEQ-11: the states in which a command is legal; none for a code outside the table. -/
def cmdModes : Nat → Option (List Mode)
  | 0x01 | 0x02 | 0x03 => some [.startup, .idle, .armed, .run, .cocoon, .hold, .moult]
  | 0x04 | 0x05 | 0x16 | 0x40 | 0x61 => some [.idle, .armed, .run, .moult]
  | 0x10 | 0x13 | 0x14 | 0x23 | 0x30 | 0x51 | 0x52 | 0x55 | 0x70 | 0x71 | 0x73 => some [.idle]
  | 0x11 => some [.armed]
  | 0x12 => some [.armed, .run, .moult]
  | 0x15 | 0x20 | 0x21 | 0x41 | 0x50 | 0x53 | 0x54 | 0x60 | 0x72 => some [.idle, .armed, .run]
  | 0x22 => some [.moult]
  | 0x31 => some [.cocoon]
  | _ => none

/-- Commands that need physical presence (column P of Table SEQ-11). -/
def cmdP (code : Nat) : Bool := decide (0x70 ≤ code) && decide (code ≤ 0x73)

/-- DBGUNLOCK opens no window in EGG and LARVA (R62). -/
def State.needsPresence (s : State) (code : Nat) : Bool :=
  cmdP code && !(code == 0x72 && (s.sec.lc == LifeCycle.egg || s.sec.lc == LifeCycle.larva))

/-- FAB's mark on a management entry; an entry of the service SPI host needs none (R304, R305). -/
def State.cmdAuth (s : State) (tag : Nat) : Bool :=
  !tag.testBit 63 || (s.fab.reqs.find? (fun (x : MgmtReq) => x.handle == tag)).any (fun (x : MgmtReq) => x.auth)

/-- CODE and arguments of an entry's command block, or none where R56 is broken. -/
def State.cmdBlock (s : State) (e : Entry) : Option (Nat × List Nat) :=
  let w := s.word64 e.addr
  let n := nfld w 31 16
  if e.status = 0 ∧ e.type = 0 ∧ e.addr % 8 = 0 ∧ inMem e.addr e.length ∧ e.length = 8 * (1 + n) ∧ nfld w 47 44 = 1 ∧ nfld w 43 32 = 0 ∧
      nfld w 15 0 = 0 ∧ n ≤ 8190 then
    some (nfld w 63 48, s.words64 (e.addr + 8) n)
  else none

/-- Steps 2 to 4 of R58: 0, or the status that the gate answers. -/
def State.cmdJudge (s : State) (code tag : Nat) : Nat :=
  match cmdModes code with
  | none => 10
  | some l => if !l.contains s.mode then 1 else if !s.cmdAuth tag then 4 else 0

/-- The gate answers a command that failed (R58, R59). -/
def State.gateFail (s : State) (code tag status : Nat) : State := (cond (status == 1) (·.rejectLog code tag) s).gateAnswer tag status

/-- PING, STATUS and RESET, which the gate serves itself (R60). -/
def State.gateServe (s : State) (code tag : Nat) : Option State :=
  match code with
  | 1 => some (s.gateAnswer tag 0)
  | 2 => let b := s.gateBlock (respBlock 2 0 s.statusWords); some (b.2.gatePost (respEntry tag 0 b.1 32))
  | 3 => some ((s.gateAnswer tag 0).resetSoon)
  | _ => none

/-- The command goes to the program. -/
def State.gateHand (s : State) (c : OutCmd) : State := { s with gate := { s.gate with out := s.gate.out ++ [c] } }

/-- One entry that has left Q125 or the holding buffer: the state, and the entry as the program's take returns it (R58, R424). A second
command marked P while a window is open carries E_BUSY (notes/assumptions/17.md). -/
def State.gateEntry (s : State) (e : Entry) : State × Option Entry :=
  match s.cmdBlock e with
  | none => (s.gateAnswer e.tag 9, none)
  | some b =>
    let st := s.cmdJudge b.1 e.tag
    if st ≠ 0 then (s.gateFail b.1 e.tag st, none)
    else match s.gateServe b.1 e.tag with
      | some t => (t, none)
      | none =>
        let c : OutCmd := { tag := e.tag, code := b.1, args := b.2 }
        if !s.needsPresence b.1 then (s.gateHand c, some e)
        else if s.sec.window.isSome then (s.gateHand c, some { e with status := 3 })
        else (s.windowOpen c e false, none)

/-- A command is taken: SEQ.CMDCNT and its counter source. -/
def State.cmdCount (s : State) : State := (s.incMod SEQ_CMDCNT).bump 0x03 1

/-- The oldest entry leaves a queue: DONE is cleared in the ring and HEAD advances (R48). -/
def State.takeHead (s : State) (n : Nat) : Entry × State :=
  (s.qEntry n (s.qHead n), s.dequeue n)

/-- The next entry the gate judges: the holding buffer's, then Q125's. -/
def State.gateNext (s : State) : Option (Entry × State) :=
  match s.dbg.postBuf with
  | e :: es => some (e, ({ s with dbg := { s.dbg with postBuf := es } } : State).cmdCount)
  | [] => if s.qReady 125 then let r := s.takeHead 125; some (r.1, r.2.cmdCount) else none

/-- The program's take on Q125: commands whose window has ended come first, then entries until one reaches the program (R58, R424). -/
def State.gateLoop (s : State) : Nat → State × Option Entry
  | 0 => (s, none)
  | k + 1 =>
    if s.gateBlocked then (s, none)
    else match s.gateNext with
      | none => (s, none)
      | some r => match r.2.gateEntry r.1 with
        | (t, some e) => (t, some e)
        | (t, none) => t.gateLoop k

/-- The gate inside a take on Q125. -/
def State.gateTake (s : State) : State × Option Entry :=
  match s.sec.ready with
  | r :: rs => (({ s with sec := { s.sec with ready := rs } } : State).gateHand r.2, some r.1)
  | [] => s.gateLoop (s.dbg.postBuf.length + s.qFill 125 + 1)

/-- GATE_TAKE: in STARTUP and HOLD the gate takes the next entry itself. In the other live states it serves an entry of the holding buffer
while Q125 is disabled, where it can answer it without the program (R60, R473). -/
def State.gateOwn (s : State) : State :=
  if s.gateBlocked then s
  else match s.gateNext with
    | none => s
    | some r =>
      let t := r.2.gateEntry r.1
      if s.mode == Mode.startup || s.mode == Mode.hold then t.1
      else if s.mode != Mode.cocoon && !s.qEn 125 && t.2.isNone && t.1.sec.window == s.sec.window then t.1
      else s

/-! The state changes of commands (R61, Table GLB-18). -/

/-- The module returns to IDLE. -/
def State.gateIdle (s : State) : State :=
  let g : GateSt := { s.gate with start := none, fin := none, stopPend := false }
  { s with mode := .idle, gate := g }

/-- ARM is answered OK. -/
def State.gateArm (s : State) (args : List Nat) : State :=
  let start := nth args 0 0
  let fin := nth args 1 0
  let g : GateSt := { s.gate with start := some start, fin := if fin = 0 then none else some fin, stopPend := false }
  { s with mode := if start = 0 then .run else .armed, gate := g }

/-- STOP is answered OK; it also ends the acquisition of the trigger engine (R237). -/
def State.gateStop (s : State) : State :=
  match s.mode with
  | .armed | .run => s.gateIdle.trgStop
  | .moult =>
    let g : GateSt := { s.gate with start := none, fin := none, stopPend := false, moultStop := true }
    ({ s with gate := g } : State).trgStop
  | _ => s

/-- The gate makes the state change of a command answered OK. -/
def State.gateDo (s : State) (c : OutCmd) : State :=
  match c.code with
  | 0x10 => if s.mode = .idle then s.gateArm c.args else s
  | 0x11 => if s.mode = .armed then s.gateIdle else s
  | 0x12 => s.gateStop
  | 0x21 => if s.mode = .idle ∨ s.mode = .armed ∨ s.mode = .run then s.moultBegin (nth c.args 0 0) else s
  | 0x30 => if s.mode = .idle then s.cocoonBegin else s
  | 0x70 => match LifeCycle.of (nth c.args 0 0 % 8) with | some l => s.lcApply l | none => s
  | _ => s

/-- The gate sees a response posted on Q126 (R61). -/
def State.gateSees (s : State) (tag status : Nat) : State :=
  match s.gate.out.find? (fun (o : OutCmd) => o.tag == tag) with
  | none => s
  | some c => if status = 0 then (s.gateDone tag).gateDo c else s.gateDone tag

/-- ARM_START_REACHED. -/
def State.armStart (s : State) : State :=
  match s.gate.start with
  | some t => if s.mode = .armed ∧ stampReached s.time t then { s with mode := .run } else s
  | none => s

/-- ARM_END_REACHED: a STOP waits to be inserted; in any other state nothing is inserted. -/
def State.armEnd (s : State) : State :=
  match s.gate.fin with
  | some t =>
    if !stampReached s.time t then s
    else
      let live := s.mode = .armed ∨ s.mode = .run ∨ s.mode = .moult
      { s with gate := { s.gate with fin := none, stopPend := decide live } }
  | none => s

/-- GATE_STOP_INSERT: the STOP with TAG 0 goes into Q125, or its holding buffer, when there is room. -/
def State.stopInsert (s : State) : State :=
  let live := s.mode = .armed ∨ s.mode = .run ∨ s.mode = .moult
  let room := if s.qEn 125 then !s.qFull 125 else s.dbg.postBuf.length < 4
  if !s.gate.stopPend then s
  else if ¬live then { s with gate := { s.gate with stopPend := false } }
  else if ¬room then s
  else
    let a := s.gateBase + 32 * 127
    let s1 := s.putWords a [0x12 * 2 ^ 48 + 2 ^ 44]
    let s2 : State := { s1 with gate := { s1.gate with stopPend := false } }
    let e := respEntry 0 0 a 8
    if s.qEn 125 then s2.enqueue 125 e else { s2 with dbg := { s2.dbg with postBuf := s2.dbg.postBuf ++ [{ e with stamp := s.stampAt 11 }] } }

end Sys2Proof.Machine
end

