-- ==== Sys2Proof/Machine/HostCmd.lean ====
section
/-! DEFINITION. The host commands of Table SEQ-11, each from its take to its answer (R58, R60 to R63). -/

namespace Sys2Proof.Machine

open Csr

/-! A command as a whole. -/

/-- A host command: counted, judged, and served by the gate or by the program. In COCOON it goes to the cocoon mailbox (R60, R454). While
the holding buffer of answers is full, and while Q125 is disabled for a command of the program, nothing is taken. -/
def State.hostCmd (s : State) (code tag : Nat) (args : List Nat) (serve : State → State) : State :=
  if s.mode = .cocoon then s.mboxWrite (BitVec.ofNat 32 (code * 65536 + tag % 65536))
  else if s.gateBlocked then s
  else
    let s1 := s.cmdCount
    let st := s1.cmdJudge code tag
    if st ≠ 0 then s1.gateFail code tag st
    else match s1.gateServe code tag with
      | some t => t
      | none => if !s.qEn 125 then s else serve (s1.gateHand { tag := tag, code := code, args := args })

/-- The program answers a command, and the gate sees the answer that is posted (R57, R61). -/
def State.hostAnswer (s : State) (tag code status : Nat) (res : List Nat := []) : State :=
  let t := s.progPost tag status code res
  if t.qTail 126 = s.qTail 126 then t else t.gateSees tag status

/-- An answer at once, or none while the command runs. -/
def State.answerOr (r : State × Option Nat) (tag code : Nat) : State :=
  match r.2 with
  | some st => r.1.hostAnswer tag code st
  | none => r.1

/-! The program's part of each command. -/

/-- ARM: E_BUSY while FIBRECAL runs (R153), E_STALE while GLB.STATE.STALE is 1; without a START it is out of range. -/
def State.arm (s : State) (tag : Nat) (args : List Nat) : State :=
  s.hostAnswer tag 0x10 (if s.dts.fib.isSome then 3 else if s.flt.stale then 6 else if args.isEmpty then 2 else 0)

/-- LOGLEVEL (R413). -/
def State.loglevel (s : State) (tag level : Nat) : State := (s.setF FLT_LOG 1 0 (level % 4)).hostAnswer tag 0x04 0

/-- MOULT (R434). -/
def State.moult (s : State) (tag slot : Nat) : State := s.hostAnswer tag 0x21 (s.moultCheck slot)

/-- DRAMTRAIN (R322): it is answered when the last named channel is done. -/
def State.dramtrain (s : State) (tag arg : Nat) : State :=
  let ch := (List.range 4).filter (fun c => arg.testBit c)
  if ch.isEmpty then s.hostAnswer tag 0x54 2
  else if s.dram.train.isSome || s.dram.rate.isSome then s.hostAnswer tag 0x54 3
  else s.trainStart { chans := ch, mode := b2n (arg.testBit 8), res := [], named := ch, tag := some tag, forRate := false, hold := false }

/-- DRAMRATE (R324): it is answered when the change has completed. -/
def State.dramrate (s : State) (tag arg : Nat) : State :=
  if s.f MEM_STAT 31 31 = arg % 2 then s.hostAnswer tag 0x55 0
  else if s.dram.rate.isSome then s.hostAnswer tag 0x55 3
  else s.rateRequest (arg % 2) tag

/-- ROLEREQ (R408): it is answered when the role is taken or the request withdrawn. -/
def State.rolereq (s : State) (tag arg : Nat) : State :=
  let r := arg % 16
  let x := s.role r
  if 5 < r ∨ (r = 0 ∧ !s.b TIM_CTL 30) then s.hostAnswer tag 0x60 2
  else if x.held then s.hostAnswer tag 0x60 0
  else if x.live || x.req.isSome then s.hostAnswer tag 0x60 3
  else s.roleRequest r (some tag)

/-- ROLEREL (R408). -/
def State.rolerel (s : State) (tag arg : Nat) : State :=
  let r := arg % 16
  if 5 < r then s.hostAnswer tag 0x61 2
  else if !(s.role r).held then s.hostAnswer tag 0x61 1
  else (s.roleRelease r).hostAnswer tag 0x61 0

/-- SETCFG: address and value pairs (R409). -/
def pairUp : List Nat → List (Nat × Nat)
  | a :: v :: t => (a, v) :: pairUp t
  | _ => []

/-- FIBRECAL's search limits in kHz (R153). -/
def fibreLo (args : List Nat) : Nat := if nth args 4 0 = 0 then 10400000 else nth args 4 0
def fibreHi (args : List Nat) : Nat := if nth args 5 0 = 0 then 11200000 else nth args 5 0

/-- The centres of its LO windows, 400 MHz apart, none above the range of R141 (notes/assumptions/71.md). -/
def fibreWindows (args : List Nat) : List Nat :=
  (List.range ((fibreHi args - fibreLo args + 399999) / 400000)).map (fun i => min 11400000 (fibreLo args + 200000 + 400000 * i))

/-- FIBRECAL's arguments are out of range (R153). -/
def State.fibreRange (s : State) (args : List Nat) : Bool :=
  let first := nth args 1 0
  let last := nth args 2 0
  let off (v : Nat) : Bool := decide (v < 8900000) || decide (11400000 < v)
  decide (3 < nth args 0 0) || decide (last + 1 < first + 10) || decide (s.f LCH_RANGE 17 0 ≤ last) || off (fibreLo args) || off (fibreHi args)
    || decide (fibreHi args ≤ fibreLo args)

/-- Mean and sample standard deviation of a list, rounded to the nearest. -/
def meanSd (l : List Nat) : Nat × Nat :=
  let n := l.length
  let sum := l.foldl (· + ·) 0
  let sq := l.foldl (fun a x => a + x * x) 0
  (((2 * sum + n) / (2 * n)), if n ≤ 1 then 0 else (Nat.sqrt (4 * (n * sq - sum * sum) / (n * (n - 1))) + 1) / 2)

/-- The spectra FIBRECAL accumulates: by LO window, of the port's fibre, under DTS.CTL and DTS.FIT. -/
def State.fibreProf (s : State) (args : List Nat) : Prof :=
  let p := nth args 0 0
  { acc := [], nacc := 0, first := 0, last := 0, nhopd := 0, nskip := 0, settle := false, clip := false, suspect := false, navg := max 1 Config.fibreLaunches,
    fit := s.csrRaw DTS_FIT, fiba := s.csrRaw (DTS_FIBA p), fibb := s.csrRaw (DTS_FIBB p), fibc := s.csrRaw (DTS_FIBC p), fibd := s.csrRaw (DTS_FIBD p),
    plan := 0, range := s.f LCH_RANGE 17 0, port := p, ctl := s.csrRaw DTS_CTL, nucs := fibreWindows args, lim := none, ended := false }

/-- FIBRECAL (R153) begins: its launches follow, on its port. It fails while the laser is not locked or DTS.BUF names no DRAM, and a second one is
answered E_BUSY while one runs (DESIGN CHOICE, notes/assumptions/42.md). -/
def State.fibrecal (s : State) (tag : Nat) (args : List Nat) : State :=
  let p := nth args 0 0
  if s.fibreRange args then s.hostAnswer tag 0x52 2
  else if s.dts.fib.isSome then s.hostAnswer tag 0x52 3
  else if !s.lch.lock || !s.stageOk then s.hostAnswer tag 0x52 7
  else
    let s1 := cond (s.lch.port != p) (·.movePortTo p) s
    { s1 with dts := { s1.dts with fib := some { tag := tag, args := args, prof := s.fibreProf args, made := 0, failed := false, lo := 0, since := 0 } } }

/-- The entries of its section, by position. -/
def FibRun.section (f : FibRun) (es : List Nat) : List Nat :=
  let step := fld f.prof.ctl 6 0
  ((es.mapIdx (fun i w => (i * step, w))).filter (fun (x : Nat × Nat) => decide (nth f.args 1 0 ≤ x.1) && decide (x.1 ≤ nth f.args 2 0))).map (·.2)

/-- The shifts of the valid ones of some entries, in kHz. -/
def validNu (es : List Nat) : List Nat := (es.filter (fun w => w.testBit 8)).map (fun w => nfld w 63 40)

/-- FIBRECAL ends once its launches are made and processed: the entries of its section give NU0, and the results are answered; it fails where fewer
than half of them are valid, or where a launch failed (R153). The switch returns to the port of LCH.PLAN, and SYN-M to its selected slot where that has a band
(R341, notes/assumptions/71.md). -/
def State.fibreEnd (s : State) : State :=
  match s.dts.fib with
  | none => s
  | some f =>
    if (s.dts.staged ++ s.lch.tails ++ s.lch.wins).any (fun (l : Launch) => l.fib) || !(f.failed || decide (f.prof.navg * f.prof.nucs.length ≤ f.made)) then s
    else
      let p := f.prof.port
      let s1 : State := { s with dts := { s.dts with fib := none } }
      let s1' := s1.setB CLK_MCUR 4 false
      let s1'' := cond (s.b (CLK_MSLOT_STAT s.slotWanted) 31 && f.lo != 0) (fun st => st.hopTo st.slotWanted) s1'
      let s2 := cond (s.lch.port != s.f LCH_PLAN 25 24) State.movePort s1''
      let r := s.profFit f.prof (List.range f.prof.nucs.length)
      let es := r.best.map (fun b => (f.prof.entry r.o b).1)
      let sect := f.section es
      let ok := validNu sect
      if f.failed || ok.isEmpty || decide (2 * ok.length < sect.length) then s2.hostAnswer f.tag 0x52 7
      else
        let m := meanSd ok
        let all := validNu es
        ((s2.setF (DTS_FIBA p) 23 0 m.1).setCsr (DTS_FIBB p) (BitVec.ofNat 32 (nth f.args 3 0))).hostAnswer f.tag 0x52 0
          [m.1, m.2, all.foldl min (nth all 0 0), all.foldl max 0, f.made]

/-! Commands that need presence (R424). -/

/-- The program serves a command marked P whose presence was given, or that needs none. `pre` says that LCSET's preconditions have held throughout
(R427). -/
def State.present (s : State) (c : OutCmd) (pre : Bool) : State :=
  let a := nth c.args 0 0
  let b := nth c.args 1 0
  match c.code with
  | 0x70 => s.hostAnswer c.tag 0x70 (s.lcAnswer a b pre)
  | 0x71 => let r := s.keyrepl c.args; r.1.hostAnswer c.tag 0x71 r.2.1 r.2.2
  | 0x72 => let r := s.dbgunlock a b; r.1.hostAnswer c.tag 0x72 r.2
  | _ => let r := s.fabkey c.args; r.1.hostAnswer c.tag 0x73 r.2

/-- A command marked P has been taken: its window opens, or it is served or refused at once. The state holds it already with the program. -/
def State.pressFor (s : State) (c : OutCmd) : State :=
  if !s.needsPresence c.code then s.present c true
  else if s.sec.window.isSome then s.hostAnswer c.tag c.code 3
  else s.windowOpen c { status := 0, type := 0, addr := 0, length := 0, qseq := 0, stamp := 0, tag := c.tag } true

/-- The window ends with the mark given: the command goes to the program, or its row serves it. -/
def State.windowEnd (s : State) (w : PresWin) (mark : Nat) : State :=
  let s1 := s.secUpd (fun x => { x with window := none })
  if !w.row then s1.secUpd (fun x => { x with ready := x.ready ++ [({ w.entry with status := mark }, w.cmd)] })
  else if mark = 0 then s1.present w.cmd w.held
  else s1.hostAnswer w.cmd.tag w.cmd.code mark

/-- PRESENCE_GIVEN: PRESENCE_N held low for 3 s, the press beginning after the window opened and within its 60 s. -/
def State.presenceGiven (s : State) : State :=
  match s.sec.window with
  | some w => if w.opened + 3 * psPerSec ≤ s.up ∧ s.up < w.opened + 60 * psPerSec then s.windowEnd w 0 else s
  | none => s

/-- PRESENCE_TIMEOUT: 60 s without presence; `stuck` says that PRESENCE_N stayed low for the whole window. -/
def State.presenceTimeout (s : State) (stuck : Bool) : State :=
  match s.sec.window with
  | some w =>
    if w.opened + 60 * psPerSec ≤ s.up then (cond stuck (·.secUpd (fun x => { x with prstuck := true })) s).windowEnd w 5 else s
  | none => s

end Sys2Proof.Machine
end

