-- ==== Sys2Proof/Machine/Shaham.lean ====
section
/-! DEFINITION. Shaham instructions on registers, local memory, physical memory and CSRs, and the branches (Tables SEQ-4, SEQ-5). -/

namespace Sys2Proof.Machine

open Csr

/-! Encodings (Table SEQ-3). -/

/-- Format A. -/
def wordA (op : Nat) (d a b : Fin 16) (fn : Nat) : Nat := op * 2 ^ 26 + d.val * 2 ^ 22 + a.val * 2 ^ 18 + b.val * 2 ^ 14 + fn % 64

/-- Format I. -/
def wordI (op : Nat) (d a : Fin 16) (imm : BitVec 18) : Nat := op * 2 ^ 26 + d.val * 2 ^ 22 + a.val * 2 ^ 18 + imm.toNat

/-- An assigned encoding with 0 in its 0 bits (R41). `eret` outside a handler is not judged here. -/
def legalWord (w : Nat) : Bool := (coreForm (BitVec.ofNat 32 w)).isSome

/-- The ILLEGAL trap with the instruction word. -/
def illegal (w : Nat) : IssueOut := .trap 1 0 w

/-! Arithmetic and logic. -/

/-- OP 0x00. -/
def State.opAlu (s : State) (fn : Nat) (d a b : Fin 16) : IssueOut :=
  s.compute d (alu fn (s.wreg a) (s.wreg b)) (aluFlags fn s.core.flags (s.wreg a) (s.wreg b)) (aluCycles fn)

/-- addi. -/
def State.opAddi (s : State) (d a : Fin 16) (imm : BitVec 18) : IssueOut :=
  s.compute d (s.wreg a + sext18 imm) (aluFlags 0 s.core.flags (s.wreg a) (sext18 imm)) 1

/-- andi, ori, xori, by the FN of their register form; C and V stay. -/
def State.opLogi (s : State) (fn : Nat) (d a : Fin 16) (imm : BitVec 18) : IssueOut :=
  let r := alu fn (s.wreg a) (zext18 imm)
  s.compute d r (flagsZN s.core.flags r) 1

/-- shli, shri, srai, by the FN of their register form; bits [17:6] of the immediate must be 0. -/
def State.opShi (s : State) (fn : Nat) (d a : Fin 16) (imm : BitVec 18) : IssueOut :=
  if 64 ≤ imm.toNat then illegal (wordI fn d a imm)
  else
    let r := alu fn (s.wreg a) (zext18 imm)
    s.compute d r (flagsZN s.core.flags r) 1

/-- lui. -/
def State.opLui (s : State) (d : Fin 16) (imm : BitVec 22) : IssueOut := s.compute d (imm.zeroExtend 64 <<< 18) s.core.flags 1

/-- mfs. -/
def State.opMfs (s : State) (d a : Fin 16) (imm : BitVec 18) : IssueOut :=
  let give (n : Nat) : IssueOut := s.compute d (BitVec.ofNat 64 n) s.core.flags 1
  match imm.toNat with
  | 0 => give s.core.pc.toNat
  | 1 => give s.now
  | 2 => give s.core.flags.toNat
  | 3 => give s.stateWord
  | 4 => give (s.flt.instar % 65536)
  | _ => illegal (wordI 0x14 d a imm)

/-- mts: FLAGS [6:0]. -/
def State.opMts (s : State) (d a : Fin 16) (imm : BitVec 18) : IssueOut :=
  if imm.toNat = 2 then .done ((s.setFlags (s.wreg a &&& 0x7F)).advance) 1 else illegal (wordI 0x15 d a imm)

/-- tadd. -/
def State.opTadd (s : State) (d a b : Fin 16) : IssueOut :=
  s.compute d (BitVec.ofNat 64 (stampAdd (s.wreg a).toNat (s.wreg b).toInt)) s.core.flags 2

/-! Branches. -/

/-- Control goes to a target inside program SRAM, or TARGET is raised (R42). -/
def State.goTo (s : State) (t : Int) (cycles : Nat) : IssueOut :=
  if t < 0 ∨ 0x40000 ≤ t ∨ t % 4 ≠ 0 then .trap 7 0 (ofSigned 64 t) else .done (s.retireTo (BitVec.ofNat 18 t.toNat)) cycles

/-- A conditional branch. -/
def State.opBranch (s : State) (k : Nat) (a b : Fin 16) (off : BitVec 18) : IssueOut :=
  if branchTaken k (s.wreg a) (s.wreg b) then s.goTo (branchTarget s.core.pc.toNat off.toInt) 2 else .done s.advance 1

/-- j. -/
def State.opJ (s : State) (off : BitVec 26) : IssueOut := s.goTo (branchTarget s.core.pc.toNat off.toInt) 2

/-- jal: w15 holds PC + 4. -/
def State.opJal (s : State) (off : BitVec 26) : IssueOut :=
  (s.setW 15 (BitVec.ofNat 64 (s.core.pc.toNat + 4))).goTo (branchTarget s.core.pc.toNat off.toInt) 2

/-- jr. -/
def State.opJr (s : State) (a : Fin 16) : IssueOut := s.goTo ((s.wreg a).toNat : Int) 3

/-! Local memory. -/

/-- The trap of a local address, if any: LOCALRANGE before MISALIGN. -/
def localTrap (a align : Nat) : Option (Nat × Nat) :=
  if 0x40000 ≤ a then some (4, a) else if a % align ≠ 0 then some (2, a) else none

/-- ldl. -/
def State.opLdl (s : State) (d a : Fin 16) (imm : BitVec 18) : IssueOut :=
  let x := (s.wreg a + sext18 imm).toNat
  match localTrap x 8 with
  | some t => .trap t.1 0 t.2
  | none =>
    if s.eccAt 1 x then .trap 5 0 x
    else s.compute d (BitVec.ofNat 64 (Memory.readN s.core.dmem x 8)) s.core.flags 2

/-- A 64-bit word of data SRAM is written, with valid ECC. -/
def State.putLocal (s : State) (x v : Nat) : State :=
  { s with core := { s.core with dmem := Memory.writeN s.core.dmem x 8 v, eccBad := s.core.eccBad.filter (fun y => !(y.1 == 1 && y.2 / 8 == x / 8)) } }

/-- stl. -/
def State.opStl (s : State) (d a : Fin 16) (imm : BitVec 18) : IssueOut :=
  let x := (s.wreg a + sext18 imm).toNat
  match localTrap x 8 with
  | some t => .trap t.1 0 t.2
  | none => .done (s.putLocal x (s.wreg d).toNat).advance 1

/-! Physical memory. -/

/-- The trap of a physical address, if any: BUSERR before MISALIGN. -/
def physTrap (a size : Nat) : Option (Nat × Nat) :=
  if !inMem a 1 then some (3, a) else if a % size ≠ 0 then some (2, a) else none

/-- What a load of the cores reads: memory with their own outstanding stores (R51). -/
def State.coreRead (s : State) (a size : Nat) : Nat :=
  Memory.readN (s.core.stores.foldl (fun m (x : Nat × Nat × Nat) => Memory.writeN m x.1 x.2.1 x.2.2) s.mem) a size

/-- An uncorrectable word that a load meets; an outstanding 8-byte store has made it good. -/
def State.loadBad (s : State) (a size : Nat) : Bool :=
  s.poisoned a size && !s.core.stores.any (fun (x : Nat × Nat × Nat) => x.2.1 == 8 && x.1 / 8 == a / 8)

/-- CORE cycles of an access to SRAM, or a free number for DRAM (Tables SEQ-4, SEQ-6: typical, not bounded). -/
def State.accessCycles (s : State) (a sram : Nat) : Nat × State :=
  (if inSram a 1 then sram else s.free.1, s.free.2)

/-- An address of DRAM whose channel's requests are held (R324, R327, Table CLK-2). -/
def State.memWaits (s : State) (a : Nat) : Bool := inDram a 1 && s.memHeldAt (dramChan a)

/-- A load is served: an uncorrectable word raises ECC (R317). -/
def State.loadNow (s : State) (d : Fin 16) (x size : Nat) : IssueOut :=
  if s.loadBad x size then .done ((s.dramRead x size).trapRaise 5 0 x) 6
  else
    let r := s.accessCycles x 12
    (r.2.ceRead x size).compute d (BitVec.ofNat 64 (s.coreRead x size)) s.core.flags r.1

/-- ld and ldw. -/
def State.opLoad (s : State) (size : Nat) (d a : Fin 16) (imm : BitVec 18) : IssueOut :=
  let x := (s.wreg a + sext18 imm).toNat
  match physTrap x size with
  | some t => .trap t.1 0 t.2
  | none =>
    if s.memWaits x then .done (s.setStall (.load d x size)) 0 else s.loadNow d x size

/-- A store leaves the cores: to SRAM it is visible at once, to DRAM it is outstanding until its channel serves it (R51, R319). -/
def State.putStore (s : State) (a size v : Nat) : State :=
  if inSram a 1 then
    let s1 : State := { s with mem := Memory.writeN s.mem a size v }
    if size = 8 then { s1 with poison := s1.poison.filter (· != a) } else s1
  else
    let s1 : State := { s with core := { s.core with stores := s.core.stores ++ [(a, size, v)] } }
    s1.admitStores (dramChan a)

/-- st and stw. -/
def State.opStore (s : State) (size : Nat) (d a : Fin 16) (imm : BitVec 18) : IssueOut :=
  let x := (s.wreg a + sext18 imm).toNat
  let v := (s.wreg d).toNat % 2 ^ (8 * size)
  match physTrap x size with
  | some t => .trap t.1 0 t.2
  | none => if 8 ≤ s.core.stores.length then .done (s.setStall (.store x size v)) 0 else .done (s.putStore x size v).advance 1

/-! CSRs. -/

/-- Live execution of a journaled instruction: the journal is met first, and the rest of it discarded where it differs (R402). -/
def State.meet {α β : Type} (s : State) (f : JEntry → Option α) (live : State → β) (met : α → State → β) : β :=
  match s.jmeet f with
  | some r => met r.1 r.2
  | none => live s.jdiverge

/-- csrr completes with the value of the register; a read of an RC register is journaled. -/
def State.csrrDone (s : State) (d : Fin 16) (a : Nat) : State :=
  let r := s.readCsr 0 a
  let s1 := cond (isResult a) (·.jpush (.csrr a r.1.toNat)) r.2
  s1.retire d (r.1.zeroExtend 64) s1.core.flags

/-- csrr at a CSR inside the windows: from CORE at once, from another island with its acknowledgement. -/
def State.csrrLive (s : State) (d : Fin 16) (a : Nat) : IssueOut :=
  if winIsland a = 1 then .done (s.csrrDone d a) 2
  else
    let s1 : State := { s with core := { s.core with stall := .csrr d a, csrSince := s.up } }
    .done s1 2

/-- csrr. -/
def State.opCsrr (s : State) (d a : Fin 16) (imm : BitVec 18) : IssueOut :=
  let x := (s.wreg a + zext18 imm).toNat
  if csrEnd ≤ x then .trap 3 0 x
  else if isResult x then
    s.meet (fun e => match e with | .csrr y v => if y = x then some v else none | _ => none)
      (fun s1 => s1.csrrLive d x) (fun v s1 => s1.compute d (BitVec.ofNat 64 v) s1.core.flags 2)
  else s.csrrLive d x

/-- csrw leaves the cores: a register of CORE is written at once, one of another island with its acknowledgement (R15). -/
def State.csrwPost (s : State) (a : Nat) (v : Word) : State :=
  if winIsland a = 1 then s.writeCsr 0 true a v
  else { s with core := { s.core with csrOut := s.core.csrOut ++ [(a, v, s.up)] } }

/-- csrw, to any window: it stalls while 16 writes are unacknowledged (Table SEQ-4). -/
def State.opCsrw (s : State) (d a : Fin 16) (imm : BitVec 18) : IssueOut :=
  let x := (s.wreg a + zext18 imm).toNat
  let v := BitVec.ofNat 32 (s.wreg d).toNat
  if csrEnd ≤ x then .trap 3 0 x
  else if 16 ≤ s.core.csrOut.length then
    let s1 : State := { s with core := { s.core with stall := .csrw x v, csrSince := s.up } }
    .done s1 0
  else .done ((s.advance).csrwPost x v) 1

/-- Outstanding csrw to one island take effect: what is addressed to it afterwards comes after them (R51). -/
def State.csrFlushTo (s : State) (island : Nat) : State :=
  let mine (x : Nat × Word × Nat) : Bool := winIsland x.1 == island
  let s1 : State := { s with core := { s.core with csrOut := s.core.csrOut.filter (fun x => !mine x) } }
  (s.core.csrOut.filter mine).foldl (fun (st : State) (x : Nat × Word × Nat) => st.writeCsr 0 true x.1 x.2.1) s1

/-- A csrw or store that stalled the cores leaves them when there is room. -/
def State.coreSettle (s : State) : State :=
  match s.core.stall with
  | .csrw a v => if s.core.csrOut.length < 16 then ((s.setStall .none).advance).csrwPost a v else s
  | .store a size v => if s.core.stores.length < 8 then ((s.setStall .none).putStore a size v).advance else s
  | _ => s

/-- CSR_ACKNOWLEDGE: an island acknowledges the oldest access of the cores outstanding to it (R14, R51). -/
def State.csrAck (s : State) (island : Nat) : State :=
  match s.core.csrOut.find? (fun (x : Nat × Word × Nat) => winIsland x.1 == island) with
  | some x =>
    let s1 : State := { s with core := { s.core with csrOut := s.core.csrOut.erase x } }
    (s1.writeCsr 0 true x.1 x.2.1).coreSettle
  | none =>
    match s.core.stall with
    | .csrr d a => if winIsland a = island then (s.setStall .none).csrrDone d a else s
    | _ => s.coreSettle

/-- CSRTIMEOUT: an access absent for 10 µs is given up and the trap raised, with its address (R52; notes/assumptions/43.md). -/
def State.csrTimeout (s : State) : State :=
  if !s.coreRuns || s.b SEQ_TSTAT 30 then s
  else match s.core.stall, s.core.csrOut with
    | .csrr _ a, [] => if s.core.csrSince + 10 * us ≤ s.up then (s.trapRaise 8 0 a).cycles 6 else s
    | _, x :: rest =>
      if x.2.2 + 10 * us ≤ s.up then (({ s with core := { s.core with csrOut := rest } } : State).trapRaise 8 0 x.1).cycles 6 else s
    | _, [] => s

end Sys2Proof.Machine
end

