-- ==== Sys2Proof/Machine/ShahamQ.lean ====
section
/-! DEFINITION. Shaham instructions on time, launch, queues, fences and the system (Tables SEQ-5, SEQ-6). -/

namespace Sys2Proof.Machine

open Csr

/-! Time. -/

/-- wait: issue stops until the stamp is reached (R43). -/
def State.opWait (s : State) (a : Fin 16) : IssueOut :=
  let t := (s.wreg a).toNat
  if stampReached s.tnow t then .done s.advance 1 else .done (s.setStall (.wait t)) 1

/-- WAIT_RESUME. -/
def State.waitResume (s : State) : State :=
  match s.core.stall with
  | .wait t => if s.coreRuns && stampReached s.tnow t then (s.setStall .none).advance else s
  | _ => s

/-- Timed action `k` is pending no longer. -/
def State.tactDrop (s : State) (k : Nat) : State :=
  { s with core := { s.core with tacts := s.core.tacts.filter (fun (x : TimedAct) => x.k != k) } }

/-- at: FN above 15 is ILLEGAL; a stamp under 100 ns ahead is refused; with A naming w0 a pending action is cancelled (R45). Outstanding csrw
to the TIME island come before it (R51). -/
def State.opAt (s : State) (d a b : Fin 16) (k : BitVec 6) : IssueOut :=
  if 16 ≤ k.toNat then illegal (wordA 0x26 d a b k.toNat)
  else
    let s1 := s.csrFlushTo 10
    let t := (s.wreg a).toNat
    if a = 0 then .done ((s1.tactDrop k.toNat).retireStatus d 0) 2
    else if stampDelta s.tnow t < 100000 then .done ((s1.sticky 4).retireStatus d 2) 2
    else
      let s2 := s1.tactDrop k.toNat
      let x : TimedAct := { k := k.toNat, stamp := t, value := BitVec.ofNat 32 (s.wreg b).toNat }
      .done (({ s2 with core := { s2.core with tacts := s2.core.tacts ++ [x] } } : State).retireStatus d 0) 2

/-- TIMED_ACTION: an action falls due at the first tick at or after its stamp, or the first reference edge while SYN-S is unlocked; its write is made for the lease holder, or ERR is set where
SEQ.TACT names no CSR window (R45). -/
def State.timedAction (s : State) (k : Nat) : State :=
  match s.core.tacts.find? (fun (x : TimedAct) => x.k == k) with
  | none => s
  | some x =>
    let g := if s.b CLK_STAT 30 then tick else 8 * tick
    if !stampReached (s.time / g * g) x.stamp then s
    else
      let a := s.f (SEQ_TACT (k % 16)) 20 0
      let s1 := s.tactDrop k
      if csrEnd ≤ a then s1.setB SEQ_TACTSTAT (16 + k % 16) true else s1.writeCsr 0 true a x.value

/-! Launch. -/

/-- A launch instruction completes with its status and FLAGS.T. -/
def State.launchDone (d : Fin 16) (r : Nat × Bool × State) : IssueOut := .done ((cond r.2.1 (·.sticky 4) r.2.2).retireStatus d r.1) 2

/-- lnch: the entry in wa[3:0] at stamp wb. -/
def State.opLnch (s : State) (d a b : Fin 16) : IssueOut :=
  State.launchDone d ((s.csrFlushTo 2).lnch ((s.wreg a).toNat % 16) (s.wreg b).toNat)

/-- frm.start: stamp wa, period wb. -/
def State.opFrmStart (s : State) (d a b : Fin 16) : IssueOut :=
  State.launchDone d ((s.csrFlushTo 2).frmStart (s.wreg a).toNat (s.wreg b).toNat)

/-- frm.stop. -/
def State.opFrmStop (s : State) (d a : Fin 16) : IssueOut :=
  .done (((s.csrFlushTo 2).frmStop (if a = 0 then none else some (s.wreg a).toNat)).retireStatus d 0) 2

/-! Queues. -/

/-- Queues whose producers include the sequencer (Table GLB-12). The table gives Q116 to Q119 one row, produced by the sequencer and consumed by
VEC and then the sequencer: Q116 and Q117 carry the jobs that the sequencer produces, Q118 and Q119 the results that it consumes
(DESIGN CHOICE, notes/assumptions/51.md). -/
def seqProduces (n : Nat) : Bool := (decide (80 ≤ n) && decide (n ≤ 113)) || n == 116 || n == 117 || n == 124 || n == 126 || n == 127

/-- Queues whose consumers include the sequencer; of Q116 to Q119 the two that carry results (DESIGN CHOICE, notes/assumptions/51.md). -/
def seqConsumes (n : Nat) : Bool :=
  decide (n ≤ 71) || (decide (76 ≤ n) && decide (n ≤ 79)) || n == 114 || n == 115 || n == 118 || n == 119 ||
  (decide (120 ≤ n) && decide (n ≤ 125)) || n == 127

/-- The trap of a queue instruction, if any: CAUSE and SEQ.TVAL (R49). -/
def queueTrap (word a n : Nat) (ok : Nat → Bool) : Option (Nat × Nat) :=
  if 128 ≤ n then some (1, word)
  else match localTrap a 32 with
    | some t => some t
    | none => if ok n then none else some (9, n)

/-- The local entry of a post: words 0, 1 and 3 as the program wrote them. -/
def State.localEntry (s : State) (a : Nat) : Entry :=
  let w (i : Nat) : Nat := Memory.readN s.core.dmem (a + 8 * i) 8
  Entry.ofWords (w 0) (w 1 / 2 ^ 32 * 2 ^ 32) 0 (w 3)

/-- The first word of the local entry at `a` with an uncorrectable error: the post that reads it raises ECC (R50, Table SEQ-7). -/
def State.entryEcc (s : State) (a : Nat) : Option (Nat × Nat) :=
  ((List.range 4).find? (fun i => s.eccAt 1 (a + 8 * i))).map (fun i => (5, a + 8 * i))

/-- The trap of a post, post.r or vjob: that of the queue instruction, then ECC (R50). -/
def State.postTrap (s : State) (word a n : Nat) (ok : Nat → Bool) : Option (Nat × Nat) :=
  (queueTrap word a n ok).orElse (fun _ => s.entryEcc a)

/-- FLAGS.Q is set where a post or post.r has been dropped (Tables SEQ-2, SEQ-6); vjob leaves it. -/
def State.qFlag (s : State) (kind status : Nat) : State := cond (kind == 0 && status == 3) (·.sticky 5) s

/-- A post completes with a status: FLAGS.Q for a dropped entry, wd and FLAGS.E; it is journaled. -/
def State.postDone (s : State) (kind : Nat) (d : Fin 16) (n : Nat) (e : Entry) (status : Nat) : State :=
  ((s.qFlag kind status).retireStatus d status).jpush (.post kind n e.words status)

/-- The entry is published; the gate watches Q126 (R61). -/
def State.postOk (s : State) (kind : Nat) (d : Fin 16) (n : Nat) (e : Entry) : State :=
  let s1 := (s.enqueue n e).postDone kind d n e 0
  if n = 126 then s1.gateSees e.tag e.status else s1

/-- A post that runs live (R47). -/
def State.postLive (s : State) (kind : Nat) (d : Fin 16) (n : Nat) (e : Entry) : State :=
  if !s.qEn n then s.postDone kind d n e 1
  else if reservedAddr e.addr e.length then s.postDone kind d n e 2
  else if s.qHeld n then s.setStall (.post d n e s.up kind)
  else if !s.qFull n && !s.que.stalled.any (fun x => x.q == n) then s.postOk kind d n e
  else if s.qPol n = 1 then (s.inc (QUE_DROP n)).postDone kind d n e 3
  else s.setStall (.post d n e s.up kind)

/-- A post of the local entry at `a`, against the journal or live; `kind` 0 for post and post.r, 1 for vjob (R402). -/
def State.doPost (s : State) (kind : Nat) (d : Fin 16) (n a : Nat) : State :=
  let e := s.localEntry a
  s.meet (fun j => match j with | .post k q ws st => if k = kind ∧ q = n ∧ ws = e.words then some st else none | _ => none)
    (fun s1 => s1.postLive kind d n e) (fun st s1 => (s1.qFlag kind st).retireStatus d st)

/-- post. -/
def State.opPost (s : State) (d a : Fin 16) (imm : BitVec 18) : IssueOut :=
  let x := (s.wreg a).toNat
  match s.postTrap (wordI 0x2C d a imm) x imm.toNat seqProduces with
  | some t => .trap t.1 0 t.2
  | none => .done (s.doPost 0 d imm.toNat x) 4

/-- vjob: Q116 and Q117 only. -/
def State.opVjob (s : State) (d a : Fin 16) (imm : BitVec 18) : IssueOut :=
  let x := (s.wreg a).toNat
  match s.postTrap (wordI 0x30 d a imm) x imm.toNat (fun n => n == 116 || n == 117) with
  | some t => .trap t.1 0 t.2
  | none => .done (s.doPost 1 d imm.toNat x) 6

/-! Fences (R52, Table SEQ-8). A post, take or vjob completes in its queue when it issues. -/

/-- What a fence of kind 0 csr, 1 mem, 2 q, 3 all waits for has happened. -/
def State.fenceMet (s : State) (kind : Nat) : Bool :=
  match kind with
  | 0 => s.core.csrOut.isEmpty
  | 1 => s.core.stores.isEmpty
  | 2 => true
  | _ => s.core.csrOut.isEmpty && s.core.stores.isEmpty

/-- A fence. -/
def State.opFence (s : State) (kind : Nat) : IssueOut := if s.fenceMet kind then .done s.advance 1 else .done (s.setStall (.fence kind)) 1

/-- post.r: fence.all, then the post. -/
def State.opPostr (s : State) (d a : Fin 16) (imm : BitVec 18) : IssueOut :=
  let x := (s.wreg a).toNat
  match s.postTrap (wordI 0x2D d a imm) x imm.toNat seqProduces with
  | some t => .trap t.1 0 t.2
  | none => if s.fenceMet 3 then .done (s.doPost 0 d imm.toNat x) 5 else .done (s.setStall (.postr d x imm.toNat)) 1

/-- FENCE_RESUME: a stalled fence, or the fence of a post.r, completes. -/
def State.fenceResume (s : State) : State :=
  if !s.coreRuns then s
  else match s.core.stall with
    | .fence k => if s.fenceMet k then (s.setStall .none).advance else s
    | .postr d a n => if s.fenceMet 3 then ((s.setStall .none).doPost 0 d n a).cycles 4 else s
    | _ => s

/-! A full queue (R29). -/

/-- The hardware producer that has waited longest on a queue; of those that came in one MEM cycle, the one of the lowest rank (R29). -/
def State.firstStalled (s : State) (n : Nat) : Option Rec :=
  match s.que.stalled.filter (fun x => x.q == n) with
  | [] => none
  | r :: rs => some (rs.foldl (fun (m : Rec) (x : Rec) =>
      if s.sameCycle 8 x.since r.since && decide (prodRank x.island n < prodRank m.island n) then x else m) r)

/-- The producer that has waited longest on a queue is a hardware producer: it, unless the cores have waited longer. -/
def State.oldestStalled (s : State) (n : Nat) : Option Rec :=
  match s.firstStalled n, s.core.stall with
  | some r, .post _ q _ since _ =>
    if q = n ∧ (if s.sameCycle 8 since r.since then 1 ≤ r.island else since < r.since) then none else some r
  | x, _ => x

/-- The stall limit of a queue has passed since a time; without limit under FULLPOL 2 (Table GLB-14). -/
def State.stallOver (s : State) (n since : Nat) : Bool := s.qPol n != 2 && decide (since + s.f (QUE_CFG n) 23 8 * us ≤ s.up)

/-- The gate sees a response that had waited for Q126 (R61). -/
def State.lateSeen (s : State) (r : Rec) : State :=
  match r.bare with | some e => if r.q = 126 then s.gateSees e.tag e.status else s | none => s

/-- POST_STALL_END: the producer that has waited longest on a queue gets room, or drops its entry at its limit; while DRAM requests are held a queue
that lies there gives none. -/
def State.postStallEnd (s : State) (n : Nat) : State :=
  if !s.qEn n || s.qHeld n then s
  else match s.oldestStalled n with
    | some r =>
      let s1 : State := { s with que := { s.que with stalled := s.que.stalled.erase r } }
      if !s.qFull n then (((s1.emitRec r).evbMerge).trgSettle).lateSeen r else if s.stallOver n r.since then (s1.dropRec r).trgSettle else s
    | none =>
      match s.core.stall with
      | .post d q e since kind =>
        if q ≠ n then s
        else if !s.qFull n then (s.setStall .none).postOk kind d n e
        else if s.stallOver n since then ((s.setStall .none).inc (QUE_DROP n)).postDone kind d n e 3
        else s
      | _ => s

/-! take. -/

/-- Four words are copied to local memory. -/
def State.putEntry (s : State) (a : Nat) (ws : List Nat) : State :=
  (ws.foldl (fun (r : Nat × State) w => (r.1 + 8, r.2.putLocal r.1 w)) (a, s)).2

/-- A take completes: the entry with DONE set, or a status alone. -/
def State.takeDone (s : State) (d : Fin 16) (n a : Nat) (e : Option Entry) (status : Nat) : State :=
  let ws := match e with | some x => x.words | none => []
  ((s.putEntry a ws).retireStatus d status).jpush (.take n ws status)

/-- A take that runs live (R48); on Q125 the gate acts in it (R58). -/
def State.takeLive (s : State) (d : Fin 16) (n a : Nat) : State :=
  if !s.qEn n then s.takeDone d n a none 1
  else if n = 125 then
    let r := s.gateTake
    r.1.takeDone d n a r.2 (if r.2.isSome then 0 else 3)
  else if !s.qReady n then s.takeDone d n a none 3
  else
    let r := s.takeHead n
    (cond (decide (n < 64)) State.evbSync r.2).takeDone d n a (some r.1) 0

/-- A take that names a queue and a local address in order: against the journal or live (R402). -/
def State.takeRun (s : State) (d : Fin 16) (n x : Nat) : IssueOut :=
  let r := s.accessCycles (s.qBase n) 6
  .done (r.2.meet (fun j => match j with | .take q ws st => if q = n then some (ws, st) else none | _ => none)
    (fun s1 => s1.takeLive d n x) (fun v s1 => (s1.putEntry x v.1).retireStatus d v.2)) (if s.qEn n then r.1 else 6)

/-- The instruction that waited for held DRAM requests goes on once they are served again (R324, Table CLK-2). -/
def State.memResume (s : State) : State :=
  let go (o : IssueOut) : State := match o with | .done t n => t.cycles n | .trap cause code tval => (s.trapRaise cause code tval).cycles 6
  match s.core.stall with
  | .load d x size => if s.memWaits x || !s.coreRuns then s else go ((s.setStall .none).loadNow d x size)
  | .take d q x => if s.qHeld q || !s.coreRuns then s else go ((s.setStall .none).takeRun d q x)
  | _ => s

/-- take; of a queue with an enabled tap the sequencer is no consumer (R302, R328, notes/assumptions/183.md). -/
def State.opTake (s : State) (d a : Fin 16) (imm : BitVec 18) : IssueOut :=
  let x := (s.wreg a).toNat
  match queueTrap (wordI 0x2E d a imm) x imm.toNat (fun n => seqConsumes n && !s.tapped n) with
  | some t => .trap t.1 0 t.2
  | none => if s.qEn imm.toNat && s.qHeld imm.toNat then .done (s.setStall (.take d imm.toNat x)) 0 else s.takeRun d imm.toNat x

/-! The system. -/

/-- trap: bits [25:16] of the code must be 0. -/
def opTrap (code : BitVec 26) : IssueOut :=
  if 65536 ≤ code.toNat then illegal (0x38 * 2 ^ 26 + code.toNat) else .trap 6 code.toNat code.toNat

/-- eret: ILLEGAL outside a handler. -/
def State.opEret (s : State) (d a b : Fin 16) : IssueOut := if s.b SEQ_TSTAT 31 then .done s.trapReturn 3 else illegal (wordA 0x39 d a b 0)

/-- A queue selected by SEQ.IDLEMASK holds an entry; for Q125 also one that a take would return from the gate. -/
def State.idleQueue (s : State) : Bool :=
  (List.range 128).any (fun n => s.b (SEQ_IDLEMASK (n / 32)) (n % 32) &&
    (s.qReady n || (n == 125 && (!s.sec.ready.isEmpty || (s.qEn 125 && !s.dbg.postBuf.isEmpty)))))

/-- The value that an idle returns now, if it ends: 0 for a queue, 1 for time. -/
def State.idleEnd (s : State) (stamp : Option Nat) : Option Nat :=
  if s.idleQueue then some 0 else match stamp with | some t => if stampReached s.tnow t then some 1 else none | none => none

/-- idle completes with a value, and is journaled. -/
def State.idleDone (s : State) (d : Fin 16) (v : Nat) : State := (s.retire d (BitVec.ofNat 64 v) s.core.flags).jpush (.idle v)

/-- idle: in COCOON the cores stop at it (R453). -/
def State.opIdle (s : State) (d a : Fin 16) : IssueOut :=
  let t := if a = 0 then none else some (s.wreg a).toNat
  let live (s1 : State) : State :=
    match (if s1.mode == Mode.cocoon then none else s1.idleEnd t) with
    | some v => s1.idleDone d v
    | none => s1.setStall (.idle d t)
  .done (s.meet (fun j => match j with | .idle v => some v | _ => none) live
    (fun v s1 => s1.retire d (BitVec.ofNat 64 v) s1.core.flags)) 2

/-- IDLE_WAKE. -/
def State.idleWake (s : State) : State :=
  match s.core.stall with
  | .idle d t =>
    if !s.mode.live || s.flt.recovery.isSome then s
    else match s.idleEnd t with
      | some v => (s.setStall .none).idleDone d v
      | none => s
  | _ => s

/-- The checkpoint of this instant, with PC + 4; the journal is empty (R65, R402). -/
def State.takeCkpt (s : State) : State :=
  let k : Checkpoint :=
    { regs := s.core.regs, flags := s.core.flags, pc := s.core.pc + 4, intrap := s.b SEQ_TSTAT 31, epc := s.csrRaw SEQ_EPC,
      cause := s.csrRaw SEQ_CAUSE, tvalLo := s.csrRaw SEQ_TVAL_LO, tvalHi := s.csrRaw SEQ_TVAL_HI }
  ({ s with core := { s.core with ckpt := k, journal := [], jover := false, replay := [] } } : State).advance

/-- ckpt: the checkpoint; a core that has passed its retest resynchronises (R403); a moult that has loaded hands over, and one that has handed
over ends (Table SEC-9). -/
def State.opCkpt (s : State) : IssueOut :=
  match s.sec.moult with
  | some (.loaded k _) => .done (s.handover k) 20
  | some (.handed _) => .done s.takeCkpt.coreBack.moultEnd 20
  | _ => .done s.takeCkpt.coreBack 20

end Sys2Proof.Machine
end

