-- ==== Sys2Proof/Machine/Spi.lean ====
section
/-! DEFINITION. The service SPI port and the test access port (R470 to R474, R481, R482). -/

namespace Sys2Proof.Machine

open Csr

/-! Frames (R471). -/

/-- What a frame carries after OP: LEN, ADDR, the payload bytes and CHK. -/
structure SpiFrame where
  len : Nat
  addr : Nat
  payload : List Nat
  chk : Nat
  deriving DecidableEq, Repr

/-- CHK verifies: a CRC-8 over OP, LEN, ADDR and the payload. -/
def SpiFrame.good (f : SpiFrame) (op : Nat) : Bool :=
  crc8 ([op % 256, f.len % 256, f.len / 256 % 256] ++ bytesOf 5 f.addr ++ f.payload) == f.chk % 256

/-- The response of the port: STATUS, data and RCHK. -/
def State.spiReply (s : State) (status : Nat) (data : List Nat := []) : State :=
  { s with dbg := { s.dbg with spi := (status, data ++ [crc8 (status :: data)]) } }

/-- An operation: a frame whose CHK fails, or whose LEN or ADDR its table does not allow, is answered E_FORMAT and counted; one that COCOON does
not serve, E_STATE. -/
def State.spiOp (s : State) (op : Nat) (f : SpiFrame) (form asleep : Bool) (run : State → State) : State :=
  if !f.good op then (s.incF DBG_SPIERR 31 16).spiReply 9
  else if !form then (s.incF DBG_SPIERR 15 0).spiReply 9
  else if s.mode == Mode.cocoon && !asleep then s.spiReply 1
  else run s

/-! Operations (R472, R473). -/

/-- Entries of Q126, or of its holding buffer, that wait for the port. -/
def State.spiWaiting (s : State) : Nat :=
  let h := s.qHead 126
  let q := if s.qEn 126 then ((List.range (s.qFill 126)).filter (fun i =>
    (s.word64 (s.qSlot 126 (h + i))).testBit 63 && !(s.qEntry 126 (h + i)).tag.testBit 63)).length else 0
  q + s.dbg.ansBuf.length

/-- SPI_ATTN_N is driven low (R474). -/
def State.spiAttn (s : State) : Bool := decide (0 < s.spiWaiting) || s.b PWR_MBOXRSP 31

/-- NOP. -/
def State.spiNop (s : State) : State :=
  s.spiReply 0 (bytesOf 4 s.stateWord ++ bytesOf 4 (s.csrRaw DBG_SPIPOSTS).toNat ++ bytesOf 4 s.spiWaiting ++ bytesOf 4 s.pwrStat)

/-- `n` registers are read from an address on, as by any reader; in COCOON only the PWR window is reached (R454). -/
def State.spiRegs (s : State) (a : Nat) : Nat → List Nat × State
  | 0 => ([], s)
  | k + 1 =>
    let r := if s.mode == Mode.cocoon && a / 0x10000 != 0x14 then (0, s) else s.readCsr 1 a
    let t := r.2.spiRegs (a + 4) k
    (bytesOf 4 r.1.toNat ++ t.1, t.2)

/-- CSRRD. -/
def State.spiCsrrd (s : State) (len a : Nat) : State :=
  if a / 0x10000 ≠ (a + 4 * len - 4) / 0x10000 then s.spiReply 2 else let r := s.spiRegs a len; r.2.spiReply 0 r.1

/-- CSRWR: the PWR window only. -/
def State.spiCsrwr (s : State) (a : Nat) (v : Nat) : State :=
  if a / 0x10000 ≠ 0x14 then s.spiReply 2 else (s.writeCsr 1 false a (BitVec.ofNat 32 v)).spiReply 0

/-- MEMRD: the whole span is read before STATUS. -/
def State.spiMemrd (s : State) (len a : Nat) : State :=
  if !inMem a (8 * len) then s.spiReply 2
  else if s.poisoned a (8 * len) then (s.dramRead a (8 * len)).spiReply 7
  else (s.dramRead a (8 * len)).spiReply 0 ((s.words64 a len).flatMap (bytesOf 8))

/-- MEMWR: the host area, on-chip SRAM 0xFF0000 to 0xFFEFFF. -/
def State.spiMemwr (s : State) (len a : Nat) (ws : List Nat) : State :=
  if a < 0xFF0000 ∨ 0xFFF000 < a + 8 * len then s.spiReply 2 else (s.putWords a ws).spiReply 0

/-- POST. -/
def State.spiPost (s : State) (ws : List Nat) : State :=
  let e := Entry.ofWords (nth ws 0 0) (nth ws 1 0) 0 (nth ws 3 0)
  let full := if s.ansHeld then decide (4 ≤ s.dbg.postBuf.length) else s.qFull 125
  if e.tag.testBit 63 || reservedAddr e.addr e.length then s.spiReply 2
  else if full then s.spiReply 3
  else
    let s1 := if s.ansHeld then { s with dbg := { s.dbg with postBuf := s.dbg.postBuf ++ [{ e with stamp := s.stampAt 11 }] } } else s.enqueue 125 e (prodRank 11 125)
    (s1.incMod DBG_SPIPOSTS).spiReply 0

/-- The entry that TAKE gives, and the state with it taken: the holding buffer first, then Q126. -/
def State.spiOldest (s : State) : Option (Entry × State) :=
  match s.dbg.ansBuf with
  | e :: es => some (e, { s with dbg := { s.dbg with ansBuf := es } })
  | [] => if s.qEn 126 then s.takeMine 126 (fun t => !t.testBit 63) else none

/-- TAKE: it commits when RCHK has been clocked out; aborted, it leaves the entry. -/
def State.spiTake (s : State) (whole : Bool) : State :=
  match s.spiOldest with
  | none => s.spiReply 3
  | some (e, t) => (if whole then t else s).spiReply 0 (e.words.flatMap (bytesOf 8))

/-! Test access port (R481, R487). -/

/-- The instruction in force: 0 IDCODE, 1 BYPASS, 2 SAMPLE/PRELOAD, 3 EXTEST, 4 CLAMP, 5 HIGHZ; one that is not available acts as BYPASS. -/
def State.tapActs (s : State) (ir : Nat) : Nat :=
  let larval := s.sec.lc == LifeCycle.egg || s.sec.lc == LifeCycle.larva
  match ir with
  | 0 => 0
  | 2 => if s.dbgKind s.dbg.tap then 2 else 1
  | 3 | 4 | 5 => if s.dbgKind s.dbg.tap && larval && s.pwr.resetN then ir else 1
  | _ => 1

/-- TAP_OPERATION: an instruction and a scan of `din`. The cells that a boundary scan captures are pins whose order the spec does not give: a
free value. -/
def State.tapScan (s : State) (ir din : Nat) : State :=
  match s.tapActs ir with
  | 0 => { s with dbg := { s.dbg with tapIr := 0, tapOut := (csrReset GLB_ID).toNat } }
  | 2 | 3 => { s.free.2 with dbg := { s.dbg with tapIr := s.tapActs ir, tapDr := din, tapOut := s.free.1 } }
  | _ => { s with dbg := { s.dbg with tapIr := s.tapActs ir, tapOut := 2 * din } }

end Sys2Proof.Machine
end

