-- ==== Sys2Proof/Machine/Clocked.lean ====
section
/-! DEFINITION. Commands in time: which commands reach which part of the module, and the shared forms of register reads and writes. -/

namespace Sys2Proof.Machine

open Csr

/-- A command's outcome: its effect on everything but the queue of waiting commands. -/
def State.done (s t : State) : Host.Outcome State Fault Refusal := .next { t with pending := s.pending }

/-- HOLD for a clock fault, in which only the SAFE island runs (R349). -/
def State.safeOnly (s : State) : Bool := s.mode == .hold && (s.f FLT_SUMMARY 27 24 == 4 || s.f FLT_SUMMARY 27 24 == 5)

/-- The main islands are clocked and out of reset: not before release, not asleep in COCOON, not emerging, not stopped by a clock fault (R349, R447,
R453, R455). -/
def State.awake (s : State) : Bool :=
  !s.pwr.held && !s.safeOnly && (match s.pwr.phase with | .asleep => false | .emerging _ _ => false | _ => true)

/-- Picoseconds pass, then something acts that works in every state of the supplies. -/
def State.after (s : State) (dt : Nat) (f : State → State) : State := f (s.elapse dt)

/-- Picoseconds pass, then something of the SAFE island or of a pin acts, unless the module is held in reset. -/
def State.run (s : State) (dt : Nat) (f : State → State) : State :=
  let t := s.elapse dt
  if t.pwr.held then t else f t

/-- Picoseconds pass, then something of the main islands acts while they are awake. -/
def State.main (s : State) (dt : Nat) (f : State → State) : State :=
  let t := s.elapse dt
  if t.awake then f t else t

/-- Picoseconds pass, then something of the clock tree acts: the reference and SYN-S run in COCOON too, and the other PLLs start during emergence
(R349, R350). -/
def State.clocks (s : State) (dt : Nat) (f : State → State) : State :=
  let t := s.elapse dt
  if t.pwr.held || t.safeOnly then t else f t

/-- As `main`, for an island that waits while it is on the SAFE clock or its clock is stopped (Table CLK-2). -/
def State.isl (s : State) (i dt : Nat) (f : State → State) : State := s.main dt (fun t => if t.islandIdle i then t else f t)

/-- Something of the main islands acts at once. -/
def State.lit (s : State) (f : State → State) : State := if s.awake then f s else s

/-- Something outside the main islands acts at once, unless the module is held in reset. -/
def State.out (s : State) (f : State → State) : State := if s.pwr.held then s else f s

/-- An access reaches its register: the cores' while the islands are awake, the service SPI's in COCOON only in the PWR window (R454). -/
def State.reaches (s : State) (who a : Nat) : Bool :=
  if who = 0 then s.awake else !s.pwr.held && (s.mode != Mode.cocoon || a / 0x10000 == 0x14)

/-- A write of a register by the cores (0), as lease holder, or by the service SPI port (1). -/
def State.wr (s : State) (who a : Nat) (v : Word) (ok : Bool := true) : State :=
  if s.reaches who a && ok then s.writeCsr who (who == 0) a v else s

/-- A read of a register by the cores or the service SPI port; in COCOON the port reads 0 outside the PWR window (R454). -/
def State.rd (s : State) (who a : Nat) (f : State → State) : State :=
  if s.reaches who a then f s else if who = 1 ∧ !s.pwr.held then s.putLatch 1 a 0 else s

/-- Is the register at an address this half of a pair? -/
def isHalf (h : Half) (a : Nat) : Bool := match regAt a with | some r => r.half == h | none => false

/-- A read whose value stands in the reader's latch. -/
def State.readKept (s : State) (who a : Nat) : State := let r := s.readCsr who a; r.2.putLatch who a r.1

/-- RESULT_REGISTER_READ. -/
def State.readResultRow (s : State) (who a : Nat) : State := if isResult a then s.readKept who a else s

/-- PAIR_LO_READ. -/
def State.readLoRow (s : State) (who a : Nat) : State := if isHalf .lo a then s.readKept who a else s

/-- DTS_PROFILE_POST: the profile is posted, and answered with TINTs where others subscribe to it (R146, R270). -/
def State.profilePost (s : State) : State :=
  let t := s.profPost
  match s.dts.prof with
  | p :: _ => if t.dts.prof.length != s.dts.prof.length && p.nacc != 0 then t.tintAll (p.port) else t
  | [] => t

/-- DTS_PROFILE_POST: a profile, or the end of FIBRECAL's measurement. -/
def State.profileOrFibre (s : State) : State := s.profilePost.fibreEnd

/-- LASER_EN changes: the hardware acts, in reset only the pin does (R94). -/
def State.laserEdge (s : State) (dt : Nat) (v : Bool) (f : State → State) : State :=
  let t := s.elapse dt
  if t.pwr.held then t.laserPin v else f t

end Sys2Proof.Machine
end

