-- ==== Sys2Proof/Machine/CmdClk.lean ====
section
/-! DEFINITION. The meanings of the commands, one each: clocks. -/

namespace Sys2Proof.Machine

open Csr

/-- PLL_UNLOCK (R346): A PLL exceeds its phase limit for 3 comparisons and its islands move to the SAFE clock. -/
def execPllUnlock (dt : Nat) (pll : Fin 5) (s : State) : Host.Outcome State Fault Refusal :=
  s.done (s.clocks dt (·.pllUnlock pll))

/-- PLL_RELOCK (R348): A PLL holds lock for 20 us and its outputs and islands return. -/
def execPllRelock (dt : Nat) (pll : Fin 5) (band amp : Nat) (phase : Word) (rows : List (Nat × Nat × Nat × Nat)) (temps : List Nat) (s : State) :
    Host.Outcome State Fault Refusal :=
  s.done (s.clocks dt (fun t => (t.pllRelock pll band amp phase rows temps).memResume))

/-- SYN_S_LOCK_TIMEOUT (R349): SYN-S has not returned within 10 ms and the module enters HOLD. -/
def execSynSLockTimeout (dt : Nat) (s : State) : Host.Outcome State Fault Refusal :=
  s.done (s.clocks dt (·.synsTimeout))

/-- PLL_RETRY_ALARM (R349): A non-SYN-S PLL stays unlocked for 10 ms and a major alarm is raised. -/
def execPllRetryAlarm (dt : Nat) (pll : Fin 5) (s : State) : Host.Outcome State Fault Refusal :=
  s.done (s.clocks dt (·.pllAlarm pll))

/-- REF_COUNT_FAIL (R349): The SAFE count of the reference falls outside 5 % and the module enters HOLD. -/
def execRefCountFail (dt : Nat) (s : State) : Host.Outcome State Fault Refusal :=
  s.done (s.clocks dt (·.refFail))

/-- CLK_COMMIT (R344): A write of CLK.COMMIT with GO schedules staged clock changes for the commit point. -/
def execClkCommit (v : Word) (s : State) : Host.Outcome State Fault Refusal :=
  s.done (s.wr 0 Csr.CLK_COMMIT v)

/-- COMMIT_POINT (R345): The commit point arrives and the staged clock changes are applied or refused. -/
def execCommitPoint (dt : Nat) (s : State) : Host.Outcome State Fault Refusal :=
  s.done (s.main dt (·.commitPoint))

/-- MSLOT_WRITE (R341): A write of CLK.MSLOT[n].FREQ_HI sets a target and starts its band search. -/
def execMslotWrite (n : Fin 16) (v : Word) (s : State) : Host.Outcome State Fault Refusal :=
  s.done (s.wr 0 (CLK_MSLOT_FREQ_HI n) v)

/-- MSEL_HOP (R342): SYN-M hops to a selected slot and locks or loses READY. -/
def execMselHop (dt : Nat) (locked : Bool) (s : State) : Host.Outcome State Fault Refusal :=
  s.done (s.main dt (·.mselHop locked))

end Sys2Proof.Machine
end

