-- ==== Sys2Proof/Machine/CmdCore.lean ====
section
/-! DEFINITION. The meanings of the commands, one each: the Shaham instructions of the cores. -/

namespace Sys2Proof.Machine

open Csr

/-- ADD (R42): Core instruction add: wd = wa + wb, setting Z, N, C and V. -/
def execAdd (d a b : Fin 16) (s : State) : Host.Outcome State Fault Refusal :=
  s.done (s.issue (·.opAlu 0 d a b))

/-- SUB (R42): Core instruction sub: wd = wa - wb, setting Z, N, C and V. -/
def execSub (d a b : Fin 16) (s : State) : Host.Outcome State Fault Refusal :=
  s.done (s.issue (·.opAlu 1 d a b))

/-- AND (R42): Core bitwise and of wa and wb into wd. -/
def execAnd (d a b : Fin 16) (s : State) : Host.Outcome State Fault Refusal :=
  s.done (s.issue (·.opAlu 2 d a b))

/-- OR (R42): Core bitwise or of wa and wb into wd. -/
def execOr (d a b : Fin 16) (s : State) : Host.Outcome State Fault Refusal :=
  s.done (s.issue (·.opAlu 3 d a b))

/-- XOR (R42): Core bitwise xor of wa and wb into wd. -/
def execXor (d a b : Fin 16) (s : State) : Host.Outcome State Fault Refusal :=
  s.done (s.issue (·.opAlu 4 d a b))

/-- SHL (R42): Core shift of wa left by wb[5:0]. -/
def execShl (d a b : Fin 16) (s : State) : Host.Outcome State Fault Refusal :=
  s.done (s.issue (·.opAlu 5 d a b))

/-- SHR (R42): Core logical shift of wa right by wb[5:0]. -/
def execShr (d a b : Fin 16) (s : State) : Host.Outcome State Fault Refusal :=
  s.done (s.issue (·.opAlu 6 d a b))

/-- SRA (R42): Core arithmetic shift of wa right by wb[5:0]. -/
def execSra (d a b : Fin 16) (s : State) : Host.Outcome State Fault Refusal :=
  s.done (s.issue (·.opAlu 7 d a b))

/-- MUL (R42): Core multiply, keeping the low 64 bits of wa x wb. -/
def execMul (d a b : Fin 16) (s : State) : Host.Outcome State Fault Refusal :=
  s.done (s.issue (·.opAlu 8 d a b))

/-- MULHU (R42): Core unsigned multiply, keeping the high 64 bits. -/
def execMulhu (d a b : Fin 16) (s : State) : Host.Outcome State Fault Refusal :=
  s.done (s.issue (·.opAlu 9 d a b))

/-- MIN (R42): Core signed minimum of wa and wb. -/
def execMin (d a b : Fin 16) (s : State) : Host.Outcome State Fault Refusal :=
  s.done (s.issue (·.opAlu 10 d a b))

/-- MAX (R42): Core signed maximum of wa and wb. -/
def execMax (d a b : Fin 16) (s : State) : Host.Outcome State Fault Refusal :=
  s.done (s.issue (·.opAlu 11 d a b))

/-- MINU (R42): Core unsigned minimum of wa and wb. -/
def execMinu (d a b : Fin 16) (s : State) : Host.Outcome State Fault Refusal :=
  s.done (s.issue (·.opAlu 12 d a b))

/-- MAXU (R42): Core unsigned maximum of wa and wb. -/
def execMaxu (d a b : Fin 16) (s : State) : Host.Outcome State Fault Refusal :=
  s.done (s.issue (·.opAlu 13 d a b))

/-- ADDI (R42): Core add of the sign-extended IMM18 to wa. -/
def execAddi (d a : Fin 16) (imm : BitVec 18) (s : State) : Host.Outcome State Fault Refusal :=
  s.done (s.issue (·.opAddi d a imm))

/-- ANDI (R42): Core and of wa with the zero-extended IMM18. -/
def execAndi (d a : Fin 16) (imm : BitVec 18) (s : State) : Host.Outcome State Fault Refusal :=
  s.done (s.issue (·.opLogi 2 d a imm))

/-- ORI (R42): Core or of wa with the zero-extended IMM18. -/
def execOri (d a : Fin 16) (imm : BitVec 18) (s : State) : Host.Outcome State Fault Refusal :=
  s.done (s.issue (·.opLogi 3 d a imm))

/-- XORI (R42): Core xor of wa with the zero-extended IMM18. -/
def execXori (d a : Fin 16) (imm : BitVec 18) (s : State) : Host.Outcome State Fault Refusal :=
  s.done (s.issue (·.opLogi 4 d a imm))

/-- SHLI (R42): Core shift of wa left by IMM18[5:0]. -/
def execShli (d a : Fin 16) (imm : BitVec 18) (s : State) : Host.Outcome State Fault Refusal :=
  s.done (s.issue (·.opShi 5 d a imm))

/-- SHRI (R42): Core logical shift of wa right by IMM18[5:0]. -/
def execShri (d a : Fin 16) (imm : BitVec 18) (s : State) : Host.Outcome State Fault Refusal :=
  s.done (s.issue (·.opShi 6 d a imm))

/-- SRAI (R42): Core arithmetic shift of wa right by IMM18[5:0]. -/
def execSrai (d a : Fin 16) (imm : BitVec 18) (s : State) : Host.Outcome State Fault Refusal :=
  s.done (s.issue (·.opShi 7 d a imm))

/-- LUI (R42): Core load of the zero-extended IMM22 shifted left by 18 into wd. -/
def execLui (d : Fin 16) (imm : BitVec 22) (s : State) : Host.Outcome State Fault Refusal :=
  s.done (s.issue (·.opLui d imm))

/-- LDL (R42): Core load of a 64-bit word from local data SRAM. -/
def execLdl (d a : Fin 16) (imm : BitVec 18) (s : State) : Host.Outcome State Fault Refusal :=
  s.done (s.issue (·.opLdl d a imm))

/-- STL (R42): Core store of a 64-bit word to local data SRAM. -/
def execStl (d a : Fin 16) (imm : BitVec 18) (s : State) : Host.Outcome State Fault Refusal :=
  s.done (s.issue (·.opStl d a imm))

/-- LD (R42): Core load of a 64-bit word from a physical address. -/
def execLd (d a : Fin 16) (imm : BitVec 18) (s : State) : Host.Outcome State Fault Refusal :=
  s.done (s.issue (·.opLoad 8 d a imm))

/-- ST (R42): Core store of a 64-bit word to a physical address. -/
def execSt (d a : Fin 16) (imm : BitVec 18) (s : State) : Host.Outcome State Fault Refusal :=
  s.done (s.issue (·.opStore 8 d a imm))

/-- LDW (R42): Core load of a zero-extended 32-bit word from a physical address. -/
def execLdw (d a : Fin 16) (imm : BitVec 18) (s : State) : Host.Outcome State Fault Refusal :=
  s.done (s.issue (·.opLoad 4 d a imm))

/-- STW (R42): Core store of wd[31:0] to a physical address. -/
def execStw (d a : Fin 16) (imm : BitVec 18) (s : State) : Host.Outcome State Fault Refusal :=
  s.done (s.issue (·.opStore 4 d a imm))

/-- CSRR (R42): Core read of a CSR, crossing to the island of its window. -/
def execCsrr (d a : Fin 16) (imm : BitVec 18) (s : State) : Host.Outcome State Fault Refusal :=
  s.done (s.issue (·.opCsrr d a imm))

/-- CSRW (R15): Core write of a CSR, which takes effect when the target island acknowledges it. -/
def execCsrw (d a : Fin 16) (imm : BitVec 18) (s : State) : Host.Outcome State Fault Refusal :=
  s.done (s.issue (·.opCsrw d a imm))

/-- MFS (R42): Core read of a special value (PC, TNOW, FLAGS, GLB.STATE or instar). -/
def execMfs (d a : Fin 16) (imm : BitVec 18) (s : State) : Host.Outcome State Fault Refusal :=
  s.done (s.issue (·.opMfs d a imm))

/-- MTS (R42): Core write of FLAGS from wa. -/
def execMts (d a : Fin 16) (imm : BitVec 18) (s : State) : Host.Outcome State Fault Refusal :=
  s.done (s.issue (·.opMts d a imm))

/-- BEQ (R42): Core branch taken if wa equals wb. -/
def execBeq (a b : Fin 16) (off : BitVec 18) (s : State) : Host.Outcome State Fault Refusal :=
  s.done (s.issue (·.opBranch 0 a b off))

/-- BNE (R42): Core branch taken if wa differs from wb. -/
def execBne (a b : Fin 16) (off : BitVec 18) (s : State) : Host.Outcome State Fault Refusal :=
  s.done (s.issue (·.opBranch 1 a b off))

/-- BLT (R42): Core branch taken on signed less-than. -/
def execBlt (a b : Fin 16) (off : BitVec 18) (s : State) : Host.Outcome State Fault Refusal :=
  s.done (s.issue (·.opBranch 2 a b off))

/-- BGE (R42): Core branch taken on signed greater-or-equal. -/
def execBge (a b : Fin 16) (off : BitVec 18) (s : State) : Host.Outcome State Fault Refusal :=
  s.done (s.issue (·.opBranch 3 a b off))

/-- BLTU (R42): Core branch taken on unsigned less-than. -/
def execBltu (a b : Fin 16) (off : BitVec 18) (s : State) : Host.Outcome State Fault Refusal :=
  s.done (s.issue (·.opBranch 4 a b off))

/-- BGEU (R42): Core branch taken on unsigned greater-or-equal. -/
def execBgeu (a b : Fin 16) (off : BitVec 18) (s : State) : Host.Outcome State Fault Refusal :=
  s.done (s.issue (·.opBranch 5 a b off))

/-- J (R42): Core jump, relative to PC. -/
def execJ (off : BitVec 26) (s : State) : Host.Outcome State Fault Refusal :=
  s.done (s.issue (·.opJ off))

/-- JAL (R42): Core jump that writes the return address to w15. -/
def execJal (off : BitVec 26) (s : State) : Host.Outcome State Fault Refusal :=
  s.done (s.issue (·.opJal off))

/-- JR (R42): Core jump to the address held in wa. -/
def execJr (a : Fin 16) (s : State) : Host.Outcome State Fault Refusal :=
  s.done (s.issue (·.opJr a))

/-- WAIT (R43): Core instruction that stalls until TNOW reaches the stamp in wa. -/
def execWait (a : Fin 16) (s : State) : Host.Outcome State Fault Refusal :=
  s.done (s.issue (·.opWait a))

/-- WAIT_RESUME (R43): Issue resumes when the stamp of a stalled wait is reached. -/
def execWaitResume (dt : Nat) (s : State) : Host.Outcome State Fault Refusal :=
  s.done (s.main dt (·.waitResume))

/-- WAITC (R42): Core instruction that stalls for IMM18 cycles. -/
def execWaitc (imm : BitVec 18) (s : State) : Host.Outcome State Fault Refusal :=
  s.done (s.issue (fun t => .done t.advance (1 + imm.toNat)))

/-- AT (R45): Core instruction that schedules, replaces or cancels timed action k. -/
def execTimedAt (d a b : Fin 16) (k : BitVec 6) (s : State) : Host.Outcome State Fault Refusal :=
  s.done (s.issue (·.opAt d a b k))

/-- TIMED_ACTION (R45): A timed action falls due and writes its value to the CSR address held in SEQ.TACT[k]. -/
def execTimedAction (dt : Nat) (k : Fin 16) (s : State) : Host.Outcome State Fault Refusal :=
  s.done (s.main dt (·.timedAction k))

/-- TADD (R44): Core instruction that adds signed picoseconds to a short stamp. -/
def execTadd (d a b : Fin 16) (s : State) : Host.Outcome State Fault Refusal :=
  s.done (s.issue (·.opTadd d a b))

/-- LNCH (R46): Core instruction that schedules one launch of a pulse-plan entry at a stamp. -/
def execLnch (d a b : Fin 16) (s : State) : Host.Outcome State Fault Refusal :=
  s.done (s.issue (·.opLnch d a b))

/-- FRM_START (R73): Core instruction that checks the plan and starts the frame sequencer at stamp S with period P. -/
def execFrmStart (d a b : Fin 16) (s : State) : Host.Outcome State Fault Refusal :=
  s.done (s.issue (·.opFrmStart d a b))

/-- FRM_STOP (R46): Core instruction that stops the frame sequencer after a given launch. -/
def execFrmStop (d a : Fin 16) (s : State) : Host.Outcome State Fault Refusal :=
  s.done (s.issue (·.opFrmStop d a))

/-- POST (R47): Core instruction that posts a local 32-byte entry to a queue. -/
def execPost (d a : Fin 16) (imm : BitVec 18) (s : State) : Host.Outcome State Fault Refusal :=
  s.done (s.issue (·.opPost d a imm))

/-- POST_R (R53): Core instruction that completes fence.all and then posts. -/
def execPostR (d a : Fin 16) (imm : BitVec 18) (s : State) : Host.Outcome State Fault Refusal :=
  s.done (s.issue (·.opPostr d a imm))

/-- POST_STALL_END (R29): A producer stalled on a full queue either gets room, reaches its WAIT limit and drops, or is released because EN is cleared.
-/
def execPostStallEnd (dt : Nat) (q : Fin 128) (s : State) : Host.Outcome State Fault Refusal :=
  s.done (s.main dt (·.postStallEnd q))

/-- TAKE (R48): Core instruction that copies the oldest entry of a queue into local memory and advances HEAD. -/
def execTake (d a : Fin 16) (imm : BitVec 18) (s : State) : Host.Outcome State Fault Refusal :=
  s.done (s.issue (·.opTake d a imm))

/-- VJOB (R157): Core instruction that posts a vector job descriptor to Q116 or Q117. -/
def execVjob (d a : Fin 16) (imm : BitVec 18) (s : State) : Host.Outcome State Fault Refusal :=
  s.done (s.issue (·.opVjob d a imm))

/-- FENCE_CSR (R52): Core fence that waits for every earlier CSR access to complete. -/
def execFenceCsr (s : State) : Host.Outcome State Fault Refusal :=
  s.done (s.issue (·.opFence 0))

/-- FENCE_MEM (R52): Core fence that waits until every earlier store is visible. -/
def execFenceMem (s : State) : Host.Outcome State Fault Refusal :=
  s.done (s.issue (·.opFence 1))

/-- FENCE_Q (R52): Core fence that waits until every earlier queue instruction has completed. -/
def execFenceQ (s : State) : Host.Outcome State Fault Refusal :=
  s.done (s.issue (·.opFence 2))

/-- FENCE_ALL (R52): Core fence that waits for all the conditions of the other fences. -/
def execFenceAll (s : State) : Host.Outcome State Fault Refusal :=
  s.done (s.issue (·.opFence 3))

/-- FENCE_RESUME (R52): A stalled fence completes when the events it awaits have occurred. -/
def execFenceResume (dt : Nat) (s : State) : Host.Outcome State Fault Refusal :=
  s.done (s.main dt (·.fenceResume))

/-- CSRTIMEOUT (R52): A CSR access or fence stays unacknowledged for 10 us and raises the CSRTIMEOUT trap. -/
def execCsrtimeout (dt : Nat) (s : State) : Host.Outcome State Fault Refusal :=
  s.done (s.main dt (·.csrTimeout))

/-- TRAP (R50): Core instruction that raises SWTRAP with a code. -/
def execTrap (code : BitVec 26) (s : State) : Host.Outcome State Fault Refusal :=
  s.done (s.issue (fun _ => opTrap code))

/-- ERET (R50): Core return from a trap handler to SEQ.EPC, clearing INTRAP. -/
def execEret (d a b : Fin 16) (s : State) : Host.Outcome State Fault Refusal :=
  s.done (s.issue (·.opEret d a b))

/-- IDLE (R42): Core instruction that stalls until a masked queue holds an entry or TNOW reaches a stamp. -/
def execIdle (d a : Fin 16) (s : State) : Host.Outcome State Fault Refusal :=
  s.done (s.issue (·.opIdle d a))

/-- IDLE_WAKE (R42): A stalled idle returns 0 on a queue entry or 1 on its stamp. -/
def execIdleWake (dt : Nat) (s : State) : Host.Outcome State Fault Refusal :=
  s.done (s.main dt (·.idleWake))

/-- CKPT (R65): Core instruction that records the recovery checkpoint and empties the replay journal. -/
def execCkpt (s : State) : Host.Outcome State Fault Refusal :=
  s.done (s.issue (·.opCkpt))

/-- ILLEGAL_INSTRUCTION (R41): An unassigned or malformed encoding raises the ILLEGAL trap. -/
def execIllegalInstruction (w : Word) (s : State) : Host.Outcome State Fault Refusal :=
  s.done (s.issue (fun t => if legalWord w.toNat then .done t 0 else illegal w.toNat))

end Sys2Proof.Machine
end

