-- ==== Sys2Proof/Machine/CmdCsr.lean ====
section
/-! DEFINITION. The meanings of the commands, one each: registers, queues and the rest of the table. -/

namespace Sys2Proof.Machine

open Csr

/-- QUE_ENABLE (R28): A write of QUE.CFG[n] enables or disables a queue, checking its configuration. -/
def execQueEnable (n : Fin 128) (v : Word) (s : State) : Host.Outcome State Fault Refusal :=
  s.done (s.wr 0 (QUE_CFG n) v)

/-- QUE_HEAD_WRITE (R28): A consumer write of QUE.HEAD[n] advances the queue or is refused. -/
def execQueHeadWrite (n : Fin 128) (v : Word) (s : State) : Host.Outcome State Fault Refusal :=
  s.done (s.wr 0 (QUE_HEAD n) v)

/-- RESULT_REGISTER_READ (R31): A read of a result register latches its companion and clears NEW. -/
def execResultRegisterRead (who : Fin 2) (addr : Nat) (s : State) : Host.Outcome State Fault Refusal :=
  s.done (s.rd who addr (·.readResultRow who addr))

/-- PAIR_LO_READ (R12): A read of the LO half of a 64-bit pair latches the HI half for that reader. -/
def execPairLoRead (who : Fin 2) (addr : Nat) (s : State) : Host.Outcome State Fault Refusal :=
  s.done (s.rd who addr (·.readLoRow who addr))

/-- PAIR_HI_WRITE (R12): A write of the HI half applies it together with the held LO value. -/
def execPairHiWrite (who : Fin 2) (addr : Nat) (v : Word) (s : State) : Host.Outcome State Fault Refusal :=
  s.done (s.wr who addr v (isHalf .hi addr))

/-- CSR_WRITE (R10): A write to a register that has no row of its own, judged field by field under its access codes. -/
def execCsrWrite (who : Fin 2) (addr : Nat) (v : Word) (s : State) : Host.Outcome State Fault Refusal :=
  s.done (s.wr who addr v true)

/-- FE_SUPERFRAME (R194): At module tick 33j a downstream superframe begins. Its SF block carries the fast-command slots, LATPROBEs and the SYNC-state
BCRESET, ECRESET and RUN, and at most one slow-control request follows. -/
def execFeSuperframe (dt : Nat) (s : State) : Host.Outcome State Fault Refusal :=
  s.done (s.isl 5 dt (·.superframe))

/-- INGRESS_FIFO_DRAINED (R205): A link's ingress FIFO fill falls to 4,096 blocks and the module requests RELEASE. -/
def execIngressFifoDrained (dt : Nat) (l : Fin 64) (s : State) : Host.Outcome State Fault Refusal :=
  s.done (s.isl 5 dt (·.fifoDrained l))

/-- CSR_ACKNOWLEDGE (R15): The target island acknowledges a CSR access: the write takes effect there, or the csrr data return, and a stalled csrw is
released. -/
def execCsrAcknowledge (dt : Nat) (island : Fin 12) (s : State) : Host.Outcome State Fault Refusal :=
  s.done (s.main dt (·.csrAck island))

/-- TDC_CALIBRATION_DONE (R279): A code-density calibration of a TDC unit completes, updating or keeping its LSB and table, and TDCCAL is answered
when the last named unit is done. -/
def execTdcCalibrationDone (dt : Nat) (u : Fin 8) (lsb dnl : Nat) (s : State) : Host.Outcome State Fault Refusal :=
  s.done (s.main dt (·.tdcCalDone u lsb dnl))

/-- IMAGE_SLOT_WRITE_DONE (R431): The image written by LOADIMG has been stored in MRAM and checked on read-back, and the slot is marked valid or
invalid and the response posted. -/
def execImageSlotWriteDone (dt : Nat) (sigOk hashOk : Bool) (s : State) : Host.Outcome State Fault Refusal :=
  s.done (s.main dt (·.slotDone sigOk hashOk))

/-- PROFILE_WRITE_DONE (R440): The profile rewritten by SAVEPROF is written to MRAM with its new MAC and the command is answered. -/
def execProfileWriteDone (dt : Nat) (s : State) : Host.Outcome State Fault Refusal :=
  s.done (s.main dt (·.profDone))

/-- LIFE_CYCLE_WIPE_DONE (R428): The wipe named for a life-cycle change completes, the pending-wipe marker is cleared, and the module resets with
cause 6. -/
def execLifeCycleWipeDone (dt : Nat) (s : State) : Host.Outcome State Fault Refusal :=
  s.done (s.after dt (·.wipeDone))

/-- START_UP_FAILURE (R450): A start-up stage fails (PUF, no valid image, DRAM training, or both cores' self-test) and the module enters HOLD with
cause 8, or continues on one core with SINGLE set. -/
def execStartUpFailure (dt : Nat) (kind : Fin 7) (s : State) : Host.Outcome State Fault Refusal :=
  s.done (s.run dt (·.startFail kind))

/-- START_UP_PROFILE_LOADED (R449): At start-up step 9 the selected profile is loaded and FAB is released, so fabric ports may leave DOWN before the
module enters IDLE. -/
def execStartUpProfileLoaded (dt bad : Nat) (s : State) : Host.Outcome State Fault Refusal :=
  s.done (s.run dt (·.startProfile bad))

/-- SRAM_SCRUB (R417): The periodic scrub of core SRAM every 100 ms and of on-chip SRAM and VEC memories every 1 s corrects single-bit errors and
raises a major alarm on double-bit errors. -/
def execSramScrub (dt : Nat) (mem : Fin 6) (a : Nat) (double : Bool) (s : State) : Host.Outcome State Fault Refusal :=
  s.done (s.main dt (·.sramScrub mem a double))

/-- CONFIGURATION_PARITY_ERROR (R417): The parity check of a non-core island's configuration flip-flops fails, raising the major alarm of its block
and setting SUSPECT. -/
def execConfigurationParityError (dt : Nat) (island : Fin 12) (s : State) : Host.Outcome State Fault Refusal :=
  s.done (s.main dt (·.parityError island))

/-- SUPERVISOR_FAULT (R396): The duplicated SAFE supervisors disagree within 1 us, a critical alarm is raised and the module enters HOLD with cause 7.
-/
def execSupervisorFault (dt : Nat) (s : State) : Host.Outcome State Fault Refusal :=
  s.done (s.run dt (·.supervisorFault))

/-- BASEPLATE_TEMPERATURE_CHECK (R479): Every 100 ms the SAFE supervisor reads baseplate sensors 19 and 20 and raises a major alarm on each entry
above +70 C. -/
def execBaseplateTemperatureCheck (dt : Nat) (temp : Int) (s : State) : Host.Outcome State Fault Refusal :=
  s.done (s.run dt (·.baseplate temp))

/-- KA_3V3_CHANGE (R444): The keep-alive input KA_3V3 is lost or returns, changing PWR.STAT.KAOK and whether the seal is watched while main power is
absent. -/
def execKa3v3Change (dt : Nat) (ok : Bool) (s : State) : Host.Outcome State Fault Refusal :=
  s.done (s.after dt (·.kaChange ok))

/-- RNGFAIL_CLEAR (R421): 1,024 consecutive noise samples pass the health tests and RNGFAIL clears. -/
def execRngfailClear (dt : Nat) (s : State) : Host.Outcome State Fault Refusal :=
  s.done (s.run dt (·.rngClear))

/-- DIAGNOSTIC_PULSE (R389): At the start of the last second of a diagnosis window with no verdict, a 200 ns diagnostic pulse is inserted on a
permitted sink, or moved 5 ms later while another pulse is near. -/
def execDiagnosticPulse (dt : Nat) (n : Fin 16) (s : State) : Host.Outcome State Fault Refusal :=
  s.done (s.main dt (·.diagPulse n))

/-- PTP_LOCK_CHANGE (R313): FAB.PTP.STAT.LOCK is lost or regained, so the root takes PTP as its reference or loses it and may enter HOLDOVER. -/
def execPtpLockChange (dt : Nat) (ok : Bool) (s : State) : Host.Outcome State Fault Refusal :=
  s.done (s.main dt (·.ptpLock ok))

/-- ETHERNET_FRAME_DISCARDED (R310): A frame of a kind that Table FAB-9 does not support arrives on an Ethernet-mode port and is discarded and counted
in FAB.ETH[p].DISC. -/
def execEthernetFrameDiscarded (dt : Nat) (p : Fin 8) (s : State) : Host.Outcome State Fault Refusal :=
  s.done (s.isl 7 dt (·.ethOther p))

/-- TAP_OPERATION (R481): An IEEE 1149.1 instruction or scan is clocked through J5 (IDCODE, BYPASS, SAMPLE/PRELOAD, or EXTEST, CLAMP and HIGHZ where
allowed). -/
def execTapOperation (dt : Nat) (ir : Fin 8) (din : Nat) (s : State) : Host.Outcome State Fault Refusal :=
  s.done (s.after dt (·.tapScan ir din))

end Sys2Proof.Machine
end

