-- ==== Sys2Proof/Machine/CmdEvb.lean ====
section
/-! DEFINITION. The meanings of the commands, one each: event building. -/

namespace Sys2Proof.Machine

open Csr

/-- EVB_WINDOW_CLOSE (R244): An EVB fragment window closes and the fragment is published on Q72. -/
def execEvbWindowClose (dt : Nat) (s : State) : Host.Outcome State Fault Refusal :=
  s.done (s.isl 6 dt (·.evbClose))

/-- LOCAL_STRAGGLER_POST (R245): A local straggler is posted on Q74 at its time limit or when full. -/
def execLocalStragglerPost (dt : Nat) (s : State) : Host.Outcome State Fault Refusal :=
  s.done (s.isl 6 dt (·.stragglerPost))

/-- EVB_HEAD_ADVANCE (R242): EVB advances QUE.HEAD of a hit queue once its keep time passes. -/
def execEvbHeadAdvance (dt : Nat) (l : Fin 64) (s : State) : Host.Outcome State Fault Refusal :=
  s.done (s.isl 6 dt (·.evbAdvance l))

/-- CAND (R247): A CAND message arrives at the trigger decider. -/
def execCand (dt : Nat) (dev : Fin 1024) (c : Fin 4) (stamp cid : Nat) (s : State) : Host.Outcome State Fault Refusal :=
  s.done (s.isl 6 dt (·.cand dev c stamp cid))

/-- DECIDER_DECIDE (R247): The decider's hold expires and it decides the pending group of candidates. -/
def execDeciderDecide (dt : Nat) (s : State) : Host.Outcome State Fault Refusal :=
  s.done (s.isl 6 dt (·.decDecide))

/-- ACCEPT (R248): An ACCEPT message arrives and the class accepts the decider's trigger. -/
def execAccept (dt : Nat) (c : Fin 4) (epoch cid stamp num : Nat) (s : State) : Host.Outcome State Fault Refusal :=
  s.done (s.isl 6 dt (·.acceptMsg c epoch cid stamp num))

/-- REJECT (R248): A REJECT message arrives and the candidate is dropped. -/
def execReject (dt : Nat) (c : Fin 4) (cid : Nat) (s : State) : Host.Outcome State Fault Refusal :=
  s.done (s.isl 6 dt (·.rejectMsg c cid))

/-- CAND_TIMEOUT (R248): No answer to a CAND arrives within DTMO and the candidate is dropped. -/
def execCandTimeout (dt : Nat) (s : State) : Host.Outcome State Fault Refusal :=
  s.done (s.isl 6 dt (·.candTimeout))

/-- BUILD (R252): A BUILD message arrives at a builder and fixes the expected set of an event. -/
def execBuild (dt epoch num stamp : Nat) (devs : List Nat) (s : State) : Host.Outcome State Fault Refusal :=
  s.done (s.isl 6 dt (·.build epoch num stamp devs))

/-- BUSY (R247): A BUSY message arrives at the decider. -/
def execBusy (dt : Nat) (dev : Fin 1024) (busy : Bool) (s : State) : Host.Outcome State Fault Refusal :=
  s.done (s.isl 6 dt (·.decBusyMsg dev busy))

/-- GRANT (R251): A GRANT message replaces the module's credit for a builder. -/
def execGrant (dt : Nat) (bnum : Fin 4) (bepoch units : Nat) (s : State) : Host.Outcome State Fault Refusal :=
  s.done (s.isl 6 dt (·.grant bnum bepoch units))

/-- CREDIT (R251): A CREDIT message returns units and acknowledges fragments. -/
def execCredit (dt : Nat) (bnum : Fin 4) (bepoch units fseq : Nat) (s : State) : Host.Outcome State Fault Refusal :=
  s.done (s.isl 6 dt (·.credit bnum bepoch units fseq))

/-- FRAGMENT_SEND (R251): A waiting fragment is sent to its builder once enough credit is held. -/
def execFragmentSend (dt : Nat) (s : State) : Host.Outcome State Fault Refusal :=
  s.done (s.isl 6 dt (·.fragSend))

/-- FRAGMENT_RECEIVE (R252): A builder receives a fragment part and merges it into an event or a straggler. -/
def execFragmentReceive (dt : Nat) (words : List Nat) (s : State) : Host.Outcome State Fault Refusal :=
  s.done (s.isl 6 dt (·.fragReceive words))

/-- EVENT_CLOSE_TIMEOUT (R252): An open event reaches its timeout and closes incomplete. -/
def execEventCloseTimeout (dt : Nat) (s : State) : Host.Outcome State Fault Refusal :=
  s.done (s.isl 6 dt (·.eventTimeout))

end Sys2Proof.Machine
end

