-- ==== Sys2Proof/Machine/CmdFab.lean ====
section
/-! DEFINITION. The meanings of the commands, one each: the fabric. -/

namespace Sys2Proof.Machine

open Csr

/-- FABRIC_FRAME (R286): A fabric frame header arrives and the frame is delivered, forwarded or discarded. -/
def execFabricFrame (dt : Nat) (p : Fin 8) (sfd : Bool) (f : Frame) (done : Bool) (s : State) : Host.Outcome State Fault Refusal :=
  s.done (s.isl 7 dt (·.fabFrame p sfd f done))

/-- PHER (R291): A pheromone frame is received on a port. -/
def execPher (dt : Nat) (p : Fin 8) (f : Frame) (s : State) : Host.Outcome State Fault Refusal :=
  s.done (s.isl 7 dt (·.pher p f))

/-- PHER_SEND (R291): A port sends a PHER every FAB.PHER.INTV. -/
def execPherSend (dt : Nat) (p : Fin 8) (s : State) : Host.Outcome State Fault Refusal :=
  s.done (s.isl 7 dt (·.pherSend p))

/-- PEER_DEAD (R291): DEAD intervals pass with no valid PHER and the peer is lost. -/
def execPeerDead (dt : Nat) (p : Fin 8) (s : State) : Host.Outcome State Fault Refusal :=
  s.done (s.isl 7 dt (·.peerDead p))

/-- FAB_PORT_LOCK (R292): A fabric port gains or loses signal or block lock. -/
def execFabPortLock (dt : Nat) (p : Fin 8) (signal lock : Bool) (s : State) : Host.Outcome State Fault Refusal :=
  s.done (s.isl 7 dt (·.fabLock p signal lock))

/-- FAB_PORT_TIMEOUT (R292): A fabric port state times out and returns to TRAIN. -/
def execFabPortTimeout (dt : Nat) (p : Fin 8) (s : State) : Host.Outcome State Fault Refusal :=
  s.done (s.isl 7 dt (·.fabTimeout p))

/-- LSA (R296): An LSA arrives and is stored and flooded or discarded. -/
def execLsa (dt : Nat) (p : Fin 8) (f : Frame) (done : Bool) (s : State) : Host.Outcome State Fault Refusal :=
  s.done (s.isl 7 dt (·.lsa p f done))

/-- LSA_REFRESH (R296): The module floods its own LSA every REFRESH seconds. -/
def execLsaRefresh (dt : Nat) (s : State) : Host.Outcome State Fault Refusal :=
  s.done (s.isl 7 dt (·.lsaRefresh))

/-- LSA_MAXAGE (R296): An LSA not refreshed for MAXAGE is removed. -/
def execLsaMaxage (dt : Nat) (dev : Fin 1024) (s : State) : Host.Outcome State Fault Refusal :=
  s.done (s.isl 7 dt (·.lsaMaxage dev))

/-- ID_CLAIM_DONE (R294): The 50 ms claim wait ends and the module takes its identifier. -/
def execIdClaimDone (dt : Nat) (s : State) : Host.Outcome State Fault Refusal :=
  s.done (s.isl 7 dt (·.idTake))

/-- LCRED (R288): An LCRED frame returns link credit. -/
def execLcred (dt : Nat) (p : Fin 8) (w : Nat) (s : State) : Host.Outcome State Fault Refusal :=
  s.done (s.isl 7 dt (·.lcred p w))

/-- LCRED_SEND (R288): A receiver sends an LCRED after 8 units freed or every 10 us. -/
def execLcredSend (dt : Nat) (p : Fin 8) (s : State) : Host.Outcome State Fault Refusal :=
  s.done (s.isl 7 dt (·.lcredSend p))

/-- FAB_SEND (R301): FAB sends a queue entry as one message when the port and credit allow. -/
def execFabSend (dt : Nat) (p : Fin 8) (s : State) : Host.Outcome State Fault Refusal :=
  s.done (s.isl 7 dt (·.fabSend p))

/-- FWD_TAP_SEND (R302): A forward tap sends the next entry of its source queue. -/
def execFwdTapSend (dt : Nat) (t : Fin 8) (s : State) : Host.Outcome State Fault Refusal :=
  s.done (s.isl 7 dt (·.fwdTap t))

/-- FWD_WRITE (R302): A write of FAB.FWD[t] enables, configures or stops a forward tap. -/
def execFwdWrite (t : Fin 8) (v : Word) (s : State) : Host.Outcome State Fault Refusal :=
  s.done (s.wr 0 (FAB_FWD t) v)

/-- REASSEMBLY_TIMEOUT (R301): A message not complete 10 ms after its first fragment is discarded. -/
def execReassemblyTimeout (dt : Nat) (s : State) : Host.Outcome State Fault Refusal :=
  s.done (s.isl 7 dt (·.reasmTimeout))

/-- RANN (R406): An RANN message renews a role lease and is flooded if newer. -/
def execRann (dt : Nat) (r : Fin 6) (dev : Fin 1024) (epoch prio stamp serial : Nat) (s : State) : Host.Outcome State Fault Refusal :=
  s.done (s.isl 7 dt (·.rann r dev epoch prio stamp serial))

/-- RANN_RENEW (R406): A role holder floods an RANN every 2.5 ms. -/
def execRannRenew (dt : Nat) (r : Fin 6) (s : State) : Host.Outcome State Fault Refusal :=
  s.done (s.isl 7 dt (·.rannRenew r))

/-- RREQ (R407): An RREQ message from a role candidate arrives and is flooded. -/
def execRreq (dt : Nat) (r : Fin 6) (dev : Fin 1024) (epoch prio stamp serial : Nat) (s : State) : Host.Outcome State Fault Refusal :=
  s.done (s.isl 7 dt (·.rreq r dev epoch prio stamp serial))

/-- RREL (R407): An RREL message releases a role. -/
def execRrel (dt : Nat) (r : Fin 6) (dev : Fin 1024) (epoch prio stamp : Nat) (s : State) : Host.Outcome State Fault Refusal :=
  s.done (s.isl 7 dt (·.rrel r dev epoch prio stamp))

/-- ROLE_LAPSE (R407): A role passes 10 ms without renewal and lapses. -/
def execRoleLapse (dt : Nat) (r : Fin 6) (s : State) : Host.Outcome State Fault Refusal :=
  s.done (s.main dt (·.roleLapse r))

/-- ROLE_REQUEST_WAIT_END (R407): The 20 ms role-request wait ends and the module takes the role or withdraws. -/
def execRoleRequestWaitEnd (dt : Nat) (r : Fin 6) (s : State) : Host.Outcome State Fault Refusal :=
  s.done (s.main dt (·.roleWaitEnd r))

/-- ETH_ACK (R311): An ACK datagram acknowledges record pieces on an Ethernet port. -/
def execEthAck (dt : Nat) (p : Fin 8) (dseq sack : Nat) (s : State) : Host.Outcome State Fault Refusal :=
  s.done (s.isl 7 dt (·.ethAck p dseq sack))

/-- ETH_SYNC_TIMEOUT (R311): 5 s without an ACK, or link up, causes a SYNC datagram. -/
def execEthSyncTimeout (dt : Nat) (p : Fin 8) (s : State) : Host.Outcome State Fault Refusal :=
  s.done (s.isl 7 dt (·.ethSync p))

/-- ETH_RETRANSMIT (R311): A piece not acknowledged within RTO is sent again. -/
def execEthRetransmit (dt : Nat) (p : Fin 8) (s : State) : Host.Outcome State Fault Refusal :=
  s.done (s.isl 7 dt (·.ethRetransmit p))

/-- ETH_PIECE_SEND (R311): A record piece is sent within the window on an Ethernet port. -/
def execEthPieceSend (dt : Nat) (p : Fin 8) (s : State) : Host.Outcome State Fault Refusal :=
  s.done (s.isl 7 dt (·.ethPiece p))

/-- ETH_MGMT_DATAGRAM (R312): A management datagram arrives and its frame is handled. -/
def execEthMgmtDatagram (dt : Nat) (p : Fin 8) (ip port : Nat) (f : Frame) (s : State) : Host.Outcome State Fault Refusal :=
  s.done (s.isl 7 dt (·.ethMgmt p ip port f))

/-- ETH_ARP (R310): An ARP request or reply is handled on an Ethernet port. -/
def execEthArp (dt : Nat) (p : Fin 8) (reply : Bool) (target sender : Nat) (s : State) : Host.Outcome State Fault Refusal :=
  s.done (s.isl 7 dt (·.ethArp p reply target sender))

/-- ETH_ND (R310): An IPv6 neighbour solicitation or advertisement is handled. -/
def execEthNd (dt : Nat) (p : Fin 8) (solicit : Bool) (target sender : Nat) (s : State) : Host.Outcome State Fault Refusal :=
  s.done (s.isl 7 dt (·.ethNd p solicit target sender))

/-- ETH_ECHO (R310): An ICMP or ICMPv6 echo request is answered. -/
def execEthEcho (dt : Nat) (p : Fin 8) (v6 : Bool) (target sender : Nat) (data : List Nat) (s : State) : Host.Outcome State Fault Refusal :=
  s.done (s.isl 7 dt (·.ethEcho p v6 target sender data))

/-- PTP_MESSAGE (R313): A PTP event or general message is received by the ordinary clock. -/
def execPtpMessage (dt : Nat) (v6 : Bool) (domain : Nat) (m : PtpMsg) (s : State) : Host.Outcome State Fault Refusal :=
  s.done (s.isl 7 dt (·.ptpMessage v6 domain m))

end Sys2Proof.Machine
end

