-- ==== Sys2Proof/Machine/CmdFel.lean ====
section
/-! DEFINITION. The meanings of the commands, one each: front-end links and hits. -/

namespace Sys2Proof.Machine

open Csr

/-- LINKEN_WRITE (R206): A write of FEL.LINKEN starts or stops FE link bring-up. -/
def execLinkenWrite (v : Word) (s : State) : Host.Outcome State Fault Refusal :=
  s.done (s.wr 0 FEL_LINKEN_HI v)

/-- FE_BLOCK_LOCK (R193): An FE link gains upstream block lock and moves on from LOCK. -/
def execFeBlockLock (dt : Nat) (l : Fin 64) (headers : List Nat) (s : State) : Host.Outcome State Fault Refusal :=
  s.done (s.isl 5 dt (·.feLock l headers))

/-- FE_LOCK_LOSS (R207): Loss of block lock takes a link from UP to LOCK. -/
def execFeLockLoss (dt : Nat) (l : Fin 64) (opened : Bool) (headers : List Nat) (s : State) : Host.Outcome State Fault Refusal :=
  s.done (s.isl 5 dt (·.feLoss l opened headers))

/-- FE_HELLO (R206): A HELLO page is received on an FE link during ALIGN. -/
def execFeHello (dt : Nat) (l : Fin 64) (payload : Nat) (s : State) : Host.Outcome State Fault Refusal :=
  s.done (s.isl 5 dt (·.feHello l payload))

/-- FE_STATE_TIMEOUT (R206): An FE bring-up state times out and the link moves to FAULT. -/
def execFeStateTimeout (dt : Nat) (l : Fin 64) (s : State) : Host.Outcome State Fault Refusal :=
  s.done (s.isl 5 dt (·.feTimeouts l))

/-- FE_RETRY (R206): The FAULT retry time expires and the link returns to LOCK. -/
def execFeRetry (dt : Nat) (l : Fin 64) (s : State) : Host.Outcome State Fault Refusal :=
  s.done (s.isl 5 dt (·.feRetry l))

/-- FCMD (R196): A write of FEL.FCMD with GO requests a fast command on one link or all links. -/
def execFcmd (v : Word) (s : State) : Host.Outcome State Fault Refusal :=
  s.done (s.wr 0 FEL_FCMD v)

/-- BCRESET_ACT (R211): A BCRESET acts at its module tick and sets FEL.T0 and resets EPOCHX. -/
def execBcresetAct (dt : Nat) (l : Fin 64) (s : State) : Host.Outcome State Fault Refusal :=
  s.done (s.isl 5 dt (·.bcreset l))

/-- SCCMD (R201): A write of FEL.SCCMD with GO starts a slow-control transaction. -/
def execSccmd (v : Word) (s : State) : Host.Outcome State Fault Refusal :=
  s.done (s.wr 0 FEL_SCCMD v)

/-- SCRSP (R201): A slow-control response arrives and ends the transaction. -/
def execScrsp (dt : Nat) (l : Fin 64) (payload : Nat) (s : State) : Host.Outcome State Fault Refusal :=
  s.done (s.isl 5 dt (·.scRsp l payload))

/-- SC_TIMEOUT (R201): No slow-control response arrives within SCTMO and the transaction ends with TIMEOUT. -/
def execScTimeout (dt : Nat) (s : State) : Host.Outcome State Fault Refusal :=
  s.done (s.isl 5 dt (·.scTimeout))

/-- HIT_FRAME (R204): An upstream hit frame ends with its trailer, is checked and enters suppression. -/
def execHitFrame (dt : Nat) (l : Fin 64) (fill : Nat) (blocks : List (Nat × Nat)) (s : State) : Host.Outcome State Fault Refusal :=
  s.done (s.isl 5 dt (·.hitFrame l fill blocks))

/-- FE_STATUS_BLOCK (R194): An upstream STATUS block is received. -/
def execFeStatusBlock (dt : Nat) (l : Fin 64) (payload : Nat) (s : State) : Host.Outcome State Fault Refusal :=
  s.done (s.isl 5 dt (·.feStatus l payload))

/-- ECHO (R208): An ECHO answering a LATPROBE arrives and is timed. -/
def execEcho (dt : Nat) (l : Fin 64) (arg n : Nat) (s : State) : Host.Outcome State Fault Refusal :=
  s.done (s.isl 5 dt (·.echo l arg n))

/-- PATROL_START (R208): At each fabric second the latency patrol starts over the UP links. -/
def execPatrolStart (dt : Nat) (s : State) : Host.Outcome State Fault Refusal :=
  s.done (s.isl 5 dt (·.patrolStart))

/-- PATROL_DONE (R209): A link's patrol completes and FEL.RTT and FEL.DDOWN are updated. -/
def execPatrolDone (dt : Nat) (l : Fin 64) (s : State) : Host.Outcome State Fault Refusal :=
  s.done (s.isl 5 dt (·.patrolDone l))

/-- ZS_DECIDE (R213): A held hit reaches its decision time and is kept or cut. -/
def execZsDecide (dt : Nat) (s : State) : Host.Outcome State Fault Refusal :=
  s.done (s.isl 6 dt (·.zsStep))

/-- HIT_BLOCK_TMO (R217): FEL.BLK.TMO passes since a hit block's first entry and the block is posted. -/
def execHitBlockTmo (dt : Nat) (l : Fin 64) (s : State) : Host.Outcome State Fault Refusal :=
  s.done (s.isl 6 dt (·.blockTmo l))

end Sys2Proof.Machine
end

