-- ==== Sys2Proof/Machine/CmdFls.lean ====
section
/-! DEFINITION. The meanings of the commands, one each: the flasher. -/

namespace Sys2Proof.Machine

open Csr

/-- FLS_ARM (R381): A write of FLS.ARM arms the named flasher channels. -/
def execFlsArm (v : Word) (s : State) : Host.Outcome State Fault Refusal :=
  s.done (s.wr 0 Csr.FLS_ARM v)

/-- FLASH_TURN_ON (R381): A scheduled flasher pulse turns on at its instant. -/
def execFlashTurnOn (dt : Nat) (n : Fin 16) (s : State) : Host.Outcome State Fault Refusal :=
  s.done (s.main dt (·.flashOn n))

/-- FLASH_TURN_OFF (R380): A flasher pulse turns off WIDTH after its turn-on. -/
def execFlashTurnOff (dt : Nat) (n : Fin 16) (s : State) : Host.Outcome State Fault Refusal :=
  s.done (s.main dt (·.flashOff n))

/-- FLASH_CHECK (R387): The comparator judges a pulse 150 ns after turn-on. -/
def execFlashCheck (dt : Nat) (n : Fin 16) (reg : Bool) (pct sink : Nat) (s : State) : Host.Outcome State Fault Refusal :=
  s.done (s.main dt (·.flashCheck n reg pct sink))

/-- DIM_SLOT (R383): At each 1 us slot, hybrid dimming decides whether the sink is on. -/
def execDimSlot (dt : Nat) (n : Fin 16) (s : State) : Host.Outcome State Fault Refusal :=
  s.done (s.main dt (·.dimSlot n))

/-- FLS_CH_DISABLE (R382): A write of FLS.CH[n].CFG.EN to 0 stops and disarms the channel. -/
def execFlsChDisable (n : Fin 16) (v : Word) (s : State) : Host.Outcome State Fault Refusal :=
  s.done (s.wr 0 (FLS_CH_CFG n) v)

/-- FLV_ADAPT (R384): Every 10 ms the boost output is raised or lowered from the headroom. -/
def execFlvAdapt (dt vin : Nat) (s : State) : Host.Outcome State Fault Refusal :=
  s.done (s.main dt (·.flvAdapt vin))

/-- FLS_POWER_CHECK (R385): Every 10 ms the LED power is checked and currents are scaled if above 12 W. -/
def execFlsPowerCheck (dt mw : Nat) (s : State) : Host.Outcome State Fault Refusal :=
  s.done (s.main dt (·.flsPower mw))

/-- FLS_DERATE (R386): Every 10 ms the heatsinks are read and derated limits set. -/
def execFlsDerate (dt : Nat) (ta tb : Int) (s : State) : Host.Outcome State Fault Refusal :=
  s.done (s.main dt (·.flsHeat ta tb))

/-- DIAG_WINDOW_END (R389): A diagnosis window ends with no verdict, inserting a diagnostic pulse or setting UNVERIFIED. -/
def execDiagWindowEnd (dt : Nat) (n : Fin 16) (s : State) : Host.Outcome State Fault Refusal :=
  s.done (s.main dt (·.diagEnd n))

/-- FLS_STATUS_POST (R394): A flasher status record is posted every STPER or on a state change. -/
def execFlsStatusPost (dt : Nat) (s : State) : Host.Outcome State Fault Refusal :=
  s.done (s.main dt (·.flsPost))

end Sys2Proof.Machine
end

