-- ==== Sys2Proof/Machine/CmdFlt.lean ====
section
/-! DEFINITION. The meanings of the commands, one each: faults, alarms and counters. -/

namespace Sys2Proof.Machine

open Csr

/-- MISMATCH (R399): The comparator declares a mismatch between the two cores' requests. -/
def execMismatch (dt : Nat) (s : State) : Host.Outcome State Fault Refusal :=
  s.done (s.main dt (·.mismatch))

/-- SELF_TEST_VERDICT (R400): The cores' self-test verdicts are ready and decide the forewing, a single core or HOLD. -/
def execSelfTestVerdict (dt : Nat) (a b : Bool) (s : State) : Host.Outcome State Fault Refusal :=
  s.done (s.main dt (·.selfTest a b))

/-- RECOVERY_RESUME (R400): Issue resumes at the checkpoint PC after a recovery. -/
def execRecoveryResume (dt : Nat) (s : State) : Host.Outcome State Fault Refusal :=
  s.done (s.main dt (·.resume))

/-- LEASE_RENEWAL (R401): The forewing's monitor renews the core lease every 250 us. -/
def execLeaseRenewal (dt : Nat) (s : State) : Host.Outcome State Fault Refusal :=
  s.done (s.main dt (·.leaseRenew))

/-- LEASE_EXPIRY (R401): The core lease expires 1 ms after its last renewal. -/
def execLeaseExpiry (dt : Nat) (s : State) : Host.Outcome State Fault Refusal :=
  s.done (s.main dt (·.leaseExpire))

/-- CORE_RETEST (R403): An out-of-service core is retested once per second. -/
def execCoreRetest (dt : Nat) (pass : Bool) (s : State) : Host.Outcome State Fault Refusal :=
  s.done (s.main dt (·.coreRetest pass))

/-- CTEST (R404): A write of FLT.CTL.CTEST starts a core test. -/
def execCtest (v : Word) (s : State) : Host.Outcome State Fault Refusal :=
  s.done (s.wr 0 FLT_CTL v)

/-- COMPARATOR_TEST (R405): Every 1 s the comparator is tested by injection and the checkpoint store read back. -/
def execComparatorTest (dt : Nat) (ok : Bool) (s : State) : Host.Outcome State Fault Refusal :=
  s.done (s.main dt (·.comparatorTest ok))

/-- VEC_KNOWN_ANSWER (R405): Every 1 s an internal VEC job with a known result runs. -/
def execVecKnownAnswer (dt : Nat) (ok : Bool) (s : State) : Host.Outcome State Fault Refusal :=
  s.done (s.main dt (·.vecTest ok))

/-- CMP_KNOWN_ANSWER (R405): Every 1 s each enabled CMP lane compresses and decompresses a known pattern. -/
def execCmpKnownAnswer (dt : Nat) (l : Fin 4) (ok : Bool) (s : State) : Host.Outcome State Fault Refusal :=
  s.done (s.main dt (·.cmpTest l ok))

/-- HKC_REF_CHECK (R405): Every 0.5 s internal zero and reference conversions are inserted and checked. -/
def execHkcRefCheck (dt : Nat) (z r : Int) (s : State) : Host.Outcome State Fault Refusal :=
  s.done (s.main dt (·.hkRefCheck z r))

/-- TIME_CROSS_CHECK (R406): Time is cross-checked against non-parent ports over 1 s. -/
def execTimeCrossCheck (dt : Nat) (p : Fin 8) (diff : Int) (s : State) : Host.Outcome State Fault Refusal :=
  s.done (s.main dt (·.timeCheck p diff))

/-- ALARM_SUMMARY_POST (R412): A summary slot with a token and at least 1 s open is posted as a SUMMARY record. -/
def execAlarmSummaryPost (dt : Nat) (s : State) : Host.Outcome State Fault Refusal :=
  s.done (s.main dt (·.summaryPost))

/-- ALARM_TOKEN_REFILL (R412): A class token bucket refills at RATE per second. -/
def execAlarmTokenRefill (dt : Nat) (c : Fin 4) (s : State) : Host.Outcome State Fault Refusal :=
  s.done (s.main dt (·.tokenRefill c))

/-- CRITICAL_BUFFER_DRAIN (R412): A waiting critical alarm is published as room appears in Q120 or the alarm area. -/
def execCriticalBufferDrain (dt : Nat) (s : State) : Host.Outcome State Fault Refusal :=
  s.done (s.main dt (·.critDrain))

/-- COUNTER_SNAPSHOT (R416): A counter snapshot is latched at a TIME tick and posted on Q79. -/
def execCounterSnapshot (dt : Nat) (s : State) : Host.Outcome State Fault Refusal :=
  s.done (s.main dt (·.counterSnap))

/-- SNAPAT_WRITE (R416): A write of CNT.SNAPAT_HI arms a snapshot stamp. -/
def execSnapatWrite (v : Word) (s : State) : Host.Outcome State Fault Refusal :=
  s.done (s.wr 0 CNT_SNAPAT_HI v)

/-- STALE_CHECK (R410): Within 1 s of the first port UP, the instar is compared with the expected instar. -/
def execStaleCheck (dt : Nat) (s : State) : Host.Outcome State Fault Refusal :=
  s.done (s.main dt (·.staleCheck))

end Sys2Proof.Machine
end

