-- ==== Sys2Proof/Machine/CmdHkc.lean ====
section
/-! DEFINITION. The meanings of the commands, one each: housekeeping. -/

namespace Sys2Proof.Machine

open Csr

/-- HKC_GO (R367): A write of HKC.SEQCTL.GO starts a regular pass. -/
def execHkcGo (v : Word) (s : State) : Host.Outcome State Fault Refusal :=
  s.done (s.wr 0 HKC_SEQCTL v)

/-- HKC_IGO (R368): A write of HKC.SEQCTL.IGO starts an injected sequence. -/
def execHkcIgo (v : Word) (s : State) : Host.Outcome State Fault Refusal :=
  s.done (s.wr 0 HKC_SEQCTL v)

/-- HKC_STOP (R367): A write of HKC.SEQCTL.STOP ends the regular pass after the current conversion. -/
def execHkcStop (v : Word) (s : State) : Host.Outcome State Fault Refusal :=
  s.done (s.wr 0 HKC_SEQCTL v)

/-- HKC_TIMER (R367): HKC.TIMER expires and starts a regular pass. -/
def execHkcTimer (dt : Nat) (s : State) : Host.Outcome State Fault Refusal :=
  s.done (s.main dt (·.hkTimer))

/-- HKC_START_DELAY_END (R367): A pass or injected sequence begins after its DLY or after the conversion in progress. -/
def execHkcStartDelayEnd (dt : Nat) (s : State) : Host.Outcome State Fault Refusal :=
  s.done (s.main dt (·.hkNext))

/-- HKC_CONVERSION_DONE (R361): A conversion completes and updates the result register, trigger engine and sample block. -/
def execHkcConversionDone (dt : Nat) (d : Int) (ovr openFail : Bool) (s : State) : Host.Outcome State Fault Refusal :=
  s.done (s.main dt (·.hkDone d ovr openFail))

/-- HKC_AUX_CONVERSION (R352): The auxiliary converter reads channel 18 every 100 ms. -/
def execHkcAuxConversion (dt : Nat) (d : Int) (ovr opened : Bool) (s : State) : Host.Outcome State Fault Refusal :=
  s.done (s.main dt (·.hkAuxDone d ovr opened))

/-- HKC_EXC_WRITE (R363): A write to an excitation in use aborts and restarts the conversion. -/
def execHkcExcWrite (c : Fin 16) (v : Word) (s : State) : Host.Outcome State Fault Refusal :=
  s.done (s.wr 0 (HKC_CH_EXC c) v)

/-- HKC_EN_WRITE (R369): A write of HKC.CTL.EN to 0 abandons the conversion and stops both sequences. -/
def execHkcEnWrite (v : Word) (s : State) : Host.Outcome State Fault Refusal :=
  s.done (s.wr 0 HKC_CTL v)

/-- CALGAIN_WRITE (R372): A write of CALGAIN applies it together with any held CALOFF. -/
def execCalgainWrite (c : Fin 16) (v : Word) (s : State) : Host.Outcome State Fault Refusal :=
  s.done (s.wr 0 (HKC_CH_CALGAIN c) v)

/-- BLANK_PIN (R366): The BLANK pin changes and blanking of the integration starts or ends. -/
def execBlankPin (dt : Nat) (high : Bool) (s : State) : Host.Outcome State Fault Refusal :=
  s.done (s.run dt (·.blankPin high))

end Sys2Proof.Machine
end

