-- ==== Sys2Proof/Machine/CmdHost.lean ====
section
/-! DEFINITION. The meanings of the commands, one each: host commands, the gate and presence. -/

namespace Sys2Proof.Machine

open Csr

/-- GATE_TAKE (R60): In STARTUP and HOLD, the gate takes a Q125 entry itself and answers it. -/
def execGateTake (dt : Nat) (s : State) : Host.Outcome State Fault Refusal :=
  s.done (s.run dt (·.gateOwn))

/-- ARM_START_REACHED (R61): The START stamp of an accepted ARM is reached and the gate moves ARMED to RUN. -/
def execArmStartReached (dt : Nat) (s : State) : Host.Outcome State Fault Refusal :=
  s.done (s.main dt (·.armStart))

/-- ARM_END_REACHED (R61): The END stamp of an ARM is reached and the gate prepares to insert a STOP. -/
def execArmEndReached (dt : Nat) (s : State) : Host.Outcome State Fault Refusal :=
  s.done (s.main dt (·.armEnd))

/-- GATE_STOP_INSERT (R61): The gate inserts a STOP with TAG 0 into Q125 once there is room. -/
def execGateStopInsert (dt : Nat) (s : State) : Host.Outcome State Fault Refusal :=
  s.done (s.main dt (·.stopInsert))

/-- PING (R60): Command PING, answered OK by the gate. -/
def execPing (dt tag : Nat) (s : State) : Host.Outcome State Fault Refusal :=
  s.done (s.run dt (·.hostCmd 0x01 tag [] id))

/-- STATUS (R60): Command STATUS, answered by the gate with GLB.STATE, FLT.SUMMARY and SEC.STATUS. -/
def execStatus (dt tag : Nat) (s : State) : Host.Outcome State Fault Refusal :=
  s.done (s.run dt (·.hostCmd 0x02 tag [] id))

/-- RESET (R448): Command RESET, answered OK by the gate and followed 10 ms later by a reset. -/
def execReset (dt tag : Nat) (s : State) : Host.Outcome State Fault Refusal :=
  s.done (s.run dt (·.hostCmd 0x03 tag [] id))

/-- RESET_DELAY_EXPIRY (R448): The 10 ms after a RESET response ends and the module resets. -/
def execResetDelayExpiry (dt : Nat) (s : State) : Host.Outcome State Fault Refusal :=
  s.done (s.run dt (·.resetExpire))

/-- LOGLEVEL (R413): Command that sets FLT.LOG.MIN. -/
def execLoglevel (dt tag level : Nat) (s : State) : Host.Outcome State Fault Refusal :=
  s.done (s.run dt (·.hostCmd 0x04 tag [level] (·.loglevel tag level)))

/-- CNTSNAP (R416): Command that requests a counter snapshot at a stamp or at once. -/
def execCntsnap (dt tag stamp : Nat) (s : State) : Host.Outcome State Fault Refusal :=
  s.done (s.run dt (·.hostCmd 0x05 tag [stamp] (fun t => (t.cntsnap stamp).hostAnswer tag 0x05 0)))

/-- ARM (R61): Command that arms acquisition with a START and an optional END stamp. -/
def execArm (dt tag : Nat) (args : List Nat) (s : State) : Host.Outcome State Fault Refusal :=
  s.done (s.run dt (·.hostCmd 0x10 tag args (·.arm tag args)))

/-- DISARM (R61): Command that returns an ARMED module to IDLE. -/
def execDisarm (dt tag : Nat) (s : State) : Host.Outcome State Fault Refusal :=
  s.done (s.run dt (·.hostCmd 0x11 tag [] (·.hostAnswer tag 0x11 0)))

/-- STOP (R61): Command that stops acquisition and returns the module to IDLE. -/
def execStop (dt tag : Nat) (s : State) : Host.Outcome State Fault Refusal :=
  s.done (s.run dt (·.hostCmd 0x12 tag [] (·.hostAnswer tag 0x12 0)))

/-- SELPROF (R439): Command that loads a stored profile and reconciles a stale instar. -/
def execSelprof (dt tag n : Nat) (s : State) : Host.Outcome State Fault Refusal :=
  s.done (s.run dt (·.hostCmd 0x13 tag [n] (fun t => let r := t.selprof (n % 4); r.1.hostAnswer tag 0x13 r.2.1 r.2.2)))

/-- SAVEPROF (R440): Command that rewrites named parts of a profile in MRAM. -/
def execSaveprof (dt tag n mask : Nat) (s : State) : Host.Outcome State Fault Refusal :=
  s.done (s.run dt (·.hostCmd 0x14 tag [n, mask] (fun t => State.answerOr (t.saveprof tag (n % 4) (mask % 8)) tag 0x14)))

/-- SETCFG (R409): Command that writes CSR pairs, commits them and increments the instar. -/
def execSetcfg (dt tag : Nat) (args : List Nat) (s : State) : Host.Outcome State Fault Refusal :=
  s.done (s.run dt (·.hostCmd 0x15 tag args (fun t => let r := t.setcfg (pairUp args) (args.length % 2 == 1); r.1.hostAnswer tag 0x15 r.2)))

/-- GETCFG (R409): Command that returns the instar, STALE, the configuration digest and the expected instar. -/
def execGetcfg (dt tag : Nat) (s : State) : Host.Outcome State Fault Refusal :=
  s.done (s.run dt (·.hostCmd 0x16 tag [] (fun t => t.hostAnswer tag 0x16 0 t.getcfg)))

/-- LOADIMG (R431): Command that checks an image container and writes it to the slot that is not running. -/
def execLoadimg (dt tag addr len : Nat) (s : State) : Host.Outcome State Fault Refusal :=
  s.done (s.run dt (·.hostCmd 0x20 tag [addr, len] (fun t => State.answerOr (t.loadimg tag addr len) tag 0x20)))

/-- MOULT (R434): Command that starts a live image update through the hindwing core. -/
def execMoult (dt tag slot : Nat) (s : State) : Host.Outcome State Fault Refusal :=
  s.done (s.run dt (·.hostCmd 0x21 tag [slot] (·.moult tag slot)))

/-- ABANDON (R436): Command that abandons a moult before its handover. -/
def execAbandon (dt tag : Nat) (s : State) : Host.Outcome State Fault Refusal :=
  s.done (s.run dt (·.hostCmd 0x22 tag [] (fun t => let r := t.abandon; r.1.hostAnswer tag 0x22 r.2)))

/-- SETBOOT (R432): Command that selects the boot slot and optionally commits the rollback counter. -/
def execSetboot (dt tag arg : Nat) (s : State) : Host.Outcome State Fault Refusal :=
  s.done (s.run dt (·.hostCmd 0x23 tag [arg] (fun t => let r := t.setboot (arg % 2) (arg.testBit 8); r.1.hostAnswer tag 0x23 r.2)))

/-- COCOON (R325): Command that puts the module to sleep in COCOON. -/
def execCocoon (dt tag : Nat) (s : State) : Host.Outcome State Fault Refusal :=
  s.done (s.run dt (·.hostCmd 0x30 tag [] (·.hostAnswer tag 0x30 0)))

/-- EMERGE (R455): Mailbox command that starts emergence from COCOON. -/
def execEmerge (dt tag : Nat) (s : State) : Host.Outcome State Fault Refusal :=
  s.done (s.run dt (·.hostCmd 0x31 tag [] id))

/-- CSRREAD (R63): Command that reads one CSR as lease holder. -/
def execCsrread (dt tag addr : Nat) (s : State) : Host.Outcome State Fault Refusal :=
  s.done (s.run dt (·.hostCmd 0x40 tag [addr] (fun t => let r := t.csrread addr; r.1.hostAnswer tag 0x40 r.2.1 r.2.2)))

/-- CSRWRITE (R63): Command that writes one CSR as lease holder without changing the instar. -/
def execCsrwrite (dt tag addr v : Nat) (s : State) : Host.Outcome State Fault Refusal :=
  s.done (s.run dt (·.hostCmd 0x41 tag [addr, v] (fun t => let r := t.csrwrite addr v; r.1.hostAnswer tag 0x41 r.2)))

/-- HKCAL (R373): Command that performs the zero or full-scale step of a system calibration. -/
def execHkcal (dt tag c step ideal : Nat) (s : State) : Host.Outcome State Fault Refusal :=
  s.done (s.run dt (·.hostCmd 0x50 tag [c, step, ideal] (·.hkcal tag (c % 64) step (toSigned 64 ideal))))

/-- HKSELFCAL (R374): Command that self-calibrates external housekeeping channels against internal references. -/
def execHkselfcal (dt tag mask : Nat) (s : State) : Host.Outcome State Fault Refusal :=
  s.done (s.run dt (·.hostCmd 0x51 tag [mask] (·.hkselfcal tag mask)))

/-- FIBRECAL (R153): Command that measures the Brillouin shift of a reference section and writes NU0 and T0. -/
def execFibrecal (dt tag : Nat) (args : List Nat) (s : State) : Host.Outcome State Fault Refusal :=
  s.done (s.run dt (·.hostCmd 0x52 tag args (·.fibrecal tag args)))

/-- TDCCAL (R279): Command that calibrates named TDC units by code density. -/
def execTdccal (dt tag mask : Nat) (s : State) : Host.Outcome State Fault Refusal :=
  s.done (s.run dt (·.hostCmd 0x53 tag [mask] (fun t => State.answerOr (t.tdccal tag mask) tag 0x53)))

/-- DRAMTRAIN (R322): Command that retrains named DRAM channels. -/
def execDramtrain (dt tag arg : Nat) (s : State) : Host.Outcome State Fault Refusal :=
  s.done (s.run dt (·.hostCmd 0x54 tag [arg] (·.dramtrain tag arg)))

/-- DRAMRATE (R324): Command that changes the DRAM transfer rate. -/
def execDramrate (dt tag arg : Nat) (s : State) : Host.Outcome State Fault Refusal :=
  s.done (s.run dt (·.hostCmd 0x55 tag [arg] (·.dramrate tag arg)))

/-- ROLEREQ (R408): Command that requests a fabric role. -/
def execRolereq (dt tag arg : Nat) (s : State) : Host.Outcome State Fault Refusal :=
  s.done (s.run dt (·.hostCmd 0x60 tag [arg] (·.rolereq tag arg)))

/-- ROLEREL (R408): Command that releases a fabric role held by this module. -/
def execRolerel (dt tag arg : Nat) (s : State) : Host.Outcome State Fault Refusal :=
  s.done (s.run dt (·.hostCmd 0x61 tag [arg] (·.rolerel tag arg)))

/-- LCSET (R428): Command that changes the life-cycle state, wipes, and resets. -/
def execLcset (dt tag : Nat) (args : List Nat) (s : State) : Host.Outcome State Fault Refusal :=
  s.done (s.run dt (·.hostCmd 0x70 tag args (·.pressFor { tag := tag, code := 0x70, args := args })))

/-- KEYREPL (R422): Command that installs the owner image key or generates a new device identity key. -/
def execKeyrepl (dt tag : Nat) (args : List Nat) (s : State) : Host.Outcome State Fault Refusal :=
  s.done (s.run dt (·.hostCmd 0x71 tag args (·.pressFor { tag := tag, code := 0x71, args := args })))

/-- DBGUNLOCK (R482): Command that opens the debug multiplexers or TAP for a time. -/
def execDbgunlock (dt tag : Nat) (args : List Nat) (s : State) : Host.Outcome State Fault Refusal :=
  s.done (s.run dt (·.hostCmd 0x72 tag args (·.pressFor { tag := tag, code := 0x72, args := args })))

/-- FABKEY (R307): Command that installs or activates a wrapped fabric key. -/
def execFabkey (dt tag : Nat) (args : List Nat) (s : State) : Host.Outcome State Fault Refusal :=
  s.done (s.run dt (·.hostCmd 0x73 tag args (·.pressFor { tag := tag, code := 0x73, args := args })))

/-- PRESENCE_GIVEN (R424): PRESENCE_N is held low for 3 s inside an open window and the held command goes to the program. -/
def execPresenceGiven (dt : Nat) (s : State) : Host.Outcome State Fault Refusal :=
  s.done (s.run dt (·.presenceGiven))

/-- PRESENCE_TIMEOUT (R424): A presence window closes after 60 s and the held command goes to the program marked E_PRESENCE. -/
def execPresenceTimeout (dt : Nat) (stuck : Bool) (s : State) : Host.Outcome State Fault Refusal :=
  s.done (s.run dt (·.presenceTimeout stuck))

end Sys2Proof.Machine
end

