-- ==== Sys2Proof/Machine/CmdLight.lean ====
section
/-! DEFINITION. The meanings of the commands, one each: launch, ports, reception, phase, maps and temperature. -/

namespace Sys2Proof.Machine

open Csr

/-- LAUNCH (R73): The frame sequencer or a pending lnch reaches its launch instant and emits or withholds the pulse. -/
def execLaunch (dt : Nat) (s : State) : Host.Outcome State Fault Refusal :=
  s.done (s.main dt (·.launch))

/-- LAUNCH_MONITOR_EDGE (R86): The monitor comparator edge of a launch gives the deviation into LCH.MONRES. -/
def execLaunchMonitorEdge (dt n : Nat) (s : State) : Host.Outcome State Fault Refusal :=
  s.done (s.main dt (·.monEdge n))

/-- LAUNCH_MONITOR_MISS (R87): No monitor edge arrives within 1 us of the commanded stamp, so a MISS result is posted. -/
def execLaunchMonitorMiss (dt : Nat) (s : State) : Host.Outcome State Fault Refusal :=
  s.done (s.main dt (·.monMiss))

/-- CAPTURE_WINDOW_CLOSE (R73): The capture window of a launch closes. -/
def execCaptureWindowClose (dt : Nat) (xs : List Adc) (s : State) : Host.Outcome State Fault Refusal :=
  s.done (s.main dt (·.windowClose xs))

/-- LASER_LOCK_GAIN (R68): The etalon error stays within 20 MHz for 1 ms and LCH.STAT.LOCK becomes 1. -/
def execLaserLockGain (dt : Nat) (s : State) : Host.Outcome State Fault Refusal :=
  s.done (s.main dt (·.lockGain))

/-- LASER_LOCK_LOSS (R68): The etalon error exceeds 20 MHz for 10 us, so LOCK falls and launches are withheld. -/
def execLaserLockLoss (dt : Nat) (s : State) : Host.Outcome State Fault Refusal :=
  s.done (s.main dt (·.lockFall))

/-- LASER_WL_WRITE (R68): A write that changes LCH.LASER.WL clears LOCK at once. -/
def execLaserWlWrite (v : Word) (s : State) : Host.Outcome State Fault Refusal :=
  s.done (s.wr 0 LCH_LASER v)

/-- LASER_EN_LOW (R94): LASER_EN goes low and the hardware turns off the gate, pump and laser and stops the sequencer. -/
def execLaserEnLow (dt : Nat) (s : State) : Host.Outcome State Fault Refusal :=
  s.done (s.laserEdge dt false State.laserLow)

/-- LASER_EN_HIGH (R94): LASER_EN returns high and the laser begins to relock. -/
def execLaserEnHigh (dt : Nat) (s : State) : Host.Outcome State Fault Refusal :=
  s.done (s.laserEdge dt true State.laserHigh)

/-- OPEN_PORT_DECISION (R92): The open-port ratio of a launch is judged and may enter SAFE. -/
def execOpenPortDecision (dt : Nat) (xs : List Adc) (s : State) : Host.Outcome State Fault Refusal :=
  s.done (s.main dt (·.openPort xs))

/-- SAFE_CLEAR (R93): A write of 1 to LCH.OPENSTAT.SAFE leaves SAFE when RESTORED is 1. -/
def execSafeClear (v : Word) (s : State) : Host.Outcome State Fault Refusal :=
  s.done (s.wr 0 LCH_OPENSTAT v)

/-- PORT_WRITE (R88): A write that changes LCH.PLAN.PORT moves the switch at once or leaves the change pending. -/
def execPortWrite (v : Word) (s : State) : Host.Outcome State Fault Refusal :=
  s.done (s.wr 0 LCH_PLAN v)

/-- PORT_SWITCH_MOVE (R88): A pending port change is made once the sequencer has stopped and the last window has closed. -/
def execPortSwitchMove (dt : Nat) (s : State) : Host.Outcome State Fault Refusal :=
  s.done (s.main dt (·.portMove))

/-- PORT_SETTLED (R88): The port switch settles and PORTRDY becomes 1. -/
def execPortSettled (dt : Nat) (s : State) : Host.Outcome State Fault Refusal :=
  s.done (s.main dt (·.portSettled))

/-- MF_GEN_START (R106): A write to ENTA or ENTB, or AUTO set, starts generation of matched-filter taps. -/
def execMfGenStart (which : Fin 3) (k : Fin 16) (v : Word) (s : State) : Host.Outcome State Fault Refusal :=
  s.done (s.lit (·.genWrite which k v))

/-- MF_GEN_DONE (R106): Generation of an entry's taps completes and the set is swapped in at its next frame. -/
def execMfGenDone (dt : Nat) (k : Fin 16) (s : State) : Host.Outcome State Fault Refusal :=
  s.done (s.main dt (·.genDone k))

/-- COEF_WRITE (R108): A write to RCV.CSDATA stores a coefficient in a staging buffer and increments WORD. -/
def execCoefWrite (v : Word) (s : State) : Host.Outcome State Fault Refusal :=
  s.done (s.wr 0 RCV_CSDATA v)

/-- SWAP_REQUEST (R109): A write of RCV.SWAP with GO requests a bank swap with a fade, or queues it. -/
def execSwapRequest (v : Word) (s : State) : Host.Outcome State Fault Refusal :=
  s.done (s.wr 0 RCV_SWAP v)

/-- SWAP_COPY_DONE (R109): The staging copy into the inactive bank completes and the fade can begin. -/
def execSwapCopyDone (dt : Nat) (filt : Fin 18) (s : State) : Host.Outcome State Fault Refusal :=
  s.done (s.main dt (·.copyDone filt))

/-- FADE_END (R110): A fade ends and any waiting swap request is served. -/
def execFadeEnd (dt : Nat) (filt : Fin 18) (s : State) : Host.Outcome State Fault Refusal :=
  s.done (s.main dt (·.fadeEnd filt))

/-- FRAME_PUBLISH (R128): A frame leaves the combine stage, is unwrapped and decimated, and its DAS frame records are published in launch order. -/
def execFramePublish (dt : Nat) (xs : List Adc) (s : State) : Host.Outcome State Fault Refusal :=
  s.done (s.isl 3 dt (·.framePublish xs))

/-- SENTINEL_WINDOW_END (R134): A sentinel check window ends and PHS.SENTRES is written with a pass or fail. -/
def execSentinelWindowEnd (dt : Nat) (s : State) : Host.Outcome State Fault Refusal :=
  s.done (s.isl 3 dt (·.sentinelEnd))

/-- MAPDATA_WRITE (R177): A write to STR.MAPDATA stores 32 bits of a staged map entry. -/
def execMapdataWrite (v : Word) (s : State) : Host.Outcome State Fault Refusal :=
  s.done (s.wr 0 STR_MAPDATA v)

/-- MAPCOMMIT (R177): A write of STR.MAPCOMMIT with GO validates a staged map and activates it. -/
def execMapcommit (v : Word) (s : State) : Host.Outcome State Fault Refusal :=
  s.done (s.wr 0 STR_MAPCOMMIT v)

/-- STR_CSDATA_WRITE (R182): A write to STR.CSDATA stores a USER filter tap. -/
def execStrCsdataWrite (v : Word) (s : State) : Host.Outcome State Fault Refusal :=
  s.done (s.wr 0 STR_CSDATA v)

/-- DTS_WIN_WRITE (R141): A valid write of DTS.WIN[w] sets the LO window and starts its band search. -/
def execDtsWinWrite (w : Fin 8) (v : Word) (s : State) : Host.Outcome State Fault Refusal :=
  s.done (s.wr 0 (DTS_WIN w) v)

/-- BAND_SEARCH_START (R341): A deferred SYN-M band search starts once it cannot disturb a temperature launch. -/
def execBandSearchStart (dt : Nat) (s : State) : Host.Outcome State Fault Refusal :=
  s.done (s.main dt (·.searchStart))

/-- BAND_SEARCH_DONE (R341): A band search completes and the slot becomes READY. -/
def execBandSearchDone (dt band amp : Nat) (s : State) : Host.Outcome State Fault Refusal :=
  s.done (s.main dt (·.searchDone band amp))

/-- DTS_HOP_START (R142): After the last launch of a dwell, its capture window closes and SYN-M hops to the next window. -/
def execDtsHopStart (dt : Nat) (s : State) : Host.Outcome State Fault Refusal :=
  s.done (s.main dt (·.hopStart))

/-- DTS_HOP_END (R142): A SYN-M hop completes and the new LO window applies. -/
def execDtsHopEnd (dt : Nat) (s : State) : Host.Outcome State Fault Refusal :=
  s.done (s.main dt (·.dtsHopEnd))

/-- DTS_LAUNCH_JOB (R145): The vector engine processes a staged temperature launch into spectra and frees its half. -/
def execDtsLaunchJob (dt : Nat) (s : State) : Host.Outcome State Fault Refusal :=
  s.done (s.isl 4 dt (·.dtsJob))

/-- DTS_PROFILE_POST (R146): A temperature profile completes or ends early and is fitted and posted on Q65. -/
def execDtsProfilePost (dt : Nat) (s : State) : Host.Outcome State Fault Refusal :=
  s.done (s.isl 4 dt (·.profileOrFibre))

end Sys2Proof.Machine
end

