-- ==== Sys2Proof/Machine/CmdMem.lean ====
section
/-! DEFINITION. The meanings of the commands, one each: DRAM and compression. -/

namespace Sys2Proof.Machine

open Csr

/-- MEM_ADMISSION_TICK (R320): Every microsecond, DRAM admission throttles or releases a rank. -/
def execMemAdmissionTick (dt : Nat) (s : State) : Host.Outcome State Fault Refusal :=
  s.done (s.main dt (·.admissionTick))

/-- MEM_REFRESH (R319): A refresh falls due on a DRAM channel. -/
def execMemRefresh (dt : Nat) (n : Fin 4) (s : State) : Host.Outcome State Fault Refusal :=
  s.done (s.main dt (·.memRefresh n))

/-- MEM_REQUEST_SERVE (R319): A DRAM channel picks and serves its next admitted request. -/
def execMemRequestServe (dt : Nat) (n : Fin 4) (new : List (Nat × Nat × Bool)) (err : Fin 3) (s : State) : Host.Outcome State Fault Refusal :=
  s.done (s.main dt (fun t => (t.memStep n new err).coreSettle.memResume))

/-- SCRUB_STEP (R318): The scrubber reads and corrects the next DRAM word. -/
def execScrubStep (dt : Nat) (err : Fin 3) (s : State) : Host.Outcome State Fault Refusal :=
  s.done (s.main dt (·.scrubStep err))

/-- TRN_GO (R321): A write of MEM.TRN.CTL with GO starts a training gather. -/
def execTrnGo (v : Word) (s : State) : Host.Outcome State Fault Refusal :=
  s.done (s.wr 0 MEM_TRN_CTL v)

/-- TRN_APPLY (R321): A write of MEM.TRN.CTL with APPLY applies staged delays at the next refresh. -/
def execTrnApply (v : Word) (s : State) : Host.Outcome State Fault Refusal :=
  s.done (s.wr 0 MEM_TRN_CTL v)

/-- TRN_GATHER_DONE (R321): A training gather completes. -/
def execTrnGatherDone (dt : Nat) (reads : List (List (Nat × Nat))) (fin : Option TrnResult) (s : State) : Host.Outcome State Fault Refusal :=
  s.done (s.main dt (fun t => (t.gatherDone reads fin).memResume))

/-- DRAM_TEMP_DRIFT (R323): A channel's temperature drifts beyond RTDT and a retraining is requested or run. -/
def execDramTempDrift (dt : Nat) (n : Fin 4) (temp : Nat) (s : State) : Host.Outcome State Fault Refusal :=
  s.done (s.main dt (·.dramTemp n temp))

/-- CMP_LANE_TAKE (R328): A free compression lane takes the next input in source order. -/
def execCmpLaneTake (dt : Nat) (s : State) : Host.Outcome State Fault Refusal :=
  s.done (s.isl 9 dt (·.laneTake))

/-- CMP_OUTPUT_PUBLISH (R329): A lane publishes a container or decompressed record. -/
def execCmpOutputPublish (dt : Nat) (l : Fin 4) (codes : List (List (List Nat × List Nat))) (spoilt : List (Nat × List Nat × Nat)) (s : State) :
    Host.Outcome State Fault Refusal :=
  s.done (s.isl 9 dt (·.laneDone l codes spoilt))

/-- CMP_CHAIN_WAIT_EXPIRY (R333): A lane waiting for a chain buffer times out and publishes E_NOMEM. -/
def execCmpChainWaitExpiry (dt : Nat) (l : Fin 4) (s : State) : Host.Outcome State Fault Refusal :=
  s.done (s.isl 9 dt (·.chainExpiry l))

/-- DECOMPRESS_JOB (R334): A lane checks and inflates a decompression job. -/
def execDecompressJob (dt : Nat) (l : Fin 4) (s : State) : Host.Outcome State Fault Refusal :=
  s.done (s.isl 9 dt (·.laneDone l [] []))

end Sys2Proof.Machine
end

