-- ==== Sys2Proof/Machine/CmdSec.lean ====
section
/-! DEFINITION. The meanings of the commands, one each: security and power. -/

namespace Sys2Proof.Machine

open Csr

/-- SEAL_BREAK (R425): The seal loop reads open on 3 samples and, in IMAGO, keys are zeroised. -/
def execSealBreak (dt : Nat) (s : State) : Host.Outcome State Fault Refusal :=
  s.done (s.after dt (·.sealBreak))

/-- SEAL_CLOSE (R425): The seal loop reads closed on 3 samples and SEAL becomes 1. -/
def execSealClose (dt : Nat) (s : State) : Host.Outcome State Fault Refusal :=
  s.done (s.after dt (·.sealClose))

/-- LCJ_CHANGE (R427): The LCJ jumper is fitted or removed after its debounce. -/
def execLcjChange (dt : Nat) (fitted : Bool) (s : State) : Host.Outcome State Fault Refusal :=
  s.done (s.after dt (·.lcjChange fitted))

/-- RNG_READ (R421): A read of SEC.RNG returns 32 fresh random bits. -/
def execRngRead (who : Fin 2) (s : State) : Host.Outcome State Fault Refusal :=
  s.done (s.rd who SEC_RNG (·.rngRead who))

/-- RNG_HEALTH_FAIL (R421): A noise-source health test fails and RNGFAIL is set. -/
def execRngHealthFail (dt : Nat) (s : State) : Host.Outcome State Fault Refusal :=
  s.done (s.run dt (·.rngFail))

/-- MOULT_LOAD_DONE (R434): The hindwing has loaded and checked the new image. -/
def execMoultLoadDone (dt : Nat) (ok : Bool) (s : State) : Host.Outcome State Fault Refusal :=
  s.done (s.main dt (·.moultLoaded ok))

/-- MOULT_CKPT_TIMEOUT (R436): No ckpt occurs within 1 s after the load and the moult is abandoned. -/
def execMoultCkptTimeout (dt : Nat) (s : State) : Host.Outcome State Fault Refusal :=
  s.done (s.main dt (·.moultTimeout))

/-- COLD_START (R447): Either input rises after both were absent and the SAFE island restarts. -/
def execColdStart (dt : Nat) (main ka : Bool) (s : State) : Host.Outcome State Fault Refusal :=
  s.done (s.after dt (·.coldStart main ka))

/-- POWER_GOOD (R444): The main supply stays above threshold for 100 ms and reset may be released. -/
def execPowerGood (dt : Nat) (absent : Bool) (s : State) : Host.Outcome State Fault Refusal :=
  s.done (s.after dt (·.powerGood absent))

/-- BROWN_OUT (R446): The main input stays below the brown-out threshold for 10 us and the module shuts down and holds reset. -/
def execBrownOut (dt : Nat) (s : State) : Host.Outcome State Fault Refusal :=
  s.done (s.after dt (·.brownOut))

/-- RAIL_FAULT (R446): An internal rail departs and the module enters HOLD with cause 6. -/
def execRailFault (dt : Nat) (chan : Fin 64) (s : State) : Host.Outcome State Fault Refusal :=
  s.done (s.main dt (·.railFault chan))

/-- RESET_N_ASSERT (R448): RESET_N is held low for 1 us or more and the module is held in reset. -/
def execResetNAssert (dt : Nat) (s : State) : Host.Outcome State Fault Refusal :=
  s.done (s.after dt (·.resetNLow))

/-- RESET_RELEASE (R449): Reset is released and the start-up sequence begins. -/
def execResetRelease (dt : Nat) (profsel : Fin 4) (s : State) : Host.Outcome State Fault Refusal :=
  s.done (s.after dt (·.resetRelease profsel))

/-- STARTUP_COMPLETE (R449): The start-up steps complete and the module enters IDLE with the image at ENTRY. -/
def execStartupComplete (dt : Nat) (cal : List (Nat × Nat)) (phase : Word) (res : List TrnResult) (s : State) : Host.Outcome State Fault Refusal :=
  s.done (s.run dt (·.startDone cal phase res))

/-- COCOON_ENTRY_DONE (R453): Cocoon entry completes with DRAM in self-refresh and clocks stopped. -/
def execCocoonEntryDone (dt : Nat) (s : State) : Host.Outcome State Fault Refusal :=
  s.done (s.run dt (·.cocoonDone))

/-- MBOXCMD (R454): A write of PWR.MBOXCMD gives a command to the cocoon mailbox. -/
def execMboxcmd (v : Word) (s : State) : Host.Outcome State Fault Refusal :=
  s.done (s.out (·.mboxWrite v))

/-- WAKEAT_EXPIRY (R455): Fabric time reaches PWR.WAKEAT and emergence begins. -/
def execWakeatExpiry (dt : Nat) (s : State) : Host.Outcome State Fault Refusal :=
  s.done (s.run dt (·.wakeExpire))

/-- EMERGENCE_DONE (R455): Emergence reaches step 4 and the module returns to IDLE. -/
def execEmergenceDone (dt : Nat) (phase : Word) (rows : List (Nat × Nat × Nat × Nat)) (temps : List Nat) (res : List TrnResult) (s : State) :
    Host.Outcome State Fault Refusal :=
  s.done (s.run dt (·.emergeDone phase rows temps res))

end Sys2Proof.Machine
end

