-- ==== Sys2Proof/Machine/CmdSpi.lean ====
section
/-! DEFINITION. The meanings of the commands, one each: the service SPI port and debug access. -/

namespace Sys2Proof.Machine

open Csr

/-- SPI_NOP (R472): Service SPI NOP returns state and queue status. -/
def execSpiNop (dt op len addr chk : Nat) (s : State) : Host.Outcome State Fault Refusal :=
  s.done (s.run dt (·.spiOp op { len := len, addr := addr, payload := [], chk := chk } (op == 0 && len == 0 && addr == 0) true State.spiNop))

/-- CSRRD (R473): Service SPI read of 1 to 64 CSRs. -/
def execCsrrd (dt len addr chk : Nat) (s : State) : Host.Outcome State Fault Refusal :=
  s.done (s.run dt (·.spiOp 0x01 { len := len, addr := addr, payload := [], chk := chk } (decide (1 ≤ len) && decide (len ≤ 64) && addr % 4 == 0 && decide (addr < csrEnd)) true (·.spiCsrrd len addr)))

/-- CSRWR (R472): Service SPI write of one PWR window register. -/
def execCsrwr (dt len addr v chk : Nat) (s : State) : Host.Outcome State Fault Refusal :=
  s.done (s.run dt (·.spiOp 0x02 { len := len, addr := addr, payload := bytesOf 4 v, chk := chk } (len == 1 && addr % 4 == 0 && decide (addr < csrEnd)) true (·.spiCsrwr addr v)))

/-- MEMRD (R472): Service SPI read of SRAM or DRAM words. -/
def execMemrd (dt len addr chk : Nat) (s : State) : Host.Outcome State Fault Refusal :=
  s.done (s.run dt (·.spiOp 0x03 { len := len, addr := addr, payload := [], chk := chk } (decide (1 ≤ len) && decide (len ≤ 512) && addr % 8 == 0) false (·.spiMemrd len addr)))

/-- MEMWR (R473): Service SPI write of words into the host area. -/
def execMemwr (dt len addr : Nat) (words : List Nat) (chk : Nat) (s : State) : Host.Outcome State Fault Refusal :=
  s.done (s.run dt (·.spiOp 0x04 { len := len, addr := addr, payload := words.flatMap (bytesOf 8), chk := chk } (decide (1 ≤ len) && decide (len ≤ 512) && words.length == len && addr % 8 == 0) false (·.spiMemwr len addr words)))

/-- SPI_POST (R473): Service SPI post of an entry to Q125. -/
def execSpiPost (dt len addr : Nat) (words : List Nat) (chk : Nat) (s : State) : Host.Outcome State Fault Refusal :=
  s.done (s.run dt (·.spiOp 0x10 { len := len, addr := addr, payload := words.flatMap (bytesOf 8), chk := chk } (len == 0 && addr == 0 && words.length == 4) false (·.spiPost words)))

/-- SPI_TAKE (R473): Service SPI take of the oldest host entry from Q126. -/
def execSpiTake (dt len addr chk : Nat) (whole : Bool) (s : State) : Host.Outcome State Fault Refusal :=
  s.done (s.run dt (·.spiOp 0x11 { len := len, addr := addr, payload := [], chk := chk } (len == 0 && addr == 0) false (·.spiTake whole)))

/-- DBG_LOCK (R482): A write of DBG.CTL.LOCK locks the debug multiplexers and TAP at once. -/
def execDbgLock (v : Word) (s : State) : Host.Outcome State Fault Refusal :=
  s.done (s.wr 0 DBG_CTL v)

/-- DEBUG_OPEN_EXPIRY (R482): The open time of a debug kind expires and it locks. -/
def execDebugOpenExpiry (dt : Nat) (s : State) : Host.Outcome State Fault Refusal :=
  s.done (s.run dt (·.dbgExpire))

end Sys2Proof.Machine
end

