-- ==== Sys2Proof/Machine/CmdTim.lean ====
section
/-! DEFINITION. The meanings of the commands, one each: time base and edge timing. -/

namespace Sys2Proof.Machine

open Csr

/-- TIMEX (R290): A TIMEX frame arrives and completes a time exchange. -/
def execTimex (dt : Nat) (p : Fin 8) (xseq rxseq txprev rxlast : Nat) (peerState : Fin 4) (rootHold : Bool) (hops : Fin 32) (rootDev : Fin 1024) (rootEpoch : Nat) (s : State) : Host.Outcome State Fault Refusal :=
  s.done (s.main dt (·.timex p xseq rxseq txprev rxlast (peerState, rootHold, hops, rootDev, rootEpoch)))

/-- TIMEX_SEND (R263): A port sends its next time exchange at the rate set by XLOG. -/
def execTimexSend (dt : Nat) (p : Fin 8) (s : State) : Host.Outcome State Fault Refusal :=
  s.done (s.main dt (·.timexSend p))

/-- PARENT_EXCHANGE_LOSS (R264): No accepted parent exchange for 100 ms moves the time state to HOLDOVER. -/
def execParentExchangeLoss (dt : Nat) (s : State) : Host.Outcome State Fault Refusal :=
  s.done (s.main dt (·.parentLoss))

/-- LOCKED_TIMER (R264): The filtered offset has stayed within 100 ps for 10 s and the time state becomes LOCKED. -/
def execLockedTimer (dt : Nat) (s : State) : Host.Outcome State Fault Refusal :=
  s.done (s.main dt (·.lockedTimer))

/-- PPS_EDGE (R268): A 1PPS_IN rising edge is measured and judged at the root. -/
def execPpsEdge (dt : Nat) (present : Bool) (s : State) : Host.Outcome State Fault Refusal :=
  s.done (s.main dt (·.ppsEdge present))

/-- REF10M_CHANGE (R268): REF10M_IN becomes valid or invalid over a 100 ms window. -/
def execRef10mChange (dt n : Nat) (s : State) : Host.Outcome State Fault Refusal :=
  s.done (s.main dt (·.refChange n))

/-- ROOT_SECOND_BOUNDARY (R267): The root reaches a second boundary and applies any TIM.NEXTSEC. -/
def execRootSecondBoundary (dt : Nat) (s : State) : Host.Outcome State Fault Refusal :=
  s.done (s.main dt (·.rootBoundary))

/-- NEXTSEC_WRITE (R267): A write of TIM.NEXTSEC sets the count for the next second boundary. -/
def execNextsecWrite (v : Word) (s : State) : Host.Outcome State Fault Refusal :=
  s.done (s.wr 0 TIM_NEXTSEC v)

/-- ASY_UPDATE (R269): A new temperature profile gives a new target for a link's applied asymmetry. -/
def execAsyUpdate (dt : Nat) (p : Fin 8) (s : State) : Host.Outcome State Fault Refusal :=
  s.done (s.main dt (·.asyUpdate p))

/-- ASY_SLEW (R269): The applied asymmetry moves towards its target at the slew limit. -/
def execAsySlew (dt : Nat) (p : Fin 8) (s : State) : Host.Outcome State Fault Refusal :=
  s.done (s.main dt (·.asySlew p))

/-- TSUB (R270): A TSUB message subscribes to remote temperature profiles, sent every 60 s. -/
def execTsub (dt : Nat) (dev : Fin 1024) (sense : Fin 4) (first last : Nat) (tref : Int) (s : State) : Host.Outcome State Fault Refusal :=
  s.done (s.main dt (·.tsubMsg { dev := dev, sense := sense, first := first, last := last, tref := tref }))

/-- TINT (R270): A TINT message carries a remote profile integral to the requester. -/
def execTint (dt : Nat) (sense : Fin 4) (dev : Fin 1024) (last : Nat) (integral : Int) (pm : Nat) (s : State) : Host.Outcome State Fault Refusal :=
  s.done (s.main dt (·.tintMsg sense dev last integral pm))

/-- PROFILE_AGE_EXPIRY (R271): The profile used for asymmetry grows older than AGE and is flagged stale. -/
def execProfileAgeExpiry (dt : Nat) (p : Fin 8) (s : State) : Host.Outcome State Fault Refusal :=
  s.done (s.main dt (·.profileAge p))

/-- TDC_EDGE (R275): A start or stop edge reaches a TDC unit and is stamped. -/
def execTdcEdge (dt : Nat) (u : Fin 8) (src : Fin 4) (n : Nat) (s : State) : Host.Outcome State Fault Refusal :=
  s.done (s.main dt (·.tdcPin u src n))

/-- TDC_TIMEOUT (R277): A TDC second edge does not arrive within TMO and a TIMEOUT result is completed. -/
def execTdcTimeout (dt : Nat) (u : Fin 8) (s : State) : Host.Outcome State Fault Refusal :=
  s.done (s.main dt (·.tdcTimeout u))

/-- TDC_DEAD_TIME_END (R275): A TDC unit's dead time ends and it re-arms. -/
def execTdcDeadTimeEnd (dt : Nat) (u : Fin 8) (s : State) : Host.Outcome State Fault Refusal :=
  s.done (s.main dt (·.tdcDeadEnd u))

/-- TDC_RING_CHECK (R279): A TDC unit measures its ring periods and updates CAL.LSB, at least every millisecond. -/
def execTdcRingCheck (dt : Nat) (u : Fin 8) (lsb : Nat) (ok : Bool) (s : State) : Host.Outcome State Fault Refusal :=
  s.done (s.main dt (·.tdcRing u lsb ok))

/-- TDC_CFG_WRITE (R275): A write of TIM.TDC[u].CFG with EN re-arms a unit stopped under CONT 0. -/
def execTdcCfgWrite (u : Fin 8) (v : Word) (s : State) : Host.Outcome State Fault Refusal :=
  s.done (s.wr 0 (TIM_TDC_CFG u) v)

end Sys2Proof.Machine
end

