-- ==== Sys2Proof/Machine/CmdTrg.lean ====
section
/-! DEFINITION. The meanings of the commands, one each: triggers and segments. -/

namespace Sys2Proof.Machine

open Csr

/-- TRG_ARM (R233): A write of TRG.ARM with GO checks the configuration and arms acquisition. -/
def execTrgArm (v : Word) (s : State) : Host.Outcome State Fault Refusal :=
  s.done (s.wr 0 Csr.TRG_ARM v)

/-- TRG_ARM_STOP (R237): A write of TRG.ARM with STOP ends the acquisition at a stamp. -/
def execTrgArmStop (v : Word) (s : State) : Host.Outcome State Fault Refusal :=
  s.done (s.wr 0 Csr.TRG_ARM v)

/-- COND_SAMPLE (R221): A trace sample reaches a condition and may produce a crossing event. -/
def execCondSample (dt : Nat) (k : Fin 16) (s : State) : Host.Outcome State Fault Refusal :=
  s.done (s.isl 6 dt (·.condDas k))

/-- COND_TIMEOUT (R222): A TIMEOUT condition deadline passes on a hit or direct-input source. -/
def execCondTimeout (dt : Nat) (k : Fin 16) (s : State) : Host.Outcome State Fault Refusal :=
  s.done (s.isl 6 dt (·.condTimeout k))

/-- TRIG_IN_EDGE (R224): An edge on TRIG_IN is timestamped by its TDC or at a coarse tick. -/
def execTrigInEdge (dt : Nat) (i : Fin 4) (rising short : Bool) (n : Nat) (s : State) : Host.Outcome State Fault Refusal :=
  s.done (s.main dt (·.trigIn i rising short n))

/-- HP_HIT_TAKE (R223): A hit is taken into a hit primitive at its stamp plus HPHOLD. -/
def execHpHitTake (dt : Nat) (p : Fin 8) (s : State) : Host.Outcome State Fault Refusal :=
  s.done (s.isl 6 dt (·.hpTake p))

/-- HP_HIT_EXPIRE (R223): A counted hit's live time ends and M falls. -/
def execHpHitExpire (dt : Nat) (p : Fin 8) (s : State) : Host.Outcome State Fault Refusal :=
  s.done (s.isl 6 dt (·.hpExpire p))

/-- CLASS_DECIDE (R226): A class decides a candidate at T plus HOLD: veto, re-arm, hold-off or accept. -/
def execClassDecide (dt : Nat) (c : Fin 4) (s : State) : Host.Outcome State Fault Refusal :=
  s.done (s.isl 6 dt (·.classDecide c))

/-- SEGMENT_COPY (R235): A segment is copied from its ring at T + POST + HOLD and published. -/
def execSegmentCopy (dt : Nat) (c : Fin 4) (s : State) : Host.Outcome State Fault Refusal :=
  s.done (s.isl 6 dt (·.segCopy c))

/-- SEGMENT_STREAM_PART (R236): A streamed segment part is posted when enough data are ready or the window completes. -/
def execSegmentStreamPart (dt : Nat) (c : Fin 4) (s : State) : Host.Outcome State Fault Refusal :=
  s.done (s.isl 6 dt (·.segPart c))

/-- TRIG_OUT_EDGE (R240): A TRIG_OUT edge falls due for an accepted trigger or condition event. -/
def execTrigOutEdge (dt : Nat) (i : Fin 4) (s : State) : Host.Outcome State Fault Refusal :=
  s.done (s.main dt (·.outEdge i))

/-- TRIG_OUT_PULSE_END (R240): A MODE 1 TRIG_OUT pulse ends. -/
def execTrigOutPulseEnd (dt : Nat) (i : Fin 4) (s : State) : Host.Outcome State Fault Refusal :=
  s.done (s.main dt (·.outPulseEnd i))

/-- OUTCLR (R240): A write of TRG.OUTCLR clears latched outputs or fires soft pulses. -/
def execOutclr (v : Word) (s : State) : Host.Outcome State Fault Refusal :=
  s.done (s.wr 0 TRG_OUTCLR v)

end Sys2Proof.Machine
end

