-- ==== Sys2Proof/Machine/CmdVec.lean ====
section
/-! DEFINITION. The meanings of the commands, one each: the vector engine. -/

namespace Sys2Proof.Machine

open Csr

/-- VEC_JOB_START (R159): At a job boundary the vector engine takes the next job, checks it and runs it. -/
def execVecJobStart (dt : Nat) (s : State) : Host.Outcome State Fault Refusal :=
  s.done (s.isl 4 dt (·.vecStart))

/-- VEC_JOB_DONE (R159): A job's outputs are transferred, word 6 is written and its result entry is published. -/
def execVecJobDone (dt cycles : Nat) (s : State) : Host.Outcome State Fault Refusal :=
  s.done (s.isl 4 dt (·.vecDone cycles))

/-- VEC_ABORT (R162): A write of VEC.CTL.ABORT ends the running job with ABORT. -/
def execVecAbort (v : Word) (s : State) : Host.Outcome State Fault Refusal :=
  s.done (s.wr 0 VEC_CTL v)

/-- VEC_CYCLE_LIMIT (R162): A kernel reaches its cycle limit and faults with CYCLES. -/
def execVecCycleLimit (dt : Nat) (s : State) : Host.Outcome State Fault Refusal :=
  s.done (s.isl 4 dt (·.vecLimit))

/-- SV_SCALAR_INSTR (R163): SV kernel executes a Shaham scalar instruction on the VEC registers. -/
def execSvScalarInstr (w : Word) (s : State) : Host.Outcome State Fault Refusal :=
  s.done (s.lit (·.svStep (svScalar w)))

/-- VLD (R164): SV vector load from X, Y or Z. -/
def execVld (d a b : Fin 16) (mem : Fin 4) (pi : Bool) (br : Fin 32) (s : State) : Host.Outcome State Fault Refusal :=
  s.done (s.lit (·.svStep (svVld d a b mem pi br)))

/-- VST (R164): SV vector store to X or Y. -/
def execVst (d a b : Fin 16) (mem : Fin 4) (pi : Bool) (br : Fin 32) (s : State) : Host.Outcome State Fault Refusal :=
  s.done (s.lit (·.svStep (svVst d a b mem pi br)))

/-- VLW (R164): SV weighted vector load with Z coefficients. -/
def execVlw (d a b : Fin 16) (mem : Fin 4) (pi : Bool) (br : Fin 32) (s : State) : Host.Outcome State Fault Refusal :=
  s.done (s.lit (·.svStep (svVlw d a b mem pi br)))

/-- VADD (R164): SV lane-wise add with optional shift. -/
def execVadd (d a b : Fin 16) (m : Fin 256) (s : State) : Host.Outcome State Fault Refusal :=
  s.done (s.lit (·.svStep (svAddSub false d a b m)))

/-- VSUB (R164): SV lane-wise subtract with optional shift. -/
def execVsub (d a b : Fin 16) (m : Fin 256) (s : State) : Host.Outcome State Fault Refusal :=
  s.done (s.lit (·.svStep (svAddSub true d a b m)))

/-- VMUL (R164): SV lane-wise complex multiply. -/
def execVmul (d a b : Fin 16) (m : Fin 256) (s : State) : Host.Outcome State Fault Refusal :=
  s.done (s.lit (·.svStep (svMul d a b m)))

/-- VMAC (R164): SV multiply-accumulate into an accumulator. -/
def execVmac (d a b : Fin 16) (m : Fin 256) (s : State) : Host.Outcome State Fault Refusal :=
  s.done (s.lit (·.svStep (svMac false d a b m)))

/-- VMSU (R164): SV multiply-subtract from an accumulator. -/
def execVmsu (d a b : Fin 16) (m : Fin 256) (s : State) : Host.Outcome State Fault Refusal :=
  s.done (s.lit (·.svStep (svMac true d a b m)))

/-- VPWR (R164): SV power accumulation into an accumulator. -/
def execVpwr (d a b : Fin 16) (m : Fin 256) (s : State) : Host.Outcome State Fault Refusal :=
  s.done (s.lit (·.svStep (svPwr d a b m)))

/-- VCLR (R164): SV clear of an accumulator. -/
def execVclr (d : Fin 16) (m : Fin 256) (s : State) : Host.Outcome State Fault Refusal :=
  s.done (s.lit (·.svStep (svClr d m)))

/-- VRD (R164): SV read of an accumulator into a register with shift. -/
def execVrd (d a : Fin 16) (m : Fin 256) (s : State) : Host.Outcome State Fault Refusal :=
  s.done (s.lit (·.svStep (svRd d a m)))

/-- VBF (R166): SV butterfly between two registers. -/
def execVbf (d a b : Fin 16) (m : Fin 256) (s : State) : Host.Outcome State Fault Refusal :=
  s.done (s.lit (·.svStep (svBf d a b m)))

/-- VBFX (R166): SV butterfly between lanes. -/
def execVbfx (d a b : Fin 16) (m : Fin 256) (s : State) : Host.Outcome State Fault Refusal :=
  s.done (s.lit (·.svStep (svBfx d a b m)))

/-- VPERM (R164): SV lane permutation. -/
def execVperm (d a b : Fin 16) (m : Fin 256) (s : State) : Host.Outcome State Fault Refusal :=
  s.done (s.lit (·.svStep (svPerm d a b m)))

/-- VSPLAT (R164): SV broadcast of a scalar element to every lane. -/
def execVsplat (d a : Fin 16) (m : Fin 256) (s : State) : Host.Outcome State Fault Refusal :=
  s.done (s.lit (·.svStep (svSplat d a m)))

/-- VBEXP (R166): SV count of redundant sign bits. -/
def execVbexp (d a : Fin 16) (m : Fin 256) (s : State) : Host.Outcome State Fault Refusal :=
  s.done (s.lit (·.svStep (svBexp d a m)))

/-- VSTAGE (R166): SV block-floating stage shift selection. -/
def execVstage (d : Fin 16) (m : Fin 256) (s : State) : Host.Outcome State Fault Refusal :=
  s.done (s.lit (·.svStep (svStage d m)))

/-- VSCLR (R167): SV reset of the lane maximum and minimum trackers. -/
def execVsclr (m : Fin 256) (s : State) : Host.Outcome State Fault Refusal :=
  s.done (s.lit (·.svStep (svSclr m)))

/-- VMX (R167): SV update of the running lane maximum. -/
def execVmx (a b : Fin 16) (m : Fin 256) (s : State) : Host.Outcome State Fault Refusal :=
  s.done (s.lit (·.svStep (svExt false a b m)))

/-- VMN (R167): SV update of the running lane minimum. -/
def execVmn (a b : Fin 16) (m : Fin 256) (s : State) : Host.Outcome State Fault Refusal :=
  s.done (s.lit (·.svStep (svExt true a b m)))

/-- VMXR (R167): SV reduction of the lane maxima to a scalar. -/
def execVmxr (d a : Fin 16) (m : Fin 256) (s : State) : Host.Outcome State Fault Refusal :=
  s.done (s.lit (·.svStep (svExtr false d a m)))

/-- VMNR (R167): SV reduction of the lane minima to a scalar. -/
def execVmnr (d a : Fin 16) (m : Fin 256) (s : State) : Host.Outcome State Fault Refusal :=
  s.done (s.lit (·.svStep (svExtr true d a m)))

/-- VLOOP (R169): SV hardware loop over the next n instructions. -/
def execVloop (a : Fin 16) (imm : BitVec 18) (s : State) : Host.Outcome State Fault Refusal :=
  s.done (s.lit (·.svStep (svLoop a imm.toNat)))

/-- VDONE (R162): SV end of kernel with a code. -/
def execVdone (a : Fin 16) (s : State) : Host.Outcome State Fault Refusal :=
  s.done (s.lit (·.svStep (svDone a)))

end Sys2Proof.Machine
end

