-- ==== Sys2Proof/Machine/Dispatch.lean ====
section
/-! DEFINITION. Which meaning each command has: one arm per constructor of Instr. -/

namespace Sys2Proof.Machine

def exec (i : Instr) (s : State) : Host.Outcome State Fault Refusal :=
  match i with
  | .add d a b => Sys2Proof.Machine.execAdd d a b s
  | .sub d a b => Sys2Proof.Machine.execSub d a b s
  | .and d a b => Sys2Proof.Machine.execAnd d a b s
  | .or d a b => Sys2Proof.Machine.execOr d a b s
  | .xor d a b => Sys2Proof.Machine.execXor d a b s
  | .shl d a b => Sys2Proof.Machine.execShl d a b s
  | .shr d a b => Sys2Proof.Machine.execShr d a b s
  | .sra d a b => Sys2Proof.Machine.execSra d a b s
  | .mul d a b => Sys2Proof.Machine.execMul d a b s
  | .mulhu d a b => Sys2Proof.Machine.execMulhu d a b s
  | .min d a b => Sys2Proof.Machine.execMin d a b s
  | .max d a b => Sys2Proof.Machine.execMax d a b s
  | .minu d a b => Sys2Proof.Machine.execMinu d a b s
  | .maxu d a b => Sys2Proof.Machine.execMaxu d a b s
  | .addi d a imm => Sys2Proof.Machine.execAddi d a imm s
  | .andi d a imm => Sys2Proof.Machine.execAndi d a imm s
  | .ori d a imm => Sys2Proof.Machine.execOri d a imm s
  | .xori d a imm => Sys2Proof.Machine.execXori d a imm s
  | .shli d a imm => Sys2Proof.Machine.execShli d a imm s
  | .shri d a imm => Sys2Proof.Machine.execShri d a imm s
  | .srai d a imm => Sys2Proof.Machine.execSrai d a imm s
  | .lui d imm => Sys2Proof.Machine.execLui d imm s
  | .ldl d a imm => Sys2Proof.Machine.execLdl d a imm s
  | .stl d a imm => Sys2Proof.Machine.execStl d a imm s
  | .ld d a imm => Sys2Proof.Machine.execLd d a imm s
  | .st d a imm => Sys2Proof.Machine.execSt d a imm s
  | .ldw d a imm => Sys2Proof.Machine.execLdw d a imm s
  | .stw d a imm => Sys2Proof.Machine.execStw d a imm s
  | .csrr d a imm => Sys2Proof.Machine.execCsrr d a imm s
  | .csrw d a imm => Sys2Proof.Machine.execCsrw d a imm s
  | .mfs d a imm => Sys2Proof.Machine.execMfs d a imm s
  | .mts d a imm => Sys2Proof.Machine.execMts d a imm s
  | .beq a b off => Sys2Proof.Machine.execBeq a b off s
  | .bne a b off => Sys2Proof.Machine.execBne a b off s
  | .blt a b off => Sys2Proof.Machine.execBlt a b off s
  | .bge a b off => Sys2Proof.Machine.execBge a b off s
  | .bltu a b off => Sys2Proof.Machine.execBltu a b off s
  | .bgeu a b off => Sys2Proof.Machine.execBgeu a b off s
  | .j off => Sys2Proof.Machine.execJ off s
  | .jal off => Sys2Proof.Machine.execJal off s
  | .jr a => Sys2Proof.Machine.execJr a s
  | .wait a => Sys2Proof.Machine.execWait a s
  | .waitResume dt => Sys2Proof.Machine.execWaitResume dt s
  | .waitc imm => Sys2Proof.Machine.execWaitc imm s
  | .timedAt d a b k => Sys2Proof.Machine.execTimedAt d a b k s
  | .timedAction dt k => Sys2Proof.Machine.execTimedAction dt k s
  | .tadd d a b => Sys2Proof.Machine.execTadd d a b s
  | .lnch d a b => Sys2Proof.Machine.execLnch d a b s
  | .frmStart d a b => Sys2Proof.Machine.execFrmStart d a b s
  | .frmStop d a => Sys2Proof.Machine.execFrmStop d a s
  | .post d a imm => Sys2Proof.Machine.execPost d a imm s
  | .postR d a imm => Sys2Proof.Machine.execPostR d a imm s
  | .postStallEnd dt q => Sys2Proof.Machine.execPostStallEnd dt q s
  | .take d a imm => Sys2Proof.Machine.execTake d a imm s
  | .vjob d a imm => Sys2Proof.Machine.execVjob d a imm s
  | .fenceCsr => Sys2Proof.Machine.execFenceCsr s
  | .fenceMem => Sys2Proof.Machine.execFenceMem s
  | .fenceQ => Sys2Proof.Machine.execFenceQ s
  | .fenceAll => Sys2Proof.Machine.execFenceAll s
  | .fenceResume dt => Sys2Proof.Machine.execFenceResume dt s
  | .csrtimeout dt => Sys2Proof.Machine.execCsrtimeout dt s
  | .trap code => Sys2Proof.Machine.execTrap code s
  | .eret d a b => Sys2Proof.Machine.execEret d a b s
  | .idle d a => Sys2Proof.Machine.execIdle d a s
  | .idleWake dt => Sys2Proof.Machine.execIdleWake dt s
  | .ckpt => Sys2Proof.Machine.execCkpt s
  | .illegalInstruction w => Sys2Proof.Machine.execIllegalInstruction w s
  | .gateTake dt => Sys2Proof.Machine.execGateTake dt s
  | .armStartReached dt => Sys2Proof.Machine.execArmStartReached dt s
  | .armEndReached dt => Sys2Proof.Machine.execArmEndReached dt s
  | .gateStopInsert dt => Sys2Proof.Machine.execGateStopInsert dt s
  | .ping dt tag => Sys2Proof.Machine.execPing dt tag s
  | .status dt tag => Sys2Proof.Machine.execStatus dt tag s
  | .reset dt tag => Sys2Proof.Machine.execReset dt tag s
  | .resetDelayExpiry dt => Sys2Proof.Machine.execResetDelayExpiry dt s
  | .loglevel dt tag level => Sys2Proof.Machine.execLoglevel dt tag level s
  | .cntsnap dt tag stamp => Sys2Proof.Machine.execCntsnap dt tag stamp s
  | .arm dt tag args => Sys2Proof.Machine.execArm dt tag args s
  | .disarm dt tag => Sys2Proof.Machine.execDisarm dt tag s
  | .stop dt tag => Sys2Proof.Machine.execStop dt tag s
  | .selprof dt tag n => Sys2Proof.Machine.execSelprof dt tag n s
  | .saveprof dt tag n mask => Sys2Proof.Machine.execSaveprof dt tag n mask s
  | .setcfg dt tag args => Sys2Proof.Machine.execSetcfg dt tag args s
  | .getcfg dt tag => Sys2Proof.Machine.execGetcfg dt tag s
  | .loadimg dt tag addr len => Sys2Proof.Machine.execLoadimg dt tag addr len s
  | .moult dt tag slot => Sys2Proof.Machine.execMoult dt tag slot s
  | .abandon dt tag => Sys2Proof.Machine.execAbandon dt tag s
  | .setboot dt tag arg => Sys2Proof.Machine.execSetboot dt tag arg s
  | .cocoon dt tag => Sys2Proof.Machine.execCocoon dt tag s
  | .emerge dt tag => Sys2Proof.Machine.execEmerge dt tag s
  | .csrread dt tag addr => Sys2Proof.Machine.execCsrread dt tag addr s
  | .csrwrite dt tag addr v => Sys2Proof.Machine.execCsrwrite dt tag addr v s
  | .hkcal dt tag c step ideal => Sys2Proof.Machine.execHkcal dt tag c step ideal s
  | .hkselfcal dt tag mask => Sys2Proof.Machine.execHkselfcal dt tag mask s
  | .fibrecal dt tag args => Sys2Proof.Machine.execFibrecal dt tag args s
  | .tdccal dt tag mask => Sys2Proof.Machine.execTdccal dt tag mask s
  | .dramtrain dt tag arg => Sys2Proof.Machine.execDramtrain dt tag arg s
  | .dramrate dt tag arg => Sys2Proof.Machine.execDramrate dt tag arg s
  | .rolereq dt tag arg => Sys2Proof.Machine.execRolereq dt tag arg s
  | .rolerel dt tag arg => Sys2Proof.Machine.execRolerel dt tag arg s
  | .lcset dt tag args => Sys2Proof.Machine.execLcset dt tag args s
  | .keyrepl dt tag args => Sys2Proof.Machine.execKeyrepl dt tag args s
  | .dbgunlock dt tag args => Sys2Proof.Machine.execDbgunlock dt tag args s
  | .fabkey dt tag args => Sys2Proof.Machine.execFabkey dt tag args s
  | .presenceGiven dt => Sys2Proof.Machine.execPresenceGiven dt s
  | .presenceTimeout dt stuck => Sys2Proof.Machine.execPresenceTimeout dt stuck s
  | .launch dt => Sys2Proof.Machine.execLaunch dt s
  | .launchMonitorEdge dt n => Sys2Proof.Machine.execLaunchMonitorEdge dt n s
  | .launchMonitorMiss dt => Sys2Proof.Machine.execLaunchMonitorMiss dt s
  | .captureWindowClose dt xs => Sys2Proof.Machine.execCaptureWindowClose dt xs s
  | .laserLockGain dt => Sys2Proof.Machine.execLaserLockGain dt s
  | .laserLockLoss dt => Sys2Proof.Machine.execLaserLockLoss dt s
  | .laserWlWrite v => Sys2Proof.Machine.execLaserWlWrite v s
  | .laserEnLow dt => Sys2Proof.Machine.execLaserEnLow dt s
  | .laserEnHigh dt => Sys2Proof.Machine.execLaserEnHigh dt s
  | .openPortDecision dt xs => Sys2Proof.Machine.execOpenPortDecision dt xs s
  | .safeClear v => Sys2Proof.Machine.execSafeClear v s
  | .portWrite v => Sys2Proof.Machine.execPortWrite v s
  | .portSwitchMove dt => Sys2Proof.Machine.execPortSwitchMove dt s
  | .portSettled dt => Sys2Proof.Machine.execPortSettled dt s
  | .mfGenStart which k v => Sys2Proof.Machine.execMfGenStart which k v s
  | .mfGenDone dt k => Sys2Proof.Machine.execMfGenDone dt k s
  | .coefWrite v => Sys2Proof.Machine.execCoefWrite v s
  | .swapRequest v => Sys2Proof.Machine.execSwapRequest v s
  | .swapCopyDone dt filt => Sys2Proof.Machine.execSwapCopyDone dt filt s
  | .fadeEnd dt filt => Sys2Proof.Machine.execFadeEnd dt filt s
  | .framePublish dt xs => Sys2Proof.Machine.execFramePublish dt xs s
  | .sentinelWindowEnd dt => Sys2Proof.Machine.execSentinelWindowEnd dt s
  | .mapdataWrite v => Sys2Proof.Machine.execMapdataWrite v s
  | .mapcommit v => Sys2Proof.Machine.execMapcommit v s
  | .strCsdataWrite v => Sys2Proof.Machine.execStrCsdataWrite v s
  | .dtsWinWrite w v => Sys2Proof.Machine.execDtsWinWrite w v s
  | .bandSearchStart dt => Sys2Proof.Machine.execBandSearchStart dt s
  | .bandSearchDone dt band amp => Sys2Proof.Machine.execBandSearchDone dt band amp s
  | .dtsHopStart dt => Sys2Proof.Machine.execDtsHopStart dt s
  | .dtsHopEnd dt => Sys2Proof.Machine.execDtsHopEnd dt s
  | .dtsLaunchJob dt => Sys2Proof.Machine.execDtsLaunchJob dt s
  | .dtsProfilePost dt => Sys2Proof.Machine.execDtsProfilePost dt s
  | .vecJobStart dt => Sys2Proof.Machine.execVecJobStart dt s
  | .vecJobDone dt cycles => Sys2Proof.Machine.execVecJobDone dt cycles s
  | .vecAbort v => Sys2Proof.Machine.execVecAbort v s
  | .vecCycleLimit dt => Sys2Proof.Machine.execVecCycleLimit dt s
  | .svScalarInstr w => Sys2Proof.Machine.execSvScalarInstr w s
  | .vld d a b mem pi br => Sys2Proof.Machine.execVld d a b mem pi br s
  | .vst d a b mem pi br => Sys2Proof.Machine.execVst d a b mem pi br s
  | .vlw d a b mem pi br => Sys2Proof.Machine.execVlw d a b mem pi br s
  | .vadd d a b m => Sys2Proof.Machine.execVadd d a b m s
  | .vsub d a b m => Sys2Proof.Machine.execVsub d a b m s
  | .vmul d a b m => Sys2Proof.Machine.execVmul d a b m s
  | .vmac d a b m => Sys2Proof.Machine.execVmac d a b m s
  | .vmsu d a b m => Sys2Proof.Machine.execVmsu d a b m s
  | .vpwr d a b m => Sys2Proof.Machine.execVpwr d a b m s
  | .vclr d m => Sys2Proof.Machine.execVclr d m s
  | .vrd d a m => Sys2Proof.Machine.execVrd d a m s
  | .vbf d a b m => Sys2Proof.Machine.execVbf d a b m s
  | .vbfx d a b m => Sys2Proof.Machine.execVbfx d a b m s
  | .vperm d a b m => Sys2Proof.Machine.execVperm d a b m s
  | .vsplat d a m => Sys2Proof.Machine.execVsplat d a m s
  | .vbexp d a m => Sys2Proof.Machine.execVbexp d a m s
  | .vstage d m => Sys2Proof.Machine.execVstage d m s
  | .vsclr m => Sys2Proof.Machine.execVsclr m s
  | .vmx a b m => Sys2Proof.Machine.execVmx a b m s
  | .vmn a b m => Sys2Proof.Machine.execVmn a b m s
  | .vmxr d a m => Sys2Proof.Machine.execVmxr d a m s
  | .vmnr d a m => Sys2Proof.Machine.execVmnr d a m s
  | .vloop a imm => Sys2Proof.Machine.execVloop a imm s
  | .vdone a => Sys2Proof.Machine.execVdone a s
  | .linkenWrite v => Sys2Proof.Machine.execLinkenWrite v s
  | .feBlockLock dt l headers => Sys2Proof.Machine.execFeBlockLock dt l headers s
  | .feLockLoss dt l opened headers => Sys2Proof.Machine.execFeLockLoss dt l opened headers s
  | .feHello dt l payload => Sys2Proof.Machine.execFeHello dt l payload s
  | .feStateTimeout dt l => Sys2Proof.Machine.execFeStateTimeout dt l s
  | .feRetry dt l => Sys2Proof.Machine.execFeRetry dt l s
  | .fcmd v => Sys2Proof.Machine.execFcmd v s
  | .bcresetAct dt l => Sys2Proof.Machine.execBcresetAct dt l s
  | .sccmd v => Sys2Proof.Machine.execSccmd v s
  | .scrsp dt l payload => Sys2Proof.Machine.execScrsp dt l payload s
  | .scTimeout dt => Sys2Proof.Machine.execScTimeout dt s
  | .hitFrame dt l fill blocks => Sys2Proof.Machine.execHitFrame dt l fill blocks s
  | .feStatusBlock dt l payload => Sys2Proof.Machine.execFeStatusBlock dt l payload s
  | .echo dt l arg n => Sys2Proof.Machine.execEcho dt l arg n s
  | .patrolStart dt => Sys2Proof.Machine.execPatrolStart dt s
  | .patrolDone dt l => Sys2Proof.Machine.execPatrolDone dt l s
  | .zsDecide dt => Sys2Proof.Machine.execZsDecide dt s
  | .hitBlockTmo dt l => Sys2Proof.Machine.execHitBlockTmo dt l s
  | .trgArm v => Sys2Proof.Machine.execTrgArm v s
  | .trgArmStop v => Sys2Proof.Machine.execTrgArmStop v s
  | .condSample dt k => Sys2Proof.Machine.execCondSample dt k s
  | .condTimeout dt k => Sys2Proof.Machine.execCondTimeout dt k s
  | .trigInEdge dt inp rising short n => Sys2Proof.Machine.execTrigInEdge dt inp rising short n s
  | .hpHitTake dt p => Sys2Proof.Machine.execHpHitTake dt p s
  | .hpHitExpire dt p => Sys2Proof.Machine.execHpHitExpire dt p s
  | .classDecide dt c => Sys2Proof.Machine.execClassDecide dt c s
  | .segmentCopy dt c => Sys2Proof.Machine.execSegmentCopy dt c s
  | .segmentStreamPart dt c => Sys2Proof.Machine.execSegmentStreamPart dt c s
  | .trigOutEdge dt inp => Sys2Proof.Machine.execTrigOutEdge dt inp s
  | .trigOutPulseEnd dt inp => Sys2Proof.Machine.execTrigOutPulseEnd dt inp s
  | .outclr v => Sys2Proof.Machine.execOutclr v s
  | .evbWindowClose dt => Sys2Proof.Machine.execEvbWindowClose dt s
  | .localStragglerPost dt => Sys2Proof.Machine.execLocalStragglerPost dt s
  | .evbHeadAdvance dt l => Sys2Proof.Machine.execEvbHeadAdvance dt l s
  | .cand dt dev c stamp cid => Sys2Proof.Machine.execCand dt dev c stamp cid s
  | .deciderDecide dt => Sys2Proof.Machine.execDeciderDecide dt s
  | .accept dt c epoch cid stamp num => Sys2Proof.Machine.execAccept dt c epoch cid stamp num s
  | .reject dt c cid => Sys2Proof.Machine.execReject dt c cid s
  | .candTimeout dt => Sys2Proof.Machine.execCandTimeout dt s
  | .build dt epoch num stamp devs => Sys2Proof.Machine.execBuild dt epoch num stamp devs s
  | .busy dt dev busy => Sys2Proof.Machine.execBusy dt dev busy s
  | .grant dt bnum bepoch units => Sys2Proof.Machine.execGrant dt bnum bepoch units s
  | .credit dt bnum bepoch units fseq => Sys2Proof.Machine.execCredit dt bnum bepoch units fseq s
  | .fragmentSend dt => Sys2Proof.Machine.execFragmentSend dt s
  | .fragmentReceive dt words => Sys2Proof.Machine.execFragmentReceive dt words s
  | .eventCloseTimeout dt => Sys2Proof.Machine.execEventCloseTimeout dt s
  | .timex dt p xseq rxseq txprev rxlast peerState rootHold hops rootDev rootEpoch => Sys2Proof.Machine.execTimex dt p xseq rxseq txprev rxlast peerState rootHold hops rootDev rootEpoch s
  | .timexSend dt p => Sys2Proof.Machine.execTimexSend dt p s
  | .parentExchangeLoss dt => Sys2Proof.Machine.execParentExchangeLoss dt s
  | .lockedTimer dt => Sys2Proof.Machine.execLockedTimer dt s
  | .ppsEdge dt present => Sys2Proof.Machine.execPpsEdge dt present s
  | .ref10mChange dt n => Sys2Proof.Machine.execRef10mChange dt n s
  | .rootSecondBoundary dt => Sys2Proof.Machine.execRootSecondBoundary dt s
  | .nextsecWrite v => Sys2Proof.Machine.execNextsecWrite v s
  | .asyUpdate dt p => Sys2Proof.Machine.execAsyUpdate dt p s
  | .asySlew dt p => Sys2Proof.Machine.execAsySlew dt p s
  | .tsub dt dev sense first last tref => Sys2Proof.Machine.execTsub dt dev sense first last tref s
  | .tint dt sense dev last integral pm => Sys2Proof.Machine.execTint dt sense dev last integral pm s
  | .profileAgeExpiry dt p => Sys2Proof.Machine.execProfileAgeExpiry dt p s
  | .tdcEdge dt u src n => Sys2Proof.Machine.execTdcEdge dt u src n s
  | .tdcTimeout dt u => Sys2Proof.Machine.execTdcTimeout dt u s
  | .tdcDeadTimeEnd dt u => Sys2Proof.Machine.execTdcDeadTimeEnd dt u s
  | .tdcRingCheck dt u lsb ok => Sys2Proof.Machine.execTdcRingCheck dt u lsb ok s
  | .tdcCfgWrite u v => Sys2Proof.Machine.execTdcCfgWrite u v s
  | .fabricFrame dt p sfd f done => Sys2Proof.Machine.execFabricFrame dt p sfd f done s
  | .pher dt p f => Sys2Proof.Machine.execPher dt p f s
  | .pherSend dt p => Sys2Proof.Machine.execPherSend dt p s
  | .peerDead dt p => Sys2Proof.Machine.execPeerDead dt p s
  | .fabPortLock dt p signal lock => Sys2Proof.Machine.execFabPortLock dt p signal lock s
  | .fabPortTimeout dt p => Sys2Proof.Machine.execFabPortTimeout dt p s
  | .lsa dt p f done => Sys2Proof.Machine.execLsa dt p f done s
  | .lsaRefresh dt => Sys2Proof.Machine.execLsaRefresh dt s
  | .lsaMaxage dt dev => Sys2Proof.Machine.execLsaMaxage dt dev s
  | .idClaimDone dt => Sys2Proof.Machine.execIdClaimDone dt s
  | .lcred dt p w => Sys2Proof.Machine.execLcred dt p w s
  | .lcredSend dt p => Sys2Proof.Machine.execLcredSend dt p s
  | .fabSend dt p => Sys2Proof.Machine.execFabSend dt p s
  | .fwdTapSend dt t => Sys2Proof.Machine.execFwdTapSend dt t s
  | .fwdWrite t v => Sys2Proof.Machine.execFwdWrite t v s
  | .reassemblyTimeout dt => Sys2Proof.Machine.execReassemblyTimeout dt s
  | .rann dt r dev epoch prio stamp serial => Sys2Proof.Machine.execRann dt r dev epoch prio stamp serial s
  | .rannRenew dt r => Sys2Proof.Machine.execRannRenew dt r s
  | .rreq dt r dev epoch prio stamp serial => Sys2Proof.Machine.execRreq dt r dev epoch prio stamp serial s
  | .rrel dt r dev epoch prio stamp => Sys2Proof.Machine.execRrel dt r dev epoch prio stamp s
  | .roleLapse dt r => Sys2Proof.Machine.execRoleLapse dt r s
  | .roleRequestWaitEnd dt r => Sys2Proof.Machine.execRoleRequestWaitEnd dt r s
  | .ethAck dt p dseq sack => Sys2Proof.Machine.execEthAck dt p dseq sack s
  | .ethSyncTimeout dt p => Sys2Proof.Machine.execEthSyncTimeout dt p s
  | .ethRetransmit dt p => Sys2Proof.Machine.execEthRetransmit dt p s
  | .ethPieceSend dt p => Sys2Proof.Machine.execEthPieceSend dt p s
  | .ethMgmtDatagram dt p ip port f => Sys2Proof.Machine.execEthMgmtDatagram dt p ip port f s
  | .ethArp dt p reply target sender => Sys2Proof.Machine.execEthArp dt p reply target sender s
  | .ethNd dt p solicit target sender => Sys2Proof.Machine.execEthNd dt p solicit target sender s
  | .ethEcho dt p v6 target sender data => Sys2Proof.Machine.execEthEcho dt p v6 target sender data s
  | .ptpMessage dt v6 domain m => Sys2Proof.Machine.execPtpMessage dt v6 domain m s
  | .memAdmissionTick dt => Sys2Proof.Machine.execMemAdmissionTick dt s
  | .memRefresh dt n => Sys2Proof.Machine.execMemRefresh dt n s
  | .memRequestServe dt n new err => Sys2Proof.Machine.execMemRequestServe dt n new err s
  | .scrubStep dt err => Sys2Proof.Machine.execScrubStep dt err s
  | .trnGo v => Sys2Proof.Machine.execTrnGo v s
  | .trnApply v => Sys2Proof.Machine.execTrnApply v s
  | .trnGatherDone dt reads fin => Sys2Proof.Machine.execTrnGatherDone dt reads fin s
  | .dramTempDrift dt n temp => Sys2Proof.Machine.execDramTempDrift dt n temp s
  | .cmpLaneTake dt => Sys2Proof.Machine.execCmpLaneTake dt s
  | .cmpOutputPublish dt l codes spoilt => Sys2Proof.Machine.execCmpOutputPublish dt l codes spoilt s
  | .cmpChainWaitExpiry dt l => Sys2Proof.Machine.execCmpChainWaitExpiry dt l s
  | .decompressJob dt l => Sys2Proof.Machine.execDecompressJob dt l s
  | .pllUnlock dt pll => Sys2Proof.Machine.execPllUnlock dt pll s
  | .pllRelock dt pll band amp phase rows temps => Sys2Proof.Machine.execPllRelock dt pll band amp phase rows temps s
  | .synSLockTimeout dt => Sys2Proof.Machine.execSynSLockTimeout dt s
  | .pllRetryAlarm dt pll => Sys2Proof.Machine.execPllRetryAlarm dt pll s
  | .refCountFail dt => Sys2Proof.Machine.execRefCountFail dt s
  | .clkCommit v => Sys2Proof.Machine.execClkCommit v s
  | .commitPoint dt => Sys2Proof.Machine.execCommitPoint dt s
  | .mslotWrite n v => Sys2Proof.Machine.execMslotWrite n v s
  | .mselHop dt locked => Sys2Proof.Machine.execMselHop dt locked s
  | .hkcGo v => Sys2Proof.Machine.execHkcGo v s
  | .hkcIgo v => Sys2Proof.Machine.execHkcIgo v s
  | .hkcStop v => Sys2Proof.Machine.execHkcStop v s
  | .hkcTimer dt => Sys2Proof.Machine.execHkcTimer dt s
  | .hkcStartDelayEnd dt => Sys2Proof.Machine.execHkcStartDelayEnd dt s
  | .hkcConversionDone dt d ovr openFail => Sys2Proof.Machine.execHkcConversionDone dt d ovr openFail s
  | .hkcAuxConversion dt d ovr opened => Sys2Proof.Machine.execHkcAuxConversion dt d ovr opened s
  | .hkcExcWrite c v => Sys2Proof.Machine.execHkcExcWrite c v s
  | .hkcEnWrite v => Sys2Proof.Machine.execHkcEnWrite v s
  | .calgainWrite c v => Sys2Proof.Machine.execCalgainWrite c v s
  | .blankPin dt high => Sys2Proof.Machine.execBlankPin dt high s
  | .flsArm v => Sys2Proof.Machine.execFlsArm v s
  | .flashTurnOn dt n => Sys2Proof.Machine.execFlashTurnOn dt n s
  | .flashTurnOff dt n => Sys2Proof.Machine.execFlashTurnOff dt n s
  | .flashCheck dt n reg pct sink => Sys2Proof.Machine.execFlashCheck dt n reg pct sink s
  | .dimSlot dt n => Sys2Proof.Machine.execDimSlot dt n s
  | .flsChDisable n v => Sys2Proof.Machine.execFlsChDisable n v s
  | .flvAdapt dt vin => Sys2Proof.Machine.execFlvAdapt dt vin s
  | .flsPowerCheck dt mw => Sys2Proof.Machine.execFlsPowerCheck dt mw s
  | .flsDerate dt ta tb => Sys2Proof.Machine.execFlsDerate dt ta tb s
  | .diagWindowEnd dt n => Sys2Proof.Machine.execDiagWindowEnd dt n s
  | .flsStatusPost dt => Sys2Proof.Machine.execFlsStatusPost dt s
  | .mismatch dt => Sys2Proof.Machine.execMismatch dt s
  | .selfTestVerdict dt a b => Sys2Proof.Machine.execSelfTestVerdict dt a b s
  | .recoveryResume dt => Sys2Proof.Machine.execRecoveryResume dt s
  | .leaseRenewal dt => Sys2Proof.Machine.execLeaseRenewal dt s
  | .leaseExpiry dt => Sys2Proof.Machine.execLeaseExpiry dt s
  | .coreRetest dt pass => Sys2Proof.Machine.execCoreRetest dt pass s
  | .ctest v => Sys2Proof.Machine.execCtest v s
  | .comparatorTest dt ok => Sys2Proof.Machine.execComparatorTest dt ok s
  | .vecKnownAnswer dt ok => Sys2Proof.Machine.execVecKnownAnswer dt ok s
  | .cmpKnownAnswer dt l ok => Sys2Proof.Machine.execCmpKnownAnswer dt l ok s
  | .hkcRefCheck dt z r => Sys2Proof.Machine.execHkcRefCheck dt z r s
  | .timeCrossCheck dt p diff => Sys2Proof.Machine.execTimeCrossCheck dt p diff s
  | .alarmSummaryPost dt => Sys2Proof.Machine.execAlarmSummaryPost dt s
  | .alarmTokenRefill dt c => Sys2Proof.Machine.execAlarmTokenRefill dt c s
  | .criticalBufferDrain dt => Sys2Proof.Machine.execCriticalBufferDrain dt s
  | .counterSnapshot dt => Sys2Proof.Machine.execCounterSnapshot dt s
  | .snapatWrite v => Sys2Proof.Machine.execSnapatWrite v s
  | .staleCheck dt => Sys2Proof.Machine.execStaleCheck dt s
  | .sealBreak dt => Sys2Proof.Machine.execSealBreak dt s
  | .sealClose dt => Sys2Proof.Machine.execSealClose dt s
  | .lcjChange dt fitted => Sys2Proof.Machine.execLcjChange dt fitted s
  | .rngRead who => Sys2Proof.Machine.execRngRead who s
  | .rngHealthFail dt => Sys2Proof.Machine.execRngHealthFail dt s
  | .moultLoadDone dt ok => Sys2Proof.Machine.execMoultLoadDone dt ok s
  | .moultCkptTimeout dt => Sys2Proof.Machine.execMoultCkptTimeout dt s
  | .coldStart dt main ka => Sys2Proof.Machine.execColdStart dt main ka s
  | .powerGood dt absent => Sys2Proof.Machine.execPowerGood dt absent s
  | .brownOut dt => Sys2Proof.Machine.execBrownOut dt s
  | .railFault dt chan => Sys2Proof.Machine.execRailFault dt chan s
  | .resetNAssert dt => Sys2Proof.Machine.execResetNAssert dt s
  | .resetRelease dt profsel => Sys2Proof.Machine.execResetRelease dt profsel s
  | .startupComplete dt cal phase res => Sys2Proof.Machine.execStartupComplete dt cal phase res s
  | .cocoonEntryDone dt => Sys2Proof.Machine.execCocoonEntryDone dt s
  | .mboxcmd v => Sys2Proof.Machine.execMboxcmd v s
  | .wakeatExpiry dt => Sys2Proof.Machine.execWakeatExpiry dt s
  | .emergenceDone dt phase rows temps res => Sys2Proof.Machine.execEmergenceDone dt phase rows temps res s
  | .spiNop dt op len addr chk => Sys2Proof.Machine.execSpiNop dt op len addr chk s
  | .csrrd dt len addr chk => Sys2Proof.Machine.execCsrrd dt len addr chk s
  | .csrwr dt len addr v chk => Sys2Proof.Machine.execCsrwr dt len addr v chk s
  | .memrd dt len addr chk => Sys2Proof.Machine.execMemrd dt len addr chk s
  | .memwr dt len addr words chk => Sys2Proof.Machine.execMemwr dt len addr words chk s
  | .spiPost dt len addr words chk => Sys2Proof.Machine.execSpiPost dt len addr words chk s
  | .spiTake dt len addr chk whole => Sys2Proof.Machine.execSpiTake dt len addr chk whole s
  | .dbgLock v => Sys2Proof.Machine.execDbgLock v s
  | .debugOpenExpiry dt => Sys2Proof.Machine.execDebugOpenExpiry dt s
  | .queEnable n v => Sys2Proof.Machine.execQueEnable n v s
  | .queHeadWrite n v => Sys2Proof.Machine.execQueHeadWrite n v s
  | .resultRegisterRead who addr => Sys2Proof.Machine.execResultRegisterRead who addr s
  | .pairLoRead who addr => Sys2Proof.Machine.execPairLoRead who addr s
  | .pairHiWrite who addr v => Sys2Proof.Machine.execPairHiWrite who addr v s
  | .csrWrite who addr v => Sys2Proof.Machine.execCsrWrite who addr v s
  | .feSuperframe dt => Sys2Proof.Machine.execFeSuperframe dt s
  | .ingressFifoDrained dt l => Sys2Proof.Machine.execIngressFifoDrained dt l s
  | .csrAcknowledge dt island => Sys2Proof.Machine.execCsrAcknowledge dt island s
  | .tdcCalibrationDone dt u lsb dnl => Sys2Proof.Machine.execTdcCalibrationDone dt u lsb dnl s
  | .imageSlotWriteDone dt sigOk hashOk => Sys2Proof.Machine.execImageSlotWriteDone dt sigOk hashOk s
  | .profileWriteDone dt => Sys2Proof.Machine.execProfileWriteDone dt s
  | .lifeCycleWipeDone dt => Sys2Proof.Machine.execLifeCycleWipeDone dt s
  | .startUpFailure dt kind => Sys2Proof.Machine.execStartUpFailure dt kind s
  | .startUpProfileLoaded dt bad => Sys2Proof.Machine.execStartUpProfileLoaded dt bad s
  | .sramScrub dt mem a double => Sys2Proof.Machine.execSramScrub dt mem a double s
  | .configurationParityError dt island => Sys2Proof.Machine.execConfigurationParityError dt island s
  | .supervisorFault dt => Sys2Proof.Machine.execSupervisorFault dt s
  | .baseplateTemperatureCheck dt temp => Sys2Proof.Machine.execBaseplateTemperatureCheck dt temp s
  | .ka3v3Change dt ok => Sys2Proof.Machine.execKa3v3Change dt ok s
  | .rngfailClear dt => Sys2Proof.Machine.execRngfailClear dt s
  | .diagnosticPulse dt n => Sys2Proof.Machine.execDiagnosticPulse dt n s
  | .ptpLockChange dt ok => Sys2Proof.Machine.execPtpLockChange dt ok s
  | .ethernetFrameDiscarded dt p => Sys2Proof.Machine.execEthernetFrameDiscarded dt p s
  | .tapOperation dt ir din => Sys2Proof.Machine.execTapOperation dt ir din s

end Sys2Proof.Machine
end

