-- ==== Sys2Proof/Safety.lean ====
section
/-! DEFINITION. What a safe state is, and what the security state may do over time: the terms of the claims about every step. -/

namespace Sys2Proof.Machine

/-- An image's cells are in canonical form. -/
def Image.wf (m : Image) : Prop := Memory.wf m.text = true ∧ Memory.wf m.data = true

/-- The images that the security state holds. -/
structure SecSt.Wf (x : SecSt) : Prop where
  slots : ∀ i (h : i < 2), x.slots[i].wf
  running : x.running.wf
  loading : ∀ l, x.loading = some l → l.2.1.wf

/-- The memories of the module. -/
structure State.MemWf (s : State) : Prop where
  mem : Memory.wf s.mem = true
  pmem : Memory.wf s.core.pmem = true
  dmem : Memory.wf s.core.dmem = true
  img : s.sec.Wf

/-- From one security state to a later one: the rollback counter and the count of entries into IMAGO never fall, that count never passes 16,
EXUVIA has no exit and EGG no entry (R428, R432). -/
structure SecMono (a b : SecSt) : Prop where
  rbc : a.rbc ≤ b.rbc
  cnt : a.lccnt ≤ b.lccnt
  cap : a.lccnt ≤ 16 → b.lccnt ≤ 16
  exuvia : a.lc = .exuvia → b.lc = .exuvia
  egg : a.lc ≠ .egg → b.lc ≠ .egg

/-- A safe state: its memories and its register file are in canonical form, and the fuse bank holds at most its 16 entries into IMAGO (R428). -/
structure State.Safe (s : State) : Prop where
  mem : s.MemWf
  csr : spSorted s.csr = true
  fuses : s.sec.lccnt ≤ 16

end Sys2Proof.Machine
end

