-- ==== Sys2Proof/Certificates/Slice0/Obligations.lean ====
section
/-! DEFINITION. The statements about the model, for the provers. -/

open Sys2Proof Sys2Proof.Machine Sys2Proof.Machine.Csr Host

/-- A step is the effect of the command at the front of the queue. For every command c and every state s, a step of s with c at the front of its queue is exec of c on s with the rest of the queue. -/
def Obligations.StepRunsFrontCommand : Prop :=
  ∀ (c : Instr) (rest : List Instr) (s : State),
    step { s with pending := c :: rest } = exec c { s with pending := rest }

/-- With no command waiting a step changes nothing (the model's choice, log entry 10). The spec describes no step of the block without a command; the model idles (DESIGN CHOICE, log entry 10): with an empty queue the next state is the state. -/
def Obligations.EmptyQueueIdles : Prop :=
  ∀ s : State, s.pending = [] → step s = .next s

/-- Every command answers a next state and leaves the waiting commands as they are. For every command and every state, exec answers a next state, whose queue of waiting commands is unchanged: nothing is refused and nothing faults. -/
def Obligations.EveryCommandCompletes : Prop :=
  ∀ (c : Instr) (s : State), ∃ t, exec c s = .next t ∧ t.pending = s.pending

/-- The reset state is safe. State.reset has canonical memories and a canonical register file, and its fuse bank holds at most 16 entries into IMAGO. -/
def Obligations.ResetStateIsSafe : Prop :=
  State.reset.Safe

/-- Every step keeps the state safe. From every safe state, whatever command is in front, the next state is safe: physical memory, program and data SRAM and every stored image keep their canonical form, the register file keeps its canonical form, and the fuse bank never holds more than its 16 entries into IMAGO (R428). -/
def Obligations.StepsKeepSafe : Prop :=
  ∀ s t : State, s.Safe → step s = .next t → t.Safe

/-- The rollback counter only rises. R432 says: the rollback counter only rises. Whatever command is in front and whatever state the module is in, a step leaves SEC.RBC at least as high as it was: resets, wipes, image loads and life-cycle changes included. -/
def Obligations.RollbackCounterOnlyRises : Prop :=
  ∀ s t : State, step s = .next t → s.sec.rbc ≤ t.sec.rbc

/-- EXUVIA has no exit, EGG no entry, and the count of IMAGO entries never falls. Over every step: a module in EXUVIA stays in EXUVIA, a module that has left EGG never returns to it, and SEC.LCCNT never falls. -/
def Obligations.LifeCycleGoesOneWay : Prop :=
  ∀ s t : State, step s = .next t →
    (s.sec.lc = .exuvia → t.sec.lc = .exuvia) ∧ (s.sec.lc ≠ .egg → t.sec.lc ≠ .egg) ∧ s.sec.lccnt ≤ t.sec.lccnt

/-- What reset leaves. After reset the module is in STARTUP, w0 to w15 and FLAGS read 0 and PC is 0 before the image is entered, no queue is enabled, no trap is being handled, no timed action and no host command is pending, and physical memory lists nothing. PC 0 and the empty memory before the image is loaded are DESIGN CHOICE (log entries 1 and 4). -/
def Obligations.ResetValues : Prop :=
  State.reset.mode = .startup ∧ (∀ r, State.reset.wreg r = 0) ∧ State.reset.core.flags = 0 ∧ State.reset.core.pc = 0 ∧
    (∀ n : Fin 128, State.reset.qEn n = false) ∧ State.reset.b SEQ_TSTAT 31 = false ∧ State.reset.b SEQ_TSTAT 30 = false ∧
    State.reset.core.tacts = [] ∧ State.reset.gate.out = [] ∧ State.reset.mem = [] ∧ State.reset.pending = []

/-- The fourteen register instructions write their result and go on. While the cores issue and the instruction word reads without an uncorrectable error, add, sub, and, or, xor, shl, shr, sra, mul, mulhu, min, max, minu and maxu write to wd the value Table SEQ-4 gives (signed and unsigned comparisons and the high product taken over integers), FLAGS by AluFlags, PC + 4, in the table's cycles; nothing else of the state changes but the counters and time. -/
def Obligations.AluInstructions : Prop :=
  ∀ (s : State) (d a b : Fin 16), s.issues = true → s.eccAt 0 s.core.pc.toNat = false →
    let x := s.wreg a
    let y := s.wreg b
    let give (v : DWord) (fn n : Nat) : Outcome State Fault Refusal := .next ((s.retire d v (aluFlags fn s.core.flags x y)).cycles n)
    exec (.add d a b) s = give (x + y) 0 1 ∧ exec (.sub d a b) s = give (x - y) 1 1 ∧ exec (.and d a b) s = give (x &&& y) 2 1 ∧
    exec (.or d a b) s = give (x ||| y) 3 1 ∧ exec (.xor d a b) s = give (x ^^^ y) 4 1 ∧
    exec (.shl d a b) s = give (BitVec.ofNat 64 (x.toNat * 2 ^ (y.toNat % 64))) 5 1 ∧
    exec (.shr d a b) s = give (BitVec.ofNat 64 (x.toNat / 2 ^ (y.toNat % 64))) 6 1 ∧
    exec (.sra d a b) s = give (BitVec.ofInt 64 (x.toInt / ((2 ^ (y.toNat % 64) : Nat) : Int))) 7 1 ∧
    exec (.mul d a b) s = give (BitVec.ofNat 64 (x.toNat * y.toNat)) 8 3 ∧
    exec (.mulhu d a b) s = give (BitVec.ofNat 64 (x.toNat * y.toNat / 2 ^ 64)) 9 3 ∧
    exec (.min d a b) s = give (if x.toInt < y.toInt then x else y) 10 1 ∧ exec (.max d a b) s = give (if x.toInt < y.toInt then y else x) 11 1 ∧
    exec (.minu d a b) s = give (if x.toNat < y.toNat then x else y) 12 1 ∧ exec (.maxu d a b) s = give (if x.toNat < y.toNat then y else x) 13 1

/-- FLAGS after the register instructions, bit by bit. After an instruction of OP 0x00 with result r, Z says that r is 0 and N is its sign. add sets C on a carry out of bit 63 and V where the signed sum does not fit; sub sets C on a borrow and V where the signed difference does not fit; and, or and xor clear C and V; the others leave C and V. T, Q, E and every higher bit stay. -/
def Obligations.AluFlags : Prop :=
  ∀ (fn : Fin 14) (w x y : DWord) (j : Nat), j < 64 →
    (aluFlags fn w x y).getLsbD j =
      if j = 0 then decide (alu fn x y = 0) else if j = 1 then decide ((alu fn x y).toInt < 0)
      else if j = 2 ∧ fn.val ≤ 4 then
        (match fn.val with | 0 => decide (2 ^ 64 ≤ x.toNat + y.toNat) | 1 => decide (x.toNat < y.toNat) | _ => false)
      else if j = 3 ∧ fn.val ≤ 4 then
        (match fn.val with
          | 0 => decide ((x + y).toInt ≠ x.toInt + y.toInt) | 1 => decide ((x - y).toInt ≠ x.toInt - y.toInt) | _ => false)
      else w.getLsbD j

/-- Immediates, lui, tadd, mfs and mts write their result and go on. While the cores issue without an instruction ECC error: addi adds the sign-extended immediate (flags of add); andi, ori, xori take the zero-extended one and set Z and N; shli, shri and srai with an immediate under 64 shift by it; lui loads IMM22 shifted left by 18; tadd adds signed picoseconds to a stamp in 2 cycles; mfs reads PC, TNOW, FLAGS, GLB.STATE or the instar; mts of selector 2 writes FLAGS [6:0]. -/
def Obligations.ImmediateInstructions : Prop :=
  ∀ (s : State) (d a b : Fin 16) (imm : BitVec 18) (u : BitVec 22), s.issues = true → s.eccAt 0 s.core.pc.toNat = false →
    let x := s.wreg a
    let z := zext18 imm
    let give (v f : DWord) (n : Nat) : Outcome State Fault Refusal := .next ((s.retire d v f).cycles n)
    let zn (v : DWord) : DWord := flagsZN s.core.flags v
    exec (.addi d a imm) s = give (BitVec.ofInt 64 (x.toInt + imm.toInt)) (aluFlags 0 s.core.flags x (sext18 imm)) 1 ∧
    exec (.andi d a imm) s = give (x &&& z) (zn (x &&& z)) 1 ∧ exec (.ori d a imm) s = give (x ||| z) (zn (x ||| z)) 1 ∧
    exec (.xori d a imm) s = give (x ^^^ z) (zn (x ^^^ z)) 1 ∧
    (imm.toNat < 64 →
      exec (.shli d a imm) s = give (x <<< imm.toNat) (zn (x <<< imm.toNat)) 1 ∧
      exec (.shri d a imm) s = give (x >>> imm.toNat) (zn (x >>> imm.toNat)) 1 ∧
      exec (.srai d a imm) s = give (x.sshiftRight imm.toNat) (zn (x.sshiftRight imm.toNat)) 1) ∧
    exec (.lui d u) s = give (BitVec.ofNat 64 (u.toNat * 2 ^ 18)) s.core.flags 1 ∧
    exec (.tadd d a b) s = give (BitVec.ofNat 64 (stampAdd x.toNat (s.wreg b).toInt)) s.core.flags 2 ∧
    exec (.mfs d a 0) s = give (BitVec.ofNat 64 s.core.pc.toNat) s.core.flags 1 ∧
    exec (.mfs d a 1) s = give (BitVec.ofNat 64 s.now) s.core.flags 1 ∧ exec (.mfs d a 2) s = give s.core.flags s.core.flags 1 ∧
    exec (.mfs d a 3) s = give (BitVec.ofNat 64 s.stateWord) s.core.flags 1 ∧
    exec (.mfs d a 4) s = give (BitVec.ofNat 64 (s.flt.instar % 65536)) s.core.flags 1 ∧
    exec (.mts d a 2) s = .next (((s.setFlags (x &&& 0x7F)).advance).cycles 1)

/-- tadd adds signed picoseconds to a stamp, with carry at 10^12 ps and seconds modulo 2^24. While the cores issue without an instruction ECC error, tadd completes, and the stamp in wd (for d not 0) counts seconds and picoseconds so that, in picoseconds modulo 2^24 s, it is the stamp in wa (its PSEC field taken whole, also when it is 10^12 or more) plus wb read as a signed number, with PSEC under 10^12. -/
def Obligations.TaddAddsPicoseconds : Prop :=
  ∀ (s : State) (d a b : Fin 16), s.issues = true → s.eccAt 0 s.core.pc.toNat = false → d ≠ 0 →
    ∃ t, exec (.tadd d a b) s = .next t ∧ stPsec (t.wreg d).toNat < 10 ^ 12 ∧
      ((stSec (t.wreg d).toNat * 10 ^ 12 + stPsec (t.wreg d).toNat : Nat) : Int) =
        (((stSec (s.wreg a).toNat * 10 ^ 12 + stPsec (s.wreg a).toNat : Nat) : Int) + (s.wreg b).toInt) % ((2 ^ 24 * 10 ^ 12 : Nat) : Int)

/-- w0 reads 0 and a write of it is discarded. In every state w0 reads 0; an add whose destination is w0 completes, sets FLAGS, and leaves every general register as it was. -/
def Obligations.ZeroRegister : Prop :=
  ∀ (s : State) (a b : Fin 16), s.wreg 0 = 0 ∧
    (s.issues = true → s.eccAt 0 s.core.pc.toNat = false →
      ∃ t, exec (.add 0 a b) s = .next t ∧ t.core.flags = aluFlags 0 s.core.flags (s.wreg a) (s.wreg b) ∧ ∀ r, t.wreg r = s.wreg r)

/-- What a register instruction leaves unchanged. When add, sub, and, or, xor, shl, shr, sra, mul, mulhu, min, max, minu, maxu, addi, andi, ori, xori, lui, tadd, mfs with a selector of 0 to 4 or a shift by an immediate under 64 runs (the cores issue, no instruction ECC error), every general register but wd is unchanged; so are FLAGS T, Q and E, every special register and CSR, data and program SRAM, every byte of physical memory, the queues and latches and the module state; PC goes on by 4; time passes: counters count, the instar and holdover in force are kept, the console sends, and a channel map commit in progress may complete in the STR window (R177). -/
def Obligations.RegisterInstructionFrame : Prop :=
  ∀ (s t : State) (d a b : Fin 16) (imm : BitVec 18) (u : BitVec 22) (c : Instr), s.issues = true → s.eccAt 0 s.core.pc.toNat = false →
    c ∈ [Instr.add d a b, .sub d a b, .and d a b, .or d a b, .xor d a b, .shl d a b, .shr d a b, .sra d a b, .mul d a b, .mulhu d a b,
      .min d a b, .max d a b, .minu d a b, .maxu d a b, .addi d a imm, .andi d a imm, .ori d a imm, .xori d a imm, .lui d u, .tadd d a b] ∨
      (c ∈ [Instr.shli d a imm, .shri d a imm, .srai d a imm] ∧ imm.toNat < 64) ∨ (c = .mfs d a imm ∧ imm.toNat ≤ 4) →
    exec c s = .next t →
    (∀ r, r ≠ d → t.wreg r = s.wreg r) ∧ (∀ j, 4 ≤ j → j < 64 → t.core.flags.getLsbD j = s.core.flags.getLsbD j) ∧
      t.core.pc = s.core.pc + 4 ∧ (∀ x, t.byte x = s.byte x) ∧ (∀ x, x / 0x10000 ≠ 7 → t.csrRaw x = s.csrRaw x) ∧ (s.str.commit = none → t.csr = s.csr ∧ t.raised = s.raised ∧ t.str = s.str) ∧
      t = { s with core := { s.core with regs := t.core.regs, flags := t.core.flags, pc := t.core.pc }, time := t.time, up := t.up, eras := t.eras,
                   csr := t.csr, raised := t.raised, str := { s.str with maps := t.str.maps, commit := t.str.commit, lastMap := t.str.lastMap },
                   flt := { s.flt with cnt := t.flt.cnt }, dbg := { s.dbg with uart := t.dbg.uart, uartPhase := t.dbg.uartPhase } }

/-- ldl and stl move 64-bit words of data SRAM. For an address wa + IMM18 (sign-extended) inside data SRAM and a multiple of 8: stl completes in 1 cycle, leaves the little-endian word equal to wd there, leaves every other byte of data SRAM, every byte of physical memory, every general register, FLAGS and every CSR (but in the STR window, where a map commit in progress may complete), and makes its word good; ldl of a word without an uncorrectable error completes in 2 cycles with that word in wd and changes no memory. -/
def Obligations.LocalLoadStore : Prop :=
  ∀ (s : State) (d a : Fin 16) (imm : BitVec 18), s.issues = true → s.eccAt 0 s.core.pc.toNat = false → s.MemWf →
    let x := (s.wreg a + sext18 imm).toNat
    x < 0x40000 → x % 8 = 0 →
    (∃ t, exec (.stl d a imm) s = .next t ∧ Memory.readN t.core.dmem x 8 = (s.wreg d).toNat ∧ t.eccAt 1 x = false ∧
      (∀ y, y < x ∨ x + 8 ≤ y → Memory.read t.core.dmem y = Memory.read s.core.dmem y) ∧ (∀ y, t.byte y = s.byte y) ∧
      t.core.regs = s.core.regs ∧ t.core.flags = s.core.flags ∧ t.core.pc = s.core.pc + 4 ∧ ∀ y, y / 0x10000 ≠ 7 → t.csrRaw y = s.csrRaw y) ∧
    (s.eccAt 1 x = false →
      exec (.ldl d a imm) s = .next ((s.retire d (BitVec.ofNat 64 (Memory.readN s.core.dmem x 8)) s.core.flags).cycles 2))

/-- ldl and stl outside data SRAM or misaligned trap, LOCALRANGE before MISALIGN; a bad word traps ECC. ldl and stl at an address of 0x4_0000 or above raise LOCALRANGE (4) with the address in TVAL, whether or not it is aligned; at an address inside that is no multiple of 8, MISALIGN (2); an ldl of a word with an uncorrectable error raises ECC (5). Nothing of the instruction itself happens. -/
def Obligations.LocalAddressTraps : Prop :=
  ∀ (s : State) (d a : Fin 16) (imm : BitVec 18), s.issues = true → s.eccAt 0 s.core.pc.toNat = false →
    let x := (s.wreg a + sext18 imm).toNat
    let trap (cause : Nat) : Outcome State Fault Refusal := .next { (s.trapRaise cause 0 x).cycles 6 with pending := s.pending }
    (0x40000 ≤ x → exec (.ldl d a imm) s = trap 4 ∧ exec (.stl d a imm) s = trap 4) ∧
    (x < 0x40000 → x % 8 ≠ 0 → exec (.ldl d a imm) s = trap 2 ∧ exec (.stl d a imm) s = trap 2) ∧
    (x < 0x40000 → x % 8 = 0 → s.eccAt 1 x = true → exec (.ldl d a imm) s = trap 5)

/-- ld, ldw, st and stw move words of physical memory. For an aligned address wa + IMM18 inside a memory of the map: a load of a good word completes with the word, zero-extended for ldw, its own outstanding stores included, and changes no memory, but of DRAM whose requests are held (R324, R327) the cores stall on it; a store to on-chip SRAM with fewer than 8 stores outstanding leaves the low 8 or 4 bytes of wd there, little-endian, and every other byte of memory, every general register and FLAGS unchanged; a store to DRAM completes with the store outstanding behind the earlier ones; with 8 stores outstanding the cores stall on the store. -/
def Obligations.PhysicalLoadStore : Prop :=
  ∀ (s : State) (d a : Fin 16) (imm : BitVec 18), s.issues = true → s.eccAt 0 s.core.pc.toNat = false → s.MemWf →
    let x := (s.wreg a + sext18 imm).toNat
    inMem x 1 = true →
    (s.memWaits x = true → (x % 8 = 0 → exec (.ld d a imm) s = .next ((s.setStall (.load d x 8)).cycles 0)) ∧
      (x % 4 = 0 → exec (.ldw d a imm) s = .next ((s.setStall (.load d x 4)).cycles 0))) ∧
    (x % 8 = 0 → s.memWaits x = false → s.loadBad x 8 = false → ∃ t, exec (.ld d a imm) s = .next t ∧ (d ≠ 0 → (t.wreg d).toNat = s.coreRead x 8 % 2 ^ 64) ∧
      (∀ r, r ≠ d → t.wreg r = s.wreg r) ∧ t.mem = s.mem ∧ t.core.flags = s.core.flags ∧ t.core.pc = s.core.pc + 4) ∧
    (x % 4 = 0 → s.memWaits x = false → s.loadBad x 4 = false → ∃ t, exec (.ldw d a imm) s = .next t ∧ (d ≠ 0 → (t.wreg d).toNat = s.coreRead x 4 % 2 ^ 64) ∧
      (∀ r, r ≠ d → t.wreg r = s.wreg r) ∧ t.mem = s.mem ∧ t.core.flags = s.core.flags ∧ t.core.pc = s.core.pc + 4) ∧
    (s.core.stores.length < 8 → inSram x 1 = true →
      (x % 8 = 0 → ∃ t, exec (.st d a imm) s = .next t ∧ Memory.readN t.mem x 8 = (s.wreg d).toNat ∧
        (∀ y, y < x ∨ x + 8 ≤ y → t.byte y = s.byte y) ∧ t.core.regs = s.core.regs ∧ t.core.flags = s.core.flags ∧ t.core.pc = s.core.pc + 4) ∧
      (x % 4 = 0 → ∃ t, exec (.stw d a imm) s = .next t ∧ Memory.readN t.mem x 4 = (s.wreg d).toNat % 2 ^ 32 ∧
        (∀ y, y < x ∨ x + 4 ≤ y → t.byte y = s.byte y) ∧ t.core.regs = s.core.regs ∧ t.core.flags = s.core.flags ∧ t.core.pc = s.core.pc + 4)) ∧
    (s.core.stores.length < 8 → inSram x 1 = false →
      (x % 8 = 0 → exec (.st d a imm) s = .next { ((s.putStore x 8 (s.wreg d).toNat).advance).cycles 1 with pending := s.pending }) ∧
      (x % 4 = 0 → exec (.stw d a imm) s = .next { ((s.putStore x 4 ((s.wreg d).toNat % 2 ^ 32)).advance).cycles 1 with pending := s.pending })) ∧
    (8 ≤ s.core.stores.length →
      (x % 8 = 0 → exec (.st d a imm) s = .next ((s.setStall (.store x 8 (s.wreg d).toNat)).cycles 0)) ∧
      (x % 4 = 0 → exec (.stw d a imm) s = .next ((s.setStall (.store x 4 ((s.wreg d).toNat % 2 ^ 32))).cycles 0)))

/-- Loads and stores outside the memories or misaligned trap, BUSERR before MISALIGN. ld, ldw, st and stw at an address in no memory of the map raise BUSERR (3) with the address in TVAL, whether or not it is aligned; at an address inside that is no multiple of the access size, MISALIGN (2). Nothing of the instruction itself happens. -/
def Obligations.PhysicalAddressTraps : Prop :=
  ∀ (s : State) (d a : Fin 16) (imm : BitVec 18), s.issues = true → s.eccAt 0 s.core.pc.toNat = false →
    let x := (s.wreg a + sext18 imm).toNat
    let trap (cause : Nat) : Outcome State Fault Refusal := .next { (s.trapRaise cause 0 x).cycles 6 with pending := s.pending }
    (inMem x 1 = false → exec (.ld d a imm) s = trap 3 ∧ exec (.ldw d a imm) s = trap 3 ∧ exec (.st d a imm) s = trap 3 ∧ exec (.stw d a imm) s = trap 3) ∧
    (inMem x 1 = true → x % 8 ≠ 0 → exec (.ld d a imm) s = trap 2 ∧ exec (.st d a imm) s = trap 2) ∧
    (inMem x 1 = true → x % 4 ≠ 0 → exec (.ldw d a imm) s = trap 2 ∧ exec (.stw d a imm) s = trap 2)

/-- Branches and jumps go to their target inside program SRAM, or on to the next instruction. While the cores issue without an instruction ECC error: a branch whose condition fails (beq, bne, blt, bge signed, bltu, bgeu unsigned, compared over integers) goes on by 4 in 1 cycle; a branch taken, j and jal go to PC + 4 times their signed offset in 2 cycles where that is a multiple of 4 in program SRAM, jal leaving PC + 4 in w15; jr goes to the address in wa, a multiple of 4 inside program SRAM, in 3 cycles. Nothing else changes but counters and time. -/
def Obligations.BranchesAndJumps : Prop :=
  ∀ (s : State) (a b : Fin 16) (off : BitVec 18) (o : BitVec 26), s.issues = true → s.eccAt 0 s.core.pc.toNat = false →
    let x := s.wreg a
    let y := s.wreg b
    let pc : Int := s.core.pc.toNat
    let inside (z : Int) : Prop := 0 ≤ z ∧ z < 0x40000 ∧ z % 4 = 0
    let goes (u : State) (z : Int) (n : Nat) : Outcome State Fault Refusal := .next ((u.retireTo (BitVec.ofInt 18 z)).cycles n)
    let arm (taken : Prop) (c : Instr) : Prop :=
      (¬taken → exec c s = .next (s.advance.cycles 1)) ∧ (taken → inside (pc + 4 * off.toInt) → exec c s = goes s (pc + 4 * off.toInt) 2)
    arm (x.toNat = y.toNat) (.beq a b off) ∧ arm (x.toNat ≠ y.toNat) (.bne a b off) ∧ arm (x.toInt < y.toInt) (.blt a b off) ∧
    arm (y.toInt ≤ x.toInt) (.bge a b off) ∧ arm (x.toNat < y.toNat) (.bltu a b off) ∧ arm (y.toNat ≤ x.toNat) (.bgeu a b off) ∧
    (inside (pc + 4 * o.toInt) → exec (.j o) s = goes s (pc + 4 * o.toInt) 2 ∧
      exec (.jal o) s = goes (s.setW 15 (BitVec.ofNat 64 (s.core.pc.toNat + 4))) (pc + 4 * o.toInt) 2) ∧
    (x.toNat < 0x40000 → x.toNat % 4 = 0 → exec (.jr a) s = goes s x.toNat 3)

/-- A target outside program SRAM, or a jr to no multiple of 4, raises TARGET. A taken branch (beq of a register with itself stands for it), j, jal and jr whose target lies outside program SRAM, and a jr whose target is no multiple of 4, raise TARGET (7) with the target in TVAL; jal then leaves w15 as it was. -/
def Obligations.JumpTargetTrap : Prop :=
  ∀ (s : State) (a : Fin 16) (off : BitVec 18) (o : BitVec 26), s.issues = true → s.eccAt 0 s.core.pc.toNat = false →
    let pc : Int := s.core.pc.toNat
    let outside (z : Int) : Prop := z < 0 ∨ 0x40000 ≤ z
    let trap (z : Int) : Outcome State Fault Refusal := .next { (s.trapRaise 7 0 (ofSigned 64 z)).cycles 6 with pending := s.pending }
    (outside (pc + 4 * off.toInt) → exec (.beq a a off) s = trap (pc + 4 * off.toInt)) ∧
    (outside (pc + 4 * o.toInt) → exec (.j o) s = trap (pc + 4 * o.toInt) ∧ exec (.jal o) s = trap (pc + 4 * o.toInt)) ∧
    (0x40000 ≤ (s.wreg a).toNat ∨ (s.wreg a).toNat % 4 ≠ 0 → exec (.jr a) s = trap (s.wreg a).toNat)

/-- Taking a trap saves PC, cause and value, sets INTRAP and goes to the vector. Outside a handler, with the register file canonical, trap with a 16-bit code raises SWTRAP: SEQ.EPC holds the address of the instruction (PC, a multiple of 4), SEQ.CAUSE the cause 6 and the code, SEQ.TVAL the code, SEQ.TSTAT.INTRAP is 1, PC is SEQ.TVEC, and every general register, FLAGS, data and physical memory, the module state and every other CSR (but in the STR window, where a map commit in progress may complete) are unchanged. -/
def Obligations.TrapEntrySaves : Prop :=
  ∀ (s : State) (code : BitVec 26), s.issues = true → s.eccAt 0 s.core.pc.toNat = false → spSorted s.csr = true →
    s.b SEQ_TSTAT 31 = false → code.toNat < 65536 →
    ∃ t, exec (.trap code) s = .next t ∧ (t.csrRaw SEQ_EPC).toNat = s.core.pc.toNat / 4 * 4 ∧
      (t.csrRaw SEQ_CAUSE).toNat = code.toNat * 65536 + 6 ∧ t.pair SEQ_TVAL_LO = code.toNat ∧ t.b SEQ_TSTAT 31 = true ∧
      t.core.pc = BitVec.ofNat 18 (s.f SEQ_TVEC 17 2 * 4) ∧ t.core.regs = s.core.regs ∧ t.core.flags = s.core.flags ∧
      t.core.dmem = s.core.dmem ∧ (∀ y, t.byte y = s.byte y) ∧ t.mode = s.mode ∧
      (∀ y, y ∉ [SEQ_EPC, SEQ_CAUSE, SEQ_TVAL_LO, SEQ_TVAL_HI, SEQ_TSTAT] → y / 0x10000 ≠ 7 → t.csrRaw y = s.csrRaw y)

/-- A trap inside a handler sets DOUBLE and puts the module in HOLD with cause 2; the cores issue no more. In IDLE, ARMED, RUN or MOULT, with INTRAP 1, a trap sets SEQ.TSTAT.DOUBLE and enters HOLD with HOLDCAUSE 2 (State.enterHold 2), leaving SEQ.EPC and SEQ.CAUSE out of it; the module state is then HOLD, no START or END of an acquisition waits, and the cores issue no more. -/
def Obligations.TrapInHandlerHolds : Prop :=
  ∀ (s : State) (code : BitVec 26), s.issues = true → s.eccAt 0 s.core.pc.toNat = false →
    s.mode.live = true → s.b SEQ_TSTAT 31 = true → code.toNat < 65536 →
    ∃ t, exec (.trap code) s = .next t ∧
      t = { ((((s.setStall .none).setB SEQ_TSTAT 30 true).enterHold 2)).cycles 6 with pending := s.pending } ∧
      t.mode = .hold ∧ t.gate.start = none ∧ t.gate.fin = none ∧ t.issues = false

/-- eret returns to SEQ.EPC and clears INTRAP; outside a handler it is ILLEGAL. In a handler eret completes in 3 cycles: PC is SEQ.EPC, INTRAP is 0 (the register file being canonical), and every general register, FLAGS, every other bit of SEQ.TSTAT, every other CSR (but in the STR window, where a map commit in progress may complete) and all memory stay. Outside a handler it raises ILLEGAL. -/
def Obligations.EretReturns : Prop :=
  ∀ (s : State) (d a b : Fin 16), s.issues = true → s.eccAt 0 s.core.pc.toNat = false → spSorted s.csr = true →
    (s.b SEQ_TSTAT 31 = true → ∃ t, exec (.eret d a b) s = .next t ∧ t.core.pc = BitVec.ofNat 18 (s.f SEQ_EPC 17 2 * 4) ∧
      t.b SEQ_TSTAT 31 = false ∧ (∀ i, i ≠ 31 → t.b SEQ_TSTAT i = s.b SEQ_TSTAT i) ∧ (∀ y, y ≠ SEQ_TSTAT → y / 0x10000 ≠ 7 → t.csrRaw y = s.csrRaw y) ∧
      t.core.regs = s.core.regs ∧ t.core.flags = s.core.flags ∧ t.core.dmem = s.core.dmem ∧ t.mem = s.mem ∧ t.mode = s.mode) ∧
    (s.b SEQ_TSTAT 31 = false →
      exec (.eret d a b) s = .next { (s.trapRaise 1 0 (wordA 0x39 d a b 0)).cycles 6 with pending := s.pending })

/-- A word with no assigned encoding, and operands out of the encoding, raise ILLEGAL with the word in TVAL. ILLEGAL (1), with the instruction word in TVAL, is raised by a word with an unassigned OP or FN or a 1 in a zero bit; by shli, shri and srai with an immediate of 64 or more; by mfs with a selector above 4 and mts with one other than 2; by at with FN above 15; by post, post.r, take and vjob with a queue above 127; and by trap with a 1 in code bits [25:16]. -/
def Obligations.IllegalInstructions : Prop :=
  ∀ (s : State) (w : Word) (d a b : Fin 16) (imm : BitVec 18) (k : BitVec 6) (code : BitVec 26),
    s.issues = true → s.eccAt 0 s.core.pc.toNat = false →
    let ill (n : Nat) : Outcome State Fault Refusal := .next { (s.trapRaise 1 0 n).cycles 6 with pending := s.pending }
    (legalWord w.toNat = false → exec (.illegalInstruction w) s = ill w.toNat) ∧
    (64 ≤ imm.toNat → exec (.shli d a imm) s = ill (wordI 0x05 d a imm) ∧ exec (.shri d a imm) s = ill (wordI 0x06 d a imm) ∧
      exec (.srai d a imm) s = ill (wordI 0x07 d a imm)) ∧
    (4 < imm.toNat → exec (.mfs d a imm) s = ill (wordI 0x14 d a imm)) ∧ (imm.toNat ≠ 2 → exec (.mts d a imm) s = ill (wordI 0x15 d a imm)) ∧
    (16 ≤ k.toNat → exec (.timedAt d a b k) s = ill (wordA 0x26 d a b k.toNat)) ∧
    (128 ≤ imm.toNat → exec (.post d a imm) s = ill (wordI 0x2C d a imm) ∧ exec (.postR d a imm) s = ill (wordI 0x2D d a imm) ∧
      exec (.take d a imm) s = ill (wordI 0x2E d a imm) ∧ exec (.vjob d a imm) s = ill (wordI 0x30 d a imm)) ∧
    (65536 ≤ code.toNat → exec (.trap code) s = ill (0x38 * 2 ^ 26 + code.toNat))

/-- wait, waitc, idle, the fences and a stalled post complete when what they wait for has happened, and stall until then. While the cores issue without an instruction ECC error: wait for a stamp that is reached takes 1 cycle and goes on, else the cores stall on it; waitc takes 1 + IMM18 cycles; fence.csr, fence.mem, fence.q and fence.all with nothing outstanding take 1 cycle and go on, else the cores stall; idle of a queue or stamp that is ready completes with 0 or 1 in wd in 2 cycles, else the cores stall; an idle met in the replay journal returns its recorded value at once. In an awake module, once its time has passed and the cores still run: WAIT_RESUME ends a wait whose stamp is reached and FENCE_RESUME a fence that is met, going on to the next instruction; IDLE_WAKE ends an idle that is ready with its value. POST_STALL_END of an enabled queue, while requests to a ring in DRAM are not held: the producer that has waited longest publishes its entry where the queue has room, drops it where its stall limit has passed, and else stays; a post of the cores completes so with OK or E_BUSY. -/
def Obligations.WaitsAndFences : Prop :=
  ∀ (s : State) (d a : Fin 16) (imm : BitVec 18) (dt k : Nat) (q : Fin 128),
    (s.issues = true → s.eccAt 0 s.core.pc.toNat = false →
      (stampReached s.tnow (s.wreg a).toNat = true → exec (.wait a) s = .next (s.advance.cycles 1)) ∧
      (stampReached s.tnow (s.wreg a).toNat = false → exec (.wait a) s = .next ((s.setStall (.wait (s.wreg a).toNat)).cycles 1)) ∧
      exec (.waitc imm) s = .next (s.advance.cycles (1 + imm.toNat)) ∧
      (s.core.csrOut = [] → exec .fenceCsr s = .next (s.advance.cycles 1)) ∧ (s.core.csrOut ≠ [] → exec .fenceCsr s = .next ((s.setStall (.fence 0)).cycles 1)) ∧
      (s.core.stores = [] → exec .fenceMem s = .next (s.advance.cycles 1)) ∧ (s.core.stores ≠ [] → exec .fenceMem s = .next ((s.setStall (.fence 1)).cycles 1)) ∧
      exec .fenceQ s = .next (s.advance.cycles 1) ∧
      (s.core.csrOut = [] ∧ s.core.stores = [] → exec .fenceAll s = .next (s.advance.cycles 1)) ∧
      (s.core.csrOut ≠ [] ∨ s.core.stores ≠ [] → exec .fenceAll s = .next ((s.setStall (.fence 3)).cycles 1)) ∧
      (let stamp := if a = 0 then none else some (s.wreg a).toNat;
        (s.core.replay = [] → s.mode ≠ .cocoon →
          (∀ v, s.idleEnd stamp = some v → exec (.idle d a) s = .next { (s.idleDone d v).cycles 2 with pending := s.pending }) ∧
          (s.idleEnd stamp = none → exec (.idle d a) s = .next ((s.setStall (.idle d stamp)).cycles 2))) ∧
        (∀ v rest, s.core.replay = .idle v :: rest → exec (.idle d a) s =
          .next ((({ s with core := { s.core with replay := rest } } : State).retire d (BitVec.ofNat 64 v) s.core.flags).cycles 2)))) ∧
    (s.awake = true →
      let u := s.elapse dt
      let goOn : State := (u.setStall .none).advance
      (u.coreRuns = true → s.core.stall = .wait k → stampReached u.tnow k = true → exec (.waitResume dt) s = .next goOn) ∧
      (u.coreRuns = true → s.core.stall = .fence k → s.fenceMet k = true → exec (.fenceResume dt) s = .next goOn) ∧
      (∀ v stamp, s.mode.live = true → s.flt.recovery = none → s.core.stall = .idle d stamp → u.idleEnd stamp = some v →
        exec (.idleWake dt) s = .next { (u.setStall .none).idleDone d v with pending := s.pending }) ∧
      (s.qEn q = true → s.qHeld q = false →
        let give (t : State) : Outcome State Fault Refusal := .next { t with pending := s.pending }
        let at' (full late : Prop) (got gone : State) : Prop :=
          (¬full → exec (.postStallEnd dt q) s = give got) ∧ (full → late → exec (.postStallEnd dt q) s = give gone) ∧
          (full → ¬late → exec (.postStallEnd dt q) s = .next u)
        (∀ r, u.oldestStalled q = some r →
          let u1 : State := { u with que := { u.que with stalled := u.que.stalled.erase r } }
          at' (u.qFull q = true) (u.stallOver q r.since = true) ((((u1.emitRec r).evbMerge).trgSettle).lateSeen r) ((u1.dropRec r).trgSettle)) ∧
        (∀ e since kind, u.oldestStalled q = none → s.core.stall = .post d q e since kind →
          at' (u.qFull q = true) (u.stallOver q since = true) ((u.setStall .none).postOk kind d q e)
            (((u.setStall .none).inc (QUE_DROP q)).postDone kind d q e 3))))

/-- csrr and csrw: at once in the CORE island, with the acknowledgement of another island elsewhere; CSRTIMEOUT after 10 us. While the cores issue without an instruction ECC error, at x = wa + IMM18 (zero-extended): an address past the windows raises BUSERR (3). With no journal to replay, or of a register whose read has no side effect, csrr of a CORE register completes in 2 cycles and of another island stalls the cores; the acknowledgement of that island, once its earlier writes are acknowledged, completes it. csrw stalls the cores while 16 writes are unacknowledged; else one of a CORE register is written as lease holder and completes in 1 cycle, and one to another island is posted behind the earlier ones and the core goes on. The island acknowledges its oldest write, which then takes effect. An access that has waited 10 us, the oldest first, is given up and raises CSRTIMEOUT (8) with its address. -/
def Obligations.CsrAccessOfTheCores : Prop :=
  ∀ (s : State) (d a : Fin 16) (imm : BitVec 18) (dt : Nat) (i : Fin 12),
    let x := (s.wreg a + zext18 imm).toNat
    let v := BitVec.ofNat 32 (s.wreg d).toNat
    let u := s.elapse dt
    (s.issues = true → s.eccAt 0 s.core.pc.toNat = false →
      (csrEnd ≤ x → exec (.csrr d a imm) s = .next { (s.trapRaise 3 0 x).cycles 6 with pending := s.pending } ∧
        exec (.csrw d a imm) s = .next { (s.trapRaise 3 0 x).cycles 6 with pending := s.pending }) ∧
      (x < csrEnd →
        (isResult x = false ∨ s.core.replay = [] →
          (winIsland x = 1 → exec (.csrr d a imm) s = .next { (s.csrrDone d x).cycles 2 with pending := s.pending }) ∧
          (winIsland x ≠ 1 →
            exec (.csrr d a imm) s = .next (({ s with core := { s.core with stall := .csrr d x, csrSince := s.up } } : State).cycles 2))) ∧
        (∀ n rest, isResult x = true → s.core.replay = .csrr x n :: rest → exec (.csrr d a imm) s =
          .next ((({ s with core := { s.core with replay := rest } } : State).retire d (BitVec.ofNat 64 n) s.core.flags).cycles 2)) ∧
        (16 ≤ s.core.csrOut.length →
          exec (.csrw d a imm) s = .next (({ s with core := { s.core with stall := .csrw x v, csrSince := s.up } } : State).cycles 0)) ∧
        (s.core.csrOut.length < 16 →
          (winIsland x = 1 → exec (.csrw d a imm) s = .next { (s.advance.writeCsr 0 true x v).cycles 1 with pending := s.pending }) ∧
          (winIsland x ≠ 1 → exec (.csrw d a imm) s =
            .next (({ s.advance with core := { s.advance.core with csrOut := s.core.csrOut ++ [(x, v, s.up)] } } : State).cycles 1))))) ∧
    (s.awake = true →
      (∀ y, s.core.csrOut.find? (fun z => winIsland z.1 == i.val) = some y →
        exec (.csrAcknowledge dt i) s =
          .next { (({ u with core := { u.core with csrOut := s.core.csrOut.erase y } } : State).writeCsr 0 true y.1 y.2.1).coreSettle with pending := s.pending }) ∧
      (∀ y, s.core.stall = .csrr d y → winIsland y = i.val → (∀ z ∈ s.core.csrOut, winIsland z.1 ≠ i.val) →
        exec (.csrAcknowledge dt i) s = .next { (u.setStall .none).csrrDone d y with pending := s.pending }) ∧
      (u.coreRuns = true → s.b SEQ_TSTAT 30 = false →
        (∀ y, s.core.stall = .csrr d y → s.core.csrOut = [] → s.core.csrSince + 10 * us ≤ s.up + dt →
          exec (.csrtimeout dt) s = .next { (u.trapRaise 8 0 y).cycles 6 with pending := s.pending }) ∧
        (∀ y rest, s.core.csrOut = y :: rest → y.2.2 + 10 * us ≤ s.up + dt →
          exec (.csrtimeout dt) s =
            .next { (({ u with core := { u.core with csrOut := rest } } : State).trapRaise 8 0 y.1).cycles 6 with pending := s.pending })))

/-- post, post.r, vjob and take by the state of their queue. While the cores issue without an instruction ECC error, with no journal to replay, a queue number under 128 and a local address inside data SRAM that is a multiple of 32: post, post.r (its fence met) and vjob (Q116 or Q117) of an entry without an uncorrectable word, to a queue the sequencer produces for, answer E_STATE while it is disabled, E_RANGE for a reserved ADDR, stall while the ring lies in DRAM whose requests are held, and otherwise publish and answer OK where there is room and no earlier producer waits; else they answer E_BUSY and count the drop at FULLPOL 1, and stall otherwise. take of a queue the sequencer consumes answers E_STATE while it is disabled and E_BUSY while it holds no published entry; else the oldest entry leaves it and its four words go to local memory (on Q125 the gate acts in it); it stalls while the ring lies in DRAM whose requests are held. Another queue class, or a take of a queue that an enabled tap consumes (the model's reading, log entry 183), raises QCLASS (9) with the queue number, and an entry with an uncorrectable word ECC (5) with that word. That of Q116 to Q119 the first two are the jobs and the last two the results is the model's choice (log entry 51). -/
def Obligations.QueueInstructions : Prop :=
  ∀ (s : State) (d a : Fin 16) (imm : BitVec 18), s.issues = true → s.eccAt 0 s.core.pc.toNat = false → s.core.replay = [] →
    let n := imm.toNat
    let x := (s.wreg a).toNat
    let e := s.localEntry x
    let give (u : State) (k : Nat) : Outcome State Fault Refusal := .next { u.cycles k with pending := s.pending }
    let posts (c : Instr) (kind k : Nat) : Prop :=
      (∀ y, s.entryEcc x = some y → exec c s = give (s.trapRaise y.1 0 y.2) 6) ∧
      (s.entryEcc x = none →
      (s.qEn n = false → exec c s = give (s.postDone kind d n e 1) k) ∧
      (s.qEn n = true → reservedAddr e.addr e.length = true → exec c s = give (s.postDone kind d n e 2) k) ∧
      (s.qEn n = true → reservedAddr e.addr e.length = false → s.qHeld n = true → exec c s = give (s.setStall (.post d n e s.up kind)) k) ∧
      (s.qEn n = true → reservedAddr e.addr e.length = false → s.qHeld n = false →
        let wait : Prop := s.qFull n = true ∨ ∃ y ∈ s.que.stalled, y.q = n
        (¬wait → exec c s = give (s.postOk kind d n e) k) ∧
        (wait → s.qPol n = 1 → exec c s = give ((s.inc (QUE_DROP n)).postDone kind d n e 3) k) ∧
        (wait → s.qPol n ≠ 1 → exec c s = give (s.setStall (.post d n e s.up kind)) k)))
    n < 128 → x < 0x40000 → x % 32 = 0 →
    (seqProduces n = true → posts (.post d a imm) 0 4 ∧ (s.fenceMet 3 = true → posts (.postR d a imm) 0 5) ∧
      (s.fenceMet 3 = false → s.entryEcc x = none → exec (.postR d a imm) s = give (s.setStall (.postr d x n)) 1)) ∧
    (n = 116 ∨ n = 117 → posts (.vjob d a imm) 1 6) ∧
    (seqProduces n = false → exec (.post d a imm) s = give (s.trapRaise 9 0 n) 6 ∧ exec (.postR d a imm) s = give (s.trapRaise 9 0 n) 6) ∧
    (seqConsumes n = false ∨ s.tapped n = true → exec (.take d a imm) s = give (s.trapRaise 9 0 n) 6) ∧
    (seqConsumes n = true → s.tapped n = false →
      let r := s.accessCycles (s.qBase n) 6
      (s.qEn n = false → exec (.take d a imm) s = give (r.2.takeDone d n x none 1) 6) ∧
      (s.qEn n = true → s.qHeld n = true → exec (.take d a imm) s = give (s.setStall (.take d n x)) 0) ∧
      (s.qEn n = true → s.qHeld n = false → n ≠ 125 → s.qReady n = false → exec (.take d a imm) s = give (r.2.takeDone d n x none 3) r.1) ∧
      (s.qReady n = true → n ≠ 125 → exec (.take d a imm) s =
        give ((Machine.cond (decide (n < 64)) State.evbSync (r.2.dequeue n)).takeDone d n x (some (s.qEntry n (s.qHead n))) 0) r.1) ∧
      (s.qEn n = true → s.qHeld n = false → n = 125 → exec (.take d a imm) s =
        give (r.2.gateTake.1.takeDone d n x r.2.gateTake.2 (if r.2.gateTake.2.isSome then 0 else 3)) r.1))

/-- A posted entry stands in the ring with DONE, QSEQ and STAMP, TAIL has advanced, and no byte outside the slots it and those behind it take has changed. From a safe state, where post to a queue other than Q126 publishes (enabled, room, no earlier producer waiting, ADDR not reserved, no uncorrectable word, no journal to replay, and room in the journal): afterwards the ring slot of its count holds the local entry with that count as QSEQ and STAMP the fabric time as the follower of MEM shows it (R16), its DONE reads 1, QUE.TAIL is one more modulo 2^32, and wd (not w0) is 0. The count is the old TAIL, less the entries that producers behind the cores published into the queue in the same MEM cycle, which move on by one (R29); every byte outside the slots from that count to the old TAIL is unchanged. -/
def Obligations.PostedEntryAppears : Prop :=
  ∀ (s : State) (d a : Fin 16) (imm : BitVec 18), s.Safe → s.issues = true → s.eccAt 0 s.core.pc.toNat = false → s.core.replay = [] →
    s.core.journal.length < 64 →
    let n := imm.toNat
    let x := (s.wreg a).toNat
    let k := s.behind n 1
    n < 128 → n ≠ 126 → x < 0x40000 → x % 32 = 0 → seqProduces n = true → s.qEn n = true → s.qHeld n = false → s.qFull n = false →
    (∀ y ∈ s.que.stalled, y.q ≠ n) → s.entryEcc x = none → reservedAddr (s.localEntry x).addr (s.localEntry x).length = false →
    ∃ t, exec (.post d a imm) s = .next t ∧
      t.qEntry n (countBack (s.qTail n) k) = { s.localEntry x with qseq := countBack (s.qTail n) k, stamp := s.stampAt 8 } ∧
      (t.word64 (t.qSlot n (countBack (s.qTail n) k))).testBit 63 = true ∧ t.qTail n = (s.qTail n + 1) % 2 ^ 32 ∧
      (∀ y, (∀ i, i ≤ k → y < s.qSlot n (countBack (s.qTail n) i) ∨ s.qSlot n (countBack (s.qTail n) i) + 32 ≤ y) → t.byte y = s.byte y) ∧
      (d ≠ 0 → t.wreg d = 0)

/-- at schedules, replaces, cancels or refuses; a due action writes its register; lnch, frm.start, frm.stop and ckpt complete. While the cores issue without an instruction ECC error: at with FN under 16 cancels action k where A names w0, answers E_RANGE with FLAGS.T for a stamp under 100 ns ahead (a pending action stays), else replaces action k and answers OK, all after the posted writes to the TIME island. lnch, frm.start and frm.stop answer the status of the launch unit, with FLAGS.T where it says so. ckpt records the checkpoint and empties the journal; in a moult that has loaded it hands over instead, and in one that has handed over it ends the moult. A timed action due at a tick is dropped and its value written as lease holder to SEQ.TACT[k], or ERR is set where that names no CSR window. -/
def Obligations.TimedActionsAndLaunches : Prop :=
  ∀ (s : State) (d a b : Fin 16) (k : BitVec 6) (dt : Nat) (j : Fin 16),
    let give (u : State) (n : Nat) : Outcome State Fault Refusal := .next { u.cycles n with pending := s.pending }
    (s.issues = true → s.eccAt 0 s.core.pc.toNat = false →
      (k.toNat < 16 →
        let u := s.csrFlushTo 10
        (a = 0 → exec (.timedAt d a b k) s = give ((u.tactDrop k.toNat).retireStatus d 0) 2) ∧
        (a ≠ 0 → stampDelta s.tnow (s.wreg a).toNat < 100000 → exec (.timedAt d a b k) s = give ((u.sticky 4).retireStatus d 2) 2) ∧
        (a ≠ 0 → 100000 ≤ stampDelta s.tnow (s.wreg a).toNat →
          exec (.timedAt d a b k) s =
            give (({ u with core := { u.core with tacts := u.core.tacts.filter (fun y => y.k != k.toNat) ++
              [{ k := k.toNat, stamp := (s.wreg a).toNat, value := BitVec.ofNat 32 (s.wreg b).toNat }] } } : State).retireStatus d 0) 2)) ∧
      (∀ r, r = (s.csrFlushTo 2).lnch ((s.wreg a).toNat % 16) (s.wreg b).toNat →
        exec (.lnch d a b) s = give ((Machine.cond r.2.1 (·.sticky 4) r.2.2).retireStatus d r.1) 2) ∧
      (∀ r, r = (s.csrFlushTo 2).frmStart (s.wreg a).toNat (s.wreg b).toNat →
        exec (.frmStart d a b) s = give ((Machine.cond r.2.1 (·.sticky 4) r.2.2).retireStatus d r.1) 2) ∧
      exec (.frmStop d a) s = give (((s.csrFlushTo 2).frmStop (if a = 0 then none else some (s.wreg a).toNat)).retireStatus d 0) 2 ∧
      (s.sec.moult = none → exec .ckpt s = give s.takeCkpt.coreBack 20) ∧
      (∀ m l, s.sec.moult = some (.loaded m l) → exec .ckpt s = give (s.handover m) 20) ∧
      (∀ m, s.sec.moult = some (.handed m) → exec .ckpt s = give s.takeCkpt.coreBack.moultEnd 20)) ∧
    (∀ y, s.awake = true → s.core.tacts.find? (fun z => z.k == j.val) = some y →
      stampReached ((s.time + dt) / (if s.b CLK_STAT 30 then tick else 8 * tick) * (if s.b CLK_STAT 30 then tick else 8 * tick)) y.stamp = true →
      exec (.timedAction dt j) s = .next { (
        let u := (s.elapse dt).tactDrop j.val
        if s.f (SEQ_TACT j.val) 20 0 < csrEnd then u.writeCsr 0 true (s.f (SEQ_TACT j.val) 20 0) y.value
        else u.setB SEQ_TACTSTAT (16 + j.val) true) with pending := s.pending })

/-- A register write changes exactly the bits its access codes allow. In a state whose register file is canonical, a field-by-field write of a mapped register changes each bit as the access codes say: RW bits, RWS bits while the unit is stopped and RWL bits for the lease holder take the written bit; W1C bits clear where 1 is written, but for one that the hardware has set in the same cycle of its island (R11); every other bit (RO and reserved bits among them) keeps its value. Every other register keeps its value, and so do memory, the queues of the block and its mode. -/
def Obligations.WritesFollowTheAccessCodes : Prop :=
  ∀ (s : State) (a : Nat) (v : Word) (lease : Bool) (r : Reg), spSorted s.csr = true → regAt a = some r →
    let may (i : Nat) : Bool := r.rw.testBit i || (r.rws.testBit i && s.unitStopped a) || (r.rwl.testBit i && lease)
    (∀ i, i < 32 → bit ((s.writeReg a v lease).csrRaw a) i =
      if may i then bit v i else if r.w1c.testBit i && bit v i && !bit (s.raisedNow a) i then false else bit (s.csrRaw a) i) ∧
    (∀ y, y ≠ a → (s.writeReg a v lease).csrRaw y = s.csrRaw y) ∧ (s.writeReg a v lease).mem = s.mem ∧
    (s.writeReg a v lease).que = s.que ∧ (s.writeReg a v lease).mode = s.mode

/-- An unassigned CSR offset reads 0 and ignores writes. For an offset in no register of the map: a CSR_WRITE by either writer completes with the state as it was, and a read answers 0 and does nothing. -/
def Obligations.UnassignedOffsets : Prop :=
  ∀ (s : State) (who : Fin 2) (a : Nat) (v : Word), regAt a = none →
    exec (.csrWrite who a v) s = .next s ∧ s.readCsr who.val a = (0, s)

/-- The four register-access commands reach the register of their address, each writer and reader with its own latch. An access of the cores (0) reaches every register while the main islands are awake; one of the service SPI port (1) while the module is out of reset, in COCOON only the PWR window. Where it reaches a register: CSR_WRITE is the write of R10 to R12, by the cores as lease holder; PAIR_HI_WRITE the same where the address is the HI half of a pair; RESULT_REGISTER_READ and PAIR_LO_READ read and leave the value in the reader's latch; PAIR_HI_WRITE of an address that is no HI half, RESULT_REGISTER_READ of one that is no result register and PAIR_LO_READ of one that is no LO half complete and change nothing. In a clocked window PAIR_LO_READ of a LO half (none of the map is a result register, its companion, FULLSEC or the generator) completes with LO and HI in the latch of its reader and changes nothing else; PAIR_HI_WRITE of the HI half of a pair that is written plainly completes with the held LO value of its writer written together with HI, as the access codes allow. Where the access reaches no register nothing happens, but that in COCOON the service SPI port reads 0 (R454). Constructors: csrWrite, pairHiWrite, resultRegisterRead, pairLoRead. -/
def Obligations.RegisterAccessRows : Prop :=
  ∀ (s : State) (who : Fin 2) (a : Nat) (v : Word),
    let reach : Bool := if who = 0 then s.awake else !s.pwr.held && (s.mode != .cocoon || a / 0x10000 == 0x14)
    let give (u : State) : Outcome State Fault Refusal := .next { u with pending := s.pending }
    let kept : State := (s.readCsr who a).2.putLatch who a (s.readCsr who a).1
    (reach = true →
      exec (.csrWrite who a v) s = give (s.writeCsr who (who.val == 0) a v) ∧
      (isHalf .hi a = true → exec (.pairHiWrite who a v) s = give (s.writeCsr who (who.val == 0) a v)) ∧
      (isResult a = true → exec (.resultRegisterRead who a) s = give kept) ∧ (isHalf .lo a = true → exec (.pairLoRead who a) s = give kept)) ∧
    (isHalf .hi a = false → exec (.pairHiWrite who a v) s = .next s) ∧
    (reach = true → isResult a = false → exec (.resultRegisterRead who a) s = .next s) ∧
    (reach = true → isHalf .lo a = false → exec (.pairLoRead who a) s = .next s) ∧
    (reach = true → s.gatedWin a = false → isHalf .lo a = true → isResult a = false → isCompanion a = false → a ∉ [TIM_FULLSEC, SEC_RNG] →
      ∃ t, exec (.pairLoRead who a) s = .next t ∧ t = { s with latch := t.latch } ∧ t.latched who a = s.csrView a ∧ t.latched who (a + 4) = s.csrView (a + 4)) ∧
    (reach = true → s.gatedWin a = false → isHalf .hi a = true → a ∉ [PWR_WAKEAT_HI, CNT_SNAPAT_HI, SEQ_GATEBUF_HI, FEL_LINKEN_HI] →
      a / 0x10000 ∉ [0x0A, 0x16] → a / 0x100 ≠ 0xF01 →
      exec (.pairHiWrite who a v) s = give ((match pairGet s.heldLo (who.val, a - 4) with
        | some lo => (s.writeReg (a - 4) lo (who.val == 0)).dropLo who (a - 4) | none => s).writeReg a v (who.val == 0))) ∧
    (reach = false → exec (.csrWrite who a v) s = .next s ∧ exec (.pairHiWrite who a v) s = .next s ∧
      (who = 0 ∨ s.pwr.held = true → exec (.resultRegisterRead who a) s = .next s ∧ exec (.pairLoRead who a) s = .next s) ∧
      (who = 1 → s.pwr.held = false →
        exec (.resultRegisterRead who a) s = give (s.putLatch 1 a 0) ∧ exec (.pairLoRead who a) s = give (s.putLatch 1 a 0)))

/-- A write of a LO half is held for its writer and changes no register. A CSR_WRITE that reaches the LO half of a pair (its window not stopped) leaves every register, latch, memory byte and the other writer's held value as they were; the second of two such writes is the one held. -/
def Obligations.LoWriteIsHeld : Prop :=
  ∀ (s : State) (who : Fin 2) (a : Nat) (v : Word), s.reaches who a = true → s.gatedWin a = false → isHalf .lo a = true →
    ∃ t, exec (.csrWrite who a v) s = .next t ∧ t = { s with heldLo := t.heldLo } ∧ t.loFor who.val a = v ∧
      ∀ k, k ≠ (who.val, a) → pairGet t.heldLo k = pairGet s.heldLo k

/-- Reading a result register latches its companion for the reader and clears NEW, nothing else; in the cycle of a new result it reads the previous one. In a state whose register file is canonical, a RESULT_REGISTER_READ that reaches a result register of a clocked window other than FEL.SCRES and PWR.MBOXRSP: where no result has completed in the present cycle of its island, it leaves its value in the reader's latch and its companion at the next offset latched with it, clears NEW, keeps SEQ and value, and changes no other register; where one has, it leaves the previous result and companion, which count as read, and the new one keeps NEW and carries no OVR. No memory and no latch of another address or reader changes. -/
def Obligations.ResultReadClearsNew : Prop :=
  ∀ (s : State) (who : Fin 2) (a : Nat), spSorted s.csr = true → s.reaches who a = true → s.gatedWin a = false → isResult a = true →
    a ≠ FEL_SCRES → a ≠ PWR_MBOXRSP →
    ∃ t, exec (.resultRegisterRead who a) s = .next t ∧ t.mem = s.mem ∧
      (∀ k, k ≠ (who.val, a) → k ≠ (who.val, a + 4) → pairGet t.latch k = pairGet s.latch k) ∧
      (s.resultNow a = none → t.latched who a = s.csrRaw a ∧ t.latched who (a + 4) = s.csrRaw (a + 4) ∧
        (∀ i, i < 32 → bit (t.csrRaw a) i = (decide (i ≠ 31) && bit (s.csrRaw a) i)) ∧ ∀ y, y ≠ a → t.csrRaw y = s.csrRaw y) ∧
      (∀ x, s.resultNow a = some x → t.latched who a = x.value ∧ t.latched who (a + 4) = nth x.after 0 0 ∧ t.csrRaw a = s.csrRaw a ∧
        (∀ i, x.ovr = some i → i < 32 → t.b (a + 4) i = false) ∧ ∀ y, y ≠ a + 4 → t.csrRaw y = s.csrRaw y)

/-- Setting EN restarts HEAD and TAIL at 0; a bad configuration leaves EN 0 and sets CFGERR. In a safe, awake state, writing QUE.CFG[n] of a disabled queue with EN 1: where DEPTH is 1 to 16, the base 32-byte aligned and the ring wholly in one memory, EN is 1 and HEAD and TAIL are 0; otherwise EN stays 0 and QUE.STAT[n].CFGERR is set. DEPTH takes the value written in both cases. Physical memory is unchanged. -/
def Obligations.QueueEnable : Prop :=
  ∀ (s : State) (n : Fin 128) (v : Word), s.Safe → s.awake = true → s.qEn n = false → bit v 31 = true →
    let ok : Prop := 1 ≤ fld v 4 0 ∧ fld v 4 0 ≤ 16 ∧ s.qBase n % 32 = 0 ∧ inMem (s.qBase n) (32 * 2 ^ fld v 4 0) = true
    ∃ t, exec (.queEnable n v) s = .next t ∧ t.mem = s.mem ∧ t.f (QUE_CFG n) 4 0 = fld v 4 0 ∧
      (ok → t.qEn n = true ∧ t.qHead n = 0 ∧ t.qTail n = 0) ∧ (¬ok → t.qEn n = false ∧ t.b (QUE_STAT n) 31 = true)

/-- A write of QUE.HEAD beyond TAIL or backwards has no effect but HEADERR. In an awake state with a canonical register file, writing QUE.HEAD[n] with a value more than the fill level ahead of it, modulo 2^32, sets QUE.STAT[n].HEADERR and leaves HEAD, every other register and memory as they were. -/
def Obligations.QueueHeadRefused : Prop :=
  ∀ (s : State) (n : Fin 128) (v : Word), spSorted s.csr = true → s.awake = true → s.qFill n < (v.toNat + 2 ^ 32 - s.qHead n) % 2 ^ 32 →
    ∃ t, exec (.queHeadWrite n v) s = .next t ∧ t.b (QUE_STAT n) 30 = true ∧ t.qHead n = s.qHead n ∧
      (∀ y, y ≠ QUE_STAT n → t.csrRaw y = s.csrRaw y) ∧ t.mem = s.mem

/-- A legal, authorised host command is counted, handed to the program and served by it. While the module is not held in reset and not in COCOON, no full holding buffer blocks the gate, Q125 is enabled, and the judgement of R58 (code, state, authorisation) finds nothing against the command: after the time passes, SEQ.CMDCNT and its source count, the gate holds the command as outstanding, and the program serves it by the command's rule. PING, STATUS and RESET are answered by the gate itself, and need no Q125. Constructors: ping, status, reset, loglevel, cntsnap, arm, disarm, stop, selprof, saveprof, setcfg, getcfg, loadimg, moult, abandon, setboot, cocoon, csrread, csrwrite, hkcal, hkselfcal, fibrecal, tdccal, dramtrain, dramrate, rolereq, rolerel, lcset, keyrepl, dbgunlock, fabkey. -/
def Obligations.HostCommandsServed : Prop :=
  ∀ (s : State) (dt tag : Nat), s.pwr.held = false → s.mode ≠ .cocoon → s.gateBlocked = false →
    let u : State := (s.elapse dt).cmdCount
    let served (c : Instr) (code : Nat) (args : List Nat) (serve : State → State) : Prop :=
      s.qEn 125 = true → s.cmdJudge code tag = 0 → exec c s = .next { serve (u.gateHand { tag := tag, code := code, args := args }) with pending := s.pending }
    (s.cmdJudge 0x01 tag = 0 → exec (.ping dt tag) s = .next { u.gateAnswer tag 0 with pending := s.pending }) ∧
    (s.cmdJudge 0x02 tag = 0 → exec (.status dt tag) s = .next { (u.gateBlock (respBlock 2 0 u.statusWords)).2.gatePost
      (respEntry tag 0 (u.gateBlock (respBlock 2 0 u.statusWords)).1 32) with pending := s.pending }) ∧
    (s.cmdJudge 0x03 tag = 0 → exec (.reset dt tag) s = .next { (u.gateAnswer tag 0).resetSoon with pending := s.pending }) ∧
    (∀ (level : Nat), served (.loglevel dt tag level) 0x04 [level] (·.loglevel tag level)) ∧
    (∀ (stamp : Nat), served (.cntsnap dt tag stamp) 0x05 [stamp] (fun t => (t.cntsnap stamp).hostAnswer tag 0x05 0)) ∧
    (∀ (args : List Nat), served (.arm dt tag args) 0x10 args (·.arm tag args)) ∧
    (served (.disarm dt tag) 0x11 [] (·.hostAnswer tag 0x11 0)) ∧
    (served (.stop dt tag) 0x12 [] (·.hostAnswer tag 0x12 0)) ∧
    (∀ (n : Nat), served (.selprof dt tag n) 0x13 [n] (fun t => let r := t.selprof (n % 4); r.1.hostAnswer tag 0x13 r.2.1 r.2.2)) ∧
    (∀ (n : Nat) (mask : Nat), served (.saveprof dt tag n mask) 0x14 [n, mask] (fun t => State.answerOr (t.saveprof tag (n % 4) (mask % 8)) tag 0x14)) ∧
    (∀ (args : List Nat), served (.setcfg dt tag args) 0x15 args (fun t => let r := t.setcfg (pairUp args) (args.length % 2 == 1); r.1.hostAnswer tag 0x15 r.2)) ∧
    (served (.getcfg dt tag) 0x16 [] (fun t => t.hostAnswer tag 0x16 0 t.getcfg)) ∧
    (∀ (addr : Nat) (len : Nat), served (.loadimg dt tag addr len) 0x20 [addr, len] (fun t => State.answerOr (t.loadimg tag addr len) tag 0x20)) ∧
    (∀ (slot : Nat), served (.moult dt tag slot) 0x21 [slot] (·.moult tag slot)) ∧
    (served (.abandon dt tag) 0x22 [] (fun t => let r := t.abandon; r.1.hostAnswer tag 0x22 r.2)) ∧
    (∀ (arg : Nat), served (.setboot dt tag arg) 0x23 [arg] (fun t => let r := t.setboot (arg % 2) (arg.testBit 8); r.1.hostAnswer tag 0x23 r.2)) ∧
    (served (.cocoon dt tag) 0x30 [] (·.hostAnswer tag 0x30 0)) ∧
    (∀ (addr : Nat), served (.csrread dt tag addr) 0x40 [addr] (fun t => let r := t.csrread addr; r.1.hostAnswer tag 0x40 r.2.1 r.2.2)) ∧
    (∀ (addr : Nat) (v : Nat), served (.csrwrite dt tag addr v) 0x41 [addr, v] (fun t => let r := t.csrwrite addr v; r.1.hostAnswer tag 0x41 r.2)) ∧
    (∀ (c : Nat) (step : Nat) (ideal : Nat), served (.hkcal dt tag c step ideal) 0x50 [c, step, ideal] (·.hkcal tag (c % 64) step (toSigned 64 ideal))) ∧
    (∀ (mask : Nat), served (.hkselfcal dt tag mask) 0x51 [mask] (·.hkselfcal tag mask)) ∧
    (∀ (args : List Nat), served (.fibrecal dt tag args) 0x52 args (·.fibrecal tag args)) ∧
    (∀ (mask : Nat), served (.tdccal dt tag mask) 0x53 [mask] (fun t => State.answerOr (t.tdccal tag mask) tag 0x53)) ∧
    (∀ (arg : Nat), served (.dramtrain dt tag arg) 0x54 [arg] (·.dramtrain tag arg)) ∧
    (∀ (arg : Nat), served (.dramrate dt tag arg) 0x55 [arg] (·.dramrate tag arg)) ∧
    (∀ (arg : Nat), served (.rolereq dt tag arg) 0x60 [arg] (·.rolereq tag arg)) ∧
    (∀ (arg : Nat), served (.rolerel dt tag arg) 0x61 [arg] (·.rolerel tag arg)) ∧
    (∀ (args : List Nat), served (.lcset dt tag args) 0x70 args (·.pressFor { tag := tag, code := 0x70, args := args })) ∧
    (∀ (args : List Nat), served (.keyrepl dt tag args) 0x71 args (·.pressFor { tag := tag, code := 0x71, args := args })) ∧
    (∀ (args : List Nat), served (.dbgunlock dt tag args) 0x72 args (·.pressFor { tag := tag, code := 0x72, args := args })) ∧
    (∀ (args : List Nat), served (.fabkey dt tag args) 0x73 args (·.pressFor { tag := tag, code := 0x73, args := args }))

/-- A host command the judgement of R58 refuses is answered by the gate without any other effect; in COCOON it goes to the mailbox. While the module is not held in reset: in COCOON every host command is a write of the cocoon mailbox with its code and the low 16 bits of its tag; elsewhere, with the gate not blocked, a command refused by R58 is counted and answered with the status of the judgement, and for E_STATE the rejection is counted and logged (R59), with no other effect. Constructors: ping, status, reset, loglevel, cntsnap, arm, disarm, stop, selprof, saveprof, setcfg, getcfg, loadimg, moult, abandon, setboot, cocoon, emerge, csrread, csrwrite, hkcal, hkselfcal, fibrecal, tdccal, dramtrain, dramrate, rolereq, rolerel, lcset, keyrepl, dbgunlock, fabkey. -/
def Obligations.HostCommandsRefusedOrAsleep : Prop :=
  ∀ (s : State) (dt tag : Nat), s.pwr.held = false →
    let other (c : Instr) (code : Nat) : Prop :=
      (s.mode = .cocoon → exec c s = .next { (s.elapse dt).mboxWrite (BitVec.ofNat 32 (code * 65536 + tag % 65536)) with pending := s.pending }) ∧
      (s.mode ≠ .cocoon → s.gateBlocked = false → s.cmdJudge code tag ≠ 0 → exec c s =
        .next { (if s.cmdJudge code tag = 1 then ((s.elapse dt).cmdCount.rejectLog code tag).gateAnswer tag 1
          else (s.elapse dt).cmdCount.gateAnswer tag (s.cmdJudge code tag)) with pending := s.pending })
    (other (.ping dt tag) 0x01) ∧
    (other (.status dt tag) 0x02) ∧
    (other (.reset dt tag) 0x03) ∧
    (∀ (level : Nat), other (.loglevel dt tag level) 0x04) ∧
    (∀ (stamp : Nat), other (.cntsnap dt tag stamp) 0x05) ∧
    (∀ (args : List Nat), other (.arm dt tag args) 0x10) ∧
    (other (.disarm dt tag) 0x11) ∧
    (other (.stop dt tag) 0x12) ∧
    (∀ (n : Nat), other (.selprof dt tag n) 0x13) ∧
    (∀ (n : Nat) (mask : Nat), other (.saveprof dt tag n mask) 0x14) ∧
    (∀ (args : List Nat), other (.setcfg dt tag args) 0x15) ∧
    (other (.getcfg dt tag) 0x16) ∧
    (∀ (addr : Nat) (len : Nat), other (.loadimg dt tag addr len) 0x20) ∧
    (∀ (slot : Nat), other (.moult dt tag slot) 0x21) ∧
    (other (.abandon dt tag) 0x22) ∧
    (∀ (arg : Nat), other (.setboot dt tag arg) 0x23) ∧
    (other (.cocoon dt tag) 0x30) ∧
    (other (.emerge dt tag) 0x31) ∧
    (∀ (addr : Nat), other (.csrread dt tag addr) 0x40) ∧
    (∀ (addr : Nat) (v : Nat), other (.csrwrite dt tag addr v) 0x41) ∧
    (∀ (c : Nat) (step : Nat) (ideal : Nat), other (.hkcal dt tag c step ideal) 0x50) ∧
    (∀ (mask : Nat), other (.hkselfcal dt tag mask) 0x51) ∧
    (∀ (args : List Nat), other (.fibrecal dt tag args) 0x52) ∧
    (∀ (mask : Nat), other (.tdccal dt tag mask) 0x53) ∧
    (∀ (arg : Nat), other (.dramtrain dt tag arg) 0x54) ∧
    (∀ (arg : Nat), other (.dramrate dt tag arg) 0x55) ∧
    (∀ (arg : Nat), other (.rolereq dt tag arg) 0x60) ∧
    (∀ (arg : Nat), other (.rolerel dt tag arg) 0x61) ∧
    (∀ (args : List Nat), other (.lcset dt tag args) 0x70) ∧
    (∀ (args : List Nat), other (.keyrepl dt tag args) 0x71) ∧
    (∀ (args : List Nat), other (.dbgunlock dt tag args) 0x72) ∧
    (∀ (args : List Nat), other (.fabkey dt tag args) 0x73)

/-- The judgement of R58: unknown code, illegal state, missing authorisation, in this order; STARTUP and HOLD admit PING, STATUS and RESET only. A code outside Table SEQ-11 is judged E_UNSUPPORTED (10); a code not legal in the state in force E_STATE (1); a management command without authorisation E_AUTH (4); else 0. In STARTUP and in HOLD the legal codes are exactly PING, STATUS and RESET; the commands that need an idle module are legal in IDLE only. -/
def Obligations.GateJudgement : Prop :=
  ∀ (s : State) (code tag : Nat),
    (cmdModes code = none → s.cmdJudge code tag = 10) ∧
    (∀ l, cmdModes code = some l → s.mode ∉ l → s.cmdJudge code tag = 1) ∧
    (∀ l, cmdModes code = some l → s.mode ∈ l → s.cmdAuth tag = false → s.cmdJudge code tag = 4) ∧
    (s.cmdJudge code tag = 0 ↔ (∃ l, cmdModes code = some l ∧ s.mode ∈ l) ∧ s.cmdAuth tag = true) ∧
    (s.mode = .startup ∨ s.mode = .hold → s.cmdJudge code tag = 0 → code = 0x01 ∨ code = 0x02 ∨ code = 0x03) ∧
    (code ∈ [0x10, 0x13, 0x14, 0x23, 0x30, 0x51, 0x52, 0x55, 0x70, 0x71, 0x73] → s.cmdJudge code tag = 0 → s.mode = .idle)

/-- Events of the gate and of presence windows complete. Each event of the gate, of a delayed reset and of a presence window completes with the effect its rule gives, after its time has passed, whenever the main islands are awake, and the module is not held in reset (SAFE island and pins). Constructors: gateTake, armStartReached, armEndReached, gateStopInsert, resetDelayExpiry, presenceGiven, presenceTimeout. -/
def Obligations.GateEventsComplete : Prop :=
  ∀ s : State,
    (s.pwr.held = false → 
      (∀ (dt : Nat), exec (.gateTake dt) s = .next { ((s.elapse dt).gateOwn) with pending := s.pending }) ∧
      (∀ (dt : Nat), exec (.resetDelayExpiry dt) s = .next { ((s.elapse dt).resetExpire) with pending := s.pending }) ∧
      (∀ (dt : Nat), exec (.presenceGiven dt) s = .next { ((s.elapse dt).presenceGiven) with pending := s.pending }) ∧
      (∀ (dt : Nat) (stuck : Bool), exec (.presenceTimeout dt stuck) s = .next { ((s.elapse dt).presenceTimeout stuck) with pending := s.pending })) ∧
    (s.awake = true → 
      (∀ (dt : Nat), exec (.armStartReached dt) s = .next { ((s.elapse dt).armStart) with pending := s.pending }) ∧
      (∀ (dt : Nat), exec (.armEndReached dt) s = .next { ((s.elapse dt).armEnd) with pending := s.pending }) ∧
      (∀ (dt : Nat), exec (.gateStopInsert dt) s = .next { ((s.elapse dt).stopInsert) with pending := s.pending }))

/-- Launch, receiver, strain, stream and temperature commands complete. Each command of launch, port switch, receiver, phase, stream and temperature frames completes with the effect its rule gives, after its time has passed, whenever the main islands are awake, and the island is clocked (CHAN, VEC), and the module is not held in reset (SAFE island and pins). Constructors: launch, launchMonitorEdge, launchMonitorMiss, captureWindowClose, laserLockGain, laserLockLoss, laserWlWrite, laserEnLow, laserEnHigh, openPortDecision, safeClear, portWrite, portSwitchMove, portSettled, mfGenStart, mfGenDone, coefWrite, swapRequest, swapCopyDone, fadeEnd, framePublish, sentinelWindowEnd, mapdataWrite, mapcommit, strCsdataWrite, dtsWinWrite, bandSearchStart, bandSearchDone, dtsHopStart, dtsHopEnd, dtsLaunchJob, dtsProfilePost. -/
def Obligations.LightCommandsComplete : Prop :=
  ∀ s : State,
    (s.awake = true → 
      (∀ (dt : Nat), exec (.launch dt) s = .next { ((s.elapse dt).launch) with pending := s.pending }) ∧
      (∀ (dt : Nat) (n : Nat), exec (.launchMonitorEdge dt n) s = .next { ((s.elapse dt).monEdge n) with pending := s.pending }) ∧
      (∀ (dt : Nat), exec (.launchMonitorMiss dt) s = .next { ((s.elapse dt).monMiss) with pending := s.pending }) ∧
      (∀ (dt : Nat) (xs : List Adc), exec (.captureWindowClose dt xs) s = .next { ((s.elapse dt).windowClose xs) with pending := s.pending }) ∧
      (∀ (dt : Nat), exec (.laserLockGain dt) s = .next { ((s.elapse dt).lockGain) with pending := s.pending }) ∧
      (∀ (dt : Nat), exec (.laserLockLoss dt) s = .next { ((s.elapse dt).lockFall) with pending := s.pending }) ∧
      (∀ (dt : Nat) (xs : List Adc), exec (.openPortDecision dt xs) s = .next { ((s.elapse dt).openPort xs) with pending := s.pending }) ∧
      (∀ (dt : Nat), exec (.portSwitchMove dt) s = .next { ((s.elapse dt).portMove) with pending := s.pending }) ∧
      (∀ (dt : Nat), exec (.portSettled dt) s = .next { ((s.elapse dt).portSettled) with pending := s.pending }) ∧
      (∀ (dt : Nat) (k : Fin 16), exec (.mfGenDone dt k) s = .next { ((s.elapse dt).genDone k) with pending := s.pending }) ∧
      (∀ (dt : Nat) (filt : Fin 18), exec (.swapCopyDone dt filt) s = .next { ((s.elapse dt).copyDone filt) with pending := s.pending }) ∧
      (∀ (dt : Nat) (filt : Fin 18), exec (.fadeEnd dt filt) s = .next { ((s.elapse dt).fadeEnd filt) with pending := s.pending }) ∧
      (∀ (dt : Nat), exec (.bandSearchStart dt) s = .next { ((s.elapse dt).searchStart) with pending := s.pending }) ∧
      (∀ (dt : Nat) (band : Nat) (amp : Nat), exec (.bandSearchDone dt band amp) s = .next { ((s.elapse dt).searchDone band amp) with pending := s.pending }) ∧
      (∀ (dt : Nat), exec (.dtsHopStart dt) s = .next { ((s.elapse dt).hopStart) with pending := s.pending }) ∧
      (∀ (dt : Nat), exec (.dtsHopEnd dt) s = .next { ((s.elapse dt).dtsHopEnd) with pending := s.pending })) ∧
    (s.awake = true → 
      (∀ (v : Word), exec (.laserWlWrite v) s = .next { (s.writeCsr 0 true LCH_LASER v) with pending := s.pending }) ∧
      (∀ (v : Word), exec (.safeClear v) s = .next { (s.writeCsr 0 true LCH_OPENSTAT v) with pending := s.pending }) ∧
      (∀ (v : Word), exec (.portWrite v) s = .next { (s.writeCsr 0 true LCH_PLAN v) with pending := s.pending }) ∧
      (∀ (v : Word), exec (.coefWrite v) s = .next { (s.writeCsr 0 true RCV_CSDATA v) with pending := s.pending }) ∧
      (∀ (v : Word), exec (.swapRequest v) s = .next { (s.writeCsr 0 true RCV_SWAP v) with pending := s.pending }) ∧
      (∀ (v : Word), exec (.mapdataWrite v) s = .next { (s.writeCsr 0 true STR_MAPDATA v) with pending := s.pending }) ∧
      (∀ (v : Word), exec (.mapcommit v) s = .next { (s.writeCsr 0 true STR_MAPCOMMIT v) with pending := s.pending }) ∧
      (∀ (v : Word), exec (.strCsdataWrite v) s = .next { (s.writeCsr 0 true STR_CSDATA v) with pending := s.pending }) ∧
      (∀ (w : Fin 8) (v : Word), exec (.dtsWinWrite w v) s = .next { (s.writeCsr 0 true (DTS_WIN w) v) with pending := s.pending })) ∧
    (s.pwr.held = false → 
      (∀ (dt : Nat), exec (.laserEnLow dt) s = .next { ((s.elapse dt).laserLow) with pending := s.pending }) ∧
      (∀ (dt : Nat), exec (.laserEnHigh dt) s = .next { ((s.elapse dt).laserHigh) with pending := s.pending })) ∧
    (s.awake = true → 
      (∀ (which : Fin 3) (k : Fin 16) (v : Word), exec (.mfGenStart which k v) s = .next { (s.genWrite which k v) with pending := s.pending })) ∧
    (s.awake = true → s.islandIdle 3 = false → 
      (∀ (dt : Nat) (xs : List Adc), exec (.framePublish dt xs) s = .next { ((s.elapse dt).framePublish xs) with pending := s.pending }) ∧
      (∀ (dt : Nat), exec (.sentinelWindowEnd dt) s = .next { ((s.elapse dt).sentinelEnd) with pending := s.pending })) ∧
    (s.awake = true → s.islandIdle 4 = false → 
      (∀ (dt : Nat), exec (.dtsLaunchJob dt) s = .next { ((s.elapse dt).dtsJob) with pending := s.pending }) ∧
      (∀ (dt : Nat), exec (.dtsProfilePost dt) s = .next { ((s.elapse dt).profileOrFibre) with pending := s.pending }))

/-- Vector jobs and their instructions complete. Each vector job event and each instruction of the running kernel completes with the effect its rule gives, after its time has passed, whenever the main islands are awake, and the island is clocked (VEC). Constructors: vecJobStart, vecJobDone, vecAbort, vecCycleLimit, svScalarInstr, vld, vst, vlw, vadd, vsub, vmul, vmac, vmsu, vpwr, vclr, vrd, vbf, vbfx, vperm, vsplat, vbexp, vstage, vsclr, vmx, vmn, vmxr, vmnr, vloop, vdone. -/
def Obligations.VectorCommandsComplete : Prop :=
  ∀ s : State,
    (s.awake = true → s.islandIdle 4 = false → 
      (∀ (dt : Nat), exec (.vecJobStart dt) s = .next { ((s.elapse dt).vecStart) with pending := s.pending }) ∧
      (∀ (dt : Nat) (cycles : Nat), exec (.vecJobDone dt cycles) s = .next { ((s.elapse dt).vecDone cycles) with pending := s.pending }) ∧
      (∀ (dt : Nat), exec (.vecCycleLimit dt) s = .next { ((s.elapse dt).vecLimit) with pending := s.pending })) ∧
    (s.awake = true → 
      (∀ (v : Word), exec (.vecAbort v) s = .next { (s.writeCsr 0 true VEC_CTL v) with pending := s.pending })) ∧
    (s.awake = true → 
      (∀ (w : Word), exec (.svScalarInstr w) s = .next { (s.svStep (svScalar w)) with pending := s.pending }) ∧
      (∀ (d : Fin 16) (a : Fin 16) (b : Fin 16) (mem : Fin 4) (pi : Bool) (br : Fin 32), exec (.vld d a b mem pi br) s = .next { (s.svStep (svVld d a b mem pi br)) with pending := s.pending }) ∧
      (∀ (d : Fin 16) (a : Fin 16) (b : Fin 16) (mem : Fin 4) (pi : Bool) (br : Fin 32), exec (.vst d a b mem pi br) s = .next { (s.svStep (svVst d a b mem pi br)) with pending := s.pending }) ∧
      (∀ (d : Fin 16) (a : Fin 16) (b : Fin 16) (mem : Fin 4) (pi : Bool) (br : Fin 32), exec (.vlw d a b mem pi br) s = .next { (s.svStep (svVlw d a b mem pi br)) with pending := s.pending }) ∧
      (∀ (d : Fin 16) (a : Fin 16) (b : Fin 16) (m : Fin 256), exec (.vadd d a b m) s = .next { (s.svStep (svAddSub false d a b m)) with pending := s.pending }) ∧
      (∀ (d : Fin 16) (a : Fin 16) (b : Fin 16) (m : Fin 256), exec (.vsub d a b m) s = .next { (s.svStep (svAddSub true d a b m)) with pending := s.pending }) ∧
      (∀ (d : Fin 16) (a : Fin 16) (b : Fin 16) (m : Fin 256), exec (.vmul d a b m) s = .next { (s.svStep (svMul d a b m)) with pending := s.pending }) ∧
      (∀ (d : Fin 16) (a : Fin 16) (b : Fin 16) (m : Fin 256), exec (.vmac d a b m) s = .next { (s.svStep (svMac false d a b m)) with pending := s.pending }) ∧
      (∀ (d : Fin 16) (a : Fin 16) (b : Fin 16) (m : Fin 256), exec (.vmsu d a b m) s = .next { (s.svStep (svMac true d a b m)) with pending := s.pending }) ∧
      (∀ (d : Fin 16) (a : Fin 16) (b : Fin 16) (m : Fin 256), exec (.vpwr d a b m) s = .next { (s.svStep (svPwr d a b m)) with pending := s.pending }) ∧
      (∀ (d : Fin 16) (m : Fin 256), exec (.vclr d m) s = .next { (s.svStep (svClr d m)) with pending := s.pending }) ∧
      (∀ (d : Fin 16) (a : Fin 16) (m : Fin 256), exec (.vrd d a m) s = .next { (s.svStep (svRd d a m)) with pending := s.pending }) ∧
      (∀ (d : Fin 16) (a : Fin 16) (b : Fin 16) (m : Fin 256), exec (.vbf d a b m) s = .next { (s.svStep (svBf d a b m)) with pending := s.pending }) ∧
      (∀ (d : Fin 16) (a : Fin 16) (b : Fin 16) (m : Fin 256), exec (.vbfx d a b m) s = .next { (s.svStep (svBfx d a b m)) with pending := s.pending }) ∧
      (∀ (d : Fin 16) (a : Fin 16) (b : Fin 16) (m : Fin 256), exec (.vperm d a b m) s = .next { (s.svStep (svPerm d a b m)) with pending := s.pending }) ∧
      (∀ (d : Fin 16) (a : Fin 16) (m : Fin 256), exec (.vsplat d a m) s = .next { (s.svStep (svSplat d a m)) with pending := s.pending }) ∧
      (∀ (d : Fin 16) (a : Fin 16) (m : Fin 256), exec (.vbexp d a m) s = .next { (s.svStep (svBexp d a m)) with pending := s.pending }) ∧
      (∀ (d : Fin 16) (m : Fin 256), exec (.vstage d m) s = .next { (s.svStep (svStage d m)) with pending := s.pending }) ∧
      (∀ (m : Fin 256), exec (.vsclr m) s = .next { (s.svStep (svSclr m)) with pending := s.pending }) ∧
      (∀ (a : Fin 16) (b : Fin 16) (m : Fin 256), exec (.vmx a b m) s = .next { (s.svStep (svExt false a b m)) with pending := s.pending }) ∧
      (∀ (a : Fin 16) (b : Fin 16) (m : Fin 256), exec (.vmn a b m) s = .next { (s.svStep (svExt true a b m)) with pending := s.pending }) ∧
      (∀ (d : Fin 16) (a : Fin 16) (m : Fin 256), exec (.vmxr d a m) s = .next { (s.svStep (svExtr false d a m)) with pending := s.pending }) ∧
      (∀ (d : Fin 16) (a : Fin 16) (m : Fin 256), exec (.vmnr d a m) s = .next { (s.svStep (svExtr true d a m)) with pending := s.pending }) ∧
      (∀ (a : Fin 16) (imm : BitVec 18), exec (.vloop a imm) s = .next { (s.svStep (svLoop a imm.toNat)) with pending := s.pending }) ∧
      (∀ (a : Fin 16), exec (.vdone a) s = .next { (s.svStep (svDone a)) with pending := s.pending }))

/-- Front-end link commands complete. Each event of the front-end links and each FEL command completes with the effect its rule gives, after its time has passed, whenever the main islands are awake, and the island is clocked (EVT, FEL). Constructors: linkenWrite, feBlockLock, feLockLoss, feHello, feStateTimeout, feRetry, fcmd, bcresetAct, sccmd, scrsp, scTimeout, hitFrame, feStatusBlock, echo, patrolStart, patrolDone, zsDecide, hitBlockTmo. -/
def Obligations.FrontEndCommandsComplete : Prop :=
  ∀ s : State,
    (s.awake = true → 
      (∀ (v : Word), exec (.linkenWrite v) s = .next { (s.writeCsr 0 true FEL_LINKEN_HI v) with pending := s.pending }) ∧
      (∀ (v : Word), exec (.fcmd v) s = .next { (s.writeCsr 0 true FEL_FCMD v) with pending := s.pending }) ∧
      (∀ (v : Word), exec (.sccmd v) s = .next { (s.writeCsr 0 true FEL_SCCMD v) with pending := s.pending })) ∧
    (s.awake = true → s.islandIdle 5 = false → 
      (∀ (dt : Nat) (l : Fin 64) (headers : List Nat), exec (.feBlockLock dt l headers) s = .next { ((s.elapse dt).feLock l headers) with pending := s.pending }) ∧
      (∀ (dt : Nat) (l : Fin 64) (opened : Bool) (headers : List Nat), exec (.feLockLoss dt l opened headers) s = .next { ((s.elapse dt).feLoss l opened headers) with pending := s.pending }) ∧
      (∀ (dt : Nat) (l : Fin 64) (payload : Nat), exec (.feHello dt l payload) s = .next { ((s.elapse dt).feHello l payload) with pending := s.pending }) ∧
      (∀ (dt : Nat) (l : Fin 64), exec (.feStateTimeout dt l) s = .next { ((s.elapse dt).feTimeouts l) with pending := s.pending }) ∧
      (∀ (dt : Nat) (l : Fin 64), exec (.feRetry dt l) s = .next { ((s.elapse dt).feRetry l) with pending := s.pending }) ∧
      (∀ (dt : Nat) (l : Fin 64), exec (.bcresetAct dt l) s = .next { ((s.elapse dt).bcreset l) with pending := s.pending }) ∧
      (∀ (dt : Nat) (l : Fin 64) (payload : Nat), exec (.scrsp dt l payload) s = .next { ((s.elapse dt).scRsp l payload) with pending := s.pending }) ∧
      (∀ (dt : Nat), exec (.scTimeout dt) s = .next { ((s.elapse dt).scTimeout) with pending := s.pending }) ∧
      (∀ (dt : Nat) (l : Fin 64) (fill : Nat) (blocks : List (Nat × Nat)), exec (.hitFrame dt l fill blocks) s = .next { ((s.elapse dt).hitFrame l fill blocks) with pending := s.pending }) ∧
      (∀ (dt : Nat) (l : Fin 64) (payload : Nat), exec (.feStatusBlock dt l payload) s = .next { ((s.elapse dt).feStatus l payload) with pending := s.pending }) ∧
      (∀ (dt : Nat) (l : Fin 64) (arg : Nat) (n : Nat), exec (.echo dt l arg n) s = .next { ((s.elapse dt).echo l arg n) with pending := s.pending }) ∧
      (∀ (dt : Nat), exec (.patrolStart dt) s = .next { ((s.elapse dt).patrolStart) with pending := s.pending }) ∧
      (∀ (dt : Nat) (l : Fin 64), exec (.patrolDone dt l) s = .next { ((s.elapse dt).patrolDone l) with pending := s.pending })) ∧
    (s.awake = true → s.islandIdle 6 = false → 
      (∀ (dt : Nat), exec (.zsDecide dt) s = .next { ((s.elapse dt).zsStep) with pending := s.pending }) ∧
      (∀ (dt : Nat) (l : Fin 64), exec (.hitBlockTmo dt l) s = .next { ((s.elapse dt).blockTmo l) with pending := s.pending }))

/-- Trigger commands complete. Each event of trigger conditions, inputs, classes, segments and outputs completes with the effect its rule gives, after its time has passed, whenever the main islands are awake, and the island is clocked (EVT). Constructors: trgArm, trgArmStop, condSample, condTimeout, trigInEdge, hpHitTake, hpHitExpire, classDecide, segmentCopy, segmentStreamPart, trigOutEdge, trigOutPulseEnd, outclr. -/
def Obligations.TriggerCommandsComplete : Prop :=
  ∀ s : State,
    (s.awake = true → 
      (∀ (v : Word), exec (.trgArm v) s = .next { (s.writeCsr 0 true TRG_ARM v) with pending := s.pending }) ∧
      (∀ (v : Word), exec (.trgArmStop v) s = .next { (s.writeCsr 0 true TRG_ARM v) with pending := s.pending }) ∧
      (∀ (v : Word), exec (.outclr v) s = .next { (s.writeCsr 0 true TRG_OUTCLR v) with pending := s.pending })) ∧
    (s.awake = true → s.islandIdle 6 = false → 
      (∀ (dt : Nat) (k : Fin 16), exec (.condSample dt k) s = .next { ((s.elapse dt).condDas k) with pending := s.pending }) ∧
      (∀ (dt : Nat) (k : Fin 16), exec (.condTimeout dt k) s = .next { ((s.elapse dt).condTimeout k) with pending := s.pending }) ∧
      (∀ (dt : Nat) (p : Fin 8), exec (.hpHitTake dt p) s = .next { ((s.elapse dt).hpTake p) with pending := s.pending }) ∧
      (∀ (dt : Nat) (p : Fin 8), exec (.hpHitExpire dt p) s = .next { ((s.elapse dt).hpExpire p) with pending := s.pending }) ∧
      (∀ (dt : Nat) (c : Fin 4), exec (.classDecide dt c) s = .next { ((s.elapse dt).classDecide c) with pending := s.pending }) ∧
      (∀ (dt : Nat) (c : Fin 4), exec (.segmentCopy dt c) s = .next { ((s.elapse dt).segCopy c) with pending := s.pending }) ∧
      (∀ (dt : Nat) (c : Fin 4), exec (.segmentStreamPart dt c) s = .next { ((s.elapse dt).segPart c) with pending := s.pending })) ∧
    (s.awake = true → 
      (∀ (dt : Nat) (i : Fin 4) (rising : Bool) (short : Bool) (n : Nat), exec (.trigInEdge dt i rising short n) s = .next { ((s.elapse dt).trigIn i rising short n) with pending := s.pending }) ∧
      (∀ (dt : Nat) (i : Fin 4), exec (.trigOutEdge dt i) s = .next { ((s.elapse dt).outEdge i) with pending := s.pending }) ∧
      (∀ (dt : Nat) (i : Fin 4), exec (.trigOutPulseEnd dt i) s = .next { ((s.elapse dt).outPulseEnd i) with pending := s.pending }))

/-- Event building commands complete. Each event of fragment windows, the decider and the builders completes with the effect its rule gives, after its time has passed, whenever the main islands are awake, and the island is clocked (EVT). Constructors: evbWindowClose, localStragglerPost, evbHeadAdvance, cand, deciderDecide, accept, reject, candTimeout, build, busy, grant, credit, fragmentSend, fragmentReceive, eventCloseTimeout. -/
def Obligations.EventBuilderCommandsComplete : Prop :=
  ∀ s : State,
    (s.awake = true → s.islandIdle 6 = false → 
      (∀ (dt : Nat), exec (.evbWindowClose dt) s = .next { ((s.elapse dt).evbClose) with pending := s.pending }) ∧
      (∀ (dt : Nat), exec (.localStragglerPost dt) s = .next { ((s.elapse dt).stragglerPost) with pending := s.pending }) ∧
      (∀ (dt : Nat) (l : Fin 64), exec (.evbHeadAdvance dt l) s = .next { ((s.elapse dt).evbAdvance l) with pending := s.pending }) ∧
      (∀ (dt : Nat) (dev : Fin 1024) (c : Fin 4) (stamp : Nat) (cid : Nat), exec (.cand dt dev c stamp cid) s = .next { ((s.elapse dt).cand dev c stamp cid) with pending := s.pending }) ∧
      (∀ (dt : Nat), exec (.deciderDecide dt) s = .next { ((s.elapse dt).decDecide) with pending := s.pending }) ∧
      (∀ (dt : Nat) (c : Fin 4) (epoch : Nat) (cid : Nat) (stamp : Nat) (num : Nat), exec (.accept dt c epoch cid stamp num) s = .next { ((s.elapse dt).acceptMsg c epoch cid stamp num) with pending := s.pending }) ∧
      (∀ (dt : Nat) (c : Fin 4) (cid : Nat), exec (.reject dt c cid) s = .next { ((s.elapse dt).rejectMsg c cid) with pending := s.pending }) ∧
      (∀ (dt : Nat), exec (.candTimeout dt) s = .next { ((s.elapse dt).candTimeout) with pending := s.pending }) ∧
      (∀ (dt : Nat) (epoch : Nat) (num : Nat) (stamp : Nat) (devs : List Nat), exec (.build dt epoch num stamp devs) s = .next { ((s.elapse dt).build epoch num stamp devs) with pending := s.pending }) ∧
      (∀ (dt : Nat) (dev : Fin 1024) (busy : Bool), exec (.busy dt dev busy) s = .next { ((s.elapse dt).decBusyMsg dev busy) with pending := s.pending }) ∧
      (∀ (dt : Nat) (bnum : Fin 4) (bepoch : Nat) (units : Nat), exec (.grant dt bnum bepoch units) s = .next { ((s.elapse dt).grant bnum bepoch units) with pending := s.pending }) ∧
      (∀ (dt : Nat) (bnum : Fin 4) (bepoch : Nat) (units : Nat) (fseq : Nat), exec (.credit dt bnum bepoch units fseq) s = .next { ((s.elapse dt).credit bnum bepoch units fseq) with pending := s.pending }) ∧
      (∀ (dt : Nat), exec (.fragmentSend dt) s = .next { ((s.elapse dt).fragSend) with pending := s.pending }) ∧
      (∀ (dt : Nat) (words : List Nat), exec (.fragmentReceive dt words) s = .next { ((s.elapse dt).fragReceive words) with pending := s.pending }) ∧
      (∀ (dt : Nat), exec (.eventCloseTimeout dt) s = .next { ((s.elapse dt).eventTimeout) with pending := s.pending }))

/-- Time base and TDC commands complete. Each event of fabric time, asymmetry profiles and the TDC units completes with the effect its rule gives, after its time has passed, whenever the main islands are awake. Constructors: timex, timexSend, parentExchangeLoss, lockedTimer, ppsEdge, ref10mChange, rootSecondBoundary, nextsecWrite, asyUpdate, asySlew, tsub, tint, profileAgeExpiry, tdcEdge, tdcTimeout, tdcDeadTimeEnd, tdcRingCheck, tdcCfgWrite. -/
def Obligations.TimeCommandsComplete : Prop :=
  ∀ s : State,
    (s.awake = true → 
      (∀ (dt : Nat) (p : Fin 8) (xseq : Nat) (rxseq : Nat) (txprev : Nat) (rxlast : Nat) (peerState : Fin 4) (rootHold : Bool) (hops : Fin 32) (rootDev : Fin 1024) (rootEpoch : Nat), exec (.timex dt p xseq rxseq txprev rxlast peerState rootHold hops rootDev rootEpoch) s = .next { ((s.elapse dt).timex p xseq rxseq txprev rxlast (peerState, rootHold, hops, rootDev, rootEpoch)) with pending := s.pending }) ∧
      (∀ (dt : Nat) (p : Fin 8), exec (.timexSend dt p) s = .next { ((s.elapse dt).timexSend p) with pending := s.pending }) ∧
      (∀ (dt : Nat), exec (.parentExchangeLoss dt) s = .next { ((s.elapse dt).parentLoss) with pending := s.pending }) ∧
      (∀ (dt : Nat), exec (.lockedTimer dt) s = .next { ((s.elapse dt).lockedTimer) with pending := s.pending }) ∧
      (∀ (dt : Nat) (present : Bool), exec (.ppsEdge dt present) s = .next { ((s.elapse dt).ppsEdge present) with pending := s.pending }) ∧
      (∀ (dt : Nat) (n : Nat), exec (.ref10mChange dt n) s = .next { ((s.elapse dt).refChange n) with pending := s.pending }) ∧
      (∀ (dt : Nat), exec (.rootSecondBoundary dt) s = .next { ((s.elapse dt).rootBoundary) with pending := s.pending }) ∧
      (∀ (dt : Nat) (p : Fin 8), exec (.asyUpdate dt p) s = .next { ((s.elapse dt).asyUpdate p) with pending := s.pending }) ∧
      (∀ (dt : Nat) (p : Fin 8), exec (.asySlew dt p) s = .next { ((s.elapse dt).asySlew p) with pending := s.pending }) ∧
      (∀ (dt : Nat) (dev : Fin 1024) (sense : Fin 4) (first : Nat) (last : Nat) (tref : Int), exec (.tsub dt dev sense first last tref) s = .next { ((s.elapse dt).tsubMsg { dev := dev, sense := sense, first := first, last := last, tref := tref }) with pending := s.pending }) ∧
      (∀ (dt : Nat) (sense : Fin 4) (dev : Fin 1024) (last : Nat) (integral : Int) (pm : Nat), exec (.tint dt sense dev last integral pm) s = .next { ((s.elapse dt).tintMsg sense dev last integral pm) with pending := s.pending }) ∧
      (∀ (dt : Nat) (p : Fin 8), exec (.profileAgeExpiry dt p) s = .next { ((s.elapse dt).profileAge p) with pending := s.pending }) ∧
      (∀ (dt : Nat) (u : Fin 8) (src : Fin 4) (n : Nat), exec (.tdcEdge dt u src n) s = .next { ((s.elapse dt).tdcPin u src n) with pending := s.pending }) ∧
      (∀ (dt : Nat) (u : Fin 8), exec (.tdcTimeout dt u) s = .next { ((s.elapse dt).tdcTimeout u) with pending := s.pending }) ∧
      (∀ (dt : Nat) (u : Fin 8), exec (.tdcDeadTimeEnd dt u) s = .next { ((s.elapse dt).tdcDeadEnd u) with pending := s.pending }) ∧
      (∀ (dt : Nat) (u : Fin 8) (lsb : Nat) (ok : Bool), exec (.tdcRingCheck dt u lsb ok) s = .next { ((s.elapse dt).tdcRing u lsb ok) with pending := s.pending })) ∧
    (s.awake = true → 
      (∀ (v : Word), exec (.nextsecWrite v) s = .next { (s.writeCsr 0 true TIM_NEXTSEC v) with pending := s.pending }) ∧
      (∀ (u : Fin 8) (v : Word), exec (.tdcCfgWrite u v) s = .next { (s.writeCsr 0 true (TIM_TDC_CFG u) v) with pending := s.pending }))

/-- Fabric and Ethernet commands complete. Each frame, message, timer and send of the fabric and its Ethernet ports completes with the effect its rule gives, after its time has passed, whenever the main islands are awake, and the island is clocked (FAB). Constructors: fabricFrame, pher, pherSend, peerDead, fabPortLock, fabPortTimeout, lsa, lsaRefresh, lsaMaxage, idClaimDone, lcred, lcredSend, fabSend, fwdTapSend, fwdWrite, reassemblyTimeout, rann, rannRenew, rreq, rrel, roleLapse, roleRequestWaitEnd, ethAck, ethSyncTimeout, ethRetransmit, ethPieceSend, ethMgmtDatagram, ethArp, ethNd, ethEcho, ptpMessage. -/
def Obligations.FabricCommandsComplete : Prop :=
  ∀ s : State,
    (s.awake = true → s.islandIdle 7 = false → 
      (∀ (dt : Nat) (p : Fin 8) (sfd : Bool) (f : Frame) (done : Bool), exec (.fabricFrame dt p sfd f done) s = .next { ((s.elapse dt).fabFrame p sfd f done) with pending := s.pending }) ∧
      (∀ (dt : Nat) (p : Fin 8) (f : Frame), exec (.pher dt p f) s = .next { ((s.elapse dt).pher p f) with pending := s.pending }) ∧
      (∀ (dt : Nat) (p : Fin 8), exec (.pherSend dt p) s = .next { ((s.elapse dt).pherSend p) with pending := s.pending }) ∧
      (∀ (dt : Nat) (p : Fin 8), exec (.peerDead dt p) s = .next { ((s.elapse dt).peerDead p) with pending := s.pending }) ∧
      (∀ (dt : Nat) (p : Fin 8) (signal : Bool) (lock : Bool), exec (.fabPortLock dt p signal lock) s = .next { ((s.elapse dt).fabLock p signal lock) with pending := s.pending }) ∧
      (∀ (dt : Nat) (p : Fin 8), exec (.fabPortTimeout dt p) s = .next { ((s.elapse dt).fabTimeout p) with pending := s.pending }) ∧
      (∀ (dt : Nat) (p : Fin 8) (f : Frame) (done : Bool), exec (.lsa dt p f done) s = .next { ((s.elapse dt).lsa p f done) with pending := s.pending }) ∧
      (∀ (dt : Nat), exec (.lsaRefresh dt) s = .next { ((s.elapse dt).lsaRefresh) with pending := s.pending }) ∧
      (∀ (dt : Nat) (dev : Fin 1024), exec (.lsaMaxage dt dev) s = .next { ((s.elapse dt).lsaMaxage dev) with pending := s.pending }) ∧
      (∀ (dt : Nat), exec (.idClaimDone dt) s = .next { ((s.elapse dt).idTake) with pending := s.pending }) ∧
      (∀ (dt : Nat) (p : Fin 8) (w : Nat), exec (.lcred dt p w) s = .next { ((s.elapse dt).lcred p w) with pending := s.pending }) ∧
      (∀ (dt : Nat) (p : Fin 8), exec (.lcredSend dt p) s = .next { ((s.elapse dt).lcredSend p) with pending := s.pending }) ∧
      (∀ (dt : Nat) (p : Fin 8), exec (.fabSend dt p) s = .next { ((s.elapse dt).fabSend p) with pending := s.pending }) ∧
      (∀ (dt : Nat) (t : Fin 8), exec (.fwdTapSend dt t) s = .next { ((s.elapse dt).fwdTap t) with pending := s.pending }) ∧
      (∀ (dt : Nat), exec (.reassemblyTimeout dt) s = .next { ((s.elapse dt).reasmTimeout) with pending := s.pending }) ∧
      (∀ (dt : Nat) (r : Fin 6) (dev : Fin 1024) (epoch : Nat) (prio : Nat) (stamp : Nat) (serial : Nat), exec (.rann dt r dev epoch prio stamp serial) s = .next { ((s.elapse dt).rann r dev epoch prio stamp serial) with pending := s.pending }) ∧
      (∀ (dt : Nat) (r : Fin 6), exec (.rannRenew dt r) s = .next { ((s.elapse dt).rannRenew r) with pending := s.pending }) ∧
      (∀ (dt : Nat) (r : Fin 6) (dev : Fin 1024) (epoch : Nat) (prio : Nat) (stamp : Nat) (serial : Nat), exec (.rreq dt r dev epoch prio stamp serial) s = .next { ((s.elapse dt).rreq r dev epoch prio stamp serial) with pending := s.pending }) ∧
      (∀ (dt : Nat) (r : Fin 6) (dev : Fin 1024) (epoch : Nat) (prio : Nat) (stamp : Nat), exec (.rrel dt r dev epoch prio stamp) s = .next { ((s.elapse dt).rrel r dev epoch prio stamp) with pending := s.pending }) ∧
      (∀ (dt : Nat) (p : Fin 8) (dseq : Nat) (sack : Nat), exec (.ethAck dt p dseq sack) s = .next { ((s.elapse dt).ethAck p dseq sack) with pending := s.pending }) ∧
      (∀ (dt : Nat) (p : Fin 8), exec (.ethSyncTimeout dt p) s = .next { ((s.elapse dt).ethSync p) with pending := s.pending }) ∧
      (∀ (dt : Nat) (p : Fin 8), exec (.ethRetransmit dt p) s = .next { ((s.elapse dt).ethRetransmit p) with pending := s.pending }) ∧
      (∀ (dt : Nat) (p : Fin 8), exec (.ethPieceSend dt p) s = .next { ((s.elapse dt).ethPiece p) with pending := s.pending }) ∧
      (∀ (dt : Nat) (p : Fin 8) (ip : Nat) (port : Nat) (f : Frame), exec (.ethMgmtDatagram dt p ip port f) s = .next { ((s.elapse dt).ethMgmt p ip port f) with pending := s.pending }) ∧
      (∀ (dt : Nat) (p : Fin 8) (reply : Bool) (target : Nat) (sender : Nat), exec (.ethArp dt p reply target sender) s = .next { ((s.elapse dt).ethArp p reply target sender) with pending := s.pending }) ∧
      (∀ (dt : Nat) (p : Fin 8) (solicit : Bool) (target : Nat) (sender : Nat), exec (.ethNd dt p solicit target sender) s = .next { ((s.elapse dt).ethNd p solicit target sender) with pending := s.pending }) ∧
      (∀ (dt : Nat) (p : Fin 8) (v6 : Bool) (target : Nat) (sender : Nat) (data : List Nat), exec (.ethEcho dt p v6 target sender data) s = .next { ((s.elapse dt).ethEcho p v6 target sender data) with pending := s.pending }) ∧
      (∀ (dt : Nat) (v6 : Bool) (domain : Nat) (m : PtpMsg), exec (.ptpMessage dt v6 domain m) s = .next { ((s.elapse dt).ptpMessage v6 domain m) with pending := s.pending })) ∧
    (s.awake = true → 
      (∀ (t : Fin 8) (v : Word), exec (.fwdWrite t v) s = .next { (s.writeCsr 0 true (FAB_FWD t) v) with pending := s.pending })) ∧
    (s.awake = true → 
      (∀ (dt : Nat) (r : Fin 6), exec (.roleLapse dt r) s = .next { ((s.elapse dt).roleLapse r) with pending := s.pending }) ∧
      (∀ (dt : Nat) (r : Fin 6), exec (.roleRequestWaitEnd dt r) s = .next { ((s.elapse dt).roleWaitEnd r) with pending := s.pending }))

/-- Memory, compression and clock commands complete. Each event of the memory channels, their training, the compression lanes, the synthesizers, clock commits and MSEL hops completes with the effect its rule gives, after its time has passed, whenever the main islands are awake, and the island is clocked (CMP); those of the PLLs and of the reference whenever the module is neither held in reset nor in the HOLD of a clock fault, in COCOON and during emergence too (R349, R350). Constructors: memAdmissionTick, memRefresh, memRequestServe, scrubStep, trnGo, trnApply, trnGatherDone, dramTempDrift, cmpLaneTake, cmpOutputPublish, cmpChainWaitExpiry, decompressJob, pllUnlock, pllRelock, synSLockTimeout, pllRetryAlarm, refCountFail, clkCommit, commitPoint, mslotWrite, mselHop. -/
def Obligations.MemoryAndClockCommandsComplete : Prop :=
  ∀ s : State,
    (s.awake = true → 
      (∀ (dt : Nat), exec (.memAdmissionTick dt) s = .next { ((s.elapse dt).admissionTick) with pending := s.pending }) ∧
      (∀ (dt : Nat) (n : Fin 4), exec (.memRefresh dt n) s = .next { ((s.elapse dt).memRefresh n) with pending := s.pending }) ∧
      (∀ (dt : Nat) (n : Fin 4) (new : List (Nat × Nat × Bool)) (err : Fin 3), exec (.memRequestServe dt n new err) s = .next { (((s.elapse dt).memStep n new err).coreSettle.memResume) with pending := s.pending }) ∧
      (∀ (dt : Nat) (err : Fin 3), exec (.scrubStep dt err) s = .next { ((s.elapse dt).scrubStep err) with pending := s.pending }) ∧
      (∀ (dt : Nat) (reads : List (List (Nat × Nat))) (fin : Option TrnResult), exec (.trnGatherDone dt reads fin) s = .next { (((s.elapse dt).gatherDone reads fin).memResume) with pending := s.pending }) ∧
      (∀ (dt : Nat) (n : Fin 4) (temp : Nat), exec (.dramTempDrift dt n temp) s = .next { ((s.elapse dt).dramTemp n temp) with pending := s.pending }) ∧
      (∀ (dt : Nat), exec (.commitPoint dt) s = .next { ((s.elapse dt).commitPoint) with pending := s.pending }) ∧
      (∀ (dt : Nat) (locked : Bool), exec (.mselHop dt locked) s = .next { ((s.elapse dt).mselHop locked) with pending := s.pending })) ∧
    (s.pwr.held = false → s.safeOnly = false →
      (∀ (dt : Nat) (pll : Fin 5), exec (.pllUnlock dt pll) s = .next { ((s.elapse dt).pllUnlock pll) with pending := s.pending }) ∧
      (∀ (dt : Nat) (pll : Fin 5) (band : Nat) (amp : Nat) (phase : Word) (rows : List (Nat × Nat × Nat × Nat)) (temps : List Nat), exec (.pllRelock dt pll band amp phase rows temps) s = .next { (((s.elapse dt).pllRelock pll band amp phase rows temps).memResume) with pending := s.pending }) ∧
      (∀ (dt : Nat), exec (.synSLockTimeout dt) s = .next { ((s.elapse dt).synsTimeout) with pending := s.pending }) ∧
      (∀ (dt : Nat) (pll : Fin 5), exec (.pllRetryAlarm dt pll) s = .next { ((s.elapse dt).pllAlarm pll) with pending := s.pending }) ∧
      (∀ (dt : Nat), exec (.refCountFail dt) s = .next { ((s.elapse dt).refFail) with pending := s.pending })) ∧
    (s.awake = true → 
      (∀ (v : Word), exec (.trnGo v) s = .next { (s.writeCsr 0 true MEM_TRN_CTL v) with pending := s.pending }) ∧
      (∀ (v : Word), exec (.trnApply v) s = .next { (s.writeCsr 0 true MEM_TRN_CTL v) with pending := s.pending }) ∧
      (∀ (v : Word), exec (.clkCommit v) s = .next { (s.writeCsr 0 true CLK_COMMIT v) with pending := s.pending }) ∧
      (∀ (n : Fin 16) (v : Word), exec (.mslotWrite n v) s = .next { (s.writeCsr 0 true (CLK_MSLOT_FREQ_HI n) v) with pending := s.pending })) ∧
    (s.awake = true → s.islandIdle 9 = false → 
      (∀ (dt : Nat), exec (.cmpLaneTake dt) s = .next { ((s.elapse dt).laneTake) with pending := s.pending }) ∧
      (∀ (dt : Nat) (l : Fin 4) (codes : List (List (List Nat × List Nat))) (spoilt : List (Nat × List Nat × Nat)), exec (.cmpOutputPublish dt l codes spoilt) s = .next { ((s.elapse dt).laneDone l codes spoilt) with pending := s.pending }) ∧
      (∀ (dt : Nat) (l : Fin 4), exec (.cmpChainWaitExpiry dt l) s = .next { ((s.elapse dt).chainExpiry l) with pending := s.pending }) ∧
      (∀ (dt : Nat) (l : Fin 4), exec (.decompressJob dt l) s = .next { ((s.elapse dt).laneDone l [] []) with pending := s.pending }))

/-- Housekeeping converter and flasher commands complete. Each command of the converter and of the flasher channels and their supply completes with the effect its rule gives, after its time has passed, whenever the main islands are awake, and the module is not held in reset (SAFE island and pins). Constructors: hkcGo, hkcIgo, hkcStop, hkcTimer, hkcStartDelayEnd, hkcConversionDone, hkcAuxConversion, hkcExcWrite, hkcEnWrite, calgainWrite, blankPin, flsArm, flashTurnOn, flashTurnOff, flashCheck, dimSlot, flsChDisable, flvAdapt, flsPowerCheck, flsDerate, diagWindowEnd, flsStatusPost. -/
def Obligations.ConverterAndFlasherComplete : Prop :=
  ∀ s : State,
    (s.awake = true → 
      (∀ (v : Word), exec (.hkcGo v) s = .next { (s.writeCsr 0 true HKC_SEQCTL v) with pending := s.pending }) ∧
      (∀ (v : Word), exec (.hkcIgo v) s = .next { (s.writeCsr 0 true HKC_SEQCTL v) with pending := s.pending }) ∧
      (∀ (v : Word), exec (.hkcStop v) s = .next { (s.writeCsr 0 true HKC_SEQCTL v) with pending := s.pending }) ∧
      (∀ (c : Fin 16) (v : Word), exec (.hkcExcWrite c v) s = .next { (s.writeCsr 0 true (HKC_CH_EXC c) v) with pending := s.pending }) ∧
      (∀ (v : Word), exec (.hkcEnWrite v) s = .next { (s.writeCsr 0 true HKC_CTL v) with pending := s.pending }) ∧
      (∀ (c : Fin 16) (v : Word), exec (.calgainWrite c v) s = .next { (s.writeCsr 0 true (HKC_CH_CALGAIN c) v) with pending := s.pending }) ∧
      (∀ (v : Word), exec (.flsArm v) s = .next { (s.writeCsr 0 true FLS_ARM v) with pending := s.pending }) ∧
      (∀ (n : Fin 16) (v : Word), exec (.flsChDisable n v) s = .next { (s.writeCsr 0 true (FLS_CH_CFG n) v) with pending := s.pending })) ∧
    (s.awake = true → 
      (∀ (dt : Nat), exec (.hkcTimer dt) s = .next { ((s.elapse dt).hkTimer) with pending := s.pending }) ∧
      (∀ (dt : Nat), exec (.hkcStartDelayEnd dt) s = .next { ((s.elapse dt).hkNext) with pending := s.pending }) ∧
      (∀ (dt : Nat) (d : Int) (ovr : Bool) (openFail : Bool), exec (.hkcConversionDone dt d ovr openFail) s = .next { ((s.elapse dt).hkDone d ovr openFail) with pending := s.pending }) ∧
      (∀ (dt : Nat) (d : Int) (ovr : Bool) (opened : Bool), exec (.hkcAuxConversion dt d ovr opened) s = .next { ((s.elapse dt).hkAuxDone d ovr opened) with pending := s.pending }) ∧
      (∀ (dt : Nat) (n : Fin 16), exec (.flashTurnOn dt n) s = .next { ((s.elapse dt).flashOn n) with pending := s.pending }) ∧
      (∀ (dt : Nat) (n : Fin 16), exec (.flashTurnOff dt n) s = .next { ((s.elapse dt).flashOff n) with pending := s.pending }) ∧
      (∀ (dt : Nat) (n : Fin 16) (reg : Bool) (pct : Nat) (sink : Nat), exec (.flashCheck dt n reg pct sink) s = .next { ((s.elapse dt).flashCheck n reg pct sink) with pending := s.pending }) ∧
      (∀ (dt : Nat) (n : Fin 16), exec (.dimSlot dt n) s = .next { ((s.elapse dt).dimSlot n) with pending := s.pending }) ∧
      (∀ (dt : Nat) (vin : Nat), exec (.flvAdapt dt vin) s = .next { ((s.elapse dt).flvAdapt vin) with pending := s.pending }) ∧
      (∀ (dt : Nat) (mw : Nat), exec (.flsPowerCheck dt mw) s = .next { ((s.elapse dt).flsPower mw) with pending := s.pending }) ∧
      (∀ (dt : Nat) (ta : Int) (tb : Int), exec (.flsDerate dt ta tb) s = .next { ((s.elapse dt).flsHeat ta tb) with pending := s.pending }) ∧
      (∀ (dt : Nat) (n : Fin 16), exec (.diagWindowEnd dt n) s = .next { ((s.elapse dt).diagEnd n) with pending := s.pending }) ∧
      (∀ (dt : Nat), exec (.flsStatusPost dt) s = .next { ((s.elapse dt).flsPost) with pending := s.pending })) ∧
    (s.pwr.held = false → 
      (∀ (dt : Nat) (high : Bool), exec (.blankPin dt high) s = .next { ((s.elapse dt).blankPin high) with pending := s.pending }))

/-- Fault, lease, alarm and counter commands complete. Each event of lockstep, leases, known-answer checks, alarms and counters completes with the effect its rule gives, after its time has passed, whenever the main islands are awake. Constructors: mismatch, selfTestVerdict, recoveryResume, leaseRenewal, leaseExpiry, coreRetest, ctest, comparatorTest, vecKnownAnswer, cmpKnownAnswer, hkcRefCheck, timeCrossCheck, alarmSummaryPost, alarmTokenRefill, criticalBufferDrain, counterSnapshot, snapatWrite, staleCheck. -/
def Obligations.FaultCommandsComplete : Prop :=
  ∀ s : State,
    (s.awake = true → 
      (∀ (dt : Nat), exec (.mismatch dt) s = .next { ((s.elapse dt).mismatch) with pending := s.pending }) ∧
      (∀ (dt : Nat) (a : Bool) (b : Bool), exec (.selfTestVerdict dt a b) s = .next { ((s.elapse dt).selfTest a b) with pending := s.pending }) ∧
      (∀ (dt : Nat), exec (.recoveryResume dt) s = .next { ((s.elapse dt).resume) with pending := s.pending }) ∧
      (∀ (dt : Nat), exec (.leaseRenewal dt) s = .next { ((s.elapse dt).leaseRenew) with pending := s.pending }) ∧
      (∀ (dt : Nat), exec (.leaseExpiry dt) s = .next { ((s.elapse dt).leaseExpire) with pending := s.pending }) ∧
      (∀ (dt : Nat) (pass : Bool), exec (.coreRetest dt pass) s = .next { ((s.elapse dt).coreRetest pass) with pending := s.pending }) ∧
      (∀ (dt : Nat) (ok : Bool), exec (.comparatorTest dt ok) s = .next { ((s.elapse dt).comparatorTest ok) with pending := s.pending }) ∧
      (∀ (dt : Nat) (ok : Bool), exec (.vecKnownAnswer dt ok) s = .next { ((s.elapse dt).vecTest ok) with pending := s.pending }) ∧
      (∀ (dt : Nat) (l : Fin 4) (ok : Bool), exec (.cmpKnownAnswer dt l ok) s = .next { ((s.elapse dt).cmpTest l ok) with pending := s.pending }) ∧
      (∀ (dt : Nat) (z : Int) (r : Int), exec (.hkcRefCheck dt z r) s = .next { ((s.elapse dt).hkRefCheck z r) with pending := s.pending }) ∧
      (∀ (dt : Nat) (p : Fin 8) (diff : Int), exec (.timeCrossCheck dt p diff) s = .next { ((s.elapse dt).timeCheck p diff) with pending := s.pending }) ∧
      (∀ (dt : Nat), exec (.alarmSummaryPost dt) s = .next { ((s.elapse dt).summaryPost) with pending := s.pending }) ∧
      (∀ (dt : Nat) (c : Fin 4), exec (.alarmTokenRefill dt c) s = .next { ((s.elapse dt).tokenRefill c) with pending := s.pending }) ∧
      (∀ (dt : Nat), exec (.criticalBufferDrain dt) s = .next { ((s.elapse dt).critDrain) with pending := s.pending }) ∧
      (∀ (dt : Nat), exec (.counterSnapshot dt) s = .next { ((s.elapse dt).counterSnap) with pending := s.pending }) ∧
      (∀ (dt : Nat), exec (.staleCheck dt) s = .next { ((s.elapse dt).staleCheck) with pending := s.pending })) ∧
    (s.awake = true → 
      (∀ (v : Word), exec (.ctest v) s = .next { (s.writeCsr 0 true FLT_CTL v) with pending := s.pending }) ∧
      (∀ (v : Word), exec (.snapatWrite v) s = .next { (s.writeCsr 0 true CNT_SNAPAT_HI v) with pending := s.pending }))

/-- Security, power and start-up events complete. Each event of the seal, jumper, generator, moult, supplies, reset and cocoon completes with the effect its rule gives, after its time has passed, whenever the main islands are awake, and the module is not held in reset (SAFE island and pins). Constructors: sealBreak, sealClose, lcjChange, rngRead, rngHealthFail, moultLoadDone, moultCkptTimeout, coldStart, powerGood, brownOut, railFault, resetNAssert, resetRelease, startupComplete, cocoonEntryDone, mboxcmd, wakeatExpiry, emergenceDone. -/
def Obligations.SecurityAndPowerComplete : Prop :=
  ∀ s : State,
    (∀ (dt : Nat), exec (.sealBreak dt) s = .next { ((s.elapse dt).sealBreak) with pending := s.pending }) ∧
      (∀ (dt : Nat), exec (.sealClose dt) s = .next { ((s.elapse dt).sealClose) with pending := s.pending }) ∧
      (∀ (dt : Nat) (main : Bool) (ka : Bool), exec (.coldStart dt main ka) s = .next { ((s.elapse dt).coldStart main ka) with pending := s.pending }) ∧
      (∀ (dt : Nat) (absent : Bool), exec (.powerGood dt absent) s = .next { ((s.elapse dt).powerGood absent) with pending := s.pending }) ∧
      (∀ (dt : Nat), exec (.brownOut dt) s = .next { ((s.elapse dt).brownOut) with pending := s.pending }) ∧
      (∀ (dt : Nat), exec (.resetNAssert dt) s = .next { ((s.elapse dt).resetNLow) with pending := s.pending }) ∧
      (∀ (dt : Nat) (profsel : Fin 4), exec (.resetRelease dt profsel) s = .next { ((s.elapse dt).resetRelease profsel) with pending := s.pending }) ∧
    (s.pwr.held = false → 
      (∀ (dt : Nat) (fitted : Bool), exec (.lcjChange dt fitted) s = .next { ((s.elapse dt).lcjChange fitted) with pending := s.pending }) ∧
      (∀ (dt : Nat), exec (.rngHealthFail dt) s = .next { ((s.elapse dt).rngFail) with pending := s.pending }) ∧
      (∀ (dt : Nat) (cal : List (Nat × Nat)) (phase : Word) (res : List TrnResult), exec (.startupComplete dt cal phase res) s = .next { ((s.elapse dt).startDone cal phase res) with pending := s.pending }) ∧
      (∀ (dt : Nat), exec (.cocoonEntryDone dt) s = .next { ((s.elapse dt).cocoonDone) with pending := s.pending }) ∧
      (∀ (dt : Nat), exec (.wakeatExpiry dt) s = .next { ((s.elapse dt).wakeExpire) with pending := s.pending }) ∧
      (∀ (dt : Nat) (phase : Word) (rows : List (Nat × Nat × Nat × Nat)) (temps : List Nat) (res : List TrnResult), exec (.emergenceDone dt phase rows temps res) s = .next { ((s.elapse dt).emergeDone phase rows temps res) with pending := s.pending })) ∧
    (∀ (who : Fin 2), s.reaches who SEC_RNG = true → exec (.rngRead who) s = .next { (s.rngRead who) with pending := s.pending }) ∧
    (s.awake = true → 
      (∀ (dt : Nat) (ok : Bool), exec (.moultLoadDone dt ok) s = .next { ((s.elapse dt).moultLoaded ok) with pending := s.pending }) ∧
      (∀ (dt : Nat), exec (.moultCkptTimeout dt) s = .next { ((s.elapse dt).moultTimeout) with pending := s.pending }) ∧
      (∀ (dt : Nat) (chan : Fin 64), exec (.railFault dt chan) s = .next { ((s.elapse dt).railFault chan) with pending := s.pending })) ∧
    (s.pwr.held = false → 
      (∀ (v : Word), exec (.mboxcmd v) s = .next { (s.mboxWrite v) with pending := s.pending }))

/-- Service SPI operations complete. Each operation of the service SPI port and the debug window completes with the effect its rule gives, after its time has passed, whenever the main islands are awake, and the module is not held in reset (SAFE island and pins). Constructors: spiNop, csrrd, csrwr, memrd, memwr, spiPost, spiTake, dbgLock, debugOpenExpiry. -/
def Obligations.ServicePortComplete : Prop :=
  ∀ s : State,
    (s.pwr.held = false → 
      (∀ (dt : Nat) (op : Nat) (len : Nat) (addr : Nat) (chk : Nat), exec (.spiNop dt op len addr chk) s = .next { ((s.elapse dt).spiOp op { len := len, addr := addr, payload := [], chk := chk } (op == 0 && len == 0 && addr == 0) true State.spiNop) with pending := s.pending }) ∧
      (∀ (dt : Nat) (len : Nat) (addr : Nat) (chk : Nat), exec (.csrrd dt len addr chk) s = .next { ((s.elapse dt).spiOp 0x01 { len := len, addr := addr, payload := [], chk := chk } (decide (1 ≤ len) && decide (len ≤ 64) && addr % 4 == 0 && decide (addr < csrEnd)) true (·.spiCsrrd len addr)) with pending := s.pending }) ∧
      (∀ (dt : Nat) (len : Nat) (addr : Nat) (v : Nat) (chk : Nat), exec (.csrwr dt len addr v chk) s = .next { ((s.elapse dt).spiOp 0x02 { len := len, addr := addr, payload := bytesOf 4 v, chk := chk } (len == 1 && addr % 4 == 0 && decide (addr < csrEnd)) true (·.spiCsrwr addr v)) with pending := s.pending }) ∧
      (∀ (dt : Nat) (len : Nat) (addr : Nat) (chk : Nat), exec (.memrd dt len addr chk) s = .next { ((s.elapse dt).spiOp 0x03 { len := len, addr := addr, payload := [], chk := chk } (decide (1 ≤ len) && decide (len ≤ 512) && addr % 8 == 0) false (·.spiMemrd len addr)) with pending := s.pending }) ∧
      (∀ (dt : Nat) (len : Nat) (addr : Nat) (words : List Nat) (chk : Nat), exec (.memwr dt len addr words chk) s = .next { ((s.elapse dt).spiOp 0x04 { len := len, addr := addr, payload := words.flatMap (bytesOf 8), chk := chk } (decide (1 ≤ len) && decide (len ≤ 512) && words.length == len && addr % 8 == 0) false (·.spiMemwr len addr words)) with pending := s.pending }) ∧
      (∀ (dt : Nat) (len : Nat) (addr : Nat) (words : List Nat) (chk : Nat), exec (.spiPost dt len addr words chk) s = .next { ((s.elapse dt).spiOp 0x10 { len := len, addr := addr, payload := words.flatMap (bytesOf 8), chk := chk } (len == 0 && addr == 0 && words.length == 4) false (·.spiPost words)) with pending := s.pending }) ∧
      (∀ (dt : Nat) (len : Nat) (addr : Nat) (chk : Nat) (whole : Bool), exec (.spiTake dt len addr chk whole) s = .next { ((s.elapse dt).spiOp 0x11 { len := len, addr := addr, payload := [], chk := chk } (len == 0 && addr == 0) false (·.spiTake whole)) with pending := s.pending }) ∧
      (∀ (dt : Nat), exec (.debugOpenExpiry dt) s = .next { ((s.elapse dt).dbgExpire) with pending := s.pending })) ∧
    (s.awake = true → 
      (∀ (v : Word), exec (.dbgLock v) s = .next { (s.writeCsr 0 true DBG_CTL v) with pending := s.pending }))

/-- Queue registers and module-level events complete. Each queue register write and each remaining event of links, start-up, scrubbing and checks completes with the effect its rule gives, after its time has passed, whenever the main islands are awake, and the island is clocked (FAB, FEL), and the module is not held in reset (SAFE island and pins). Constructors: queEnable, queHeadWrite, feSuperframe, ingressFifoDrained, tdcCalibrationDone, imageSlotWriteDone, profileWriteDone, lifeCycleWipeDone, startUpFailure, startUpProfileLoaded, sramScrub, configurationParityError, supervisorFault, baseplateTemperatureCheck, ka3v3Change, rngfailClear, diagnosticPulse, ptpLockChange, ethernetFrameDiscarded, tapOperation. -/
def Obligations.ModuleEventsComplete : Prop :=
  ∀ s : State,
    (s.awake = true → 
      (∀ (n : Fin 128) (v : Word), exec (.queEnable n v) s = .next { (s.writeCsr 0 true (QUE_CFG n) v) with pending := s.pending }) ∧
      (∀ (n : Fin 128) (v : Word), exec (.queHeadWrite n v) s = .next { (s.writeCsr 0 true (QUE_HEAD n) v) with pending := s.pending })) ∧
    (s.awake = true → s.islandIdle 5 = false → 
      (∀ (dt : Nat), exec (.feSuperframe dt) s = .next { ((s.elapse dt).superframe) with pending := s.pending }) ∧
      (∀ (dt : Nat) (l : Fin 64), exec (.ingressFifoDrained dt l) s = .next { ((s.elapse dt).fifoDrained l) with pending := s.pending })) ∧
    (s.awake = true → 
      (∀ (dt : Nat) (u : Fin 8) (lsb : Nat) (dnl : Nat), exec (.tdcCalibrationDone dt u lsb dnl) s = .next { ((s.elapse dt).tdcCalDone u lsb dnl) with pending := s.pending }) ∧
      (∀ (dt : Nat) (sigOk : Bool) (hashOk : Bool), exec (.imageSlotWriteDone dt sigOk hashOk) s = .next { ((s.elapse dt).slotDone sigOk hashOk) with pending := s.pending }) ∧
      (∀ (dt : Nat), exec (.profileWriteDone dt) s = .next { ((s.elapse dt).profDone) with pending := s.pending }) ∧
      (∀ (dt : Nat) (mem : Fin 6) (a : Nat) (double : Bool), exec (.sramScrub dt mem a double) s = .next { ((s.elapse dt).sramScrub mem a double) with pending := s.pending }) ∧
      (∀ (dt : Nat) (island : Fin 12), exec (.configurationParityError dt island) s = .next { ((s.elapse dt).parityError island) with pending := s.pending }) ∧
      (∀ (dt : Nat) (n : Fin 16), exec (.diagnosticPulse dt n) s = .next { ((s.elapse dt).diagPulse n) with pending := s.pending }) ∧
      (∀ (dt : Nat) (ok : Bool), exec (.ptpLockChange dt ok) s = .next { ((s.elapse dt).ptpLock ok) with pending := s.pending })) ∧
    (∀ (dt : Nat), exec (.lifeCycleWipeDone dt) s = .next { ((s.elapse dt).wipeDone) with pending := s.pending }) ∧
      (∀ (dt : Nat) (ok : Bool), exec (.ka3v3Change dt ok) s = .next { ((s.elapse dt).kaChange ok) with pending := s.pending }) ∧
      (∀ (dt : Nat) (ir : Fin 8) (din : Nat), exec (.tapOperation dt ir din) s = .next { ((s.elapse dt).tapScan ir din) with pending := s.pending }) ∧
    (s.pwr.held = false → 
      (∀ (dt : Nat) (kind : Fin 7), exec (.startUpFailure dt kind) s = .next { ((s.elapse dt).startFail kind) with pending := s.pending }) ∧
      (∀ (dt : Nat) (bad : Nat), exec (.startUpProfileLoaded dt bad) s = .next { ((s.elapse dt).startProfile bad) with pending := s.pending }) ∧
      (∀ (dt : Nat), exec (.supervisorFault dt) s = .next { ((s.elapse dt).supervisorFault) with pending := s.pending }) ∧
      (∀ (dt : Nat) (temp : Int), exec (.baseplateTemperatureCheck dt temp) s = .next { ((s.elapse dt).baseplate temp) with pending := s.pending }) ∧
      (∀ (dt : Nat), exec (.rngfailClear dt) s = .next { ((s.elapse dt).rngClear) with pending := s.pending })) ∧
    (s.awake = true → s.islandIdle 7 = false → 
      (∀ (dt : Nat) (p : Fin 8), exec (.ethernetFrameDiscarded dt p) s = .next { ((s.elapse dt).ethOther p) with pending := s.pending }))

/-- While the main islands sleep, or an island has no clock, its events only let time pass. Before release from reset, asleep in COCOON and while emerging, every event of the main islands but those of the clock tree leaves the state as it was but for time and the counters that count it, and those of the PLLs and the reference do so held in reset and in the HOLD of a clock fault; the same holds of the events of CHAN, VEC, FEL, EVT, FAB and CMP while their island is on the SAFE clock or stopped by CLK.GATE. That the waiting event is then given up for this command, rather than kept, is the model's form (log entry 45). -/
def Obligations.WaitingIslands : Prop :=
  ∀ (s : State) (dt : Nat),
    let waits (c : Instr) : Prop := exec c s = .next (s.elapse dt)
    (s.awake = false →
      (waits (.commitPoint dt)) ∧
      (∀ (locked : Bool), waits (.mselHop dt locked)) ∧
      (waits (.waitResume dt)) ∧
      (∀ (k : Fin 16), waits (.timedAction dt k)) ∧
      (∀ (q : Fin 128), waits (.postStallEnd dt q)) ∧
      (waits (.fenceResume dt)) ∧
      (waits (.csrtimeout dt)) ∧
      (waits (.idleWake dt)) ∧
      (waits (.feSuperframe dt)) ∧
      (∀ (l : Fin 64), waits (.ingressFifoDrained dt l)) ∧
      (∀ (island : Fin 12), waits (.csrAcknowledge dt island)) ∧
      (∀ (u : Fin 8) (lsb : Nat) (dnl : Nat), waits (.tdcCalibrationDone dt u lsb dnl)) ∧
      (∀ (sigOk : Bool) (hashOk : Bool), waits (.imageSlotWriteDone dt sigOk hashOk)) ∧
      (waits (.profileWriteDone dt)) ∧
      (∀ (mem : Fin 6) (a : Nat) (double : Bool), waits (.sramScrub dt mem a double)) ∧
      (∀ (island : Fin 12), waits (.configurationParityError dt island)) ∧
      (∀ (n : Fin 16), waits (.diagnosticPulse dt n)) ∧
      (∀ (ok : Bool), waits (.ptpLockChange dt ok)) ∧
      (∀ (p : Fin 8), waits (.ethernetFrameDiscarded dt p)) ∧
      (waits (.evbWindowClose dt)) ∧
      (waits (.localStragglerPost dt)) ∧
      (∀ (l : Fin 64), waits (.evbHeadAdvance dt l)) ∧
      (∀ (dev : Fin 1024) (c : Fin 4) (stamp : Nat) (cid : Nat), waits (.cand dt dev c stamp cid)) ∧
      (waits (.deciderDecide dt)) ∧
      (∀ (c : Fin 4) (epoch : Nat) (cid : Nat) (stamp : Nat) (num : Nat), waits (.accept dt c epoch cid stamp num)) ∧
      (∀ (c : Fin 4) (cid : Nat), waits (.reject dt c cid)) ∧
      (waits (.candTimeout dt)) ∧
      (∀ (epoch : Nat) (num : Nat) (stamp : Nat) (devs : List Nat), waits (.build dt epoch num stamp devs)) ∧
      (∀ (dev : Fin 1024) (busy : Bool), waits (.busy dt dev busy)) ∧
      (∀ (bnum : Fin 4) (bepoch : Nat) (units : Nat), waits (.grant dt bnum bepoch units)) ∧
      (∀ (bnum : Fin 4) (bepoch : Nat) (units : Nat) (fseq : Nat), waits (.credit dt bnum bepoch units fseq)) ∧
      (waits (.fragmentSend dt)) ∧
      (∀ (words : List Nat), waits (.fragmentReceive dt words)) ∧
      (waits (.eventCloseTimeout dt)) ∧
      (∀ (p : Fin 8) (sfd : Bool) (f : Frame) (done : Bool), waits (.fabricFrame dt p sfd f done)) ∧
      (∀ (p : Fin 8) (f : Frame), waits (.pher dt p f)) ∧
      (∀ (p : Fin 8), waits (.pherSend dt p)) ∧
      (∀ (p : Fin 8), waits (.peerDead dt p)) ∧
      (∀ (p : Fin 8) (signal : Bool) (lock : Bool), waits (.fabPortLock dt p signal lock)) ∧
      (∀ (p : Fin 8), waits (.fabPortTimeout dt p)) ∧
      (∀ (p : Fin 8) (f : Frame) (done : Bool), waits (.lsa dt p f done)) ∧
      (waits (.lsaRefresh dt)) ∧
      (∀ (dev : Fin 1024), waits (.lsaMaxage dt dev)) ∧
      (waits (.idClaimDone dt)) ∧
      (∀ (p : Fin 8) (w : Nat), waits (.lcred dt p w)) ∧
      (∀ (p : Fin 8), waits (.lcredSend dt p)) ∧
      (∀ (p : Fin 8), waits (.fabSend dt p)) ∧
      (∀ (t : Fin 8), waits (.fwdTapSend dt t)) ∧
      (waits (.reassemblyTimeout dt)) ∧
      (∀ (r : Fin 6) (dev : Fin 1024) (epoch : Nat) (prio : Nat) (stamp : Nat) (serial : Nat), waits (.rann dt r dev epoch prio stamp serial)) ∧
      (∀ (r : Fin 6), waits (.rannRenew dt r)) ∧
      (∀ (r : Fin 6) (dev : Fin 1024) (epoch : Nat) (prio : Nat) (stamp : Nat) (serial : Nat), waits (.rreq dt r dev epoch prio stamp serial)) ∧
      (∀ (r : Fin 6) (dev : Fin 1024) (epoch : Nat) (prio : Nat) (stamp : Nat), waits (.rrel dt r dev epoch prio stamp)) ∧
      (∀ (r : Fin 6), waits (.roleLapse dt r)) ∧
      (∀ (r : Fin 6), waits (.roleRequestWaitEnd dt r)) ∧
      (∀ (p : Fin 8) (dseq : Nat) (sack : Nat), waits (.ethAck dt p dseq sack)) ∧
      (∀ (p : Fin 8), waits (.ethSyncTimeout dt p)) ∧
      (∀ (p : Fin 8), waits (.ethRetransmit dt p)) ∧
      (∀ (p : Fin 8), waits (.ethPieceSend dt p)) ∧
      (∀ (p : Fin 8) (ip : Nat) (port : Nat) (f : Frame), waits (.ethMgmtDatagram dt p ip port f)) ∧
      (∀ (p : Fin 8) (reply : Bool) (target : Nat) (sender : Nat), waits (.ethArp dt p reply target sender)) ∧
      (∀ (p : Fin 8) (solicit : Bool) (target : Nat) (sender : Nat), waits (.ethNd dt p solicit target sender)) ∧
      (∀ (p : Fin 8) (v6 : Bool) (target : Nat) (sender : Nat) (data : List Nat), waits (.ethEcho dt p v6 target sender data)) ∧
      (∀ (v6 : Bool) (domain : Nat) (m : PtpMsg), waits (.ptpMessage dt v6 domain m)) ∧
      (∀ (l : Fin 64) (headers : List Nat), waits (.feBlockLock dt l headers)) ∧
      (∀ (l : Fin 64) (opened : Bool) (headers : List Nat), waits (.feLockLoss dt l opened headers)) ∧
      (∀ (l : Fin 64) (payload : Nat), waits (.feHello dt l payload)) ∧
      (∀ (l : Fin 64), waits (.feStateTimeout dt l)) ∧
      (∀ (l : Fin 64), waits (.feRetry dt l)) ∧
      (∀ (l : Fin 64), waits (.bcresetAct dt l)) ∧
      (∀ (l : Fin 64) (payload : Nat), waits (.scrsp dt l payload)) ∧
      (waits (.scTimeout dt)) ∧
      (∀ (l : Fin 64) (fill : Nat) (blocks : List (Nat × Nat)), waits (.hitFrame dt l fill blocks)) ∧
      (∀ (l : Fin 64) (payload : Nat), waits (.feStatusBlock dt l payload)) ∧
      (∀ (l : Fin 64) (arg : Nat) (n : Nat), waits (.echo dt l arg n)) ∧
      (waits (.patrolStart dt)) ∧
      (∀ (l : Fin 64), waits (.patrolDone dt l)) ∧
      (waits (.zsDecide dt)) ∧
      (∀ (l : Fin 64), waits (.hitBlockTmo dt l)) ∧
      (∀ (n : Fin 16), waits (.flashTurnOn dt n)) ∧
      (∀ (n : Fin 16), waits (.flashTurnOff dt n)) ∧
      (∀ (n : Fin 16) (reg : Bool) (pct : Nat) (sink : Nat), waits (.flashCheck dt n reg pct sink)) ∧
      (∀ (n : Fin 16), waits (.dimSlot dt n)) ∧
      (∀ (vin : Nat), waits (.flvAdapt dt vin)) ∧
      (∀ (mw : Nat), waits (.flsPowerCheck dt mw)) ∧
      (∀ (ta : Int) (tb : Int), waits (.flsDerate dt ta tb)) ∧
      (∀ (n : Fin 16), waits (.diagWindowEnd dt n)) ∧
      (waits (.flsStatusPost dt)) ∧
      (waits (.mismatch dt)) ∧
      (∀ (a : Bool) (b : Bool), waits (.selfTestVerdict dt a b)) ∧
      (waits (.recoveryResume dt)) ∧
      (waits (.leaseRenewal dt)) ∧
      (waits (.leaseExpiry dt)) ∧
      (∀ (pass : Bool), waits (.coreRetest dt pass)) ∧
      (∀ (ok : Bool), waits (.comparatorTest dt ok)) ∧
      (∀ (ok : Bool), waits (.vecKnownAnswer dt ok)) ∧
      (∀ (l : Fin 4) (ok : Bool), waits (.cmpKnownAnswer dt l ok)) ∧
      (∀ (z : Int) (r : Int), waits (.hkcRefCheck dt z r)) ∧
      (∀ (p : Fin 8) (diff : Int), waits (.timeCrossCheck dt p diff)) ∧
      (waits (.alarmSummaryPost dt)) ∧
      (∀ (c : Fin 4), waits (.alarmTokenRefill dt c)) ∧
      (waits (.criticalBufferDrain dt)) ∧
      (waits (.counterSnapshot dt)) ∧
      (waits (.staleCheck dt)) ∧
      (waits (.hkcTimer dt)) ∧
      (waits (.hkcStartDelayEnd dt)) ∧
      (∀ (d : Int) (ovr : Bool) (openFail : Bool), waits (.hkcConversionDone dt d ovr openFail)) ∧
      (∀ (d : Int) (ovr : Bool) (opened : Bool), waits (.hkcAuxConversion dt d ovr opened)) ∧
      (waits (.armStartReached dt)) ∧
      (waits (.armEndReached dt)) ∧
      (waits (.gateStopInsert dt)) ∧
      (waits (.launch dt)) ∧
      (∀ (n : Nat), waits (.launchMonitorEdge dt n)) ∧
      (waits (.launchMonitorMiss dt)) ∧
      (∀ (xs : List Adc), waits (.captureWindowClose dt xs)) ∧
      (waits (.laserLockGain dt)) ∧
      (waits (.laserLockLoss dt)) ∧
      (∀ (xs : List Adc), waits (.openPortDecision dt xs)) ∧
      (waits (.portSwitchMove dt)) ∧
      (waits (.portSettled dt)) ∧
      (∀ (k : Fin 16), waits (.mfGenDone dt k)) ∧
      (∀ (filt : Fin 18), waits (.swapCopyDone dt filt)) ∧
      (∀ (filt : Fin 18), waits (.fadeEnd dt filt)) ∧
      (∀ (xs : List Adc), waits (.framePublish dt xs)) ∧
      (waits (.sentinelWindowEnd dt)) ∧
      (waits (.bandSearchStart dt)) ∧
      (∀ (band : Nat) (amp : Nat), waits (.bandSearchDone dt band amp)) ∧
      (waits (.dtsHopStart dt)) ∧
      (waits (.dtsHopEnd dt)) ∧
      (waits (.dtsLaunchJob dt)) ∧
      (waits (.dtsProfilePost dt)) ∧
      (waits (.memAdmissionTick dt)) ∧
      (∀ (n : Fin 4), waits (.memRefresh dt n)) ∧
      (∀ (n : Fin 4) (new : List (Nat × Nat × Bool)) (err : Fin 3), waits (.memRequestServe dt n new err)) ∧
      (∀ (err : Fin 3), waits (.scrubStep dt err)) ∧
      (∀ (reads : List (List (Nat × Nat))) (fin : Option TrnResult), waits (.trnGatherDone dt reads fin)) ∧
      (∀ (n : Fin 4) (temp : Nat), waits (.dramTempDrift dt n temp)) ∧
      (waits (.cmpLaneTake dt)) ∧
      (∀ (l : Fin 4) (codes : List (List (List Nat × List Nat))) (spoilt : List (Nat × List Nat × Nat)), waits (.cmpOutputPublish dt l codes spoilt)) ∧
      (∀ (l : Fin 4), waits (.cmpChainWaitExpiry dt l)) ∧
      (∀ (l : Fin 4), waits (.decompressJob dt l)) ∧
      (∀ (ok : Bool), waits (.moultLoadDone dt ok)) ∧
      (waits (.moultCkptTimeout dt)) ∧
      (∀ (chan : Fin 64), waits (.railFault dt chan)) ∧
      (∀ (p : Fin 8) (xseq : Nat) (rxseq : Nat) (txprev : Nat) (rxlast : Nat) (peerState : Fin 4) (rootHold : Bool) (hops : Fin 32) (rootDev : Fin 1024) (rootEpoch : Nat), waits (.timex dt p xseq rxseq txprev rxlast peerState rootHold hops rootDev rootEpoch)) ∧
      (∀ (p : Fin 8), waits (.timexSend dt p)) ∧
      (waits (.parentExchangeLoss dt)) ∧
      (waits (.lockedTimer dt)) ∧
      (∀ (present : Bool), waits (.ppsEdge dt present)) ∧
      (∀ (n : Nat), waits (.ref10mChange dt n)) ∧
      (waits (.rootSecondBoundary dt)) ∧
      (∀ (p : Fin 8), waits (.asyUpdate dt p)) ∧
      (∀ (p : Fin 8), waits (.asySlew dt p)) ∧
      (∀ (dev : Fin 1024) (sense : Fin 4) (first : Nat) (last : Nat) (tref : Int), waits (.tsub dt dev sense first last tref)) ∧
      (∀ (sense : Fin 4) (dev : Fin 1024) (last : Nat) (integral : Int) (pm : Nat), waits (.tint dt sense dev last integral pm)) ∧
      (∀ (p : Fin 8), waits (.profileAgeExpiry dt p)) ∧
      (∀ (u : Fin 8) (src : Fin 4) (n : Nat), waits (.tdcEdge dt u src n)) ∧
      (∀ (u : Fin 8), waits (.tdcTimeout dt u)) ∧
      (∀ (u : Fin 8), waits (.tdcDeadTimeEnd dt u)) ∧
      (∀ (u : Fin 8) (lsb : Nat) (ok : Bool), waits (.tdcRingCheck dt u lsb ok)) ∧
      (∀ (k : Fin 16), waits (.condSample dt k)) ∧
      (∀ (k : Fin 16), waits (.condTimeout dt k)) ∧
      (∀ (i : Fin 4) (rising : Bool) (short : Bool) (n : Nat), waits (.trigInEdge dt i rising short n)) ∧
      (∀ (p : Fin 8), waits (.hpHitTake dt p)) ∧
      (∀ (p : Fin 8), waits (.hpHitExpire dt p)) ∧
      (∀ (c : Fin 4), waits (.classDecide dt c)) ∧
      (∀ (c : Fin 4), waits (.segmentCopy dt c)) ∧
      (∀ (c : Fin 4), waits (.segmentStreamPart dt c)) ∧
      (∀ (i : Fin 4), waits (.trigOutEdge dt i)) ∧
      (∀ (i : Fin 4), waits (.trigOutPulseEnd dt i)) ∧
      (waits (.vecJobStart dt)) ∧
      (∀ (cycles : Nat), waits (.vecJobDone dt cycles)) ∧
      (waits (.vecCycleLimit dt))) ∧
    (s.pwr.held = true ∨ s.safeOnly = true →
      (∀ (pll : Fin 5), waits (.pllUnlock dt pll)) ∧
      (∀ (pll : Fin 5) (band : Nat) (amp : Nat) (phase : Word) (rows : List (Nat × Nat × Nat × Nat)) (temps : List Nat), waits (.pllRelock dt pll band amp phase rows temps)) ∧
      (waits (.synSLockTimeout dt)) ∧
      (∀ (pll : Fin 5), waits (.pllRetryAlarm dt pll)) ∧
      (waits (.refCountFail dt))) ∧
    (s.islandIdle 5 = true →
      (waits (.feSuperframe dt)) ∧
      (∀ (l : Fin 64), waits (.ingressFifoDrained dt l)) ∧
      (∀ (l : Fin 64) (headers : List Nat), waits (.feBlockLock dt l headers)) ∧
      (∀ (l : Fin 64) (opened : Bool) (headers : List Nat), waits (.feLockLoss dt l opened headers)) ∧
      (∀ (l : Fin 64) (payload : Nat), waits (.feHello dt l payload)) ∧
      (∀ (l : Fin 64), waits (.feStateTimeout dt l)) ∧
      (∀ (l : Fin 64), waits (.feRetry dt l)) ∧
      (∀ (l : Fin 64), waits (.bcresetAct dt l)) ∧
      (∀ (l : Fin 64) (payload : Nat), waits (.scrsp dt l payload)) ∧
      (waits (.scTimeout dt)) ∧
      (∀ (l : Fin 64) (fill : Nat) (blocks : List (Nat × Nat)), waits (.hitFrame dt l fill blocks)) ∧
      (∀ (l : Fin 64) (payload : Nat), waits (.feStatusBlock dt l payload)) ∧
      (∀ (l : Fin 64) (arg : Nat) (n : Nat), waits (.echo dt l arg n)) ∧
      (waits (.patrolStart dt)) ∧
      (∀ (l : Fin 64), waits (.patrolDone dt l))) ∧
    (s.islandIdle 7 = true →
      (∀ (p : Fin 8), waits (.ethernetFrameDiscarded dt p)) ∧
      (∀ (p : Fin 8) (sfd : Bool) (f : Frame) (done : Bool), waits (.fabricFrame dt p sfd f done)) ∧
      (∀ (p : Fin 8) (f : Frame), waits (.pher dt p f)) ∧
      (∀ (p : Fin 8), waits (.pherSend dt p)) ∧
      (∀ (p : Fin 8), waits (.peerDead dt p)) ∧
      (∀ (p : Fin 8) (signal : Bool) (lock : Bool), waits (.fabPortLock dt p signal lock)) ∧
      (∀ (p : Fin 8), waits (.fabPortTimeout dt p)) ∧
      (∀ (p : Fin 8) (f : Frame) (done : Bool), waits (.lsa dt p f done)) ∧
      (waits (.lsaRefresh dt)) ∧
      (∀ (dev : Fin 1024), waits (.lsaMaxage dt dev)) ∧
      (waits (.idClaimDone dt)) ∧
      (∀ (p : Fin 8) (w : Nat), waits (.lcred dt p w)) ∧
      (∀ (p : Fin 8), waits (.lcredSend dt p)) ∧
      (∀ (p : Fin 8), waits (.fabSend dt p)) ∧
      (∀ (t : Fin 8), waits (.fwdTapSend dt t)) ∧
      (waits (.reassemblyTimeout dt)) ∧
      (∀ (r : Fin 6) (dev : Fin 1024) (epoch : Nat) (prio : Nat) (stamp : Nat) (serial : Nat), waits (.rann dt r dev epoch prio stamp serial)) ∧
      (∀ (r : Fin 6), waits (.rannRenew dt r)) ∧
      (∀ (r : Fin 6) (dev : Fin 1024) (epoch : Nat) (prio : Nat) (stamp : Nat) (serial : Nat), waits (.rreq dt r dev epoch prio stamp serial)) ∧
      (∀ (r : Fin 6) (dev : Fin 1024) (epoch : Nat) (prio : Nat) (stamp : Nat), waits (.rrel dt r dev epoch prio stamp)) ∧
      (∀ (p : Fin 8) (dseq : Nat) (sack : Nat), waits (.ethAck dt p dseq sack)) ∧
      (∀ (p : Fin 8), waits (.ethSyncTimeout dt p)) ∧
      (∀ (p : Fin 8), waits (.ethRetransmit dt p)) ∧
      (∀ (p : Fin 8), waits (.ethPieceSend dt p)) ∧
      (∀ (p : Fin 8) (ip : Nat) (port : Nat) (f : Frame), waits (.ethMgmtDatagram dt p ip port f)) ∧
      (∀ (p : Fin 8) (reply : Bool) (target : Nat) (sender : Nat), waits (.ethArp dt p reply target sender)) ∧
      (∀ (p : Fin 8) (solicit : Bool) (target : Nat) (sender : Nat), waits (.ethNd dt p solicit target sender)) ∧
      (∀ (p : Fin 8) (v6 : Bool) (target : Nat) (sender : Nat) (data : List Nat), waits (.ethEcho dt p v6 target sender data)) ∧
      (∀ (v6 : Bool) (domain : Nat) (m : PtpMsg), waits (.ptpMessage dt v6 domain m))) ∧
    (s.islandIdle 6 = true →
      (waits (.evbWindowClose dt)) ∧
      (waits (.localStragglerPost dt)) ∧
      (∀ (l : Fin 64), waits (.evbHeadAdvance dt l)) ∧
      (∀ (dev : Fin 1024) (c : Fin 4) (stamp : Nat) (cid : Nat), waits (.cand dt dev c stamp cid)) ∧
      (waits (.deciderDecide dt)) ∧
      (∀ (c : Fin 4) (epoch : Nat) (cid : Nat) (stamp : Nat) (num : Nat), waits (.accept dt c epoch cid stamp num)) ∧
      (∀ (c : Fin 4) (cid : Nat), waits (.reject dt c cid)) ∧
      (waits (.candTimeout dt)) ∧
      (∀ (epoch : Nat) (num : Nat) (stamp : Nat) (devs : List Nat), waits (.build dt epoch num stamp devs)) ∧
      (∀ (dev : Fin 1024) (busy : Bool), waits (.busy dt dev busy)) ∧
      (∀ (bnum : Fin 4) (bepoch : Nat) (units : Nat), waits (.grant dt bnum bepoch units)) ∧
      (∀ (bnum : Fin 4) (bepoch : Nat) (units : Nat) (fseq : Nat), waits (.credit dt bnum bepoch units fseq)) ∧
      (waits (.fragmentSend dt)) ∧
      (∀ (words : List Nat), waits (.fragmentReceive dt words)) ∧
      (waits (.eventCloseTimeout dt)) ∧
      (waits (.zsDecide dt)) ∧
      (∀ (l : Fin 64), waits (.hitBlockTmo dt l)) ∧
      (∀ (k : Fin 16), waits (.condSample dt k)) ∧
      (∀ (k : Fin 16), waits (.condTimeout dt k)) ∧
      (∀ (p : Fin 8), waits (.hpHitTake dt p)) ∧
      (∀ (p : Fin 8), waits (.hpHitExpire dt p)) ∧
      (∀ (c : Fin 4), waits (.classDecide dt c)) ∧
      (∀ (c : Fin 4), waits (.segmentCopy dt c)) ∧
      (∀ (c : Fin 4), waits (.segmentStreamPart dt c))) ∧
    (s.islandIdle 3 = true →
      (∀ (xs : List Adc), waits (.framePublish dt xs)) ∧
      (waits (.sentinelWindowEnd dt))) ∧
    (s.islandIdle 4 = true →
      (waits (.dtsLaunchJob dt)) ∧
      (waits (.dtsProfilePost dt)) ∧
      (waits (.vecJobStart dt)) ∧
      (∀ (cycles : Nat), waits (.vecJobDone dt cycles)) ∧
      (waits (.vecCycleLimit dt))) ∧
    (s.islandIdle 9 = true →
      (waits (.cmpLaneTake dt)) ∧
      (∀ (l : Fin 4) (codes : List (List (List Nat × List Nat))) (spoilt : List (Nat × List Nat × Nat)), waits (.cmpOutputPublish dt l codes spoilt)) ∧
      (∀ (l : Fin 4), waits (.cmpChainWaitExpiry dt l)) ∧
      (∀ (l : Fin 4), waits (.decompressJob dt l)))

/-- When START is reached an ARMED module goes to RUN; nothing else of it changes. In an awake module that is ARMED with START reached after the time passes, ARM_START_REACHED leaves the state RUN and everything else as the passing of time leaves it. In any other state, or before START, only the time passes. -/
def Obligations.ArmedRunStarts : Prop :=
  ∀ (s : State) (dt k : Nat), s.awake = true → s.gate.start = some k →
    (s.mode = .armed → stampReached (s.time + dt) k = true →
      exec (.armStartReached dt) s = .next { s.elapse dt with mode := .run }) ∧
    (s.mode ≠ .armed ∨ stampReached (s.time + dt) k = false → exec (.armStartReached dt) s = .next (s.elapse dt))

/-- A rail fault puts a live module in HOLD: no acquisition waits, the lease is suspended, no recovery or moult goes on. In an awake module in STARTUP, IDLE, ARMED, RUN or MOULT, RAIL_FAULT of a channel enters HOLD with cause 6 after PWR.STAT records the channel; afterwards the state is HOLD, START, END and an inserted STOP are gone, the lease is suspended, and no recovery and no moult is in progress. -/
def Obligations.RailFaultHolds : Prop :=
  ∀ (s : State) (dt : Nat) (chan : Fin 64), s.awake = true → s.mode.holds = true →
    ∃ t, exec (.railFault dt chan) s = .next t ∧
      t = { (((s.elapse dt).setB PWR_STAT 29 true).setF PWR_STAT 13 8 chan).enterHold 6 with pending := s.pending } ∧
      t.mode = .hold ∧ t.gate.start = none ∧ t.gate.fin = none ∧ t.gate.stopPend = false ∧ t.flt.leaseSusp = true ∧ t.flt.recovery = none ∧ t.sec.moult = none

/-- A launched entry with PEAK 173 to 255 is a breach with ERRWHY 2. With a canonical register file, no posted CSR write, the stamp at least 2 us ahead, the sequencer idle, a plan that MODE, SPLIT, ILV and COUNT form, and every launched code within Table LCH-6: if some launched entry has PEAK 173 to 255, frm.start completes with E_RANGE in wd and ERRWHY 2 in LCH.STAT, and nothing is started. The same of lnch of an entry with such a PEAK. -/
def Obligations.LaunchPeakRefused : Prop :=
  ∀ (s : State) (d a b : Fin 16), s.issues = true → s.eccAt 0 s.core.pc.toNat = false → spSorted s.csr = true → s.core.csrOut = [] →
    s.running = false → d ≠ 0 →
    (s.soonEnough (s.wreg a).toNat = true → s.plan.formOk = true → (∀ k ∈ s.plan.launched, codeOk (s.enta k) (s.entb k) = true) →
      (∃ k ∈ s.plan.launched, 173 ≤ fld (s.entc k) 7 0) →
      ∃ t, exec (.frmStart d a b) s = .next t ∧ t.wreg d = 2 ∧ t.f LCH_STAT 15 12 = 2 ∧ t.lch = s.lch) ∧
    (s.soonEnough (s.wreg b).toNat = true → codeOk (s.enta ((s.wreg a).toNat % 16)) (s.entb ((s.wreg a).toNat % 16)) = true →
      173 ≤ fld (s.entc ((s.wreg a).toNat % 16)) 7 0 →
      ∃ t, exec (.lnch d a b) s = .next t ∧ t.wreg d = 2 ∧ t.f LCH_STAT 15 12 = 2 ∧ t.lch = s.lch)

/-- The global channel identifier packs DEV, PORT and CHAN in bits [33:0]. For DEV under 2^10, PORT under 2^7 and CHAN under 2^17, the identifier the model stores holds DEV in [33:24] (its cell in [33:29], its member in [28:24]), PORT in [23:17], CHAN in [16:0], and nothing above bit 33. -/
def Obligations.ChannelIdentifier : Prop :=
  ∀ dev port chan : Nat, dev < 2 ^ 10 → port < 2 ^ 7 → chan < 2 ^ 17 →
    nfld (chanId dev port chan) 33 24 = dev ∧ nfld (chanId dev port chan) 33 29 = dev / 32 ∧ nfld (chanId dev port chan) 28 24 = dev % 32 ∧
    nfld (chanId dev port chan) 23 17 = port ∧ nfld (chanId dev port chan) 16 0 = chan ∧ chanId dev port chan < 2 ^ 34

/-- Events of a source advance exactly the counters that select it and whose gate passes, modulo 2^48. n events of a source advance counter i by n modulo 2^48 where CNT.CFG[i] enables it, names the source and its gate passes (always; only in RUN; only while the trigger engine runs); every other counter and everything else of the state stay. -/
def Obligations.EventCountersCount : Prop :=
  ∀ (s : State) (src n : Nat) (i : Fin 32),
    let on : Prop := s.b (CNT_CFG i) 31 = true ∧ s.f (CNT_CFG i) 7 0 = src ∧
      (s.f (CNT_CFG i) 9 8 = 1 → s.mode = .run) ∧ (s.f (CNT_CFG i) 9 8 = 2 → s.b TRG_STAT 29 = true)
    (on → (s.bump src n).flt.cnt[i] = (s.flt.cnt[i] + n) % 2 ^ 48) ∧ (¬on → (s.bump src n).flt.cnt[i] = s.flt.cnt[i]) ∧
    s.bump src n = { s with flt := { s.flt with cnt := (s.bump src n).flt.cnt } }

/-- MEMWR writes its words to the host area little-endian and nothing else of memory. In a safe module that is out of reset and not in COCOON, a well-formed MEMWR (good check byte, LEN words of 64 bits, LEN at least 1, ADDR a multiple of 8) inside the area the port may write answers OK: byte j of word i stands at ADDR + 8 i + j, every other byte of memory, every CSR (but in the STR window, where a map commit in progress may complete) and the cores are as they were. Outside the area it answers E_RANGE and writes nothing. -/
def Obligations.ServicePortMemoryWrite : Prop :=
  ∀ (s : State) (dt len addr chk : Nat) (ws : List Nat), s.Safe → s.pwr.held = false → s.mode ≠ .cocoon →
    ({ len := len, addr := addr, payload := ws.flatMap (bytesOf 8), chk := chk } : SpiFrame).good 4 = true →
    1 ≤ len → len ≤ 512 → ws.length = len → addr % 8 = 0 →
    ∃ t, exec (.memwr dt len addr ws chk) s = .next t ∧
      (0xFF0000 ≤ addr → addr + 8 * len ≤ 0xFFF000 → t.dbg.spi.1 = 0 ∧ (∀ i (h : i < ws.length), t.word64 (addr + 8 * i) = ws[i] % 2 ^ 64)) ∧
      (addr < 0xFF0000 ∨ 0xFFF000 < addr + 8 * len → t.dbg.spi.1 = 2 ∧ t.mem = s.mem) ∧
      (∀ y, y < addr ∨ addr + 8 * len ≤ y → t.byte y = s.byte y) ∧ (∀ y, y / 0x10000 ≠ 7 → t.csrRaw y = s.csrRaw y) ∧ t.core = s.core
end

