-- ==== Sys2Proof/Laws/Memory.lean ====
section
/-! SUPPORT. The laws of sparse tables and of memory: reads after writes, and that every operation keeps the canonical form. -/

namespace Sys2Proof.Machine

variable {α : Type}

/-- Every key of a table lies above a bound. -/
def SpAbove (b : Nat) (l : List (Nat × α)) : Prop := ∀ c ∈ l, b < c.1

theorem spSorted_iff (l : List (Nat × α)) : spSorted l = true ↔ l.Pairwise (fun x y => x.1 < y.1) := by
  induction l with
  | nil => simp [spSorted]
  | cons x t ih =>
    cases t with
    | nil => simp [spSorted]
    | cons y u =>
      rw [spSorted, Bool.and_eq_true, ih, decide_eq_true_iff]
      refine ⟨fun h => List.pairwise_cons.2 ⟨fun c hc => ?_, h.2⟩, fun h => ?_⟩
      · rcases List.mem_cons.1 hc with rfl | hc
        · exact h.1
        · exact Nat.lt_trans h.1 ((List.pairwise_cons.1 h.2).1 c hc)
      · have hp := List.pairwise_cons.1 h
        exact ⟨hp.1 y (List.mem_cons_self ..), hp.2⟩

theorem spPut_mem {l : List (Nat × α)} {k : Nat} {v : Option α} {c : Nat × α} (h : c ∈ spPut l k v) :
    c ∈ l ∨ (c.1 = k ∧ v = some c.2) := by
  induction l with
  | nil => cases v <;> simp_all [spPut]
  | cons x t ih =>
    cases v <;> simp only [spPut] at h <;> split at h <;> (try split at h) <;> simp only [List.mem_cons] at h ⊢ <;> grind

theorem spPut_sorted {l : List (Nat × α)} (h : spSorted l = true) (k : Nat) (v : Option α) : spSorted (spPut l k v) = true := by
  rw [spSorted_iff] at *
  induction l with
  | nil => cases v <;> simp [spPut]
  | cons x t ih =>
    obtain ⟨ha, hp⟩ := List.pairwise_cons.1 h
    have hin := ih hp
    simp only [spPut]
    split
    · cases v <;> simp only [List.pairwise_cons] <;> grind
    · split
      · cases v
        · exact hp
        · simp only [List.pairwise_cons]; grind
      · refine List.pairwise_cons.2 ⟨fun c hc => ?_, hin⟩
        rcases spPut_mem hc with hc | ⟨hc, -⟩
        · exact ha c hc
        · omega

theorem spGet_above {l : List (Nat × α)} {k : Nat} (h : SpAbove k l) : spGet l k = none := by
  induction l with
  | nil => rfl
  | cons x t ih =>
    have hx := h x (List.mem_cons_self ..)
    rw [spGet, if_neg (by omega)]
    exact ih fun c hc => h c (List.mem_cons_of_mem _ hc)

/-- Reading the entry just written gives it. -/
theorem spGet_spPut_self {l : List (Nat × α)} (h : spSorted l = true) (k : Nat) (v : Option α) : spGet (spPut l k v) k = v := by
  rw [spSorted_iff] at h
  induction l with
  | nil => cases v <;> simp [spPut, spGet]
  | cons x t ih =>
    obtain ⟨ha, hp⟩ := List.pairwise_cons.1 h
    have ht : SpAbove x.1 t := ha
    simp only [spPut]
    split
    · cases v with
      | none => rw [spGet, if_neg (by omega)]; exact spGet_above fun c hc => by have := ha c hc; omega
      | some => simp [spGet]
    · split
      · rename_i h1 h2; subst h2
        cases v with
        | none => exact spGet_above ht
        | some => simp [spGet]
      · rw [spGet, if_neg ‹_›]; exact ih hp

/-- Writing one entry leaves every other as it was. -/
theorem spGet_spPut_ne (l : List (Nat × α)) {k j : Nat} (v : Option α) (hj : j ≠ k) : spGet (spPut l k v) j = spGet l j := by
  induction l with
  | nil => cases v <;> simp [spPut, spGet, hj]
  | cons x t ih =>
    simp only [spPut]
    split
    · cases v <;> simp [spGet, hj]
    · split
      · rename_i h2; subst h2
        cases v <;> simp [spGet, hj]
      · simp [spGet, ih]

theorem spFilter_sorted {l : List (Nat × α)} (h : spSorted l = true) (p : Nat × α → Bool) : spSorted (l.filter p) = true := by
  rw [spSorted_iff] at *; exact h.sublist List.filter_sublist

/-! Memory. -/

theorem Memory.wf_iff (m : List Host.Cell) : Memory.wf m = true ↔ spSorted m = true ∧ ∀ c ∈ m, c.2 ≠ 0 := by
  simp [Memory.wf]

theorem Memory.nil_wf : Memory.wf [] = true := rfl

theorem Memory.write_wf {m : List Host.Cell} (h : Memory.wf m = true) (a : Nat) (b : Byte) : Memory.wf (Memory.write m a b) = true := by
  rw [Memory.wf_iff] at *
  refine ⟨spPut_sorted h.1 _ _, fun c hc => ?_⟩
  rcases spPut_mem hc with hc | ⟨-, hc⟩
  · exact h.2 c hc
  · split at hc
    · cases hc
    · simp only [Option.some.injEq] at hc; exact hc ▸ ‹_›

theorem Memory.writeN_wf {m : List Host.Cell} (h : Memory.wf m = true) (a n v : Nat) : Memory.wf (Memory.writeN m a n v) = true := by
  induction n generalizing m a v with
  | zero => exact h
  | succ n ih => exact ih (Memory.write_wf h ..) ..

theorem Memory.writeWords_wf {m : List Host.Cell} (h : Memory.wf m = true) (a : Nat) (ws : List Nat) :
    Memory.wf (Memory.writeWords m a ws) = true := by
  induction ws generalizing m a with
  | nil => exact h
  | cons w ws ih => exact ih (Memory.writeN_wf h ..) ..

theorem Memory.filter_wf {m : List Host.Cell} (h : Memory.wf m = true) (p : Host.Cell → Bool) : Memory.wf (m.filter p) = true := by
  rw [Memory.wf_iff] at *
  exact ⟨spFilter_sorted h.1 p, fun c hc => h.2 c (List.mem_filter.1 hc).1⟩

theorem Memory.zero_wf {m : List Host.Cell} (h : Memory.wf m = true) (lo hi : Nat) : Memory.wf (Memory.zero m lo hi) = true :=
  Memory.filter_wf h _

/-- A canonical memory whose addresses are moved down by `a` stays canonical. -/
theorem Memory.shift_wf {m : List Host.Cell} (h : Memory.wf m = true) (a : Nat) (ha : ∀ c ∈ m, a ≤ c.1) :
    Memory.wf (m.map (fun c => (c.1 - a, c.2))) = true := by
  rw [Memory.wf_iff, spSorted_iff] at *
  refine ⟨?_, fun c hc => ?_⟩
  · rw [List.pairwise_map]
    refine h.1.imp_of_mem fun {x y} hx _ hxy => ?_
    have := ha x hx
    show x.1 - a < y.1 - a
    omega
  · obtain ⟨x, hx, rfl⟩ := List.mem_map.1 hc
    exact h.2 x hx

/-- A byte read after its write is the byte written. -/
theorem Memory.read_write_self {m : List Host.Cell} (h : Memory.wf m = true) (a : Nat) (b : Byte) :
    Memory.read (Memory.write m a b) a = b := by
  rw [Memory.wf_iff] at h
  rw [Memory.read, Memory.write, spGet_spPut_self h.1]
  split <;> simp_all

/-- A write of one byte leaves every other byte as it was. -/
theorem Memory.read_write_ne (m : List Host.Cell) {a x : Nat} (b : Byte) (hx : x ≠ a) :
    Memory.read (Memory.write m a b) x = Memory.read m x := by
  rw [Memory.read, Memory.write, spGet_spPut_ne _ _ hx]; rfl

/-- A write of `n` bytes leaves every byte outside them as it was. -/
theorem Memory.read_writeN_ne (m : List Host.Cell) {a n v x : Nat} (hx : x < a ∨ a + n ≤ x) :
    Memory.read (Memory.writeN m a n v) x = Memory.read m x := by
  induction n generalizing m a v with
  | zero => rfl
  | succ n ih => rw [Memory.writeN, ih _ (by omega), Memory.read_write_ne _ _ (by omega)]

theorem Memory.read_writeWords_ne (m : List Host.Cell) {a x : Nat} {ws : List Nat} (hx : x < a ∨ a + 8 * ws.length ≤ x) :
    Memory.read (Memory.writeWords m a ws) x = Memory.read m x := by
  induction ws generalizing m a with
  | nil => rfl
  | cons w ws ih =>
    simp only [List.length_cons] at hx
    rw [Memory.writeWords, ih _ (by omega), Memory.read_writeN_ne _ (by omega)]

theorem Memory.readN_congr {m m' : List Host.Cell} {a n : Nat} (h : ∀ x, a ≤ x → x < a + n → Memory.read m' x = Memory.read m x) :
    Memory.readN m' a n = Memory.readN m a n := by
  induction n generalizing a with
  | zero => rfl
  | succ n ih => rw [Memory.readN, Memory.readN, h a (by omega) (by omega), ih fun x h1 h2 => h x (by omega) (by omega)]

/-- `n` bytes read after their write are the number written, held to `n` bytes. -/
theorem Memory.readN_writeN {m : List Host.Cell} (h : Memory.wf m = true) (a n v : Nat) :
    Memory.readN (Memory.writeN m a n v) a n = v % 256 ^ n := by
  induction n generalizing m a v with
  | zero => simp [Memory.readN, Nat.mod_one]
  | succ n ih =>
    have hb : Memory.read (Memory.writeN (Memory.write m a (BitVec.ofNat 8 v)) (a + 1) n (v / 256)) a = BitVec.ofNat 8 v := by
      rw [Memory.read_writeN_ne _ (by omega), Memory.read_write_self h]
    have hp : 256 ^ (n + 1) = 256 * 256 ^ n := by rw [Nat.pow_succ, Nat.mul_comm]
    rw [Memory.readN, Memory.writeN, hb, ih (Memory.write_wf h ..), BitVec.toNat_ofNat, hp, Nat.mod_mul]

end Sys2Proof.Machine
end

