-- ==== Sys2Proof/Laws/Keep.lean ====
section
/-! SUPPORT. What every effect of a command keeps of a state: canonical memories, a canonical register file, the rollback counter, the fuse
bank and the life cycle. One lemma per function of the model, in the files of this folder, says that it keeps them. -/

namespace Sys2Proof.Machine

/-- The same, with images staying canonical. -/
structure SecKeeps (a b : SecSt) : Prop where
  wf : a.Wf → b.Wf
  mono : SecMono a b

/-- From one state to a later one. -/
structure Keeps (z t : State) : Prop where
  mem : z.MemWf → t.MemWf
  csr : spSorted z.csr = true → spSorted t.csr = true
  sec : SecMono z.sec t.sec

/-- The same of what an instruction answers. -/
def KeepsI (z : State) : IssueOut → Prop
  | .done t _ => Keeps z t
  | .trap _ _ _ => True

variable {z s t : State} {α β : Type}

theorem SecMono.refl (x : SecSt) : SecMono x x := ⟨Nat.le_refl _, Nat.le_refl _, id, id, id⟩

theorem SecMono.trans {a b c : SecSt} (h : SecMono a b) (k : SecMono b c) : SecMono a c :=
  ⟨Nat.le_trans h.rbc k.rbc, Nat.le_trans h.cnt k.cnt, fun w => k.cap (h.cap w), fun w => k.exuvia (h.exuvia w), fun w => k.egg (h.egg w)⟩

/-- A change of the security state that touches none of these. -/
theorem SecKeeps.same {a b : SecSt} (h1 : b.slots = a.slots) (h2 : b.running = a.running) (h3 : b.loading = a.loading) (h4 : b.rbc = a.rbc)
    (h5 : b.lccnt = a.lccnt) (h6 : b.lc = a.lc) : SecKeeps a b := by
  refine ⟨fun w => ⟨fun i hi => h1 ▸ w.slots i hi, h2 ▸ w.running, fun l hl => w.loading l (h3 ▸ hl)⟩, ?_, ?_, ?_, ?_, ?_⟩ <;> simp_all

theorem Keeps.refl (s : State) : Keeps s s := ⟨id, id, SecMono.refl _⟩

theorem Keeps.trans {a b c : State} (h : Keeps a b) (k : Keeps b c) : Keeps a c :=
  ⟨fun w => k.mem (h.mem w), fun w => k.csr (h.csr w), h.sec.trans k.sec⟩

/-- A change of a state that touches none of these. -/
theorem Keeps.same (h : Keeps z s) (h1 : t.mem = s.mem) (h2 : t.core.pmem = s.core.pmem) (h3 : t.core.dmem = s.core.dmem)
    (h4 : t.csr = s.csr) (h5 : t.sec = s.sec) : Keeps z t :=
  h.trans ⟨fun w => ⟨h1 ▸ w.mem, h2 ▸ w.pmem, h3 ▸ w.dmem, h5 ▸ w.img⟩, fun w => h4 ▸ w, h5 ▸ SecMono.refl _⟩

/-- A change of the security state, and of parts that matter to none of these. -/
theorem Keeps.sameSec (h : Keeps z s) (h1 : t.mem = s.mem) (h2 : t.core.pmem = s.core.pmem) (h3 : t.core.dmem = s.core.dmem)
    (h4 : t.csr = s.csr) (h5 : SecKeeps s.sec t.sec) : Keeps z t :=
  h.trans ⟨fun w => ⟨h1 ▸ w.mem, h2 ▸ w.pmem, h3 ▸ w.dmem, h5.wf w.img⟩, fun w => h4 ▸ w, h5.mono⟩

/-- A change of the memories, and of parts that matter to none of these. -/
theorem Keeps.sameMem (h : Keeps z s) (h1 : s.MemWf → t.MemWf) (h4 : t.csr = s.csr) (h5 : t.sec = s.sec) : Keeps z t :=
  h.trans ⟨h1, fun w => h4 ▸ w, h5 ▸ SecMono.refl _⟩

/-- A state written out over another, with its memories, registers and security state. -/
theorem Keeps.lit {time : Nat} {up : Nat} {fresh : Nat} {mode : Mode} {latch : List ((Nat × Nat) × Word)} {heldLo : List ((Nat × Nat) ×
    Word)} {raised : List (Nat × Nat × Nat)} {prevRes : List PrevRes} {eras : List Era} {poison : List Nat} {core : CoreSt} {gate : GateSt} {que
    : QueSt} {flt : FltSt} {pwr : PwrSt} {dbg : DbgSt} {pin : PinSt} {lch : LchSt} {rcv : RcvSt} {phs : PhsSt} {dts : DtsSt} {str : StrSt} {vec
    : VecSt} {fel : FelSt} {trg : TrgSt} {evb : EvbSt} {tim : TimSt} {fab : FabSt} {dram : MemSt} {cmp : CmpSt} {clk : ClkSt} {hkc : HkcSt} {fls
    : FlsSt} {pending : List Instr}
    (h : Keeps z s) (h1 : core.pmem = s.core.pmem) (h2 : core.dmem = s.core.dmem) :
    Keeps z (State.mk time up fresh mode s.csr latch heldLo raised prevRes eras s.mem poison core gate que flt s.sec pwr dbg pin lch rcv phs dts
      str vec fel trg evb tim fab dram cmp clk hkc fls pending) :=
  h.same rfl h1 h2 rfl rfl

/-- The same with another security state. -/
theorem Keeps.litSec {time : Nat} {up : Nat} {fresh : Nat} {mode : Mode} {latch : List ((Nat × Nat) × Word)} {heldLo : List ((Nat × Nat) ×
    Word)} {raised : List (Nat × Nat × Nat)} {prevRes : List PrevRes} {eras : List Era} {poison : List Nat} {core : CoreSt} {gate : GateSt} {que
    : QueSt} {flt : FltSt} {sec : SecSt} {pwr : PwrSt} {dbg : DbgSt} {pin : PinSt} {lch : LchSt} {rcv : RcvSt} {phs : PhsSt} {dts : DtsSt} {str
    : StrSt} {vec : VecSt} {fel : FelSt} {trg : TrgSt} {evb : EvbSt} {tim : TimSt} {fab : FabSt} {dram : MemSt} {cmp : CmpSt} {clk : ClkSt} {hkc
    : HkcSt} {fls : FlsSt} {pending : List Instr}
    (h : Keeps z s) (h1 : core.pmem = s.core.pmem) (h2 : core.dmem = s.core.dmem) (h3 : SecKeeps s.sec sec) :
    Keeps z (State.mk time up fresh mode s.csr latch heldLo raised prevRes eras s.mem poison core gate que flt sec pwr dbg pin lch rcv phs dts
      str vec fel trg evb tim fab dram cmp clk hkc fls pending) :=
  h.sameSec rfl h1 h2 rfl h3

/-- A named intermediate state. -/
theorem Keeps.named {G : Prop} (h : Keeps z s) (k : Keeps z s → G) : G := k h

theorem Keeps.cond (c : Bool) {f : State → State} (h : Keeps z s) (hf : ∀ t, Keeps z t → Keeps z (f t)) : Keeps z (cond c f s) := by
  unfold Machine.cond; split
  · exact hf _ h
  · exact h

theorem Keeps.ite {c : Prop} [Decidable c] {a b : State} (ha : c → Keeps z a) (hb : ¬c → Keeps z b) : Keeps z (if c then a else b) := by
  split
  · exact ha ‹_›
  · exact hb ‹_›

theorem Keeps.elim (o : Option α) {f : α → State} (h : Keeps z s) (hf : ∀ a, Keeps z (f a)) : Keeps z (o.elim s f) := by
  cases o with
  | none => exact h
  | some a => exact hf a

theorem Keeps.id (h : Keeps z s) : Keeps z (id s) := h

theorem Keeps.foldl (l : List α) {f : State → α → State} (h : Keeps z s) (hf : ∀ t a, Keeps z t → Keeps z (f t a)) :
    Keeps z (l.foldl f s) := by
  induction l generalizing s with
  | nil => exact h
  | cons a l ih => exact ih (hf _ _ h)

theorem Keeps.foldl_fst (l : List α) {f : State × β → α → State × β} {p : State × β} (h : Keeps z p.1)
    (hf : ∀ t a, Keeps z t.1 → Keeps z (f t a).1) : Keeps z (l.foldl f p).1 := by
  induction l generalizing p with
  | nil => exact h
  | cons a l ih => exact ih (hf _ _ h)

theorem Keeps.foldl_snd (l : List α) {f : β × State → α → β × State} {p : β × State} (h : Keeps z p.2)
    (hf : ∀ t a, Keeps z t.2 → Keeps z (f t a).2) : Keeps z (l.foldl f p).2 := by
  induction l generalizing p with
  | nil => exact h
  | cons a l ih => exact ih (hf _ _ h)

theorem Keeps.of_fst {p : State × α} {a : α} (e : p = (s, a)) (h : Keeps z p.1) : Keeps z s := by rw [e] at h; exact h

theorem Keeps.of_snd {p : α × State} {a : α} (e : p = (a, s)) (h : Keeps z p.2) : Keeps z s := by rw [e] at h; exact h

theorem KeepsI.done {n : Nat} (h : Keeps z s) : KeepsI z (.done s n) := h

theorem KeepsI.trap {a b c : Nat} : KeepsI z (.trap a b c) := trivial

theorem Keeps.fst_mk {a : α} (h : Keeps z s) : Keeps z (s, a).1 := h

theorem Keeps.snd_mk {a : α} (h : Keeps z s) : Keeps z (a, s).2 := h

theorem Keeps.snd_mk2 {a : α} {b : β} (h : Keeps z s) : Keeps z (a, b, s).2.2 := h

theorem Keeps.some_mk {a : α} {r : α × State} (e : some (a, s) = some r) (h : Keeps z s) : Keeps z r.2 := by cases e; exact h

theorem Keeps.of_some {o : Option (α × State)} {a : α} (e : o = some (a, s)) (h : ∀ r, o = some r → Keeps z r.2) : Keeps z s := h _ e

theorem Keeps.of_done {o : IssueOut} {n : Nat} (e : o = .done s n) (h : KeepsI z o) : Keeps z s := by rw [e] at h; exact h

end Sys2Proof.Machine
end

