-- ==== Sys2Proof/Laws/Calm.lean ====
section
/-! SUPPORT. What the outputs going off, records, alarms and the log leave alone: the module state, the gate, the cores, the security and power
state, the suspension of the lease and a recovery. Entry into HOLD rests on it. -/

set_option linter.unusedTactic false
set_option linter.unreachableTactic false

namespace Sys2Proof.Machine

open Csr

/-- From one state to a later one. -/
structure Calm (z t : State) : Prop where
  mode : t.mode = z.mode
  gate : t.gate = z.gate
  core : t.core = z.core
  moult : t.sec.moult = z.sec.moult
  pwr : t.pwr = z.pwr
  lease : t.flt.leaseSusp = z.flt.leaseSusp
  recovery : t.flt.recovery = z.flt.recovery

variable {z s t : State} {α β : Type}

theorem Calm.refl (s : State) : Calm s s := ⟨rfl, rfl, rfl, rfl, rfl, rfl, rfl⟩

theorem Calm.trans {a b c : State} (h : Calm a b) (k : Calm b c) : Calm a c :=
  ⟨k.mode.trans h.mode, k.gate.trans h.gate, k.core.trans h.core, k.moult.trans h.moult, k.pwr.trans h.pwr, k.lease.trans h.lease,
    k.recovery.trans h.recovery⟩

/-- A state written out over another. -/
theorem Calm.lit {time : Nat} {up : Nat} {fresh : Nat} {latch : List ((Nat × Nat) × Word)} {heldLo : List ((Nat × Nat) × Word)} {raised : List
    (Nat × Nat × Nat)} {prevRes : List PrevRes} {eras : List Era} {poison : List Nat} {que : QueSt} {flt : FltSt} {sec : SecSt} {dbg : DbgSt} {pin :
    PinSt} {lch : LchSt} {rcv : RcvSt} {phs : PhsSt} {dts : DtsSt} {str : StrSt} {vec : VecSt} {fel : FelSt} {trg : TrgSt} {evb : EvbSt} {tim : TimSt}
    {fab : FabSt} {dram : MemSt} {cmp : CmpSt} {clk : ClkSt} {hkc : HkcSt} {fls : FlsSt} {pending : List Instr} {csr : List (Nat × Word)} {mem : List
    Host.Cell}
    (h : Calm z s) (h1 : flt.leaseSusp = s.flt.leaseSusp) (h2 : flt.recovery = s.flt.recovery) (h3 : sec.moult = s.sec.moult) :
    Calm z (State.mk time up fresh s.mode csr latch heldLo raised prevRes eras mem poison s.core s.gate que flt sec s.pwr dbg pin lch rcv phs dts str vec fel trg evb tim fab dram cmp clk hkc fls pending) :=
  h.trans ⟨rfl, rfl, rfl, h3, rfl, h1, h2⟩

/-- A named intermediate state. -/
theorem Calm.named {G : Prop} (h : Calm z s) (k : Calm z s → G) : G := k h

theorem Calm.cond (c : Bool) {f : State → State} (h : Calm z s) (hf : ∀ t, Calm z t → Calm z (f t)) : Calm z (cond c f s) := by
  unfold Machine.cond; split
  · exact hf _ h
  · exact h

theorem Calm.ite {c : Prop} [Decidable c] {a b : State} (ha : c → Calm z a) (hb : ¬c → Calm z b) : Calm z (if c then a else b) := by
  split
  · exact ha ‹_›
  · exact hb ‹_›

theorem Calm.elim (o : Option α) {f : α → State} (h : Calm z s) (hf : ∀ a, Calm z (f a)) : Calm z (o.elim s f) := by
  cases o with
  | none => exact h
  | some a => exact hf a

theorem Calm.id (h : Calm z s) : Calm z (id s) := h

theorem Calm.foldl (l : List α) {f : State → α → State} (h : Calm z s) (hf : ∀ t a, Calm z t → Calm z (f t a)) :
    Calm z (l.foldl f s) := by
  induction l generalizing s with
  | nil => exact h
  | cons a l ih => exact ih (hf _ _ h)

theorem Calm.foldl_fst (l : List α) {f : State × β → α → State × β} {p : State × β} (h : Calm z p.1)
    (hf : ∀ t a, Calm z t.1 → Calm z (f t a).1) : Calm z (l.foldl f p).1 := by
  induction l generalizing p with
  | nil => exact h
  | cons a l ih => exact ih (hf _ _ h)

theorem Calm.foldl_snd (l : List α) {f : β × State → α → β × State} {p : β × State} (h : Calm z p.2)
    (hf : ∀ t a, Calm z t.2 → Calm z (f t a).2) : Calm z (l.foldl f p).2 := by
  induction l generalizing p with
  | nil => exact h
  | cons a l ih => exact ih (hf _ _ h)

theorem Calm.of_fst {p : State × α} {a : α} (e : p = (s, a)) (h : Calm z p.1) : Calm z s := by rw [e] at h; exact h

theorem Calm.of_snd {p : α × State} {a : α} (e : p = (a, s)) (h : Calm z p.2) : Calm z s := by rw [e] at h; exact h

theorem Calm.fst_mk {a : α} (h : Calm z s) : Calm z (s, a).1 := h

theorem Calm.snd_mk {a : α} (h : Calm z s) : Calm z (a, s).2 := h

theorem Calm.snd_mk2 {a : α} {b : β} (h : Calm z s) : Calm z (a, b, s).2.2 := h

theorem Calm.some_mk {a : α} {r : α × State} (e : some (a, s) = some r) (h : Calm z s) : Calm z r.2 := by cases e; exact h

theorem Calm.of_some {o : Option (α × State)} {a : α} (e : o = some (a, s)) (h : ∀ r, o = some r → Calm z r.2) : Calm z s := h _ e

theorem State.putWords_calm {z : State} (s : State) (a : Nat) (ws : List Nat) (h : Calm z s) : Calm z (s.putWords a ws) :=
  h.trans ⟨rfl, rfl, rfl, rfl, rfl, rfl, rfl⟩

theorem State.setCsr_calm {z : State} (s : State) (a : Nat) (v : Word) (h : Calm z s) : Calm z (s.setCsr a v) :=
  h.trans ⟨rfl, rfl, rfl, rfl, rfl, rfl, rfl⟩

theorem State.setF_calm {z : State} (s : State) (a : ℕ) (hi : ℕ) (lo : ℕ) (v : ℕ) (h : Calm z s) : Calm z (State.setF s a hi lo v) := by
  unfold State.setF
  repeat' first
    | with_reducible assumption | with_reducible apply State.setCsr_calm

theorem State.noteRaised_calm {z : State} (s : State) (a : ℕ) (i : ℕ) (h : Calm z s) : Calm z (State.noteRaised s a i) := by
  unfold State.noteRaised
  repeat' first
    | with_reducible assumption
    | (intro x; first | (refine Calm.named (z := z) (s := x) ?_ ?_; focus subst x) | (refine Calm.named (z := z) (s := x.1) ?_ ?_; focus subst x) | (refine Calm.named (z := z) (s := x.2) ?_ ?_; focus subst x) | skip)
    | split | with_reducible refine Calm.lit ?_ rfl rfl rfl

theorem State.setB_calm {z : State} (s : State) (a : ℕ) (i : ℕ) (v : Bool) (h : Calm z s) : Calm z (State.setB s a i v) := by
  unfold State.setB
  repeat' first
    | with_reducible assumption | (intro x; first | (refine Calm.named (z := z) (s := x) ?_ ?_; focus subst x) | skip)
    | with_reducible apply State.noteRaised_calm | with_reducible apply State.setF_calm | with_reducible apply Calm.cond

theorem State.incF_calm {z : State} (s : State) (a : ℕ) (hi : ℕ) (lo : ℕ) (k : ℕ) (h : Calm z s) : Calm z (State.incF s a hi lo k) := by
  unfold State.incF
  repeat' first
    | with_reducible assumption | with_reducible apply State.setF_calm

theorem State.inc_calm {z : State} (s : State) (a : ℕ) (k : ℕ) (h : Calm z s) : Calm z (State.inc s a k) := by
  unfold State.inc
  repeat' first
    | with_reducible assumption | with_reducible apply State.incF_calm

theorem State.incMod_calm {z : State} (s : State) (a : ℕ) (k : ℕ) (h : Calm z s) : Calm z (State.incMod s a k) := by
  unfold State.incMod
  repeat' first
    | with_reducible assumption | with_reducible apply State.setCsr_calm

theorem State.bump_calm {z : State} (s : State) (src : ℕ) (n : ℕ) (h : Calm z s) : Calm z (State.bump s src n) := by
  unfold State.bump
  repeat' first
    | with_reducible assumption | (intro x; first | (refine Calm.named (z := z) (s := x) ?_ ?_; focus subst x) | skip) | split
    | with_reducible refine Calm.lit ?_ rfl rfl rfl

theorem State.free_calm {z : State} (s : State) (h : Calm z s) : Calm z (State.free s).2 := by
  unfold State.free
  repeat' first
    | with_reducible assumption | with_reducible refine Calm.lit ?_ rfl rfl rfl

theorem State.moveOn_calm {z : State} (s : State) (n : ℕ) (k : ℕ) (h : Calm z s) : Calm z (State.moveOn s n k) := by
  unfold State.moveOn
  repeat' first
    | with_reducible assumption | (intro x; first | (refine Calm.named (z := z) (s := x) ?_ ?_; focus subst x) | skip)
    | with_reducible apply State.putWords_calm | with_reducible apply Calm.foldl | lift_lets | with_reducible refine Calm.lit ?_ rfl rfl rfl

theorem State.enqueue_calm {z : State} (s : State) (n : ℕ) (e : Entry) (rank : ℕ) (h : Calm z s) : Calm z (State.enqueue s n e rank) := by
  unfold State.enqueue
  repeat' first
    | with_reducible assumption
    | (intro x; first | (refine Calm.named (z := z) (s := x) ?_ ?_; focus subst x) | (refine Calm.named (z := z) (s := x.1) ?_ ?_; focus subst x) | (refine Calm.named (z := z) (s := x.2) ?_ ?_; focus subst x) | skip)
    | with_reducible apply State.putWords_calm | with_reducible apply State.moveOn_calm | with_reducible apply State.bump_calm
    | with_reducible apply State.incMod_calm | lift_lets | split | with_reducible refine Calm.lit ?_ rfl rfl rfl

theorem State.claim_calm {z : State} (s : State) (key : ℕ) (o : ℕ) (n : ℕ) (q : ℕ) (h : Calm z s) : Calm z (State.claim s key o n q) := by
  unfold State.claim
  repeat' first
    | with_reducible assumption | (intro x; first | (refine Calm.named (z := z) (s := x) ?_ ?_; focus subst x) | skip)
    | with_reducible refine Calm.lit ?_ rfl rfl rfl

theorem State.send_calm {z : State} (s : State) (dst : ℕ) (cls : ℕ) (kind : ℕ) (ws : List ℕ) (h : Calm z s) :
    Calm z (State.send s dst cls kind ws) := by
  unfold State.send
  repeat' first
    | with_reducible assumption | with_reducible refine Calm.lit ?_ rfl rfl rfl

theorem State.evbWater_calm {z : State} (s : State) (h : Calm z s) : Calm z (State.evbWater s) := by
  unfold State.evbWater
  repeat' first
    | with_reducible assumption | (intro x; first | (refine Calm.named (z := z) (s := x) ?_ ?_; focus subst x) | skip)
    | with_reducible apply State.setB_calm | with_reducible apply State.send_calm | lift_lets | split
    | with_reducible refine Calm.of_fst (by assumption) ?_ | with_reducible refine Calm.of_snd (by assumption) ?_

theorem State.sendCredit_calm {z : State} (s : State) (x : OwedCredit) (h : Calm z s) : Calm z (State.sendCredit s x) := by
  unfold State.sendCredit
  repeat' first
    | with_reducible assumption | with_reducible apply State.send_calm | split

theorem State.payCredit_calm {z : State} (s : State) (id : ℕ) (h : Calm z s) : Calm z (State.payCredit s id) := by
  unfold State.payCredit
  repeat' first
    | with_reducible assumption | with_reducible apply Calm.id
    | (intro x; first | (refine Calm.named (z := z) (s := x) ?_ ?_; focus subst x) | skip) | with_reducible apply State.sendCredit_calm
    | with_reducible apply Calm.foldl | with_reducible refine Calm.lit ?_ rfl rfl rfl

theorem State.fragOut_calm {z : State} (s : State) (id : ℕ) (p : FragPart) (h : Calm z s) : Calm z (State.fragOut s id p) := by
  unfold State.fragOut
  repeat' first
    | with_reducible assumption | with_reducible apply Calm.id
    | (intro x; first | (refine Calm.named (z := z) (s := x) ?_ ?_; focus subst x) | skip) | with_reducible apply State.bump_calm
    | with_reducible apply Calm.cond | lift_lets | split | with_reducible refine Calm.of_fst (by assumption) ?_
    | with_reducible refine Calm.of_snd (by assumption) ?_ | with_reducible refine Calm.lit ?_ rfl rfl rfl

theorem State.segOut_calm {z : State} (s : State) (c : ℕ) (t : ℤ) (num : ℕ) (h : Calm z s) : Calm z (State.segOut s c t num) := by
  unfold State.segOut
  repeat' first
    | with_reducible assumption | (intro x; first | (refine Calm.named (z := z) (s := x) ?_ ?_; focus subst x) | skip) | split
    | with_reducible refine Calm.lit ?_ rfl rfl rfl

theorem State.followOut_calm {z : State} (s : State) (r : Rec) (ws : List ℕ) (addr : ℕ) (qseq : ℕ) (h : Calm z s) :
    Calm z (State.followOut s r ws addr qseq) := by
  unfold State.followOut
  repeat' first
    | with_reducible assumption | with_reducible apply Calm.id
    | (intro x; first | (refine Calm.named (z := z) (s := x) ?_ ?_; focus subst x) | skip) | with_reducible apply State.inc_calm
    | with_reducible apply State.segOut_calm | with_reducible apply State.payCredit_calm | with_reducible apply State.bump_calm
    | with_reducible apply State.incMod_calm | with_reducible apply State.fragOut_calm | with_reducible apply Calm.cond | lift_lets | split
    | with_reducible refine Calm.of_fst (by assumption) ?_ | with_reducible refine Calm.of_snd (by assumption) ?_

theorem State.followDrop_calm {z : State} (s : State) (f : Follow) (h : Calm z s) : Calm z (State.followDrop s f) := by
  unfold State.followDrop
  repeat' first
    | with_reducible assumption | with_reducible apply Calm.id
    | (intro x; first | (refine Calm.named (z := z) (s := x) ?_ ?_; focus subst x) | skip) | with_reducible apply State.segOut_calm | split
    | with_reducible refine Calm.of_fst (by assumption) ?_ | with_reducible refine Calm.of_snd (by assumption) ?_
    | with_reducible refine Calm.lit ?_ rfl rfl rfl

theorem State.recNext_calm {z : State} (s : State) (q : ℕ) (ty : ℕ) (port : ℕ) (h : Calm z s) : Calm z (State.recNext s q ty port) := by
  unfold State.recNext
  repeat' first
    | with_reducible assumption
    | (intro x; first | (refine Calm.named (z := z) (s := x) ?_ ?_; focus subst x) | (refine Calm.named (z := z) (s := x.1) ?_ ?_; focus subst x) | (refine Calm.named (z := z) (s := x.2) ?_ ?_; focus subst x) | skip)
    | lift_lets | with_reducible refine Calm.lit ?_ rfl rfl rfl

theorem State.dropRec_calm {z : State} (s : State) (r : Rec) (h : Calm z s) : Calm z (State.dropRec s r) := by
  unfold State.dropRec
  repeat' first
    | with_reducible assumption | (intro x; first | (refine Calm.named (z := z) (s := x) ?_ ?_; focus subst x) | skip)
    | with_reducible apply State.inc_calm | with_reducible apply State.recNext_calm | with_reducible apply State.followDrop_calm | lift_lets
    | split | with_reducible refine Calm.lit ?_ rfl rfl rfl

theorem State.emitRec_calm {z : State} (s : State) (r : Rec) (h : Calm z s) : Calm z (State.emitRec s r) := by
  unfold State.emitRec
  repeat' first
    | with_reducible assumption | (intro x; first | (refine Calm.named (z := z) (s := x) ?_ ?_; focus subst x) | skip)
    | with_reducible apply State.followOut_calm | with_reducible apply State.enqueue_calm | with_reducible apply State.dropRec_calm
    | with_reducible apply State.claim_calm | with_reducible apply State.putWords_calm | with_reducible apply State.recNext_calm
    | with_reducible apply State.evbWater_calm | with_reducible apply Calm.cond | lift_lets | split
    | with_reducible refine Calm.of_fst (by assumption) ?_ | with_reducible refine Calm.of_snd (by assumption) ?_
    | with_reducible refine Calm.lit ?_ rfl rfl rfl

theorem State.crossRec_calm {z : State} (s : State) (r : Rec) (h : Calm z s) : Calm z (State.crossRec s r) := by
  unfold State.crossRec
  repeat' first
    | with_reducible assumption | (intro x; first | (refine Calm.named (z := z) (s := x) ?_ ?_; focus subst x) | skip)
    | with_reducible apply State.dropRec_calm | with_reducible apply Calm.foldl | lift_lets | split
    | with_reducible refine Calm.lit ?_ rfl rfl rfl

theorem State.publish_calm {z : State} (s : State) (r : Rec) (h : Calm z s) : Calm z (State.publish s r) := by
  unfold State.publish
  repeat' first
    | with_reducible assumption | (intro x; first | (refine Calm.named (z := z) (s := x) ?_ ?_; focus subst x) | skip)
    | with_reducible apply State.dropRec_calm | with_reducible apply State.crossRec_calm | with_reducible apply State.emitRec_calm | split
    | with_reducible refine Calm.lit ?_ rfl rfl rfl

theorem State.console_calm {z : State} (s : State) (e : LogEntry) (h : Calm z s) : Calm z (State.console s e) := by
  unfold State.console
  repeat' first
    | with_reducible assumption | (intro x; first | (refine Calm.named (z := z) (s := x) ?_ ?_; focus subst x) | skip)
    | with_reducible apply State.inc_calm | with_reducible apply Calm.cond | lift_lets | split | with_reducible refine Calm.lit ?_ rfl rfl rfl

theorem State.log_calm {z : State} (s : State) (level : ℕ) (event : ℕ) (args : List ℕ) (h : Calm z s) : Calm z (State.log s level event args) := by
  unfold State.log
  repeat' first
    | with_reducible assumption | (intro x; first | (refine Calm.named (z := z) (s := x) ?_ ?_; focus subst x) | skip)
    | with_reducible apply State.bump_calm | with_reducible apply State.inc_calm | with_reducible apply State.console_calm
    | with_reducible apply State.publish_calm | lift_lets | split
    | with_reducible refine Calm.lit ?_ rfl rfl rfl

theorem State.postAlarm_calm {z : State} (s : State) (a : AlarmRec) (h : Calm z s) : Calm z (State.postAlarm s a) := by
  unfold State.postAlarm
  repeat' first
    | with_reducible assumption | (intro x; first | (refine Calm.named (z := z) (s := x) ?_ ?_; focus subst x) | skip)
    | with_reducible apply State.claim_calm | with_reducible apply State.putWords_calm | with_reducible apply State.recNext_calm
    | with_reducible apply State.enqueue_calm | lift_lets | split | with_reducible refine Calm.of_fst (by assumption) ?_
    | with_reducible refine Calm.of_snd (by assumption) ?_ | with_reducible refine Calm.lit ?_ rfl rfl rfl

theorem State.coalesce_calm {z : State} (s : State) (a : AlarmRec) (h : Calm z s) : Calm z (State.coalesce s a) := by
  unfold State.coalesce
  repeat' first
    | with_reducible assumption | (intro x; first | (refine Calm.named (z := z) (s := x) ?_ ?_; focus subst x) | skip)
    | with_reducible apply State.bump_calm | lift_lets | split | with_reducible refine Calm.lit ?_ rfl rfl rfl

theorem State.critical_calm {z : State} (s : State) (a : AlarmRec) (h : Calm z s) : Calm z (State.critical s a) := by
  unfold State.critical
  repeat' first
    | with_reducible assumption | with_reducible apply State.postAlarm_calm | with_reducible apply State.coalesce_calm | split
    | with_reducible refine Calm.lit ?_ rfl rfl rfl

theorem State.lesser_calm {z : State} (s : State) (a : AlarmRec) (h : Calm z s) : Calm z (State.lesser s a) := by
  unfold State.lesser
  repeat' first
    | with_reducible assumption | (intro x; first | (refine Calm.named (z := z) (s := x) ?_ ?_; focus subst x) | skip)
    | with_reducible apply State.coalesce_calm | with_reducible apply State.dropRec_calm | with_reducible apply State.postAlarm_calm
    | lift_lets | split | with_reducible refine Calm.lit ?_ rfl rfl rfl

theorem State.alarm_calm {z : State} (s : State) (cls : ℕ) (srcreg : ℕ) (srcbit : ℕ) (port : ℕ) (chan : ℕ) (h : Calm z s) :
    Calm z (State.alarm s cls srcreg srcbit port chan) := by
  unfold State.alarm
  repeat' first
    | with_reducible assumption | (intro x; first | (refine Calm.named (z := z) (s := x) ?_ ?_; focus subst x) | skip)
    | with_reducible apply State.bump_calm | with_reducible apply State.incF_calm | with_reducible apply State.critical_calm
    | with_reducible apply State.lesser_calm | with_reducible apply State.log_calm | lift_lets | split
    | with_reducible refine Calm.of_fst (by assumption) ?_ | with_reducible refine Calm.of_snd (by assumption) ?_

theorem State.momentary_calm {z : State} (s : State) (h : Calm z s) : Calm z (State.momentary s) := by
  unfold State.momentary
  repeat' first
    | with_reducible assumption | with_reducible refine Calm.lit ?_ rfl rfl rfl

theorem State.hkFlags_calm {z : State} (s : State) (h : Calm z s) : Calm z (State.hkFlags s) := by
  unfold State.hkFlags
  repeat' first
    | with_reducible assumption | (intro x; first | (refine Calm.named (z := z) (s := x) ?_ ?_; focus subst x) | skip)
    | with_reducible apply State.setB_calm | with_reducible apply State.setF_calm | lift_lets | split
    | with_reducible refine Calm.of_fst (by assumption) ?_ | with_reducible refine Calm.of_snd (by assumption) ?_
    | with_reducible refine Calm.lit ?_ rfl rfl rfl

theorem State.hkRegular_calm {z : State} (s : State) (t : ℕ) (h : Calm z s) : Calm z (State.hkRegular s t) := by
  unfold State.hkRegular
  repeat' first
    | with_reducible assumption | (intro x; first | (refine Calm.named (z := z) (s := x) ?_ ?_; focus subst x) | skip)
    | with_reducible apply State.inc_calm | with_reducible apply State.hkFlags_calm | lift_lets | split
    | with_reducible refine Calm.lit ?_ rfl rfl rfl

theorem State.hkInject_calm {z : State} (s : State) (t : ℕ) (h : Calm z s) : Calm z (State.hkInject s t) := by
  unfold State.hkInject
  repeat' first
    | with_reducible assumption | (intro x; first | (refine Calm.named (z := z) (s := x) ?_ ?_; focus subst x) | skip)
    | with_reducible apply State.inc_calm | with_reducible apply State.hkFlags_calm | lift_lets | split
    | with_reducible refine Calm.lit ?_ rfl rfl rfl

theorem State.hkFlash_calm {z : State} (s : State) (t : ℕ) (h : Calm z s) : Calm z (State.hkFlash s t) := by
  unfold State.hkFlash
  repeat' first
    | with_reducible assumption | (intro x; first | (refine Calm.named (z := z) (s := x) ?_ ?_; focus subst x) | skip)
    | with_reducible apply State.hkInject_calm | with_reducible apply State.hkRegular_calm | with_reducible apply Calm.cond

theorem State.ringWrite_calm {z : State} (s : State) (c : ℕ) (i : RingItem) (h : Calm z s) : Calm z (State.ringWrite s c i) := by
  unfold State.ringWrite
  repeat' first
    | with_reducible assumption
    | (intro x; first | (refine Calm.named (z := z) (s := x) ?_ ?_; focus subst x) | (refine Calm.named (z := z) (s := x.1) ?_ ?_; focus subst x) | (refine Calm.named (z := z) (s := x.2) ?_ ?_; focus subst x) | skip)
    | with_reducible apply State.inc_calm | with_reducible apply Calm.cond | lift_lets | split | with_reducible refine Calm.lit ?_ rfl rfl rfl

theorem State.ringDrain_calm {z : State} (s : State) (h : Calm z s) : Calm z (State.ringDrain s) := by
  unfold State.ringDrain
  repeat' first
    | with_reducible assumption
    | (intro x; first | (refine Calm.named (z := z) (s := x) ?_ ?_; focus subst x) | (refine Calm.named (z := z) (s := x.1) ?_ ?_; focus subst x) | (refine Calm.named (z := z) (s := x.2) ?_ ?_; focus subst x) | skip)
    | with_reducible apply State.ringWrite_calm | with_reducible apply Calm.foldl | with_reducible apply Calm.foldl_fst
    | with_reducible apply Calm.foldl_snd | split | with_reducible refine Calm.lit ?_ rfl rfl rfl

theorem State.ringAdd_calm {z : State} (s : State) (c : ℕ) (i : RingItem) (h : Calm z s) : Calm z (State.ringAdd s c i) := by
  unfold State.ringAdd
  repeat' first
    | with_reducible assumption | with_reducible apply State.ringWrite_calm | with_reducible apply State.ringDrain_calm | split
    | with_reducible refine Calm.lit ?_ rfl rfl rfl

theorem State.ringPut_calm {z : State} (s : State) (kind : ℕ) (port : ℕ) (t : ℤ) (flags : ℕ) (body : List (ℕ × ℕ × ℕ) → List ℕ) (h : Calm z s) :
    Calm z (State.ringPut s kind port t flags body) := by
  unfold State.ringPut
  repeat' first
    | with_reducible assumption | (intro x; first | (refine Calm.named (z := z) (s := x) ?_ ?_; focus subst x) | skip)
    | with_reducible apply State.ringAdd_calm | with_reducible apply Calm.foldl | lift_lets | split

theorem State.strBegin_calm {z : State} (s : State) (r : StrRun) (h : Calm z s) : Calm z (State.strBegin s r) := by
  unfold State.strBegin
  repeat' first
    | with_reducible assumption | (intro x; first | (refine Calm.named (z := z) (s := x) ?_ ?_; focus subst x) | skip) | lift_lets
    | with_reducible refine Calm.lit ?_ rfl rfl rfl

theorem State.postRows_calm {z : State} (s : State) (rows : List OutRow) (h : Calm z s) : Calm z (State.postRows s rows) := by
  unfold State.postRows
  repeat' first
    | with_reducible assumption
    | (intro x; first | (refine Calm.named (z := z) (s := x) ?_ ?_; focus subst x) | (refine Calm.named (z := z) (s := x.1) ?_ ?_; focus subst x) | (refine Calm.named (z := z) (s := x.2) ?_ ?_; focus subst x) | skip)
    | with_reducible apply State.publish_calm | with_reducible apply Calm.foldl | with_reducible apply Calm.foldl_fst
    | with_reducible apply Calm.foldl_snd | lift_lets | split | with_reducible refine Calm.of_fst (by assumption) ?_
    | with_reducible refine Calm.of_snd (by assumption) ?_

theorem State.postDets_calm {z : State} (s : State) (h : Calm z s) : Calm z (State.postDets s) := by
  unfold State.postDets
  repeat' first
    | with_reducible assumption | (intro x; first | (refine Calm.named (z := z) (s := x) ?_ ?_; focus subst x) | skip)
    | with_reducible apply State.publish_calm | split | lift_lets | with_reducible refine Calm.of_fst (by assumption) ?_
    | with_reducible refine Calm.of_snd (by assumption) ?_ | with_reducible refine Calm.lit ?_ rfl rfl rfl

theorem State.dasSamples_calm {z : State} (s : State) (r : OutRow) (settling : Bool) (old : List Det) (new : List Det) (h : Calm z s) :
    Calm z (State.dasSamples s r settling old new) := by
  unfold State.dasSamples
  repeat' first
    | with_reducible assumption
    | (intro x; first | (refine Calm.named (z := z) (s := x) ?_ ?_; focus subst x) | (refine Calm.named (z := z) (s := x.1) ?_ ?_; focus subst x) | (refine Calm.named (z := z) (s := x.2) ?_ ?_; focus subst x) | skip)
    | lift_lets | split | with_reducible refine Calm.of_fst (by assumption) ?_ | with_reducible refine Calm.of_snd (by assumption) ?_
    | with_reducible refine Calm.lit ?_ rfl rfl rfl

theorem State.pushOutput_calm {z : State} (s : State) (h : Calm z s) : Calm z (State.pushOutput s) := by
  unfold State.pushOutput
  repeat' first
    | with_reducible assumption | (intro x; first | (refine Calm.named (z := z) (s := x) ?_ ?_; focus subst x) | skip)
    | with_reducible apply State.ringPut_calm | with_reducible apply State.dasSamples_calm | with_reducible apply State.postDets_calm
    | with_reducible apply State.postRows_calm | with_reducible apply Calm.cond | lift_lets | split
    | with_reducible refine Calm.lit ?_ rfl rfl rfl

theorem State.pushHist_calm {z : State} (s : State) (row : HistRow) (h : Calm z s) : Calm z (State.pushHist s row) := by
  unfold State.pushHist
  repeat' first
    | with_reducible assumption | (intro x; first | (refine Calm.named (z := z) (s := x) ?_ ?_; focus subst x) | skip)
    | with_reducible apply State.pushOutput_calm | lift_lets | split | with_reducible refine Calm.lit ?_ rfl rfl rfl

theorem State.fillTo_calm {z : State} (s : State) (n : ℕ) (vals : List PhW) (h : Calm z s) : Calm z (State.fillTo s n vals) := by
  unfold State.fillTo
  repeat' first
    | with_reducible assumption
    | (intro x; first | (refine Calm.named (z := z) (s := x) ?_ ?_; focus subst x) | (refine Calm.named (z := z) (s := x.1) ?_ ?_; focus subst x) | (refine Calm.named (z := z) (s := x.2) ?_ ?_; focus subst x) | skip)
    | with_reducible apply State.inc_calm | with_reducible apply State.pushHist_calm | with_reducible apply Calm.foldl
    | with_reducible apply Calm.foldl_fst | with_reducible apply Calm.foldl_snd | lift_lets | split
    | with_reducible refine Calm.of_fst (by assumption) ?_ | with_reducible refine Calm.of_snd (by assumption) ?_
    | with_reducible refine Calm.lit ?_ rfl rfl rfl

theorem State.strFlush_calm {z : State} (s : State) (h : Calm z s) : Calm z (State.strFlush s) := by
  unfold State.strFlush
  repeat' first
    | with_reducible assumption | (intro x; first | (refine Calm.named (z := z) (s := x) ?_ ?_; focus subst x) | skip)
    | with_reducible apply State.fillTo_calm | with_reducible apply State.postRows_calm | with_reducible apply State.postDets_calm
    | with_reducible apply State.strBegin_calm | with_reducible apply Calm.cond | lift_lets | split
    | with_reducible refine Calm.of_fst (by assumption) ?_ | with_reducible refine Calm.of_snd (by assumption) ?_
    | with_reducible refine Calm.lit ?_ rfl rfl rfl

theorem State.strEnd_calm {z : State} (s : State) (h : Calm z s) : Calm z (State.strEnd s) := by
  unfold State.strEnd
  repeat' first
    | with_reducible assumption | (intro x; first | (refine Calm.named (z := z) (s := x) ?_ ?_; focus subst x) | skip)
    | with_reducible apply State.strFlush_calm | lift_lets | split | with_reducible refine Calm.lit ?_ rfl rfl rfl

theorem State.trgSettle_calm {z : State} (s : State) (h : Calm z s) : Calm z (State.trgSettle s) := by
  unfold State.trgSettle
  repeat' first
    | with_reducible assumption | (intro x; first | (refine Calm.named (z := z) (s := x) ?_ ?_; focus subst x) | skip)
    | with_reducible apply State.setB_calm | lift_lets | split | with_reducible refine Calm.of_fst (by assumption) ?_
    | with_reducible refine Calm.of_snd (by assumption) ?_ | with_reducible refine Calm.lit ?_ rfl rfl rfl

theorem State.trgStop_calm {z : State} (s : State) (h : Calm z s) : Calm z (State.trgStop s) := by
  unfold State.trgStop
  repeat' first
    | with_reducible assumption | with_reducible apply State.trgSettle_calm | split | with_reducible refine Calm.lit ?_ rfl rfl rfl

theorem State.profUpd_calm {z : State} (s : State) (f : Prof → Prof) (h : Calm z s) : Calm z (State.profUpd s f) := by
  unfold State.profUpd
  repeat' first
    | with_reducible assumption | (intro x; first | (refine Calm.named (z := z) (s := x) ?_ ?_; focus subst x) | skip) | split
    | with_reducible refine Calm.lit ?_ rfl rfl rfl

theorem State.dtsEnd_calm {z : State} (s : State) (h : Calm z s) : Calm z (State.dtsEnd s) := by
  unfold State.dtsEnd
  repeat' first
    | with_reducible assumption | (intro x; first | (refine Calm.named (z := z) (s := x) ?_ ?_; focus subst x) | skip)
    | with_reducible apply State.profUpd_calm | with_reducible refine Calm.lit ?_ rfl rfl rfl

theorem State.filtUpd_calm {z : State} (s : State) (i : ℕ) (f : Filter → Filter) (h : Calm z s) : Calm z (State.filtUpd s i f) := by
  unfold State.filtUpd
  repeat' first
    | with_reducible assumption | with_reducible refine Calm.lit ?_ rfl rfl rfl

theorem State.startCopy_calm {z : State} (s : State) (i : ℕ) (fade : ℕ) (h : Calm z s) : Calm z (State.startCopy s i fade) := by
  unfold State.startCopy
  repeat' first
    | with_reducible assumption | (intro x; first | (refine Calm.named (z := z) (s := x) ?_ ?_; focus subst x) | skip)
    | with_reducible apply State.filtUpd_calm | with_reducible refine Calm.lit ?_ rfl rfl rfl

theorem State.fadeOver_calm {z : State} (s : State) (i : ℕ) (keep : Bool) (h : Calm z s) : Calm z (State.fadeOver s i keep) := by
  unfold State.fadeOver
  repeat' first
    | with_reducible assumption | (intro x; first | (refine Calm.named (z := z) (s := x) ?_ ?_; focus subst x) | skip)
    | with_reducible apply State.filtUpd_calm | with_reducible apply State.startCopy_calm | split
    | with_reducible refine Calm.of_fst (by assumption) ?_ | with_reducible refine Calm.of_snd (by assumption) ?_
    | with_reducible refine Calm.lit ?_ rfl rfl rfl

theorem State.fadesEnd_calm {z : State} (s : State) (h : Calm z s) : Calm z (State.fadesEnd s) := by
  unfold State.fadesEnd
  repeat' first
    | with_reducible assumption | (intro x; first | (refine Calm.named (z := z) (s := x) ?_ ?_; focus subst x) | skip)
    | with_reducible apply State.fadeOver_calm | with_reducible apply Calm.foldl | split
    | with_reducible refine Calm.of_fst (by assumption) ?_ | with_reducible refine Calm.of_snd (by assumption) ?_
    | with_reducible refine Calm.lit ?_ rfl rfl rfl

theorem State.runEnded_calm {z : State} (s : State) (h : Calm z s) : Calm z (State.runEnded s) := by
  unfold State.runEnded
  repeat' first
    | with_reducible assumption | (intro x; first | (refine Calm.named (z := z) (s := x) ?_ ?_; focus subst x) | skip)
    | with_reducible apply State.strEnd_calm | with_reducible apply State.dtsEnd_calm | with_reducible apply State.fadesEnd_calm | lift_lets
    | split | with_reducible refine Calm.lit ?_ rfl rfl rfl

theorem State.seqStop_calm {z : State} (s : State) (h : Calm z s) : Calm z (State.seqStop s) := by
  unfold State.seqStop
  repeat' first
    | with_reducible assumption | with_reducible apply State.runEnded_calm | with_reducible refine Calm.lit ?_ rfl rfl rfl

theorem State.hkSetRun_calm {z : State} (s : State) (inj : Bool) (r : Option HkRun) (h : Calm z s) : Calm z (State.hkSetRun s inj r) := by
  unfold State.hkSetRun
  repeat' first
    | with_reducible assumption | split | with_reducible refine Calm.lit ?_ rfl rfl rfl

theorem State.hkBlock_calm {z : State} (s : State) (inj : Bool) (r : HkRun) (h : Calm z s) : Calm z (State.hkBlock s inj r) := by
  unfold State.hkBlock
  repeat' first
    | with_reducible assumption | (intro x; first | (refine Calm.named (z := z) (s := x) ?_ ?_; focus subst x) | skip)
    | with_reducible apply State.publish_calm | split | lift_lets | with_reducible refine Calm.of_fst (by assumption) ?_
    | with_reducible refine Calm.of_snd (by assumption) ?_ | with_reducible refine Calm.lit ?_ rfl rfl rfl

theorem State.hkSample_calm {z : State} (s : State) (inj : Bool) (x : HkSample) (h : Calm z s) : Calm z (State.hkSample s inj x) := by
  unfold State.hkSample
  repeat' first
    | with_reducible assumption | (intro x; first | (refine Calm.named (z := z) (s := x) ?_ ?_; focus subst x) | skip)
    | with_reducible apply State.momentary_calm | with_reducible apply State.hkSetRun_calm | with_reducible apply State.hkBlock_calm
    | with_reducible apply Calm.cond | split | lift_lets | with_reducible refine Calm.of_fst (by assumption) ?_
    | with_reducible refine Calm.of_snd (by assumption) ?_ | with_reducible refine Calm.lit ?_ rfl rfl rfl

theorem State.hkPassEnd_calm {z : State} (s : State) (inj : Bool) (r : HkRun) (h : Calm z s) : Calm z (State.hkPassEnd s inj r) := by
  unfold State.hkPassEnd
  repeat' first
    | with_reducible assumption | (intro x; first | (refine Calm.named (z := z) (s := x) ?_ ?_; focus subst x) | skip)
    | with_reducible apply State.hkSetRun_calm | with_reducible apply State.hkBlock_calm | with_reducible apply State.hkRegular_calm | split
    | lift_lets

theorem State.hkBegin_calm {z : State} (s : State) (kind : HkKind) (c : ℕ) (entry : ℕ) (lead : Bool) (cfg : Word) (h : Calm z s) :
    Calm z (State.hkBegin s kind c entry lead cfg) := by
  unfold State.hkBegin
  repeat' first
    | with_reducible assumption | (intro x; first | (refine Calm.named (z := z) (s := x) ?_ ?_; focus subst x) | skip) | lift_lets | split
    | with_reducible refine Calm.of_fst (by assumption) ?_ | with_reducible refine Calm.of_snd (by assumption) ?_
    | with_reducible refine Calm.lit ?_ rfl rfl rfl

theorem State.hkAux_calm {z : State} (s : State) (entry : ℕ) (h : Calm z s) : Calm z (State.hkAux s entry).2 := by
  unfold State.hkAux
  repeat' first
    | with_reducible assumption | with_reducible apply State.free_calm | split | with_reducible refine Calm.of_fst (by assumption) ?_
    | with_reducible refine Calm.of_snd (by assumption) ?_

theorem State.hkAdvance_calm {z : State} (s : State) (inj : Bool) (a2 : ℕ) (h : Calm z s) : Calm z (State.hkAdvance s inj a2) := by
  induction a2 generalizing s with
  | zero => exact h
  | succ a2 ih =>
    unfold State.hkAdvance
    repeat' first
      | with_reducible assumption | with_reducible apply ih
      | (intro x; first | (refine Calm.named (z := z) (s := x) ?_ ?_; focus subst x) | (refine Calm.named (z := z) (s := x.1) ?_ ?_; focus subst x) | (refine Calm.named (z := z) (s := x.2) ?_ ?_; focus subst x) | skip)
      | with_reducible apply State.hkPassEnd_calm | with_reducible apply State.hkSetRun_calm | with_reducible apply State.hkBegin_calm
      | with_reducible apply State.hkSample_calm | with_reducible apply State.hkAux_calm | lift_lets | split
      | with_reducible refine Calm.of_fst (by assumption) ?_ | with_reducible refine Calm.of_snd (by assumption) ?_
      | with_reducible refine Calm.lit ?_ rfl rfl rfl

theorem State.hkGoOn_calm {z : State} (s : State) (inj : Bool) (h : Calm z s) : Calm z (State.hkGoOn s inj) := by
  unfold State.hkGoOn
  repeat' first
    | with_reducible assumption | with_reducible apply State.hkAdvance_calm | with_reducible apply State.hkSetRun_calm | split
    | with_reducible refine Calm.of_fst (by assumption) ?_ | with_reducible refine Calm.of_snd (by assumption) ?_
    | with_reducible refine Calm.lit ?_ rfl rfl rfl

theorem State.hkCalBegin_calm {z : State} (s : State) (k : HkCal) (h : Calm z s) : Calm z (State.hkCalBegin s k) := by
  unfold State.hkCalBegin
  repeat' first
    | with_reducible assumption | (intro x; first | (refine Calm.named (z := z) (s := x) ?_ ?_; focus subst x) | skip)
    | with_reducible apply State.hkBegin_calm | lift_lets | split

theorem State.hkNext_calm {z : State} (s : State) (h : Calm z s) : Calm z (State.hkNext s) := by
  unfold State.hkNext
  repeat' first
    | with_reducible assumption | (intro x; first | (refine Calm.named (z := z) (s := x) ?_ ?_; focus subst x) | skip)
    | with_reducible apply State.hkFlags_calm | with_reducible apply State.hkGoOn_calm | with_reducible apply State.hkCalBegin_calm
    | lift_lets | split | with_reducible refine Calm.of_fst (by assumption) ?_ | with_reducible refine Calm.of_snd (by assumption) ?_

theorem State.flsUpd_calm {z : State} (s : State) (n : ℕ) (f : FlsCh → FlsCh) (h : Calm z s) : Calm z (State.flsUpd s n f) := by
  unfold State.flsUpd
  repeat' first
    | with_reducible assumption | with_reducible refine Calm.lit ?_ rfl rfl rfl

theorem State.flsDisarm_calm {z : State} (s : State) (n : ℕ) (h : Calm z s) : Calm z (State.flsDisarm s n) := by
  unfold State.flsDisarm
  repeat' first
    | with_reducible assumption | (intro x; first | (refine Calm.named (z := z) (s := x) ?_ ?_; focus subst x) | skip)
    | with_reducible apply State.flsUpd_calm | with_reducible apply State.setF_calm | lift_lets | with_reducible refine Calm.lit ?_ rfl rfl rfl

theorem State.flsEvent_calm {z : State} (s : State) (n : ℕ) (i : ℕ) (edge : ℕ) (t : ℕ) (h : Calm z s) : Calm z (State.flsEvent s n i edge t) := by
  unfold State.flsEvent
  repeat' first
    | with_reducible assumption | (intro x; first | (refine Calm.named (z := z) (s := x) ?_ ?_; focus subst x) | skip)
    | with_reducible apply State.hkNext_calm | with_reducible apply State.hkFlash_calm | lift_lets | split

theorem State.flsEnd_calm {z : State} (s : State) (n : ℕ) (p : FlsPulse) (h : Calm z s) : Calm z (State.flsEnd s n p) := by
  unfold State.flsEnd
  repeat' first
    | with_reducible assumption
    | (intro x; first | (refine Calm.named (z := z) (s := x) ?_ ?_; focus subst x) | (refine Calm.named (z := z) (s := x.1) ?_ ?_; focus subst x) | (refine Calm.named (z := z) (s := x.2) ?_ ?_; focus subst x) | skip)
    | with_reducible apply State.setF_calm | with_reducible apply State.flsUpd_calm | with_reducible apply State.flsEvent_calm
    | with_reducible apply State.flsDisarm_calm | lift_lets | split | with_reducible refine Calm.of_fst (by assumption) ?_
    | with_reducible refine Calm.of_snd (by assumption) ?_ | with_reducible refine Calm.lit ?_ rfl rfl rfl

theorem State.flsCut_calm {z : State} (s : State) (h : Calm z s) : Calm z (State.flsCut s) := by
  unfold State.flsCut
  repeat' first
    | with_reducible assumption | (intro x; first | (refine Calm.named (z := z) (s := x) ?_ ?_; focus subst x) | skip)
    | with_reducible apply State.flsUpd_calm | with_reducible apply State.setF_calm | with_reducible apply State.flsEnd_calm
    | with_reducible apply Calm.cond | with_reducible apply Calm.foldl | lift_lets | split
    | with_reducible refine Calm.of_fst (by assumption) ?_ | with_reducible refine Calm.of_snd (by assumption) ?_
    | with_reducible refine Calm.lit ?_ rfl rfl rfl

theorem State.launchOff_calm {z : State} (s : State) (h : Calm z s) : Calm z (State.launchOff s) := by
  unfold State.launchOff
  repeat' first
    | with_reducible assumption | (intro x; first | (refine Calm.named (z := z) (s := x) ?_ ?_; focus subst x) | skip)
    | with_reducible apply State.seqStop_calm | lift_lets | with_reducible refine Calm.lit ?_ rfl rfl rfl

/-- Entry into HOLD from a state that has one: the module state is HOLD, no acquisition waits, the lease is suspended, no recovery and no moult
goes on; the cores stay as they are. -/
theorem State.enterHold_calm (h : s.mode.holds = true) (cause : Nat) :
    Calm { s with mode := .hold, gate := { s.gate with start := none, fin := none, stopPend := false },
                  flt := { s.flt with leaseSusp := true, recovery := none }, sec := { s.sec with moult := none } } (s.enterHold cause) := by
  simp only [State.enterHold, h, if_true, State.holdMove]
  apply State.alarm_calm; apply State.setB_calm; apply State.flsCut_calm; apply State.trgStop_calm; apply State.launchOff_calm
  exact ⟨rfl, rfl, rfl, rfl, rfl, rfl, rfl⟩

end Sys2Proof.Machine
end

