-- ==== Sys2Proof/Laws/State.lean ====
section
/-! SUPPORT. One lemma per field and update: what each update of the state leaves alone. -/

namespace Sys2Proof.Machine

open Csr

variable (s : State)

/-! What an update writes, said once. -/

theorem State.noteRaised_lit (a i : Nat) : ∃ r, s.noteRaised a i = { s with raised := r } := by
  unfold State.noteRaised; split <;> exact ⟨_, rfl⟩

theorem State.setB_lit (a i : Nat) (v : Bool) : ∃ c r, s.setB a i v = { s with csr := c, raised := r } := by
  cases v
  · exact ⟨_, _, rfl⟩
  · obtain ⟨r, e⟩ := (s.setF a i i (b2n true)).noteRaised_lit a i
    exact ⟨_, r, e⟩

theorem State.markEra_lit : ∃ x, s.markEra = { s with eras := x } := by
  unfold State.markEra
  generalize s.eras = l
  cases l with
  | nil => exact ⟨_, rfl⟩
  | cons x l =>
    dsimp only
    by_cases h : x.instar = s.flt.instar ∧ x.hold = s.holdover
    · exact ⟨_, if_pos h⟩
    · exact ⟨_, if_neg h⟩

theorem State.mapCommit_lit (m t : Nat) :
    ∃ c r x k, s.mapCommit m t = { s with csr := c, raised := r, str := { s.str with maps := x, commit := Prod.fst k, lastMap := Prod.snd k } } := by
  unfold State.mapCommit
  dsimp only
  split
  · obtain ⟨c, r, e⟩ := State.setB_lit { s with str := { s.str with commit := none, lastMap := some (m, t, (spGet s.str.maps m).getD []), maps := spPut s.str.maps m (some (s.stagedMap m)) } } STR_MAPVALID m true
    exact ⟨_, r, _, (none, some (m, t, (spGet s.str.maps m).getD [])),
      congrArg (fun (t : State) => t.setF (STR_MAPCNT m) 17 0 (mapExpand (s.stagedMap m)).length) e⟩
  · obtain ⟨c, r, e⟩ := State.setB_lit { s with str := { s.str with commit := none, lastMap := some (m, t, (spGet s.str.maps m).getD []) } } STR_STAT 29 true
    exact ⟨c, r, _, (none, some (m, t, (spGet s.str.maps m).getD [])), e⟩

theorem State.mapSettle_lit : ∃ c r x k, s.mapSettle = { s with csr := c, raised := r, str := { s.str with maps := x, commit := Prod.fst k, lastMap := Prod.snd k } } := by
  unfold State.mapSettle
  split
  · split
    · exact s.mapCommit_lit _ _
    · exact ⟨_, _, _, (s.str.commit, s.str.lastMap), rfl⟩
  · exact ⟨_, _, _, (s.str.commit, s.str.lastMap), rfl⟩

/-- Sending characters changes the transmit buffer only. -/
theorem DbgSt.send_lit (d : DbgSt) (dt : Nat) : ∃ w p, d.send dt = { d with uart := w, uartPhase := p } := by
  simp only [DbgSt.send]; split
  · exact ⟨_, _, rfl⟩
  · split <;> exact ⟨_, _, rfl⟩

/-- Everything that the passing of time changes. -/
theorem State.elapse_lit (dt : Nat) :
    ∃ c r x k l n w p, s.elapse dt =
      { s with csr := c, raised := r, str := { s.str with maps := x, commit := Prod.fst k, lastMap := Prod.snd k }, eras := l, flt := { s.flt with cnt := n },
               dbg := { s.dbg with uart := w, uartPhase := p }, time := s.time + dt, up := s.up + dt } := by
  unfold State.elapse
  dsimp only
  have hd : ∃ w p, (if (s.b DBG_UART 31 && s.mode.live) = true then s.dbg.send dt else s.dbg) = { s.dbg with uart := w, uartPhase := p } := by
    split
    · exact DbgSt.send_lit _ _
    · exact ⟨_, _, rfl⟩
  obtain ⟨w, p, hd⟩ := hd
  rw [hd]
  obtain ⟨l, e⟩ := s.markEra_lit
  rw [e]
  obtain ⟨c, r, x, k, e⟩ := State.mapSettle_lit _
  exact ⟨c, r, x, k, _, _, _, _, e⟩

/-- The same while no map commit is in progress. -/
theorem State.elapse_quiet (h : s.str.commit = none) (dt : Nat) :
    ∃ l n w p, s.elapse dt =
      { s with eras := l, flt := { s.flt with cnt := n }, dbg := { s.dbg with uart := w, uartPhase := p }, time := s.time + dt, up := s.up + dt } := by
  unfold State.elapse
  dsimp only
  have hd : ∃ w p, (if (s.b DBG_UART 31 && s.mode.live) = true then s.dbg.send dt else s.dbg) = { s.dbg with uart := w, uartPhase := p } := by
    split
    · exact DbgSt.send_lit _ _
    · exact ⟨_, _, rfl⟩
  obtain ⟨w, p, hd⟩ := hd
  rw [hd]
  obtain ⟨l, e⟩ := s.markEra_lit
  rw [e]
  have hs (u : State) (hu : u.str = s.str) : u.mapSettle = u := by unfold State.mapSettle; rw [hu, h]
  exact ⟨_, _, _, _, hs _ rfl⟩

theorem State.cycles_lit (n : Nat) :
    ∃ c r x k l v w p, s.cycles n =
      { s with csr := c, raised := r, str := { s.str with maps := x, commit := Prod.fst k, lastMap := Prod.snd k }, eras := l, flt := { s.flt with cnt := v },
               dbg := { s.dbg with uart := w, uartPhase := p }, time := s.time + n * s.corePeriod, up := s.up + n * s.corePeriod } :=
  s.elapse_lit _

@[simp] theorem State.putWords_time (a : Nat) (ws : List Nat) : (s.putWords a ws).time = s.time := rfl
@[simp] theorem State.putWords_up (a : Nat) (ws : List Nat) : (s.putWords a ws).up = s.up := rfl
@[simp] theorem State.putWords_fresh (a : Nat) (ws : List Nat) : (s.putWords a ws).fresh = s.fresh := rfl
@[simp] theorem State.putWords_mode (a : Nat) (ws : List Nat) : (s.putWords a ws).mode = s.mode := rfl
@[simp] theorem State.putWords_csr (a : Nat) (ws : List Nat) : (s.putWords a ws).csr = s.csr := rfl
@[simp] theorem State.putWords_latch (a : Nat) (ws : List Nat) : (s.putWords a ws).latch = s.latch := rfl
@[simp] theorem State.putWords_heldLo (a : Nat) (ws : List Nat) : (s.putWords a ws).heldLo = s.heldLo := rfl
@[simp] theorem State.putWords_raised (a : Nat) (ws : List Nat) : (s.putWords a ws).raised = s.raised := rfl
@[simp] theorem State.putWords_prevRes (a : Nat) (ws : List Nat) : (s.putWords a ws).prevRes = s.prevRes := rfl
@[simp] theorem State.putWords_eras (a : Nat) (ws : List Nat) : (s.putWords a ws).eras = s.eras := rfl
@[simp] theorem State.putWords_core (a : Nat) (ws : List Nat) : (s.putWords a ws).core = s.core := rfl
@[simp] theorem State.putWords_gate (a : Nat) (ws : List Nat) : (s.putWords a ws).gate = s.gate := rfl
@[simp] theorem State.putWords_que (a : Nat) (ws : List Nat) : (s.putWords a ws).que = s.que := rfl
@[simp] theorem State.putWords_flt (a : Nat) (ws : List Nat) : (s.putWords a ws).flt = s.flt := rfl
@[simp] theorem State.putWords_sec (a : Nat) (ws : List Nat) : (s.putWords a ws).sec = s.sec := rfl
@[simp] theorem State.putWords_pwr (a : Nat) (ws : List Nat) : (s.putWords a ws).pwr = s.pwr := rfl
@[simp] theorem State.putWords_dbg (a : Nat) (ws : List Nat) : (s.putWords a ws).dbg = s.dbg := rfl
@[simp] theorem State.putWords_pin (a : Nat) (ws : List Nat) : (s.putWords a ws).pin = s.pin := rfl
@[simp] theorem State.putWords_lch (a : Nat) (ws : List Nat) : (s.putWords a ws).lch = s.lch := rfl
@[simp] theorem State.putWords_rcv (a : Nat) (ws : List Nat) : (s.putWords a ws).rcv = s.rcv := rfl
@[simp] theorem State.putWords_phs (a : Nat) (ws : List Nat) : (s.putWords a ws).phs = s.phs := rfl
@[simp] theorem State.putWords_dts (a : Nat) (ws : List Nat) : (s.putWords a ws).dts = s.dts := rfl
@[simp] theorem State.putWords_str (a : Nat) (ws : List Nat) : (s.putWords a ws).str = s.str := rfl
@[simp] theorem State.putWords_vec (a : Nat) (ws : List Nat) : (s.putWords a ws).vec = s.vec := rfl
@[simp] theorem State.putWords_fel (a : Nat) (ws : List Nat) : (s.putWords a ws).fel = s.fel := rfl
@[simp] theorem State.putWords_trg (a : Nat) (ws : List Nat) : (s.putWords a ws).trg = s.trg := rfl
@[simp] theorem State.putWords_evb (a : Nat) (ws : List Nat) : (s.putWords a ws).evb = s.evb := rfl
@[simp] theorem State.putWords_tim (a : Nat) (ws : List Nat) : (s.putWords a ws).tim = s.tim := rfl
@[simp] theorem State.putWords_fab (a : Nat) (ws : List Nat) : (s.putWords a ws).fab = s.fab := rfl
@[simp] theorem State.putWords_dram_train (a : Nat) (ws : List Nat) : (s.putWords a ws).dram.train = s.dram.train := rfl
@[simp] theorem State.putWords_dram_rate (a : Nat) (ws : List Nat) : (s.putWords a ws).dram.rate = s.dram.rate := rfl
@[simp] theorem State.putWords_dram_later (a : Nat) (ws : List Nat) : (s.putWords a ws).dram.later = s.dram.later := rfl
@[simp] theorem State.putWords_dram_chans (a : Nat) (ws : List Nat) : (s.putWords a ws).dram.chans = s.dram.chans := rfl
@[simp] theorem State.putWords_cmp (a : Nat) (ws : List Nat) : (s.putWords a ws).cmp = s.cmp := rfl
@[simp] theorem State.putWords_clk (a : Nat) (ws : List Nat) : (s.putWords a ws).clk = s.clk := rfl
@[simp] theorem State.putWords_hkc (a : Nat) (ws : List Nat) : (s.putWords a ws).hkc = s.hkc := rfl
@[simp] theorem State.putWords_fls (a : Nat) (ws : List Nat) : (s.putWords a ws).fls = s.fls := rfl
@[simp] theorem State.putWords_pending (a : Nat) (ws : List Nat) : (s.putWords a ws).pending = s.pending := rfl

@[simp] theorem State.setCsr_time (a : Nat) (v : Word) : (s.setCsr a v).time = s.time := rfl
@[simp] theorem State.setCsr_up (a : Nat) (v : Word) : (s.setCsr a v).up = s.up := rfl
@[simp] theorem State.setCsr_fresh (a : Nat) (v : Word) : (s.setCsr a v).fresh = s.fresh := rfl
@[simp] theorem State.setCsr_mode (a : Nat) (v : Word) : (s.setCsr a v).mode = s.mode := rfl
@[simp] theorem State.setCsr_latch (a : Nat) (v : Word) : (s.setCsr a v).latch = s.latch := rfl
@[simp] theorem State.setCsr_heldLo (a : Nat) (v : Word) : (s.setCsr a v).heldLo = s.heldLo := rfl
@[simp] theorem State.setCsr_raised (a : Nat) (v : Word) : (s.setCsr a v).raised = s.raised := rfl
@[simp] theorem State.setCsr_prevRes (a : Nat) (v : Word) : (s.setCsr a v).prevRes = s.prevRes := rfl
@[simp] theorem State.setCsr_eras (a : Nat) (v : Word) : (s.setCsr a v).eras = s.eras := rfl
@[simp] theorem State.setCsr_mem (a : Nat) (v : Word) : (s.setCsr a v).mem = s.mem := rfl
@[simp] theorem State.setCsr_poison (a : Nat) (v : Word) : (s.setCsr a v).poison = s.poison := rfl
@[simp] theorem State.setCsr_core (a : Nat) (v : Word) : (s.setCsr a v).core = s.core := rfl
@[simp] theorem State.setCsr_gate (a : Nat) (v : Word) : (s.setCsr a v).gate = s.gate := rfl
@[simp] theorem State.setCsr_que (a : Nat) (v : Word) : (s.setCsr a v).que = s.que := rfl
@[simp] theorem State.setCsr_flt (a : Nat) (v : Word) : (s.setCsr a v).flt = s.flt := rfl
@[simp] theorem State.setCsr_sec (a : Nat) (v : Word) : (s.setCsr a v).sec = s.sec := rfl
@[simp] theorem State.setCsr_pwr (a : Nat) (v : Word) : (s.setCsr a v).pwr = s.pwr := rfl
@[simp] theorem State.setCsr_dbg (a : Nat) (v : Word) : (s.setCsr a v).dbg = s.dbg := rfl
@[simp] theorem State.setCsr_pin (a : Nat) (v : Word) : (s.setCsr a v).pin = s.pin := rfl
@[simp] theorem State.setCsr_lch (a : Nat) (v : Word) : (s.setCsr a v).lch = s.lch := rfl
@[simp] theorem State.setCsr_rcv (a : Nat) (v : Word) : (s.setCsr a v).rcv = s.rcv := rfl
@[simp] theorem State.setCsr_phs (a : Nat) (v : Word) : (s.setCsr a v).phs = s.phs := rfl
@[simp] theorem State.setCsr_dts (a : Nat) (v : Word) : (s.setCsr a v).dts = s.dts := rfl
@[simp] theorem State.setCsr_str (a : Nat) (v : Word) : (s.setCsr a v).str = s.str := rfl
@[simp] theorem State.setCsr_vec (a : Nat) (v : Word) : (s.setCsr a v).vec = s.vec := rfl
@[simp] theorem State.setCsr_fel (a : Nat) (v : Word) : (s.setCsr a v).fel = s.fel := rfl
@[simp] theorem State.setCsr_trg (a : Nat) (v : Word) : (s.setCsr a v).trg = s.trg := rfl
@[simp] theorem State.setCsr_evb (a : Nat) (v : Word) : (s.setCsr a v).evb = s.evb := rfl
@[simp] theorem State.setCsr_tim (a : Nat) (v : Word) : (s.setCsr a v).tim = s.tim := rfl
@[simp] theorem State.setCsr_fab (a : Nat) (v : Word) : (s.setCsr a v).fab = s.fab := rfl
@[simp] theorem State.setCsr_dram (a : Nat) (v : Word) : (s.setCsr a v).dram = s.dram := rfl
@[simp] theorem State.setCsr_cmp (a : Nat) (v : Word) : (s.setCsr a v).cmp = s.cmp := rfl
@[simp] theorem State.setCsr_clk (a : Nat) (v : Word) : (s.setCsr a v).clk = s.clk := rfl
@[simp] theorem State.setCsr_hkc (a : Nat) (v : Word) : (s.setCsr a v).hkc = s.hkc := rfl
@[simp] theorem State.setCsr_fls (a : Nat) (v : Word) : (s.setCsr a v).fls = s.fls := rfl
@[simp] theorem State.setCsr_pending (a : Nat) (v : Word) : (s.setCsr a v).pending = s.pending := rfl

@[simp] theorem State.setF_time (a hi lo v : Nat) : (s.setF a hi lo v).time = s.time := rfl
@[simp] theorem State.setF_up (a hi lo v : Nat) : (s.setF a hi lo v).up = s.up := rfl
@[simp] theorem State.setF_fresh (a hi lo v : Nat) : (s.setF a hi lo v).fresh = s.fresh := rfl
@[simp] theorem State.setF_mode (a hi lo v : Nat) : (s.setF a hi lo v).mode = s.mode := rfl
@[simp] theorem State.setF_latch (a hi lo v : Nat) : (s.setF a hi lo v).latch = s.latch := rfl
@[simp] theorem State.setF_heldLo (a hi lo v : Nat) : (s.setF a hi lo v).heldLo = s.heldLo := rfl
@[simp] theorem State.setF_raised (a hi lo v : Nat) : (s.setF a hi lo v).raised = s.raised := rfl
@[simp] theorem State.setF_prevRes (a hi lo v : Nat) : (s.setF a hi lo v).prevRes = s.prevRes := rfl
@[simp] theorem State.setF_eras (a hi lo v : Nat) : (s.setF a hi lo v).eras = s.eras := rfl
@[simp] theorem State.setF_mem (a hi lo v : Nat) : (s.setF a hi lo v).mem = s.mem := rfl
@[simp] theorem State.setF_poison (a hi lo v : Nat) : (s.setF a hi lo v).poison = s.poison := rfl
@[simp] theorem State.setF_core (a hi lo v : Nat) : (s.setF a hi lo v).core = s.core := rfl
@[simp] theorem State.setF_gate (a hi lo v : Nat) : (s.setF a hi lo v).gate = s.gate := rfl
@[simp] theorem State.setF_que (a hi lo v : Nat) : (s.setF a hi lo v).que = s.que := rfl
@[simp] theorem State.setF_flt (a hi lo v : Nat) : (s.setF a hi lo v).flt = s.flt := rfl
@[simp] theorem State.setF_sec (a hi lo v : Nat) : (s.setF a hi lo v).sec = s.sec := rfl
@[simp] theorem State.setF_pwr (a hi lo v : Nat) : (s.setF a hi lo v).pwr = s.pwr := rfl
@[simp] theorem State.setF_dbg (a hi lo v : Nat) : (s.setF a hi lo v).dbg = s.dbg := rfl
@[simp] theorem State.setF_pin (a hi lo v : Nat) : (s.setF a hi lo v).pin = s.pin := rfl
@[simp] theorem State.setF_lch (a hi lo v : Nat) : (s.setF a hi lo v).lch = s.lch := rfl
@[simp] theorem State.setF_rcv (a hi lo v : Nat) : (s.setF a hi lo v).rcv = s.rcv := rfl
@[simp] theorem State.setF_phs (a hi lo v : Nat) : (s.setF a hi lo v).phs = s.phs := rfl
@[simp] theorem State.setF_dts (a hi lo v : Nat) : (s.setF a hi lo v).dts = s.dts := rfl
@[simp] theorem State.setF_str (a hi lo v : Nat) : (s.setF a hi lo v).str = s.str := rfl
@[simp] theorem State.setF_vec (a hi lo v : Nat) : (s.setF a hi lo v).vec = s.vec := rfl
@[simp] theorem State.setF_fel (a hi lo v : Nat) : (s.setF a hi lo v).fel = s.fel := rfl
@[simp] theorem State.setF_trg (a hi lo v : Nat) : (s.setF a hi lo v).trg = s.trg := rfl
@[simp] theorem State.setF_evb (a hi lo v : Nat) : (s.setF a hi lo v).evb = s.evb := rfl
@[simp] theorem State.setF_tim (a hi lo v : Nat) : (s.setF a hi lo v).tim = s.tim := rfl
@[simp] theorem State.setF_fab (a hi lo v : Nat) : (s.setF a hi lo v).fab = s.fab := rfl
@[simp] theorem State.setF_dram (a hi lo v : Nat) : (s.setF a hi lo v).dram = s.dram := rfl
@[simp] theorem State.setF_cmp (a hi lo v : Nat) : (s.setF a hi lo v).cmp = s.cmp := rfl
@[simp] theorem State.setF_clk (a hi lo v : Nat) : (s.setF a hi lo v).clk = s.clk := rfl
@[simp] theorem State.setF_hkc (a hi lo v : Nat) : (s.setF a hi lo v).hkc = s.hkc := rfl
@[simp] theorem State.setF_fls (a hi lo v : Nat) : (s.setF a hi lo v).fls = s.fls := rfl
@[simp] theorem State.setF_pending (a hi lo v : Nat) : (s.setF a hi lo v).pending = s.pending := rfl

@[simp] theorem State.noteRaised_time (a i : Nat) : (s.noteRaised a i).time = s.time := by obtain ⟨_, e⟩ := s.noteRaised_lit a i; rw [e]
@[simp] theorem State.noteRaised_up (a i : Nat) : (s.noteRaised a i).up = s.up := by obtain ⟨_, e⟩ := s.noteRaised_lit a i; rw [e]
@[simp] theorem State.noteRaised_fresh (a i : Nat) : (s.noteRaised a i).fresh = s.fresh := by obtain ⟨_, e⟩ := s.noteRaised_lit a i; rw [e]
@[simp] theorem State.noteRaised_mode (a i : Nat) : (s.noteRaised a i).mode = s.mode := by obtain ⟨_, e⟩ := s.noteRaised_lit a i; rw [e]
@[simp] theorem State.noteRaised_csr (a i : Nat) : (s.noteRaised a i).csr = s.csr := by obtain ⟨_, e⟩ := s.noteRaised_lit a i; rw [e]
@[simp] theorem State.noteRaised_latch (a i : Nat) : (s.noteRaised a i).latch = s.latch := by obtain ⟨_, e⟩ := s.noteRaised_lit a i; rw [e]
@[simp] theorem State.noteRaised_heldLo (a i : Nat) : (s.noteRaised a i).heldLo = s.heldLo := by obtain ⟨_, e⟩ := s.noteRaised_lit a i; rw [e]
@[simp] theorem State.noteRaised_prevRes (a i : Nat) : (s.noteRaised a i).prevRes = s.prevRes := by obtain ⟨_, e⟩ := s.noteRaised_lit a i; rw [e]
@[simp] theorem State.noteRaised_eras (a i : Nat) : (s.noteRaised a i).eras = s.eras := by obtain ⟨_, e⟩ := s.noteRaised_lit a i; rw [e]
@[simp] theorem State.noteRaised_mem (a i : Nat) : (s.noteRaised a i).mem = s.mem := by obtain ⟨_, e⟩ := s.noteRaised_lit a i; rw [e]
@[simp] theorem State.noteRaised_poison (a i : Nat) : (s.noteRaised a i).poison = s.poison := by obtain ⟨_, e⟩ := s.noteRaised_lit a i; rw [e]
@[simp] theorem State.noteRaised_core (a i : Nat) : (s.noteRaised a i).core = s.core := by obtain ⟨_, e⟩ := s.noteRaised_lit a i; rw [e]
@[simp] theorem State.noteRaised_gate (a i : Nat) : (s.noteRaised a i).gate = s.gate := by obtain ⟨_, e⟩ := s.noteRaised_lit a i; rw [e]
@[simp] theorem State.noteRaised_que (a i : Nat) : (s.noteRaised a i).que = s.que := by obtain ⟨_, e⟩ := s.noteRaised_lit a i; rw [e]
@[simp] theorem State.noteRaised_flt (a i : Nat) : (s.noteRaised a i).flt = s.flt := by obtain ⟨_, e⟩ := s.noteRaised_lit a i; rw [e]
@[simp] theorem State.noteRaised_sec (a i : Nat) : (s.noteRaised a i).sec = s.sec := by obtain ⟨_, e⟩ := s.noteRaised_lit a i; rw [e]
@[simp] theorem State.noteRaised_pwr (a i : Nat) : (s.noteRaised a i).pwr = s.pwr := by obtain ⟨_, e⟩ := s.noteRaised_lit a i; rw [e]
@[simp] theorem State.noteRaised_dbg (a i : Nat) : (s.noteRaised a i).dbg = s.dbg := by obtain ⟨_, e⟩ := s.noteRaised_lit a i; rw [e]
@[simp] theorem State.noteRaised_pin (a i : Nat) : (s.noteRaised a i).pin = s.pin := by obtain ⟨_, e⟩ := s.noteRaised_lit a i; rw [e]
@[simp] theorem State.noteRaised_lch (a i : Nat) : (s.noteRaised a i).lch = s.lch := by obtain ⟨_, e⟩ := s.noteRaised_lit a i; rw [e]
@[simp] theorem State.noteRaised_rcv (a i : Nat) : (s.noteRaised a i).rcv = s.rcv := by obtain ⟨_, e⟩ := s.noteRaised_lit a i; rw [e]
@[simp] theorem State.noteRaised_phs (a i : Nat) : (s.noteRaised a i).phs = s.phs := by obtain ⟨_, e⟩ := s.noteRaised_lit a i; rw [e]
@[simp] theorem State.noteRaised_dts (a i : Nat) : (s.noteRaised a i).dts = s.dts := by obtain ⟨_, e⟩ := s.noteRaised_lit a i; rw [e]
@[simp] theorem State.noteRaised_str (a i : Nat) : (s.noteRaised a i).str = s.str := by obtain ⟨_, e⟩ := s.noteRaised_lit a i; rw [e]
@[simp] theorem State.noteRaised_vec (a i : Nat) : (s.noteRaised a i).vec = s.vec := by obtain ⟨_, e⟩ := s.noteRaised_lit a i; rw [e]
@[simp] theorem State.noteRaised_fel (a i : Nat) : (s.noteRaised a i).fel = s.fel := by obtain ⟨_, e⟩ := s.noteRaised_lit a i; rw [e]
@[simp] theorem State.noteRaised_trg (a i : Nat) : (s.noteRaised a i).trg = s.trg := by obtain ⟨_, e⟩ := s.noteRaised_lit a i; rw [e]
@[simp] theorem State.noteRaised_evb (a i : Nat) : (s.noteRaised a i).evb = s.evb := by obtain ⟨_, e⟩ := s.noteRaised_lit a i; rw [e]
@[simp] theorem State.noteRaised_tim (a i : Nat) : (s.noteRaised a i).tim = s.tim := by obtain ⟨_, e⟩ := s.noteRaised_lit a i; rw [e]
@[simp] theorem State.noteRaised_fab (a i : Nat) : (s.noteRaised a i).fab = s.fab := by obtain ⟨_, e⟩ := s.noteRaised_lit a i; rw [e]
@[simp] theorem State.noteRaised_dram (a i : Nat) : (s.noteRaised a i).dram = s.dram := by obtain ⟨_, e⟩ := s.noteRaised_lit a i; rw [e]
@[simp] theorem State.noteRaised_cmp (a i : Nat) : (s.noteRaised a i).cmp = s.cmp := by obtain ⟨_, e⟩ := s.noteRaised_lit a i; rw [e]
@[simp] theorem State.noteRaised_clk (a i : Nat) : (s.noteRaised a i).clk = s.clk := by obtain ⟨_, e⟩ := s.noteRaised_lit a i; rw [e]
@[simp] theorem State.noteRaised_hkc (a i : Nat) : (s.noteRaised a i).hkc = s.hkc := by obtain ⟨_, e⟩ := s.noteRaised_lit a i; rw [e]
@[simp] theorem State.noteRaised_fls (a i : Nat) : (s.noteRaised a i).fls = s.fls := by obtain ⟨_, e⟩ := s.noteRaised_lit a i; rw [e]
@[simp] theorem State.noteRaised_pending (a i : Nat) : (s.noteRaised a i).pending = s.pending := by obtain ⟨_, e⟩ := s.noteRaised_lit a i; rw [e]

@[simp] theorem State.setB_time (a i : Nat) (v : Bool) : (s.setB a i v).time = s.time := by obtain ⟨_, _, e⟩ := s.setB_lit a i v; rw [e]
@[simp] theorem State.setB_up (a i : Nat) (v : Bool) : (s.setB a i v).up = s.up := by obtain ⟨_, _, e⟩ := s.setB_lit a i v; rw [e]
@[simp] theorem State.setB_fresh (a i : Nat) (v : Bool) : (s.setB a i v).fresh = s.fresh := by obtain ⟨_, _, e⟩ := s.setB_lit a i v; rw [e]
@[simp] theorem State.setB_mode (a i : Nat) (v : Bool) : (s.setB a i v).mode = s.mode := by obtain ⟨_, _, e⟩ := s.setB_lit a i v; rw [e]
@[simp] theorem State.setB_latch (a i : Nat) (v : Bool) : (s.setB a i v).latch = s.latch := by obtain ⟨_, _, e⟩ := s.setB_lit a i v; rw [e]
@[simp] theorem State.setB_heldLo (a i : Nat) (v : Bool) : (s.setB a i v).heldLo = s.heldLo := by obtain ⟨_, _, e⟩ := s.setB_lit a i v; rw [e]
@[simp] theorem State.setB_prevRes (a i : Nat) (v : Bool) : (s.setB a i v).prevRes = s.prevRes := by obtain ⟨_, _, e⟩ := s.setB_lit a i v; rw [e]
@[simp] theorem State.setB_eras (a i : Nat) (v : Bool) : (s.setB a i v).eras = s.eras := by obtain ⟨_, _, e⟩ := s.setB_lit a i v; rw [e]
@[simp] theorem State.setB_mem (a i : Nat) (v : Bool) : (s.setB a i v).mem = s.mem := by obtain ⟨_, _, e⟩ := s.setB_lit a i v; rw [e]
@[simp] theorem State.setB_poison (a i : Nat) (v : Bool) : (s.setB a i v).poison = s.poison := by obtain ⟨_, _, e⟩ := s.setB_lit a i v; rw [e]
@[simp] theorem State.setB_core (a i : Nat) (v : Bool) : (s.setB a i v).core = s.core := by obtain ⟨_, _, e⟩ := s.setB_lit a i v; rw [e]
@[simp] theorem State.setB_gate (a i : Nat) (v : Bool) : (s.setB a i v).gate = s.gate := by obtain ⟨_, _, e⟩ := s.setB_lit a i v; rw [e]
@[simp] theorem State.setB_que (a i : Nat) (v : Bool) : (s.setB a i v).que = s.que := by obtain ⟨_, _, e⟩ := s.setB_lit a i v; rw [e]
@[simp] theorem State.setB_flt (a i : Nat) (v : Bool) : (s.setB a i v).flt = s.flt := by obtain ⟨_, _, e⟩ := s.setB_lit a i v; rw [e]
@[simp] theorem State.setB_sec (a i : Nat) (v : Bool) : (s.setB a i v).sec = s.sec := by obtain ⟨_, _, e⟩ := s.setB_lit a i v; rw [e]
@[simp] theorem State.setB_pwr (a i : Nat) (v : Bool) : (s.setB a i v).pwr = s.pwr := by obtain ⟨_, _, e⟩ := s.setB_lit a i v; rw [e]
@[simp] theorem State.setB_dbg (a i : Nat) (v : Bool) : (s.setB a i v).dbg = s.dbg := by obtain ⟨_, _, e⟩ := s.setB_lit a i v; rw [e]
@[simp] theorem State.setB_pin (a i : Nat) (v : Bool) : (s.setB a i v).pin = s.pin := by obtain ⟨_, _, e⟩ := s.setB_lit a i v; rw [e]
@[simp] theorem State.setB_lch (a i : Nat) (v : Bool) : (s.setB a i v).lch = s.lch := by obtain ⟨_, _, e⟩ := s.setB_lit a i v; rw [e]
@[simp] theorem State.setB_rcv (a i : Nat) (v : Bool) : (s.setB a i v).rcv = s.rcv := by obtain ⟨_, _, e⟩ := s.setB_lit a i v; rw [e]
@[simp] theorem State.setB_phs (a i : Nat) (v : Bool) : (s.setB a i v).phs = s.phs := by obtain ⟨_, _, e⟩ := s.setB_lit a i v; rw [e]
@[simp] theorem State.setB_dts (a i : Nat) (v : Bool) : (s.setB a i v).dts = s.dts := by obtain ⟨_, _, e⟩ := s.setB_lit a i v; rw [e]
@[simp] theorem State.setB_str (a i : Nat) (v : Bool) : (s.setB a i v).str = s.str := by obtain ⟨_, _, e⟩ := s.setB_lit a i v; rw [e]
@[simp] theorem State.setB_vec (a i : Nat) (v : Bool) : (s.setB a i v).vec = s.vec := by obtain ⟨_, _, e⟩ := s.setB_lit a i v; rw [e]
@[simp] theorem State.setB_fel (a i : Nat) (v : Bool) : (s.setB a i v).fel = s.fel := by obtain ⟨_, _, e⟩ := s.setB_lit a i v; rw [e]
@[simp] theorem State.setB_trg (a i : Nat) (v : Bool) : (s.setB a i v).trg = s.trg := by obtain ⟨_, _, e⟩ := s.setB_lit a i v; rw [e]
@[simp] theorem State.setB_evb (a i : Nat) (v : Bool) : (s.setB a i v).evb = s.evb := by obtain ⟨_, _, e⟩ := s.setB_lit a i v; rw [e]
@[simp] theorem State.setB_tim (a i : Nat) (v : Bool) : (s.setB a i v).tim = s.tim := by obtain ⟨_, _, e⟩ := s.setB_lit a i v; rw [e]
@[simp] theorem State.setB_fab (a i : Nat) (v : Bool) : (s.setB a i v).fab = s.fab := by obtain ⟨_, _, e⟩ := s.setB_lit a i v; rw [e]
@[simp] theorem State.setB_dram (a i : Nat) (v : Bool) : (s.setB a i v).dram = s.dram := by obtain ⟨_, _, e⟩ := s.setB_lit a i v; rw [e]
@[simp] theorem State.setB_cmp (a i : Nat) (v : Bool) : (s.setB a i v).cmp = s.cmp := by obtain ⟨_, _, e⟩ := s.setB_lit a i v; rw [e]
@[simp] theorem State.setB_clk (a i : Nat) (v : Bool) : (s.setB a i v).clk = s.clk := by obtain ⟨_, _, e⟩ := s.setB_lit a i v; rw [e]
@[simp] theorem State.setB_hkc (a i : Nat) (v : Bool) : (s.setB a i v).hkc = s.hkc := by obtain ⟨_, _, e⟩ := s.setB_lit a i v; rw [e]
@[simp] theorem State.setB_fls (a i : Nat) (v : Bool) : (s.setB a i v).fls = s.fls := by obtain ⟨_, _, e⟩ := s.setB_lit a i v; rw [e]
@[simp] theorem State.setB_pending (a i : Nat) (v : Bool) : (s.setB a i v).pending = s.pending := by obtain ⟨_, _, e⟩ := s.setB_lit a i v; rw [e]

@[simp] theorem State.keepResult_time (o : State) (a : Nat) (v : Option Nat) : (s.keepResult o a v).time = s.time := rfl
@[simp] theorem State.keepResult_up (o : State) (a : Nat) (v : Option Nat) : (s.keepResult o a v).up = s.up := rfl
@[simp] theorem State.keepResult_fresh (o : State) (a : Nat) (v : Option Nat) : (s.keepResult o a v).fresh = s.fresh := rfl
@[simp] theorem State.keepResult_mode (o : State) (a : Nat) (v : Option Nat) : (s.keepResult o a v).mode = s.mode := rfl
@[simp] theorem State.keepResult_csr (o : State) (a : Nat) (v : Option Nat) : (s.keepResult o a v).csr = s.csr := rfl
@[simp] theorem State.keepResult_latch (o : State) (a : Nat) (v : Option Nat) : (s.keepResult o a v).latch = s.latch := rfl
@[simp] theorem State.keepResult_heldLo (o : State) (a : Nat) (v : Option Nat) : (s.keepResult o a v).heldLo = s.heldLo := rfl
@[simp] theorem State.keepResult_raised (o : State) (a : Nat) (v : Option Nat) : (s.keepResult o a v).raised = s.raised := rfl
@[simp] theorem State.keepResult_eras (o : State) (a : Nat) (v : Option Nat) : (s.keepResult o a v).eras = s.eras := rfl
@[simp] theorem State.keepResult_mem (o : State) (a : Nat) (v : Option Nat) : (s.keepResult o a v).mem = s.mem := rfl
@[simp] theorem State.keepResult_poison (o : State) (a : Nat) (v : Option Nat) : (s.keepResult o a v).poison = s.poison := rfl
@[simp] theorem State.keepResult_core (o : State) (a : Nat) (v : Option Nat) : (s.keepResult o a v).core = s.core := rfl
@[simp] theorem State.keepResult_gate (o : State) (a : Nat) (v : Option Nat) : (s.keepResult o a v).gate = s.gate := rfl
@[simp] theorem State.keepResult_que (o : State) (a : Nat) (v : Option Nat) : (s.keepResult o a v).que = s.que := rfl
@[simp] theorem State.keepResult_flt (o : State) (a : Nat) (v : Option Nat) : (s.keepResult o a v).flt = s.flt := rfl
@[simp] theorem State.keepResult_sec (o : State) (a : Nat) (v : Option Nat) : (s.keepResult o a v).sec = s.sec := rfl
@[simp] theorem State.keepResult_pwr (o : State) (a : Nat) (v : Option Nat) : (s.keepResult o a v).pwr = s.pwr := rfl
@[simp] theorem State.keepResult_dbg (o : State) (a : Nat) (v : Option Nat) : (s.keepResult o a v).dbg = s.dbg := rfl
@[simp] theorem State.keepResult_pin (o : State) (a : Nat) (v : Option Nat) : (s.keepResult o a v).pin = s.pin := rfl
@[simp] theorem State.keepResult_lch (o : State) (a : Nat) (v : Option Nat) : (s.keepResult o a v).lch = s.lch := rfl
@[simp] theorem State.keepResult_rcv (o : State) (a : Nat) (v : Option Nat) : (s.keepResult o a v).rcv = s.rcv := rfl
@[simp] theorem State.keepResult_phs (o : State) (a : Nat) (v : Option Nat) : (s.keepResult o a v).phs = s.phs := rfl
@[simp] theorem State.keepResult_dts (o : State) (a : Nat) (v : Option Nat) : (s.keepResult o a v).dts = s.dts := rfl
@[simp] theorem State.keepResult_str (o : State) (a : Nat) (v : Option Nat) : (s.keepResult o a v).str = s.str := rfl
@[simp] theorem State.keepResult_vec (o : State) (a : Nat) (v : Option Nat) : (s.keepResult o a v).vec = s.vec := rfl
@[simp] theorem State.keepResult_fel (o : State) (a : Nat) (v : Option Nat) : (s.keepResult o a v).fel = s.fel := rfl
@[simp] theorem State.keepResult_trg (o : State) (a : Nat) (v : Option Nat) : (s.keepResult o a v).trg = s.trg := rfl
@[simp] theorem State.keepResult_evb (o : State) (a : Nat) (v : Option Nat) : (s.keepResult o a v).evb = s.evb := rfl
@[simp] theorem State.keepResult_tim (o : State) (a : Nat) (v : Option Nat) : (s.keepResult o a v).tim = s.tim := rfl
@[simp] theorem State.keepResult_fab (o : State) (a : Nat) (v : Option Nat) : (s.keepResult o a v).fab = s.fab := rfl
@[simp] theorem State.keepResult_dram (o : State) (a : Nat) (v : Option Nat) : (s.keepResult o a v).dram = s.dram := rfl
@[simp] theorem State.keepResult_cmp (o : State) (a : Nat) (v : Option Nat) : (s.keepResult o a v).cmp = s.cmp := rfl
@[simp] theorem State.keepResult_clk (o : State) (a : Nat) (v : Option Nat) : (s.keepResult o a v).clk = s.clk := rfl
@[simp] theorem State.keepResult_hkc (o : State) (a : Nat) (v : Option Nat) : (s.keepResult o a v).hkc = s.hkc := rfl
@[simp] theorem State.keepResult_fls (o : State) (a : Nat) (v : Option Nat) : (s.keepResult o a v).fls = s.fls := rfl
@[simp] theorem State.keepResult_pending (o : State) (a : Nat) (v : Option Nat) : (s.keepResult o a v).pending = s.pending := rfl

@[simp] theorem State.markEra_time : (s.markEra).time = s.time := by obtain ⟨_, e⟩ := s.markEra_lit; rw [e]
@[simp] theorem State.markEra_up : (s.markEra).up = s.up := by obtain ⟨_, e⟩ := s.markEra_lit; rw [e]
@[simp] theorem State.markEra_fresh : (s.markEra).fresh = s.fresh := by obtain ⟨_, e⟩ := s.markEra_lit; rw [e]
@[simp] theorem State.markEra_mode : (s.markEra).mode = s.mode := by obtain ⟨_, e⟩ := s.markEra_lit; rw [e]
@[simp] theorem State.markEra_csr : (s.markEra).csr = s.csr := by obtain ⟨_, e⟩ := s.markEra_lit; rw [e]
@[simp] theorem State.markEra_latch : (s.markEra).latch = s.latch := by obtain ⟨_, e⟩ := s.markEra_lit; rw [e]
@[simp] theorem State.markEra_heldLo : (s.markEra).heldLo = s.heldLo := by obtain ⟨_, e⟩ := s.markEra_lit; rw [e]
@[simp] theorem State.markEra_raised : (s.markEra).raised = s.raised := by obtain ⟨_, e⟩ := s.markEra_lit; rw [e]
@[simp] theorem State.markEra_prevRes : (s.markEra).prevRes = s.prevRes := by obtain ⟨_, e⟩ := s.markEra_lit; rw [e]
@[simp] theorem State.markEra_mem : (s.markEra).mem = s.mem := by obtain ⟨_, e⟩ := s.markEra_lit; rw [e]
@[simp] theorem State.markEra_poison : (s.markEra).poison = s.poison := by obtain ⟨_, e⟩ := s.markEra_lit; rw [e]
@[simp] theorem State.markEra_core : (s.markEra).core = s.core := by obtain ⟨_, e⟩ := s.markEra_lit; rw [e]
@[simp] theorem State.markEra_gate : (s.markEra).gate = s.gate := by obtain ⟨_, e⟩ := s.markEra_lit; rw [e]
@[simp] theorem State.markEra_que : (s.markEra).que = s.que := by obtain ⟨_, e⟩ := s.markEra_lit; rw [e]
@[simp] theorem State.markEra_flt : (s.markEra).flt = s.flt := by obtain ⟨_, e⟩ := s.markEra_lit; rw [e]
@[simp] theorem State.markEra_sec : (s.markEra).sec = s.sec := by obtain ⟨_, e⟩ := s.markEra_lit; rw [e]
@[simp] theorem State.markEra_pwr : (s.markEra).pwr = s.pwr := by obtain ⟨_, e⟩ := s.markEra_lit; rw [e]
@[simp] theorem State.markEra_dbg : (s.markEra).dbg = s.dbg := by obtain ⟨_, e⟩ := s.markEra_lit; rw [e]
@[simp] theorem State.markEra_pin : (s.markEra).pin = s.pin := by obtain ⟨_, e⟩ := s.markEra_lit; rw [e]
@[simp] theorem State.markEra_lch : (s.markEra).lch = s.lch := by obtain ⟨_, e⟩ := s.markEra_lit; rw [e]
@[simp] theorem State.markEra_rcv : (s.markEra).rcv = s.rcv := by obtain ⟨_, e⟩ := s.markEra_lit; rw [e]
@[simp] theorem State.markEra_phs : (s.markEra).phs = s.phs := by obtain ⟨_, e⟩ := s.markEra_lit; rw [e]
@[simp] theorem State.markEra_dts : (s.markEra).dts = s.dts := by obtain ⟨_, e⟩ := s.markEra_lit; rw [e]
@[simp] theorem State.markEra_str : (s.markEra).str = s.str := by obtain ⟨_, e⟩ := s.markEra_lit; rw [e]
@[simp] theorem State.markEra_vec : (s.markEra).vec = s.vec := by obtain ⟨_, e⟩ := s.markEra_lit; rw [e]
@[simp] theorem State.markEra_fel : (s.markEra).fel = s.fel := by obtain ⟨_, e⟩ := s.markEra_lit; rw [e]
@[simp] theorem State.markEra_trg : (s.markEra).trg = s.trg := by obtain ⟨_, e⟩ := s.markEra_lit; rw [e]
@[simp] theorem State.markEra_evb : (s.markEra).evb = s.evb := by obtain ⟨_, e⟩ := s.markEra_lit; rw [e]
@[simp] theorem State.markEra_tim : (s.markEra).tim = s.tim := by obtain ⟨_, e⟩ := s.markEra_lit; rw [e]
@[simp] theorem State.markEra_fab : (s.markEra).fab = s.fab := by obtain ⟨_, e⟩ := s.markEra_lit; rw [e]
@[simp] theorem State.markEra_dram : (s.markEra).dram = s.dram := by obtain ⟨_, e⟩ := s.markEra_lit; rw [e]
@[simp] theorem State.markEra_cmp : (s.markEra).cmp = s.cmp := by obtain ⟨_, e⟩ := s.markEra_lit; rw [e]
@[simp] theorem State.markEra_clk : (s.markEra).clk = s.clk := by obtain ⟨_, e⟩ := s.markEra_lit; rw [e]
@[simp] theorem State.markEra_hkc : (s.markEra).hkc = s.hkc := by obtain ⟨_, e⟩ := s.markEra_lit; rw [e]
@[simp] theorem State.markEra_fls : (s.markEra).fls = s.fls := by obtain ⟨_, e⟩ := s.markEra_lit; rw [e]
@[simp] theorem State.markEra_pending : (s.markEra).pending = s.pending := by obtain ⟨_, e⟩ := s.markEra_lit; rw [e]

@[simp] theorem State.mapCommit_time (m t : Nat) : (s.mapCommit m t).time = s.time := by obtain ⟨_, _, _, _, e⟩ := s.mapCommit_lit m t; rw [e]
@[simp] theorem State.mapCommit_up (m t : Nat) : (s.mapCommit m t).up = s.up := by obtain ⟨_, _, _, _, e⟩ := s.mapCommit_lit m t; rw [e]
@[simp] theorem State.mapCommit_fresh (m t : Nat) : (s.mapCommit m t).fresh = s.fresh := by obtain ⟨_, _, _, _, e⟩ := s.mapCommit_lit m t; rw [e]
@[simp] theorem State.mapCommit_mode (m t : Nat) : (s.mapCommit m t).mode = s.mode := by obtain ⟨_, _, _, _, e⟩ := s.mapCommit_lit m t; rw [e]
@[simp] theorem State.mapCommit_latch (m t : Nat) : (s.mapCommit m t).latch = s.latch := by obtain ⟨_, _, _, _, e⟩ := s.mapCommit_lit m t; rw [e]
@[simp] theorem State.mapCommit_heldLo (m t : Nat) : (s.mapCommit m t).heldLo = s.heldLo := by obtain ⟨_, _, _, _, e⟩ := s.mapCommit_lit m t; rw [e]
@[simp] theorem State.mapCommit_prevRes (m t : Nat) : (s.mapCommit m t).prevRes = s.prevRes := by obtain ⟨_, _, _, _, e⟩ := s.mapCommit_lit m t; rw [e]
@[simp] theorem State.mapCommit_eras (m t : Nat) : (s.mapCommit m t).eras = s.eras := by obtain ⟨_, _, _, _, e⟩ := s.mapCommit_lit m t; rw [e]
@[simp] theorem State.mapCommit_mem (m t : Nat) : (s.mapCommit m t).mem = s.mem := by obtain ⟨_, _, _, _, e⟩ := s.mapCommit_lit m t; rw [e]
@[simp] theorem State.mapCommit_poison (m t : Nat) : (s.mapCommit m t).poison = s.poison := by obtain ⟨_, _, _, _, e⟩ := s.mapCommit_lit m t; rw [e]
@[simp] theorem State.mapCommit_core (m t : Nat) : (s.mapCommit m t).core = s.core := by obtain ⟨_, _, _, _, e⟩ := s.mapCommit_lit m t; rw [e]
@[simp] theorem State.mapCommit_gate (m t : Nat) : (s.mapCommit m t).gate = s.gate := by obtain ⟨_, _, _, _, e⟩ := s.mapCommit_lit m t; rw [e]
@[simp] theorem State.mapCommit_que (m t : Nat) : (s.mapCommit m t).que = s.que := by obtain ⟨_, _, _, _, e⟩ := s.mapCommit_lit m t; rw [e]
@[simp] theorem State.mapCommit_flt (m t : Nat) : (s.mapCommit m t).flt = s.flt := by obtain ⟨_, _, _, _, e⟩ := s.mapCommit_lit m t; rw [e]
@[simp] theorem State.mapCommit_sec (m t : Nat) : (s.mapCommit m t).sec = s.sec := by obtain ⟨_, _, _, _, e⟩ := s.mapCommit_lit m t; rw [e]
@[simp] theorem State.mapCommit_pwr (m t : Nat) : (s.mapCommit m t).pwr = s.pwr := by obtain ⟨_, _, _, _, e⟩ := s.mapCommit_lit m t; rw [e]
@[simp] theorem State.mapCommit_dbg (m t : Nat) : (s.mapCommit m t).dbg = s.dbg := by obtain ⟨_, _, _, _, e⟩ := s.mapCommit_lit m t; rw [e]
@[simp] theorem State.mapCommit_pin (m t : Nat) : (s.mapCommit m t).pin = s.pin := by obtain ⟨_, _, _, _, e⟩ := s.mapCommit_lit m t; rw [e]
@[simp] theorem State.mapCommit_lch (m t : Nat) : (s.mapCommit m t).lch = s.lch := by obtain ⟨_, _, _, _, e⟩ := s.mapCommit_lit m t; rw [e]
@[simp] theorem State.mapCommit_rcv (m t : Nat) : (s.mapCommit m t).rcv = s.rcv := by obtain ⟨_, _, _, _, e⟩ := s.mapCommit_lit m t; rw [e]
@[simp] theorem State.mapCommit_phs (m t : Nat) : (s.mapCommit m t).phs = s.phs := by obtain ⟨_, _, _, _, e⟩ := s.mapCommit_lit m t; rw [e]
@[simp] theorem State.mapCommit_dts (m t : Nat) : (s.mapCommit m t).dts = s.dts := by obtain ⟨_, _, _, _, e⟩ := s.mapCommit_lit m t; rw [e]
@[simp] theorem State.mapCommit_vec (m t : Nat) : (s.mapCommit m t).vec = s.vec := by obtain ⟨_, _, _, _, e⟩ := s.mapCommit_lit m t; rw [e]
@[simp] theorem State.mapCommit_fel (m t : Nat) : (s.mapCommit m t).fel = s.fel := by obtain ⟨_, _, _, _, e⟩ := s.mapCommit_lit m t; rw [e]
@[simp] theorem State.mapCommit_trg (m t : Nat) : (s.mapCommit m t).trg = s.trg := by obtain ⟨_, _, _, _, e⟩ := s.mapCommit_lit m t; rw [e]
@[simp] theorem State.mapCommit_evb (m t : Nat) : (s.mapCommit m t).evb = s.evb := by obtain ⟨_, _, _, _, e⟩ := s.mapCommit_lit m t; rw [e]
@[simp] theorem State.mapCommit_tim (m t : Nat) : (s.mapCommit m t).tim = s.tim := by obtain ⟨_, _, _, _, e⟩ := s.mapCommit_lit m t; rw [e]
@[simp] theorem State.mapCommit_fab (m t : Nat) : (s.mapCommit m t).fab = s.fab := by obtain ⟨_, _, _, _, e⟩ := s.mapCommit_lit m t; rw [e]
@[simp] theorem State.mapCommit_dram (m t : Nat) : (s.mapCommit m t).dram = s.dram := by obtain ⟨_, _, _, _, e⟩ := s.mapCommit_lit m t; rw [e]
@[simp] theorem State.mapCommit_cmp (m t : Nat) : (s.mapCommit m t).cmp = s.cmp := by obtain ⟨_, _, _, _, e⟩ := s.mapCommit_lit m t; rw [e]
@[simp] theorem State.mapCommit_clk (m t : Nat) : (s.mapCommit m t).clk = s.clk := by obtain ⟨_, _, _, _, e⟩ := s.mapCommit_lit m t; rw [e]
@[simp] theorem State.mapCommit_hkc (m t : Nat) : (s.mapCommit m t).hkc = s.hkc := by obtain ⟨_, _, _, _, e⟩ := s.mapCommit_lit m t; rw [e]
@[simp] theorem State.mapCommit_fls (m t : Nat) : (s.mapCommit m t).fls = s.fls := by obtain ⟨_, _, _, _, e⟩ := s.mapCommit_lit m t; rw [e]
@[simp] theorem State.mapCommit_pending (m t : Nat) : (s.mapCommit m t).pending = s.pending := by obtain ⟨_, _, _, _, e⟩ := s.mapCommit_lit m t; rw [e]

@[simp] theorem State.mapSettle_time : (s.mapSettle).time = s.time := by obtain ⟨_, _, _, _, e⟩ := s.mapSettle_lit; rw [e]
@[simp] theorem State.mapSettle_up : (s.mapSettle).up = s.up := by obtain ⟨_, _, _, _, e⟩ := s.mapSettle_lit; rw [e]
@[simp] theorem State.mapSettle_fresh : (s.mapSettle).fresh = s.fresh := by obtain ⟨_, _, _, _, e⟩ := s.mapSettle_lit; rw [e]
@[simp] theorem State.mapSettle_mode : (s.mapSettle).mode = s.mode := by obtain ⟨_, _, _, _, e⟩ := s.mapSettle_lit; rw [e]
@[simp] theorem State.mapSettle_latch : (s.mapSettle).latch = s.latch := by obtain ⟨_, _, _, _, e⟩ := s.mapSettle_lit; rw [e]
@[simp] theorem State.mapSettle_heldLo : (s.mapSettle).heldLo = s.heldLo := by obtain ⟨_, _, _, _, e⟩ := s.mapSettle_lit; rw [e]
@[simp] theorem State.mapSettle_prevRes : (s.mapSettle).prevRes = s.prevRes := by obtain ⟨_, _, _, _, e⟩ := s.mapSettle_lit; rw [e]
@[simp] theorem State.mapSettle_eras : (s.mapSettle).eras = s.eras := by obtain ⟨_, _, _, _, e⟩ := s.mapSettle_lit; rw [e]
@[simp] theorem State.mapSettle_mem : (s.mapSettle).mem = s.mem := by obtain ⟨_, _, _, _, e⟩ := s.mapSettle_lit; rw [e]
@[simp] theorem State.mapSettle_poison : (s.mapSettle).poison = s.poison := by obtain ⟨_, _, _, _, e⟩ := s.mapSettle_lit; rw [e]
@[simp] theorem State.mapSettle_core : (s.mapSettle).core = s.core := by obtain ⟨_, _, _, _, e⟩ := s.mapSettle_lit; rw [e]
@[simp] theorem State.mapSettle_gate : (s.mapSettle).gate = s.gate := by obtain ⟨_, _, _, _, e⟩ := s.mapSettle_lit; rw [e]
@[simp] theorem State.mapSettle_que : (s.mapSettle).que = s.que := by obtain ⟨_, _, _, _, e⟩ := s.mapSettle_lit; rw [e]
@[simp] theorem State.mapSettle_flt : (s.mapSettle).flt = s.flt := by obtain ⟨_, _, _, _, e⟩ := s.mapSettle_lit; rw [e]
@[simp] theorem State.mapSettle_sec : (s.mapSettle).sec = s.sec := by obtain ⟨_, _, _, _, e⟩ := s.mapSettle_lit; rw [e]
@[simp] theorem State.mapSettle_pwr : (s.mapSettle).pwr = s.pwr := by obtain ⟨_, _, _, _, e⟩ := s.mapSettle_lit; rw [e]
@[simp] theorem State.mapSettle_dbg : (s.mapSettle).dbg = s.dbg := by obtain ⟨_, _, _, _, e⟩ := s.mapSettle_lit; rw [e]
@[simp] theorem State.mapSettle_pin : (s.mapSettle).pin = s.pin := by obtain ⟨_, _, _, _, e⟩ := s.mapSettle_lit; rw [e]
@[simp] theorem State.mapSettle_lch : (s.mapSettle).lch = s.lch := by obtain ⟨_, _, _, _, e⟩ := s.mapSettle_lit; rw [e]
@[simp] theorem State.mapSettle_rcv : (s.mapSettle).rcv = s.rcv := by obtain ⟨_, _, _, _, e⟩ := s.mapSettle_lit; rw [e]
@[simp] theorem State.mapSettle_phs : (s.mapSettle).phs = s.phs := by obtain ⟨_, _, _, _, e⟩ := s.mapSettle_lit; rw [e]
@[simp] theorem State.mapSettle_dts : (s.mapSettle).dts = s.dts := by obtain ⟨_, _, _, _, e⟩ := s.mapSettle_lit; rw [e]
@[simp] theorem State.mapSettle_vec : (s.mapSettle).vec = s.vec := by obtain ⟨_, _, _, _, e⟩ := s.mapSettle_lit; rw [e]
@[simp] theorem State.mapSettle_fel : (s.mapSettle).fel = s.fel := by obtain ⟨_, _, _, _, e⟩ := s.mapSettle_lit; rw [e]
@[simp] theorem State.mapSettle_trg : (s.mapSettle).trg = s.trg := by obtain ⟨_, _, _, _, e⟩ := s.mapSettle_lit; rw [e]
@[simp] theorem State.mapSettle_evb : (s.mapSettle).evb = s.evb := by obtain ⟨_, _, _, _, e⟩ := s.mapSettle_lit; rw [e]
@[simp] theorem State.mapSettle_tim : (s.mapSettle).tim = s.tim := by obtain ⟨_, _, _, _, e⟩ := s.mapSettle_lit; rw [e]
@[simp] theorem State.mapSettle_fab : (s.mapSettle).fab = s.fab := by obtain ⟨_, _, _, _, e⟩ := s.mapSettle_lit; rw [e]
@[simp] theorem State.mapSettle_dram : (s.mapSettle).dram = s.dram := by obtain ⟨_, _, _, _, e⟩ := s.mapSettle_lit; rw [e]
@[simp] theorem State.mapSettle_cmp : (s.mapSettle).cmp = s.cmp := by obtain ⟨_, _, _, _, e⟩ := s.mapSettle_lit; rw [e]
@[simp] theorem State.mapSettle_clk : (s.mapSettle).clk = s.clk := by obtain ⟨_, _, _, _, e⟩ := s.mapSettle_lit; rw [e]
@[simp] theorem State.mapSettle_hkc : (s.mapSettle).hkc = s.hkc := by obtain ⟨_, _, _, _, e⟩ := s.mapSettle_lit; rw [e]
@[simp] theorem State.mapSettle_fls : (s.mapSettle).fls = s.fls := by obtain ⟨_, _, _, _, e⟩ := s.mapSettle_lit; rw [e]
@[simp] theorem State.mapSettle_pending : (s.mapSettle).pending = s.pending := by obtain ⟨_, _, _, _, e⟩ := s.mapSettle_lit; rw [e]

@[simp] theorem State.setPair_time (lo v : Nat) : (s.setPair lo v).time = s.time := rfl
@[simp] theorem State.setPair_up (lo v : Nat) : (s.setPair lo v).up = s.up := rfl
@[simp] theorem State.setPair_fresh (lo v : Nat) : (s.setPair lo v).fresh = s.fresh := rfl
@[simp] theorem State.setPair_mode (lo v : Nat) : (s.setPair lo v).mode = s.mode := rfl
@[simp] theorem State.setPair_latch (lo v : Nat) : (s.setPair lo v).latch = s.latch := rfl
@[simp] theorem State.setPair_heldLo (lo v : Nat) : (s.setPair lo v).heldLo = s.heldLo := rfl
@[simp] theorem State.setPair_raised (lo v : Nat) : (s.setPair lo v).raised = s.raised := rfl
@[simp] theorem State.setPair_prevRes (lo v : Nat) : (s.setPair lo v).prevRes = s.prevRes := rfl
@[simp] theorem State.setPair_eras (lo v : Nat) : (s.setPair lo v).eras = s.eras := rfl
@[simp] theorem State.setPair_mem (lo v : Nat) : (s.setPair lo v).mem = s.mem := rfl
@[simp] theorem State.setPair_poison (lo v : Nat) : (s.setPair lo v).poison = s.poison := rfl
@[simp] theorem State.setPair_core (lo v : Nat) : (s.setPair lo v).core = s.core := rfl
@[simp] theorem State.setPair_gate (lo v : Nat) : (s.setPair lo v).gate = s.gate := rfl
@[simp] theorem State.setPair_que (lo v : Nat) : (s.setPair lo v).que = s.que := rfl
@[simp] theorem State.setPair_flt (lo v : Nat) : (s.setPair lo v).flt = s.flt := rfl
@[simp] theorem State.setPair_sec (lo v : Nat) : (s.setPair lo v).sec = s.sec := rfl
@[simp] theorem State.setPair_pwr (lo v : Nat) : (s.setPair lo v).pwr = s.pwr := rfl
@[simp] theorem State.setPair_dbg (lo v : Nat) : (s.setPair lo v).dbg = s.dbg := rfl
@[simp] theorem State.setPair_pin (lo v : Nat) : (s.setPair lo v).pin = s.pin := rfl
@[simp] theorem State.setPair_lch (lo v : Nat) : (s.setPair lo v).lch = s.lch := rfl
@[simp] theorem State.setPair_rcv (lo v : Nat) : (s.setPair lo v).rcv = s.rcv := rfl
@[simp] theorem State.setPair_phs (lo v : Nat) : (s.setPair lo v).phs = s.phs := rfl
@[simp] theorem State.setPair_dts (lo v : Nat) : (s.setPair lo v).dts = s.dts := rfl
@[simp] theorem State.setPair_str (lo v : Nat) : (s.setPair lo v).str = s.str := rfl
@[simp] theorem State.setPair_vec (lo v : Nat) : (s.setPair lo v).vec = s.vec := rfl
@[simp] theorem State.setPair_fel (lo v : Nat) : (s.setPair lo v).fel = s.fel := rfl
@[simp] theorem State.setPair_trg (lo v : Nat) : (s.setPair lo v).trg = s.trg := rfl
@[simp] theorem State.setPair_evb (lo v : Nat) : (s.setPair lo v).evb = s.evb := rfl
@[simp] theorem State.setPair_tim (lo v : Nat) : (s.setPair lo v).tim = s.tim := rfl
@[simp] theorem State.setPair_fab (lo v : Nat) : (s.setPair lo v).fab = s.fab := rfl
@[simp] theorem State.setPair_dram (lo v : Nat) : (s.setPair lo v).dram = s.dram := rfl
@[simp] theorem State.setPair_cmp (lo v : Nat) : (s.setPair lo v).cmp = s.cmp := rfl
@[simp] theorem State.setPair_clk (lo v : Nat) : (s.setPair lo v).clk = s.clk := rfl
@[simp] theorem State.setPair_hkc (lo v : Nat) : (s.setPair lo v).hkc = s.hkc := rfl
@[simp] theorem State.setPair_fls (lo v : Nat) : (s.setPair lo v).fls = s.fls := rfl
@[simp] theorem State.setPair_pending (lo v : Nat) : (s.setPair lo v).pending = s.pending := rfl

@[simp] theorem State.incF_time (a hi lo k : Nat) : (s.incF a hi lo k).time = s.time := rfl
@[simp] theorem State.incF_up (a hi lo k : Nat) : (s.incF a hi lo k).up = s.up := rfl
@[simp] theorem State.incF_fresh (a hi lo k : Nat) : (s.incF a hi lo k).fresh = s.fresh := rfl
@[simp] theorem State.incF_mode (a hi lo k : Nat) : (s.incF a hi lo k).mode = s.mode := rfl
@[simp] theorem State.incF_latch (a hi lo k : Nat) : (s.incF a hi lo k).latch = s.latch := rfl
@[simp] theorem State.incF_heldLo (a hi lo k : Nat) : (s.incF a hi lo k).heldLo = s.heldLo := rfl
@[simp] theorem State.incF_raised (a hi lo k : Nat) : (s.incF a hi lo k).raised = s.raised := rfl
@[simp] theorem State.incF_prevRes (a hi lo k : Nat) : (s.incF a hi lo k).prevRes = s.prevRes := rfl
@[simp] theorem State.incF_eras (a hi lo k : Nat) : (s.incF a hi lo k).eras = s.eras := rfl
@[simp] theorem State.incF_mem (a hi lo k : Nat) : (s.incF a hi lo k).mem = s.mem := rfl
@[simp] theorem State.incF_poison (a hi lo k : Nat) : (s.incF a hi lo k).poison = s.poison := rfl
@[simp] theorem State.incF_core (a hi lo k : Nat) : (s.incF a hi lo k).core = s.core := rfl
@[simp] theorem State.incF_gate (a hi lo k : Nat) : (s.incF a hi lo k).gate = s.gate := rfl
@[simp] theorem State.incF_que (a hi lo k : Nat) : (s.incF a hi lo k).que = s.que := rfl
@[simp] theorem State.incF_flt (a hi lo k : Nat) : (s.incF a hi lo k).flt = s.flt := rfl
@[simp] theorem State.incF_sec (a hi lo k : Nat) : (s.incF a hi lo k).sec = s.sec := rfl
@[simp] theorem State.incF_pwr (a hi lo k : Nat) : (s.incF a hi lo k).pwr = s.pwr := rfl
@[simp] theorem State.incF_dbg (a hi lo k : Nat) : (s.incF a hi lo k).dbg = s.dbg := rfl
@[simp] theorem State.incF_pin (a hi lo k : Nat) : (s.incF a hi lo k).pin = s.pin := rfl
@[simp] theorem State.incF_lch (a hi lo k : Nat) : (s.incF a hi lo k).lch = s.lch := rfl
@[simp] theorem State.incF_rcv (a hi lo k : Nat) : (s.incF a hi lo k).rcv = s.rcv := rfl
@[simp] theorem State.incF_phs (a hi lo k : Nat) : (s.incF a hi lo k).phs = s.phs := rfl
@[simp] theorem State.incF_dts (a hi lo k : Nat) : (s.incF a hi lo k).dts = s.dts := rfl
@[simp] theorem State.incF_str (a hi lo k : Nat) : (s.incF a hi lo k).str = s.str := rfl
@[simp] theorem State.incF_vec (a hi lo k : Nat) : (s.incF a hi lo k).vec = s.vec := rfl
@[simp] theorem State.incF_fel (a hi lo k : Nat) : (s.incF a hi lo k).fel = s.fel := rfl
@[simp] theorem State.incF_trg (a hi lo k : Nat) : (s.incF a hi lo k).trg = s.trg := rfl
@[simp] theorem State.incF_evb (a hi lo k : Nat) : (s.incF a hi lo k).evb = s.evb := rfl
@[simp] theorem State.incF_tim (a hi lo k : Nat) : (s.incF a hi lo k).tim = s.tim := rfl
@[simp] theorem State.incF_fab (a hi lo k : Nat) : (s.incF a hi lo k).fab = s.fab := rfl
@[simp] theorem State.incF_dram (a hi lo k : Nat) : (s.incF a hi lo k).dram = s.dram := rfl
@[simp] theorem State.incF_cmp (a hi lo k : Nat) : (s.incF a hi lo k).cmp = s.cmp := rfl
@[simp] theorem State.incF_clk (a hi lo k : Nat) : (s.incF a hi lo k).clk = s.clk := rfl
@[simp] theorem State.incF_hkc (a hi lo k : Nat) : (s.incF a hi lo k).hkc = s.hkc := rfl
@[simp] theorem State.incF_fls (a hi lo k : Nat) : (s.incF a hi lo k).fls = s.fls := rfl
@[simp] theorem State.incF_pending (a hi lo k : Nat) : (s.incF a hi lo k).pending = s.pending := rfl

@[simp] theorem State.inc_time (a k : Nat) : (s.inc a k).time = s.time := rfl
@[simp] theorem State.inc_up (a k : Nat) : (s.inc a k).up = s.up := rfl
@[simp] theorem State.inc_fresh (a k : Nat) : (s.inc a k).fresh = s.fresh := rfl
@[simp] theorem State.inc_mode (a k : Nat) : (s.inc a k).mode = s.mode := rfl
@[simp] theorem State.inc_latch (a k : Nat) : (s.inc a k).latch = s.latch := rfl
@[simp] theorem State.inc_heldLo (a k : Nat) : (s.inc a k).heldLo = s.heldLo := rfl
@[simp] theorem State.inc_raised (a k : Nat) : (s.inc a k).raised = s.raised := rfl
@[simp] theorem State.inc_prevRes (a k : Nat) : (s.inc a k).prevRes = s.prevRes := rfl
@[simp] theorem State.inc_eras (a k : Nat) : (s.inc a k).eras = s.eras := rfl
@[simp] theorem State.inc_mem (a k : Nat) : (s.inc a k).mem = s.mem := rfl
@[simp] theorem State.inc_poison (a k : Nat) : (s.inc a k).poison = s.poison := rfl
@[simp] theorem State.inc_core (a k : Nat) : (s.inc a k).core = s.core := rfl
@[simp] theorem State.inc_gate (a k : Nat) : (s.inc a k).gate = s.gate := rfl
@[simp] theorem State.inc_que (a k : Nat) : (s.inc a k).que = s.que := rfl
@[simp] theorem State.inc_flt (a k : Nat) : (s.inc a k).flt = s.flt := rfl
@[simp] theorem State.inc_sec (a k : Nat) : (s.inc a k).sec = s.sec := rfl
@[simp] theorem State.inc_pwr (a k : Nat) : (s.inc a k).pwr = s.pwr := rfl
@[simp] theorem State.inc_dbg (a k : Nat) : (s.inc a k).dbg = s.dbg := rfl
@[simp] theorem State.inc_pin (a k : Nat) : (s.inc a k).pin = s.pin := rfl
@[simp] theorem State.inc_lch (a k : Nat) : (s.inc a k).lch = s.lch := rfl
@[simp] theorem State.inc_rcv (a k : Nat) : (s.inc a k).rcv = s.rcv := rfl
@[simp] theorem State.inc_phs (a k : Nat) : (s.inc a k).phs = s.phs := rfl
@[simp] theorem State.inc_dts (a k : Nat) : (s.inc a k).dts = s.dts := rfl
@[simp] theorem State.inc_str (a k : Nat) : (s.inc a k).str = s.str := rfl
@[simp] theorem State.inc_vec (a k : Nat) : (s.inc a k).vec = s.vec := rfl
@[simp] theorem State.inc_fel (a k : Nat) : (s.inc a k).fel = s.fel := rfl
@[simp] theorem State.inc_trg (a k : Nat) : (s.inc a k).trg = s.trg := rfl
@[simp] theorem State.inc_evb (a k : Nat) : (s.inc a k).evb = s.evb := rfl
@[simp] theorem State.inc_tim (a k : Nat) : (s.inc a k).tim = s.tim := rfl
@[simp] theorem State.inc_fab (a k : Nat) : (s.inc a k).fab = s.fab := rfl
@[simp] theorem State.inc_dram (a k : Nat) : (s.inc a k).dram = s.dram := rfl
@[simp] theorem State.inc_cmp (a k : Nat) : (s.inc a k).cmp = s.cmp := rfl
@[simp] theorem State.inc_clk (a k : Nat) : (s.inc a k).clk = s.clk := rfl
@[simp] theorem State.inc_hkc (a k : Nat) : (s.inc a k).hkc = s.hkc := rfl
@[simp] theorem State.inc_fls (a k : Nat) : (s.inc a k).fls = s.fls := rfl
@[simp] theorem State.inc_pending (a k : Nat) : (s.inc a k).pending = s.pending := rfl

@[simp] theorem State.incMod_time (a k : Nat) : (s.incMod a k).time = s.time := rfl
@[simp] theorem State.incMod_up (a k : Nat) : (s.incMod a k).up = s.up := rfl
@[simp] theorem State.incMod_fresh (a k : Nat) : (s.incMod a k).fresh = s.fresh := rfl
@[simp] theorem State.incMod_mode (a k : Nat) : (s.incMod a k).mode = s.mode := rfl
@[simp] theorem State.incMod_latch (a k : Nat) : (s.incMod a k).latch = s.latch := rfl
@[simp] theorem State.incMod_heldLo (a k : Nat) : (s.incMod a k).heldLo = s.heldLo := rfl
@[simp] theorem State.incMod_raised (a k : Nat) : (s.incMod a k).raised = s.raised := rfl
@[simp] theorem State.incMod_prevRes (a k : Nat) : (s.incMod a k).prevRes = s.prevRes := rfl
@[simp] theorem State.incMod_eras (a k : Nat) : (s.incMod a k).eras = s.eras := rfl
@[simp] theorem State.incMod_mem (a k : Nat) : (s.incMod a k).mem = s.mem := rfl
@[simp] theorem State.incMod_poison (a k : Nat) : (s.incMod a k).poison = s.poison := rfl
@[simp] theorem State.incMod_core (a k : Nat) : (s.incMod a k).core = s.core := rfl
@[simp] theorem State.incMod_gate (a k : Nat) : (s.incMod a k).gate = s.gate := rfl
@[simp] theorem State.incMod_que (a k : Nat) : (s.incMod a k).que = s.que := rfl
@[simp] theorem State.incMod_flt (a k : Nat) : (s.incMod a k).flt = s.flt := rfl
@[simp] theorem State.incMod_sec (a k : Nat) : (s.incMod a k).sec = s.sec := rfl
@[simp] theorem State.incMod_pwr (a k : Nat) : (s.incMod a k).pwr = s.pwr := rfl
@[simp] theorem State.incMod_dbg (a k : Nat) : (s.incMod a k).dbg = s.dbg := rfl
@[simp] theorem State.incMod_pin (a k : Nat) : (s.incMod a k).pin = s.pin := rfl
@[simp] theorem State.incMod_lch (a k : Nat) : (s.incMod a k).lch = s.lch := rfl
@[simp] theorem State.incMod_rcv (a k : Nat) : (s.incMod a k).rcv = s.rcv := rfl
@[simp] theorem State.incMod_phs (a k : Nat) : (s.incMod a k).phs = s.phs := rfl
@[simp] theorem State.incMod_dts (a k : Nat) : (s.incMod a k).dts = s.dts := rfl
@[simp] theorem State.incMod_str (a k : Nat) : (s.incMod a k).str = s.str := rfl
@[simp] theorem State.incMod_vec (a k : Nat) : (s.incMod a k).vec = s.vec := rfl
@[simp] theorem State.incMod_fel (a k : Nat) : (s.incMod a k).fel = s.fel := rfl
@[simp] theorem State.incMod_trg (a k : Nat) : (s.incMod a k).trg = s.trg := rfl
@[simp] theorem State.incMod_evb (a k : Nat) : (s.incMod a k).evb = s.evb := rfl
@[simp] theorem State.incMod_tim (a k : Nat) : (s.incMod a k).tim = s.tim := rfl
@[simp] theorem State.incMod_fab (a k : Nat) : (s.incMod a k).fab = s.fab := rfl
@[simp] theorem State.incMod_dram (a k : Nat) : (s.incMod a k).dram = s.dram := rfl
@[simp] theorem State.incMod_cmp (a k : Nat) : (s.incMod a k).cmp = s.cmp := rfl
@[simp] theorem State.incMod_clk (a k : Nat) : (s.incMod a k).clk = s.clk := rfl
@[simp] theorem State.incMod_hkc (a k : Nat) : (s.incMod a k).hkc = s.hkc := rfl
@[simp] theorem State.incMod_fls (a k : Nat) : (s.incMod a k).fls = s.fls := rfl
@[simp] theorem State.incMod_pending (a k : Nat) : (s.incMod a k).pending = s.pending := rfl

@[simp] theorem State.bump_time (src n : Nat) : (s.bump src n).time = s.time := rfl
@[simp] theorem State.bump_up (src n : Nat) : (s.bump src n).up = s.up := rfl
@[simp] theorem State.bump_fresh (src n : Nat) : (s.bump src n).fresh = s.fresh := rfl
@[simp] theorem State.bump_mode (src n : Nat) : (s.bump src n).mode = s.mode := rfl
@[simp] theorem State.bump_csr (src n : Nat) : (s.bump src n).csr = s.csr := rfl
@[simp] theorem State.bump_latch (src n : Nat) : (s.bump src n).latch = s.latch := rfl
@[simp] theorem State.bump_heldLo (src n : Nat) : (s.bump src n).heldLo = s.heldLo := rfl
@[simp] theorem State.bump_raised (src n : Nat) : (s.bump src n).raised = s.raised := rfl
@[simp] theorem State.bump_prevRes (src n : Nat) : (s.bump src n).prevRes = s.prevRes := rfl
@[simp] theorem State.bump_eras (src n : Nat) : (s.bump src n).eras = s.eras := rfl
@[simp] theorem State.bump_mem (src n : Nat) : (s.bump src n).mem = s.mem := rfl
@[simp] theorem State.bump_poison (src n : Nat) : (s.bump src n).poison = s.poison := rfl
@[simp] theorem State.bump_core (src n : Nat) : (s.bump src n).core = s.core := rfl
@[simp] theorem State.bump_gate (src n : Nat) : (s.bump src n).gate = s.gate := rfl
@[simp] theorem State.bump_que (src n : Nat) : (s.bump src n).que = s.que := rfl
@[simp] theorem State.bump_sec (src n : Nat) : (s.bump src n).sec = s.sec := rfl
@[simp] theorem State.bump_pwr (src n : Nat) : (s.bump src n).pwr = s.pwr := rfl
@[simp] theorem State.bump_dbg (src n : Nat) : (s.bump src n).dbg = s.dbg := rfl
@[simp] theorem State.bump_pin (src n : Nat) : (s.bump src n).pin = s.pin := rfl
@[simp] theorem State.bump_lch (src n : Nat) : (s.bump src n).lch = s.lch := rfl
@[simp] theorem State.bump_rcv (src n : Nat) : (s.bump src n).rcv = s.rcv := rfl
@[simp] theorem State.bump_phs (src n : Nat) : (s.bump src n).phs = s.phs := rfl
@[simp] theorem State.bump_dts (src n : Nat) : (s.bump src n).dts = s.dts := rfl
@[simp] theorem State.bump_str (src n : Nat) : (s.bump src n).str = s.str := rfl
@[simp] theorem State.bump_vec (src n : Nat) : (s.bump src n).vec = s.vec := rfl
@[simp] theorem State.bump_fel (src n : Nat) : (s.bump src n).fel = s.fel := rfl
@[simp] theorem State.bump_trg (src n : Nat) : (s.bump src n).trg = s.trg := rfl
@[simp] theorem State.bump_evb (src n : Nat) : (s.bump src n).evb = s.evb := rfl
@[simp] theorem State.bump_tim (src n : Nat) : (s.bump src n).tim = s.tim := rfl
@[simp] theorem State.bump_fab (src n : Nat) : (s.bump src n).fab = s.fab := rfl
@[simp] theorem State.bump_dram (src n : Nat) : (s.bump src n).dram = s.dram := rfl
@[simp] theorem State.bump_cmp (src n : Nat) : (s.bump src n).cmp = s.cmp := rfl
@[simp] theorem State.bump_clk (src n : Nat) : (s.bump src n).clk = s.clk := rfl
@[simp] theorem State.bump_hkc (src n : Nat) : (s.bump src n).hkc = s.hkc := rfl
@[simp] theorem State.bump_fls (src n : Nat) : (s.bump src n).fls = s.fls := rfl
@[simp] theorem State.bump_pending (src n : Nat) : (s.bump src n).pending = s.pending := rfl

@[simp] theorem State.elapse_fresh (dt : Nat) : (s.elapse dt).fresh = s.fresh := by obtain ⟨_, _, _, _, _, _, _, _, e⟩ := s.elapse_lit dt; rw [e]
@[simp] theorem State.elapse_mode (dt : Nat) : (s.elapse dt).mode = s.mode := by obtain ⟨_, _, _, _, _, _, _, _, e⟩ := s.elapse_lit dt; rw [e]
@[simp] theorem State.elapse_latch (dt : Nat) : (s.elapse dt).latch = s.latch := by obtain ⟨_, _, _, _, _, _, _, _, e⟩ := s.elapse_lit dt; rw [e]
@[simp] theorem State.elapse_heldLo (dt : Nat) : (s.elapse dt).heldLo = s.heldLo := by obtain ⟨_, _, _, _, _, _, _, _, e⟩ := s.elapse_lit dt; rw [e]
@[simp] theorem State.elapse_prevRes (dt : Nat) : (s.elapse dt).prevRes = s.prevRes := by obtain ⟨_, _, _, _, _, _, _, _, e⟩ := s.elapse_lit dt; rw [e]
@[simp] theorem State.elapse_mem (dt : Nat) : (s.elapse dt).mem = s.mem := by obtain ⟨_, _, _, _, _, _, _, _, e⟩ := s.elapse_lit dt; rw [e]
@[simp] theorem State.elapse_poison (dt : Nat) : (s.elapse dt).poison = s.poison := by obtain ⟨_, _, _, _, _, _, _, _, e⟩ := s.elapse_lit dt; rw [e]
@[simp] theorem State.elapse_core (dt : Nat) : (s.elapse dt).core = s.core := by obtain ⟨_, _, _, _, _, _, _, _, e⟩ := s.elapse_lit dt; rw [e]
@[simp] theorem State.elapse_gate (dt : Nat) : (s.elapse dt).gate = s.gate := by obtain ⟨_, _, _, _, _, _, _, _, e⟩ := s.elapse_lit dt; rw [e]
@[simp] theorem State.elapse_que (dt : Nat) : (s.elapse dt).que = s.que := by obtain ⟨_, _, _, _, _, _, _, _, e⟩ := s.elapse_lit dt; rw [e]
@[simp] theorem State.elapse_sec (dt : Nat) : (s.elapse dt).sec = s.sec := by obtain ⟨_, _, _, _, _, _, _, _, e⟩ := s.elapse_lit dt; rw [e]
@[simp] theorem State.elapse_pwr (dt : Nat) : (s.elapse dt).pwr = s.pwr := by obtain ⟨_, _, _, _, _, _, _, _, e⟩ := s.elapse_lit dt; rw [e]
@[simp] theorem State.elapse_pin (dt : Nat) : (s.elapse dt).pin = s.pin := by obtain ⟨_, _, _, _, _, _, _, _, e⟩ := s.elapse_lit dt; rw [e]
@[simp] theorem State.elapse_lch (dt : Nat) : (s.elapse dt).lch = s.lch := by obtain ⟨_, _, _, _, _, _, _, _, e⟩ := s.elapse_lit dt; rw [e]
@[simp] theorem State.elapse_rcv (dt : Nat) : (s.elapse dt).rcv = s.rcv := by obtain ⟨_, _, _, _, _, _, _, _, e⟩ := s.elapse_lit dt; rw [e]
@[simp] theorem State.elapse_phs (dt : Nat) : (s.elapse dt).phs = s.phs := by obtain ⟨_, _, _, _, _, _, _, _, e⟩ := s.elapse_lit dt; rw [e]
@[simp] theorem State.elapse_dts (dt : Nat) : (s.elapse dt).dts = s.dts := by obtain ⟨_, _, _, _, _, _, _, _, e⟩ := s.elapse_lit dt; rw [e]
@[simp] theorem State.elapse_vec (dt : Nat) : (s.elapse dt).vec = s.vec := by obtain ⟨_, _, _, _, _, _, _, _, e⟩ := s.elapse_lit dt; rw [e]
@[simp] theorem State.elapse_fel (dt : Nat) : (s.elapse dt).fel = s.fel := by obtain ⟨_, _, _, _, _, _, _, _, e⟩ := s.elapse_lit dt; rw [e]
@[simp] theorem State.elapse_trg (dt : Nat) : (s.elapse dt).trg = s.trg := by obtain ⟨_, _, _, _, _, _, _, _, e⟩ := s.elapse_lit dt; rw [e]
@[simp] theorem State.elapse_evb (dt : Nat) : (s.elapse dt).evb = s.evb := by obtain ⟨_, _, _, _, _, _, _, _, e⟩ := s.elapse_lit dt; rw [e]
@[simp] theorem State.elapse_tim (dt : Nat) : (s.elapse dt).tim = s.tim := by obtain ⟨_, _, _, _, _, _, _, _, e⟩ := s.elapse_lit dt; rw [e]
@[simp] theorem State.elapse_fab (dt : Nat) : (s.elapse dt).fab = s.fab := by obtain ⟨_, _, _, _, _, _, _, _, e⟩ := s.elapse_lit dt; rw [e]
@[simp] theorem State.elapse_dram (dt : Nat) : (s.elapse dt).dram = s.dram := by obtain ⟨_, _, _, _, _, _, _, _, e⟩ := s.elapse_lit dt; rw [e]
@[simp] theorem State.elapse_cmp (dt : Nat) : (s.elapse dt).cmp = s.cmp := by obtain ⟨_, _, _, _, _, _, _, _, e⟩ := s.elapse_lit dt; rw [e]
@[simp] theorem State.elapse_clk (dt : Nat) : (s.elapse dt).clk = s.clk := by obtain ⟨_, _, _, _, _, _, _, _, e⟩ := s.elapse_lit dt; rw [e]
@[simp] theorem State.elapse_hkc (dt : Nat) : (s.elapse dt).hkc = s.hkc := by obtain ⟨_, _, _, _, _, _, _, _, e⟩ := s.elapse_lit dt; rw [e]
@[simp] theorem State.elapse_fls (dt : Nat) : (s.elapse dt).fls = s.fls := by obtain ⟨_, _, _, _, _, _, _, _, e⟩ := s.elapse_lit dt; rw [e]
@[simp] theorem State.elapse_pending (dt : Nat) : (s.elapse dt).pending = s.pending := by obtain ⟨_, _, _, _, _, _, _, _, e⟩ := s.elapse_lit dt; rw [e]

@[simp] theorem State.result_time (a comp value flags ovr : Nat) : (s.result a comp value flags ovr).time = s.time := rfl
@[simp] theorem State.result_up (a comp value flags ovr : Nat) : (s.result a comp value flags ovr).up = s.up := rfl
@[simp] theorem State.result_fresh (a comp value flags ovr : Nat) : (s.result a comp value flags ovr).fresh = s.fresh := rfl
@[simp] theorem State.result_mode (a comp value flags ovr : Nat) : (s.result a comp value flags ovr).mode = s.mode := rfl
@[simp] theorem State.result_latch (a comp value flags ovr : Nat) : (s.result a comp value flags ovr).latch = s.latch := rfl
@[simp] theorem State.result_heldLo (a comp value flags ovr : Nat) : (s.result a comp value flags ovr).heldLo = s.heldLo := rfl
@[simp] theorem State.result_raised (a comp value flags ovr : Nat) : (s.result a comp value flags ovr).raised = s.raised := rfl
@[simp] theorem State.result_eras (a comp value flags ovr : Nat) : (s.result a comp value flags ovr).eras = s.eras := rfl
@[simp] theorem State.result_mem (a comp value flags ovr : Nat) : (s.result a comp value flags ovr).mem = s.mem := rfl
@[simp] theorem State.result_poison (a comp value flags ovr : Nat) : (s.result a comp value flags ovr).poison = s.poison := rfl
@[simp] theorem State.result_core (a comp value flags ovr : Nat) : (s.result a comp value flags ovr).core = s.core := rfl
@[simp] theorem State.result_gate (a comp value flags ovr : Nat) : (s.result a comp value flags ovr).gate = s.gate := rfl
@[simp] theorem State.result_que (a comp value flags ovr : Nat) : (s.result a comp value flags ovr).que = s.que := rfl
@[simp] theorem State.result_flt (a comp value flags ovr : Nat) : (s.result a comp value flags ovr).flt = s.flt := rfl
@[simp] theorem State.result_sec (a comp value flags ovr : Nat) : (s.result a comp value flags ovr).sec = s.sec := rfl
@[simp] theorem State.result_pwr (a comp value flags ovr : Nat) : (s.result a comp value flags ovr).pwr = s.pwr := rfl
@[simp] theorem State.result_dbg (a comp value flags ovr : Nat) : (s.result a comp value flags ovr).dbg = s.dbg := rfl
@[simp] theorem State.result_pin (a comp value flags ovr : Nat) : (s.result a comp value flags ovr).pin = s.pin := rfl
@[simp] theorem State.result_lch (a comp value flags ovr : Nat) : (s.result a comp value flags ovr).lch = s.lch := rfl
@[simp] theorem State.result_rcv (a comp value flags ovr : Nat) : (s.result a comp value flags ovr).rcv = s.rcv := rfl
@[simp] theorem State.result_phs (a comp value flags ovr : Nat) : (s.result a comp value flags ovr).phs = s.phs := rfl
@[simp] theorem State.result_dts (a comp value flags ovr : Nat) : (s.result a comp value flags ovr).dts = s.dts := rfl
@[simp] theorem State.result_str (a comp value flags ovr : Nat) : (s.result a comp value flags ovr).str = s.str := rfl
@[simp] theorem State.result_vec (a comp value flags ovr : Nat) : (s.result a comp value flags ovr).vec = s.vec := rfl
@[simp] theorem State.result_fel (a comp value flags ovr : Nat) : (s.result a comp value flags ovr).fel = s.fel := rfl
@[simp] theorem State.result_trg (a comp value flags ovr : Nat) : (s.result a comp value flags ovr).trg = s.trg := rfl
@[simp] theorem State.result_evb (a comp value flags ovr : Nat) : (s.result a comp value flags ovr).evb = s.evb := rfl
@[simp] theorem State.result_tim (a comp value flags ovr : Nat) : (s.result a comp value flags ovr).tim = s.tim := rfl
@[simp] theorem State.result_fab (a comp value flags ovr : Nat) : (s.result a comp value flags ovr).fab = s.fab := rfl
@[simp] theorem State.result_dram (a comp value flags ovr : Nat) : (s.result a comp value flags ovr).dram = s.dram := rfl
@[simp] theorem State.result_cmp (a comp value flags ovr : Nat) : (s.result a comp value flags ovr).cmp = s.cmp := rfl
@[simp] theorem State.result_clk (a comp value flags ovr : Nat) : (s.result a comp value flags ovr).clk = s.clk := rfl
@[simp] theorem State.result_hkc (a comp value flags ovr : Nat) : (s.result a comp value flags ovr).hkc = s.hkc := rfl
@[simp] theorem State.result_fls (a comp value flags ovr : Nat) : (s.result a comp value flags ovr).fls = s.fls := rfl
@[simp] theorem State.result_pending (a comp value flags ovr : Nat) : (s.result a comp value flags ovr).pending = s.pending := rfl

@[simp] theorem State.setFlags_time (f : DWord) : (s.setFlags f).time = s.time := rfl
@[simp] theorem State.setFlags_up (f : DWord) : (s.setFlags f).up = s.up := rfl
@[simp] theorem State.setFlags_fresh (f : DWord) : (s.setFlags f).fresh = s.fresh := rfl
@[simp] theorem State.setFlags_mode (f : DWord) : (s.setFlags f).mode = s.mode := rfl
@[simp] theorem State.setFlags_csr (f : DWord) : (s.setFlags f).csr = s.csr := rfl
@[simp] theorem State.setFlags_latch (f : DWord) : (s.setFlags f).latch = s.latch := rfl
@[simp] theorem State.setFlags_heldLo (f : DWord) : (s.setFlags f).heldLo = s.heldLo := rfl
@[simp] theorem State.setFlags_raised (f : DWord) : (s.setFlags f).raised = s.raised := rfl
@[simp] theorem State.setFlags_prevRes (f : DWord) : (s.setFlags f).prevRes = s.prevRes := rfl
@[simp] theorem State.setFlags_eras (f : DWord) : (s.setFlags f).eras = s.eras := rfl
@[simp] theorem State.setFlags_mem (f : DWord) : (s.setFlags f).mem = s.mem := rfl
@[simp] theorem State.setFlags_poison (f : DWord) : (s.setFlags f).poison = s.poison := rfl
@[simp] theorem State.setFlags_gate (f : DWord) : (s.setFlags f).gate = s.gate := rfl
@[simp] theorem State.setFlags_que (f : DWord) : (s.setFlags f).que = s.que := rfl
@[simp] theorem State.setFlags_flt (f : DWord) : (s.setFlags f).flt = s.flt := rfl
@[simp] theorem State.setFlags_sec (f : DWord) : (s.setFlags f).sec = s.sec := rfl
@[simp] theorem State.setFlags_pwr (f : DWord) : (s.setFlags f).pwr = s.pwr := rfl
@[simp] theorem State.setFlags_dbg (f : DWord) : (s.setFlags f).dbg = s.dbg := rfl
@[simp] theorem State.setFlags_pin (f : DWord) : (s.setFlags f).pin = s.pin := rfl
@[simp] theorem State.setFlags_lch (f : DWord) : (s.setFlags f).lch = s.lch := rfl
@[simp] theorem State.setFlags_rcv (f : DWord) : (s.setFlags f).rcv = s.rcv := rfl
@[simp] theorem State.setFlags_phs (f : DWord) : (s.setFlags f).phs = s.phs := rfl
@[simp] theorem State.setFlags_dts (f : DWord) : (s.setFlags f).dts = s.dts := rfl
@[simp] theorem State.setFlags_str (f : DWord) : (s.setFlags f).str = s.str := rfl
@[simp] theorem State.setFlags_vec (f : DWord) : (s.setFlags f).vec = s.vec := rfl
@[simp] theorem State.setFlags_fel (f : DWord) : (s.setFlags f).fel = s.fel := rfl
@[simp] theorem State.setFlags_trg (f : DWord) : (s.setFlags f).trg = s.trg := rfl
@[simp] theorem State.setFlags_evb (f : DWord) : (s.setFlags f).evb = s.evb := rfl
@[simp] theorem State.setFlags_tim (f : DWord) : (s.setFlags f).tim = s.tim := rfl
@[simp] theorem State.setFlags_fab (f : DWord) : (s.setFlags f).fab = s.fab := rfl
@[simp] theorem State.setFlags_dram (f : DWord) : (s.setFlags f).dram = s.dram := rfl
@[simp] theorem State.setFlags_cmp (f : DWord) : (s.setFlags f).cmp = s.cmp := rfl
@[simp] theorem State.setFlags_clk (f : DWord) : (s.setFlags f).clk = s.clk := rfl
@[simp] theorem State.setFlags_hkc (f : DWord) : (s.setFlags f).hkc = s.hkc := rfl
@[simp] theorem State.setFlags_fls (f : DWord) : (s.setFlags f).fls = s.fls := rfl
@[simp] theorem State.setFlags_pending (f : DWord) : (s.setFlags f).pending = s.pending := rfl

@[simp] theorem State.setPc_time (a : BitVec 18) : (s.setPc a).time = s.time := rfl
@[simp] theorem State.setPc_up (a : BitVec 18) : (s.setPc a).up = s.up := rfl
@[simp] theorem State.setPc_fresh (a : BitVec 18) : (s.setPc a).fresh = s.fresh := rfl
@[simp] theorem State.setPc_mode (a : BitVec 18) : (s.setPc a).mode = s.mode := rfl
@[simp] theorem State.setPc_csr (a : BitVec 18) : (s.setPc a).csr = s.csr := rfl
@[simp] theorem State.setPc_latch (a : BitVec 18) : (s.setPc a).latch = s.latch := rfl
@[simp] theorem State.setPc_heldLo (a : BitVec 18) : (s.setPc a).heldLo = s.heldLo := rfl
@[simp] theorem State.setPc_raised (a : BitVec 18) : (s.setPc a).raised = s.raised := rfl
@[simp] theorem State.setPc_prevRes (a : BitVec 18) : (s.setPc a).prevRes = s.prevRes := rfl
@[simp] theorem State.setPc_eras (a : BitVec 18) : (s.setPc a).eras = s.eras := rfl
@[simp] theorem State.setPc_mem (a : BitVec 18) : (s.setPc a).mem = s.mem := rfl
@[simp] theorem State.setPc_poison (a : BitVec 18) : (s.setPc a).poison = s.poison := rfl
@[simp] theorem State.setPc_gate (a : BitVec 18) : (s.setPc a).gate = s.gate := rfl
@[simp] theorem State.setPc_que (a : BitVec 18) : (s.setPc a).que = s.que := rfl
@[simp] theorem State.setPc_flt (a : BitVec 18) : (s.setPc a).flt = s.flt := rfl
@[simp] theorem State.setPc_sec (a : BitVec 18) : (s.setPc a).sec = s.sec := rfl
@[simp] theorem State.setPc_pwr (a : BitVec 18) : (s.setPc a).pwr = s.pwr := rfl
@[simp] theorem State.setPc_dbg (a : BitVec 18) : (s.setPc a).dbg = s.dbg := rfl
@[simp] theorem State.setPc_pin (a : BitVec 18) : (s.setPc a).pin = s.pin := rfl
@[simp] theorem State.setPc_lch (a : BitVec 18) : (s.setPc a).lch = s.lch := rfl
@[simp] theorem State.setPc_rcv (a : BitVec 18) : (s.setPc a).rcv = s.rcv := rfl
@[simp] theorem State.setPc_phs (a : BitVec 18) : (s.setPc a).phs = s.phs := rfl
@[simp] theorem State.setPc_dts (a : BitVec 18) : (s.setPc a).dts = s.dts := rfl
@[simp] theorem State.setPc_str (a : BitVec 18) : (s.setPc a).str = s.str := rfl
@[simp] theorem State.setPc_vec (a : BitVec 18) : (s.setPc a).vec = s.vec := rfl
@[simp] theorem State.setPc_fel (a : BitVec 18) : (s.setPc a).fel = s.fel := rfl
@[simp] theorem State.setPc_trg (a : BitVec 18) : (s.setPc a).trg = s.trg := rfl
@[simp] theorem State.setPc_evb (a : BitVec 18) : (s.setPc a).evb = s.evb := rfl
@[simp] theorem State.setPc_tim (a : BitVec 18) : (s.setPc a).tim = s.tim := rfl
@[simp] theorem State.setPc_fab (a : BitVec 18) : (s.setPc a).fab = s.fab := rfl
@[simp] theorem State.setPc_dram (a : BitVec 18) : (s.setPc a).dram = s.dram := rfl
@[simp] theorem State.setPc_cmp (a : BitVec 18) : (s.setPc a).cmp = s.cmp := rfl
@[simp] theorem State.setPc_clk (a : BitVec 18) : (s.setPc a).clk = s.clk := rfl
@[simp] theorem State.setPc_hkc (a : BitVec 18) : (s.setPc a).hkc = s.hkc := rfl
@[simp] theorem State.setPc_fls (a : BitVec 18) : (s.setPc a).fls = s.fls := rfl
@[simp] theorem State.setPc_pending (a : BitVec 18) : (s.setPc a).pending = s.pending := rfl

@[simp] theorem State.setStall_time (x : Stall) : (s.setStall x).time = s.time := rfl
@[simp] theorem State.setStall_up (x : Stall) : (s.setStall x).up = s.up := rfl
@[simp] theorem State.setStall_fresh (x : Stall) : (s.setStall x).fresh = s.fresh := rfl
@[simp] theorem State.setStall_mode (x : Stall) : (s.setStall x).mode = s.mode := rfl
@[simp] theorem State.setStall_csr (x : Stall) : (s.setStall x).csr = s.csr := rfl
@[simp] theorem State.setStall_latch (x : Stall) : (s.setStall x).latch = s.latch := rfl
@[simp] theorem State.setStall_heldLo (x : Stall) : (s.setStall x).heldLo = s.heldLo := rfl
@[simp] theorem State.setStall_raised (x : Stall) : (s.setStall x).raised = s.raised := rfl
@[simp] theorem State.setStall_prevRes (x : Stall) : (s.setStall x).prevRes = s.prevRes := rfl
@[simp] theorem State.setStall_eras (x : Stall) : (s.setStall x).eras = s.eras := rfl
@[simp] theorem State.setStall_mem (x : Stall) : (s.setStall x).mem = s.mem := rfl
@[simp] theorem State.setStall_poison (x : Stall) : (s.setStall x).poison = s.poison := rfl
@[simp] theorem State.setStall_gate (x : Stall) : (s.setStall x).gate = s.gate := rfl
@[simp] theorem State.setStall_que (x : Stall) : (s.setStall x).que = s.que := rfl
@[simp] theorem State.setStall_flt (x : Stall) : (s.setStall x).flt = s.flt := rfl
@[simp] theorem State.setStall_sec (x : Stall) : (s.setStall x).sec = s.sec := rfl
@[simp] theorem State.setStall_pwr (x : Stall) : (s.setStall x).pwr = s.pwr := rfl
@[simp] theorem State.setStall_dbg (x : Stall) : (s.setStall x).dbg = s.dbg := rfl
@[simp] theorem State.setStall_pin (x : Stall) : (s.setStall x).pin = s.pin := rfl
@[simp] theorem State.setStall_lch (x : Stall) : (s.setStall x).lch = s.lch := rfl
@[simp] theorem State.setStall_rcv (x : Stall) : (s.setStall x).rcv = s.rcv := rfl
@[simp] theorem State.setStall_phs (x : Stall) : (s.setStall x).phs = s.phs := rfl
@[simp] theorem State.setStall_dts (x : Stall) : (s.setStall x).dts = s.dts := rfl
@[simp] theorem State.setStall_str (x : Stall) : (s.setStall x).str = s.str := rfl
@[simp] theorem State.setStall_vec (x : Stall) : (s.setStall x).vec = s.vec := rfl
@[simp] theorem State.setStall_fel (x : Stall) : (s.setStall x).fel = s.fel := rfl
@[simp] theorem State.setStall_trg (x : Stall) : (s.setStall x).trg = s.trg := rfl
@[simp] theorem State.setStall_evb (x : Stall) : (s.setStall x).evb = s.evb := rfl
@[simp] theorem State.setStall_tim (x : Stall) : (s.setStall x).tim = s.tim := rfl
@[simp] theorem State.setStall_fab (x : Stall) : (s.setStall x).fab = s.fab := rfl
@[simp] theorem State.setStall_dram (x : Stall) : (s.setStall x).dram = s.dram := rfl
@[simp] theorem State.setStall_cmp (x : Stall) : (s.setStall x).cmp = s.cmp := rfl
@[simp] theorem State.setStall_clk (x : Stall) : (s.setStall x).clk = s.clk := rfl
@[simp] theorem State.setStall_hkc (x : Stall) : (s.setStall x).hkc = s.hkc := rfl
@[simp] theorem State.setStall_fls (x : Stall) : (s.setStall x).fls = s.fls := rfl
@[simp] theorem State.setStall_pending (x : Stall) : (s.setStall x).pending = s.pending := rfl

@[simp] theorem State.retireTo_time (a : BitVec 18) : (s.retireTo a).time = s.time := rfl
@[simp] theorem State.retireTo_up (a : BitVec 18) : (s.retireTo a).up = s.up := rfl
@[simp] theorem State.retireTo_fresh (a : BitVec 18) : (s.retireTo a).fresh = s.fresh := rfl
@[simp] theorem State.retireTo_mode (a : BitVec 18) : (s.retireTo a).mode = s.mode := rfl
@[simp] theorem State.retireTo_csr (a : BitVec 18) : (s.retireTo a).csr = s.csr := rfl
@[simp] theorem State.retireTo_latch (a : BitVec 18) : (s.retireTo a).latch = s.latch := rfl
@[simp] theorem State.retireTo_heldLo (a : BitVec 18) : (s.retireTo a).heldLo = s.heldLo := rfl
@[simp] theorem State.retireTo_raised (a : BitVec 18) : (s.retireTo a).raised = s.raised := rfl
@[simp] theorem State.retireTo_prevRes (a : BitVec 18) : (s.retireTo a).prevRes = s.prevRes := rfl
@[simp] theorem State.retireTo_eras (a : BitVec 18) : (s.retireTo a).eras = s.eras := rfl
@[simp] theorem State.retireTo_mem (a : BitVec 18) : (s.retireTo a).mem = s.mem := rfl
@[simp] theorem State.retireTo_poison (a : BitVec 18) : (s.retireTo a).poison = s.poison := rfl
@[simp] theorem State.retireTo_gate (a : BitVec 18) : (s.retireTo a).gate = s.gate := rfl
@[simp] theorem State.retireTo_que (a : BitVec 18) : (s.retireTo a).que = s.que := rfl
@[simp] theorem State.retireTo_sec (a : BitVec 18) : (s.retireTo a).sec = s.sec := rfl
@[simp] theorem State.retireTo_pwr (a : BitVec 18) : (s.retireTo a).pwr = s.pwr := rfl
@[simp] theorem State.retireTo_dbg (a : BitVec 18) : (s.retireTo a).dbg = s.dbg := rfl
@[simp] theorem State.retireTo_pin (a : BitVec 18) : (s.retireTo a).pin = s.pin := rfl
@[simp] theorem State.retireTo_lch (a : BitVec 18) : (s.retireTo a).lch = s.lch := rfl
@[simp] theorem State.retireTo_rcv (a : BitVec 18) : (s.retireTo a).rcv = s.rcv := rfl
@[simp] theorem State.retireTo_phs (a : BitVec 18) : (s.retireTo a).phs = s.phs := rfl
@[simp] theorem State.retireTo_dts (a : BitVec 18) : (s.retireTo a).dts = s.dts := rfl
@[simp] theorem State.retireTo_str (a : BitVec 18) : (s.retireTo a).str = s.str := rfl
@[simp] theorem State.retireTo_vec (a : BitVec 18) : (s.retireTo a).vec = s.vec := rfl
@[simp] theorem State.retireTo_fel (a : BitVec 18) : (s.retireTo a).fel = s.fel := rfl
@[simp] theorem State.retireTo_trg (a : BitVec 18) : (s.retireTo a).trg = s.trg := rfl
@[simp] theorem State.retireTo_evb (a : BitVec 18) : (s.retireTo a).evb = s.evb := rfl
@[simp] theorem State.retireTo_tim (a : BitVec 18) : (s.retireTo a).tim = s.tim := rfl
@[simp] theorem State.retireTo_fab (a : BitVec 18) : (s.retireTo a).fab = s.fab := rfl
@[simp] theorem State.retireTo_dram (a : BitVec 18) : (s.retireTo a).dram = s.dram := rfl
@[simp] theorem State.retireTo_cmp (a : BitVec 18) : (s.retireTo a).cmp = s.cmp := rfl
@[simp] theorem State.retireTo_clk (a : BitVec 18) : (s.retireTo a).clk = s.clk := rfl
@[simp] theorem State.retireTo_hkc (a : BitVec 18) : (s.retireTo a).hkc = s.hkc := rfl
@[simp] theorem State.retireTo_fls (a : BitVec 18) : (s.retireTo a).fls = s.fls := rfl
@[simp] theorem State.retireTo_pending (a : BitVec 18) : (s.retireTo a).pending = s.pending := rfl

@[simp] theorem State.advance_time : (s.advance).time = s.time := by simp [State.advance]
@[simp] theorem State.advance_up : (s.advance).up = s.up := by simp [State.advance]
@[simp] theorem State.advance_fresh : (s.advance).fresh = s.fresh := by simp [State.advance]
@[simp] theorem State.advance_mode : (s.advance).mode = s.mode := by simp [State.advance]
@[simp] theorem State.advance_csr : (s.advance).csr = s.csr := by simp [State.advance]
@[simp] theorem State.advance_latch : (s.advance).latch = s.latch := by simp [State.advance]
@[simp] theorem State.advance_heldLo : (s.advance).heldLo = s.heldLo := by simp [State.advance]
@[simp] theorem State.advance_raised : (s.advance).raised = s.raised := by simp [State.advance]
@[simp] theorem State.advance_prevRes : (s.advance).prevRes = s.prevRes := by simp [State.advance]
@[simp] theorem State.advance_eras : (s.advance).eras = s.eras := by simp [State.advance]
@[simp] theorem State.advance_mem : (s.advance).mem = s.mem := by simp [State.advance]
@[simp] theorem State.advance_poison : (s.advance).poison = s.poison := by simp [State.advance]
@[simp] theorem State.advance_gate : (s.advance).gate = s.gate := by simp [State.advance]
@[simp] theorem State.advance_que : (s.advance).que = s.que := by simp [State.advance]
@[simp] theorem State.advance_sec : (s.advance).sec = s.sec := by simp [State.advance]
@[simp] theorem State.advance_pwr : (s.advance).pwr = s.pwr := by simp [State.advance]
@[simp] theorem State.advance_dbg : (s.advance).dbg = s.dbg := by simp [State.advance]
@[simp] theorem State.advance_pin : (s.advance).pin = s.pin := by simp [State.advance]
@[simp] theorem State.advance_lch : (s.advance).lch = s.lch := by simp [State.advance]
@[simp] theorem State.advance_rcv : (s.advance).rcv = s.rcv := by simp [State.advance]
@[simp] theorem State.advance_phs : (s.advance).phs = s.phs := by simp [State.advance]
@[simp] theorem State.advance_dts : (s.advance).dts = s.dts := by simp [State.advance]
@[simp] theorem State.advance_str : (s.advance).str = s.str := by simp [State.advance]
@[simp] theorem State.advance_vec : (s.advance).vec = s.vec := by simp [State.advance]
@[simp] theorem State.advance_fel : (s.advance).fel = s.fel := by simp [State.advance]
@[simp] theorem State.advance_trg : (s.advance).trg = s.trg := by simp [State.advance]
@[simp] theorem State.advance_evb : (s.advance).evb = s.evb := by simp [State.advance]
@[simp] theorem State.advance_tim : (s.advance).tim = s.tim := by simp [State.advance]
@[simp] theorem State.advance_fab : (s.advance).fab = s.fab := by simp [State.advance]
@[simp] theorem State.advance_dram : (s.advance).dram = s.dram := by simp [State.advance]
@[simp] theorem State.advance_cmp : (s.advance).cmp = s.cmp := by simp [State.advance]
@[simp] theorem State.advance_clk : (s.advance).clk = s.clk := by simp [State.advance]
@[simp] theorem State.advance_hkc : (s.advance).hkc = s.hkc := by simp [State.advance]
@[simp] theorem State.advance_fls : (s.advance).fls = s.fls := by simp [State.advance]
@[simp] theorem State.advance_pending : (s.advance).pending = s.pending := by simp [State.advance]

@[simp] theorem State.cycles_fresh (n : Nat) : (s.cycles n).fresh = s.fresh := by obtain ⟨_, _, _, _, _, _, _, _, e⟩ := s.cycles_lit n; rw [e]
@[simp] theorem State.cycles_mode (n : Nat) : (s.cycles n).mode = s.mode := by obtain ⟨_, _, _, _, _, _, _, _, e⟩ := s.cycles_lit n; rw [e]
@[simp] theorem State.cycles_latch (n : Nat) : (s.cycles n).latch = s.latch := by obtain ⟨_, _, _, _, _, _, _, _, e⟩ := s.cycles_lit n; rw [e]
@[simp] theorem State.cycles_heldLo (n : Nat) : (s.cycles n).heldLo = s.heldLo := by obtain ⟨_, _, _, _, _, _, _, _, e⟩ := s.cycles_lit n; rw [e]
@[simp] theorem State.cycles_prevRes (n : Nat) : (s.cycles n).prevRes = s.prevRes := by obtain ⟨_, _, _, _, _, _, _, _, e⟩ := s.cycles_lit n; rw [e]
@[simp] theorem State.cycles_mem (n : Nat) : (s.cycles n).mem = s.mem := by obtain ⟨_, _, _, _, _, _, _, _, e⟩ := s.cycles_lit n; rw [e]
@[simp] theorem State.cycles_poison (n : Nat) : (s.cycles n).poison = s.poison := by obtain ⟨_, _, _, _, _, _, _, _, e⟩ := s.cycles_lit n; rw [e]
@[simp] theorem State.cycles_core (n : Nat) : (s.cycles n).core = s.core := by obtain ⟨_, _, _, _, _, _, _, _, e⟩ := s.cycles_lit n; rw [e]
@[simp] theorem State.cycles_gate (n : Nat) : (s.cycles n).gate = s.gate := by obtain ⟨_, _, _, _, _, _, _, _, e⟩ := s.cycles_lit n; rw [e]
@[simp] theorem State.cycles_que (n : Nat) : (s.cycles n).que = s.que := by obtain ⟨_, _, _, _, _, _, _, _, e⟩ := s.cycles_lit n; rw [e]
@[simp] theorem State.cycles_sec (n : Nat) : (s.cycles n).sec = s.sec := by obtain ⟨_, _, _, _, _, _, _, _, e⟩ := s.cycles_lit n; rw [e]
@[simp] theorem State.cycles_pwr (n : Nat) : (s.cycles n).pwr = s.pwr := by obtain ⟨_, _, _, _, _, _, _, _, e⟩ := s.cycles_lit n; rw [e]
@[simp] theorem State.cycles_pin (n : Nat) : (s.cycles n).pin = s.pin := by obtain ⟨_, _, _, _, _, _, _, _, e⟩ := s.cycles_lit n; rw [e]
@[simp] theorem State.cycles_lch (n : Nat) : (s.cycles n).lch = s.lch := by obtain ⟨_, _, _, _, _, _, _, _, e⟩ := s.cycles_lit n; rw [e]
@[simp] theorem State.cycles_rcv (n : Nat) : (s.cycles n).rcv = s.rcv := by obtain ⟨_, _, _, _, _, _, _, _, e⟩ := s.cycles_lit n; rw [e]
@[simp] theorem State.cycles_phs (n : Nat) : (s.cycles n).phs = s.phs := by obtain ⟨_, _, _, _, _, _, _, _, e⟩ := s.cycles_lit n; rw [e]
@[simp] theorem State.cycles_dts (n : Nat) : (s.cycles n).dts = s.dts := by obtain ⟨_, _, _, _, _, _, _, _, e⟩ := s.cycles_lit n; rw [e]
@[simp] theorem State.cycles_vec (n : Nat) : (s.cycles n).vec = s.vec := by obtain ⟨_, _, _, _, _, _, _, _, e⟩ := s.cycles_lit n; rw [e]
@[simp] theorem State.cycles_fel (n : Nat) : (s.cycles n).fel = s.fel := by obtain ⟨_, _, _, _, _, _, _, _, e⟩ := s.cycles_lit n; rw [e]
@[simp] theorem State.cycles_trg (n : Nat) : (s.cycles n).trg = s.trg := by obtain ⟨_, _, _, _, _, _, _, _, e⟩ := s.cycles_lit n; rw [e]
@[simp] theorem State.cycles_evb (n : Nat) : (s.cycles n).evb = s.evb := by obtain ⟨_, _, _, _, _, _, _, _, e⟩ := s.cycles_lit n; rw [e]
@[simp] theorem State.cycles_tim (n : Nat) : (s.cycles n).tim = s.tim := by obtain ⟨_, _, _, _, _, _, _, _, e⟩ := s.cycles_lit n; rw [e]
@[simp] theorem State.cycles_fab (n : Nat) : (s.cycles n).fab = s.fab := by obtain ⟨_, _, _, _, _, _, _, _, e⟩ := s.cycles_lit n; rw [e]
@[simp] theorem State.cycles_dram (n : Nat) : (s.cycles n).dram = s.dram := by obtain ⟨_, _, _, _, _, _, _, _, e⟩ := s.cycles_lit n; rw [e]
@[simp] theorem State.cycles_cmp (n : Nat) : (s.cycles n).cmp = s.cmp := by obtain ⟨_, _, _, _, _, _, _, _, e⟩ := s.cycles_lit n; rw [e]
@[simp] theorem State.cycles_clk (n : Nat) : (s.cycles n).clk = s.clk := by obtain ⟨_, _, _, _, _, _, _, _, e⟩ := s.cycles_lit n; rw [e]
@[simp] theorem State.cycles_hkc (n : Nat) : (s.cycles n).hkc = s.hkc := by obtain ⟨_, _, _, _, _, _, _, _, e⟩ := s.cycles_lit n; rw [e]
@[simp] theorem State.cycles_fls (n : Nat) : (s.cycles n).fls = s.fls := by obtain ⟨_, _, _, _, _, _, _, _, e⟩ := s.cycles_lit n; rw [e]
@[simp] theorem State.cycles_pending (n : Nat) : (s.cycles n).pending = s.pending := by obtain ⟨_, _, _, _, _, _, _, _, e⟩ := s.cycles_lit n; rw [e]

@[simp] theorem State.free_time : s.free.2.time = s.time := rfl
@[simp] theorem State.free_up : s.free.2.up = s.up := rfl
@[simp] theorem State.free_mode : s.free.2.mode = s.mode := rfl
@[simp] theorem State.free_csr : s.free.2.csr = s.csr := rfl
@[simp] theorem State.free_latch : s.free.2.latch = s.latch := rfl
@[simp] theorem State.free_heldLo : s.free.2.heldLo = s.heldLo := rfl
@[simp] theorem State.free_raised : s.free.2.raised = s.raised := rfl
@[simp] theorem State.free_prevRes : s.free.2.prevRes = s.prevRes := rfl
@[simp] theorem State.free_eras : s.free.2.eras = s.eras := rfl
@[simp] theorem State.free_mem : s.free.2.mem = s.mem := rfl
@[simp] theorem State.free_poison : s.free.2.poison = s.poison := rfl
@[simp] theorem State.free_core : s.free.2.core = s.core := rfl
@[simp] theorem State.free_gate : s.free.2.gate = s.gate := rfl
@[simp] theorem State.free_que : s.free.2.que = s.que := rfl
@[simp] theorem State.free_flt : s.free.2.flt = s.flt := rfl
@[simp] theorem State.free_sec : s.free.2.sec = s.sec := rfl
@[simp] theorem State.free_pwr : s.free.2.pwr = s.pwr := rfl
@[simp] theorem State.free_dbg : s.free.2.dbg = s.dbg := rfl
@[simp] theorem State.free_pin : s.free.2.pin = s.pin := rfl
@[simp] theorem State.free_lch : s.free.2.lch = s.lch := rfl
@[simp] theorem State.free_rcv : s.free.2.rcv = s.rcv := rfl
@[simp] theorem State.free_phs : s.free.2.phs = s.phs := rfl
@[simp] theorem State.free_dts : s.free.2.dts = s.dts := rfl
@[simp] theorem State.free_str : s.free.2.str = s.str := rfl
@[simp] theorem State.free_vec : s.free.2.vec = s.vec := rfl
@[simp] theorem State.free_fel : s.free.2.fel = s.fel := rfl
@[simp] theorem State.free_trg : s.free.2.trg = s.trg := rfl
@[simp] theorem State.free_evb : s.free.2.evb = s.evb := rfl
@[simp] theorem State.free_tim : s.free.2.tim = s.tim := rfl
@[simp] theorem State.free_fab : s.free.2.fab = s.fab := rfl
@[simp] theorem State.free_dram : s.free.2.dram = s.dram := rfl
@[simp] theorem State.free_cmp : s.free.2.cmp = s.cmp := rfl
@[simp] theorem State.free_clk : s.free.2.clk = s.clk := rfl
@[simp] theorem State.free_hkc : s.free.2.hkc = s.hkc := rfl
@[simp] theorem State.free_fls : s.free.2.fls = s.fls := rfl
@[simp] theorem State.free_pending : s.free.2.pending = s.pending := rfl

@[simp] theorem State.elapse_flt_inA (dt : Nat) : (s.elapse dt).flt.inA = s.flt.inA := by obtain ⟨_, _, _, _, _, _, _, _, e⟩ := s.elapse_lit dt; rw [e]
@[simp] theorem State.elapse_flt_inB (dt : Nat) : (s.elapse dt).flt.inB = s.flt.inB := by obtain ⟨_, _, _, _, _, _, _, _, e⟩ := s.elapse_lit dt; rw [e]
@[simp] theorem State.elapse_flt_foreB (dt : Nat) : (s.elapse dt).flt.foreB = s.flt.foreB := by obtain ⟨_, _, _, _, _, _, _, _, e⟩ := s.elapse_lit dt; rw [e]
@[simp] theorem State.elapse_flt_outAt (dt : Nat) : (s.elapse dt).flt.outAt = s.flt.outAt := by obtain ⟨_, _, _, _, _, _, _, _, e⟩ := s.elapse_lit dt; rw [e]
@[simp] theorem State.elapse_flt_passes (dt : Nat) : (s.elapse dt).flt.passes = s.flt.passes := by obtain ⟨_, _, _, _, _, _, _, _, e⟩ := s.elapse_lit dt; rw [e]
@[simp] theorem State.elapse_flt_resync (dt : Nat) : (s.elapse dt).flt.resync = s.flt.resync := by obtain ⟨_, _, _, _, _, _, _, _, e⟩ := s.elapse_lit dt; rw [e]
@[simp] theorem State.elapse_flt_leaseAt (dt : Nat) : (s.elapse dt).flt.leaseAt = s.flt.leaseAt := by obtain ⟨_, _, _, _, _, _, _, _, e⟩ := s.elapse_lit dt; rw [e]
@[simp] theorem State.elapse_flt_leaseSusp (dt : Nat) : (s.elapse dt).flt.leaseSusp = s.flt.leaseSusp := by obtain ⟨_, _, _, _, _, _, _, _, e⟩ := s.elapse_lit dt; rw [e]
@[simp] theorem State.elapse_flt_recovery (dt : Nat) : (s.elapse dt).flt.recovery = s.flt.recovery := by obtain ⟨_, _, _, _, _, _, _, _, e⟩ := s.elapse_lit dt; rw [e]
@[simp] theorem State.elapse_flt_roles (dt : Nat) : (s.elapse dt).flt.roles = s.flt.roles := by obtain ⟨_, _, _, _, _, _, _, _, e⟩ := s.elapse_lit dt; rw [e]
@[simp] theorem State.elapse_flt_instar (dt : Nat) : (s.elapse dt).flt.instar = s.flt.instar := by obtain ⟨_, _, _, _, _, _, _, _, e⟩ := s.elapse_lit dt; rw [e]
@[simp] theorem State.elapse_flt_stale (dt : Nat) : (s.elapse dt).flt.stale = s.flt.stale := by obtain ⟨_, _, _, _, _, _, _, _, e⟩ := s.elapse_lit dt; rw [e]
@[simp] theorem State.elapse_flt_firstUp (dt : Nat) : (s.elapse dt).flt.firstUp = s.flt.firstUp := by obtain ⟨_, _, _, _, _, _, _, _, e⟩ := s.elapse_lit dt; rw [e]
@[simp] theorem State.elapse_flt_compared (dt : Nat) : (s.elapse dt).flt.compared = s.flt.compared := by obtain ⟨_, _, _, _, _, _, _, _, e⟩ := s.elapse_lit dt; rw [e]
@[simp] theorem State.elapse_flt_tokens (dt : Nat) : (s.elapse dt).flt.tokens = s.flt.tokens := by obtain ⟨_, _, _, _, _, _, _, _, e⟩ := s.elapse_lit dt; rw [e]
@[simp] theorem State.elapse_flt_tokAt (dt : Nat) : (s.elapse dt).flt.tokAt = s.flt.tokAt := by obtain ⟨_, _, _, _, _, _, _, _, e⟩ := s.elapse_lit dt; rw [e]
@[simp] theorem State.elapse_flt_slots (dt : Nat) : (s.elapse dt).flt.slots = s.flt.slots := by obtain ⟨_, _, _, _, _, _, _, _, e⟩ := s.elapse_lit dt; rw [e]
@[simp] theorem State.elapse_flt_crit (dt : Nat) : (s.elapse dt).flt.crit = s.flt.crit := by obtain ⟨_, _, _, _, _, _, _, _, e⟩ := s.elapse_lit dt; rw [e]
@[simp] theorem State.elapse_flt_logWait (dt : Nat) : (s.elapse dt).flt.logWait = s.flt.logWait := by obtain ⟨_, _, _, _, _, _, _, _, e⟩ := s.elapse_lit dt; rw [e]
@[simp] theorem State.elapse_flt_snapAt (dt : Nat) : (s.elapse dt).flt.snapAt = s.flt.snapAt := by obtain ⟨_, _, _, _, _, _, _, _, e⟩ := s.elapse_lit dt; rw [e]
@[simp] theorem State.elapse_flt_snapPer (dt : Nat) : (s.elapse dt).flt.snapPer = s.flt.snapPer := by obtain ⟨_, _, _, _, _, _, _, _, e⟩ := s.elapse_lit dt; rw [e]
@[simp] theorem State.elapse_flt_snapNext (dt : Nat) : (s.elapse dt).flt.snapNext = s.flt.snapNext := by obtain ⟨_, _, _, _, _, _, _, _, e⟩ := s.elapse_lit dt; rw [e]
@[simp] theorem State.elapse_flt_suspect (dt : Nat) : (s.elapse dt).flt.suspect = s.flt.suspect := by obtain ⟨_, _, _, _, _, _, _, _, e⟩ := s.elapse_lit dt; rw [e]
@[simp] theorem State.elapse_flt_momentary (dt : Nat) : (s.elapse dt).flt.momentary = s.flt.momentary := by obtain ⟨_, _, _, _, _, _, _, _, e⟩ := s.elapse_lit dt; rw [e]
@[simp] theorem State.elapse_dbg_mux (dt : Nat) : (s.elapse dt).dbg.mux = s.dbg.mux := by obtain ⟨_, _, _, _, _, _, _, _, e⟩ := s.elapse_lit dt; rw [e]
@[simp] theorem State.elapse_dbg_tap (dt : Nat) : (s.elapse dt).dbg.tap = s.dbg.tap := by obtain ⟨_, _, _, _, _, _, _, _, e⟩ := s.elapse_lit dt; rw [e]
@[simp] theorem State.elapse_dbg_postBuf (dt : Nat) : (s.elapse dt).dbg.postBuf = s.dbg.postBuf := by obtain ⟨_, _, _, _, _, _, _, _, e⟩ := s.elapse_lit dt; rw [e]
@[simp] theorem State.elapse_dbg_ansBuf (dt : Nat) : (s.elapse dt).dbg.ansBuf = s.dbg.ansBuf := by obtain ⟨_, _, _, _, _, _, _, _, e⟩ := s.elapse_lit dt; rw [e]
@[simp] theorem State.elapse_dbg_uartLost (dt : Nat) : (s.elapse dt).dbg.uartLost = s.dbg.uartLost := by obtain ⟨_, _, _, _, _, _, _, _, e⟩ := s.elapse_lit dt; rw [e]
@[simp] theorem State.elapse_dbg_tapIr (dt : Nat) : (s.elapse dt).dbg.tapIr = s.dbg.tapIr := by obtain ⟨_, _, _, _, _, _, _, _, e⟩ := s.elapse_lit dt; rw [e]
@[simp] theorem State.elapse_dbg_tapDr (dt : Nat) : (s.elapse dt).dbg.tapDr = s.dbg.tapDr := by obtain ⟨_, _, _, _, _, _, _, _, e⟩ := s.elapse_lit dt; rw [e]
@[simp] theorem State.elapse_dbg_tapOut (dt : Nat) : (s.elapse dt).dbg.tapOut = s.dbg.tapOut := by obtain ⟨_, _, _, _, _, _, _, _, e⟩ := s.elapse_lit dt; rw [e]
@[simp] theorem State.elapse_dbg_spi (dt : Nat) : (s.elapse dt).dbg.spi = s.dbg.spi := by obtain ⟨_, _, _, _, _, _, _, _, e⟩ := s.elapse_lit dt; rw [e]
@[simp] theorem State.elapse_str_mapStage (dt : Nat) : (s.elapse dt).str.mapStage = s.str.mapStage := by obtain ⟨_, _, _, _, _, _, _, _, e⟩ := s.elapse_lit dt; rw [e]
@[simp] theorem State.elapse_str_taps (dt : Nat) : (s.elapse dt).str.taps = s.str.taps := by obtain ⟨_, _, _, _, _, _, _, _, e⟩ := s.elapse_lit dt; rw [e]
@[simp] theorem State.elapse_str_ctl (dt : Nat) : (s.elapse dt).str.ctl = s.str.ctl := by obtain ⟨_, _, _, _, _, _, _, _, e⟩ := s.elapse_lit dt; rw [e]
@[simp] theorem State.elapse_str_blk (dt : Nat) : (s.elapse dt).str.blk = s.str.blk := by obtain ⟨_, _, _, _, _, _, _, _, e⟩ := s.elapse_lit dt; rw [e]
@[simp] theorem State.elapse_str_range (dt : Nat) : (s.elapse dt).str.range = s.str.range := by obtain ⟨_, _, _, _, _, _, _, _, e⟩ := s.elapse_lit dt; rw [e]
@[simp] theorem State.elapse_str_port (dt : Nat) : (s.elapse dt).str.port = s.str.port := by obtain ⟨_, _, _, _, _, _, _, _, e⟩ := s.elapse_lit dt; rw [e]
@[simp] theorem State.elapse_str_dctl (dt : Nat) : (s.elapse dt).str.dctl = s.str.dctl := by obtain ⟨_, _, _, _, _, _, _, _, e⟩ := s.elapse_lit dt; rw [e]
@[simp] theorem State.elapse_str_ucfg (dt : Nat) : (s.elapse dt).str.ucfg = s.str.ucfg := by obtain ⟨_, _, _, _, _, _, _, _, e⟩ := s.elapse_lit dt; rw [e]
@[simp] theorem State.elapse_str_set (dt : Nat) : (s.elapse dt).str.set = s.str.set := by obtain ⟨_, _, _, _, _, _, _, _, e⟩ := s.elapse_lit dt; rw [e]
@[simp] theorem State.elapse_str_setIx (dt : Nat) : (s.elapse dt).str.setIx = s.str.setIx := by obtain ⟨_, _, _, _, _, _, _, _, e⟩ := s.elapse_lit dt; rw [e]
@[simp] theorem State.elapse_str_streaming (dt : Nat) : (s.elapse dt).str.streaming = s.str.streaming := by obtain ⟨_, _, _, _, _, _, _, _, e⟩ := s.elapse_lit dt; rw [e]
@[simp] theorem State.elapse_str_chans (dt : Nat) : (s.elapse dt).str.chans = s.str.chans := by obtain ⟨_, _, _, _, _, _, _, _, e⟩ := s.elapse_lit dt; rw [e]
@[simp] theorem State.elapse_str_hist (dt : Nat) : (s.elapse dt).str.hist = s.str.hist := by obtain ⟨_, _, _, _, _, _, _, _, e⟩ := s.elapse_lit dt; rw [e]
@[simp] theorem State.elapse_str_k (dt : Nat) : (s.elapse dt).str.k = s.str.k := by obtain ⟨_, _, _, _, _, _, _, _, e⟩ := s.elapse_lit dt; rw [e]
@[simp] theorem State.elapse_str_rows (dt : Nat) : (s.elapse dt).str.rows = s.str.rows := by obtain ⟨_, _, _, _, _, _, _, _, e⟩ := s.elapse_lit dt; rw [e]
@[simp] theorem State.elapse_str_dets (dt : Nat) : (s.elapse dt).str.dets = s.str.dets := by obtain ⟨_, _, _, _, _, _, _, _, e⟩ := s.elapse_lit dt; rw [e]
@[simp] theorem State.elapse_str_detRows (dt : Nat) : (s.elapse dt).str.detRows = s.str.detRows := by obtain ⟨_, _, _, _, _, _, _, _, e⟩ := s.elapse_lit dt; rw [e]
@[simp] theorem State.elapse_str_times (dt : Nat) : (s.elapse dt).str.times = s.str.times := by obtain ⟨_, _, _, _, _, _, _, _, e⟩ := s.elapse_lit dt; rw [e]
@[simp] theorem State.elapse_str_s0 (dt : Nat) : (s.elapse dt).str.s0 = s.str.s0 := by obtain ⟨_, _, _, _, _, _, _, _, e⟩ := s.elapse_lit dt; rw [e]
@[simp] theorem State.elapse_str_period (dt : Nat) : (s.elapse dt).str.period = s.str.period := by obtain ⟨_, _, _, _, _, _, _, _, e⟩ := s.elapse_lit dt; rw [e]
@[simp] theorem State.elapse_str_flush (dt : Nat) : (s.elapse dt).str.flush = s.str.flush := by obtain ⟨_, _, _, _, _, _, _, _, e⟩ := s.elapse_lit dt; rw [e]
@[simp] theorem State.elapse_str_next (dt : Nat) : (s.elapse dt).str.next = s.str.next := by obtain ⟨_, _, _, _, _, _, _, _, e⟩ := s.elapse_lit dt; rw [e]
@[simp] theorem State.elapse_str_prev (dt : Nat) : (s.elapse dt).str.prev = s.str.prev := by obtain ⟨_, _, _, _, _, _, _, _, e⟩ := s.elapse_lit dt; rw [e]
@[simp] theorem State.elapse_str_tapEnd (dt : Nat) : (s.elapse dt).str.tapEnd = s.str.tapEnd := by obtain ⟨_, _, _, _, _, _, _, _, e⟩ := s.elapse_lit dt; rw [e]

@[simp] theorem State.cycles_flt_inA (n : Nat) : (s.cycles n).flt.inA = s.flt.inA := by obtain ⟨_, _, _, _, _, _, _, _, e⟩ := s.cycles_lit n; rw [e]
@[simp] theorem State.cycles_flt_inB (n : Nat) : (s.cycles n).flt.inB = s.flt.inB := by obtain ⟨_, _, _, _, _, _, _, _, e⟩ := s.cycles_lit n; rw [e]
@[simp] theorem State.cycles_flt_foreB (n : Nat) : (s.cycles n).flt.foreB = s.flt.foreB := by obtain ⟨_, _, _, _, _, _, _, _, e⟩ := s.cycles_lit n; rw [e]
@[simp] theorem State.cycles_flt_outAt (n : Nat) : (s.cycles n).flt.outAt = s.flt.outAt := by obtain ⟨_, _, _, _, _, _, _, _, e⟩ := s.cycles_lit n; rw [e]
@[simp] theorem State.cycles_flt_passes (n : Nat) : (s.cycles n).flt.passes = s.flt.passes := by obtain ⟨_, _, _, _, _, _, _, _, e⟩ := s.cycles_lit n; rw [e]
@[simp] theorem State.cycles_flt_resync (n : Nat) : (s.cycles n).flt.resync = s.flt.resync := by obtain ⟨_, _, _, _, _, _, _, _, e⟩ := s.cycles_lit n; rw [e]
@[simp] theorem State.cycles_flt_leaseAt (n : Nat) : (s.cycles n).flt.leaseAt = s.flt.leaseAt := by obtain ⟨_, _, _, _, _, _, _, _, e⟩ := s.cycles_lit n; rw [e]
@[simp] theorem State.cycles_flt_leaseSusp (n : Nat) : (s.cycles n).flt.leaseSusp = s.flt.leaseSusp := by obtain ⟨_, _, _, _, _, _, _, _, e⟩ := s.cycles_lit n; rw [e]
@[simp] theorem State.cycles_flt_recovery (n : Nat) : (s.cycles n).flt.recovery = s.flt.recovery := by obtain ⟨_, _, _, _, _, _, _, _, e⟩ := s.cycles_lit n; rw [e]
@[simp] theorem State.cycles_flt_roles (n : Nat) : (s.cycles n).flt.roles = s.flt.roles := by obtain ⟨_, _, _, _, _, _, _, _, e⟩ := s.cycles_lit n; rw [e]
@[simp] theorem State.cycles_flt_instar (n : Nat) : (s.cycles n).flt.instar = s.flt.instar := by obtain ⟨_, _, _, _, _, _, _, _, e⟩ := s.cycles_lit n; rw [e]
@[simp] theorem State.cycles_flt_stale (n : Nat) : (s.cycles n).flt.stale = s.flt.stale := by obtain ⟨_, _, _, _, _, _, _, _, e⟩ := s.cycles_lit n; rw [e]
@[simp] theorem State.cycles_flt_firstUp (n : Nat) : (s.cycles n).flt.firstUp = s.flt.firstUp := by obtain ⟨_, _, _, _, _, _, _, _, e⟩ := s.cycles_lit n; rw [e]
@[simp] theorem State.cycles_flt_compared (n : Nat) : (s.cycles n).flt.compared = s.flt.compared := by obtain ⟨_, _, _, _, _, _, _, _, e⟩ := s.cycles_lit n; rw [e]
@[simp] theorem State.cycles_flt_tokens (n : Nat) : (s.cycles n).flt.tokens = s.flt.tokens := by obtain ⟨_, _, _, _, _, _, _, _, e⟩ := s.cycles_lit n; rw [e]
@[simp] theorem State.cycles_flt_tokAt (n : Nat) : (s.cycles n).flt.tokAt = s.flt.tokAt := by obtain ⟨_, _, _, _, _, _, _, _, e⟩ := s.cycles_lit n; rw [e]
@[simp] theorem State.cycles_flt_slots (n : Nat) : (s.cycles n).flt.slots = s.flt.slots := by obtain ⟨_, _, _, _, _, _, _, _, e⟩ := s.cycles_lit n; rw [e]
@[simp] theorem State.cycles_flt_crit (n : Nat) : (s.cycles n).flt.crit = s.flt.crit := by obtain ⟨_, _, _, _, _, _, _, _, e⟩ := s.cycles_lit n; rw [e]
@[simp] theorem State.cycles_flt_logWait (n : Nat) : (s.cycles n).flt.logWait = s.flt.logWait := by obtain ⟨_, _, _, _, _, _, _, _, e⟩ := s.cycles_lit n; rw [e]
@[simp] theorem State.cycles_flt_snapAt (n : Nat) : (s.cycles n).flt.snapAt = s.flt.snapAt := by obtain ⟨_, _, _, _, _, _, _, _, e⟩ := s.cycles_lit n; rw [e]
@[simp] theorem State.cycles_flt_snapPer (n : Nat) : (s.cycles n).flt.snapPer = s.flt.snapPer := by obtain ⟨_, _, _, _, _, _, _, _, e⟩ := s.cycles_lit n; rw [e]
@[simp] theorem State.cycles_flt_snapNext (n : Nat) : (s.cycles n).flt.snapNext = s.flt.snapNext := by obtain ⟨_, _, _, _, _, _, _, _, e⟩ := s.cycles_lit n; rw [e]
@[simp] theorem State.cycles_flt_suspect (n : Nat) : (s.cycles n).flt.suspect = s.flt.suspect := by obtain ⟨_, _, _, _, _, _, _, _, e⟩ := s.cycles_lit n; rw [e]
@[simp] theorem State.cycles_flt_momentary (n : Nat) : (s.cycles n).flt.momentary = s.flt.momentary := by obtain ⟨_, _, _, _, _, _, _, _, e⟩ := s.cycles_lit n; rw [e]
@[simp] theorem State.cycles_dbg_mux (n : Nat) : (s.cycles n).dbg.mux = s.dbg.mux := by obtain ⟨_, _, _, _, _, _, _, _, e⟩ := s.cycles_lit n; rw [e]
@[simp] theorem State.cycles_dbg_tap (n : Nat) : (s.cycles n).dbg.tap = s.dbg.tap := by obtain ⟨_, _, _, _, _, _, _, _, e⟩ := s.cycles_lit n; rw [e]
@[simp] theorem State.cycles_dbg_postBuf (n : Nat) : (s.cycles n).dbg.postBuf = s.dbg.postBuf := by obtain ⟨_, _, _, _, _, _, _, _, e⟩ := s.cycles_lit n; rw [e]
@[simp] theorem State.cycles_dbg_ansBuf (n : Nat) : (s.cycles n).dbg.ansBuf = s.dbg.ansBuf := by obtain ⟨_, _, _, _, _, _, _, _, e⟩ := s.cycles_lit n; rw [e]
@[simp] theorem State.cycles_dbg_uartLost (n : Nat) : (s.cycles n).dbg.uartLost = s.dbg.uartLost := by obtain ⟨_, _, _, _, _, _, _, _, e⟩ := s.cycles_lit n; rw [e]
@[simp] theorem State.cycles_dbg_tapIr (n : Nat) : (s.cycles n).dbg.tapIr = s.dbg.tapIr := by obtain ⟨_, _, _, _, _, _, _, _, e⟩ := s.cycles_lit n; rw [e]
@[simp] theorem State.cycles_dbg_tapDr (n : Nat) : (s.cycles n).dbg.tapDr = s.dbg.tapDr := by obtain ⟨_, _, _, _, _, _, _, _, e⟩ := s.cycles_lit n; rw [e]
@[simp] theorem State.cycles_dbg_tapOut (n : Nat) : (s.cycles n).dbg.tapOut = s.dbg.tapOut := by obtain ⟨_, _, _, _, _, _, _, _, e⟩ := s.cycles_lit n; rw [e]
@[simp] theorem State.cycles_dbg_spi (n : Nat) : (s.cycles n).dbg.spi = s.dbg.spi := by obtain ⟨_, _, _, _, _, _, _, _, e⟩ := s.cycles_lit n; rw [e]
@[simp] theorem State.cycles_str_mapStage (n : Nat) : (s.cycles n).str.mapStage = s.str.mapStage := by obtain ⟨_, _, _, _, _, _, _, _, e⟩ := s.cycles_lit n; rw [e]
@[simp] theorem State.cycles_str_taps (n : Nat) : (s.cycles n).str.taps = s.str.taps := by obtain ⟨_, _, _, _, _, _, _, _, e⟩ := s.cycles_lit n; rw [e]
@[simp] theorem State.cycles_str_ctl (n : Nat) : (s.cycles n).str.ctl = s.str.ctl := by obtain ⟨_, _, _, _, _, _, _, _, e⟩ := s.cycles_lit n; rw [e]
@[simp] theorem State.cycles_str_blk (n : Nat) : (s.cycles n).str.blk = s.str.blk := by obtain ⟨_, _, _, _, _, _, _, _, e⟩ := s.cycles_lit n; rw [e]
@[simp] theorem State.cycles_str_range (n : Nat) : (s.cycles n).str.range = s.str.range := by obtain ⟨_, _, _, _, _, _, _, _, e⟩ := s.cycles_lit n; rw [e]
@[simp] theorem State.cycles_str_port (n : Nat) : (s.cycles n).str.port = s.str.port := by obtain ⟨_, _, _, _, _, _, _, _, e⟩ := s.cycles_lit n; rw [e]
@[simp] theorem State.cycles_str_dctl (n : Nat) : (s.cycles n).str.dctl = s.str.dctl := by obtain ⟨_, _, _, _, _, _, _, _, e⟩ := s.cycles_lit n; rw [e]
@[simp] theorem State.cycles_str_ucfg (n : Nat) : (s.cycles n).str.ucfg = s.str.ucfg := by obtain ⟨_, _, _, _, _, _, _, _, e⟩ := s.cycles_lit n; rw [e]
@[simp] theorem State.cycles_str_set (n : Nat) : (s.cycles n).str.set = s.str.set := by obtain ⟨_, _, _, _, _, _, _, _, e⟩ := s.cycles_lit n; rw [e]
@[simp] theorem State.cycles_str_setIx (n : Nat) : (s.cycles n).str.setIx = s.str.setIx := by obtain ⟨_, _, _, _, _, _, _, _, e⟩ := s.cycles_lit n; rw [e]
@[simp] theorem State.cycles_str_streaming (n : Nat) : (s.cycles n).str.streaming = s.str.streaming := by obtain ⟨_, _, _, _, _, _, _, _, e⟩ := s.cycles_lit n; rw [e]
@[simp] theorem State.cycles_str_chans (n : Nat) : (s.cycles n).str.chans = s.str.chans := by obtain ⟨_, _, _, _, _, _, _, _, e⟩ := s.cycles_lit n; rw [e]
@[simp] theorem State.cycles_str_hist (n : Nat) : (s.cycles n).str.hist = s.str.hist := by obtain ⟨_, _, _, _, _, _, _, _, e⟩ := s.cycles_lit n; rw [e]
@[simp] theorem State.cycles_str_k (n : Nat) : (s.cycles n).str.k = s.str.k := by obtain ⟨_, _, _, _, _, _, _, _, e⟩ := s.cycles_lit n; rw [e]
@[simp] theorem State.cycles_str_rows (n : Nat) : (s.cycles n).str.rows = s.str.rows := by obtain ⟨_, _, _, _, _, _, _, _, e⟩ := s.cycles_lit n; rw [e]
@[simp] theorem State.cycles_str_dets (n : Nat) : (s.cycles n).str.dets = s.str.dets := by obtain ⟨_, _, _, _, _, _, _, _, e⟩ := s.cycles_lit n; rw [e]
@[simp] theorem State.cycles_str_detRows (n : Nat) : (s.cycles n).str.detRows = s.str.detRows := by obtain ⟨_, _, _, _, _, _, _, _, e⟩ := s.cycles_lit n; rw [e]
@[simp] theorem State.cycles_str_times (n : Nat) : (s.cycles n).str.times = s.str.times := by obtain ⟨_, _, _, _, _, _, _, _, e⟩ := s.cycles_lit n; rw [e]
@[simp] theorem State.cycles_str_s0 (n : Nat) : (s.cycles n).str.s0 = s.str.s0 := by obtain ⟨_, _, _, _, _, _, _, _, e⟩ := s.cycles_lit n; rw [e]
@[simp] theorem State.cycles_str_period (n : Nat) : (s.cycles n).str.period = s.str.period := by obtain ⟨_, _, _, _, _, _, _, _, e⟩ := s.cycles_lit n; rw [e]
@[simp] theorem State.cycles_str_flush (n : Nat) : (s.cycles n).str.flush = s.str.flush := by obtain ⟨_, _, _, _, _, _, _, _, e⟩ := s.cycles_lit n; rw [e]
@[simp] theorem State.cycles_str_next (n : Nat) : (s.cycles n).str.next = s.str.next := by obtain ⟨_, _, _, _, _, _, _, _, e⟩ := s.cycles_lit n; rw [e]
@[simp] theorem State.cycles_str_prev (n : Nat) : (s.cycles n).str.prev = s.str.prev := by obtain ⟨_, _, _, _, _, _, _, _, e⟩ := s.cycles_lit n; rw [e]
@[simp] theorem State.cycles_str_tapEnd (n : Nat) : (s.cycles n).str.tapEnd = s.str.tapEnd := by obtain ⟨_, _, _, _, _, _, _, _, e⟩ := s.cycles_lit n; rw [e]

@[simp] theorem State.bump_flt_inA (src n : Nat) : (s.bump src n).flt.inA = s.flt.inA := rfl
@[simp] theorem State.bump_flt_inB (src n : Nat) : (s.bump src n).flt.inB = s.flt.inB := rfl
@[simp] theorem State.bump_flt_foreB (src n : Nat) : (s.bump src n).flt.foreB = s.flt.foreB := rfl
@[simp] theorem State.bump_flt_outAt (src n : Nat) : (s.bump src n).flt.outAt = s.flt.outAt := rfl
@[simp] theorem State.bump_flt_passes (src n : Nat) : (s.bump src n).flt.passes = s.flt.passes := rfl
@[simp] theorem State.bump_flt_resync (src n : Nat) : (s.bump src n).flt.resync = s.flt.resync := rfl
@[simp] theorem State.bump_flt_leaseAt (src n : Nat) : (s.bump src n).flt.leaseAt = s.flt.leaseAt := rfl
@[simp] theorem State.bump_flt_leaseSusp (src n : Nat) : (s.bump src n).flt.leaseSusp = s.flt.leaseSusp := rfl
@[simp] theorem State.bump_flt_recovery (src n : Nat) : (s.bump src n).flt.recovery = s.flt.recovery := rfl
@[simp] theorem State.bump_flt_roles (src n : Nat) : (s.bump src n).flt.roles = s.flt.roles := rfl
@[simp] theorem State.bump_flt_instar (src n : Nat) : (s.bump src n).flt.instar = s.flt.instar := rfl
@[simp] theorem State.bump_flt_stale (src n : Nat) : (s.bump src n).flt.stale = s.flt.stale := rfl
@[simp] theorem State.bump_flt_firstUp (src n : Nat) : (s.bump src n).flt.firstUp = s.flt.firstUp := rfl
@[simp] theorem State.bump_flt_compared (src n : Nat) : (s.bump src n).flt.compared = s.flt.compared := rfl
@[simp] theorem State.bump_flt_tokens (src n : Nat) : (s.bump src n).flt.tokens = s.flt.tokens := rfl
@[simp] theorem State.bump_flt_tokAt (src n : Nat) : (s.bump src n).flt.tokAt = s.flt.tokAt := rfl
@[simp] theorem State.bump_flt_slots (src n : Nat) : (s.bump src n).flt.slots = s.flt.slots := rfl
@[simp] theorem State.bump_flt_crit (src n : Nat) : (s.bump src n).flt.crit = s.flt.crit := rfl
@[simp] theorem State.bump_flt_logWait (src n : Nat) : (s.bump src n).flt.logWait = s.flt.logWait := rfl
@[simp] theorem State.bump_flt_snapAt (src n : Nat) : (s.bump src n).flt.snapAt = s.flt.snapAt := rfl
@[simp] theorem State.bump_flt_snapPer (src n : Nat) : (s.bump src n).flt.snapPer = s.flt.snapPer := rfl
@[simp] theorem State.bump_flt_snapNext (src n : Nat) : (s.bump src n).flt.snapNext = s.flt.snapNext := rfl
@[simp] theorem State.bump_flt_suspect (src n : Nat) : (s.bump src n).flt.suspect = s.flt.suspect := rfl
@[simp] theorem State.bump_flt_momentary (src n : Nat) : (s.bump src n).flt.momentary = s.flt.momentary := rfl

@[simp] theorem State.retireTo_flt_inA (a : BitVec 18) : (s.retireTo a).flt.inA = s.flt.inA := rfl
@[simp] theorem State.retireTo_flt_inB (a : BitVec 18) : (s.retireTo a).flt.inB = s.flt.inB := rfl
@[simp] theorem State.retireTo_flt_foreB (a : BitVec 18) : (s.retireTo a).flt.foreB = s.flt.foreB := rfl
@[simp] theorem State.retireTo_flt_outAt (a : BitVec 18) : (s.retireTo a).flt.outAt = s.flt.outAt := rfl
@[simp] theorem State.retireTo_flt_passes (a : BitVec 18) : (s.retireTo a).flt.passes = s.flt.passes := rfl
@[simp] theorem State.retireTo_flt_resync (a : BitVec 18) : (s.retireTo a).flt.resync = s.flt.resync := rfl
@[simp] theorem State.retireTo_flt_leaseAt (a : BitVec 18) : (s.retireTo a).flt.leaseAt = s.flt.leaseAt := rfl
@[simp] theorem State.retireTo_flt_leaseSusp (a : BitVec 18) : (s.retireTo a).flt.leaseSusp = s.flt.leaseSusp := rfl
@[simp] theorem State.retireTo_flt_recovery (a : BitVec 18) : (s.retireTo a).flt.recovery = s.flt.recovery := rfl
@[simp] theorem State.retireTo_flt_roles (a : BitVec 18) : (s.retireTo a).flt.roles = s.flt.roles := rfl
@[simp] theorem State.retireTo_flt_instar (a : BitVec 18) : (s.retireTo a).flt.instar = s.flt.instar := rfl
@[simp] theorem State.retireTo_flt_stale (a : BitVec 18) : (s.retireTo a).flt.stale = s.flt.stale := rfl
@[simp] theorem State.retireTo_flt_firstUp (a : BitVec 18) : (s.retireTo a).flt.firstUp = s.flt.firstUp := rfl
@[simp] theorem State.retireTo_flt_compared (a : BitVec 18) : (s.retireTo a).flt.compared = s.flt.compared := rfl
@[simp] theorem State.retireTo_flt_tokens (a : BitVec 18) : (s.retireTo a).flt.tokens = s.flt.tokens := rfl
@[simp] theorem State.retireTo_flt_tokAt (a : BitVec 18) : (s.retireTo a).flt.tokAt = s.flt.tokAt := rfl
@[simp] theorem State.retireTo_flt_slots (a : BitVec 18) : (s.retireTo a).flt.slots = s.flt.slots := rfl
@[simp] theorem State.retireTo_flt_crit (a : BitVec 18) : (s.retireTo a).flt.crit = s.flt.crit := rfl
@[simp] theorem State.retireTo_flt_logWait (a : BitVec 18) : (s.retireTo a).flt.logWait = s.flt.logWait := rfl
@[simp] theorem State.retireTo_flt_snapAt (a : BitVec 18) : (s.retireTo a).flt.snapAt = s.flt.snapAt := rfl
@[simp] theorem State.retireTo_flt_snapPer (a : BitVec 18) : (s.retireTo a).flt.snapPer = s.flt.snapPer := rfl
@[simp] theorem State.retireTo_flt_snapNext (a : BitVec 18) : (s.retireTo a).flt.snapNext = s.flt.snapNext := rfl
@[simp] theorem State.retireTo_flt_suspect (a : BitVec 18) : (s.retireTo a).flt.suspect = s.flt.suspect := rfl
@[simp] theorem State.retireTo_flt_momentary (a : BitVec 18) : (s.retireTo a).flt.momentary = s.flt.momentary := rfl

@[simp] theorem State.advance_flt_inA : (s.advance).flt.inA = s.flt.inA := by simp [State.advance]
@[simp] theorem State.advance_flt_inB : (s.advance).flt.inB = s.flt.inB := by simp [State.advance]
@[simp] theorem State.advance_flt_foreB : (s.advance).flt.foreB = s.flt.foreB := by simp [State.advance]
@[simp] theorem State.advance_flt_outAt : (s.advance).flt.outAt = s.flt.outAt := by simp [State.advance]
@[simp] theorem State.advance_flt_passes : (s.advance).flt.passes = s.flt.passes := by simp [State.advance]
@[simp] theorem State.advance_flt_resync : (s.advance).flt.resync = s.flt.resync := by simp [State.advance]
@[simp] theorem State.advance_flt_leaseAt : (s.advance).flt.leaseAt = s.flt.leaseAt := by simp [State.advance]
@[simp] theorem State.advance_flt_leaseSusp : (s.advance).flt.leaseSusp = s.flt.leaseSusp := by simp [State.advance]
@[simp] theorem State.advance_flt_recovery : (s.advance).flt.recovery = s.flt.recovery := by simp [State.advance]
@[simp] theorem State.advance_flt_roles : (s.advance).flt.roles = s.flt.roles := by simp [State.advance]
@[simp] theorem State.advance_flt_instar : (s.advance).flt.instar = s.flt.instar := by simp [State.advance]
@[simp] theorem State.advance_flt_stale : (s.advance).flt.stale = s.flt.stale := by simp [State.advance]
@[simp] theorem State.advance_flt_firstUp : (s.advance).flt.firstUp = s.flt.firstUp := by simp [State.advance]
@[simp] theorem State.advance_flt_compared : (s.advance).flt.compared = s.flt.compared := by simp [State.advance]
@[simp] theorem State.advance_flt_tokens : (s.advance).flt.tokens = s.flt.tokens := by simp [State.advance]
@[simp] theorem State.advance_flt_tokAt : (s.advance).flt.tokAt = s.flt.tokAt := by simp [State.advance]
@[simp] theorem State.advance_flt_slots : (s.advance).flt.slots = s.flt.slots := by simp [State.advance]
@[simp] theorem State.advance_flt_crit : (s.advance).flt.crit = s.flt.crit := by simp [State.advance]
@[simp] theorem State.advance_flt_logWait : (s.advance).flt.logWait = s.flt.logWait := by simp [State.advance]
@[simp] theorem State.advance_flt_snapAt : (s.advance).flt.snapAt = s.flt.snapAt := by simp [State.advance]
@[simp] theorem State.advance_flt_snapPer : (s.advance).flt.snapPer = s.flt.snapPer := by simp [State.advance]
@[simp] theorem State.advance_flt_snapNext : (s.advance).flt.snapNext = s.flt.snapNext := by simp [State.advance]
@[simp] theorem State.advance_flt_suspect : (s.advance).flt.suspect = s.flt.suspect := by simp [State.advance]
@[simp] theorem State.advance_flt_momentary : (s.advance).flt.momentary = s.flt.momentary := by simp [State.advance]

@[simp] theorem State.setFlags_core_regs (f : DWord) : (s.setFlags f).core.regs = s.core.regs := rfl
@[simp] theorem State.setFlags_core_pc (f : DWord) : (s.setFlags f).core.pc = s.core.pc := rfl
@[simp] theorem State.setFlags_core_pmem (f : DWord) : (s.setFlags f).core.pmem = s.core.pmem := rfl
@[simp] theorem State.setFlags_core_dmem (f : DWord) : (s.setFlags f).core.dmem = s.core.dmem := rfl
@[simp] theorem State.setFlags_core_eccBad (f : DWord) : (s.setFlags f).core.eccBad = s.core.eccBad := rfl
@[simp] theorem State.setFlags_core_stall (f : DWord) : (s.setFlags f).core.stall = s.core.stall := rfl
@[simp] theorem State.setFlags_core_csrOut (f : DWord) : (s.setFlags f).core.csrOut = s.core.csrOut := rfl
@[simp] theorem State.setFlags_core_csrSince (f : DWord) : (s.setFlags f).core.csrSince = s.core.csrSince := rfl
@[simp] theorem State.setFlags_core_stores (f : DWord) : (s.setFlags f).core.stores = s.core.stores := rfl
@[simp] theorem State.setFlags_core_tacts (f : DWord) : (s.setFlags f).core.tacts = s.core.tacts := rfl
@[simp] theorem State.setFlags_core_ckpt (f : DWord) : (s.setFlags f).core.ckpt = s.core.ckpt := rfl
@[simp] theorem State.setFlags_core_journal (f : DWord) : (s.setFlags f).core.journal = s.core.journal := rfl
@[simp] theorem State.setFlags_core_jover (f : DWord) : (s.setFlags f).core.jover = s.core.jover := rfl
@[simp] theorem State.setFlags_core_replay (f : DWord) : (s.setFlags f).core.replay = s.core.replay := rfl

@[simp] theorem State.setPc_core_regs (a : BitVec 18) : (s.setPc a).core.regs = s.core.regs := rfl
@[simp] theorem State.setPc_core_flags (a : BitVec 18) : (s.setPc a).core.flags = s.core.flags := rfl
@[simp] theorem State.setPc_core_pmem (a : BitVec 18) : (s.setPc a).core.pmem = s.core.pmem := rfl
@[simp] theorem State.setPc_core_dmem (a : BitVec 18) : (s.setPc a).core.dmem = s.core.dmem := rfl
@[simp] theorem State.setPc_core_eccBad (a : BitVec 18) : (s.setPc a).core.eccBad = s.core.eccBad := rfl
@[simp] theorem State.setPc_core_stall (a : BitVec 18) : (s.setPc a).core.stall = s.core.stall := rfl
@[simp] theorem State.setPc_core_csrOut (a : BitVec 18) : (s.setPc a).core.csrOut = s.core.csrOut := rfl
@[simp] theorem State.setPc_core_csrSince (a : BitVec 18) : (s.setPc a).core.csrSince = s.core.csrSince := rfl
@[simp] theorem State.setPc_core_stores (a : BitVec 18) : (s.setPc a).core.stores = s.core.stores := rfl
@[simp] theorem State.setPc_core_tacts (a : BitVec 18) : (s.setPc a).core.tacts = s.core.tacts := rfl
@[simp] theorem State.setPc_core_ckpt (a : BitVec 18) : (s.setPc a).core.ckpt = s.core.ckpt := rfl
@[simp] theorem State.setPc_core_journal (a : BitVec 18) : (s.setPc a).core.journal = s.core.journal := rfl
@[simp] theorem State.setPc_core_jover (a : BitVec 18) : (s.setPc a).core.jover = s.core.jover := rfl
@[simp] theorem State.setPc_core_replay (a : BitVec 18) : (s.setPc a).core.replay = s.core.replay := rfl

@[simp] theorem State.setStall_core_regs (x : Stall) : (s.setStall x).core.regs = s.core.regs := rfl
@[simp] theorem State.setStall_core_pc (x : Stall) : (s.setStall x).core.pc = s.core.pc := rfl
@[simp] theorem State.setStall_core_flags (x : Stall) : (s.setStall x).core.flags = s.core.flags := rfl
@[simp] theorem State.setStall_core_pmem (x : Stall) : (s.setStall x).core.pmem = s.core.pmem := rfl
@[simp] theorem State.setStall_core_dmem (x : Stall) : (s.setStall x).core.dmem = s.core.dmem := rfl
@[simp] theorem State.setStall_core_eccBad (x : Stall) : (s.setStall x).core.eccBad = s.core.eccBad := rfl
@[simp] theorem State.setStall_core_csrOut (x : Stall) : (s.setStall x).core.csrOut = s.core.csrOut := rfl
@[simp] theorem State.setStall_core_csrSince (x : Stall) : (s.setStall x).core.csrSince = s.core.csrSince := rfl
@[simp] theorem State.setStall_core_stores (x : Stall) : (s.setStall x).core.stores = s.core.stores := rfl
@[simp] theorem State.setStall_core_tacts (x : Stall) : (s.setStall x).core.tacts = s.core.tacts := rfl
@[simp] theorem State.setStall_core_ckpt (x : Stall) : (s.setStall x).core.ckpt = s.core.ckpt := rfl
@[simp] theorem State.setStall_core_journal (x : Stall) : (s.setStall x).core.journal = s.core.journal := rfl
@[simp] theorem State.setStall_core_jover (x : Stall) : (s.setStall x).core.jover = s.core.jover := rfl
@[simp] theorem State.setStall_core_replay (x : Stall) : (s.setStall x).core.replay = s.core.replay := rfl

@[simp] theorem State.retireTo_core_regs (a : BitVec 18) : (s.retireTo a).core.regs = s.core.regs := rfl
@[simp] theorem State.retireTo_core_flags (a : BitVec 18) : (s.retireTo a).core.flags = s.core.flags := rfl
@[simp] theorem State.retireTo_core_pmem (a : BitVec 18) : (s.retireTo a).core.pmem = s.core.pmem := rfl
@[simp] theorem State.retireTo_core_dmem (a : BitVec 18) : (s.retireTo a).core.dmem = s.core.dmem := rfl
@[simp] theorem State.retireTo_core_eccBad (a : BitVec 18) : (s.retireTo a).core.eccBad = s.core.eccBad := rfl
@[simp] theorem State.retireTo_core_stall (a : BitVec 18) : (s.retireTo a).core.stall = s.core.stall := rfl
@[simp] theorem State.retireTo_core_csrOut (a : BitVec 18) : (s.retireTo a).core.csrOut = s.core.csrOut := rfl
@[simp] theorem State.retireTo_core_csrSince (a : BitVec 18) : (s.retireTo a).core.csrSince = s.core.csrSince := rfl
@[simp] theorem State.retireTo_core_stores (a : BitVec 18) : (s.retireTo a).core.stores = s.core.stores := rfl
@[simp] theorem State.retireTo_core_tacts (a : BitVec 18) : (s.retireTo a).core.tacts = s.core.tacts := rfl
@[simp] theorem State.retireTo_core_ckpt (a : BitVec 18) : (s.retireTo a).core.ckpt = s.core.ckpt := rfl
@[simp] theorem State.retireTo_core_journal (a : BitVec 18) : (s.retireTo a).core.journal = s.core.journal := rfl
@[simp] theorem State.retireTo_core_jover (a : BitVec 18) : (s.retireTo a).core.jover = s.core.jover := rfl
@[simp] theorem State.retireTo_core_replay (a : BitVec 18) : (s.retireTo a).core.replay = s.core.replay := rfl

@[simp] theorem State.advance_core_regs : (s.advance).core.regs = s.core.regs := by simp [State.advance]
@[simp] theorem State.advance_core_flags : (s.advance).core.flags = s.core.flags := by simp [State.advance]
@[simp] theorem State.advance_core_pmem : (s.advance).core.pmem = s.core.pmem := by simp [State.advance]
@[simp] theorem State.advance_core_dmem : (s.advance).core.dmem = s.core.dmem := by simp [State.advance]
@[simp] theorem State.advance_core_eccBad : (s.advance).core.eccBad = s.core.eccBad := by simp [State.advance]
@[simp] theorem State.advance_core_stall : (s.advance).core.stall = s.core.stall := by simp [State.advance]
@[simp] theorem State.advance_core_csrOut : (s.advance).core.csrOut = s.core.csrOut := by simp [State.advance]
@[simp] theorem State.advance_core_csrSince : (s.advance).core.csrSince = s.core.csrSince := by simp [State.advance]
@[simp] theorem State.advance_core_stores : (s.advance).core.stores = s.core.stores := by simp [State.advance]
@[simp] theorem State.advance_core_tacts : (s.advance).core.tacts = s.core.tacts := by simp [State.advance]
@[simp] theorem State.advance_core_ckpt : (s.advance).core.ckpt = s.core.ckpt := by simp [State.advance]
@[simp] theorem State.advance_core_journal : (s.advance).core.journal = s.core.journal := by simp [State.advance]
@[simp] theorem State.advance_core_jover : (s.advance).core.jover = s.core.jover := by simp [State.advance]
@[simp] theorem State.advance_core_replay : (s.advance).core.replay = s.core.replay := by simp [State.advance]

@[simp] theorem State.setFlags_core_flags (f : DWord) : (s.setFlags f).core.flags = f := rfl
@[simp] theorem State.setPc_core_pc (a : BitVec 18) : (s.setPc a).core.pc = a := rfl
@[simp] theorem State.setStall_core_stall (x : Stall) : (s.setStall x).core.stall = x := rfl
@[simp] theorem State.retireTo_core_pc (a : BitVec 18) : (s.retireTo a).core.pc = a := rfl
@[simp] theorem State.advance_core_pc : s.advance.core.pc = s.core.pc + 4 := by simp [State.advance]
@[simp] theorem State.elapse_time (dt : Nat) : (s.elapse dt).time = s.time + dt := by obtain ⟨_, _, _, _, _, _, _, _, e⟩ := s.elapse_lit dt; rw [e]
@[simp] theorem State.elapse_up (dt : Nat) : (s.elapse dt).up = s.up + dt := by obtain ⟨_, _, _, _, _, _, _, _, e⟩ := s.elapse_lit dt; rw [e]

/-! A write of w0 is discarded. -/

@[simp] theorem State.setW_time (d : Fin 16) (v : DWord) : (s.setW d v).time = s.time := by unfold State.setW; split <;> rfl
@[simp] theorem State.setW_up (d : Fin 16) (v : DWord) : (s.setW d v).up = s.up := by unfold State.setW; split <;> rfl
@[simp] theorem State.setW_fresh (d : Fin 16) (v : DWord) : (s.setW d v).fresh = s.fresh := by unfold State.setW; split <;> rfl
@[simp] theorem State.setW_mode (d : Fin 16) (v : DWord) : (s.setW d v).mode = s.mode := by unfold State.setW; split <;> rfl
@[simp] theorem State.setW_csr (d : Fin 16) (v : DWord) : (s.setW d v).csr = s.csr := by unfold State.setW; split <;> rfl
@[simp] theorem State.setW_latch (d : Fin 16) (v : DWord) : (s.setW d v).latch = s.latch := by unfold State.setW; split <;> rfl
@[simp] theorem State.setW_heldLo (d : Fin 16) (v : DWord) : (s.setW d v).heldLo = s.heldLo := by unfold State.setW; split <;> rfl
@[simp] theorem State.setW_raised (d : Fin 16) (v : DWord) : (s.setW d v).raised = s.raised := by unfold State.setW; split <;> rfl
@[simp] theorem State.setW_prevRes (d : Fin 16) (v : DWord) : (s.setW d v).prevRes = s.prevRes := by unfold State.setW; split <;> rfl
@[simp] theorem State.setW_eras (d : Fin 16) (v : DWord) : (s.setW d v).eras = s.eras := by unfold State.setW; split <;> rfl
@[simp] theorem State.setW_mem (d : Fin 16) (v : DWord) : (s.setW d v).mem = s.mem := by unfold State.setW; split <;> rfl
@[simp] theorem State.setW_poison (d : Fin 16) (v : DWord) : (s.setW d v).poison = s.poison := by unfold State.setW; split <;> rfl
@[simp] theorem State.setW_gate (d : Fin 16) (v : DWord) : (s.setW d v).gate = s.gate := by unfold State.setW; split <;> rfl
@[simp] theorem State.setW_que (d : Fin 16) (v : DWord) : (s.setW d v).que = s.que := by unfold State.setW; split <;> rfl
@[simp] theorem State.setW_flt (d : Fin 16) (v : DWord) : (s.setW d v).flt = s.flt := by unfold State.setW; split <;> rfl
@[simp] theorem State.setW_sec (d : Fin 16) (v : DWord) : (s.setW d v).sec = s.sec := by unfold State.setW; split <;> rfl
@[simp] theorem State.setW_pwr (d : Fin 16) (v : DWord) : (s.setW d v).pwr = s.pwr := by unfold State.setW; split <;> rfl
@[simp] theorem State.setW_dbg (d : Fin 16) (v : DWord) : (s.setW d v).dbg = s.dbg := by unfold State.setW; split <;> rfl
@[simp] theorem State.setW_pin (d : Fin 16) (v : DWord) : (s.setW d v).pin = s.pin := by unfold State.setW; split <;> rfl
@[simp] theorem State.setW_lch (d : Fin 16) (v : DWord) : (s.setW d v).lch = s.lch := by unfold State.setW; split <;> rfl
@[simp] theorem State.setW_rcv (d : Fin 16) (v : DWord) : (s.setW d v).rcv = s.rcv := by unfold State.setW; split <;> rfl
@[simp] theorem State.setW_phs (d : Fin 16) (v : DWord) : (s.setW d v).phs = s.phs := by unfold State.setW; split <;> rfl
@[simp] theorem State.setW_dts (d : Fin 16) (v : DWord) : (s.setW d v).dts = s.dts := by unfold State.setW; split <;> rfl
@[simp] theorem State.setW_str (d : Fin 16) (v : DWord) : (s.setW d v).str = s.str := by unfold State.setW; split <;> rfl
@[simp] theorem State.setW_vec (d : Fin 16) (v : DWord) : (s.setW d v).vec = s.vec := by unfold State.setW; split <;> rfl
@[simp] theorem State.setW_fel (d : Fin 16) (v : DWord) : (s.setW d v).fel = s.fel := by unfold State.setW; split <;> rfl
@[simp] theorem State.setW_trg (d : Fin 16) (v : DWord) : (s.setW d v).trg = s.trg := by unfold State.setW; split <;> rfl
@[simp] theorem State.setW_evb (d : Fin 16) (v : DWord) : (s.setW d v).evb = s.evb := by unfold State.setW; split <;> rfl
@[simp] theorem State.setW_tim (d : Fin 16) (v : DWord) : (s.setW d v).tim = s.tim := by unfold State.setW; split <;> rfl
@[simp] theorem State.setW_fab (d : Fin 16) (v : DWord) : (s.setW d v).fab = s.fab := by unfold State.setW; split <;> rfl
@[simp] theorem State.setW_dram (d : Fin 16) (v : DWord) : (s.setW d v).dram = s.dram := by unfold State.setW; split <;> rfl
@[simp] theorem State.setW_cmp (d : Fin 16) (v : DWord) : (s.setW d v).cmp = s.cmp := by unfold State.setW; split <;> rfl
@[simp] theorem State.setW_clk (d : Fin 16) (v : DWord) : (s.setW d v).clk = s.clk := by unfold State.setW; split <;> rfl
@[simp] theorem State.setW_hkc (d : Fin 16) (v : DWord) : (s.setW d v).hkc = s.hkc := by unfold State.setW; split <;> rfl
@[simp] theorem State.setW_fls (d : Fin 16) (v : DWord) : (s.setW d v).fls = s.fls := by unfold State.setW; split <;> rfl
@[simp] theorem State.setW_pending (d : Fin 16) (v : DWord) : (s.setW d v).pending = s.pending := by unfold State.setW; split <;> rfl
@[simp] theorem State.setW_core_pc (d : Fin 16) (v : DWord) : (s.setW d v).core.pc = s.core.pc := by unfold State.setW; split <;> rfl
@[simp] theorem State.setW_core_flags (d : Fin 16) (v : DWord) : (s.setW d v).core.flags = s.core.flags := by unfold State.setW; split <;> rfl
@[simp] theorem State.setW_core_pmem (d : Fin 16) (v : DWord) : (s.setW d v).core.pmem = s.core.pmem := by unfold State.setW; split <;> rfl
@[simp] theorem State.setW_core_dmem (d : Fin 16) (v : DWord) : (s.setW d v).core.dmem = s.core.dmem := by unfold State.setW; split <;> rfl
@[simp] theorem State.setW_core_eccBad (d : Fin 16) (v : DWord) : (s.setW d v).core.eccBad = s.core.eccBad := by unfold State.setW; split <;> rfl
@[simp] theorem State.setW_core_stall (d : Fin 16) (v : DWord) : (s.setW d v).core.stall = s.core.stall := by unfold State.setW; split <;> rfl
@[simp] theorem State.setW_core_csrOut (d : Fin 16) (v : DWord) : (s.setW d v).core.csrOut = s.core.csrOut := by unfold State.setW; split <;> rfl
@[simp] theorem State.setW_core_csrSince (d : Fin 16) (v : DWord) : (s.setW d v).core.csrSince = s.core.csrSince := by unfold State.setW; split <;> rfl
@[simp] theorem State.setW_core_stores (d : Fin 16) (v : DWord) : (s.setW d v).core.stores = s.core.stores := by unfold State.setW; split <;> rfl
@[simp] theorem State.setW_core_tacts (d : Fin 16) (v : DWord) : (s.setW d v).core.tacts = s.core.tacts := by unfold State.setW; split <;> rfl
@[simp] theorem State.setW_core_ckpt (d : Fin 16) (v : DWord) : (s.setW d v).core.ckpt = s.core.ckpt := by unfold State.setW; split <;> rfl
@[simp] theorem State.setW_core_journal (d : Fin 16) (v : DWord) : (s.setW d v).core.journal = s.core.journal := by unfold State.setW; split <;> rfl
@[simp] theorem State.setW_core_jover (d : Fin 16) (v : DWord) : (s.setW d v).core.jover = s.core.jover := by unfold State.setW; split <;> rfl
@[simp] theorem State.setW_core_replay (d : Fin 16) (v : DWord) : (s.setW d v).core.replay = s.core.replay := by unfold State.setW; split <;> rfl

@[simp] theorem State.setW_zero (v : DWord) : s.setW 0 v = s := if_pos rfl

end Sys2Proof.Machine
end

