-- ==== Sys2Proof/Laws/Csr.lean ====
section
/-! SUPPORT. The laws of register fields and of the register file: a read after a write, other registers and other bits, and the access codes. -/

namespace Sys2Proof.Machine

open Csr

/-! Fields of a number. -/

/-- Bit `i` of a number with a field replaced: the field's bit inside it, the old bit outside. -/
theorem nset_testBit {hi lo : Nat} (n v i : Nat) (h : lo ≤ hi + 1) :
    (nset n hi lo v).testBit i = if lo ≤ i ∧ i ≤ hi then v.testBit (i - lo) else n.testBit i := by
  have e : nset n hi lo v = 2 ^ (hi + 1) * (n / 2 ^ (hi + 1)) + (2 ^ lo * (v % 2 ^ (hi + 1 - lo)) + n % 2 ^ lo) := by
    simp only [nset, Nat.shiftLeft_eq, Nat.shiftRight_eq_div_pow]
    rw [Nat.mul_comm (n / _), Nat.mul_comm (v % _)]; omega
  have hlo : n % 2 ^ lo < 2 ^ lo := Nat.mod_lt _ (Nat.two_pow_pos _)
  have hv : v % 2 ^ (hi + 1 - lo) < 2 ^ (hi + 1 - lo) := Nat.mod_lt _ (Nat.two_pow_pos _)
  have hin : 2 ^ lo * (v % 2 ^ (hi + 1 - lo)) + n % 2 ^ lo < 2 ^ (hi + 1) := by
    have : 2 ^ lo * (v % 2 ^ (hi + 1 - lo)) + 2 ^ lo ≤ 2 ^ lo * 2 ^ (hi + 1 - lo) := by
      rw [← Nat.mul_succ]; exact Nat.mul_le_mul_left _ hv
    rw [← Nat.pow_add, Nat.add_sub_cancel' h] at this
    omega
  rw [e, Nat.testBit_two_pow_mul_add _ hin, Nat.testBit_two_pow_mul_add _ hlo]
  by_cases h1 : i < hi + 1
  · rw [if_pos h1]
    by_cases h2 : i < lo
    · rw [if_pos h2, if_neg (by omega), Nat.testBit_mod_two_pow]; simp [h2]
    · rw [if_neg h2, if_pos (by omega), Nat.testBit_mod_two_pow]; simp; omega
  · rw [if_neg h1, if_neg (by omega), Nat.testBit_div_two_pow]
    congr 1; omega

theorem setFld_bit {hi lo : Nat} (w : Word) (v i : Nat) (h : lo ≤ hi + 1) (hi32 : hi < 32) :
    bit (setFld w hi lo v) i = if lo ≤ i ∧ i ≤ hi then v.testBit (i - lo) else bit w i := by
  simp only [bit, setFld, BitVec.toNat_ofNat, Nat.testBit_mod_two_pow, nset_testBit _ _ _ h]
  by_cases hb : i < 32
  · simp [hb]
  · have : w.toNat.testBit i = false := Nat.testBit_lt_two_pow (Nat.lt_of_lt_of_le w.isLt (Nat.pow_le_pow_right (by omega) (by omega)))
    simp only [hb, decide_false, Bool.false_and, this]
    split
    · omega
    · rfl

/-! The register file. -/

variable {s : State}

theorem State.csrRaw_setCsr_ne {a b : Nat} (v : Word) (h : b ≠ a) : (s.setCsr a v).csrRaw b = s.csrRaw b := by
  simp only [State.csrRaw, State.setCsr]
  rw [spGet_spPut_ne _ _ h]

/-- A register of the map reads as it was last written by the hardware. -/
theorem State.csrRaw_setCsr_self (hs : spSorted s.csr = true) {a : Nat} (h : (regAt a).isSome = true) (v : Word) :
    (s.setCsr a v).csrRaw a = v := by
  simp only [State.csrRaw, State.setCsr]
  rw [spGet_spPut_self hs]
  by_cases hl : csrListed a v = true
  · rw [if_pos hl]; rfl
  · rw [if_neg hl]
    simp only [csrListed, csrReset] at hl ⊢
    cases hr : regAt a with
    | none => rw [hr] at h; cases h
    | some r =>
      rw [hr] at hl
      simp only [Bool.or_eq_true, bne_iff_ne, ne_eq, not_or, Decidable.not_not] at hl
      simp [hl.1, hl.2, facBits]

theorem State.setCsr_sorted (hs : spSorted s.csr = true) (a : Nat) (v : Word) : spSorted (s.setCsr a v).csr = true := spPut_sorted hs _ _

theorem State.f_setCsr_ne {a b hi lo : Nat} (v : Word) (h : b ≠ a) : (s.setCsr a v).f b hi lo = s.f b hi lo := by
  simp only [State.f, State.csrRaw_setCsr_ne v h]

theorem State.b_setCsr_ne {a b i : Nat} (v : Word) (h : b ≠ a) : (s.setCsr a v).b b i = s.b b i := by
  simp only [State.b, State.csrRaw_setCsr_ne v h]

/-- A noted W1C bit leaves the register file. -/
@[simp] theorem State.csrRaw_noteRaised (a i b : Nat) : (s.noteRaised a i).csrRaw b = s.csrRaw b := by
  simp only [State.noteRaised]; split <;> rfl

theorem State.csrRaw_setB_ne {a b k : Nat} (v : Bool) (h : b ≠ a) : (s.setB a k v).csrRaw b = s.csrRaw b := by
  have e : (s.setF a k k (b2n v)).csrRaw b = s.csrRaw b := State.csrRaw_setCsr_ne _ h
  cases v <;> simp [State.setB, cond, e]

theorem State.csrRaw_setF_ne {a b hi lo : Nat} (v : Nat) (h : b ≠ a) : (s.setF a hi lo v).csrRaw b = s.csrRaw b := State.csrRaw_setCsr_ne _ h

/-- Bit `i` of a register after one of its bits is set. -/
theorem State.b_setB_self (hs : spSorted s.csr = true) {a : Nat} (h : (regAt a).isSome = true) (k i : Nat) (v : Bool) (hk : k < 32) :
    (s.setB a k v).b a i = if i = k then v else s.b a i := by
  have e0 : (s.setB a k v).csrRaw a = (s.setF a k k (b2n v)).csrRaw a := by cases v <;> simp [State.setB, cond, State.csrRaw_noteRaised]
  simp only [State.b, e0, State.setF]
  rw [State.csrRaw_setCsr_self hs h, setFld_bit _ _ _ (by omega) hk]
  by_cases e : i = k
  · subst e; cases v <;> simp [b2n]
  · rw [if_neg (by omega), if_neg e]

theorem State.b_setB_ne {a b i k : Nat} (v : Bool) (h : b ≠ a) : (s.setB a k v).b b i = s.b b i := by
  simp only [State.b, State.csrRaw_setB_ne v h]

/-! Updates that leave the register file leave every register. -/

theorem State.csrRaw_congr {t : State} (h : t.csr = s.csr) (a : Nat) : t.csrRaw a = s.csrRaw a := by simp only [State.csrRaw, h]

@[simp] theorem State.csrRaw_bump (src n a : Nat) : (s.bump src n).csrRaw a = s.csrRaw a := rfl

/-- A map commit that completes writes the STR window only. -/
theorem State.csrRaw_mapCommit (m : Fin 16) (t : Nat) {a : Nat} (h : a / 0x10000 ≠ 7) : (s.mapCommit m t).csrRaw a = s.csrRaw a := by
  have h1 : a ≠ STR_MAPCNT m := fun e => h (by rw [e]; show (0x70060 + 4 * m.val) / 0x10000 = 7; omega)
  have h2 : a ≠ STR_MAPVALID := fun e => h (by rw [e]; rfl)
  have h3 : a ≠ STR_STAT := fun e => h (by rw [e]; rfl)
  unfold State.mapCommit
  extract_lets es l s1
  split
  · rw [State.csrRaw_setF_ne _ h1, State.csrRaw_setB_ne _ h2]; rfl
  · rw [State.csrRaw_setB_ne _ h3]; rfl

/-- The passing of time is a change that leaves the register file and STR, and then the completion of a map commit. -/
theorem State.elapse_settles (s : State) (dt : Nat) : ∃ u : State, s.elapse dt = u.mapSettle ∧ u.csr = s.csr ∧ u.str = s.str := by
  unfold State.elapse
  exact ⟨_, rfl, by simp, by simp⟩

/-- Time leaves every register outside the STR window, where a map commit may complete. -/
theorem State.csrRaw_elapse (dt : Nat) {a : Nat} (h : a / 0x10000 ≠ 7) : (s.elapse dt).csrRaw a = s.csrRaw a := by
  obtain ⟨u, e, hc, -⟩ := s.elapse_settles dt
  rw [e, State.mapSettle]
  split
  · split
    · rw [State.csrRaw_mapCommit _ _ h]; exact State.csrRaw_congr hc a
    · exact State.csrRaw_congr hc a
  · exact State.csrRaw_congr hc a

/-- With no map commit in progress time leaves every register. -/
theorem State.csr_elapse (h : s.str.commit = none) (dt : Nat) : (s.elapse dt).csr = s.csr := by
  obtain ⟨_, _, _, _, e⟩ := s.elapse_quiet h dt; rw [e]

@[simp] theorem State.csrRaw_setStall (x : Stall) (a : Nat) : (s.setStall x).csrRaw a = s.csrRaw a := rfl

@[simp] theorem State.csrRaw_setPc (x : BitVec 18) (a : Nat) : (s.setPc x).csrRaw a = s.csrRaw a := rfl

@[simp] theorem State.csrRaw_advance (a : Nat) : s.advance.csrRaw a = s.csrRaw a := State.csrRaw_congr (by simp) a

/-! Access codes (R9, R10). -/

/-- The bits that a write may change: RW, RWS while the unit is stopped, RWL for the lease holder. -/
def Reg.writable (r : Reg) (stopped lease : Bool) : Word := BitVec.ofNat 32 (r.rw ||| (if stopped then r.rws else 0) ||| (if lease then r.rwl else 0))

/-- Bit `i` of a register after a write: a field that may be written takes the written bit, a W1C bit clears where 1 is written unless it is
one of `keep`, every other bit stays. -/
theorem Reg.merge_bit (r : Reg) (old v : Word) (stopped lease : Bool) (keep : Word) (i : Nat) (hi : i < 32) :
    (r.merge old v stopped lease keep).getLsbD i =
      if (r.writable stopped lease).getLsbD i then v.getLsbD i
      else if (BitVec.ofNat 32 r.w1c).getLsbD i && v.getLsbD i && !keep.getLsbD i then false else old.getLsbD i := by
  show ((old &&& ~~~(r.writable stopped lease ||| (v &&& BitVec.ofNat 32 r.w1c &&& ~~~keep))) ||| (v &&& r.writable stopped lease)).getLsbD i = _
  generalize r.writable stopped lease = m
  generalize BitVec.ofNat 32 r.w1c = w
  simp only [BitVec.getLsbD_or, BitVec.getLsbD_and, BitVec.getLsbD_not, hi, decide_true, Bool.true_and]
  cases m.getLsbD i <;> cases v.getLsbD i <;> cases w.getLsbD i <;> cases keep.getLsbD i <;> cases old.getLsbD i <;> rfl

end Sys2Proof.Machine
end

