-- ==== Sys2Proof/Laws/Clocked.lean ====
section
/-! SUPPORT. When a command reaches the part of the module it acts on: one lemma per form of Machine/Clocked.lean. -/

namespace Sys2Proof.Machine

variable {s : State}

theorem State.f_elapse (dt : Nat) {a : Nat} (h : a / 0x10000 ≠ 7) (hi lo : Nat) : (s.elapse dt).f a hi lo = s.f a hi lo := by
  simp only [State.f, State.csrRaw_elapse dt h]

theorem State.b_elapse (dt : Nat) {a : Nat} (h : a / 0x10000 ≠ 7) (i : Nat) : (s.elapse dt).b a i = s.b a i := by
  simp only [State.b, State.csrRaw_elapse dt h]

@[simp] theorem State.awake_elapse (dt : Nat) : (s.elapse dt).awake = s.awake := by
  simp [State.awake, State.safeOnly, State.f_elapse dt (a := Csr.FLT_SUMMARY) (by decide)]

@[simp] theorem State.safeOnly_elapse (dt : Nat) : (s.elapse dt).safeOnly = s.safeOnly := by
  simp [State.safeOnly, State.f_elapse dt (a := Csr.FLT_SUMMARY) (by decide)]

@[simp] theorem State.held_elapse (dt : Nat) : (s.elapse dt).pwr.held = s.pwr.held := by simp

@[simp] theorem State.islandIdle_elapse (dt i : Nat) : (s.elapse dt).islandIdle i = s.islandIdle i := by
  simp [State.islandIdle, State.onSafe, State.gateOff, State.b_elapse dt (a := Csr.CLK_STAT) (by decide)]

/-- A command answers its effect on everything but the queue of waiting commands. -/
theorem State.done_eq (t : State) : s.done t = .next { t with pending := s.pending } := rfl

/-- The main islands are awake: the time passes and the effect follows. -/
theorem State.main_awake (h : s.awake = true) (dt : Nat) (f : State → State) : s.main dt f = f (s.elapse dt) := by
  simp [State.main, h]

/-- Before release, asleep or emerging: only the time passes. -/
theorem State.main_asleep (h : s.awake = false) (dt : Nat) (f : State → State) : s.main dt f = s.elapse dt := by
  simp [State.main, h]

/-- The island is clocked. -/
theorem State.isl_clocked (h : s.awake = true) {i : Nat} (hi : s.islandIdle i = false) (dt : Nat) (f : State → State) :
    s.isl i dt f = f (s.elapse dt) := by
  simp [State.isl, State.main, h, hi]

/-- The island is on the SAFE clock, or stopped: only the time passes (Table CLK-2). -/
theorem State.isl_stopped {i : Nat} (hi : s.islandIdle i = true) (dt : Nat) (f : State → State) : s.isl i dt f = s.elapse dt := by
  simp only [State.isl, State.main]
  split <;> simp [hi]

theorem State.run_free (h : s.pwr.held = false) (dt : Nat) (f : State → State) : s.run dt f = f (s.elapse dt) := by simp [State.run, h]

theorem State.run_held (h : s.pwr.held = true) (dt : Nat) (f : State → State) : s.run dt f = s.elapse dt := by simp [State.run, h]

/-- The clock tree runs. -/
theorem State.clocks_run (h : s.pwr.held = false) (hs : s.safeOnly = false) (dt : Nat) (f : State → State) : s.clocks dt f = f (s.elapse dt) := by
  simp [State.clocks, h, hs]

/-- Held in reset, or in the HOLD of a clock fault, the clock tree only lets time pass. -/
theorem State.clocks_stopped (h : s.pwr.held = true ∨ s.safeOnly = true) (dt : Nat) (f : State → State) : s.clocks dt f = s.elapse dt := by
  simp [State.clocks, h]

theorem State.lit_awake (h : s.awake = true) (f : State → State) : s.lit f = f s := by simp [State.lit, h]

theorem State.out_free (h : s.pwr.held = false) (f : State → State) : s.out f = f s := by simp [State.out, h]

/-- A write that reaches its register. -/
theorem State.wr_reach {who a : Nat} (h : s.reaches who a = true) (v : Word) : s.wr who a v = s.writeCsr who (who == 0) a v := by
  simp [State.wr, h]

/-- A read that reaches its register. -/
theorem State.rd_reach {who a : Nat} (h : s.reaches who a = true) (f : State → State) : s.rd who a f = f s := by simp [State.rd, h]

/-- The cores reach every register while the main islands are awake. -/
theorem State.reaches_cores (h : s.awake = true) (a : Nat) : s.reaches 0 a = true := by simp [State.reaches, h]

/-! The same of the outcome of a command: cite one of these for each constructor; `e` is `rfl`, the effect at the state it acts on. -/

theorem State.done_main (h : s.awake = true) {dt : Nat} {f : State → State} {t : State} (e : f (s.elapse dt) = t) :
    s.done (s.main dt f) = .next { t with pending := s.pending } := by rw [State.main_awake h, e]; rfl

theorem State.done_isl (h : s.awake = true) {i : Nat} (hi : s.islandIdle i = false) {dt : Nat} {f : State → State} {t : State}
    (e : f (s.elapse dt) = t) : s.done (s.isl i dt f) = .next { t with pending := s.pending } := by rw [State.isl_clocked h hi, e]; rfl

theorem State.done_run (h : s.pwr.held = false) {dt : Nat} {f : State → State} {t : State} (e : f (s.elapse dt) = t) :
    s.done (s.run dt f) = .next { t with pending := s.pending } := by rw [State.run_free h, e]; rfl

theorem State.done_clocks (h : s.pwr.held = false) (hs : s.safeOnly = false) {dt : Nat} {f : State → State} {t : State} (e : f (s.elapse dt) = t) :
    s.done (s.clocks dt f) = .next { t with pending := s.pending } := by rw [State.clocks_run h hs, e]; rfl

theorem State.done_laserEdge (h : s.pwr.held = false) {dt : Nat} {v : Bool} {f : State → State} {t : State} (e : f (s.elapse dt) = t) :
    s.done (s.laserEdge dt v f) = .next { t with pending := s.pending } := by simp only [State.laserEdge, State.held_elapse, h, e]; rfl

theorem State.done_lit (h : s.awake = true) {f : State → State} {t : State} (e : f s = t) :
    s.done (s.lit f) = .next { t with pending := s.pending } := by rw [State.lit_awake h, e]; rfl

theorem State.done_out (h : s.pwr.held = false) {f : State → State} {t : State} (e : f s = t) :
    s.done (s.out f) = .next { t with pending := s.pending } := by rw [State.out_free h, e]; rfl

theorem State.done_wr (h : s.awake = true) {a : Nat} {v : Word} {t : State} (e : s.writeCsr 0 true a v = t) :
    s.done (s.wr 0 a v) = .next { t with pending := s.pending } := by rw [State.wr_reach (State.reaches_cores h a), ← e]; rfl

theorem State.done_rd {who a : Nat} (h : s.reaches who a = true) {f : State → State} {t : State} (e : f s = t) :
    s.done (s.rd who a f) = .next { t with pending := s.pending } := by rw [State.rd_reach h, e]; rfl

/-- What only lets time pass. -/
theorem State.done_elapse (dt : Nat) : s.done (s.elapse dt) = .next (s.elapse dt) := by
  have h : (s.elapse dt).pending = s.pending := by simp
  simp only [State.done]; rw [← h]

end Sys2Proof.Machine
end

