-- ==== Sys2Proof/Laws/Issue.lean ====
section
/-! SUPPORT. Issue, the general registers, FLAGS and taking a trap: what each can do, once. -/

namespace Sys2Proof.Machine

open Csr

variable {s t : State} {f : State → IssueOut}

/-! Issue. -/

/-- The cores do not issue: nothing happens. -/
theorem State.issue_stopped (h : s.issues = false) : s.issue f = s := by simp [State.issue, h]

/-- An instruction that completes or stalls. -/
theorem State.issue_done {n : Nat} (h : s.issues = true) (e : s.eccAt 0 s.core.pc.toNat = false) (hf : f s = .done t n) :
    s.issue f = t.cycles n := by
  simp [State.issue, h, e, hf]

/-- An instruction that traps: nothing of its own happens. -/
theorem State.issue_trap {cause code tval : Nat} (h : s.issues = true) (e : s.eccAt 0 s.core.pc.toNat = false)
    (hf : f s = .trap cause code tval) : s.issue f = (s.trapRaise cause code tval).cycles 6 := by
  simp [State.issue, h, e, hf]

/-- A word of program SRAM that cannot be corrected traps whatever the instruction (Table SEQ-7). -/
theorem State.issue_ecc (h : s.issues = true) (e : s.eccAt 0 s.core.pc.toNat = true) :
    s.issue f = (s.trapRaise 5 0 s.core.pc.toNat).cycles 6 := by
  simp [State.issue, h, e]

/-- The same as the outcome of the command. -/
theorem State.done_issue {n : Nat} (h : s.issues = true) (e : s.eccAt 0 s.core.pc.toNat = false) (hf : f s = .done t n) :
    s.done (s.issue f) = .next { t.cycles n with pending := s.pending } := by
  simp only [State.done, State.issue_done h e hf]

/-- The same where the queue of waiting commands is as it was. -/
theorem State.done_issue_same {n : Nat} (h : s.issues = true) (e : s.eccAt 0 s.core.pc.toNat = false) (hf : f s = .done t n)
    (hp : t.pending = s.pending) : s.done (s.issue f) = .next (t.cycles n) := by
  have : (t.cycles n).pending = s.pending := by rw [State.cycles_pending, hp]
  rw [State.done_issue h e hf, ← this]

theorem State.done_trap {cause code tval : Nat} (h : s.issues = true) (e : s.eccAt 0 s.core.pc.toNat = false)
    (hf : f s = .trap cause code tval) : s.done (s.issue f) = .next { (s.trapRaise cause code tval).cycles 6 with pending := s.pending } := by
  simp only [State.done, State.issue_trap h e hf]

/-! The replay journal (R402). -/

/-- With no journal to replay an instruction runs live. -/
theorem State.meet_live {α β : Type} (h : s.core.replay = []) (g : JEntry → Option α) (live : State → β) (met : α → State → β) :
    s.meet g live met = live s := by
  simp [State.meet, State.jmeet, State.jdiverge, h]

/-- An instruction that the journal holds next is met, with what it recorded. -/
theorem State.meet_met {α β : Type} {x : JEntry} {l : List JEntry} {v : α} (h : s.core.replay = x :: l) {g : JEntry → Option α} (hg : g x = some v)
    (live : State → β) (met : α → State → β) : s.meet g live met = met v { s with core := { s.core with replay := l } } := by
  simp [State.meet, State.jmeet, h, hg]

/-- The cycles of an access take a free value from the state, used or not. -/
theorem State.accessCycles_eq (s : State) (a n : Nat) : (s.accessCycles a n).2 = { s with fresh := s.fresh + 1 } := rfl

/-! General registers. -/

@[simp] theorem State.wreg_zero : s.wreg 0 = 0 := rfl


theorem vget_vmod {α : Type} {n : Nat} (v : Vector α n) (i j : Nat) (f : α → α) (d : α) (hj : j < n) :
    vget (vmod v i f) j d = if j = i then f (vget v j d) else vget v j d := by
  simp only [vget, vmod, Vector.getElem?_mapIdx]
  rw [Vector.getElem?_eq_getElem hj]
  by_cases h : j = i <;> simp [h]

/-- A general register reads as written; the others, and w0, are unchanged. -/
theorem State.wreg_setW (d r : Fin 16) (v : DWord) : (s.setW d v).wreg r = if r = d ∧ d ≠ 0 then v else s.wreg r := by
  unfold State.setW State.wreg
  by_cases hd : d = 0
  · simp [hd]
  · rw [if_neg hd]
    by_cases hr : r = 0
    · have : ¬(r = d ∧ d ≠ 0) := fun h => h.2 (h.1 ▸ hr)
      simp only [hr, if_true]; rw [if_neg (by simpa [hr] using this)]
    · rw [if_neg hr, if_neg hr]
      have h1 : 0 < r.val := Nat.pos_of_ne_zero (fun h => hr (Fin.ext h))
      have h2 : 0 < d.val := Nat.pos_of_ne_zero (fun h => hd (Fin.ext h))
      simp only
      rw [vget_vmod _ _ _ _ _ (by omega)]
      by_cases e : r = d
      · simp [e, hd]
      · rw [if_neg (fun h => e (Fin.ext (by omega))), if_neg (fun h => e h.1)]

/-! FLAGS. -/

/-- A bit of FLAGS after one of its bits is replaced. -/
theorem setFlag_bit (w : DWord) (i j : Nat) (b : Bool) (hi : i < 64) (hj : j < 64) :
    (setFlag w i b).getLsbD j = if j = i then b else w.getLsbD j := by
  simp only [setFlag, BitVec.getLsbD, BitVec.toNat_ofNat, Nat.testBit_mod_two_pow, nset_testBit _ _ _ (Nat.le_succ i)]
  simp only [hj, decide_true, Bool.true_and]
  by_cases e : j = i
  · subst e; cases b <;> simp [b2n]
  · rw [if_neg (by omega), if_neg e]

/-- Z, N, C and V after an instruction that sets all four; the other bits stay. -/
theorem flagsCV_bit (w r : DWord) (c v : Bool) (j : Nat) (hj : j < 64) :
    (flagsCV (flagsZN w r) c v).getLsbD j =
      if j = 3 then v else if j = 2 then c else if j = 1 then r.msb else if j = 0 then r == 0 else w.getLsbD j := by
  unfold flagsCV flagsZN
  rw [setFlag_bit _ _ _ _ (by omega) hj, setFlag_bit _ _ _ _ (by omega) hj, setFlag_bit _ _ _ _ (by omega) hj, setFlag_bit _ _ _ _ (by omega) hj]

/-- Z and N after an instruction that sets these two. -/
theorem flagsZN_bit (w r : DWord) (j : Nat) (hj : j < 64) :
    (flagsZN w r).getLsbD j = if j = 1 then r.msb else if j = 0 then r == 0 else w.getLsbD j := by
  unfold flagsZN
  rw [setFlag_bit _ _ _ _ (by omega) hj, setFlag_bit _ _ _ _ (by omega) hj]

/-- FLAGS.E after an instruction that returns a status. -/
theorem flagsE_bit (w : DWord) (status j : Nat) (hj : j < 64) : (flagsE w status).getLsbD j = if j = 6 then status != 0 else w.getLsbD j :=
  setFlag_bit _ _ _ _ (by omega) hj

/-! Traps (R50). -/

/-- Outside a handler a trap touches the core's PC and stall and five registers only. -/
theorem State.trapRaise_outside (h : s.b SEQ_TSTAT 31 = false) (cause code tval : Nat) :
    s.trapRaise cause code tval =
      ((((((s.setStall .none).setCsr SEQ_EPC (BitVec.ofNat 32 (s.core.pc.toNat / 4 * 4))).setCsr SEQ_CAUSE
        (BitVec.ofNat 32 (code % 65536 * 65536 + cause % 256))).setPair SEQ_TVAL_LO (tval % 2 ^ 64)).setB SEQ_TSTAT 31 true).setPc
        (BitVec.ofNat 18 (s.f SEQ_TVEC 17 2 * 4))) := by
  simp [State.trapRaise, h]

/-- Inside a handler it stops the cores and the module enters HOLD. -/
theorem State.trapRaise_inside (h : s.b SEQ_TSTAT 31 = true) (cause code tval : Nat) :
    s.trapRaise cause code tval = ((s.setStall .none).setB SEQ_TSTAT 30 true).enterHold 2 := by
  simp [State.trapRaise, h]

end Sys2Proof.Machine
end

