-- ==== Sys2Proof/Laws/Host.lean ====
section
/-! SUPPORT. What becomes of a host command at the gate: served, refused, or sent to the mailbox. -/

namespace Sys2Proof.Machine

open Csr

variable {s : State}

@[simp] theorem State.qEn_elapse (dt n : Nat) : (s.elapse dt).qEn n = s.qEn n :=
  State.b_elapse dt (by show (0x160008 + 0x20 * n) / 0x10000 ≠ 7; omega) 31

@[simp] theorem State.gateBlocked_elapse (dt : Nat) : (s.elapse dt).gateBlocked = s.gateBlocked := by
  simp [State.gateBlocked, State.ansHeld]

/-- The judgement of R58 does not depend on the time or on the count of commands. -/
@[simp] theorem State.cmdJudge_count (dt code tag : Nat) : (s.elapse dt).cmdCount.cmdJudge code tag = s.cmdJudge code tag := by
  simp [State.cmdJudge, State.cmdAuth, State.cmdCount, State.incMod]

/-- A command that the program serves. -/
theorem State.hostCmd_served {dt tag code : Nat} {args : List Nat} (serve : State → State) (hb : s.gateBlocked = false) (hm : s.mode ≠ .cocoon)
    (hj : s.cmdJudge code tag = 0) (hq : s.qEn 125 = true) (hg : (s.elapse dt).cmdCount.gateServe code tag = none) :
    (s.elapse dt).hostCmd code tag args serve = serve ((s.elapse dt).cmdCount.gateHand { tag := tag, code := code, args := args }) := by
  have h1 : (s.elapse dt).mode ≠ .cocoon := by simpa using hm
  simp only [State.hostCmd, h1, if_false, State.gateBlocked_elapse, hb, State.cmdJudge_count, hj, hg, State.qEn_elapse, hq]
  simp

/-- A command that the gate serves itself. -/
theorem State.hostCmd_gate {dt tag code : Nat} {args : List Nat} {t : State} (serve : State → State) (hb : s.gateBlocked = false)
    (hm : s.mode ≠ .cocoon) (hj : s.cmdJudge code tag = 0) (hg : (s.elapse dt).cmdCount.gateServe code tag = some t) :
    (s.elapse dt).hostCmd code tag args serve = t := by
  have h1 : (s.elapse dt).mode ≠ .cocoon := by simpa using hm
  simp only [State.hostCmd, h1, if_false, State.gateBlocked_elapse, hb, State.cmdJudge_count, hj, hg]
  simp

/-- A command that the judgement refuses. -/
theorem State.hostCmd_refused {dt tag code : Nat} {args : List Nat} (serve : State → State) (hb : s.gateBlocked = false) (hm : s.mode ≠ .cocoon)
    (hj : s.cmdJudge code tag ≠ 0) :
    (s.elapse dt).hostCmd code tag args serve = (s.elapse dt).cmdCount.gateFail code tag (s.cmdJudge code tag) := by
  have h1 : (s.elapse dt).mode ≠ .cocoon := by simpa using hm
  simp only [State.hostCmd, h1, if_false, State.gateBlocked_elapse, hb, State.cmdJudge_count]
  simp [hj]

/-- A command in COCOON. -/
theorem State.hostCmd_asleep {dt tag code : Nat} {args : List Nat} (serve : State → State) (hm : s.mode = .cocoon) :
    (s.elapse dt).hostCmd code tag args serve = (s.elapse dt).mboxWrite (BitVec.ofNat 32 (code * 65536 + tag % 65536)) := by
  have h1 : (s.elapse dt).mode = .cocoon := by simpa using hm
  simp only [State.hostCmd, h1, if_true]

end Sys2Proof.Machine
end

