-- ==== Sys2Proof/Laws/Kept/Ops.lean ====
section
/-! SUPPORT. What every function of Machine/Ops.lean keeps (Laws/Keep.lean). -/

set_option linter.unusedTactic false
set_option linter.unreachableTactic false

namespace Sys2Proof.Machine

theorem State.putWords_keeps {z : State} (s : State) (a : Nat) (ws : List Nat) (h : Keeps z s) : Keeps z (s.putWords a ws) :=
  h.sameMem (fun w => ⟨Memory.writeWords_wf w.mem _ _, w.pmem, w.dmem, w.img⟩) rfl rfl

theorem State.setCsr_keeps {z : State} (s : State) (a : Nat) (v : Word) (h : Keeps z s) : Keeps z (s.setCsr a v) :=
  h.trans ⟨fun w => ⟨w.mem, w.pmem, w.dmem, w.img⟩, fun w => spPut_sorted w _ _, SecMono.refl _⟩

theorem State.setF_keeps {z : State} (s : State) (a : ℕ) (hi : ℕ) (lo : ℕ) (v : ℕ) (h : Keeps z s) : Keeps z (State.setF s a hi lo v) := by
  unfold State.setF
  repeat' first
    | with_reducible assumption | with_reducible apply State.setCsr_keeps

theorem State.noteRaised_keeps {z : State} (s : State) (a : ℕ) (i : ℕ) (h : Keeps z s) : Keeps z (State.noteRaised s a i) := by
  unfold State.noteRaised
  repeat' first
    | with_reducible assumption
    | (intro x; first | (refine Keeps.named (z := z) (s := x) ?_ ?_; focus subst x) | (refine Keeps.named (z := z) (s := x.1) ?_ ?_; focus subst x) | (refine Keeps.named (z := z) (s := x.2) ?_ ?_; focus subst x) | skip)
    | split | with_reducible refine Keeps.lit ?_ rfl rfl

theorem State.setB_keeps {z : State} (s : State) (a : ℕ) (i : ℕ) (v : Bool) (h : Keeps z s) : Keeps z (State.setB s a i v) := by
  unfold State.setB
  repeat' first
    | with_reducible assumption | (intro x; first | (refine Keeps.named (z := z) (s := x) ?_ ?_; focus subst x) | skip)
    | with_reducible apply State.noteRaised_keeps | with_reducible apply State.setF_keeps | with_reducible apply Keeps.cond

theorem State.setPair_keeps {z : State} (s : State) (lo : ℕ) (v : ℕ) (h : Keeps z s) : Keeps z (State.setPair s lo v) := by
  unfold State.setPair
  repeat' first
    | with_reducible assumption | with_reducible apply State.setCsr_keeps

theorem State.incF_keeps {z : State} (s : State) (a : ℕ) (hi : ℕ) (lo : ℕ) (k : ℕ) (h : Keeps z s) : Keeps z (State.incF s a hi lo k) := by
  unfold State.incF
  repeat' first
    | with_reducible assumption | with_reducible apply State.setF_keeps

theorem State.inc_keeps {z : State} (s : State) (a : ℕ) (k : ℕ) (h : Keeps z s) : Keeps z (State.inc s a k) := by
  unfold State.inc
  repeat' first
    | with_reducible assumption | with_reducible apply State.incF_keeps

theorem State.incMod_keeps {z : State} (s : State) (a : ℕ) (k : ℕ) (h : Keeps z s) : Keeps z (State.incMod s a k) := by
  unfold State.incMod
  repeat' first
    | with_reducible assumption | with_reducible apply State.setCsr_keeps

theorem State.bump_keeps {z : State} (s : State) (src : ℕ) (n : ℕ) (h : Keeps z s) : Keeps z (State.bump s src n) := by
  unfold State.bump
  repeat' first
    | with_reducible assumption | (intro x; first | (refine Keeps.named (z := z) (s := x) ?_ ?_; focus subst x) | skip) | split
    | with_reducible refine Keeps.lit ?_ rfl rfl

theorem State.markEra_keeps {z : State} (s : State) (h : Keeps z s) : Keeps z (State.markEra s) := by
  unfold State.markEra
  repeat' first
    | with_reducible assumption | (intro x; first | (refine Keeps.named (z := z) (s := x) ?_ ?_; focus subst x) | skip) | lift_lets | split
    | with_reducible refine Keeps.of_fst (by assumption) ?_ | with_reducible refine Keeps.of_snd (by assumption) ?_
    | with_reducible refine Keeps.lit ?_ rfl rfl

theorem State.mapCommit_keeps {z : State} (s : State) (m : ℕ) (t : ℕ) (h : Keeps z s) : Keeps z (State.mapCommit s m t) := by
  unfold State.mapCommit
  repeat' first
    | with_reducible assumption | (intro x; first | (refine Keeps.named (z := z) (s := x) ?_ ?_; focus subst x) | skip)
    | with_reducible apply State.setF_keeps | with_reducible apply State.setB_keeps | lift_lets | split
    | with_reducible refine Keeps.lit ?_ rfl rfl

theorem State.mapSettle_keeps {z : State} (s : State) (h : Keeps z s) : Keeps z (State.mapSettle s) := by
  unfold State.mapSettle
  repeat' first
    | with_reducible assumption | with_reducible apply State.mapCommit_keeps | split | with_reducible refine Keeps.of_fst (by assumption) ?_
    | with_reducible refine Keeps.of_snd (by assumption) ?_

theorem State.elapse_keeps {z : State} (s : State) (dt : ℕ) (h : Keeps z s) : Keeps z (State.elapse s dt) := by
  unfold State.elapse
  repeat' first
    | with_reducible assumption | (intro x; first | (refine Keeps.named (z := z) (s := x) ?_ ?_; focus subst x) | skip)
    | with_reducible apply State.bump_keeps | with_reducible apply State.markEra_keeps | with_reducible apply State.mapSettle_keeps | lift_lets
    | split | with_reducible refine Keeps.lit ?_ rfl rfl

theorem State.free_keeps {z : State} (s : State) (h : Keeps z s) : Keeps z (State.free s).2 := by
  unfold State.free
  repeat' first
    | with_reducible assumption | with_reducible refine Keeps.lit ?_ rfl rfl

theorem State.keepResult_keeps {z : State} (s : State) (old : State) (a : ℕ) (ovr : Option ℕ) (h : Keeps z s) (h1 : Keeps z old) :
    Keeps z (State.keepResult s old a ovr) := by
  unfold State.keepResult
  repeat' first
    | with_reducible assumption | (intro x; first | (refine Keeps.named (z := z) (s := x) ?_ ?_; focus subst x) | skip)
    | with_reducible refine Keeps.lit ?_ rfl rfl

theorem State.result_keeps {z : State} (s : State) (a : ℕ) (comp : ℕ) (value : ℕ) (flags : ℕ) (ovr : ℕ) (h : Keeps z s) :
    Keeps z (State.result s a comp value flags ovr) := by
  unfold State.result
  repeat' first
    | with_reducible assumption | (intro x; first | (refine Keeps.named (z := z) (s := x) ?_ ?_; focus subst x) | skip)
    | with_reducible apply State.setCsr_keeps | with_reducible apply State.keepResult_keeps | lift_lets | split

theorem State.setFlags_keeps {z : State} (s : State) (f : DWord) (h : Keeps z s) : Keeps z (State.setFlags s f) := by
  unfold State.setFlags
  repeat' first
    | with_reducible assumption | with_reducible refine Keeps.lit ?_ rfl rfl

theorem State.sticky_keeps {z : State} (s : State) (i : ℕ) (h : Keeps z s) : Keeps z (State.sticky s i) := by
  unfold State.sticky
  repeat' first
    | with_reducible assumption | with_reducible apply State.setFlags_keeps

end Sys2Proof.Machine
end

