-- ==== Sys2Proof/Laws/Kept/Publish.lean ====
section
/-! SUPPORT. What every function of Machine/Publish.lean keeps (Laws/Keep.lean). -/

set_option linter.unusedTactic false
set_option linter.unreachableTactic false

namespace Sys2Proof.Machine

theorem State.moveOn_keeps {z : State} (s : State) (n : ℕ) (k : ℕ) (h : Keeps z s) : Keeps z (State.moveOn s n k) := by
  unfold State.moveOn
  repeat' first
    | with_reducible assumption | (intro x; first | (refine Keeps.named (z := z) (s := x) ?_ ?_; focus subst x) | skip)
    | with_reducible apply State.putWords_keeps | with_reducible apply Keeps.foldl | lift_lets | with_reducible refine Keeps.lit ?_ rfl rfl

theorem State.enqueue_keeps {z : State} (s : State) (n : ℕ) (e : Entry) (rank : ℕ) (h : Keeps z s) : Keeps z (State.enqueue s n e rank) := by
  unfold State.enqueue
  repeat' first
    | with_reducible assumption
    | (intro x; first | (refine Keeps.named (z := z) (s := x) ?_ ?_; focus subst x) | (refine Keeps.named (z := z) (s := x.1) ?_ ?_; focus subst x) | (refine Keeps.named (z := z) (s := x.2) ?_ ?_; focus subst x) | skip)
    | with_reducible apply State.putWords_keeps | with_reducible apply State.moveOn_keeps | with_reducible apply State.bump_keeps
    | with_reducible apply State.incMod_keeps | lift_lets | split | with_reducible refine Keeps.lit ?_ rfl rfl

theorem State.claimWait_keeps {z : State} (s : State) (key : ℕ) (o : ℕ) (n : ℕ) (q : ℕ) (h : Keeps z s) : Keeps z (State.claimWait s key o n q) := by
  unfold State.claimWait
  repeat' first
    | with_reducible assumption | (intro x; first | (refine Keeps.named (z := z) (s := x) ?_ ?_; focus subst x) | skip) | lift_lets
    | with_reducible refine Keeps.lit ?_ rfl rfl

theorem State.claim_keeps {z : State} (s : State) (key : ℕ) (o : ℕ) (n : ℕ) (q : ℕ) (h : Keeps z s) : Keeps z (State.claim s key o n q) := by
  unfold State.claim
  repeat' first
    | with_reducible assumption | (intro x; first | (refine Keeps.named (z := z) (s := x) ?_ ?_; focus subst x) | skip)
    | with_reducible refine Keeps.lit ?_ rfl rfl

theorem State.send_keeps {z : State} (s : State) (dst : ℕ) (cls : ℕ) (kind : ℕ) (ws : List ℕ) (h : Keeps z s) :
    Keeps z (State.send s dst cls kind ws) := by
  unfold State.send
  repeat' first
    | with_reducible assumption | with_reducible refine Keeps.lit ?_ rfl rfl

theorem State.evbWater_keeps {z : State} (s : State) (h : Keeps z s) : Keeps z (State.evbWater s) := by
  unfold State.evbWater
  repeat' first
    | with_reducible assumption | (intro x; first | (refine Keeps.named (z := z) (s := x) ?_ ?_; focus subst x) | skip)
    | with_reducible apply State.setB_keeps | with_reducible apply State.send_keeps | lift_lets | split
    | with_reducible refine Keeps.of_fst (by assumption) ?_ | with_reducible refine Keeps.of_snd (by assumption) ?_

theorem State.sendCredit_keeps {z : State} (s : State) (x : OwedCredit) (h : Keeps z s) : Keeps z (State.sendCredit s x) := by
  unfold State.sendCredit
  repeat' first
    | with_reducible assumption | with_reducible apply State.send_keeps | split

theorem State.payCredit_keeps {z : State} (s : State) (id : ℕ) (h : Keeps z s) : Keeps z (State.payCredit s id) := by
  unfold State.payCredit
  repeat' first
    | with_reducible assumption | with_reducible apply Keeps.id
    | (intro x; first | (refine Keeps.named (z := z) (s := x) ?_ ?_; focus subst x) | skip) | with_reducible apply State.sendCredit_keeps
    | with_reducible apply Keeps.foldl | with_reducible refine Keeps.lit ?_ rfl rfl

theorem State.fragOut_keeps {z : State} (s : State) (id : ℕ) (p : FragPart) (h : Keeps z s) : Keeps z (State.fragOut s id p) := by
  unfold State.fragOut
  repeat' first
    | with_reducible assumption | with_reducible apply Keeps.id
    | (intro x; first | (refine Keeps.named (z := z) (s := x) ?_ ?_; focus subst x) | skip) | with_reducible apply State.bump_keeps
    | with_reducible apply Keeps.cond | lift_lets | split | with_reducible refine Keeps.of_fst (by assumption) ?_
    | with_reducible refine Keeps.of_snd (by assumption) ?_ | with_reducible refine Keeps.lit ?_ rfl rfl

theorem State.segOut_keeps {z : State} (s : State) (c : ℕ) (t : ℤ) (num : ℕ) (h : Keeps z s) : Keeps z (State.segOut s c t num) := by
  unfold State.segOut
  repeat' first
    | with_reducible assumption | (intro x; first | (refine Keeps.named (z := z) (s := x) ?_ ?_; focus subst x) | skip) | split
    | with_reducible refine Keeps.lit ?_ rfl rfl

theorem State.followOut_keeps {z : State} (s : State) (r : Rec) (ws : List ℕ) (addr : ℕ) (qseq : ℕ) (h : Keeps z s) :
    Keeps z (State.followOut s r ws addr qseq) := by
  unfold State.followOut
  repeat' first
    | with_reducible assumption | with_reducible apply Keeps.id
    | (intro x; first | (refine Keeps.named (z := z) (s := x) ?_ ?_; focus subst x) | skip) | with_reducible apply State.inc_keeps
    | with_reducible apply State.segOut_keeps | with_reducible apply State.payCredit_keeps | with_reducible apply State.bump_keeps
    | with_reducible apply State.incMod_keeps | with_reducible apply State.fragOut_keeps | with_reducible apply Keeps.cond | lift_lets | split
    | with_reducible refine Keeps.of_fst (by assumption) ?_ | with_reducible refine Keeps.of_snd (by assumption) ?_

theorem State.followDrop_keeps {z : State} (s : State) (f : Follow) (h : Keeps z s) : Keeps z (State.followDrop s f) := by
  unfold State.followDrop
  repeat' first
    | with_reducible assumption | with_reducible apply Keeps.id
    | (intro x; first | (refine Keeps.named (z := z) (s := x) ?_ ?_; focus subst x) | skip) | with_reducible apply State.segOut_keeps | split
    | with_reducible refine Keeps.of_fst (by assumption) ?_ | with_reducible refine Keeps.of_snd (by assumption) ?_
    | with_reducible refine Keeps.lit ?_ rfl rfl

theorem State.recNext_keeps {z : State} (s : State) (q : ℕ) (ty : ℕ) (port : ℕ) (h : Keeps z s) : Keeps z (State.recNext s q ty port) := by
  unfold State.recNext
  repeat' first
    | with_reducible assumption
    | (intro x; first | (refine Keeps.named (z := z) (s := x) ?_ ?_; focus subst x) | (refine Keeps.named (z := z) (s := x.1) ?_ ?_; focus subst x) | (refine Keeps.named (z := z) (s := x.2) ?_ ?_; focus subst x) | skip)
    | lift_lets | with_reducible refine Keeps.lit ?_ rfl rfl

theorem State.dropRec_keeps {z : State} (s : State) (r : Rec) (h : Keeps z s) : Keeps z (State.dropRec s r) := by
  unfold State.dropRec
  repeat' first
    | with_reducible assumption | (intro x; first | (refine Keeps.named (z := z) (s := x) ?_ ?_; focus subst x) | skip)
    | with_reducible apply State.inc_keeps | with_reducible apply State.recNext_keeps | with_reducible apply State.followDrop_keeps | lift_lets
    | split | with_reducible refine Keeps.lit ?_ rfl rfl

theorem State.emitRec_keeps {z : State} (s : State) (r : Rec) (h : Keeps z s) : Keeps z (State.emitRec s r) := by
  unfold State.emitRec
  repeat' first
    | with_reducible assumption | (intro x; first | (refine Keeps.named (z := z) (s := x) ?_ ?_; focus subst x) | skip)
    | with_reducible apply State.followOut_keeps | with_reducible apply State.enqueue_keeps | with_reducible apply State.dropRec_keeps
    | with_reducible apply State.claim_keeps | with_reducible apply State.putWords_keeps | with_reducible apply State.recNext_keeps
    | with_reducible apply State.evbWater_keeps | with_reducible apply Keeps.cond | lift_lets | split
    | with_reducible refine Keeps.of_fst (by assumption) ?_ | with_reducible refine Keeps.of_snd (by assumption) ?_
    | with_reducible refine Keeps.lit ?_ rfl rfl

theorem State.crossRec_keeps {z : State} (s : State) (r : Rec) (h : Keeps z s) : Keeps z (State.crossRec s r) := by
  unfold State.crossRec
  repeat' first
    | with_reducible assumption | (intro x; first | (refine Keeps.named (z := z) (s := x) ?_ ?_; focus subst x) | skip)
    | with_reducible apply State.dropRec_keeps | with_reducible apply Keeps.foldl | lift_lets | split
    | with_reducible refine Keeps.lit ?_ rfl rfl

theorem State.publish_keeps {z : State} (s : State) (r : Rec) (h : Keeps z s) : Keeps z (State.publish s r) := by
  unfold State.publish
  repeat' first
    | with_reducible assumption | (intro x; first | (refine Keeps.named (z := z) (s := x) ?_ ?_; focus subst x) | skip)
    | with_reducible apply State.dropRec_keeps | with_reducible apply State.crossRec_keeps | with_reducible apply State.emitRec_keeps | split
    | with_reducible refine Keeps.lit ?_ rfl rfl

theorem State.crossDrain_keeps {z : State} (s : State) (h : Keeps z s) : Keeps z (State.crossDrain s) := by
  unfold State.crossDrain
  repeat' first
    | with_reducible assumption | (intro x; first | (refine Keeps.named (z := z) (s := x) ?_ ?_; focus subst x) | skip)
    | with_reducible apply State.publish_keeps | with_reducible apply Keeps.foldl | with_reducible refine Keeps.lit ?_ rfl rfl

theorem State.publishAll_keeps {z : State} (s : State) (q : ℕ) (rs : List Rec) (h : Keeps z s) : Keeps z (State.publishAll s q rs) := by
  unfold State.publishAll
  repeat' first
    | with_reducible assumption | (intro x; first | (refine Keeps.named (z := z) (s := x) ?_ ?_; focus subst x) | skip)
    | with_reducible apply State.dropRec_keeps | with_reducible apply State.publish_keeps | with_reducible apply Keeps.foldl | split

theorem State.publishEntry_keeps {z : State} (s : State) (q : ℕ) (island : ℕ) (e : Entry) (follow : Follow) (h : Keeps z s) :
    Keeps z (State.publishEntry s q island e follow) := by
  unfold State.publishEntry
  repeat' first
    | with_reducible assumption | with_reducible apply State.publish_keeps | with_reducible refine Keeps.lit ?_ rfl rfl

theorem State.console_keeps {z : State} (s : State) (e : LogEntry) (h : Keeps z s) : Keeps z (State.console s e) := by
  unfold State.console
  repeat' first
    | with_reducible assumption | (intro x; first | (refine Keeps.named (z := z) (s := x) ?_ ?_; focus subst x) | skip)
    | with_reducible apply State.inc_keeps | with_reducible apply Keeps.cond | lift_lets | split | with_reducible refine Keeps.lit ?_ rfl rfl

theorem State.log_keeps {z : State} (s : State) (level : ℕ) (event : ℕ) (args : List ℕ) (h : Keeps z s) : Keeps z (State.log s level event args) := by
  unfold State.log
  repeat' first
    | with_reducible assumption | (intro x; first | (refine Keeps.named (z := z) (s := x) ?_ ?_; focus subst x) | skip)
    | with_reducible apply State.bump_keeps | with_reducible apply State.inc_keeps | with_reducible apply State.console_keeps
    | with_reducible apply State.publish_keeps | lift_lets | split
    | with_reducible refine Keeps.litSec ?_ rfl rfl (SecKeeps.same rfl rfl rfl rfl rfl rfl)

theorem logDrain_keeps {z : State} (a0 : List LogEntry) (a1 : State) (h : Keeps z a1) : Keeps z (logDrain a0 a1) := by
  induction a0 generalizing a1 with
  | nil => exact h
  | cons x0 a0 ih =>
    unfold logDrain
    repeat' first
      | with_reducible assumption | with_reducible apply ih | with_reducible apply State.console_keeps | with_reducible apply State.publish_keeps | split
      | with_reducible refine Keeps.lit ?_ rfl rfl

theorem State.headMoved_keeps {z : State} (s : State) (n : ℕ) (h : Keeps z s) : Keeps z (State.headMoved s n) := by
  unfold State.headMoved
  repeat' first
    | with_reducible assumption | with_reducible apply logDrain_keeps | with_reducible apply State.evbWater_keeps | split

theorem State.dequeue_keeps {z : State} (s : State) (n : ℕ) (h : Keeps z s) : Keeps z (State.dequeue s n) := by
  unfold State.dequeue
  repeat' first
    | with_reducible assumption | (intro x; first | (refine Keeps.named (z := z) (s := x) ?_ ?_; focus subst x) | skip)
    | with_reducible apply State.headMoved_keeps | with_reducible apply State.incMod_keeps | with_reducible apply State.putWords_keeps
    | lift_lets

theorem State.passTaken_keeps {z : State} (s : State) (n : ℕ) (a2 : ℕ) (h : Keeps z s) : Keeps z (State.passTaken s n a2) := by
  induction a2 generalizing s with
  | zero => exact h
  | succ a2 ih =>
    unfold State.passTaken
    repeat' first
      | with_reducible assumption | with_reducible apply ih | with_reducible apply State.incMod_keeps | split

theorem State.takeAt_keeps {z : State} (s : State) (n : ℕ) (i : ℕ) (h : Keeps z s) : Keeps z (State.takeAt s n i) := by
  unfold State.takeAt
  repeat' first
    | with_reducible assumption | (intro x; first | (refine Keeps.named (z := z) (s := x) ?_ ?_; focus subst x) | skip)
    | with_reducible apply State.headMoved_keeps | with_reducible apply State.passTaken_keeps | with_reducible apply State.putWords_keeps
    | lift_lets

theorem State.takeMine_keeps {z s : State} {n : Nat} {mine : Nat → Bool} {r : Entry × State} (h : Keeps z s)
    (e : s.takeMine n mine = some r) : Keeps z r.2 := by
  obtain ⟨i, -, rfl⟩ := Option.map_eq_some_iff.1 e
  exact State.takeAt_keeps _ _ _ h

theorem State.postAlarm_keeps {z : State} (s : State) (a : AlarmRec) (h : Keeps z s) : Keeps z (State.postAlarm s a) := by
  unfold State.postAlarm
  repeat' first
    | with_reducible assumption | (intro x; first | (refine Keeps.named (z := z) (s := x) ?_ ?_; focus subst x) | skip)
    | with_reducible apply State.claim_keeps | with_reducible apply State.putWords_keeps | with_reducible apply State.recNext_keeps
    | with_reducible apply State.enqueue_keeps | lift_lets | split | with_reducible refine Keeps.of_fst (by assumption) ?_
    | with_reducible refine Keeps.of_snd (by assumption) ?_ | with_reducible refine Keeps.lit ?_ rfl rfl

theorem State.coalesce_keeps {z : State} (s : State) (a : AlarmRec) (h : Keeps z s) : Keeps z (State.coalesce s a) := by
  unfold State.coalesce
  repeat' first
    | with_reducible assumption | (intro x; first | (refine Keeps.named (z := z) (s := x) ?_ ?_; focus subst x) | skip)
    | with_reducible apply State.bump_keeps | lift_lets | split | with_reducible refine Keeps.lit ?_ rfl rfl

theorem State.critical_keeps {z : State} (s : State) (a : AlarmRec) (h : Keeps z s) : Keeps z (State.critical s a) := by
  unfold State.critical
  repeat' first
    | with_reducible assumption | with_reducible apply State.postAlarm_keeps | with_reducible apply State.coalesce_keeps | split
    | with_reducible refine Keeps.lit ?_ rfl rfl

theorem State.lesser_keeps {z : State} (s : State) (a : AlarmRec) (h : Keeps z s) : Keeps z (State.lesser s a) := by
  unfold State.lesser
  repeat' first
    | with_reducible assumption | (intro x; first | (refine Keeps.named (z := z) (s := x) ?_ ?_; focus subst x) | skip)
    | with_reducible apply State.coalesce_keeps | with_reducible apply State.dropRec_keeps | with_reducible apply State.postAlarm_keeps
    | lift_lets | split | with_reducible refine Keeps.lit ?_ rfl rfl

theorem State.alarm_keeps {z : State} (s : State) (cls : ℕ) (srcreg : ℕ) (srcbit : ℕ) (port : ℕ) (chan : ℕ) (h : Keeps z s) :
    Keeps z (State.alarm s cls srcreg srcbit port chan) := by
  unfold State.alarm
  repeat' first
    | with_reducible assumption | (intro x; first | (refine Keeps.named (z := z) (s := x) ?_ ?_; focus subst x) | skip)
    | with_reducible apply State.bump_keeps | with_reducible apply State.incF_keeps | with_reducible apply State.critical_keeps
    | with_reducible apply State.lesser_keeps | with_reducible apply State.log_keeps | lift_lets | split
    | with_reducible refine Keeps.of_fst (by assumption) ?_ | with_reducible refine Keeps.of_snd (by assumption) ?_

theorem State.testRun_keeps {z : State} (s : State) (k : ℕ) (h : Keeps z s) : Keeps z (State.testRun s k) := by
  unfold State.testRun
  repeat' first
    | with_reducible assumption | (intro x; first | (refine Keeps.named (z := z) (s := x) ?_ ?_; focus subst x) | skip)
    | with_reducible refine Keeps.lit ?_ rfl rfl

theorem State.suspectSrc_keeps {z : State} (s : State) (k : ℕ) (on : Bool) (h : Keeps z s) : Keeps z (State.suspectSrc s k on) := by
  unfold State.suspectSrc
  repeat' first
    | with_reducible assumption | (intro x; first | (refine Keeps.named (z := z) (s := x) ?_ ?_; focus subst x) | skip) | lift_lets | split
    | with_reducible refine Keeps.lit ?_ rfl rfl

theorem State.momentary_keeps {z : State} (s : State) (h : Keeps z s) : Keeps z (State.momentary s) := by
  unfold State.momentary
  repeat' first
    | with_reducible assumption | with_reducible refine Keeps.lit ?_ rfl rfl

theorem State.ceRead_keeps {z : State} (s : State) (a : ℕ) (n : ℕ) (h : Keeps z s) : Keeps z (State.ceRead s a n) := by
  unfold State.ceRead
  repeat' first
    | with_reducible assumption | (intro x; first | (refine Keeps.named (z := z) (s := x) ?_ ?_; focus subst x) | skip)
    | with_reducible apply State.bump_keeps | with_reducible apply State.incF_keeps | lift_lets | split

theorem State.memUe_keeps {z : State} (s : State) (a : ℕ) (h : Keeps z s) : Keeps z (State.memUe s a) := by
  unfold State.memUe
  repeat' first
    | with_reducible assumption | with_reducible apply State.alarm_keeps | with_reducible apply State.bump_keeps
    | with_reducible apply State.setB_keeps | with_reducible apply State.setPair_keeps | with_reducible apply State.incF_keeps
    | with_reducible refine Keeps.lit ?_ rfl rfl

theorem State.dramRead_keeps {z : State} (s : State) (a : ℕ) (n : ℕ) (h : Keeps z s) : Keeps z (State.dramRead s a n) := by
  unfold State.dramRead
  repeat' first
    | with_reducible assumption | (intro x; first | (refine Keeps.named (z := z) (s := x) ?_ ?_; focus subst x) | skip)
    | with_reducible apply State.memUe_keeps | with_reducible apply State.ceRead_keeps | with_reducible apply Keeps.foldl

theorem State.engineRead_keeps {z : State} (s : State) (a : ℕ) (n : ℕ) (h : Keeps z s) : Keeps z (State.engineRead s a n) := by
  unfold State.engineRead
  repeat' first
    | with_reducible assumption | (intro x; first | (refine Keeps.named (z := z) (s := x) ?_ ?_; focus subst x) | skip)
    | with_reducible apply State.dramRead_keeps | with_reducible apply State.momentary_keeps | lift_lets | split

theorem State.upset_keeps {z : State} (s : State) (a : ℕ) (err : ℕ) (h : Keeps z s) : Keeps z (State.upset s a err) := by
  unfold State.upset
  repeat' first
    | with_reducible assumption | (intro x; first | (refine Keeps.named (z := z) (s := x) ?_ ?_; focus subst x) | skip) | lift_lets | split
    | with_reducible refine Keeps.lit ?_ rfl rfl

theorem State.setInstar_keeps {z : State} (s : State) (n : ℕ) (h : Keeps z s) : Keeps z (State.setInstar s n) := by
  unfold State.setInstar
  repeat' first
    | with_reducible assumption | with_reducible apply State.log_keeps | with_reducible refine Keeps.lit ?_ rfl rfl

end Sys2Proof.Machine
end

