-- ==== Sys2Proof/Laws/Kept/Access.lean ====
section
/-! SUPPORT. What every function of Machine/Access.lean keeps (Laws/Keep.lean). -/

set_option linter.unusedTactic false
set_option linter.unreachableTactic false

namespace Sys2Proof.Machine

theorem State.writeReg_keeps {z : State} (s : State) (a : ℕ) (v : Word) (lease : Bool) (h : Keeps z s) : Keeps z (State.writeReg s a v lease) := by
  unfold State.writeReg
  repeat' first
    | with_reducible assumption | (intro x; first | (refine Keeps.named (z := z) (s := x) ?_ ?_; focus subst x) | skip)
    | with_reducible apply State.setCsr_keeps | with_reducible apply State.bump_keeps | with_reducible apply Keeps.cond | lift_lets | split
    | with_reducible refine Keeps.of_fst (by assumption) ?_ | with_reducible refine Keeps.of_snd (by assumption) ?_

theorem State.holdLo_keeps {z : State} (s : State) (who : ℕ) (a : ℕ) (v : Word) (h : Keeps z s) : Keeps z (State.holdLo s who a v) := by
  unfold State.holdLo
  repeat' first
    | with_reducible assumption | with_reducible refine Keeps.lit ?_ rfl rfl

theorem State.dropLo_keeps {z : State} (s : State) (who : ℕ) (a : ℕ) (h : Keeps z s) : Keeps z (State.dropLo s who a) := by
  unfold State.dropLo
  repeat' first
    | with_reducible assumption | with_reducible refine Keeps.lit ?_ rfl rfl

theorem State.applyLo_keeps {z : State} (s : State) (who : ℕ) (a : ℕ) (lease : Bool) (h : Keeps z s) : Keeps z (State.applyLo s who a lease) := by
  unfold State.applyLo
  repeat' first
    | with_reducible assumption | with_reducible apply State.dropLo_keeps | with_reducible apply State.writeReg_keeps | split
    | with_reducible refine Keeps.of_fst (by assumption) ?_ | with_reducible refine Keeps.of_snd (by assumption) ?_

theorem State.writePair_keeps {z : State} (s : State) (who : ℕ) (a : ℕ) (v : Word) (lease : Bool) (h : Keeps z s) :
    Keeps z (State.writePair s who a v lease) := by
  unfold State.writePair
  repeat' first
    | with_reducible assumption | with_reducible apply State.writeReg_keeps | with_reducible apply State.applyLo_keeps

theorem State.latchHi_keeps {z : State} (s : State) (who : ℕ) (a : ℕ) (hi : Word) (h : Keeps z s) : Keeps z (State.latchHi s who a hi) := by
  unfold State.latchHi
  repeat' first
    | with_reducible assumption | split | with_reducible refine Keeps.lit ?_ rfl rfl

theorem State.readResult_keeps {z : State} (s : State) (who : ℕ) (a : ℕ) (h : Keeps z s) : Keeps z (State.readResult s who a).2 := by
  unfold State.readResult
  repeat' first
    | with_reducible assumption | (intro x; first | (refine Keeps.named (z := z) (s := x) ?_ ?_; focus subst x) | skip)
    | with_reducible apply State.setB_keeps | lift_lets | split | with_reducible refine Keeps.of_fst (by assumption) ?_
    | with_reducible refine Keeps.of_snd (by assumption) ?_ | with_reducible refine Keeps.lit ?_ rfl rfl

end Sys2Proof.Machine
end

