-- ==== Sys2Proof/Laws/Kept/HkStart.lean ====
section
/-! SUPPORT. What every function of Machine/HkStart.lean keeps (Laws/Keep.lean). -/

set_option linter.unusedTactic false
set_option linter.unreachableTactic false

namespace Sys2Proof.Machine

theorem State.hkFlags_keeps {z : State} (s : State) (h : Keeps z s) : Keeps z (State.hkFlags s) := by
  unfold State.hkFlags
  repeat' first
    | with_reducible assumption | (intro x; first | (refine Keeps.named (z := z) (s := x) ?_ ?_; focus subst x) | skip)
    | with_reducible apply State.setB_keeps | with_reducible apply State.setF_keeps | lift_lets | split
    | with_reducible refine Keeps.of_fst (by assumption) ?_ | with_reducible refine Keeps.of_snd (by assumption) ?_
    | with_reducible refine Keeps.lit ?_ rfl rfl

theorem State.hkRegular_keeps {z : State} (s : State) (t : ℕ) (h : Keeps z s) : Keeps z (State.hkRegular s t) := by
  unfold State.hkRegular
  repeat' first
    | with_reducible assumption | (intro x; first | (refine Keeps.named (z := z) (s := x) ?_ ?_; focus subst x) | skip)
    | with_reducible apply State.inc_keeps | with_reducible apply State.hkFlags_keeps | lift_lets | split
    | with_reducible refine Keeps.lit ?_ rfl rfl

theorem State.hkInject_keeps {z : State} (s : State) (t : ℕ) (h : Keeps z s) : Keeps z (State.hkInject s t) := by
  unfold State.hkInject
  repeat' first
    | with_reducible assumption | (intro x; first | (refine Keeps.named (z := z) (s := x) ?_ ?_; focus subst x) | skip)
    | with_reducible apply State.inc_keeps | with_reducible apply State.hkFlags_keeps | lift_lets | split
    | with_reducible refine Keeps.lit ?_ rfl rfl

theorem State.hkTrigger_keeps {z : State} (s : State) (c : ℕ) (h : Keeps z s) : Keeps z (State.hkTrigger s c) := by
  unfold State.hkTrigger
  repeat' first
    | with_reducible assumption | with_reducible apply State.hkInject_keeps | split

theorem State.hkFlash_keeps {z : State} (s : State) (t : ℕ) (h : Keeps z s) : Keeps z (State.hkFlash s t) := by
  unfold State.hkFlash
  repeat' first
    | with_reducible assumption | (intro x; first | (refine Keeps.named (z := z) (s := x) ?_ ?_; focus subst x) | skip)
    | with_reducible apply State.hkInject_keeps | with_reducible apply State.hkRegular_keeps | with_reducible apply Keeps.cond

theorem State.hkBlank_keeps {z : State} (s : State) (i : ℕ) (lo : ℕ) (hi : ℕ) (h : Keeps z s) : Keeps z (State.hkBlank s i lo hi) := by
  unfold State.hkBlank
  repeat' first
    | with_reducible assumption
    | (intro x; first | (refine Keeps.named (z := z) (s := x) ?_ ?_; focus subst x) | (refine Keeps.named (z := z) (s := x.1) ?_ ?_; focus subst x) | (refine Keeps.named (z := z) (s := x.2) ?_ ?_; focus subst x) | skip)
    | lift_lets | split | with_reducible refine Keeps.of_fst (by assumption) ?_ | with_reducible refine Keeps.of_snd (by assumption) ?_
    | with_reducible refine Keeps.lit ?_ rfl rfl

end Sys2Proof.Machine
end

