-- ==== Sys2Proof/Laws/Kept/Maps.lean ====
section
/-! SUPPORT. What every function of Machine/Maps.lean keeps (Laws/Keep.lean). -/

set_option linter.unusedTactic false
set_option linter.unreachableTactic false

namespace Sys2Proof.Machine

theorem State.ringWrite_keeps {z : State} (s : State) (c : ℕ) (i : RingItem) (h : Keeps z s) : Keeps z (State.ringWrite s c i) := by
  unfold State.ringWrite
  repeat' first
    | with_reducible assumption
    | (intro x; first | (refine Keeps.named (z := z) (s := x) ?_ ?_; focus subst x) | (refine Keeps.named (z := z) (s := x.1) ?_ ?_; focus subst x) | (refine Keeps.named (z := z) (s := x.2) ?_ ?_; focus subst x) | skip)
    | with_reducible apply State.inc_keeps | with_reducible apply Keeps.cond | lift_lets | split | with_reducible refine Keeps.lit ?_ rfl rfl

theorem State.ringDrain_keeps {z : State} (s : State) (h : Keeps z s) : Keeps z (State.ringDrain s) := by
  unfold State.ringDrain
  repeat' first
    | with_reducible assumption
    | (intro x; first | (refine Keeps.named (z := z) (s := x) ?_ ?_; focus subst x) | (refine Keeps.named (z := z) (s := x.1) ?_ ?_; focus subst x) | (refine Keeps.named (z := z) (s := x.2) ?_ ?_; focus subst x) | skip)
    | with_reducible apply State.ringWrite_keeps | with_reducible apply Keeps.foldl | with_reducible apply Keeps.foldl_fst
    | with_reducible apply Keeps.foldl_snd | split | with_reducible refine Keeps.lit ?_ rfl rfl

theorem State.ringAdd_keeps {z : State} (s : State) (c : ℕ) (i : RingItem) (h : Keeps z s) : Keeps z (State.ringAdd s c i) := by
  unfold State.ringAdd
  repeat' first
    | with_reducible assumption | with_reducible apply State.ringWrite_keeps | with_reducible apply State.ringDrain_keeps | split
    | with_reducible refine Keeps.lit ?_ rfl rfl

theorem State.ringPut_keeps {z : State} (s : State) (kind : ℕ) (port : ℕ) (t : ℤ) (flags : ℕ) (body : List (ℕ × ℕ × ℕ) → List ℕ) (h : Keeps z s) :
    Keeps z (State.ringPut s kind port t flags body) := by
  unfold State.ringPut
  repeat' first
    | with_reducible assumption | (intro x; first | (refine Keeps.named (z := z) (s := x) ?_ ?_; focus subst x) | skip)
    | with_reducible apply State.ringAdd_keeps | with_reducible apply Keeps.foldl | lift_lets | split

end Sys2Proof.Machine
end

