-- ==== Sys2Proof/Laws/Kept/Str.lean ====
section
/-! SUPPORT. What every function of Machine/Str.lean keeps (Laws/Keep.lean). -/

set_option linter.unusedTactic false
set_option linter.unreachableTactic false

namespace Sys2Proof.Machine

theorem State.writeMapData_keeps {z : State} (s : State) (v : Word) (h : Keeps z s) : Keeps z (State.writeMapData s v) := by
  unfold State.writeMapData
  repeat' first
    | with_reducible assumption | (intro x; first | (refine Keeps.named (z := z) (s := x) ?_ ?_; focus subst x) | skip)
    | with_reducible apply State.setB_keeps | with_reducible apply State.setF_keeps | lift_lets | split
    | with_reducible refine Keeps.lit ?_ rfl rfl

theorem State.writeMapCommit_keeps {z : State} (s : State) (v : Word) (h : Keeps z s) : Keeps z (State.writeMapCommit s v) := by
  unfold State.writeMapCommit
  repeat' first
    | with_reducible assumption | (intro x; first | (refine Keeps.named (z := z) (s := x) ?_ ?_; focus subst x) | skip)
    | with_reducible apply State.mapCommit_keeps | lift_lets | split | with_reducible refine Keeps.of_fst (by assumption) ?_
    | with_reducible refine Keeps.of_snd (by assumption) ?_ | with_reducible refine Keeps.lit ?_ rfl rfl

theorem State.writeStrCtl_keeps {z : State} (s : State) (v : Word) (h : Keeps z s) : Keeps z (State.writeStrCtl s v) := by
  unfold State.writeStrCtl
  repeat' first
    | with_reducible assumption | (intro x; first | (refine Keeps.named (z := z) (s := x) ?_ ?_; focus subst x) | skip)
    | with_reducible apply State.setB_keeps | with_reducible apply State.writeReg_keeps | with_reducible apply Keeps.cond | lift_lets | split
    | with_reducible refine Keeps.lit ?_ rfl rfl

theorem State.writeStrTap_keeps {z : State} (s : State) (v : Word) (h : Keeps z s) : Keeps z (State.writeStrTap s v) := by
  unfold State.writeStrTap
  repeat' first
    | with_reducible assumption | (intro x; first | (refine Keeps.named (z := z) (s := x) ?_ ?_; focus subst x) | skip)
    | with_reducible apply State.setB_keeps | with_reducible apply State.setF_keeps | lift_lets | split
    | with_reducible refine Keeps.lit ?_ rfl rfl

theorem State.writeStrCsaddr_keeps {z : State} (s : State) (v : Word) (h : Keeps z s) : Keeps z (State.writeStrCsaddr s v) := by
  unfold State.writeStrCsaddr
  repeat' first
    | with_reducible assumption | (intro x; first | (refine Keeps.named (z := z) (s := x) ?_ ?_; focus subst x) | skip)
    | with_reducible apply State.writeReg_keeps | lift_lets | with_reducible refine Keeps.lit ?_ rfl rfl

theorem State.strBegin_keeps {z : State} (s : State) (r : StrRun) (h : Keeps z s) : Keeps z (State.strBegin s r) := by
  unfold State.strBegin
  repeat' first
    | with_reducible assumption | (intro x; first | (refine Keeps.named (z := z) (s := x) ?_ ?_; focus subst x) | skip) | lift_lets
    | with_reducible refine Keeps.lit ?_ rfl rfl

theorem State.strStart_keeps {z : State} (s : State) (start : ℕ) (period : ℕ) (h : Keeps z s) : Keeps z (State.strStart s start period) := by
  unfold State.strStart
  repeat' first
    | with_reducible assumption
    | (intro x; first | (refine Keeps.named (z := z) (s := x) ?_ ?_; focus subst x) | (refine Keeps.named (z := z) (s := x.1) ?_ ?_; focus subst x) | (refine Keeps.named (z := z) (s := x.2) ?_ ?_; focus subst x) | skip)
    | with_reducible apply State.strBegin_keeps | with_reducible apply State.setB_keeps | with_reducible apply State.setF_keeps | lift_lets
    | split | with_reducible refine Keeps.lit ?_ rfl rfl

theorem State.frameChannels_keeps {z : State} (s : State) (ctl : Word) (words : List PhW) (us : List ℤ) (h : Keeps z s) :
    Keeps z (State.frameChannels s ctl words us).2.2.2 := by
  unfold State.frameChannels
  repeat' first
    | with_reducible assumption
    | (intro x; first | (refine Keeps.named (z := z) (s := x) ?_ ?_; focus subst x) | (refine Keeps.named (z := z) (s := x.1) ?_ ?_; focus subst x) | (refine Keeps.named (z := z) (s := x.2) ?_ ?_; focus subst x) | skip)
    | with_reducible apply State.inc_keeps | lift_lets | split | with_reducible refine Keeps.lit ?_ rfl rfl

theorem State.chansFresh_keeps {z : State} (s : State) (h : Keeps z s) : Keeps z (State.chansFresh s) := by
  unfold State.chansFresh
  repeat' first
    | with_reducible assumption
    | (intro x; first | (refine Keeps.named (z := z) (s := x) ?_ ?_; focus subst x) | (refine Keeps.named (z := z) (s := x.1) ?_ ?_; focus subst x) | (refine Keeps.named (z := z) (s := x.2) ?_ ?_; focus subst x) | skip)
    | with_reducible refine Keeps.lit ?_ rfl rfl

theorem State.postRows_keeps {z : State} (s : State) (rows : List OutRow) (h : Keeps z s) : Keeps z (State.postRows s rows) := by
  unfold State.postRows
  repeat' first
    | with_reducible assumption
    | (intro x; first | (refine Keeps.named (z := z) (s := x) ?_ ?_; focus subst x) | (refine Keeps.named (z := z) (s := x.1) ?_ ?_; focus subst x) | (refine Keeps.named (z := z) (s := x.2) ?_ ?_; focus subst x) | skip)
    | with_reducible apply State.publish_keeps | with_reducible apply Keeps.foldl | with_reducible apply Keeps.foldl_fst
    | with_reducible apply Keeps.foldl_snd | lift_lets | split | with_reducible refine Keeps.of_fst (by assumption) ?_
    | with_reducible refine Keeps.of_snd (by assumption) ?_

theorem State.postDets_keeps {z : State} (s : State) (h : Keeps z s) : Keeps z (State.postDets s) := by
  unfold State.postDets
  repeat' first
    | with_reducible assumption | (intro x; first | (refine Keeps.named (z := z) (s := x) ?_ ?_; focus subst x) | skip)
    | with_reducible apply State.publish_keeps | split | lift_lets | with_reducible refine Keeps.of_fst (by assumption) ?_
    | with_reducible refine Keeps.of_snd (by assumption) ?_ | with_reducible refine Keeps.lit ?_ rfl rfl

theorem State.dasSamples_keeps {z : State} (s : State) (r : OutRow) (settling : Bool) (old : List Det) (new : List Det) (h : Keeps z s) :
    Keeps z (State.dasSamples s r settling old new) := by
  unfold State.dasSamples
  repeat' first
    | with_reducible assumption
    | (intro x; first | (refine Keeps.named (z := z) (s := x) ?_ ?_; focus subst x) | (refine Keeps.named (z := z) (s := x.1) ?_ ?_; focus subst x) | (refine Keeps.named (z := z) (s := x.2) ?_ ?_; focus subst x) | skip)
    | lift_lets | split | with_reducible refine Keeps.of_fst (by assumption) ?_ | with_reducible refine Keeps.of_snd (by assumption) ?_
    | with_reducible refine Keeps.lit ?_ rfl rfl

theorem State.pushOutput_keeps {z : State} (s : State) (h : Keeps z s) : Keeps z (State.pushOutput s) := by
  unfold State.pushOutput
  repeat' first
    | with_reducible assumption | (intro x; first | (refine Keeps.named (z := z) (s := x) ?_ ?_; focus subst x) | skip)
    | with_reducible apply State.ringPut_keeps | with_reducible apply State.dasSamples_keeps | with_reducible apply State.postDets_keeps
    | with_reducible apply State.postRows_keeps | with_reducible apply Keeps.cond | lift_lets | split
    | with_reducible refine Keeps.lit ?_ rfl rfl

theorem State.pushHist_keeps {z : State} (s : State) (row : HistRow) (h : Keeps z s) : Keeps z (State.pushHist s row) := by
  unfold State.pushHist
  repeat' first
    | with_reducible assumption | (intro x; first | (refine Keeps.named (z := z) (s := x) ?_ ?_; focus subst x) | skip)
    | with_reducible apply State.pushOutput_keeps | lift_lets | split | with_reducible refine Keeps.lit ?_ rfl rfl

theorem State.fillTo_keeps {z : State} (s : State) (n : ℕ) (vals : List PhW) (h : Keeps z s) : Keeps z (State.fillTo s n vals) := by
  unfold State.fillTo
  repeat' first
    | with_reducible assumption
    | (intro x; first | (refine Keeps.named (z := z) (s := x) ?_ ?_; focus subst x) | (refine Keeps.named (z := z) (s := x.1) ?_ ?_; focus subst x) | (refine Keeps.named (z := z) (s := x.2) ?_ ?_; focus subst x) | skip)
    | with_reducible apply State.inc_keeps | with_reducible apply State.pushHist_keeps | with_reducible apply Keeps.foldl
    | with_reducible apply Keeps.foldl_fst | with_reducible apply Keeps.foldl_snd | lift_lets | split
    | with_reducible refine Keeps.of_fst (by assumption) ?_ | with_reducible refine Keeps.of_snd (by assumption) ?_
    | with_reducible refine Keeps.lit ?_ rfl rfl

theorem State.pushFrame_keeps {z : State} (s : State) (n : ℕ) (settle : Bool) (suspect : Bool) (tL : ℤ) (e : ℤ) (chans : List PhW) (h : Keeps z s)
    :
    Keeps z (State.pushFrame s n settle suspect tL e chans) := by
  unfold State.pushFrame
  repeat' first
    | with_reducible assumption | (intro x; first | (refine Keeps.named (z := z) (s := x) ?_ ?_; focus subst x) | skip)
    | with_reducible apply State.pushHist_keeps | with_reducible apply State.fillTo_keeps | lift_lets | split
    | with_reducible refine Keeps.of_fst (by assumption) ?_ | with_reducible refine Keeps.of_snd (by assumption) ?_
    | with_reducible refine Keeps.lit ?_ rfl rfl

theorem State.strFlush_keeps {z : State} (s : State) (h : Keeps z s) : Keeps z (State.strFlush s) := by
  unfold State.strFlush
  repeat' first
    | with_reducible assumption | (intro x; first | (refine Keeps.named (z := z) (s := x) ?_ ?_; focus subst x) | skip)
    | with_reducible apply State.fillTo_keeps | with_reducible apply State.postRows_keeps | with_reducible apply State.postDets_keeps
    | with_reducible apply State.strBegin_keeps | with_reducible apply Keeps.cond | lift_lets | split
    | with_reducible refine Keeps.of_fst (by assumption) ?_ | with_reducible refine Keeps.of_snd (by assumption) ?_
    | with_reducible refine Keeps.lit ?_ rfl rfl

theorem State.strEnd_keeps {z : State} (s : State) (h : Keeps z s) : Keeps z (State.strEnd s) := by
  unfold State.strEnd
  repeat' first
    | with_reducible assumption | (intro x; first | (refine Keeps.named (z := z) (s := x) ?_ ?_; focus subst x) | skip)
    | with_reducible apply State.strFlush_keeps | lift_lets | split | with_reducible refine Keeps.lit ?_ rfl rfl

end Sys2Proof.Machine
end

