-- ==== Sys2Proof/Laws/Kept/Tdc.lean ====
section
/-! SUPPORT. What every function of Machine/Tdc.lean keeps (Laws/Keep.lean). -/

set_option linter.unusedTactic false
set_option linter.unreachableTactic false

namespace Sys2Proof.Machine

theorem State.tdcUpd_keeps {z : State} (s : State) (u : ℕ) (f : TdcUnit → TdcUnit) (h : Keeps z s) : Keeps z (State.tdcUpd s u f) := by
  unfold State.tdcUpd
  repeat' first
    | with_reducible assumption | with_reducible refine Keeps.lit ?_ rfl rfl

theorem State.tdcConf_keeps {z : State} (s : State) (h : Keeps z s) : Keeps z (State.tdcConf s) := by
  unfold State.tdcConf
  repeat' first
    | with_reducible assumption | (intro x; first | (refine Keeps.named (z := z) (s := x) ?_ ?_; focus subst x) | skip)
    | with_reducible apply State.setB_keeps | with_reducible apply Keeps.cond

theorem State.tdcPost_keeps {z : State} (s : State) (u : ℕ) (owner : ℕ) (partial_ : Bool) (h : Keeps z s) :
    Keeps z (State.tdcPost s u owner partial_) := by
  unfold State.tdcPost
  repeat' first
    | with_reducible assumption | (intro x; first | (refine Keeps.named (z := z) (s := x) ?_ ?_; focus subst x) | skip)
    | with_reducible apply State.tdcUpd_keeps | with_reducible apply State.publish_keeps | lift_lets | split
    | with_reducible refine Keeps.lit ?_ rfl rfl

theorem State.tdcResult_keeps {z : State} (s : State) (u : ℕ) (r : ℤ) (flags : ℕ) (first : ℤ) (h : Keeps z s) :
    Keeps z (State.tdcResult s u r flags first) := by
  unfold State.tdcResult
  repeat' first
    | with_reducible assumption | (intro x; first | (refine Keeps.named (z := z) (s := x) ?_ ?_; focus subst x) | skip)
    | with_reducible apply State.bump_keeps | with_reducible apply State.result_keeps | with_reducible apply State.incF_keeps
    | with_reducible apply State.tdcUpd_keeps | with_reducible apply State.tdcPost_keeps | with_reducible apply Keeps.cond | lift_lets | split
    | with_reducible refine Keeps.lit ?_ rfl rfl

theorem State.tdcMeasure_keeps {z : State} (s : State) (u : ℕ) (a : ℤ) (b : ℤ) (h : Keeps z s) : Keeps z (State.tdcMeasure s u a b) := by
  unfold State.tdcMeasure
  repeat' first
    | with_reducible assumption | (intro x; first | (refine Keeps.named (z := z) (s := x) ?_ ?_; focus subst x) | skip)
    | with_reducible apply State.tdcUpd_keeps | with_reducible apply State.tdcResult_keeps | lift_lets | split
    | with_reducible refine Keeps.lit ?_ rfl rfl

theorem State.tdcBusy_keeps {z : State} (s : State) (u : ℕ) (h : Keeps z s) : Keeps z (State.tdcBusy s u) := by
  unfold State.tdcBusy
  repeat' first
    | with_reducible assumption | (intro x; first | (refine Keeps.named (z := z) (s := x) ?_ ?_; focus subst x) | skip)
    | with_reducible apply State.incF_keeps | with_reducible apply State.tdcUpd_keeps | with_reducible apply Keeps.cond | lift_lets
    | with_reducible refine Keeps.lit ?_ rfl rfl

theorem State.tdcEdge_keeps {z : State} (s : State) (u own : Nat) (isStop : Bool) (n : Nat) (h : Keeps z s) :
    Keeps z (s.tdcEdge u own isStop n).1 := by
  unfold State.tdcEdge
  extract_lets x z0 taken s1
  have h1 : Keeps z s1 := State.tdcUpd_keeps _ _ _ h
  generalize (if x.running = true then x.usr else s.tdcOwner u) = w0
  split
  · exact h
  · split
    · exact Keeps.cond _ h fun _ w => State.tdcBusy_keeps _ _ w
    · split
      · exact State.tdcMeasure_keeps _ _ _ _ h1
      · exact h1

theorem State.tdcStart_keeps {z : State} (s : State) (u : ℕ) (owner : ℕ) (z0 : ℕ) (h : Keeps z s) : Keeps z (State.tdcStart s u owner z0).2 := by
  unfold State.tdcStart
  repeat' first
    | with_reducible assumption | (intro x; first | (refine Keeps.named (z := z) (s := x) ?_ ?_; focus subst x) | skip)
    | with_reducible apply State.tdcBusy_keeps | with_reducible apply State.tdcUpd_keeps | lift_lets | split
    | with_reducible refine Keeps.lit ?_ rfl rfl

theorem State.tdcPin_keeps {z : State} (s : State) (u src n : Nat) (h : Keeps z s) : Keeps z (s.tdcPin u src n) := by
  unfold State.tdcPin
  exact Keeps.cond _ (Keeps.cond _ h fun _ w => State.tdcEdge_keeps _ _ _ _ _ w) fun _ w => State.tdcEdge_keeps _ _ _ _ _ w

theorem State.tdcTimeout_keeps {z : State} (s : State) (u : ℕ) (h : Keeps z s) : Keeps z (State.tdcTimeout s u) := by
  unfold State.tdcTimeout
  repeat' first
    | with_reducible assumption | (intro x; first | (refine Keeps.named (z := z) (s := x) ?_ ?_; focus subst x) | skip)
    | with_reducible apply State.tdcUpd_keeps | with_reducible apply State.tdcResult_keeps | lift_lets | split
    | with_reducible refine Keeps.lit ?_ rfl rfl

theorem State.tdcDeadEnd_keeps {z : State} (s : State) (u : ℕ) (h : Keeps z s) : Keeps z (State.tdcDeadEnd s u) := by
  unfold State.tdcDeadEnd
  repeat' first
    | with_reducible assumption | (intro x; first | (refine Keeps.named (z := z) (s := x) ?_ ?_; focus subst x) | skip)
    | with_reducible apply State.tdcUpd_keeps | split | with_reducible refine Keeps.lit ?_ rfl rfl

theorem State.tdcRing_keeps {z : State} (s : State) (u : ℕ) (lsb : ℕ) (ok : Bool) (h : Keeps z s) : Keeps z (State.tdcRing s u lsb ok) := by
  unfold State.tdcRing
  repeat' first
    | with_reducible assumption | (intro x; first | (refine Keeps.named (z := z) (s := x) ?_ ?_; focus subst x) | skip)
    | with_reducible apply State.suspectSrc_keeps | with_reducible apply State.setF_keeps | with_reducible apply State.alarm_keeps
    | with_reducible apply Keeps.cond | lift_lets

theorem State.writeTdcCfg_keeps {z : State} (s : State) (u : ℕ) (v : Word) (h : Keeps z s) : Keeps z (State.writeTdcCfg s u v) := by
  unfold State.writeTdcCfg
  repeat' first
    | with_reducible assumption | (intro x; first | (refine Keeps.named (z := z) (s := x) ?_ ?_; focus subst x) | skip)
    | with_reducible apply State.writeReg_keeps | with_reducible apply State.tdcUpd_keeps | with_reducible apply State.tdcConf_keeps
    | with_reducible apply State.tdcPost_keeps | with_reducible apply Keeps.cond | lift_lets | with_reducible refine Keeps.lit ?_ rfl rfl

theorem State.writeTdcOwner_keeps {z : State} (s : State) (a : ℕ) (v : Word) (h : Keeps z s) : Keeps z (State.writeTdcOwner s a v) := by
  unfold State.writeTdcOwner
  repeat' first
    | with_reducible assumption | (intro x; first | (refine Keeps.named (z := z) (s := x) ?_ ?_; focus subst x) | skip)
    | with_reducible apply State.writeReg_keeps | with_reducible apply State.tdcPost_keeps | with_reducible apply State.tdcConf_keeps
    | with_reducible apply Keeps.cond | with_reducible apply Keeps.foldl | lift_lets

end Sys2Proof.Machine
end

