-- ==== Sys2Proof/Laws/Kept/Fel.lean ====
section
/-! SUPPORT. What every function of Machine/Fel.lean keeps (Laws/Keep.lean). -/

set_option linter.unusedTactic false
set_option linter.unreachableTactic false

namespace Sys2Proof.Machine

theorem State.linkUpd_keeps {z : State} (s : State) (l : ℕ) (f : LinkSt → LinkSt) (h : Keeps z s) : Keeps z (State.linkUpd s l f) := by
  unfold State.linkUpd
  repeat' first
    | with_reducible assumption | with_reducible refine Keeps.lit ?_ rfl rfl

theorem State.linkAlarm_keeps {z : State} (s : State) (cls : ℕ) (l : ℕ) (reg : ℕ) (b : ℕ) (h : Keeps z s) :
    Keeps z (State.linkAlarm s cls l reg b) := by
  unfold State.linkAlarm
  repeat' first
    | with_reducible assumption | with_reducible apply State.alarm_keeps

theorem State.closeBlock_keeps {z : State} (s : State) (l : ℕ) (h : Keeps z s) : Keeps z (State.closeBlock s l) := by
  unfold State.closeBlock
  repeat' first
    | with_reducible assumption | (intro x; first | (refine Keeps.named (z := z) (s := x) ?_ ?_; focus subst x) | skip)
    | with_reducible apply State.linkUpd_keeps | with_reducible apply State.publish_keeps | split
    | with_reducible refine Keeps.of_fst (by assumption) ?_ | with_reducible refine Keeps.of_snd (by assumption) ?_
    | with_reducible refine Keeps.lit ?_ rfl rfl

theorem State.blockHit_keeps {z : State} (s : State) (h0 : Hit) (keep : ℕ) (late : Bool) (h : Keeps z s) :
    Keeps z (State.blockHit s h0 keep late) := by
  unfold State.blockHit
  repeat' first
    | with_reducible assumption | (intro x; first | (refine Keeps.named (z := z) (s := x) ?_ ?_; focus subst x) | skip)
    | with_reducible apply State.closeBlock_keeps | with_reducible apply State.linkUpd_keeps | with_reducible apply Keeps.cond | lift_lets
    | split | with_reducible refine Keeps.of_fst (by assumption) ?_ | with_reducible refine Keeps.of_snd (by assumption) ?_
    | with_reducible refine Keeps.lit ?_ rfl rfl

theorem State.blockTmo_keeps {z : State} (s : State) (l : ℕ) (h : Keeps z s) : Keeps z (State.blockTmo s l) := by
  unfold State.blockTmo
  repeat' first
    | with_reducible assumption | with_reducible apply State.closeBlock_keeps | split | with_reducible refine Keeps.of_fst (by assumption) ?_
    | with_reducible refine Keeps.of_snd (by assumption) ?_

theorem State.fcDrop_keeps {z : State} (s : State) (b : ℕ) (h : Keeps z s) : Keeps z (State.fcDrop s b) := by
  unfold State.fcDrop
  repeat' first
    | with_reducible assumption | with_reducible apply State.setB_keeps | with_reducible apply State.inc_keeps

theorem State.fastCmd_keeps {z : State} (s : State) (l : ℕ) (code : ℕ) (arg : ℕ) (src : ℕ) (h : Keeps z s) :
    Keeps z (State.fastCmd s l code arg src).1 := by
  unfold State.fastCmd
  repeat' first
    | with_reducible assumption | (intro x; first | (refine Keeps.named (z := z) (s := x) ?_ ?_; focus subst x) | skip)
    | with_reducible apply State.linkUpd_keeps | with_reducible apply State.fcDrop_keeps | lift_lets | split
    | with_reducible refine Keeps.of_fst (by assumption) ?_ | with_reducible refine Keeps.of_snd (by assumption) ?_
    | with_reducible refine Keeps.lit ?_ rfl rfl

theorem State.writeFcmd_keeps {z : State} (s : State) (v : Word) (h : Keeps z s) : Keeps z (State.writeFcmd s v) := by
  unfold State.writeFcmd
  repeat' first
    | with_reducible assumption
    | (intro x; first | (refine Keeps.named (z := z) (s := x) ?_ ?_; focus subst x) | (refine Keeps.named (z := z) (s := x.1) ?_ ?_; focus subst x) | (refine Keeps.named (z := z) (s := x.2) ?_ ?_; focus subst x) | skip)
    | with_reducible apply State.fcDrop_keeps | with_reducible apply State.fastCmd_keeps | with_reducible apply Keeps.foldl
    | with_reducible apply Keeps.foldl_fst | with_reducible apply Keeps.foldl_snd | lift_lets | split
    | with_reducible refine Keeps.lit ?_ rfl rfl

theorem State.equalise_keeps {z : State} (s : State) (h : Keeps z s) : Keeps z (State.equalise s) := by
  unfold State.equalise
  repeat' first
    | with_reducible assumption | (intro x; first | (refine Keeps.named (z := z) (s := x) ?_ ?_; focus subst x) | skip)
    | with_reducible apply State.setCsr_keeps | with_reducible apply Keeps.foldl | lift_lets | split
    | with_reducible refine Keeps.of_fst (by assumption) ?_ | with_reducible refine Keeps.of_snd (by assumption) ?_

theorem State.writeFelCtl_keeps {z : State} (s : State) (v : Word) (h : Keeps z s) : Keeps z (State.writeFelCtl s v) := by
  unfold State.writeFelCtl
  repeat' first
    | with_reducible assumption | with_reducible apply State.equalise_keeps | with_reducible apply State.writeReg_keeps

theorem State.setLstate_keeps {z : State} (s : State) (l : ℕ) (st : ℕ) (h : Keeps z s) : Keeps z (State.setLstate s l st) := by
  unfold State.setLstate
  repeat' first
    | with_reducible assumption | (intro x; first | (refine Keeps.named (z := z) (s := x) ?_ ?_; focus subst x) | skip)
    | with_reducible apply State.linkUpd_keeps | with_reducible apply State.setF_keeps | lift_lets | split
    | with_reducible refine Keeps.lit ?_ rfl rfl

theorem State.scEnd_keeps {z : State} (s : State) (t : ScTx) (stat : ℕ) (data : ℕ) (flags : ℕ) (h : Keeps z s) :
    Keeps z (State.scEnd s t stat data flags) := by
  unfold State.scEnd
  repeat' first
    | with_reducible assumption | (intro x; first | (refine Keeps.named (z := z) (s := x) ?_ ?_; focus subst x) | skip)
    | with_reducible apply State.setCsr_keeps | with_reducible apply State.result_keeps | with_reducible apply State.setB_keeps | lift_lets
    | with_reducible refine Keeps.lit ?_ rfl rfl

theorem State.probeStart_keeps {z : State} (s : State) (l : ℕ) (h : Keeps z s) : Keeps z (State.probeStart s l) := by
  unfold State.probeStart
  repeat' first
    | with_reducible assumption | (intro x; first | (refine Keeps.named (z := z) (s := x) ?_ ?_; focus subst x) | skip)
    | with_reducible apply State.linkUpd_keeps | with_reducible apply Keeps.cond | with_reducible refine Keeps.lit ?_ rfl rfl

theorem State.patrolNext_keeps {z : State} (s : State) (l : ℕ) (h : Keeps z s) : Keeps z (State.patrolNext s l) := by
  unfold State.patrolNext
  repeat' first
    | with_reducible assumption | (intro x; first | (refine Keeps.named (z := z) (s := x) ?_ ?_; focus subst x) | skip)
    | with_reducible apply State.probeStart_keeps | lift_lets | split | with_reducible refine Keeps.of_fst (by assumption) ?_
    | with_reducible refine Keeps.of_snd (by assumption) ?_ | with_reducible refine Keeps.lit ?_ rfl rfl

theorem State.leaveUp_keeps {z : State} (s : State) (l : ℕ) (h : Keeps z s) : Keeps z (State.leaveUp s l) := by
  unfold State.leaveUp
  repeat' first
    | with_reducible assumption | (intro x; first | (refine Keeps.named (z := z) (s := x) ?_ ?_; focus subst x) | skip)
    | with_reducible apply State.patrolNext_keeps | with_reducible apply State.linkUpd_keeps | with_reducible apply State.closeBlock_keeps
    | with_reducible apply State.scEnd_keeps | lift_lets | split | with_reducible refine Keeps.of_fst (by assumption) ?_
    | with_reducible refine Keeps.of_snd (by assumption) ?_ | with_reducible refine Keeps.lit ?_ rfl rfl

theorem State.frDrop_keeps {z : State} (s : State) (l : ℕ) (h : Keeps z s) : Keeps z (State.frDrop s l) := by
  unfold State.frDrop
  repeat' first
    | with_reducible assumption | with_reducible apply State.incF_keeps

theorem State.linkFault_keeps {z : State} (s : State) (l : ℕ) (cause : ℕ) (h : Keeps z s) : Keeps z (State.linkFault s l cause) := by
  unfold State.linkFault
  repeat' first
    | with_reducible assumption | (intro x; first | (refine Keeps.named (z := z) (s := x) ?_ ?_; focus subst x) | skip)
    | with_reducible apply State.incF_keeps | with_reducible apply State.setF_keeps | with_reducible apply State.setLstate_keeps
    | with_reducible apply State.linkAlarm_keeps | with_reducible apply Keeps.cond | lift_lets

theorem State.linkApply_keeps {z : State} (s : State) (l : ℕ) (h : Keeps z s) : Keeps z (State.linkApply s l) := by
  unfold State.linkApply
  repeat' first
    | with_reducible assumption | (intro x; first | (refine Keeps.named (z := z) (s := x) ?_ ?_; focus subst x) | skip)
    | with_reducible apply State.setF_keeps | with_reducible apply State.setLstate_keeps | with_reducible apply State.leaveUp_keeps
    | with_reducible apply Keeps.cond | lift_lets | split

theorem State.writeLinken_keeps {z : State} (s : State) (who : ℕ) (v : Word) (h : Keeps z s) : Keeps z (State.writeLinken s who v) := by
  unfold State.writeLinken
  repeat' first
    | with_reducible assumption | (intro x; first | (refine Keeps.named (z := z) (s := x) ?_ ?_; focus subst x) | skip)
    | with_reducible apply State.linkApply_keeps | with_reducible apply State.writePair_keeps | with_reducible apply Keeps.foldl

theorem State.feLock_keeps {z : State} (s : State) (l : ℕ) (hs : List ℕ) (h : Keeps z s) : Keeps z (State.feLock s l hs) := by
  unfold State.feLock
  repeat' first
    | with_reducible assumption | (intro x; first | (refine Keeps.named (z := z) (s := x) ?_ ?_; focus subst x) | skip)
    | with_reducible apply State.linkUpd_keeps | with_reducible apply State.setLstate_keeps | with_reducible apply Keeps.cond
    | with_reducible apply Keeps.foldl | lift_lets | split | with_reducible refine Keeps.lit ?_ rfl rfl

theorem State.linkLost_keeps {z : State} (s : State) (l : ℕ) (isOpen : Bool) (h : Keeps z s) : Keeps z (State.linkLost s l isOpen) := by
  unfold State.linkLost
  repeat' first
    | with_reducible assumption | (intro x; first | (refine Keeps.named (z := z) (s := x) ?_ ?_; focus subst x) | skip)
    | with_reducible apply State.setLstate_keeps | with_reducible apply State.frDrop_keeps | with_reducible apply State.leaveUp_keeps
    | with_reducible apply State.linkAlarm_keeps | with_reducible apply State.setB_keeps | with_reducible apply Keeps.cond | lift_lets
    | with_reducible refine Keeps.lit ?_ rfl rfl

theorem State.feHeaders_keeps {z : State} (s : State) (l : ℕ) (isOpen : Bool) (hs : List ℕ) (h : Keeps z s) :
    Keeps z (State.feHeaders s l isOpen hs).2 := by
  unfold State.feHeaders
  repeat' first
    | with_reducible assumption | (intro x; first | (refine Keeps.named (z := z) (s := x) ?_ ?_; focus subst x) | skip)
    | with_reducible apply State.linkUpd_keeps | with_reducible apply State.linkLost_keeps | with_reducible apply Keeps.cond
    | with_reducible apply Keeps.foldl | lift_lets | split

theorem State.feLoss_keeps {z : State} (s : State) (l : ℕ) (isOpen : Bool) (hs : List ℕ) (h : Keeps z s) : Keeps z (State.feLoss s l isOpen hs) := by
  unfold State.feLoss
  repeat' first
    | with_reducible assumption | with_reducible apply State.feHeaders_keeps

theorem State.linkIdent_keeps {z : State} (s : State) (l : ℕ) (h : Keeps z s) : Keeps z (State.linkIdent s l) := by
  unfold State.linkIdent
  repeat' first
    | with_reducible assumption | (intro x; first | (refine Keeps.named (z := z) (s := x) ?_ ?_; focus subst x) | skip)
    | with_reducible apply State.setPair_keeps | with_reducible apply State.setLstate_keeps | with_reducible apply State.setCsr_keeps
    | with_reducible apply State.setB_keeps | with_reducible apply State.linkFault_keeps | with_reducible apply State.probeStart_keeps
    | with_reducible apply Keeps.cond | lift_lets | split | with_reducible refine Keeps.lit ?_ rfl rfl

theorem State.feHello_keeps {z : State} (s : State) (l : ℕ) (payload : ℕ) (h : Keeps z s) : Keeps z (State.feHello s l payload) := by
  unfold State.feHello
  repeat' first
    | with_reducible assumption | (intro x; first | (refine Keeps.named (z := z) (s := x) ?_ ?_; focus subst x) | skip)
    | with_reducible apply State.linkUpd_keeps | with_reducible apply State.linkIdent_keeps | lift_lets | split
    | with_reducible refine Keeps.lit ?_ rfl rfl

theorem State.feTimeouts_keeps {z : State} (s : State) (l : ℕ) (h : Keeps z s) : Keeps z (State.feTimeouts s l) := by
  unfold State.feTimeouts
  repeat' first
    | with_reducible assumption | with_reducible apply State.linkFault_keeps | split | with_reducible refine Keeps.of_fst (by assumption) ?_
    | with_reducible refine Keeps.of_snd (by assumption) ?_

theorem State.feRetry_keeps {z : State} (s : State) (l : ℕ) (h : Keeps z s) : Keeps z (State.feRetry s l) := by
  unfold State.feRetry
  repeat' first
    | with_reducible assumption | (intro x; first | (refine Keeps.named (z := z) (s := x) ?_ ?_; focus subst x) | skip)
    | with_reducible apply State.setLstate_keeps | lift_lets | split

theorem State.sfLink_keeps {z : State} (s : State) (j : ℕ) (l : ℕ) (h : Keeps z s) : Keeps z (State.sfLink s j l) := by
  unfold State.sfLink
  repeat' first
    | with_reducible assumption
    | (intro x; first | (refine Keeps.named (z := z) (s := x) ?_ ?_; focus subst x) | (refine Keeps.named (z := z) (s := x.1) ?_ ?_; focus subst x) | (refine Keeps.named (z := z) (s := x.2) ?_ ?_; focus subst x) | skip)
    | with_reducible apply State.linkUpd_keeps | with_reducible apply State.setF_keeps | with_reducible apply State.setLstate_keeps
    | with_reducible apply State.fcDrop_keeps | with_reducible apply State.tdcStart_keeps | lift_lets | split
    | with_reducible refine Keeps.of_fst (by assumption) ?_ | with_reducible refine Keeps.of_snd (by assumption) ?_
    | with_reducible refine Keeps.lit ?_ rfl rfl

theorem State.sfSend_keeps {z : State} (s : State) (l : ℕ) (h : Keeps z s) : Keeps z (State.sfSend s l) := by
  unfold State.sfSend
  repeat' first
    | with_reducible assumption
    | (intro x; first | (refine Keeps.named (z := z) (s := x) ?_ ?_; focus subst x) | (refine Keeps.named (z := z) (s := x.1) ?_ ?_; focus subst x) | (refine Keeps.named (z := z) (s := x.2) ?_ ?_; focus subst x) | skip)
    | with_reducible apply State.linkUpd_keeps | with_reducible apply Keeps.foldl | with_reducible apply Keeps.foldl_fst
    | with_reducible apply Keeps.foldl_snd | lift_lets | split | with_reducible refine Keeps.of_fst (by assumption) ?_
    | with_reducible refine Keeps.of_snd (by assumption) ?_ | with_reducible refine Keeps.lit ?_ rfl rfl

theorem State.superframe_keeps {z : State} (s : State) (h : Keeps z s) : Keeps z (State.superframe s) := by
  unfold State.superframe
  repeat' first
    | with_reducible assumption | (intro x; first | (refine Keeps.named (z := z) (s := x) ?_ ?_; focus subst x) | skip)
    | with_reducible apply State.sfSend_keeps | with_reducible apply State.sfLink_keeps | with_reducible apply Keeps.foldl | lift_lets | split
    | with_reducible refine Keeps.lit ?_ rfl rfl

theorem State.bcreset_keeps {z : State} (s : State) (l : ℕ) (h : Keeps z s) : Keeps z (State.bcreset s l) := by
  unfold State.bcreset
  repeat' first
    | with_reducible assumption | (intro x; first | (refine Keeps.named (z := z) (s := x) ?_ ?_; focus subst x) | skip)
    | with_reducible apply State.linkUpd_keeps | with_reducible apply State.closeBlock_keeps | with_reducible apply State.setCsr_keeps
    | with_reducible apply State.setPair_keeps | split | lift_lets | with_reducible refine Keeps.of_fst (by assumption) ?_
    | with_reducible refine Keeps.of_snd (by assumption) ?_ | with_reducible refine Keeps.lit ?_ rfl rfl

theorem State.writeSccmd_keeps {z : State} (s : State) (v : Word) (h : Keeps z s) : Keeps z (State.writeSccmd s v) := by
  unfold State.writeSccmd
  repeat' first
    | with_reducible assumption | (intro x; first | (refine Keeps.named (z := z) (s := x) ?_ ?_; focus subst x) | skip)
    | with_reducible apply State.setB_keeps | lift_lets | split | with_reducible refine Keeps.lit ?_ rfl rfl

theorem State.scRsp_keeps {z : State} (s : State) (l : ℕ) (payload : ℕ) (h : Keeps z s) : Keeps z (State.scRsp s l payload) := by
  unfold State.scRsp
  repeat' first
    | with_reducible assumption | (intro x; first | (refine Keeps.named (z := z) (s := x) ?_ ?_; focus subst x) | skip)
    | with_reducible apply State.incF_keeps | with_reducible apply State.scEnd_keeps | lift_lets | split
    | with_reducible refine Keeps.of_fst (by assumption) ?_ | with_reducible refine Keeps.of_snd (by assumption) ?_

theorem State.scTimeout_keeps {z : State} (s : State) (h : Keeps z s) : Keeps z (State.scTimeout s) := by
  unfold State.scTimeout
  repeat' first
    | with_reducible assumption | with_reducible apply State.scEnd_keeps | split | with_reducible refine Keeps.of_fst (by assumption) ?_
    | with_reducible refine Keeps.of_snd (by assumption) ?_

theorem State.patrolStart_keeps {z : State} (s : State) (h : Keeps z s) : Keeps z (State.patrolStart s) := by
  unfold State.patrolStart
  extract_lets sec ls fe s1
  have h1 : Keeps z s1 := Keeps.lit h rfl rfl
  split
  · exact h
  · generalize ls = q
    cases q with
    | nil => exact h1
    | cons l _ => exact State.probeStart_keeps _ _ h1

theorem State.echo_keeps {z : State} (s : State) (l : ℕ) (arg : ℕ) (n : ℕ) (h : Keeps z s) : Keeps z (State.echo s l arg n) := by
  unfold State.echo
  repeat' first
    | with_reducible assumption
    | (intro x; first | (refine Keeps.named (z := z) (s := x) ?_ ?_; focus subst x) | (refine Keeps.named (z := z) (s := x.1) ?_ ?_; focus subst x) | (refine Keeps.named (z := z) (s := x.2) ?_ ?_; focus subst x) | skip)
    | with_reducible apply State.tdcEdge_keeps | with_reducible apply State.linkUpd_keeps | lift_lets | split
    | with_reducible refine Keeps.of_fst (by assumption) ?_ | with_reducible refine Keeps.of_snd (by assumption) ?_
    | with_reducible refine Keeps.lit ?_ rfl rfl

theorem State.patrolEval_keeps {z : State} (s : State) (l : ℕ) (p : ProbeRun) (h : Keeps z s) : Keeps z (State.patrolEval s l p) := by
  unfold State.patrolEval
  repeat' first
    | with_reducible assumption
    | (intro x; first | (refine Keeps.named (z := z) (s := x) ?_ ?_; focus subst x) | (refine Keeps.named (z := z) (s := x.1) ?_ ?_; focus subst x) | (refine Keeps.named (z := z) (s := x.2) ?_ ?_; focus subst x) | skip)
    | with_reducible apply State.linkUpd_keeps | with_reducible apply State.equalise_keeps | with_reducible apply State.linkAlarm_keeps
    | with_reducible apply State.setB_keeps | with_reducible apply State.result_keeps | with_reducible apply State.setCsr_keeps
    | with_reducible apply State.closeBlock_keeps | with_reducible apply State.setLstate_keeps | with_reducible apply State.fastCmd_keeps
    | with_reducible apply Keeps.cond | with_reducible apply Keeps.foldl | with_reducible apply Keeps.foldl_fst
    | with_reducible apply Keeps.foldl_snd | lift_lets | split | with_reducible refine Keeps.lit ?_ rfl rfl

theorem State.patrolDone_keeps {z : State} (s : State) (l : ℕ) (h : Keeps z s) : Keeps z (State.patrolDone s l) := by
  unfold State.patrolDone
  repeat' first
    | with_reducible assumption | with_reducible apply State.patrolNext_keeps | with_reducible apply State.patrolEval_keeps | split
    | with_reducible refine Keeps.of_fst (by assumption) ?_ | with_reducible refine Keeps.of_snd (by assumption) ?_

theorem State.feStatus_keeps {z : State} (s : State) (l : ℕ) (payload : ℕ) (h : Keeps z s) : Keeps z (State.feStatus s l payload) := by
  unfold State.feStatus
  repeat' first
    | with_reducible assumption | (intro x; first | (refine Keeps.named (z := z) (s := x) ?_ ?_; focus subst x) | skip)
    | with_reducible apply State.linkUpd_keeps | with_reducible refine Keeps.lit ?_ rfl rfl

theorem State.fifoDrained_keeps {z : State} (s : State) (l : ℕ) (h : Keeps z s) : Keeps z (State.fifoDrained s l) := by
  unfold State.fifoDrained
  repeat' first
    | with_reducible assumption
    | (intro x; first | (refine Keeps.named (z := z) (s := x) ?_ ?_; focus subst x) | (refine Keeps.named (z := z) (s := x.1) ?_ ?_; focus subst x) | (refine Keeps.named (z := z) (s := x.2) ?_ ?_; focus subst x) | skip)
    | with_reducible apply State.fastCmd_keeps | with_reducible apply State.linkUpd_keeps | split | with_reducible refine Keeps.lit ?_ rfl rfl

end Sys2Proof.Machine
end

