-- ==== Sys2Proof/Laws/Kept/Read.lean ====
section
/-! SUPPORT. What every function of Machine/Read.lean keeps (Laws/Keep.lean). -/

set_option linter.unusedTactic false
set_option linter.unreachableTactic false

namespace Sys2Proof.Machine

theorem State.readHit_keeps {z : State} (s : State) (b : HitRead) (h0 : HitEntry) (h : Keeps z s) : Keeps z (State.readHit s b h0) := by
  unfold State.readHit
  repeat' first
    | with_reducible assumption | (intro x; first | (refine Keeps.named (z := z) (s := x) ?_ ?_; focus subst x) | skip)
    | with_reducible apply State.inc_keeps | with_reducible apply Keeps.cond | lift_lets | split | with_reducible refine Keeps.lit ?_ rfl rfl

theorem State.evbSyncLink_keeps {z : State} (s : State) (l : ℕ) (h : Keeps z s) : Keeps z (State.evbSyncLink s l) := by
  unfold State.evbSyncLink
  repeat' first
    | with_reducible assumption | (intro x; first | (refine Keeps.named (z := z) (s := x) ?_ ?_; focus subst x) | skip)
    | with_reducible apply State.inc_keeps | with_reducible apply State.readHit_keeps | with_reducible apply Keeps.cond
    | with_reducible apply Keeps.foldl | lift_lets | split | with_reducible refine Keeps.lit ?_ rfl rfl

theorem State.evbSync_keeps {z : State} (s : State) (h : Keeps z s) : Keeps z (State.evbSync s) := by
  unfold State.evbSync
  repeat' first
    | with_reducible assumption | (intro x; first | (refine Keeps.named (z := z) (s := x) ?_ ?_; focus subst x) | skip)
    | with_reducible apply State.evbSyncLink_keeps | with_reducible apply Keeps.foldl

theorem State.evbEnable_keeps {z : State} (s : State) (h : Keeps z s) : Keeps z (State.evbEnable s) := by
  unfold State.evbEnable
  repeat' first
    | with_reducible assumption | (intro x; first | (refine Keeps.named (z := z) (s := x) ?_ ?_; focus subst x) | skip)
    | with_reducible apply State.evbSync_keeps | split | with_reducible refine Keeps.lit ?_ rfl rfl

theorem State.evbRestart_keeps {z : State} (s : State) (l : ℕ) (h : Keeps z s) : Keeps z (State.evbRestart s l) := by
  unfold State.evbRestart
  repeat' first
    | with_reducible assumption | (intro x; first | (refine Keeps.named (z := z) (s := x) ?_ ?_; focus subst x) | skip) | lift_lets | split
    | with_reducible refine Keeps.lit ?_ rfl rfl

theorem State.evbOpen_keeps {z : State} (s0 : State) (c : ℕ) (t : ℤ) (num : ℕ) (epoch : ℕ) (keyed : Bool) (h : Keeps z s0) :
    Keeps z (State.evbOpen s0 c t num epoch keyed) := by
  unfold State.evbOpen
  repeat' first
    | with_reducible assumption | (intro x; first | (refine Keeps.named (z := z) (s := x) ?_ ?_; focus subst x) | skip)
    | with_reducible apply State.evbSync_keeps | with_reducible apply State.inc_keeps | lift_lets | split
    | with_reducible refine Keeps.lit ?_ rfl rfl

end Sys2Proof.Machine
end

