-- ==== Sys2Proof/Laws/Kept/Trg.lean ====
section
/-! SUPPORT. What every function of Machine/Trg.lean keeps (Laws/Keep.lean). -/

set_option linter.unusedTactic false
set_option linter.unreachableTactic false

namespace Sys2Proof.Machine

theorem State.outEvent_keeps {z : State} (s : State) (src : ℕ) (t : ℤ) (h : Keeps z s) : Keeps z (State.outEvent s src t) := by
  unfold State.outEvent
  repeat' first
    | with_reducible assumption | (intro x; first | (refine Keeps.named (z := z) (s := x) ?_ ?_; focus subst x) | skip)
    | with_reducible apply Keeps.foldl | lift_lets | split | with_reducible refine Keeps.lit ?_ rfl rfl

theorem State.outFire_keeps {z : State} (s : State) (i : ℕ) (t : ℕ) (mode1 : Bool) (h : Keeps z s) : Keeps z (State.outFire s i t mode1) := by
  unfold State.outFire
  repeat' first
    | with_reducible assumption | (intro x; first | (refine Keeps.named (z := z) (s := x) ?_ ?_; focus subst x) | skip)
    | with_reducible apply State.inc_keeps | with_reducible apply Keeps.cond | lift_lets | split | with_reducible refine Keeps.lit ?_ rfl rfl

theorem State.outEdge_keeps {z : State} (s : State) (i : ℕ) (h : Keeps z s) : Keeps z (State.outEdge s i) := by
  unfold State.outEdge
  repeat' first
    | with_reducible assumption
    | (intro x; first | (refine Keeps.named (z := z) (s := x) ?_ ?_; focus subst x) | (refine Keeps.named (z := z) (s := x.1) ?_ ?_; focus subst x) | (refine Keeps.named (z := z) (s := x.2) ?_ ?_; focus subst x) | skip)
    | with_reducible apply State.outFire_keeps | lift_lets | split | with_reducible refine Keeps.of_fst (by assumption) ?_
    | with_reducible refine Keeps.of_snd (by assumption) ?_ | with_reducible refine Keeps.lit ?_ rfl rfl

theorem State.outPulseEnd_keeps {z : State} (s : State) (i : ℕ) (h : Keeps z s) : Keeps z (State.outPulseEnd s i) := by
  unfold State.outPulseEnd
  repeat' first
    | with_reducible assumption | (intro x; first | (refine Keeps.named (z := z) (s := x) ?_ ?_; focus subst x) | skip) | split
    | with_reducible refine Keeps.of_fst (by assumption) ?_ | with_reducible refine Keeps.of_snd (by assumption) ?_
    | with_reducible refine Keeps.lit ?_ rfl rfl

theorem State.writeOutclr_keeps {z : State} (s : State) (v : Word) (h : Keeps z s) : Keeps z (State.writeOutclr s v) := by
  unfold State.writeOutclr
  repeat' first
    | with_reducible assumption | (intro x; first | (refine Keeps.named (z := z) (s := x) ?_ ?_; focus subst x) | skip)
    | with_reducible apply State.outFire_keeps | with_reducible apply Keeps.foldl | lift_lets | split
    | with_reducible refine Keeps.lit ?_ rfl rfl

theorem State.condEvent_keeps {z : State} (s : State) (k : ℕ) (idx : ℕ) (chan : ℕ) (t : ℤ) (coarse : Bool) (h : Keeps z s) :
    Keeps z (State.condEvent s k idx chan t coarse) := by
  unfold State.condEvent
  repeat' first
    | with_reducible assumption | (intro x; first | (refine Keeps.named (z := z) (s := x) ?_ ?_; focus subst x) | skip)
    | with_reducible apply State.inc_keeps | with_reducible apply State.outEvent_keeps | lift_lets | with_reducible refine Keeps.lit ?_ rfl rfl

theorem State.spanOpen_keeps {z : State} (s : State) (k : ℕ) (key : ℕ) (t : ℤ) (h : Keeps z s) : Keeps z (State.spanOpen s k key t) := by
  unfold State.spanOpen
  repeat' first
    | with_reducible assumption | with_reducible refine Keeps.lit ?_ rfl rfl

theorem State.spanClose_keeps {z : State} (s : State) (k : ℕ) (key : ℕ) (t : ℤ) (h : Keeps z s) : Keeps z (State.spanClose s k key t) := by
  unfold State.spanClose
  repeat' first
    | with_reducible assumption | (intro x; first | (refine Keeps.named (z := z) (s := x) ?_ ?_; focus subst x) | skip) | split
    | with_reducible refine Keeps.lit ?_ rfl rfl

theorem State.setCondChan_keeps {z : State} (s : State) (c : CondChan) (h : Keeps z s) : Keeps z (State.setCondChan s c) := by
  unfold State.setCondChan
  repeat' first
    | with_reducible assumption | (intro x; first | (refine Keeps.named (z := z) (s := x) ?_ ?_; focus subst x) | skip)
    | with_reducible refine Keeps.lit ?_ rfl rfl

theorem State.crossing_keeps {z : State} (s : State) (k : ℕ) (idx : ℕ) (chan : ℕ) (coarse : Bool) (hi : Bool) (up : Bool) (t : ℤ) (h : Keeps z s)
    :
    Keeps z (State.crossing s k idx chan coarse hi up t) := by
  unfold State.crossing
  repeat' first
    | with_reducible assumption | (intro x; first | (refine Keeps.named (z := z) (s := x) ?_ ?_; focus subst x) | skip)
    | with_reducible apply State.condEvent_keeps | with_reducible apply State.spanOpen_keeps | with_reducible apply State.setCondChan_keeps
    | with_reducible apply State.spanClose_keeps | with_reducible apply Keeps.cond | lift_lets | split
    | with_reducible refine Keeps.of_fst (by assumption) ?_ | with_reducible refine Keeps.of_snd (by assumption) ?_
    | with_reducible refine Keeps.lit ?_ rfl rfl

theorem State.condSample_keeps {z : State} (s : State) (k : ℕ) (idx : ℕ) (chan : ℕ) (t : ℤ) (x0 : ℚ) (coarse : Bool) (h : Keeps z s) :
    Keeps z (State.condSample s k idx chan t x0 coarse) := by
  unfold State.condSample
  repeat' first
    | with_reducible assumption | (intro x; first | (refine Keeps.named (z := z) (s := x) ?_ ?_; focus subst x) | skip)
    | with_reducible apply State.setCondChan_keeps | with_reducible apply State.condEvent_keeps | with_reducible apply State.crossing_keeps
    | with_reducible apply Keeps.cond | lift_lets | split | with_reducible refine Keeps.of_fst (by assumption) ?_
    | with_reducible refine Keeps.of_snd (by assumption) ?_ | with_reducible refine Keeps.lit ?_ rfl rfl

theorem State.condDas_keeps {z : State} (s : State) (k : ℕ) (h : Keeps z s) : Keeps z (State.condDas s k) := by
  unfold State.condDas
  repeat' first
    | with_reducible assumption | (intro x; first | (refine Keeps.named (z := z) (s := x) ?_ ?_; focus subst x) | skip)
    | with_reducible apply State.condSample_keeps | lift_lets | split | with_reducible refine Keeps.of_fst (by assumption) ?_
    | with_reducible refine Keeps.of_snd (by assumption) ?_ | with_reducible refine Keeps.lit ?_ rfl rfl

theorem State.condTimeout_keeps {z : State} (s : State) (k : ℕ) (h : Keeps z s) : Keeps z (State.condTimeout s k) := by
  unfold State.condTimeout
  repeat' first
    | with_reducible assumption | (intro x; first | (refine Keeps.named (z := z) (s := x) ?_ ?_; focus subst x) | skip)
    | with_reducible apply State.setCondChan_keeps | with_reducible apply State.condEvent_keeps | lift_lets | split
    | with_reducible refine Keeps.lit ?_ rfl rfl

theorem State.condFeed_keeps {z : State} (s : State) (src : ℕ) (sel : ℕ) (chan : ℕ) (t : ℤ) (x : ℤ) (coarse : Bool) (h : Keeps z s) :
    Keeps z (State.condFeed s src sel chan t x coarse) := by
  unfold State.condFeed
  repeat' first
    | with_reducible assumption | (intro x; first | (refine Keeps.named (z := z) (s := x) ?_ ?_; focus subst x) | skip)
    | with_reducible apply State.condSample_keeps | with_reducible apply Keeps.cond | with_reducible apply Keeps.foldl

theorem State.hpHit_keeps {z : State} (s : State) (h0 : Hit) (h : Keeps z s) : Keeps z (State.hpHit s h0) := by
  unfold State.hpHit
  repeat' first
    | with_reducible assumption | (intro x; first | (refine Keeps.named (z := z) (s := x) ?_ ?_; focus subst x) | skip)
    | with_reducible apply State.inc_keeps | lift_lets | split | with_reducible refine Keeps.lit ?_ rfl rfl

theorem State.hpChange_keeps {z : State} (s : State) (p : ℕ) (old : ℕ) (chan : ℕ) (t : ℤ) (h : Keeps z s) :
    Keeps z (State.hpChange s p old chan t) := by
  unfold State.hpChange
  repeat' first
    | with_reducible assumption | (intro x; first | (refine Keeps.named (z := z) (s := x) ?_ ?_; focus subst x) | skip)
    | with_reducible apply State.setCsr_keeps | with_reducible apply State.condFeed_keeps | lift_lets | split

theorem State.hpTake_keeps {z : State} (s : State) (p : ℕ) (h : Keeps z s) : Keeps z (State.hpTake s p) := by
  unfold State.hpTake
  repeat' first
    | with_reducible assumption
    | (intro x; first | (refine Keeps.named (z := z) (s := x) ?_ ?_; focus subst x) | (refine Keeps.named (z := z) (s := x.1) ?_ ?_; focus subst x) | (refine Keeps.named (z := z) (s := x.2) ?_ ?_; focus subst x) | skip)
    | with_reducible apply State.hpChange_keeps | lift_lets | split | with_reducible refine Keeps.of_fst (by assumption) ?_
    | with_reducible refine Keeps.of_snd (by assumption) ?_ | with_reducible refine Keeps.lit ?_ rfl rfl

theorem State.hpExpire_keeps {z : State} (s : State) (p : ℕ) (h : Keeps z s) : Keeps z (State.hpExpire s p) := by
  unfold State.hpExpire
  repeat' first
    | with_reducible assumption
    | (intro x; first | (refine Keeps.named (z := z) (s := x) ?_ ?_; focus subst x) | (refine Keeps.named (z := z) (s := x.1) ?_ ?_; focus subst x) | (refine Keeps.named (z := z) (s := x.2) ?_ ?_; focus subst x) | skip)
    | with_reducible apply State.hpChange_keeps | lift_lets | split | with_reducible refine Keeps.of_fst (by assumption) ?_
    | with_reducible refine Keeps.of_snd (by assumption) ?_ | with_reducible refine Keeps.lit ?_ rfl rfl

theorem State.trigEdge_keeps {z : State} (s : State) (i : ℕ) (rising : Bool) (coarse : Bool) (t : ℤ) (h : Keeps z s) :
    Keeps z (State.trigEdge s i rising coarse t) := by
  unfold State.trigEdge
  repeat' first
    | with_reducible assumption | (intro x; first | (refine Keeps.named (z := z) (s := x) ?_ ?_; focus subst x) | skip)
    | with_reducible apply State.condFeed_keeps | with_reducible apply State.ringPut_keeps | split | with_reducible refine Keeps.lit ?_ rfl rfl

theorem State.trigIn_keeps {z : State} (s : State) (i : ℕ) (rising : Bool) (short : Bool) (n : ℕ) (h : Keeps z s) :
    Keeps z (State.trigIn s i rising short n) := by
  unfold State.trigIn
  repeat' first
    | with_reducible assumption
    | (intro x; first | (refine Keeps.named (z := z) (s := x) ?_ ?_; focus subst x) | (refine Keeps.named (z := z) (s := x.1) ?_ ?_; focus subst x) | (refine Keeps.named (z := z) (s := x.2) ?_ ?_; focus subst x) | skip)
    | with_reducible apply State.tdcEdge_keeps | with_reducible apply State.trigEdge_keeps | with_reducible apply Keeps.cond | lift_lets | split

theorem State.trgArm_keeps {z : State} (s : State) (h : Keeps z s) : Keeps z (State.trgArm s) := by
  unfold State.trgArm
  repeat' first
    | with_reducible assumption | (intro x; first | (refine Keeps.named (z := z) (s := x) ?_ ?_; focus subst x) | skip)
    | with_reducible apply State.setB_keeps | with_reducible apply State.setF_keeps | with_reducible apply State.setCsr_keeps
    | with_reducible apply State.setPair_keeps | with_reducible apply Keeps.cond | with_reducible apply Keeps.foldl | lift_lets | split
    | with_reducible refine Keeps.of_fst (by assumption) ?_ | with_reducible refine Keeps.of_snd (by assumption) ?_
    | with_reducible refine Keeps.lit ?_ rfl rfl

theorem State.missed_keeps {z : State} (s : State) (c : ℕ) (cause : ℕ) (t : ℤ) (h : Keeps z s) : Keeps z (State.missed s c cause t) := by
  unfold State.missed
  repeat' first
    | with_reducible assumption | (intro x; first | (refine Keeps.named (z := z) (s := x) ?_ ?_; focus subst x) | skip)
    | with_reducible apply State.bump_keeps | with_reducible apply State.inc_keeps | with_reducible apply State.log_keeps
    | with_reducible apply Keeps.cond | lift_lets | split | with_reducible refine Keeps.lit ?_ rfl rfl

theorem State.accept_keeps {z : State} (s : State) (x : Cand) (num : ℕ) (epoch : ℕ) (fab : Bool) (h : Keeps z s) :
    Keeps z (State.accept s x num epoch fab) := by
  unfold State.accept
  repeat' first
    | with_reducible assumption
    | (intro x; first | (refine Keeps.named (z := z) (s := x) ?_ ?_; focus subst x) | (refine Keeps.named (z := z) (s := x.1) ?_ ?_; focus subst x) | (refine Keeps.named (z := z) (s := x.2) ?_ ?_; focus subst x) | skip)
    | with_reducible apply State.fastCmd_keeps | with_reducible apply State.missed_keeps | with_reducible apply State.bump_keeps
    | with_reducible apply State.incMod_keeps | with_reducible apply State.setB_keeps | with_reducible apply State.momentary_keeps
    | with_reducible apply State.hkTrigger_keeps | with_reducible apply State.evbOpen_keeps | with_reducible apply State.outEvent_keeps
    | with_reducible apply Keeps.cond | with_reducible apply Keeps.foldl | with_reducible apply Keeps.foldl_fst
    | with_reducible apply Keeps.foldl_snd | lift_lets | split | with_reducible refine Keeps.lit ?_ rfl rfl

theorem State.decideLocal_keeps {z : State} (s : State) (x : Cand) (h : Keeps z s) : Keeps z (State.decideLocal s x) := by
  unfold State.decideLocal
  repeat' first
    | with_reducible assumption | (intro x; first | (refine Keeps.named (z := z) (s := x) ?_ ?_; focus subst x) | skip)
    | with_reducible apply State.missed_keeps | with_reducible apply State.accept_keeps | with_reducible apply State.incMod_keeps | lift_lets
    | split | with_reducible refine Keeps.of_fst (by assumption) ?_ | with_reducible refine Keeps.of_snd (by assumption) ?_
    | with_reducible refine Keeps.lit ?_ rfl rfl

theorem State.askDecider_keeps {z : State} (s : State) (x : Cand) (h : Keeps z s) : Keeps z (State.askDecider s x) := by
  unfold State.askDecider
  repeat' first
    | with_reducible assumption | (intro x; first | (refine Keeps.named (z := z) (s := x) ?_ ?_; focus subst x) | skip)
    | with_reducible apply State.send_keeps | lift_lets | split | with_reducible refine Keeps.of_fst (by assumption) ?_
    | with_reducible refine Keeps.of_snd (by assumption) ?_ | with_reducible refine Keeps.lit ?_ rfl rfl

theorem State.trgSettle_keeps {z : State} (s : State) (h : Keeps z s) : Keeps z (State.trgSettle s) := by
  unfold State.trgSettle
  repeat' first
    | with_reducible assumption | (intro x; first | (refine Keeps.named (z := z) (s := x) ?_ ?_; focus subst x) | skip)
    | with_reducible apply State.setB_keeps | lift_lets | split | with_reducible refine Keeps.of_fst (by assumption) ?_
    | with_reducible refine Keeps.of_snd (by assumption) ?_ | with_reducible refine Keeps.lit ?_ rfl rfl

theorem State.trgStop_keeps {z : State} (s : State) (h : Keeps z s) : Keeps z (State.trgStop s) := by
  unfold State.trgStop
  repeat' first
    | with_reducible assumption | with_reducible apply State.trgSettle_keeps | split | with_reducible refine Keeps.lit ?_ rfl rfl

theorem State.writeTrgArm_keeps {z : State} (s : State) (v : Word) (h : Keeps z s) : Keeps z (State.writeTrgArm s v) := by
  unfold State.writeTrgArm
  repeat' first
    | with_reducible assumption | (intro x; first | (refine Keeps.named (z := z) (s := x) ?_ ?_; focus subst x) | skip)
    | with_reducible apply State.trgStop_keeps | with_reducible apply State.trgArm_keeps | with_reducible apply Keeps.cond | lift_lets

theorem State.classDecide_keeps {z : State} (s : State) (c : ℕ) (h : Keeps z s) : Keeps z (State.classDecide s c) := by
  unfold State.classDecide
  repeat' first
    | with_reducible assumption | (intro x; first | (refine Keeps.named (z := z) (s := x) ?_ ?_; focus subst x) | skip)
    | with_reducible apply State.trgSettle_keeps | with_reducible apply State.inc_keeps | with_reducible apply State.askDecider_keeps
    | with_reducible apply State.decideLocal_keeps | lift_lets | split | with_reducible refine Keeps.of_fst (by assumption) ?_
    | with_reducible refine Keeps.of_snd (by assumption) ?_ | with_reducible refine Keeps.lit ?_ rfl rfl

theorem State.segToEvb_keeps {z : State} (s : State) (g : Seg) (items : List RingItem) (flags : ℕ) (h : Keeps z s) :
    Keeps z (State.segToEvb s g items flags) := by
  unfold State.segToEvb
  repeat' first
    | with_reducible assumption | (intro x; first | (refine Keeps.named (z := z) (s := x) ?_ ?_; focus subst x) | skip) | split
    | with_reducible refine Keeps.lit ?_ rfl rfl

theorem State.segCopy_keeps {z : State} (s0 : State) (c : ℕ) (h : Keeps z s0) : Keeps z (State.segCopy s0 c) := by
  unfold State.segCopy
  repeat' first
    | with_reducible assumption
    | (intro x; first | (refine Keeps.named (z := z) (s := x) ?_ ?_; focus subst x) | (refine Keeps.named (z := z) (s := x.1) ?_ ?_; focus subst x) | (refine Keeps.named (z := z) (s := x.2) ?_ ?_; focus subst x) | skip)
    | with_reducible apply State.ringDrain_keeps | with_reducible apply State.trgSettle_keeps | with_reducible apply State.segToEvb_keeps
    | with_reducible apply State.publishAll_keeps | with_reducible apply State.dropRec_keeps | with_reducible apply State.bump_keeps
    | with_reducible apply Keeps.foldl | with_reducible apply Keeps.foldl_fst | with_reducible apply Keeps.foldl_snd | lift_lets | split
    | with_reducible refine Keeps.of_fst (by assumption) ?_ | with_reducible refine Keeps.of_snd (by assumption) ?_
    | with_reducible refine Keeps.lit ?_ rfl rfl

theorem State.segEmit_keeps {z : State} (s : State) (g : Seg) (items : List RingItem) (recs : List Rec) (n : ℕ) (last : Bool) (trunc : Bool) (upTo
    : ℤ) (lost : ℕ) (flags : ℕ) (h : Keeps z s) :
    Keeps z (State.segEmit s g items recs n last trunc upTo lost flags) := by
  unfold State.segEmit
  repeat' first
    | with_reducible assumption | (intro x; first | (refine Keeps.named (z := z) (s := x) ?_ ?_; focus subst x) | skip)
    | with_reducible apply State.publish_keeps | with_reducible apply State.segToEvb_keeps | with_reducible apply State.trgSettle_keeps
    | with_reducible apply State.bump_keeps | with_reducible apply Keeps.cond | with_reducible apply Keeps.foldl | lift_lets | split
    | with_reducible refine Keeps.lit ?_ rfl rfl

theorem State.segPart_keeps {z : State} (s0 : State) (c : ℕ) (h : Keeps z s0) : Keeps z (State.segPart s0 c) := by
  unfold State.segPart
  repeat' first
    | with_reducible assumption | intro _ | with_reducible apply State.ringDrain_keeps | with_reducible apply State.trgSettle_keeps
    | with_reducible apply State.segEmit_keeps | with_reducible apply Keeps.ite | extract_lets | split
    | with_reducible refine Keeps.of_fst (by assumption) ?_ | with_reducible refine Keeps.of_snd (by assumption) ?_
    | with_reducible refine Keeps.lit ?_ rfl rfl | (dsimp -zeta +zetaDelta only; split)

theorem State.writeTrgCtl_keeps {z : State} (s : State) (v : Word) (h : Keeps z s) : Keeps z (State.writeTrgCtl s v) := by
  unfold State.writeTrgCtl
  repeat' first
    | with_reducible assumption | (intro x; first | (refine Keeps.named (z := z) (s := x) ?_ ?_; focus subst x) | skip)
    | with_reducible apply State.setB_keeps | with_reducible apply State.writeReg_keeps | with_reducible apply Keeps.cond

theorem State.writeTrgSize_keeps {z : State} (s : State) (a : ℕ) (v : Word) (h : Keeps z s) : Keeps z (State.writeTrgSize s a v) := by
  unfold State.writeTrgSize
  repeat' first
    | with_reducible assumption | (intro x; first | (refine Keeps.named (z := z) (s := x) ?_ ?_; focus subst x) | skip)
    | with_reducible apply State.setB_keeps | with_reducible apply State.writeReg_keeps | with_reducible apply Keeps.cond

end Sys2Proof.Machine
end

