-- ==== Sys2Proof/Laws/Kept/Evb.lean ====
section
/-! SUPPORT. What every function of Machine/Evb.lean keeps (Laws/Keep.lean). -/

set_option linter.unusedTactic false
set_option linter.unreachableTactic false

namespace Sys2Proof.Machine

theorem State.evbAdvance_keeps {z : State} (s0 : State) (l : ℕ) (h : Keeps z s0) : Keeps z (State.evbAdvance s0 l) := by
  unfold State.evbAdvance
  repeat' first
    | with_reducible assumption | (intro x; first | (refine Keeps.named (z := z) (s := x) ?_ ?_; focus subst x) | skip)
    | with_reducible apply State.evbSyncLink_keeps | with_reducible apply State.dequeue_keeps | with_reducible apply Keeps.foldl | lift_lets
    | split | with_reducible refine Keeps.of_fst (by assumption) ?_ | with_reducible refine Keeps.of_snd (by assumption) ?_
    | with_reducible refine Keeps.lit ?_ rfl rfl

theorem State.owe_keeps {z : State} (s : State) (l : List OwedCredit) (h : Keeps z s) : Keeps z (State.owe s l).1 := by
  unfold State.owe
  repeat' first
    | with_reducible assumption | (intro x; first | (refine Keeps.named (z := z) (s := x) ?_ ?_; focus subst x) | skip)
    | with_reducible refine Keeps.lit ?_ rfl rfl

theorem State.publishWhole_keeps {z : State} (s : State) (q : ℕ) (key : ℕ) (rs : List Rec) (h : Keeps z s) :
    Keeps z (State.publishWhole s q key rs) := by
  unfold State.publishWhole
  repeat' first
    | with_reducible assumption | (intro x; first | (refine Keeps.named (z := z) (s := x) ?_ ?_; focus subst x) | skip)
    | with_reducible apply State.publishAll_keeps | with_reducible apply State.dropRec_keeps | with_reducible apply Keeps.foldl | split

theorem State.stragOwed_keeps {z : State} (s : State) (role : ℕ) (w : List ℕ) (h : Keeps z s) : Keeps z (State.stragOwed s role w).1 := by
  unfold State.stragOwed
  repeat' first
    | with_reducible assumption
    | (intro x; first | (refine Keeps.named (z := z) (s := x) ?_ ?_; focus subst x) | (refine Keeps.named (z := z) (s := x.1) ?_ ?_; focus subst x) | (refine Keeps.named (z := z) (s := x.2) ?_ ?_; focus subst x) | skip)
    | with_reducible apply Keeps.foldl | with_reducible apply Keeps.foldl_fst | with_reducible apply Keeps.foldl_snd | lift_lets | split
    | with_reducible refine Keeps.lit ?_ rfl rfl

theorem State.stragglerOf_keeps {z : State} (s : State) (role : ℕ) (w : List ℕ) (ev : Option ClosedEvent) (h : Keeps z s) :
    Keeps z (State.stragglerOf s role w ev) := by
  unfold State.stragglerOf
  repeat' first
    | with_reducible assumption
    | (intro x; first | (refine Keeps.named (z := z) (s := x) ?_ ?_; focus subst x) | (refine Keeps.named (z := z) (s := x.1) ?_ ?_; focus subst x) | (refine Keeps.named (z := z) (s := x.2) ?_ ?_; focus subst x) | skip)
    | with_reducible apply State.stragOwed_keeps | with_reducible apply State.owe_keeps | with_reducible apply State.publishWhole_keeps
    | lift_lets | split | with_reducible refine Keeps.of_fst (by assumption) ?_ | with_reducible refine Keeps.of_snd (by assumption) ?_
    | with_reducible refine Keeps.lit ?_ rfl rfl

theorem State.wholePut_keeps {z : State} (s : State) (r : Rec) (w : List ℕ) (o : ℕ) (h : Keeps z s) : Keeps z (State.wholePut s r w o) := by
  unfold State.wholePut
  repeat' first
    | with_reducible assumption | with_reducible apply State.publishEntry_keeps | with_reducible apply State.claimWait_keeps
    | with_reducible apply State.putWords_keeps

theorem State.postWhole_keeps {z : State} (s : State) (w : List Nat) (follow : Follow) (h : Keeps z s) :
    Keeps z (State.postWhole s w follow) := by
  unfold State.postWhole
  exact Keeps.elim _ (State.dropRec_keeps _ _ h) fun _ => State.wholePut_keeps _ _ _ _ h

theorem State.bldOpen_keeps {z : State} (s : State) (h : Keeps z s) : Keeps z (State.bldOpen s) := by
  unfold State.bldOpen
  repeat' first
    | with_reducible assumption | with_reducible apply State.setCsr_keeps | with_reducible refine Keeps.lit ?_ rfl rfl

theorem State.closeEvent_keeps {z : State} (s : State) (e : OpenEvent) (h : Keeps z s) : Keeps z (State.closeEvent s e) := by
  unfold State.closeEvent
  repeat' first
    | with_reducible assumption
    | (intro x; first | (refine Keeps.named (z := z) (s := x) ?_ ?_; focus subst x) | (refine Keeps.named (z := z) (s := x.1) ?_ ?_; focus subst x) | (refine Keeps.named (z := z) (s := x.2) ?_ ?_; focus subst x) | skip)
    | with_reducible apply State.owe_keeps | with_reducible apply State.inc_keeps | with_reducible apply State.publishWhole_keeps
    | with_reducible apply State.bldOpen_keeps | with_reducible apply Keeps.cond | lift_lets | with_reducible refine Keeps.lit ?_ rfl rfl

theorem State.openEvent_keeps {z : State} (s : State) (e : OpenEvent) (h : Keeps z s) : Keeps z (State.openEvent s e) := by
  unfold State.openEvent
  repeat' first
    | with_reducible assumption | (intro x; first | (refine Keeps.named (z := z) (s := x) ?_ ?_; focus subst x) | skip)
    | with_reducible apply State.closeEvent_keeps | with_reducible apply State.bldOpen_keeps | lift_lets | split
    | with_reducible refine Keeps.of_fst (by assumption) ?_ | with_reducible refine Keeps.of_snd (by assumption) ?_
    | with_reducible refine Keeps.lit ?_ rfl rfl

theorem State.touchEvent_keeps {z : State} (s : State) (e : OpenEvent) (e' : OpenEvent) (h : Keeps z s) : Keeps z (State.touchEvent s e e') := by
  unfold State.touchEvent
  repeat' first
    | with_reducible assumption | (intro x; first | (refine Keeps.named (z := z) (s := x) ?_ ?_; focus subst x) | skip)
    | with_reducible apply State.closeEvent_keeps | lift_lets | split | with_reducible refine Keeps.lit ?_ rfl rfl

theorem State.startEvent_keeps {z : State} (s : State) (e : OpenEvent) (h : Keeps z s) : Keeps z (State.startEvent s e) := by
  unfold State.startEvent
  repeat' first
    | with_reducible assumption | with_reducible apply State.closeEvent_keeps | with_reducible apply State.openEvent_keeps | split

theorem State.merge_keeps {z : State} (s : State) (role : ℕ) (w : List ℕ) (h : Keeps z s) : Keeps z (State.merge s role w) := by
  unfold State.merge
  repeat' first
    | with_reducible assumption | with_reducible apply State.touchEvent_keeps | with_reducible apply State.stragglerOf_keeps
    | with_reducible apply State.startEvent_keeps | split | with_reducible refine Keeps.of_fst (by assumption) ?_
    | with_reducible refine Keeps.of_snd (by assumption) ?_ | with_reducible refine Keeps.lit ?_ rfl rfl

theorem State.fragReceive_keeps {z : State} (s : State) (w : List Nat) (h : Keeps z s) : Keeps z (State.fragReceive s w) := by
  unfold State.fragReceive
  split
  · split
    · exact h
    · extract_lets x
      exact State.postWhole_keeps _ _ _ (State.owe_keeps _ _ h)
  · extract_lets role
    split
    · exact h
    · split
      · exact State.stragglerOf_keeps _ _ _ _ h
      · exact State.merge_keeps _ _ _ h

theorem State.build_keeps {z : State} (s : State) (epoch : ℕ) (num : ℕ) (stamp : ℕ) (devs : List ℕ) (h : Keeps z s) :
    Keeps z (State.build s epoch num stamp devs) := by
  unfold State.build
  repeat' first
    | with_reducible assumption | (intro x; first | (refine Keeps.named (z := z) (s := x) ?_ ?_; focus subst x) | skip)
    | with_reducible apply State.touchEvent_keeps | with_reducible apply State.startEvent_keeps | lift_lets | split
    | with_reducible refine Keeps.of_fst (by assumption) ?_ | with_reducible refine Keeps.of_snd (by assumption) ?_
    | with_reducible refine Keeps.lit ?_ rfl rfl

theorem State.eventTimeout_keeps {z : State} (s : State) (h : Keeps z s) : Keeps z (State.eventTimeout s) := by
  unfold State.eventTimeout
  repeat' first
    | with_reducible assumption | with_reducible apply State.closeEvent_keeps | split | with_reducible refine Keeps.of_fst (by assumption) ?_
    | with_reducible refine Keeps.of_snd (by assumption) ?_

theorem State.fragFree_keeps {z : State} (s : State) (h : Keeps z s) : Keeps z (State.fragFree s) := by
  unfold State.fragFree
  repeat' first
    | with_reducible assumption | (intro x; first | (refine Keeps.named (z := z) (s := x) ?_ ?_; focus subst x) | skip)
    | with_reducible apply State.dequeue_keeps | with_reducible apply Keeps.foldl | lift_lets | with_reducible refine Keeps.lit ?_ rfl rfl

theorem State.evbMerge_keeps {z : State} (s : State) (h : Keeps z s) : Keeps z (State.evbMerge s) := by
  unfold State.evbMerge
  repeat' first
    | with_reducible assumption | (intro x; first | (refine Keeps.named (z := z) (s := x) ?_ ?_; focus subst x) | skip)
    | with_reducible apply State.fragFree_keeps | with_reducible apply State.inc_keeps | with_reducible apply State.fragReceive_keeps
    | with_reducible apply Keeps.cond | with_reducible apply Keeps.foldl | lift_lets | split | with_reducible refine Keeps.lit ?_ rfl rfl

theorem State.fragDrop_keeps {z : State} (s : State) (h : Keeps z s) : Keeps z (State.fragDrop s) := by
  unfold State.fragDrop
  repeat' first
    | with_reducible assumption | (intro x; first | (refine Keeps.named (z := z) (s := x) ?_ ?_; focus subst x) | skip)
    | with_reducible apply State.alarm_keeps | with_reducible apply State.setB_keeps | with_reducible apply State.inc_keeps | lift_lets
    | with_reducible refine Keeps.lit ?_ rfl rfl

theorem State.keepFrag_keeps {z : State} (s : State) (role : ℕ) (fseq : ℕ) (n : ℕ) (zip : Bool) (h : Keeps z s) :
    Keeps z (State.keepFrag s role fseq n zip) := by
  unfold State.keepFrag
  repeat' first
    | with_reducible assumption | with_reducible refine Keeps.lit ?_ rfl rfl

theorem State.winCut_keeps {z : State} (s : State) (w : EvbWin) (h : Keeps z s) : Keeps z (State.winCut s w) := by
  unfold State.winCut
  repeat' first
    | with_reducible assumption | (intro x; first | (refine Keeps.named (z := z) (s := x) ?_ ?_; focus subst x) | skip)
    | with_reducible apply State.fragDrop_keeps | with_reducible apply State.keepFrag_keeps | with_reducible apply State.evbMerge_keeps
    | with_reducible apply State.publishAll_keeps | lift_lets | split | with_reducible refine Keeps.lit ?_ rfl rfl

theorem State.evbClose_keeps {z : State} (s0 : State) (h : Keeps z s0) : Keeps z (State.evbClose s0) := by
  unfold State.evbClose
  repeat' first
    | with_reducible assumption | (intro x; first | (refine Keeps.named (z := z) (s := x) ?_ ?_; focus subst x) | skip)
    | with_reducible apply State.evbSync_keeps | with_reducible apply State.winCut_keeps | with_reducible apply Keeps.foldl | lift_lets | split
    | with_reducible refine Keeps.of_fst (by assumption) ?_ | with_reducible refine Keeps.of_snd (by assumption) ?_
    | with_reducible refine Keeps.lit ?_ rfl rfl

theorem State.rewrite_keeps {z : State} (s : State) (p : FragPart) (addr : ℕ) (w : List ℕ) (h : Keeps z s) : Keeps z (State.rewrite s p addr w) := by
  unfold State.rewrite
  repeat' first
    | with_reducible assumption | (intro x; first | (refine Keeps.named (z := z) (s := x) ?_ ?_; focus subst x) | skip)
    | with_reducible apply State.putWords_keeps | lift_lets | split | with_reducible refine Keeps.lit ?_ rfl rfl

theorem State.zipDone_keeps {z : State} (s : State) (z0 : ZipPart) (body : Option (List ℕ)) (h : Keeps z s) : Keeps z (State.zipDone s z0 body) := by
  unfold State.zipDone
  repeat' first
    | with_reducible assumption | (intro x; first | (refine Keeps.named (z := z) (s := x) ?_ ?_; focus subst x) | skip)
    | with_reducible apply State.evbMerge_keeps | with_reducible apply State.rewrite_keeps | with_reducible apply State.evbWater_keeps
    | lift_lets | split | with_reducible refine Keeps.of_fst (by assumption) ?_ | with_reducible refine Keeps.of_snd (by assumption) ?_
    | with_reducible refine Keeps.lit ?_ rfl rfl

theorem State.stragglerPost_keeps {z : State} (s0 : State) (h : Keeps z s0) : Keeps z (State.stragglerPost s0) := by
  unfold State.stragglerPost
  repeat' first
    | with_reducible assumption | (intro x; first | (refine Keeps.named (z := z) (s := x) ?_ ?_; focus subst x) | skip)
    | with_reducible apply State.evbSync_keeps | with_reducible apply State.keepFrag_keeps | with_reducible apply State.publish_keeps
    | lift_lets | split | with_reducible refine Keeps.of_fst (by assumption) ?_ | with_reducible refine Keeps.of_snd (by assumption) ?_
    | with_reducible refine Keeps.lit ?_ rfl rfl

theorem State.fragSend_keeps {z : State} (s : State) (h : Keeps z s) : Keeps z (State.fragSend s) := by
  unfold State.fragSend
  repeat' first
    | with_reducible assumption | (intro x; first | (refine Keeps.named (z := z) (s := x) ?_ ?_; focus subst x) | skip)
    | with_reducible apply State.send_keeps | with_reducible apply State.inc_keeps | with_reducible apply Keeps.cond
    | with_reducible apply Keeps.foldl | lift_lets | split | with_reducible refine Keeps.of_fst (by assumption) ?_
    | with_reducible refine Keeps.of_snd (by assumption) ?_ | with_reducible refine Keeps.lit ?_ rfl rfl

theorem State.grant_keeps {z : State} (s : State) (bnum : ℕ) (bepoch : ℕ) (units : ℕ) (h : Keeps z s) :
    Keeps z (State.grant s bnum bepoch units) := by
  unfold State.grant
  repeat' first
    | with_reducible assumption | (intro x; first | (refine Keeps.named (z := z) (s := x) ?_ ?_; focus subst x) | skip)
    | with_reducible refine Keeps.lit ?_ rfl rfl

theorem State.credit_keeps {z : State} (s : State) (bnum : ℕ) (bepoch : ℕ) (units : ℕ) (fseq : ℕ) (h : Keeps z s) :
    Keeps z (State.credit s bnum bepoch units fseq) := by
  unfold State.credit
  repeat' first
    | with_reducible assumption | (intro x; first | (refine Keeps.named (z := z) (s := x) ?_ ?_; focus subst x) | skip)
    | with_reducible apply State.fragFree_keeps | lift_lets | split | with_reducible refine Keeps.of_fst (by assumption) ?_
    | with_reducible refine Keeps.of_snd (by assumption) ?_ | with_reducible refine Keeps.lit ?_ rfl rfl

theorem State.builderMoved_keeps {z : State} (s : State) (role : ℕ) (epoch : ℕ) (h : Keeps z s) : Keeps z (State.builderMoved s role epoch) := by
  unfold State.builderMoved
  repeat' first
    | with_reducible assumption | (intro x; first | (refine Keeps.named (z := z) (s := x) ?_ ?_; focus subst x) | skip) | lift_lets | split
    | with_reducible refine Keeps.lit ?_ rfl rfl

theorem State.builderTake_keeps {z : State} (s : State) (role : ℕ) (h : Keeps z s) : Keeps z (State.builderTake s role) := by
  unfold State.builderTake
  repeat' first
    | with_reducible assumption | (intro x; first | (refine Keeps.named (z := z) (s := x) ?_ ?_; focus subst x) | skip)
    | with_reducible apply State.send_keeps | with_reducible apply State.evbMerge_keeps | with_reducible apply State.bldOpen_keeps
    | with_reducible apply State.setB_keeps | with_reducible apply Keeps.foldl | lift_lets | split | with_reducible refine Keeps.lit ?_ rfl rfl

theorem State.builderLose_keeps {z : State} (s : State) (role : ℕ) (h : Keeps z s) : Keeps z (State.builderLose s role) := by
  unfold State.builderLose
  repeat' first
    | with_reducible assumption
    | (intro x; first | (refine Keeps.named (z := z) (s := x) ?_ ?_; focus subst x) | (refine Keeps.named (z := z) (s := x.1) ?_ ?_; focus subst x) | (refine Keeps.named (z := z) (s := x.2) ?_ ?_; focus subst x) | skip)
    | with_reducible apply State.bldOpen_keeps | with_reducible apply State.setB_keeps | lift_lets | split
    | with_reducible refine Keeps.of_fst (by assumption) ?_ | with_reducible refine Keeps.of_snd (by assumption) ?_
    | with_reducible refine Keeps.lit ?_ rfl rfl

theorem State.deciderTake_keeps {z : State} (s : State) (h : Keeps z s) : Keeps z (State.deciderTake s) := by
  unfold State.deciderTake
  repeat' first
    | with_reducible assumption | (intro x; first | (refine Keeps.named (z := z) (s := x) ?_ ?_; focus subst x) | skip)
    | with_reducible apply State.setB_keeps | with_reducible apply State.setCsr_keeps | lift_lets | with_reducible refine Keeps.lit ?_ rfl rfl

theorem State.deciderLose_keeps {z : State} (s : State) (h : Keeps z s) : Keeps z (State.deciderLose s) := by
  unfold State.deciderLose
  repeat' first
    | with_reducible assumption | with_reducible apply State.setB_keeps

theorem State.sendReject_keeps {z : State} (s : State) (x : DecCand) (cause : ℕ) (h : Keeps z s) : Keeps z (State.sendReject s x cause) := by
  unfold State.sendReject
  repeat' first
    | with_reducible assumption | with_reducible apply State.send_keeps

theorem State.cand_keeps {z : State} (s : State) (dev : ℕ) (c : ℕ) (stamp : ℕ) (cid : ℕ) (h : Keeps z s) :
    Keeps z (State.cand s dev c stamp cid) := by
  unfold State.cand
  repeat' first
    | with_reducible assumption | (intro x; first | (refine Keeps.named (z := z) (s := x) ?_ ?_; focus subst x) | skip)
    | with_reducible apply State.sendReject_keeps | with_reducible apply State.inc_keeps | lift_lets | split
    | with_reducible refine Keeps.of_fst (by assumption) ?_ | with_reducible refine Keeps.of_snd (by assumption) ?_
    | with_reducible refine Keeps.lit ?_ rfl rfl

theorem State.decBusyMsg_keeps {z : State} (s : State) (dev : ℕ) (busy : Bool) (h : Keeps z s) : Keeps z (State.decBusyMsg s dev busy) := by
  unfold State.decBusyMsg
  repeat' first
    | with_reducible assumption | (intro x; first | (refine Keeps.named (z := z) (s := x) ?_ ?_; focus subst x) | skip) | split
    | with_reducible refine Keeps.lit ?_ rfl rfl

theorem State.decDecide_keeps {z : State} (s : State) (h : Keeps z s) : Keeps z (State.decDecide s) := by
  unfold State.decDecide
  repeat' first
    | with_reducible assumption | intro _ | with_reducible apply State.sendReject_keeps | with_reducible apply State.inc_keeps
    | with_reducible apply State.incMod_keeps | with_reducible apply State.send_keeps | with_reducible apply Keeps.foldl
    | with_reducible apply Keeps.ite | extract_lets | split | with_reducible refine Keeps.of_fst (by assumption) ?_
    | with_reducible refine Keeps.of_snd (by assumption) ?_ | with_reducible refine Keeps.lit ?_ rfl rfl | (dsimp -zeta +zetaDelta only; split)

theorem State.acceptMsg_keeps {z : State} (s : State) (c : ℕ) (epoch : ℕ) (cid : ℕ) (stamp : ℕ) (num : ℕ) (h : Keeps z s) :
    Keeps z (State.acceptMsg s c epoch cid stamp num) := by
  unfold State.acceptMsg
  repeat' first
    | with_reducible assumption | (intro x; first | (refine Keeps.named (z := z) (s := x) ?_ ?_; focus subst x) | skip)
    | with_reducible apply State.trgSettle_keeps | with_reducible apply State.inc_keeps | with_reducible apply State.accept_keeps
    | with_reducible apply Keeps.cond | lift_lets | split | with_reducible refine Keeps.of_fst (by assumption) ?_
    | with_reducible refine Keeps.of_snd (by assumption) ?_ | with_reducible refine Keeps.lit ?_ rfl rfl

theorem State.rejectMsg_keeps {z : State} (s : State) (c : ℕ) (cid : ℕ) (h : Keeps z s) : Keeps z (State.rejectMsg s c cid) := by
  unfold State.rejectMsg
  repeat' first
    | with_reducible assumption | (intro x; first | (refine Keeps.named (z := z) (s := x) ?_ ?_; focus subst x) | skip)
    | with_reducible apply State.inc_keeps | with_reducible apply State.trgSettle_keeps | lift_lets | with_reducible refine Keeps.lit ?_ rfl rfl

theorem State.candTimeout_keeps {z : State} (s : State) (h : Keeps z s) : Keeps z (State.candTimeout s) := by
  unfold State.candTimeout
  repeat' first
    | with_reducible assumption | (intro x; first | (refine Keeps.named (z := z) (s := x) ?_ ?_; focus subst x) | skip)
    | with_reducible apply State.alarm_keeps | with_reducible apply State.inc_keeps | with_reducible apply State.trgSettle_keeps | lift_lets
    | split | with_reducible refine Keeps.of_fst (by assumption) ?_ | with_reducible refine Keeps.of_snd (by assumption) ?_
    | with_reducible refine Keeps.lit ?_ rfl rfl

theorem State.writeEvb_keeps {z : State} (s : State) (a : ℕ) (v : Word) (h : Keeps z s) : Keeps z (State.writeEvb s a v) := by
  unfold State.writeEvb
  repeat' first
    | with_reducible assumption | (intro x; first | (refine Keeps.named (z := z) (s := x) ?_ ?_; focus subst x) | skip)
    | with_reducible apply State.setB_keeps | with_reducible apply State.writeReg_keeps | with_reducible apply State.evbEnable_keeps
    | with_reducible apply State.evbWater_keeps | lift_lets | split

theorem State.writeEvbHi_keeps {z : State} (s : State) (who : ℕ) (a : ℕ) (v : Word) (lease : Bool) (h : Keeps z s) :
    Keeps z (State.writeEvbHi s who a v lease) := by
  unfold State.writeEvbHi
  repeat' first
    | with_reducible assumption | (intro x; first | (refine Keeps.named (z := z) (s := x) ?_ ?_; focus subst x) | skip)
    | with_reducible apply State.writePair_keeps | with_reducible apply State.setB_keeps | with_reducible apply State.dropLo_keeps | lift_lets
    | split

end Sys2Proof.Machine
end

