-- ==== Sys2Proof/Laws/Kept/Hit.lean ====
section
/-! SUPPORT. What every function of Machine/Hit.lean keeps (Laws/Keep.lean). -/

set_option linter.unusedTactic false
set_option linter.unreachableTactic false

namespace Sys2Proof.Machine

theorem State.zsApply_keeps {z : State} (s : State) (h0 : Hit) (late : Bool) (h : Keeps z s) : Keeps z (State.zsApply s h0 late) := by
  unfold State.zsApply
  repeat' first
    | with_reducible assumption | (intro x; first | (refine Keeps.named (z := z) (s := x) ?_ ?_; focus subst x) | skip)
    | with_reducible apply State.bump_keeps | with_reducible apply State.linkUpd_keeps | with_reducible apply State.inc_keeps
    | with_reducible apply State.blockHit_keeps | with_reducible apply State.ringPut_keeps | lift_lets | split
    | with_reducible refine Keeps.of_fst (by assumption) ?_ | with_reducible refine Keeps.of_snd (by assumption) ?_
    | with_reducible refine Keeps.lit ?_ rfl rfl

theorem State.zsFirst_keeps {z : State} (s : State) (h : Keeps z s) : Keeps z (State.zsFirst s) := by
  unfold State.zsFirst
  repeat' first
    | with_reducible assumption | with_reducible apply State.zsApply_keeps | split | with_reducible refine Keeps.of_fst (by assumption) ?_
    | with_reducible refine Keeps.of_snd (by assumption) ?_ | with_reducible refine Keeps.lit ?_ rfl rfl

theorem State.zsStep_keeps {z : State} (s : State) (h : Keeps z s) : Keeps z (State.zsStep s) := by
  unfold State.zsStep
  repeat' first
    | with_reducible assumption | with_reducible apply State.zsFirst_keeps | split | with_reducible refine Keeps.of_fst (by assumption) ?_
    | with_reducible refine Keeps.of_snd (by assumption) ?_

theorem State.hitArrive_keeps {z : State} (s : State) (h0 : Hit) (h : Keeps z s) : Keeps z (State.hitArrive s h0) := by
  unfold State.hitArrive
  repeat' first
    | with_reducible assumption | (intro x; first | (refine Keeps.named (z := z) (s := x) ?_ ?_; focus subst x) | skip)
    | with_reducible apply State.hpHit_keeps | with_reducible apply State.bump_keeps | with_reducible apply State.zsApply_keeps
    | with_reducible apply State.inc_keeps | with_reducible apply State.zsFirst_keeps | with_reducible apply State.setB_keeps
    | with_reducible apply Keeps.cond | lift_lets | split | with_reducible refine Keeps.lit ?_ rfl rfl

theorem State.frameHits_keeps {z : State} (s : State) (l : ℕ) (hdr : ℕ) (trl : ℕ) (data : List ℕ) (h : Keeps z s) :
    Keeps z (State.frameHits s l hdr trl data) := by
  unfold State.frameHits
  repeat' first
    | with_reducible assumption
    | (intro x; first | (refine Keeps.named (z := z) (s := x) ?_ ?_; focus subst x) | (refine Keeps.named (z := z) (s := x.1) ?_ ?_; focus subst x) | (refine Keeps.named (z := z) (s := x.2) ?_ ?_; focus subst x) | skip)
    | with_reducible apply State.linkUpd_keeps | with_reducible apply State.setCsr_keeps | with_reducible apply State.linkAlarm_keeps
    | with_reducible apply State.setB_keeps | with_reducible apply State.incF_keeps | with_reducible apply State.hitArrive_keeps
    | with_reducible apply Keeps.foldl | with_reducible apply Keeps.foldl_fst | with_reducible apply Keeps.foldl_snd | lift_lets | split
    | with_reducible refine Keeps.of_fst (by assumption) ?_ | with_reducible refine Keeps.of_snd (by assumption) ?_
    | with_reducible refine Keeps.lit ?_ rfl rfl

theorem State.hitFrame_keeps {z : State} (s : State) (l : ℕ) (fill : ℕ) (bs : List (ℕ × ℕ)) (h : Keeps z s) :
    Keeps z (State.hitFrame s l fill bs) := by
  unfold State.hitFrame
  repeat' first
    | with_reducible assumption
    | (intro x; first | (refine Keeps.named (z := z) (s := x) ?_ ?_; focus subst x) | (refine Keeps.named (z := z) (s := x.1) ?_ ?_; focus subst x) | (refine Keeps.named (z := z) (s := x.2) ?_ ?_; focus subst x) | skip)
    | with_reducible apply State.feHeaders_keeps | with_reducible apply State.linkUpd_keeps | with_reducible apply State.incF_keeps
    | with_reducible apply State.fastCmd_keeps | with_reducible apply State.frDrop_keeps | with_reducible apply State.frameHits_keeps
    | with_reducible apply Keeps.cond | lift_lets | split | with_reducible refine Keeps.of_fst (by assumption) ?_
    | with_reducible refine Keeps.of_snd (by assumption) ?_ | with_reducible refine Keeps.lit ?_ rfl rfl

end Sys2Proof.Machine
end

