-- ==== Sys2Proof/Laws/Kept/Answer.lean ====
section
/-! SUPPORT. What every function of Machine/Answer.lean keeps (Laws/Keep.lean). -/

set_option linter.unusedTactic false
set_option linter.unreachableTactic false

namespace Sys2Proof.Machine

theorem State.gateBlock_keeps {z : State} (s : State) (ws : List ℕ) (h : Keeps z s) : Keeps z (State.gateBlock s ws).2 := by
  unfold State.gateBlock
  repeat' first
    | with_reducible assumption | (intro x; first | (refine Keeps.named (z := z) (s := x) ?_ ?_; focus subst x) | skip)
    | with_reducible apply State.putWords_keeps | lift_lets | with_reducible refine Keeps.lit ?_ rfl rfl

theorem State.gatePost_keeps {z : State} (s : State) (e : Entry) (h : Keeps z s) : Keeps z (State.gatePost s e) := by
  unfold State.gatePost
  repeat' first
    | with_reducible assumption | with_reducible apply State.publishEntry_keeps | split | with_reducible refine Keeps.lit ?_ rfl rfl

theorem State.gateAnswer_keeps {z : State} (s : State) (tag : ℕ) (status : ℕ) (h : Keeps z s) : Keeps z (State.gateAnswer s tag status) := by
  unfold State.gateAnswer
  repeat' first
    | with_reducible assumption | with_reducible apply State.gatePost_keeps

theorem State.progBlock_keeps {z : State} (s : State) (ws : List ℕ) (h : Keeps z s) : Keeps z (State.progBlock s ws).2 := by
  unfold State.progBlock
  repeat' first
    | with_reducible assumption | with_reducible apply State.putWords_keeps | split

theorem State.progPost_keeps {z : State} (s : State) (tag : ℕ) (status : ℕ) (code : ℕ) (res : List ℕ) (h : Keeps z s) :
    Keeps z (State.progPost s tag status code res) := by
  unfold State.progPost
  repeat' first
    | with_reducible assumption
    | (intro x; first | (refine Keeps.named (z := z) (s := x) ?_ ?_; focus subst x) | (refine Keeps.named (z := z) (s := x.1) ?_ ?_; focus subst x) | (refine Keeps.named (z := z) (s := x.2) ?_ ?_; focus subst x) | skip)
    | with_reducible apply State.progBlock_keeps | with_reducible apply State.publishEntry_keeps | lift_lets | split
    | with_reducible refine Keeps.lit ?_ rfl rfl

theorem State.gateDone_keeps {z : State} (s : State) (tag : ℕ) (h : Keeps z s) : Keeps z (State.gateDone s tag) := by
  unfold State.gateDone
  repeat' first
    | with_reducible assumption | (intro x; first | (refine Keeps.named (z := z) (s := x) ?_ ?_; focus subst x) | skip)
    | with_reducible refine Keeps.lit ?_ rfl rfl

theorem State.lateAnswer_keeps {z : State} (s : State) (tag : ℕ) (status : ℕ) (code : ℕ) (res : List ℕ) (h : Keeps z s) :
    Keeps z (State.lateAnswer s tag status code res) := by
  unfold State.lateAnswer
  repeat' first
    | with_reducible assumption | (intro x; first | (refine Keeps.named (z := z) (s := x) ?_ ?_; focus subst x) | skip)
    | with_reducible apply State.gateDone_keeps | with_reducible apply State.progPost_keeps | split

end Sys2Proof.Machine
end

