-- ==== Sys2Proof/Laws/Kept/Chan.lean ====
section
/-! SUPPORT. What every function of Machine/Chan.lean keeps (Laws/Keep.lean). -/

set_option linter.unusedTactic false
set_option linter.unreachableTactic false

namespace Sys2Proof.Machine

theorem State.feed_keeps {z : State} (s : State) (xs : List Adc) (h : Keeps z s) : Keeps z (State.feed s xs) := by
  unfold State.feed
  repeat' first
    | with_reducible assumption
    | (intro x; first | (refine Keeps.named (z := z) (s := x) ?_ ?_; focus subst x) | (refine Keeps.named (z := z) (s := x.1) ?_ ?_; focus subst x) | (refine Keeps.named (z := z) (s := x.2) ?_ ?_; focus subst x) | skip)
    | with_reducible apply State.inc_keeps | with_reducible apply State.setB_keeps | with_reducible apply Keeps.cond
    | with_reducible apply Keeps.foldl | with_reducible apply Keeps.foldl_fst | with_reducible apply Keeps.foldl_snd | lift_lets | split
    | with_reducible refine Keeps.lit ?_ rfl rfl

end Sys2Proof.Machine
end

