-- ==== Sys2Proof/Laws/Kept/Dts.lean ====
section
/-! SUPPORT. What every function of Machine/Dts.lean keeps (Laws/Keep.lean). -/

set_option linter.unusedTactic false
set_option linter.unreachableTactic false

namespace Sys2Proof.Machine

theorem State.profUpd_keeps {z : State} (s : State) (f : Prof → Prof) (h : Keeps z s) : Keeps z (State.profUpd s f) := by
  unfold State.profUpd
  repeat' first
    | with_reducible assumption | (intro x; first | (refine Keeps.named (z := z) (s := x) ?_ ?_; focus subst x) | skip) | split
    | with_reducible refine Keeps.lit ?_ rfl rfl

theorem State.profSuspect_keeps {z : State} (s : State) (h : Keeps z s) : Keeps z (State.profSuspect s) := by
  unfold State.profSuspect
  repeat' first
    | with_reducible assumption | (intro x; first | (refine Keeps.named (z := z) (s := x) ?_ ?_; focus subst x) | skip) | split
    | with_reducible refine Keeps.lit ?_ rfl rfl

theorem State.profStart_keeps {z : State} (s : State) (l : Launch) (h : Keeps z s) : Keeps z (State.profStart s l) := by
  unfold State.profStart
  repeat' first
    | with_reducible assumption | (intro x; first | (refine Keeps.named (z := z) (s := x) ?_ ?_; focus subst x) | skip) | lift_lets | split
    | with_reducible refine Keeps.lit ?_ rfl rfl

theorem State.dtsSkip_keeps {z : State} (s : State) (h : Keeps z s) : Keeps z (State.dtsSkip s) := by
  unfold State.dtsSkip
  repeat' first
    | with_reducible assumption | (intro x; first | (refine Keeps.named (z := z) (s := x) ?_ ?_; focus subst x) | skip)
    | with_reducible apply State.profUpd_keeps | with_reducible apply State.inc_keeps | with_reducible refine Keeps.lit ?_ rfl rfl

theorem State.dtsDiscard_keeps {z : State} (s : State) (h : Keeps z s) : Keeps z (State.dtsDiscard s) := by
  unfold State.dtsDiscard
  repeat' first
    | with_reducible assumption | (intro x; first | (refine Keeps.named (z := z) (s := x) ?_ ?_; focus subst x) | skip)
    | with_reducible apply State.profUpd_keeps | with_reducible apply State.inc_keeps | with_reducible refine Keeps.lit ?_ rfl rfl

theorem State.dwellStep_keeps {z : State} (s : State) (n : ℕ) (h : Keeps z s) : Keeps z (State.dwellStep s n) := by
  unfold State.dwellStep
  repeat' first
    | with_reducible assumption | (intro x; first | (refine Keeps.named (z := z) (s := x) ?_ ?_; focus subst x) | skip) | lift_lets | split
    | with_reducible refine Keeps.lit ?_ rfl rfl

theorem State.takeHalf_keeps {z : State} (s : State) (h0 : ℕ) (n : ℕ) (h : Keeps z s) : Keeps z (State.takeHalf s h0 n) := by
  unfold State.takeHalf
  repeat' first
    | with_reducible assumption | (intro x; first | (refine Keeps.named (z := z) (s := x) ?_ ?_; focus subst x) | skip) | split
    | with_reducible refine Keeps.lit ?_ rfl rfl

theorem State.fibFail_keeps {z : State} (s : State) (h : Keeps z s) : Keeps z (State.fibFail s) := by
  unfold State.fibFail
  repeat' first
    | with_reducible assumption | (intro x; first | (refine Keeps.named (z := z) (s := x) ?_ ?_; focus subst x) | skip)
    | with_reducible refine Keeps.lit ?_ rfl rfl

theorem State.dtsLaunch_keeps {z : State} (s : State) (l : Launch) (h : Keeps z s) : Keeps z (State.dtsLaunch s l).2.2 := by
  unfold State.dtsLaunch
  repeat' first
    | with_reducible assumption | (intro x; first | (refine Keeps.named (z := z) (s := x) ?_ ?_; focus subst x) | skip)
    | with_reducible apply State.fibFail_keeps | with_reducible apply State.takeHalf_keeps | with_reducible apply State.profStart_keeps
    | with_reducible apply State.dwellStep_keeps | with_reducible apply State.dtsDiscard_keeps | with_reducible apply State.dtsSkip_keeps
    | with_reducible apply State.setB_keeps | with_reducible apply Keeps.cond | split | lift_lets
    | with_reducible refine Keeps.of_fst (by assumption) ?_ | with_reducible refine Keeps.of_snd (by assumption) ?_

theorem State.freeHalf_keeps {z : State} (s : State) (n : ℕ) (h : Keeps z s) : Keeps z (State.freeHalf s n) := by
  unfold State.freeHalf
  repeat' first
    | with_reducible assumption | (intro x; first | (refine Keeps.named (z := z) (s := x) ?_ ?_; focus subst x) | skip) | split
    | with_reducible refine Keeps.lit ?_ rfl rfl

theorem State.dtsClose_keeps {z : State} (s : State) (l : Launch) (h : Keeps z s) : Keeps z (State.dtsClose s l) := by
  unfold State.dtsClose
  repeat' first
    | with_reducible assumption
    | (intro x; first | (refine Keeps.named (z := z) (s := x) ?_ ?_; focus subst x) | (refine Keeps.named (z := z) (s := x.1) ?_ ?_; focus subst x) | (refine Keeps.named (z := z) (s := x.2) ?_ ?_; focus subst x) | skip)
    | with_reducible apply State.freeHalf_keeps | with_reducible apply State.fibFail_keeps | with_reducible apply State.dtsSkip_keeps
    | with_reducible apply State.putWords_keeps | lift_lets | split | with_reducible refine Keeps.of_fst (by assumption) ?_
    | with_reducible refine Keeps.of_snd (by assumption) ?_ | with_reducible refine Keeps.lit ?_ rfl rfl

theorem State.dtsEnd_keeps {z : State} (s : State) (h : Keeps z s) : Keeps z (State.dtsEnd s) := by
  unfold State.dtsEnd
  repeat' first
    | with_reducible assumption | (intro x; first | (refine Keeps.named (z := z) (s := x) ?_ ?_; focus subst x) | skip)
    | with_reducible apply State.profUpd_keeps | with_reducible refine Keeps.lit ?_ rfl rfl

theorem State.hopStart_keeps {z : State} (s : State) (h : Keeps z s) : Keeps z (State.hopStart s) := by
  unfold State.hopStart
  repeat' first
    | with_reducible assumption | (intro x; first | (refine Keeps.named (z := z) (s := x) ?_ ?_; focus subst x) | skip)
    | with_reducible apply State.dtsDiscard_keeps | with_reducible apply State.freeHalf_keeps | with_reducible apply State.setB_keeps
    | with_reducible apply Keeps.foldl | lift_lets | split | with_reducible refine Keeps.of_fst (by assumption) ?_
    | with_reducible refine Keeps.of_snd (by assumption) ?_ | with_reducible refine Keeps.lit ?_ rfl rfl

theorem State.hopEnd_keeps {z : State} (s : State) (h : Keeps z s) : Keeps z (State.hopEnd s) := by
  unfold State.hopEnd
  repeat' first
    | with_reducible assumption | with_reducible apply State.setF_keeps | split | with_reducible refine Keeps.of_fst (by assumption) ?_
    | with_reducible refine Keeps.of_snd (by assumption) ?_ | with_reducible refine Keeps.lit ?_ rfl rfl

theorem State.dtsWrote_keeps {z : State} (s : State) (h : Keeps z s) : Keeps z (State.dtsWrote s) := by
  unfold State.dtsWrote
  repeat' first
    | with_reducible assumption
    | (intro x; first | (refine Keeps.named (z := z) (s := x) ?_ ?_; focus subst x) | (refine Keeps.named (z := z) (s := x.1) ?_ ?_; focus subst x) | (refine Keeps.named (z := z) (s := x.2) ?_ ?_; focus subst x) | skip)
    | with_reducible apply State.free_keeps | lift_lets | with_reducible refine Keeps.lit ?_ rfl rfl

theorem State.dtsJob_keeps {z : State} (s : State) (h : Keeps z s) : Keeps z (State.dtsJob s) := by
  unfold State.dtsJob
  repeat' first
    | with_reducible assumption
    | (intro x; first | (refine Keeps.named (z := z) (s := x) ?_ ?_; focus subst x) | (refine Keeps.named (z := z) (s := x.1) ?_ ?_; focus subst x) | (refine Keeps.named (z := z) (s := x.2) ?_ ?_; focus subst x) | skip)
    | with_reducible apply State.setPair_keeps | with_reducible apply State.setCsr_keeps | with_reducible apply State.freeHalf_keeps
    | with_reducible apply State.dtsWrote_keeps | with_reducible apply State.engineRead_keeps | with_reducible apply State.profStart_keeps
    | split | lift_lets | with_reducible refine Keeps.of_fst (by assumption) ?_ | with_reducible refine Keeps.of_snd (by assumption) ?_
    | with_reducible refine Keeps.lit ?_ rfl rfl

theorem State.profPost_keeps {z : State} (s : State) (h : Keeps z s) : Keeps z (State.profPost s) := by
  unfold State.profPost
  repeat' first
    | with_reducible assumption
    | (intro x; first | (refine Keeps.named (z := z) (s := x) ?_ ?_; focus subst x) | (refine Keeps.named (z := z) (s := x.1) ?_ ?_; focus subst x) | (refine Keeps.named (z := z) (s := x.2) ?_ ?_; focus subst x) | skip)
    | with_reducible apply State.free_keeps | with_reducible apply State.publish_keeps | with_reducible apply State.result_keeps
    | with_reducible apply State.bump_keeps | with_reducible apply State.incMod_keeps | with_reducible apply Keeps.foldl
    | with_reducible apply Keeps.foldl_fst | with_reducible apply Keeps.foldl_snd | split | lift_lets
    | with_reducible refine Keeps.of_fst (by assumption) ?_ | with_reducible refine Keeps.of_snd (by assumption) ?_
    | with_reducible refine Keeps.lit ?_ rfl rfl

theorem State.writeDtsCtl_keeps {z : State} (s : State) (v : Word) (h : Keeps z s) : Keeps z (State.writeDtsCtl s v) := by
  unfold State.writeDtsCtl
  repeat' first
    | with_reducible assumption | (intro x; first | (refine Keeps.named (z := z) (s := x) ?_ ?_; focus subst x) | skip)
    | with_reducible apply State.setB_keeps | with_reducible apply State.writeReg_keeps | lift_lets | split

theorem State.searchSlot_keeps {z : State} (s : State) (n : ℕ) (f : ℕ) (h : Keeps z s) : Keeps z (State.searchSlot s n f) := by
  unfold State.searchSlot
  repeat' first
    | with_reducible assumption | (intro x; first | (refine Keeps.named (z := z) (s := x) ?_ ?_; focus subst x) | skip)
    | with_reducible apply State.setB_keeps | with_reducible apply State.setPair_keeps | lift_lets | split
    | with_reducible refine Keeps.lit ?_ rfl rfl

theorem State.writeDtsWin_keeps {z : State} (s : State) (w : ℕ) (v : Word) (h : Keeps z s) : Keeps z (State.writeDtsWin s w v) := by
  unfold State.writeDtsWin
  repeat' first
    | with_reducible assumption | (intro x; first | (refine Keeps.named (z := z) (s := x) ?_ ?_; focus subst x) | skip)
    | with_reducible apply State.setB_keeps | with_reducible apply State.writeReg_keeps | with_reducible apply State.searchSlot_keeps
    | lift_lets | split

end Sys2Proof.Machine
end

