-- ==== Sys2Proof/Laws/Kept/Tim.lean ====
section
/-! SUPPORT. What every function of Machine/Tim.lean keeps (Laws/Keep.lean). -/

set_option linter.unusedTactic false
set_option linter.unreachableTactic false

namespace Sys2Proof.Machine

theorem State.setTimState_keeps {z : State} (s : State) (n : ℕ) (h : Keeps z s) : Keeps z (State.setTimState s n) := by
  unfold State.setTimState
  repeat' first
    | with_reducible assumption | (intro x; first | (refine Keeps.named (z := z) (s := x) ?_ ?_; focus subst x) | skip)
    | with_reducible apply State.setF_keeps | lift_lets | with_reducible refine Keeps.lit ?_ rfl rfl

theorem State.ptimeUpd_keeps {z : State} (s : State) (p : ℕ) (f : PortTime → PortTime) (h : Keeps z s) : Keeps z (State.ptimeUpd s p f) := by
  unfold State.ptimeUpd
  repeat' first
    | with_reducible assumption | with_reducible refine Keeps.lit ?_ rfl rfl

theorem State.asyUpd_keeps {z : State} (s : State) (p : ℕ) (f : AsySt → AsySt) (h : Keeps z s) : Keeps z (State.asyUpd s p f) := by
  unfold State.asyUpd
  repeat' first
    | with_reducible assumption | with_reducible refine Keeps.lit ?_ rfl rfl

theorem State.timParent_keeps {z : State} (s : State) (h : Keeps z s) : Keeps z (State.timParent s) := by
  unfold State.timParent
  repeat' first
    | with_reducible assumption
    | (intro x; first | (refine Keeps.named (z := z) (s := x) ?_ ?_; focus subst x) | (refine Keeps.named (z := z) (s := x.1) ?_ ?_; focus subst x) | (refine Keeps.named (z := z) (s := x.2) ?_ ?_; focus subst x) | skip)
    | with_reducible apply State.setB_keeps | with_reducible apply State.setF_keeps | with_reducible apply State.setCsr_keeps | lift_lets
    | split | with_reducible refine Keeps.of_fst (by assumption) ?_ | with_reducible refine Keeps.of_snd (by assumption) ?_
    | with_reducible refine Keeps.lit ?_ rfl rfl

theorem State.timeTo_keeps {z : State} (s : State) (t : ℕ) (h : Keeps z s) : Keeps z (State.timeTo s t) := by
  unfold State.timeTo
  repeat' first
    | with_reducible assumption | (intro x; first | (refine Keeps.named (z := z) (s := x) ?_ ?_; focus subst x) | skip)
    | with_reducible apply State.sticky_keeps | with_reducible apply Keeps.cond | lift_lets | with_reducible refine Keeps.lit ?_ rfl rfl

theorem State.stepTime_keeps {z : State} (s : State) (theta : ℤ) (h : Keeps z s) : Keeps z (State.stepTime s theta) := by
  unfold State.stepTime
  repeat' first
    | with_reducible assumption | with_reducible apply State.timeTo_keeps | with_reducible apply State.setB_keeps

theorem State.servo_keeps {z : State} (s : State) (theta : ℤ) (h : Keeps z s) : Keeps z (State.servo s theta) := by
  unfold State.servo
  repeat' first
    | with_reducible assumption | (intro x; first | (refine Keeps.named (z := z) (s := x) ?_ ?_; focus subst x) | skip)
    | with_reducible apply State.result_keeps | with_reducible apply State.alarm_keeps | with_reducible apply State.setB_keeps
    | with_reducible apply State.setTimState_keeps | with_reducible apply State.stepTime_keeps | lift_lets | split
    | with_reducible refine Keeps.lit ?_ rfl rfl

theorem State.timex_keeps {z : State} (s : State) (p : ℕ) (xseq : ℕ) (rxseq : ℕ) (txprev : ℕ) (rxlast : ℕ) (peer : ℕ × Bool × ℕ × ℕ × ℕ) (h :
    Keeps z s) :
    Keeps z (State.timex s p xseq rxseq txprev rxlast peer) := by
  unfold State.timex
  repeat' first
    | with_reducible assumption | intro _ | with_reducible apply State.timParent_keeps | with_reducible apply State.ptimeUpd_keeps
    | with_reducible apply State.inc_keeps | with_reducible apply State.setCsr_keeps | with_reducible apply State.servo_keeps
    | with_reducible apply Keeps.ite | extract_lets | split | with_reducible refine Keeps.of_fst (by assumption) ?_
    | with_reducible refine Keeps.of_snd (by assumption) ?_ | with_reducible refine Keeps.lit ?_ rfl rfl | (dsimp -zeta +zetaDelta only; split)

theorem State.parentLoss_keeps {z : State} (s : State) (h : Keeps z s) : Keeps z (State.parentLoss s) := by
  unfold State.parentLoss
  repeat' first
    | with_reducible assumption | with_reducible apply State.setTimState_keeps | split

theorem State.lockedTimer_keeps {z : State} (s : State) (h : Keeps z s) : Keeps z (State.lockedTimer s) := by
  unfold State.lockedTimer
  repeat' first
    | with_reducible assumption | with_reducible apply State.setTimState_keeps | split | with_reducible refine Keeps.of_fst (by assumption) ?_
    | with_reducible refine Keeps.of_snd (by assumption) ?_

theorem State.rootEval_keeps {z : State} (s : State) (h : Keeps z s) : Keeps z (State.rootEval s) := by
  unfold State.rootEval
  repeat' first
    | with_reducible assumption | (intro x; first | (refine Keeps.named (z := z) (s := x) ?_ ?_; focus subst x) | skip)
    | with_reducible apply State.setTimState_keeps | with_reducible apply State.timParent_keeps | lift_lets | split
    | with_reducible refine Keeps.lit ?_ rfl rfl

theorem State.writeTimCtl_keeps {z : State} (s : State) (v : Word) (h : Keeps z s) : Keeps z (State.writeTimCtl s v) := by
  unfold State.writeTimCtl
  repeat' first
    | with_reducible assumption | (intro x; first | (refine Keeps.named (z := z) (s := x) ?_ ?_; focus subst x) | skip)
    | with_reducible apply State.writeReg_keeps | with_reducible apply State.rootEval_keeps | with_reducible apply State.setTimState_keeps
    | with_reducible apply Keeps.cond | lift_lets | split

theorem State.ppsEdge_keeps {z : State} (s : State) (present : Bool) (h : Keeps z s) : Keeps z (State.ppsEdge s present) := by
  unfold State.ppsEdge
  repeat' first
    | with_reducible assumption | (intro x; first | (refine Keeps.named (z := z) (s := x) ?_ ?_; focus subst x) | skip)
    | with_reducible apply State.setB_keeps | with_reducible apply State.rootEval_keeps | with_reducible apply State.servo_keeps | split
    | lift_lets | with_reducible refine Keeps.of_fst (by assumption) ?_ | with_reducible refine Keeps.of_snd (by assumption) ?_
    | with_reducible refine Keeps.lit ?_ rfl rfl

theorem State.refChange_keeps {z : State} (s : State) (n : ℕ) (h : Keeps z s) : Keeps z (State.refChange s n) := by
  unfold State.refChange
  repeat' first
    | with_reducible assumption | with_reducible apply State.rootEval_keeps | with_reducible apply State.setB_keeps
    | with_reducible refine Keeps.lit ?_ rfl rfl

theorem State.rootBoundary_keeps {z : State} (s : State) (h : Keeps z s) : Keeps z (State.rootBoundary s) := by
  unfold State.rootBoundary
  repeat' first
    | with_reducible assumption | (intro x; first | (refine Keeps.named (z := z) (s := x) ?_ ?_; focus subst x) | skip)
    | with_reducible apply State.timeTo_keeps | with_reducible apply State.timParent_keeps | with_reducible apply State.setTimState_keeps
    | lift_lets | split | with_reducible refine Keeps.lit ?_ rfl rfl

theorem State.writeNextsec_keeps {z : State} (s : State) (v : Word) (lease : Bool) (h : Keeps z s) : Keeps z (State.writeNextsec s v lease) := by
  unfold State.writeNextsec
  repeat' first
    | with_reducible assumption | (intro x; first | (refine Keeps.named (z := z) (s := x) ?_ ?_; focus subst x) | skip)
    | with_reducible apply State.writeReg_keeps | with_reducible apply State.alarm_keeps | with_reducible apply State.setB_keeps | lift_lets
    | split | with_reducible refine Keeps.lit ?_ rfl rfl

theorem State.rootTake_keeps {z : State} (s : State) (h : Keeps z s) : Keeps z (State.rootTake s) := by
  unfold State.rootTake
  repeat' first
    | with_reducible assumption | with_reducible apply State.timParent_keeps | with_reducible apply State.rootEval_keeps
    | with_reducible refine Keeps.lit ?_ rfl rfl

theorem State.rootLapse_keeps {z : State} (s : State) (h : Keeps z s) : Keeps z (State.rootLapse s) := by
  unfold State.rootLapse
  repeat' first
    | with_reducible assumption | with_reducible apply State.timParent_keeps | with_reducible apply State.setTimState_keeps | split

theorem State.asyMove_keeps {z : State} (s : State) (p : ℕ) (h : Keeps z s) : Keeps z (State.asyMove s p) := by
  unfold State.asyMove
  repeat' first
    | with_reducible assumption | (intro x; first | (refine Keeps.named (z := z) (s := x) ?_ ?_; focus subst x) | skip)
    | with_reducible apply State.asyUpd_keeps | with_reducible apply State.setCsr_keeps | lift_lets | split
    | with_reducible refine Keeps.lit ?_ rfl rfl

theorem State.writeAsy_keeps {z : State} (s : State) (p : ℕ) (a : ℕ) (v : Word) (h : Keeps z s) : Keeps z (State.writeAsy s p a v) := by
  unfold State.writeAsy
  repeat' first
    | with_reducible assumption | (intro x; first | (refine Keeps.named (z := z) (s := x) ?_ ?_; focus subst x) | skip)
    | with_reducible apply State.writeReg_keeps | with_reducible apply State.asyUpd_keeps | with_reducible apply State.setCsr_keeps | lift_lets
    | split

theorem State.asyTarget_keeps {z : State} (s : State) (p : ℕ) (i : ℚ) (pm : ℕ) (last : ℕ) (h : Keeps z s) :
    Keeps z (State.asyTarget s p i pm last) := by
  unfold State.asyTarget
  repeat' first
    | with_reducible assumption | (intro x; first | (refine Keeps.named (z := z) (s := x) ?_ ?_; focus subst x) | skip)
    | with_reducible apply State.setF_keeps | with_reducible apply State.asyMove_keeps | with_reducible apply State.setB_keeps
    | with_reducible apply State.asyUpd_keeps | with_reducible apply Keeps.cond | lift_lets | split | with_reducible refine Keeps.lit ?_ rfl rfl

theorem State.asyUpdate_keeps {z : State} (s : State) (p : ℕ) (h : Keeps z s) : Keeps z (State.asyUpdate s p) := by
  unfold State.asyUpdate
  repeat' first
    | with_reducible assumption
    | (intro x; first | (refine Keeps.named (z := z) (s := x) ?_ ?_; focus subst x) | (refine Keeps.named (z := z) (s := x.1) ?_ ?_; focus subst x) | (refine Keeps.named (z := z) (s := x.2) ?_ ?_; focus subst x) | skip)
    | with_reducible apply State.setB_keeps | with_reducible apply State.asyTarget_keeps | split
    | with_reducible refine Keeps.of_fst (by assumption) ?_ | with_reducible refine Keeps.of_snd (by assumption) ?_

theorem State.tsubMsg_keeps {z : State} (s : State) (x : TSubscr) (h : Keeps z s) : Keeps z (State.tsubMsg s x) := by
  unfold State.tsubMsg
  repeat' first
    | with_reducible assumption | (intro x; first | (refine Keeps.named (z := z) (s := x) ?_ ?_; focus subst x) | skip)
    | with_reducible refine Keeps.lit ?_ rfl rfl

theorem State.tsubSend_keeps {z : State} (s : State) (p : ℕ) (h : Keeps z s) : Keeps z (State.tsubSend s p) := by
  unfold State.tsubSend
  repeat' first
    | with_reducible assumption | (intro x; first | (refine Keeps.named (z := z) (s := x) ?_ ?_; focus subst x) | skip)
    | with_reducible apply State.send_keeps | with_reducible apply State.asyUpd_keeps | lift_lets | split
    | with_reducible refine Keeps.of_fst (by assumption) ?_ | with_reducible refine Keeps.of_snd (by assumption) ?_
    | with_reducible refine Keeps.lit ?_ rfl rfl

theorem State.asySlew_keeps {z : State} (s : State) (p : ℕ) (h : Keeps z s) : Keeps z (State.asySlew s p) := by
  unfold State.asySlew
  repeat' first
    | with_reducible assumption | with_reducible apply State.tsubSend_keeps | with_reducible apply State.asyMove_keeps

theorem State.tintMsg_keeps {z : State} (s : State) (sense : ℕ) (dev : ℕ) (last : ℕ) (i : ℤ) (pm : ℕ) (h : Keeps z s) :
    Keeps z (State.tintMsg s sense dev last i pm) := by
  unfold State.tintMsg
  repeat' first
    | with_reducible assumption | (intro x; first | (refine Keeps.named (z := z) (s := x) ?_ ?_; focus subst x) | skip)
    | with_reducible apply State.asyTarget_keeps | with_reducible apply State.asyUpd_keeps | with_reducible apply Keeps.foldl | split
    | with_reducible refine Keeps.lit ?_ rfl rfl

theorem State.tintAll_keeps {z : State} (s : State) (port : ℕ) (h : Keeps z s) : Keeps z (State.tintAll s port) := by
  unfold State.tintAll
  repeat' first
    | with_reducible assumption
    | (intro x; first | (refine Keeps.named (z := z) (s := x) ?_ ?_; focus subst x) | (refine Keeps.named (z := z) (s := x.1) ?_ ?_; focus subst x) | (refine Keeps.named (z := z) (s := x.2) ?_ ?_; focus subst x) | skip)
    | with_reducible apply State.send_keeps | with_reducible apply Keeps.foldl | with_reducible apply Keeps.foldl_fst
    | with_reducible apply Keeps.foldl_snd | split | with_reducible refine Keeps.of_fst (by assumption) ?_
    | with_reducible refine Keeps.of_snd (by assumption) ?_

theorem State.profileAge_keeps {z : State} (s : State) (p : ℕ) (h : Keeps z s) : Keeps z (State.profileAge s p) := by
  unfold State.profileAge
  repeat' first
    | with_reducible assumption | (intro x; first | (refine Keeps.named (z := z) (s := x) ?_ ?_; focus subst x) | skip)
    | with_reducible apply State.setB_keeps | with_reducible apply State.asyUpd_keeps | with_reducible apply State.alarm_keeps
    | with_reducible apply State.asyMove_keeps | with_reducible apply Keeps.cond | lift_lets | split
    | with_reducible refine Keeps.of_fst (by assumption) ?_ | with_reducible refine Keeps.of_snd (by assumption) ?_
    | with_reducible refine Keeps.lit ?_ rfl rfl

end Sys2Proof.Machine
end

