-- ==== Sys2Proof/Laws/Kept/Role.lean ====
section
/-! SUPPORT. What every function of Machine/Role.lean keeps (Laws/Keep.lean). -/

set_option linter.unusedTactic false
set_option linter.unreachableTactic false

namespace Sys2Proof.Machine

theorem State.roleUpd_keeps {z : State} (s : State) (r : ℕ) (f : RoleSt → RoleSt) (h : Keeps z s) : Keeps z (State.roleUpd s r f) := by
  unfold State.roleUpd
  repeat' first
    | with_reducible assumption | with_reducible refine Keeps.lit ?_ rfl rfl

theorem State.roleFlood_keeps {z : State} (s : State) (ws : List ℕ) (h : Keeps z s) : Keeps z (State.roleFlood s ws) := by
  unfold State.roleFlood
  repeat' first
    | with_reducible assumption | (intro x; first | (refine Keeps.named (z := z) (s := x) ?_ ?_; focus subst x) | skip)
    | with_reducible apply State.send_keeps | with_reducible apply Keeps.foldl

theorem State.roleReg_keeps {z : State} (s : State) (r : ℕ) (lapsed : Bool) (h : Keeps z s) : Keeps z (State.roleReg s r lapsed) := by
  unfold State.roleReg
  repeat' first
    | with_reducible assumption | (intro x; first | (refine Keeps.named (z := z) (s := x) ?_ ?_; focus subst x) | skip)
    | with_reducible apply State.setF_keeps | with_reducible apply State.setB_keeps | lift_lets

theorem State.roleLog_keeps {z : State} (s : State) (r : ℕ) (taken : Bool) (dev : ℕ) (epoch : ℕ) (h : Keeps z s) :
    Keeps z (State.roleLog s r taken dev epoch) := by
  unfold State.roleLog
  repeat' first
    | with_reducible assumption | with_reducible apply State.log_keeps

theorem State.rannSend_keeps {z : State} (s : State) (r : ℕ) (h : Keeps z s) : Keeps z (State.rannSend s r) := by
  unfold State.rannSend
  repeat' first
    | with_reducible assumption | with_reducible apply State.roleFlood_keeps

theorem State.roleTakeEffect_keeps {z : State} (s : State) (r : ℕ) (h : Keeps z s) : Keeps z (State.roleTakeEffect s r) := by
  unfold State.roleTakeEffect
  repeat' first
    | with_reducible assumption | with_reducible apply State.rootTake_keeps | with_reducible apply State.deciderTake_keeps
    | with_reducible apply State.builderTake_keeps | split

theorem State.roleLoseEffect_keeps {z : State} (s : State) (r : ℕ) (nobody : Bool) (h : Keeps z s) : Keeps z (State.roleLoseEffect s r nobody) := by
  unfold State.roleLoseEffect
  repeat' first
    | with_reducible assumption | with_reducible apply State.rootLapse_keeps | with_reducible apply State.timParent_keeps
    | with_reducible apply State.deciderLose_keeps | with_reducible apply State.builderLose_keeps | split
    | with_reducible refine Keeps.lit ?_ rfl rfl

theorem State.roleTake_keeps {z : State} (s : State) (r : ℕ) (epoch : ℕ) (h : Keeps z s) : Keeps z (State.roleTake s r epoch) := by
  unfold State.roleTake
  repeat' first
    | with_reducible assumption | (intro x; first | (refine Keeps.named (z := z) (s := x) ?_ ?_; focus subst x) | skip)
    | with_reducible apply State.roleUpd_keeps | with_reducible apply State.roleReg_keeps | with_reducible apply State.builderMoved_keeps
    | with_reducible apply State.roleTakeEffect_keeps | with_reducible apply State.rannSend_keeps | with_reducible apply State.roleLog_keeps
    | with_reducible apply Keeps.cond | lift_lets | with_reducible refine Keeps.lit ?_ rfl rfl

theorem State.roleAnswer_keeps {z : State} (s : State) (x : RoleSt) (status : ℕ) (h : Keeps z s) : Keeps z (State.roleAnswer s x status) := by
  unfold State.roleAnswer
  repeat' first
    | with_reducible assumption | with_reducible apply State.lateAnswer_keeps | split | with_reducible refine Keeps.of_fst (by assumption) ?_
    | with_reducible refine Keeps.of_snd (by assumption) ?_

theorem State.roleWithdraw_keeps {z : State} (s : State) (r : ℕ) (h : Keeps z s) : Keeps z (State.roleWithdraw s r) := by
  unfold State.roleWithdraw
  repeat' first
    | with_reducible assumption | (intro x; first | (refine Keeps.named (z := z) (s := x) ?_ ?_; focus subst x) | skip)
    | with_reducible apply State.roleUpd_keeps | with_reducible apply State.roleAnswer_keeps | with_reducible refine Keeps.lit ?_ rfl rfl

theorem State.roleRequest_keeps {z : State} (s : State) (r : ℕ) (tag : Option ℕ) (h : Keeps z s) : Keeps z (State.roleRequest s r tag) := by
  unfold State.roleRequest
  repeat' first
    | with_reducible assumption | (intro x; first | (refine Keeps.named (z := z) (s := x) ?_ ?_; focus subst x) | skip)
    | with_reducible apply State.roleUpd_keeps | with_reducible apply State.roleFlood_keeps | lift_lets
    | with_reducible refine Keeps.lit ?_ rfl rfl

theorem State.roleVacant_keeps {z : State} (s : State) (r : ℕ) (lapsed : Bool) (h : Keeps z s) : Keeps z (State.roleVacant s r lapsed) := by
  unfold State.roleVacant
  repeat' first
    | with_reducible assumption | (intro x; first | (refine Keeps.named (z := z) (s := x) ?_ ?_; focus subst x) | skip)
    | with_reducible apply State.roleReg_keeps | with_reducible apply State.roleUpd_keeps | with_reducible apply State.roleLoseEffect_keeps
    | with_reducible apply State.roleLog_keeps | lift_lets | split | with_reducible refine Keeps.lit ?_ rfl rfl

theorem State.roleYield_keeps {z : State} (s : State) (r : ℕ) (dev : ℕ) (epoch : ℕ) (h : Keeps z s) : Keeps z (State.roleYield s r dev epoch) := by
  unfold State.roleYield
  repeat' first
    | with_reducible assumption | (intro x; first | (refine Keeps.named (z := z) (s := x) ?_ ?_; focus subst x) | skip)
    | with_reducible apply State.roleUpd_keeps | with_reducible apply State.roleLoseEffect_keeps | with_reducible apply State.roleLog_keeps
    | lift_lets | with_reducible refine Keeps.lit ?_ rfl rfl

theorem State.rann_keeps {z : State} (s : State) (r : ℕ) (dev : ℕ) (epoch : ℕ) (prio : ℕ) (stamp : ℕ) (serial : ℕ) (h : Keeps z s) :
    Keeps z (State.rann s r dev epoch prio stamp serial) := by
  unfold State.rann
  repeat' first
    | with_reducible assumption | (intro x; first | (refine Keeps.named (z := z) (s := x) ?_ ?_; focus subst x) | skip)
    | with_reducible apply State.roleWithdraw_keeps | with_reducible apply State.roleYield_keeps | with_reducible apply State.roleUpd_keeps
    | with_reducible apply State.builderMoved_keeps | with_reducible apply State.roleReg_keeps | with_reducible apply State.timParent_keeps
    | with_reducible apply State.setCsr_keeps | with_reducible apply State.roleFlood_keeps | with_reducible apply Keeps.cond | lift_lets | split
    | with_reducible refine Keeps.lit ?_ rfl rfl

theorem State.rannRenew_keeps {z : State} (s : State) (r : ℕ) (h : Keeps z s) : Keeps z (State.rannRenew s r) := by
  unfold State.rannRenew
  repeat' first
    | with_reducible assumption | (intro x; first | (refine Keeps.named (z := z) (s := x) ?_ ?_; focus subst x) | skip)
    | with_reducible apply State.rannSend_keeps | with_reducible apply State.roleUpd_keeps | lift_lets | split
    | with_reducible refine Keeps.lit ?_ rfl rfl

theorem State.rreq_keeps {z : State} (s : State) (r : ℕ) (dev : ℕ) (epoch : ℕ) (prio : ℕ) (stamp : ℕ) (serial : ℕ) (h : Keeps z s) :
    Keeps z (State.rreq s r dev epoch prio stamp serial) := by
  unfold State.rreq
  repeat' first
    | with_reducible assumption | (intro x; first | (refine Keeps.named (z := z) (s := x) ?_ ?_; focus subst x) | skip)
    | with_reducible apply State.roleWithdraw_keeps | with_reducible apply State.roleFlood_keeps | with_reducible apply State.roleUpd_keeps
    | with_reducible apply Keeps.cond | lift_lets | split | with_reducible refine Keeps.of_fst (by assumption) ?_
    | with_reducible refine Keeps.of_snd (by assumption) ?_ | with_reducible refine Keeps.lit ?_ rfl rfl

theorem State.rrel_keeps {z : State} (s : State) (r : ℕ) (dev : ℕ) (epoch : ℕ) (prio : ℕ) (stamp : ℕ) (h : Keeps z s) :
    Keeps z (State.rrel s r dev epoch prio stamp) := by
  unfold State.rrel
  repeat' first
    | with_reducible assumption | (intro x; first | (refine Keeps.named (z := z) (s := x) ?_ ?_; focus subst x) | skip)
    | with_reducible apply State.roleVacant_keeps | with_reducible apply State.roleUpd_keeps | with_reducible apply State.roleFlood_keeps
    | lift_lets | split | with_reducible refine Keeps.lit ?_ rfl rfl

theorem State.roleLapse_keeps {z : State} (s : State) (r : ℕ) (h : Keeps z s) : Keeps z (State.roleLapse s r) := by
  unfold State.roleLapse
  repeat' first
    | with_reducible assumption | (intro x; first | (refine Keeps.named (z := z) (s := x) ?_ ?_; focus subst x) | skip)
    | with_reducible apply State.roleUpd_keeps | with_reducible apply State.roleVacant_keeps | with_reducible apply State.roleRequest_keeps
    | lift_lets | split | with_reducible refine Keeps.lit ?_ rfl rfl

theorem State.roleWaitEnd_keeps {z : State} (s : State) (r : ℕ) (h : Keeps z s) : Keeps z (State.roleWaitEnd s r) := by
  unfold State.roleWaitEnd
  repeat' first
    | with_reducible assumption | with_reducible apply State.roleAnswer_keeps | with_reducible apply State.roleTake_keeps | split
    | with_reducible refine Keeps.of_fst (by assumption) ?_ | with_reducible refine Keeps.of_snd (by assumption) ?_
    | with_reducible refine Keeps.lit ?_ rfl rfl

theorem State.roleRelease_keeps {z : State} (s : State) (r : ℕ) (h : Keeps z s) : Keeps z (State.roleRelease s r) := by
  unfold State.roleRelease
  repeat' first
    | with_reducible assumption | (intro x; first | (refine Keeps.named (z := z) (s := x) ?_ ?_; focus subst x) | skip)
    | with_reducible apply State.roleVacant_keeps | with_reducible apply State.roleUpd_keeps | with_reducible apply State.roleFlood_keeps
    | lift_lets | with_reducible refine Keeps.lit ?_ rfl rfl

end Sys2Proof.Machine
end

