-- ==== Sys2Proof/Laws/Kept/Fab.lean ====
section
/-! SUPPORT. What every function of Machine/Fab.lean keeps (Laws/Keep.lean). -/

set_option linter.unusedTactic false
set_option linter.unreachableTactic false

namespace Sys2Proof.Machine

theorem State.fportUpd_keeps {z : State} (s : State) (p : ℕ) (f : FabPort → FabPort) (h : Keeps z s) : Keeps z (State.fportUpd s p f) := by
  unfold State.fportUpd
  repeat' first
    | with_reducible assumption | with_reducible refine Keeps.lit ?_ rfl rfl

theorem State.fabMasks_keeps {z : State} (s : State) (h : Keeps z s) : Keeps z (State.fabMasks s) := by
  unfold State.fabMasks
  repeat' first
    | with_reducible assumption | (intro x; first | (refine Keeps.named (z := z) (s := x) ?_ ?_; focus subst x) | skip)
    | with_reducible apply State.setF_keeps | with_reducible apply Keeps.foldl | lift_lets | split

theorem State.fenter_keeps {z : State} (s : State) (p : ℕ) (n : ℕ) (h : Keeps z s) : Keeps z (State.fenter s p n) := by
  unfold State.fenter
  repeat' first
    | with_reducible assumption | (intro x; first | (refine Keeps.named (z := z) (s := x) ?_ ?_; focus subst x) | skip)
    | with_reducible apply State.fabMasks_keeps | with_reducible apply State.fportUpd_keeps | with_reducible apply State.setF_keeps | split
    | with_reducible refine Keeps.lit ?_ rfl rfl

theorem State.fsent_keeps {z : State} (s : State) (p : ℕ) (f : Frame) (h : Keeps z s) : Keeps z (State.fsent s p f) := by
  unfold State.fsent
  repeat' first
    | with_reducible assumption | (intro x; first | (refine Keeps.named (z := z) (s := x) ?_ ?_; focus subst x) | skip)
    | with_reducible apply State.bump_keeps | with_reducible apply State.incMod_keeps | lift_lets | with_reducible refine Keeps.lit ?_ rfl rfl

theorem State.setFcnt_keeps {z : State} (s : State) (slot : ℕ) (n : ℕ) (h : Keeps z s) : Keeps z (State.setFcnt s slot n) := by
  unfold State.setFcnt
  repeat' first
    | with_reducible assumption | with_reducible apply State.setPair_keeps | split | with_reducible refine Keeps.lit ?_ rfl rfl

theorem State.useFcnt_keeps {z : State} (s : State) (slot : ℕ) (h : Keeps z s) : Keeps z (State.useFcnt s slot) := by
  unfold State.useFcnt
  repeat' first
    | with_reducible assumption | (intro x; first | (refine Keeps.named (z := z) (s := x) ?_ ?_; focus subst x) | skip)
    | with_reducible apply State.setFcnt_keeps | with_reducible apply State.alarm_keeps | with_reducible apply State.setB_keeps | lift_lets
    | split

theorem State.fcntTake_keeps {z : State} (s : State) (src : ℕ) (host : ℕ) (k : ℕ) (n : ℕ) (h : Keeps z s) :
    Keeps z (State.fcntTake s src host k n) := by
  unfold State.fcntTake
  repeat' first
    | with_reducible assumption | (intro x; first | (refine Keeps.named (z := z) (s := x) ?_ ?_; focus subst x) | skip) | lift_lets | split
    | with_reducible refine Keeps.of_fst (by assumption) ?_ | with_reducible refine Keeps.of_snd (by assumption) ?_
    | with_reducible refine Keeps.lit ?_ rfl rfl

theorem State.authFail_keeps {z : State} (s : State) (h : Keeps z s) : Keeps z (State.authFail s) := by
  unfold State.authFail
  repeat' first
    | with_reducible assumption | with_reducible apply State.setB_keeps | with_reducible apply State.inc_keeps | split

theorem State.authCheck_keeps {z : State} (s : State) (slot : ℕ) (f : Frame) (h : Keeps z s) : Keeps z (State.authCheck s slot f).2 := by
  unfold State.authCheck
  repeat' first
    | with_reducible assumption | with_reducible apply State.authFail_keeps | with_reducible apply State.inc_keeps
    | with_reducible apply State.fcntTake_keeps | split | with_reducible refine Keeps.of_fst (by assumption) ?_
    | with_reducible refine Keeps.of_snd (by assumption) ?_

theorem State.llSend_keeps {z : State} (s : State) (p : ℕ) (cls : ℕ) (ltype : ℕ) (pay : List ℕ) (h : Keeps z s) :
    Keeps z (State.llSend s p cls ltype pay) := by
  unfold State.llSend
  repeat' first
    | with_reducible assumption | (intro x; first | (refine Keeps.named (z := z) (s := x) ?_ ?_; focus subst x) | skip)
    | with_reducible apply State.useFcnt_keeps | with_reducible apply State.fsent_keeps | with_reducible apply Keeps.cond | lift_lets | split

theorem State.timexSend_keeps {z : State} (s : State) (p : ℕ) (h : Keeps z s) : Keeps z (State.timexSend s p) := by
  unfold State.timexSend
  repeat' first
    | with_reducible assumption
    | (intro x; first | (refine Keeps.named (z := z) (s := x) ?_ ?_; focus subst x) | (refine Keeps.named (z := z) (s := x.1) ?_ ?_; focus subst x) | (refine Keeps.named (z := z) (s := x.2) ?_ ?_; focus subst x) | skip)
    | with_reducible apply State.llSend_keeps | with_reducible apply State.ptimeUpd_keeps | lift_lets | split
    | with_reducible refine Keeps.of_fst (by assumption) ?_ | with_reducible refine Keeps.of_snd (by assumption) ?_
    | with_reducible refine Keeps.lit ?_ rfl rfl

theorem State.lsaFlood_keeps {z : State} (s : State) (h : Keeps z s) : Keeps z (State.lsaFlood s) := by
  unfold State.lsaFlood
  repeat' first
    | with_reducible assumption | (intro x; first | (refine Keeps.named (z := z) (s := x) ?_ ?_; focus subst x) | skip)
    | with_reducible apply State.incMod_keeps | with_reducible apply State.llSend_keeps | with_reducible apply Keeps.foldl | lift_lets | split
    | with_reducible refine Keeps.lit ?_ rfl rfl

theorem State.instarTo_keeps {z : State} (s : State) (n : ℕ) (h : Keeps z s) : Keeps z (State.instarTo s n) := by
  unfold State.instarTo
  repeat' first
    | with_reducible assumption | with_reducible apply State.lsaFlood_keeps | with_reducible apply State.setInstar_keeps

theorem State.fleave_keeps {z : State} (s : State) (p : ℕ) (n : ℕ) (h : Keeps z s) : Keeps z (State.fleave s p n) := by
  unfold State.fleave
  repeat' first
    | with_reducible assumption | (intro x; first | (refine Keeps.named (z := z) (s := x) ?_ ?_; focus subst x) | skip)
    | with_reducible apply State.alarm_keeps | with_reducible apply State.inc_keeps | with_reducible apply State.fenter_keeps
    | with_reducible apply State.timParent_keeps | with_reducible apply State.lsaFlood_keeps | lift_lets | split

theorem State.idFlags_keeps {z : State} (s : State) (h : Keeps z s) : Keeps z (State.idFlags s) := by
  unfold State.idFlags
  repeat' first
    | with_reducible assumption | with_reducible apply State.setB_keeps

theorem State.idClaim_keeps {z : State} (s : State) (skip : List ℕ) (h : Keeps z s) : Keeps z (State.idClaim s skip) := by
  unfold State.idClaim
  repeat' first
    | with_reducible assumption | with_reducible apply State.idFlags_keeps | with_reducible apply State.lsaFlood_keeps | split
    | with_reducible refine Keeps.of_fst (by assumption) ?_ | with_reducible refine Keeps.of_snd (by assumption) ?_
    | with_reducible refine Keeps.lit ?_ rfl rfl

theorem State.idFixed_keeps {z : State} (s : State) (h : Keeps z s) : Keeps z (State.idFixed s) := by
  unfold State.idFixed
  repeat' first
    | with_reducible assumption | (intro x; first | (refine Keeps.named (z := z) (s := x) ?_ ?_; focus subst x) | skip)
    | with_reducible apply State.idFlags_keeps | with_reducible apply State.setF_keeps | with_reducible apply State.setB_keeps | lift_lets
    | split | with_reducible refine Keeps.lit ?_ rfl rfl

theorem State.idTake_keeps {z : State} (s : State) (h : Keeps z s) : Keeps z (State.idTake s) := by
  unfold State.idTake
  repeat' first
    | with_reducible assumption | (intro x; first | (refine Keeps.named (z := z) (s := x) ?_ ?_; focus subst x) | skip)
    | with_reducible apply State.setCsr_keeps | with_reducible apply State.setF_keeps | with_reducible apply State.setB_keeps
    | with_reducible apply State.idFlags_keeps | with_reducible apply State.lsaFlood_keeps | split | lift_lets
    | with_reducible refine Keeps.of_fst (by assumption) ?_ | with_reducible refine Keeps.of_snd (by assumption) ?_
    | with_reducible refine Keeps.lit ?_ rfl rfl

theorem State.idClash_keeps {z : State} (s : State) (d : ℕ) (serial : ℕ) (fixed : Bool) (claim : Bool) (h : Keeps z s) :
    Keeps z (State.idClash s d serial fixed claim) := by
  unfold State.idClash
  repeat' first
    | with_reducible assumption | (intro x; first | (refine Keeps.named (z := z) (s := x) ?_ ?_; focus subst x) | skip)
    | with_reducible apply State.idClaim_keeps | with_reducible apply State.fleave_keeps | with_reducible apply State.alarm_keeps
    | with_reducible apply State.setB_keeps | with_reducible apply Keeps.foldl | lift_lets | split
    | with_reducible refine Keeps.of_fst (by assumption) ?_ | with_reducible refine Keeps.of_snd (by assumption) ?_

theorem State.pherSend_keeps {z : State} (s : State) (p : ℕ) (h : Keeps z s) : Keeps z (State.pherSend s p) := by
  unfold State.pherSend
  repeat' first
    | with_reducible assumption | (intro x; first | (refine Keeps.named (z := z) (s := x) ?_ ?_; focus subst x) | skip)
    | with_reducible apply State.llSend_keeps | with_reducible apply State.fportUpd_keeps | lift_lets | split
    | with_reducible refine Keeps.lit ?_ rfl rfl

theorem State.syncdb_keeps {z : State} (s : State) (p : ℕ) (h : Keeps z s) : Keeps z (State.syncdb s p) := by
  unfold State.syncdb
  repeat' first
    | with_reducible assumption | (intro x; first | (refine Keeps.named (z := z) (s := x) ?_ ?_; focus subst x) | skip)
    | with_reducible apply State.fportUpd_keeps | with_reducible apply State.fenter_keeps | with_reducible apply State.idClaim_keeps
    | with_reducible apply State.llSend_keeps | with_reducible apply Keeps.foldl | lift_lets | split
    | with_reducible refine Keeps.lit ?_ rfl rfl

theorem State.fup_keeps {z : State} (s : State) (p : ℕ) (h : Keeps z s) : Keeps z (State.fup s p) := by
  unfold State.fup
  repeat' first
    | with_reducible assumption | (intro x; first | (refine Keeps.named (z := z) (s := x) ?_ ?_; focus subst x) | skip)
    | with_reducible apply State.fportUpd_keeps | with_reducible apply State.fenter_keeps | with_reducible apply State.timParent_keeps
    | with_reducible apply State.lsaFlood_keeps | lift_lets | split | with_reducible refine Keeps.lit ?_ rfl rfl

theorem State.llAuth_keeps {z : State} (s : State) (f : Frame) (h : Keeps z s) : Keeps z (State.llAuth s f).2 := by
  unfold State.llAuth
  repeat' first
    | with_reducible assumption
    | (intro x; first | (refine Keeps.named (z := z) (s := x) ?_ ?_; focus subst x) | (refine Keeps.named (z := z) (s := x.1) ?_ ?_; focus subst x) | (refine Keeps.named (z := z) (s := x.2) ?_ ?_; focus subst x) | skip)
    | with_reducible apply State.authCheck_keeps | with_reducible apply State.inc_keeps | lift_lets | split

theorem State.pher_keeps {z : State} (s : State) (p : ℕ) (f : Frame) (h : Keeps z s) : Keeps z (State.pher s p f) := by
  unfold State.pher
  repeat' first
    | with_reducible assumption
    | (intro x; first | (refine Keeps.named (z := z) (s := x) ?_ ?_; focus subst x) | (refine Keeps.named (z := z) (s := x.1) ?_ ?_; focus subst x) | (refine Keeps.named (z := z) (s := x.2) ?_ ?_; focus subst x) | skip)
    | with_reducible apply State.llAuth_keeps | with_reducible apply State.fportUpd_keeps | with_reducible apply State.setF_keeps
    | with_reducible apply State.setB_keeps | with_reducible apply State.idClash_keeps | with_reducible apply State.fenter_keeps
    | with_reducible apply State.syncdb_keeps | lift_lets | split | with_reducible refine Keeps.of_fst (by assumption) ?_
    | with_reducible refine Keeps.of_snd (by assumption) ?_ | with_reducible refine Keeps.lit ?_ rfl rfl

theorem State.peerDead_keeps {z : State} (s : State) (p : ℕ) (h : Keeps z s) : Keeps z (State.peerDead s p) := by
  unfold State.peerDead
  repeat' first
    | with_reducible assumption | (intro x; first | (refine Keeps.named (z := z) (s := x) ?_ ?_; focus subst x) | skip)
    | with_reducible apply State.fportUpd_keeps | with_reducible apply State.setB_keeps | with_reducible apply State.fleave_keeps | lift_lets
    | split | with_reducible refine Keeps.of_fst (by assumption) ?_ | with_reducible refine Keeps.of_snd (by assumption) ?_
    | with_reducible refine Keeps.lit ?_ rfl rfl

theorem State.eportUpd_keeps {z : State} (s : State) (p : ℕ) (f : EthPort → EthPort) (h : Keeps z s) : Keeps z (State.eportUpd s p f) := by
  unfold State.eportUpd
  repeat' first
    | with_reducible assumption | with_reducible refine Keeps.lit ?_ rfl rfl

theorem State.ethTxs_keeps {z : State} (s : State) (p : ℕ) (os : List EthOut) (h : Keeps z s) : Keeps z (State.ethTxs s p os) := by
  unfold State.ethTxs
  repeat' first
    | with_reducible assumption | (intro x; first | (refine Keeps.named (z := z) (s := x) ?_ ?_; focus subst x) | skip)
    | with_reducible apply State.eportUpd_keeps | with_reducible apply State.incMod_keeps | with_reducible refine Keeps.lit ?_ rfl rfl

theorem State.ethTx_keeps {z : State} (s : State) (p : ℕ) (o : EthOut) (h : Keeps z s) : Keeps z (State.ethTx s p o) := by
  unfold State.ethTx
  repeat' first
    | with_reducible assumption | with_reducible apply State.ethTxs_keeps

theorem State.ethFresh_keeps {z : State} (s : State) (p : ℕ) (h : Keeps z s) : Keeps z (State.ethFresh s p) := by
  unfold State.ethFresh
  repeat' first
    | with_reducible assumption | (intro x; first | (refine Keeps.named (z := z) (s := x) ?_ ?_; focus subst x) | skip)
    | with_reducible apply State.eportUpd_keeps | with_reducible apply State.ethTxs_keeps | with_reducible refine Keeps.lit ?_ rfl rfl

theorem State.ethRises_keeps {z : State} (s : State) (old : State) (h : Keeps z s) (h1 : Keeps z old) : Keeps z (State.ethRises s old) := by
  unfold State.ethRises
  repeat' first
    | with_reducible assumption | (intro x; first | (refine Keeps.named (z := z) (s := x) ?_ ?_; focus subst x) | skip)
    | with_reducible apply State.ethFresh_keeps | with_reducible apply Keeps.foldl

theorem State.fabLock_keeps {z : State} (s : State) (p : ℕ) (signal : Bool) (lock : Bool) (h : Keeps z s) :
    Keeps z (State.fabLock s p signal lock) := by
  unfold State.fabLock
  repeat' first
    | with_reducible assumption | (intro x; first | (refine Keeps.named (z := z) (s := x) ?_ ?_; focus subst x) | skip)
    | with_reducible apply State.ethRises_keeps | with_reducible apply State.fabMasks_keeps | with_reducible apply State.setB_keeps
    | with_reducible apply State.fenter_keeps | with_reducible apply State.fleave_keeps | lift_lets | split

theorem State.fabTimeout_keeps {z : State} (s : State) (p : ℕ) (h : Keeps z s) : Keeps z (State.fabTimeout s p) := by
  unfold State.fabTimeout
  repeat' first
    | with_reducible assumption | (intro x; first | (refine Keeps.named (z := z) (s := x) ?_ ?_; focus subst x) | skip)
    | with_reducible apply State.fenter_keeps | with_reducible apply State.setB_keeps | lift_lets | split
    | with_reducible refine Keeps.of_fst (by assumption) ?_ | with_reducible refine Keeps.of_snd (by assumption) ?_

theorem State.dbDone_keeps {z : State} (s : State) (p : ℕ) (done : Bool) (h : Keeps z s) : Keeps z (State.dbDone s p done) := by
  unfold State.dbDone
  repeat' first
    | with_reducible assumption | (intro x; first | (refine Keeps.named (z := z) (s := x) ?_ ?_; focus subst x) | skip)
    | with_reducible apply State.fportUpd_keeps | with_reducible apply State.fup_keeps | with_reducible apply Keeps.cond | lift_lets | split
    | with_reducible refine Keeps.lit ?_ rfl rfl

theorem State.lsaStore_keeps {z : State} (s : State) (p : ℕ) (a : Lsa) (h : Keeps z s) : Keeps z (State.lsaStore s p a) := by
  unfold State.lsaStore
  repeat' first
    | with_reducible assumption | (intro x; first | (refine Keeps.named (z := z) (s := x) ?_ ?_; focus subst x) | skip)
    | with_reducible apply State.llSend_keeps | with_reducible apply Keeps.foldl | lift_lets | split
    | with_reducible refine Keeps.of_fst (by assumption) ?_ | with_reducible refine Keeps.of_snd (by assumption) ?_
    | with_reducible refine Keeps.lit ?_ rfl rfl

theorem State.lsa_keeps {z : State} (s : State) (p : ℕ) (f : Frame) (done : Bool) (h : Keeps z s) : Keeps z (State.lsa s p f done) := by
  unfold State.lsa
  repeat' first
    | with_reducible assumption | intro _ | with_reducible apply State.llAuth_keeps | with_reducible apply State.lsaFlood_keeps
    | with_reducible apply State.setCsr_keeps | with_reducible apply State.lsaStore_keeps | with_reducible apply State.idClash_keeps
    | with_reducible apply State.dbDone_keeps | with_reducible apply Keeps.cond | with_reducible apply Keeps.ite | extract_lets | split
    | (dsimp -zeta +zetaDelta only; split)

theorem State.lsaRefresh_keeps {z : State} (s : State) (h : Keeps z s) : Keeps z (State.lsaRefresh s) := by
  unfold State.lsaRefresh
  repeat' first
    | with_reducible assumption | with_reducible apply State.lsaFlood_keeps | split

theorem State.lsaMaxage_keeps {z : State} (s : State) (d : ℕ) (h : Keeps z s) : Keeps z (State.lsaMaxage s d) := by
  unfold State.lsaMaxage
  repeat' first
    | with_reducible assumption | (intro x; first | (refine Keeps.named (z := z) (s := x) ?_ ?_; focus subst x) | skip)
    | with_reducible refine Keeps.lit ?_ rfl rfl

theorem State.lcred_keeps {z : State} (s : State) (p : ℕ) (w : ℕ) (h : Keeps z s) : Keeps z (State.lcred s p w) := by
  unfold State.lcred
  repeat' first
    | with_reducible assumption | (intro x; first | (refine Keeps.named (z := z) (s := x) ?_ ?_; focus subst x) | skip)
    | with_reducible apply State.fportUpd_keeps | lift_lets | split

theorem State.lcredSend_keeps {z : State} (s : State) (p : ℕ) (h : Keeps z s) : Keeps z (State.lcredSend s p) := by
  unfold State.lcredSend
  repeat' first
    | with_reducible assumption | (intro x; first | (refine Keeps.named (z := z) (s := x) ?_ ?_; focus subst x) | skip)
    | with_reducible apply State.llSend_keeps | with_reducible apply State.fportUpd_keeps | with_reducible apply Keeps.foldl | lift_lets | split
    | with_reducible refine Keeps.lit ?_ rfl rfl

theorem State.funfree_keeps {z : State} (s : State) (p : ℕ) (c : ℕ) (n : ℕ) (h : Keeps z s) : Keeps z (State.funfree s p c n) := by
  unfold State.funfree
  repeat' first
    | with_reducible assumption | (intro x; first | (refine Keeps.named (z := z) (s := x) ?_ ?_; focus subst x) | skip)
    | with_reducible apply State.fportUpd_keeps | with_reducible refine Keeps.lit ?_ rfl rfl

theorem State.fabStart_keeps {z : State} (s : State) (p : ℕ) (h : Keeps z s) : Keeps z (State.fabStart s p) := by
  unfold State.fabStart
  repeat' first
    | with_reducible assumption | with_reducible apply State.fenter_keeps | split

theorem State.fabDown_keeps {z : State} (s : State) (p : ℕ) (h : Keeps z s) : Keeps z (State.fabDown s p) := by
  unfold State.fabDown
  repeat' first
    | with_reducible assumption | with_reducible apply State.fleave_keeps | split

theorem State.fabEnables_keeps {z : State} (s : State) (h : Keeps z s) : Keeps z (State.fabEnables s) := by
  unfold State.fabEnables
  repeat' first
    | with_reducible assumption | (intro x; first | (refine Keeps.named (z := z) (s := x) ?_ ?_; focus subst x) | skip)
    | with_reducible apply State.fabMasks_keeps | with_reducible apply State.fabStart_keeps | with_reducible apply State.fabDown_keeps
    | with_reducible apply Keeps.foldl | split

theorem State.writePortCfg_keeps {z : State} (s : State) (a : ℕ) (v : Word) (lease : Bool) (h : Keeps z s) :
    Keeps z (State.writePortCfg s a v lease) := by
  unfold State.writePortCfg
  repeat' first
    | with_reducible assumption | with_reducible apply State.ethRises_keeps | with_reducible apply State.fabEnables_keeps
    | with_reducible apply State.writeReg_keeps

theorem State.writePtpCfg_keeps {z : State} (s : State) (a : ℕ) (v : Word) (lease : Bool) (h : Keeps z s) :
    Keeps z (State.writePtpCfg s a v lease) := by
  unfold State.writePtpCfg
  repeat' first
    | with_reducible assumption | (intro x; first | (refine Keeps.named (z := z) (s := x) ?_ ?_; focus subst x) | skip)
    | with_reducible apply State.writeReg_keeps | with_reducible apply State.ethTxs_keeps | lift_lets | split

theorem State.fabRelease_keeps {z : State} (s : State) (h : Keeps z s) : Keeps z (State.fabRelease s) := by
  unfold State.fabRelease
  repeat' first
    | with_reducible assumption | (intro x; first | (refine Keeps.named (z := z) (s := x) ?_ ?_; focus subst x) | skip)
    | with_reducible apply State.fabEnables_keeps | with_reducible apply State.idFixed_keeps | lift_lets
    | with_reducible refine Keeps.lit ?_ rfl rfl

end Sys2Proof.Machine
end

