-- ==== Sys2Proof/Laws/Kept/FabRx.lean ====
section
/-! SUPPORT. What every function of Machine/FabRx.lean keeps (Laws/Keep.lean). -/

set_option linter.unusedTactic false
set_option linter.unreachableTactic false

namespace Sys2Proof.Machine

theorem State.postForeign_keeps {z : State} (s : State) (q : ℕ) (ty : ℕ) (tag : ℕ) (ws : List ℕ) (h : Keeps z s) :
    Keeps z (State.postForeign s q ty tag ws) := by
  unfold State.postForeign
  repeat' first
    | with_reducible assumption | (intro x; first | (refine Keeps.named (z := z) (s := x) ?_ ?_; focus subst x) | skip)
    | with_reducible apply State.inc_keeps | with_reducible apply State.publishEntry_keeps | with_reducible apply State.claim_keeps
    | with_reducible apply State.putWords_keeps | lift_lets | split | with_reducible refine Keeps.of_fst (by assumption) ?_
    | with_reducible refine Keeps.of_snd (by assumption) ?_

theorem State.fabMessage_keeps {z : State} (s : State) (ws : List ℕ) (h : Keeps z s) : Keeps z (State.fabMessage s ws) := by
  unfold State.fabMessage
  repeat' first
    | with_reducible assumption | (intro x; first | (refine Keeps.named (z := z) (s := x) ?_ ?_; focus subst x) | skip)
    | with_reducible apply State.cand_keeps | with_reducible apply State.acceptMsg_keeps | with_reducible apply State.rejectMsg_keeps
    | with_reducible apply State.build_keeps | with_reducible apply State.decBusyMsg_keeps | with_reducible apply State.grant_keeps
    | with_reducible apply State.credit_keeps | with_reducible apply State.tsubMsg_keeps | with_reducible apply State.tintMsg_keeps
    | with_reducible apply State.rann_keeps | with_reducible apply State.rreq_keeps | with_reducible apply State.rrel_keeps
    | with_reducible apply State.inc_keeps | lift_lets | split | with_reducible refine Keeps.of_fst (by assumption) ?_
    | with_reducible refine Keeps.of_snd (by assumption) ?_

theorem State.fabMgmt_keeps {z : State} (s : State) (src : ℕ) (host : ℕ) (route : Option (ℕ × List ℕ)) (auth : Bool) (frames : List Frame) (ws :
    List ℕ) (h : Keeps z s) :
    Keeps z (State.fabMgmt s src host route auth frames ws) := by
  unfold State.fabMgmt
  repeat' first
    | with_reducible assumption
    | (intro x; first | (refine Keeps.named (z := z) (s := x) ?_ ?_; focus subst x) | (refine Keeps.named (z := z) (s := x.1) ?_ ?_; focus subst x) | (refine Keeps.named (z := z) (s := x.2) ?_ ?_; focus subst x) | skip)
    | with_reducible apply State.inc_keeps | with_reducible apply State.bump_keeps | with_reducible apply State.eportUpd_keeps
    | with_reducible apply State.ethTxs_keeps | with_reducible apply State.postForeign_keeps | lift_lets | split
    | with_reducible refine Keeps.of_fst (by assumption) ?_ | with_reducible refine Keeps.of_snd (by assumption) ?_
    | with_reducible refine Keeps.lit ?_ rfl rfl

theorem State.fabDeliver_keeps {z : State} (s : State) (src : ℕ) (host : ℕ) (cls : ℕ) (kind : ℕ) (route : Option (ℕ × List ℕ)) (auth : Bool)
    (frames : List Frame) (ws : List ℕ) (h : Keeps z s) :
    Keeps z (State.fabDeliver s src host cls kind route auth frames ws) := by
  unfold State.fabDeliver
  repeat' first
    | with_reducible assumption | (intro x; first | (refine Keeps.named (z := z) (s := x) ?_ ?_; focus subst x) | skip)
    | with_reducible apply State.fragReceive_keeps | with_reducible apply State.postForeign_keeps | with_reducible apply State.inc_keeps
    | with_reducible apply State.fabMessage_keeps | with_reducible apply State.fabMgmt_keeps | lift_lets | split
    | with_reducible refine Keeps.of_fst (by assumption) ?_ | with_reducible refine Keeps.of_snd (by assumption) ?_

theorem State.fabFragment_keeps {z : State} (s : State) (arr : ℕ) (f : Frame) (raw : Frame) (auth : Bool) (h : Keeps z s) :
    Keeps z (State.fabFragment s arr f raw auth) := by
  unfold State.fabFragment
  repeat' first
    | with_reducible assumption | (intro x; first | (refine Keeps.named (z := z) (s := x) ?_ ?_; focus subst x) | skip)
    | with_reducible apply State.fabDeliver_keeps | with_reducible apply State.inc_keeps | lift_lets | split
    | with_reducible refine Keeps.of_fst (by assumption) ?_ | with_reducible refine Keeps.of_snd (by assumption) ?_
    | with_reducible refine Keeps.lit ?_ rfl rfl

theorem State.reasmTimeout_keeps {z : State} (s : State) (h : Keeps z s) : Keeps z (State.reasmTimeout s) := by
  unfold State.reasmTimeout
  repeat' first
    | with_reducible assumption | (intro x; first | (refine Keeps.named (z := z) (s := x) ?_ ?_; focus subst x) | skip)
    | with_reducible apply State.inc_keeps | lift_lets | with_reducible refine Keeps.lit ?_ rfl rfl

theorem State.crcErr_keeps {z : State} (s : State) (p : ℕ) (h : Keeps z s) : Keeps z (State.crcErr s p) := by
  unfold State.crcErr
  repeat' first
    | with_reducible assumption | with_reducible apply State.bump_keeps | with_reducible apply State.inc_keeps

theorem State.fabHere_keeps {z : State} (s : State) (arr : ℕ) (f : Frame) (h : Keeps z s) : Keeps z (State.fabHere s arr f) := by
  unfold State.fabHere
  repeat' first
    | with_reducible assumption | with_reducible apply State.authCheck_keeps | with_reducible apply State.fabFragment_keeps | split
    | with_reducible refine Keeps.of_fst (by assumption) ?_ | with_reducible refine Keeps.of_snd (by assumption) ?_

theorem State.fabForward_keeps {z : State} (s : State) (arr : ℕ) (out : ℕ) (f : Frame) (units : ℕ) (stomp : Bool) (h : Keeps z s) :
    Keeps z (State.fabForward s arr out f units stomp) := by
  unfold State.fabForward
  repeat' first
    | with_reducible assumption | (intro x; first | (refine Keeps.named (z := z) (s := x) ?_ ?_; focus subst x) | skip)
    | with_reducible apply State.inc_keeps | lift_lets | split | with_reducible refine Keeps.lit ?_ rfl rfl

theorem State.timexFrame_keeps {z : State} (s : State) (p : ℕ) (ws : List ℕ) (h : Keeps z s) : Keeps z (State.timexFrame s p ws) := by
  unfold State.timexFrame
  repeat' first
    | with_reducible assumption | (intro x; first | (refine Keeps.named (z := z) (s := x) ?_ ?_; focus subst x) | skip)
    | with_reducible apply State.timex_keeps | lift_lets

theorem State.fabLocal_keeps {z : State} (s : State) (p : ℕ) (f : Frame) (done : Bool) (h : Keeps z s) : Keeps z (State.fabLocal s p f done) := by
  unfold State.fabLocal
  repeat' first
    | with_reducible assumption | with_reducible apply State.dbDone_keeps | with_reducible apply State.pher_keeps
    | with_reducible apply State.timexFrame_keeps | with_reducible apply State.lcred_keeps | with_reducible apply State.lsa_keeps | split
    | with_reducible refine Keeps.of_fst (by assumption) ?_ | with_reducible refine Keeps.of_snd (by assumption) ?_

theorem State.fabFrame_keeps {z : State} (s : State) (p : ℕ) (sfd : Bool) (f : Frame) (done : Bool) (h : Keeps z s) :
    Keeps z (State.fabFrame s p sfd f done) := by
  unfold State.fabFrame
  repeat' first
    | with_reducible assumption | (intro x; first | (refine Keeps.named (z := z) (s := x) ?_ ?_; focus subst x) | skip)
    | with_reducible apply State.crcErr_keeps | with_reducible apply State.bump_keeps | with_reducible apply State.incMod_keeps
    | with_reducible apply State.fabLocal_keeps | with_reducible apply State.fportUpd_keeps | with_reducible apply State.funfree_keeps
    | with_reducible apply State.fabHere_keeps | with_reducible apply State.inc_keeps | with_reducible apply State.fabForward_keeps | lift_lets
    | split | with_reducible refine Keeps.of_fst (by assumption) ?_ | with_reducible refine Keeps.of_snd (by assumption) ?_
    | with_reducible refine Keeps.lit ?_ rfl rfl

end Sys2Proof.Machine
end

