-- ==== Sys2Proof/Laws/Kept/FabTx.lean ====
section
/-! SUPPORT. What every function of Machine/FabTx.lean keeps (Laws/Keep.lean). -/

set_option linter.unusedTactic false
set_option linter.unreachableTactic false

namespace Sys2Proof.Machine

theorem State.fabAnswer_keeps {z : State} (s : State) (h : Keeps z s) : Keeps z (State.fabAnswer s) := by
  unfold State.fabAnswer
  have hp : ∀ p, (if s.qEn 126 && !s.qHeld 126 then s.takeMine 126 (·.testBit 63) else none) = some p → Keeps z p.2 := fun p e => by
    split at e
    · exact State.takeMine_keeps h e
    · cases e
  revert hp
  generalize (if s.qEn 126 && !s.qHeld 126 then s.takeMine 126 (·.testBit 63) else none) = o
  intro hp
  cases o with
  | none => exact h
  | some p =>
    have h1 : Keeps z p.2 := hp _ rfl
    dsimp only
    split
    · exact h1
    · exact Keeps.lit h1 rfl rfl

theorem State.fabAnswers_keeps {z : State} (s : State) (h : Keeps z s) : Keeps z (State.fabAnswers s) := by
  unfold State.fabAnswers
  repeat' first
    | with_reducible assumption | (intro x; first | (refine Keeps.named (z := z) (s := x) ?_ ?_; focus subst x) | skip)
    | with_reducible apply State.fabAnswer_keeps | with_reducible apply Keeps.foldl

theorem State.txSpend_keeps {z : State} (s : State) (p : ℕ) (c : ℕ) (n : ℕ) (h : Keeps z s) : Keeps z (State.txSpend s p c n) := by
  unfold State.txSpend
  repeat' first
    | with_reducible assumption | (intro x; first | (refine Keeps.named (z := z) (s := x) ?_ ?_; focus subst x) | skip)
    | with_reducible apply State.fportUpd_keeps | with_reducible refine Keeps.lit ?_ rfl rfl

theorem State.txDone_keeps {z : State} (s : State) (x : TxProg) (h : Keeps z s) : Keeps z (State.txDone s x) := by
  unfold State.txDone
  repeat' first
    | with_reducible assumption | (intro x; first | (refine Keeps.named (z := z) (s := x) ?_ ?_; focus subst x) | skip)
    | with_reducible apply State.dequeue_keeps | with_reducible apply State.incMod_keeps | lift_lets | split
    | with_reducible refine Keeps.of_fst (by assumption) ?_ | with_reducible refine Keeps.of_snd (by assumption) ?_
    | with_reducible refine Keeps.lit ?_ rfl rfl

theorem State.txMade_keeps {z : State} (s : State) (x : TxProg) (h : Keeps z s) : Keeps z (State.txMade s x) := by
  unfold State.txMade
  repeat' first
    | with_reducible assumption
    | (intro x; first | (refine Keeps.named (z := z) (s := x) ?_ ?_; focus subst x) | (refine Keeps.named (z := z) (s := x.1) ?_ ?_; focus subst x) | (refine Keeps.named (z := z) (s := x.2) ?_ ?_; focus subst x) | skip)
    | with_reducible apply State.dramRead_keeps | with_reducible apply State.useFcnt_keeps | with_reducible apply Keeps.foldl
    | with_reducible apply Keeps.foldl_fst | with_reducible apply Keeps.foldl_snd | lift_lets | split
    | with_reducible refine Keeps.of_fst (by assumption) ?_ | with_reducible refine Keeps.of_snd (by assumption) ?_
    | with_reducible refine Keeps.lit ?_ rfl rfl

theorem State.txRun_keeps {z : State} (s : State) (p : ℕ) (x : TxProg) (h : Keeps z s) : Keeps z (State.txRun s p x) := by
  unfold State.txRun
  repeat' first
    | with_reducible assumption | intro _ | with_reducible apply State.fsent_keeps | with_reducible apply State.txSpend_keeps
    | with_reducible apply State.txMade_keeps | with_reducible apply State.txDone_keeps | with_reducible apply Keeps.ite | extract_lets | split
    | with_reducible refine Keeps.lit ?_ rfl rfl | (dsimp -zeta +zetaDelta only; split)

theorem State.txTake_keeps {z : State} (s : State) (p : ℕ) (x : TxProg) (h : Keeps z s) : Keeps z (State.txTake s p x).2 := by
  unfold State.txTake
  repeat' first
    | with_reducible assumption | (intro x; first | (refine Keeps.named (z := z) (s := x) ?_ ?_; focus subst x) | skip) | lift_lets | split
    | with_reducible refine Keeps.of_fst (by assumption) ?_ | with_reducible refine Keeps.of_snd (by assumption) ?_
    | with_reducible refine Keeps.lit ?_ rfl rfl

theorem State.txStart_keeps {z : State} (s : State) (p : ℕ) (x : TxProg) (h : Keeps z s) : Keeps z (State.txStart s p x) := by
  unfold State.txStart
  repeat' first
    | with_reducible assumption
    | (intro x; first | (refine Keeps.named (z := z) (s := x) ?_ ?_; focus subst x) | (refine Keeps.named (z := z) (s := x.1) ?_ ?_; focus subst x) | (refine Keeps.named (z := z) (s := x.2) ?_ ?_; focus subst x) | skip)
    | with_reducible apply State.txTake_keeps | with_reducible apply State.txRun_keeps | lift_lets

theorem State.selfFrames_keeps {z : State} (s : State) (n : Nat) (x : TxProg) (h : Keeps z s) : Keeps z (s.selfFrames n x).2 := by
  induction n generalizing s x with
  | zero => exact h
  | succ n ih =>
    unfold State.selfFrames
    extract_lets f s1 r
    have h1 : Keeps z s1 := State.txMade_keeps _ _ h
    split
    · exact h1
    · exact ih _ _ h1

theorem State.selfMsg_keeps {z : State} (s : State) (m : Msg) (h : Keeps z s) : Keeps z (State.selfMsg s m) := by
  unfold State.selfMsg
  repeat' first
    | with_reducible assumption
    | (intro x; first | (refine Keeps.named (z := z) (s := x) ?_ ?_; focus subst x) | (refine Keeps.named (z := z) (s := x.1) ?_ ?_; focus subst x) | (refine Keeps.named (z := z) (s := x.2) ?_ ?_; focus subst x) | skip)
    | with_reducible apply State.txTake_keeps | with_reducible apply State.selfFrames_keeps | with_reducible apply State.fabDeliver_keeps
    | lift_lets | split | with_reducible refine Keeps.lit ?_ rfl rfl

theorem State.txSelf_keeps {z : State} (s : State) (h : Keeps z s) : Keeps z (State.txSelf s) := by
  unfold State.txSelf
  repeat' first
    | with_reducible assumption | (intro x; first | (refine Keeps.named (z := z) (s := x) ?_ ?_; focus subst x) | skip)
    | with_reducible apply State.selfMsg_keeps | with_reducible apply State.fabDeliver_keeps | with_reducible apply State.dequeue_keeps | split
    | lift_lets | with_reducible refine Keeps.of_fst (by assumption) ?_ | with_reducible refine Keeps.of_snd (by assumption) ?_

theorem State.txDiscard_keeps {z : State} (s : State) (p : ℕ) (h : Keeps z s) : Keeps z (State.txDiscard s p) := by
  unfold State.txDiscard
  repeat' first
    | with_reducible assumption | (intro x; first | (refine Keeps.named (z := z) (s := x) ?_ ?_; focus subst x) | skip)
    | with_reducible apply State.incF_keeps | with_reducible apply State.dequeue_keeps | with_reducible apply State.inc_keeps
    | with_reducible apply Keeps.foldl | lift_lets | split

theorem State.txForward_keeps {z : State} (s : State) (p : ℕ) (x : FwdFrame) (h : Keeps z s) : Keeps z (State.txForward s p x) := by
  unfold State.txForward
  repeat' first
    | with_reducible assumption | (intro x; first | (refine Keeps.named (z := z) (s := x) ?_ ?_; focus subst x) | skip)
    | with_reducible apply State.fsent_keeps | with_reducible apply State.txSpend_keeps | with_reducible apply State.funfree_keeps | lift_lets
    | split | with_reducible refine Keeps.lit ?_ rfl rfl

theorem State.fwdPurge_keeps {z : State} (s : State) (h : Keeps z s) : Keeps z (State.fwdPurge s) := by
  unfold State.fwdPurge
  repeat' first
    | with_reducible assumption | (intro x; first | (refine Keeps.named (z := z) (s := x) ?_ ?_; focus subst x) | skip)
    | with_reducible apply State.inc_keeps | with_reducible apply State.funfree_keeps | with_reducible apply Keeps.foldl | lift_lets | split
    | with_reducible refine Keeps.lit ?_ rfl rfl

theorem State.fabSend_keeps {z : State} (s0 : State) (p : ℕ) (h : Keeps z s0) : Keeps z (State.fabSend s0 p) := by
  unfold State.fabSend
  repeat' first
    | with_reducible assumption | (intro x; first | (refine Keeps.named (z := z) (s := x) ?_ ?_; focus subst x) | skip)
    | with_reducible apply State.fwdPurge_keeps | with_reducible apply State.txDiscard_keeps | with_reducible apply State.txSelf_keeps
    | with_reducible apply State.fabAnswers_keeps | with_reducible apply State.txForward_keeps | with_reducible apply State.txStart_keeps
    | lift_lets | split | with_reducible refine Keeps.of_fst (by assumption) ?_ | with_reducible refine Keeps.of_snd (by assumption) ?_

theorem State.drainTap_keeps {z : State} (s : State) (t : ℕ) (h : Keeps z s) : Keeps z (State.drainTap s t) := by
  unfold State.drainTap
  repeat' first
    | with_reducible assumption
    | (intro x; first | (refine Keeps.named (z := z) (s := x) ?_ ?_; focus subst x) | (refine Keeps.named (z := z) (s := x.1) ?_ ?_; focus subst x) | (refine Keeps.named (z := z) (s := x.2) ?_ ?_; focus subst x) | skip)
    | with_reducible apply State.eportUpd_keeps | with_reducible apply Keeps.cond | lift_lets | split
    | with_reducible refine Keeps.of_fst (by assumption) ?_ | with_reducible refine Keeps.of_snd (by assumption) ?_
    | with_reducible refine Keeps.lit ?_ rfl rfl

theorem State.writeFwd_keeps {z : State} (s : State) (t : ℕ) (v : Word) (h : Keeps z s) : Keeps z (State.writeFwd s t v) := by
  unfold State.writeFwd
  repeat' first
    | with_reducible assumption | (intro x; first | (refine Keeps.named (z := z) (s := x) ?_ ?_; focus subst x) | skip)
    | with_reducible apply State.drainTap_keeps | with_reducible apply State.setB_keeps | with_reducible apply State.bump_keeps
    | with_reducible apply State.setCsr_keeps | with_reducible apply Keeps.cond | lift_lets | split

theorem State.tapSend_keeps {z : State} (s : State) (t : ℕ) (h : Keeps z s) : Keeps z (State.tapSend s t) := by
  unfold State.tapSend
  repeat' first
    | with_reducible assumption | (intro x; first | (refine Keeps.named (z := z) (s := x) ?_ ?_; focus subst x) | skip)
    | with_reducible apply State.txStart_keeps | with_reducible apply State.inc_keeps | with_reducible apply State.dequeue_keeps
    | with_reducible apply State.fabDeliver_keeps | with_reducible apply State.incMod_keeps | lift_lets | split
    | with_reducible refine Keeps.of_fst (by assumption) ?_ | with_reducible refine Keeps.of_snd (by assumption) ?_

end Sys2Proof.Machine
end

