-- ==== Sys2Proof/Laws/Kept/Eth.lean ====
section
/-! SUPPORT. What every function of Machine/Eth.lean keeps (Laws/Keep.lean). -/

set_option linter.unusedTactic false
set_option linter.unreachableTactic false

namespace Sys2Proof.Machine

theorem State.ethTo_keeps {z : State} (s : State) (p : ℕ) (kind : ℕ) (dseq : ℕ) (w1 : ℕ) (words : List ℕ) (h : Keeps z s) :
    Keeps z (State.ethTo s p kind dseq w1 words) := by
  unfold State.ethTo
  repeat' first
    | with_reducible assumption | with_reducible apply State.ethTx_keeps

theorem State.ethAsk_keeps {z : State} (s : State) (p : ℕ) (h : Keeps z s) : Keeps z (State.ethAsk s p) := by
  unfold State.ethAsk
  repeat' first
    | with_reducible assumption | with_reducible apply State.ethTx_keeps | split | with_reducible refine Keeps.lit ?_ rfl rfl

theorem State.ethPieceTx_keeps {z : State} (s : State) (p : ℕ) (x : EthPiece) (h : Keeps z s) : Keeps z (State.ethPieceTx s p x) := by
  unfold State.ethPieceTx
  repeat' first
    | with_reducible assumption | with_reducible apply State.ethTo_keeps

theorem State.ethRx_keeps {z : State} (s : State) (p : ℕ) (h : Keeps z s) : Keeps z (State.ethRx s p) := by
  unfold State.ethRx
  repeat' first
    | with_reducible assumption | with_reducible apply State.incMod_keeps

theorem State.ethDisc_keeps {z : State} (s : State) (p : ℕ) (h : Keeps z s) : Keeps z (State.ethDisc s p) := by
  unfold State.ethDisc
  repeat' first
    | with_reducible assumption | with_reducible apply State.incF_keeps

theorem State.ethUnack_keeps {z : State} (s : State) (p : ℕ) (h : Keeps z s) : Keeps z (State.ethUnack s p) := by
  unfold State.ethUnack
  repeat' first
    | with_reducible assumption | (intro x; first | (refine Keeps.named (z := z) (s := x) ?_ ?_; focus subst x) | skip)
    | with_reducible apply State.setF_keeps

theorem State.ethPieceOf_keeps {z : State} (s : State) (p : ℕ) (q : ℕ) (h : Keeps z s) : Keeps z (State.ethPieceOf s p q) := by
  unfold State.ethPieceOf
  repeat' first
    | with_reducible assumption
    | (intro x; first | (refine Keeps.named (z := z) (s := x) ?_ ?_; focus subst x) | (refine Keeps.named (z := z) (s := x.1) ?_ ?_; focus subst x) | (refine Keeps.named (z := z) (s := x.2) ?_ ?_; focus subst x) | skip)
    | with_reducible apply State.eportUpd_keeps | with_reducible apply State.ethUnack_keeps | with_reducible apply State.ethPieceTx_keeps
    | lift_lets | split | with_reducible refine Keeps.lit ?_ rfl rfl

theorem State.ethPiece_keeps {z : State} (s : State) (p : ℕ) (h : Keeps z s) : Keeps z (State.ethPiece s p) := by
  unfold State.ethPiece
  repeat' first
    | with_reducible assumption | with_reducible apply State.ethPieceOf_keeps | with_reducible apply State.ethAsk_keeps | split
    | with_reducible refine Keeps.of_fst (by assumption) ?_ | with_reducible refine Keeps.of_snd (by assumption) ?_

theorem State.fwdTap_keeps {z : State} (s : State) (t : ℕ) (h : Keeps z s) : Keeps z (State.fwdTap s t) := by
  unfold State.fwdTap
  repeat' first
    | with_reducible assumption
    | (intro x; first | (refine Keeps.named (z := z) (s := x) ?_ ?_; focus subst x) | (refine Keeps.named (z := z) (s := x.1) ?_ ?_; focus subst x) | (refine Keeps.named (z := z) (s := x.2) ?_ ?_; focus subst x) | skip)
    | with_reducible apply State.tapSend_keeps | with_reducible apply State.ethPieceOf_keeps | with_reducible apply State.ethAsk_keeps
    | with_reducible apply State.incF_keeps | with_reducible apply State.dequeue_keeps | lift_lets | split
    | with_reducible refine Keeps.of_fst (by assumption) ?_ | with_reducible refine Keeps.of_snd (by assumption) ?_

theorem State.ethRelease_keeps {z : State} (s : State) (p : ℕ) (q : ℕ) (h : Keeps z s) : Keeps z (State.ethRelease s p q) := by
  unfold State.ethRelease
  repeat' first
    | with_reducible assumption
    | (intro x; first | (refine Keeps.named (z := z) (s := x) ?_ ?_; focus subst x) | (refine Keeps.named (z := z) (s := x.1) ?_ ?_; focus subst x) | (refine Keeps.named (z := z) (s := x.2) ?_ ?_; focus subst x) | skip)
    | with_reducible apply State.eportUpd_keeps | with_reducible apply State.dequeue_keeps | with_reducible apply State.incMod_keeps
    | with_reducible apply Keeps.cond | with_reducible apply Keeps.foldl | with_reducible apply Keeps.foldl_fst
    | with_reducible apply Keeps.foldl_snd | split | lift_lets | with_reducible refine Keeps.of_fst (by assumption) ?_
    | with_reducible refine Keeps.of_snd (by assumption) ?_ | with_reducible refine Keeps.lit ?_ rfl rfl

theorem State.ethAck_keeps {z : State} (s : State) (p : ℕ) (dseq : ℕ) (sack : ℕ) (h : Keeps z s) : Keeps z (State.ethAck s p dseq sack) := by
  unfold State.ethAck
  repeat' first
    | with_reducible assumption | (intro x; first | (refine Keeps.named (z := z) (s := x) ?_ ?_; focus subst x) | skip)
    | with_reducible apply State.eportUpd_keeps | with_reducible apply State.ethRx_keeps | with_reducible apply State.ethUnack_keeps
    | with_reducible apply State.ethRelease_keeps | with_reducible apply Keeps.foldl | split | lift_lets
    | with_reducible refine Keeps.of_fst (by assumption) ?_ | with_reducible refine Keeps.of_snd (by assumption) ?_
    | with_reducible refine Keeps.lit ?_ rfl rfl

theorem State.ethStale_keeps {z : State} (s : State) (p : ℕ) (h : Keeps z s) : Keeps z (State.ethStale s p) := by
  unfold State.ethStale
  repeat' first
    | with_reducible assumption | (intro x; first | (refine Keeps.named (z := z) (s := x) ?_ ?_; focus subst x) | skip)
    | with_reducible apply State.alarm_keeps | with_reducible apply State.eportUpd_keeps | lift_lets | split
    | with_reducible refine Keeps.lit ?_ rfl rfl

theorem State.ethSync_keeps {z : State} (s0 : State) (p : ℕ) (h : Keeps z s0) : Keeps z (State.ethSync s0 p) := by
  unfold State.ethSync
  repeat' first
    | with_reducible assumption | (intro x; first | (refine Keeps.named (z := z) (s := x) ?_ ?_; focus subst x) | skip)
    | with_reducible apply State.ethStale_keeps | with_reducible apply State.ethAsk_keeps | with_reducible apply State.ethTo_keeps
    | with_reducible apply State.eportUpd_keeps | lift_lets | split | with_reducible refine Keeps.of_fst (by assumption) ?_
    | with_reducible refine Keeps.of_snd (by assumption) ?_ | with_reducible refine Keeps.lit ?_ rfl rfl

theorem State.ethRetransmit_keeps {z : State} (s0 : State) (p : ℕ) (h : Keeps z s0) : Keeps z (State.ethRetransmit s0 p) := by
  unfold State.ethRetransmit
  repeat' first
    | with_reducible assumption | (intro x; first | (refine Keeps.named (z := z) (s := x) ?_ ?_; focus subst x) | skip)
    | with_reducible apply State.ethStale_keeps | with_reducible apply State.ethAsk_keeps | with_reducible apply State.ethPieceTx_keeps
    | with_reducible apply State.inc_keeps | with_reducible apply State.eportUpd_keeps | lift_lets | split
    | with_reducible refine Keeps.of_fst (by assumption) ?_ | with_reducible refine Keeps.of_snd (by assumption) ?_
    | with_reducible refine Keeps.lit ?_ rfl rfl

theorem State.ethMgmt_keeps {z : State} (s : State) (p : ℕ) (addr : ℕ) (port : ℕ) (f : Frame) (h : Keeps z s) :
    Keeps z (State.ethMgmt s p addr port f) := by
  unfold State.ethMgmt
  repeat' first
    | with_reducible assumption
    | (intro x; first | (refine Keeps.named (z := z) (s := x) ?_ ?_; focus subst x) | (refine Keeps.named (z := z) (s := x.1) ?_ ?_; focus subst x) | (refine Keeps.named (z := z) (s := x.2) ?_ ?_; focus subst x) | skip)
    | with_reducible apply State.ethDisc_keeps | with_reducible apply State.ethRx_keeps | with_reducible apply State.authCheck_keeps
    | with_reducible apply State.eportUpd_keeps | with_reducible apply State.fabFragment_keeps | with_reducible apply State.fabForward_keeps
    | with_reducible apply State.inc_keeps | with_reducible apply Keeps.cond | lift_lets | split
    | with_reducible refine Keeps.of_fst (by assumption) ?_ | with_reducible refine Keeps.of_snd (by assumption) ?_
    | with_reducible refine Keeps.lit ?_ rfl rfl

theorem State.ethArp_keeps {z : State} (s : State) (p : ℕ) (reply : Bool) (target : ℕ) (sender : ℕ) (h : Keeps z s) :
    Keeps z (State.ethArp s p reply target sender) := by
  unfold State.ethArp
  repeat' first
    | with_reducible assumption | (intro x; first | (refine Keeps.named (z := z) (s := x) ?_ ?_; focus subst x) | skip)
    | with_reducible apply State.ethRx_keeps | with_reducible apply State.eportUpd_keeps | with_reducible apply State.ethTx_keeps
    | with_reducible apply Keeps.cond | lift_lets | split | with_reducible refine Keeps.lit ?_ rfl rfl

theorem State.ethDup_keeps {z : State} (s : State) (p : ℕ) (a : ℕ) (h : Keeps z s) : Keeps z (State.ethDup s p a) := by
  unfold State.ethDup
  repeat' first
    | with_reducible assumption | (intro x; first | (refine Keeps.named (z := z) (s := x) ?_ ?_; focus subst x) | skip)
    | with_reducible apply State.eportUpd_keeps | with_reducible refine Keeps.lit ?_ rfl rfl

theorem State.ethNd_keeps {z : State} (s : State) (p : ℕ) (solicit : Bool) (target : ℕ) (sender : ℕ) (h : Keeps z s) :
    Keeps z (State.ethNd s p solicit target sender) := by
  unfold State.ethNd
  repeat' first
    | with_reducible assumption | (intro x; first | (refine Keeps.named (z := z) (s := x) ?_ ?_; focus subst x) | skip)
    | with_reducible apply State.ethRx_keeps | with_reducible apply State.ethDup_keeps | with_reducible apply State.eportUpd_keeps
    | with_reducible apply State.ethDisc_keeps | with_reducible apply State.ethTx_keeps | with_reducible apply Keeps.cond | lift_lets | split
    | with_reducible refine Keeps.lit ?_ rfl rfl

theorem State.ethEcho_keeps {z : State} (s : State) (p : ℕ) (v6 : Bool) (target : ℕ) (sender : ℕ) (data : List ℕ) (h : Keeps z s) :
    Keeps z (State.ethEcho s p v6 target sender data) := by
  unfold State.ethEcho
  repeat' first
    | with_reducible assumption | (intro x; first | (refine Keeps.named (z := z) (s := x) ?_ ?_; focus subst x) | skip)
    | with_reducible apply State.ethTx_keeps | with_reducible apply State.ethRx_keeps | with_reducible apply State.ethDisc_keeps | lift_lets
    | split

theorem State.ethOther_keeps {z : State} (s : State) (p : ℕ) (h : Keeps z s) : Keeps z (State.ethOther s p) := by
  unfold State.ethOther
  repeat' first
    | with_reducible assumption | with_reducible apply State.ethDisc_keeps | with_reducible apply State.ethRx_keeps | split

theorem State.ptpUpd_keeps {z : State} (s : State) (f : PtpSt → PtpSt) (h : Keeps z s) : Keeps z (State.ptpUpd s f) := by
  unfold State.ptpUpd
  repeat' first
    | with_reducible assumption | with_reducible refine Keeps.lit ?_ rfl rfl

theorem State.ptpChoose_keeps {z : State} (s : State) (h : Keeps z s) : Keeps z s.ptpChoose := by
  unfold State.ptpChoose
  extract_lets ms best src s1 s2
  have h2 : Keeps z s2 := State.setB_keeps _ _ _ _ (State.ptpUpd_keeps _ _ h)
  generalize best = o
  cases o
  · exact h2
  · exact State.setPair_keeps _ _ _ h2

theorem State.ptpAnnounce_keeps {z : State} (s : State) (src : ℕ) (scale : Bool) (logInt : ℤ) (ds : List ℕ) (h : Keeps z s) :
    Keeps z (State.ptpAnnounce s src scale logInt ds) := by
  unfold State.ptpAnnounce
  repeat' first
    | with_reducible assumption | (intro x; first | (refine Keeps.named (z := z) (s := x) ?_ ?_; focus subst x) | skip)
    | with_reducible apply State.ptpChoose_keeps | with_reducible apply State.ptpUpd_keeps | lift_lets | split
    | with_reducible refine Keeps.lit ?_ rfl rfl

theorem State.ptpSynced_keeps {z : State} (s : State) (p : ℕ) (t1 : ℤ) (t2 : ℤ) (h : Keeps z s) : Keeps z (State.ptpSynced s p t1 t2) := by
  unfold State.ptpSynced
  repeat' first
    | with_reducible assumption | (intro x; first | (refine Keeps.named (z := z) (s := x) ?_ ?_; focus subst x) | skip)
    | with_reducible apply State.ethTx_keeps | with_reducible apply State.ptpUpd_keeps | lift_lets | with_reducible refine Keeps.lit ?_ rfl rfl

theorem State.ptpOffset_keeps {z : State} (s : State) (ofs : ℤ) (h : Keeps z s) : Keeps z (State.ptpOffset s ofs) := by
  unfold State.ptpOffset
  repeat' first
    | with_reducible assumption | (intro x; first | (refine Keeps.named (z := z) (s := x) ?_ ?_; focus subst x) | skip)
    | with_reducible apply State.result_keeps | with_reducible apply State.servo_keeps | lift_lets | split

theorem State.ptpMessage_keeps {z : State} (s : State) (v6 : Bool) (domain : ℕ) (m : PtpMsg) (h : Keeps z s) :
    Keeps z (State.ptpMessage s v6 domain m) := by
  unfold State.ptpMessage
  repeat' first
    | with_reducible assumption | (intro x; first | (refine Keeps.named (z := z) (s := x) ?_ ?_; focus subst x) | skip)
    | with_reducible apply State.ethDisc_keeps | with_reducible apply State.ethRx_keeps | with_reducible apply State.ptpAnnounce_keeps
    | with_reducible apply State.ptpUpd_keeps | with_reducible apply State.ptpSynced_keeps | with_reducible apply State.ptpOffset_keeps
    | lift_lets | split | with_reducible refine Keeps.of_fst (by assumption) ?_ | with_reducible refine Keeps.of_snd (by assumption) ?_
    | with_reducible refine Keeps.lit ?_ rfl rfl

theorem State.ptpLock_keeps {z : State} (s : State) (ok : Bool) (h : Keeps z s) : Keeps z (State.ptpLock s ok) := by
  unfold State.ptpLock
  repeat' first
    | with_reducible assumption | with_reducible apply State.rootEval_keeps | with_reducible apply State.setB_keeps

theorem State.keyInstall_keeps {z : State} (s : State) (slot : ℕ) (k : ℕ) (key : List ℕ) (h : Keeps z s) :
    Keeps z (State.keyInstall s slot k key) := by
  unfold State.keyInstall
  repeat' first
    | with_reducible assumption | (intro x; first | (refine Keeps.named (z := z) (s := x) ?_ ?_; focus subst x) | skip)
    | with_reducible refine Keeps.lit ?_ rfl rfl

theorem State.keyActivate_keeps {z : State} (s : State) (slot : ℕ) (k : ℕ) (h : Keeps z s) : Keeps z (State.keyActivate s slot k) := by
  unfold State.keyActivate
  repeat' first
    | with_reducible assumption | (intro x; first | (refine Keeps.named (z := z) (s := x) ?_ ?_; focus subst x) | skip)
    | with_reducible apply State.setFcnt_keeps | with_reducible apply State.setF_keeps | with_reducible apply State.setB_keeps | lift_lets
    | split | with_reducible refine Keeps.lit ?_ rfl rfl

end Sys2Proof.Machine
end

