-- ==== Sys2Proof/Laws/Kept/Mem.lean ====
section
/-! SUPPORT. What every function of Machine/Mem.lean keeps (Laws/Keep.lean). -/

set_option linter.unusedTactic false
set_option linter.unreachableTactic false

namespace Sys2Proof.Machine

theorem State.mchanUpd_keeps {z : State} (s : State) (n : ℕ) (f : MemChan → MemChan) (h : Keeps z s) : Keeps z (State.mchanUpd s n f) := by
  unfold State.mchanUpd
  repeat' first
    | with_reducible assumption | with_reducible refine Keeps.lit ?_ rfl rfl

theorem State.mtouch_keeps {z : State} (s : State) (n : ℕ) (h : Keeps z s) : Keeps z (State.mtouch s n) := by
  unfold State.mtouch
  repeat' first
    | with_reducible assumption | (intro x; first | (refine Keeps.named (z := z) (s := x) ?_ ?_; focus subst x) | skip)
    | with_reducible apply State.mchanUpd_keeps | with_reducible refine Keeps.lit ?_ rfl rfl

theorem State.admitEv_keeps {z : State} (s : State) (n : ℕ) (new : List (ℕ × ℕ × Bool)) (h : Keeps z s) : Keeps z (State.admitEv s n new) := by
  unfold State.admitEv
  repeat' first
    | with_reducible assumption
    | (intro x; first | (refine Keeps.named (z := z) (s := x) ?_ ?_; focus subst x) | (refine Keeps.named (z := z) (s := x.1) ?_ ?_; focus subst x) | (refine Keeps.named (z := z) (s := x.2) ?_ ?_; focus subst x) | skip)
    | with_reducible apply State.mchanUpd_keeps | with_reducible apply State.mtouch_keeps | lift_lets | split
    | with_reducible refine Keeps.lit ?_ rfl rfl

theorem State.admitStores_keeps {z : State} (s : State) (n : ℕ) (h : Keeps z s) : Keeps z (State.admitStores s n) := by
  unfold State.admitStores
  repeat' first
    | with_reducible assumption
    | (intro x; first | (refine Keeps.named (z := z) (s := x) ?_ ?_; focus subst x) | (refine Keeps.named (z := z) (s := x.1) ?_ ?_; focus subst x) | (refine Keeps.named (z := z) (s := x.2) ?_ ?_; focus subst x) | skip)
    | with_reducible apply State.admitEv_keeps | lift_lets

theorem State.commitStore_keeps {z : State} (s : State) (a : Nat) (h : Keeps z s) : Keeps z (s.commitStore a) := by
  unfold State.commitStore
  split
  · exact h
  · extract_lets c s1
    have h1 : Keeps z s1 := h.sameMem (fun w => ⟨Memory.writeN_wf w.mem _ _ _, w.pmem, w.dmem, w.img⟩) rfl rfl
    split
    · exact Keeps.lit h1 rfl rfl
    · exact h1

theorem State.memServe_keeps {z : State} (s : State) (n : ℕ) (r : MemReq) (h : Keeps z s) : Keeps z (State.memServe s n r) := by
  unfold State.memServe
  repeat' first
    | with_reducible assumption | (intro x; first | (refine Keeps.named (z := z) (s := x) ?_ ?_; focus subst x) | skip)
    | with_reducible apply State.mchanUpd_keeps | with_reducible apply State.mtouch_keeps | with_reducible apply State.commitStore_keeps
    | with_reducible apply State.dramRead_keeps | with_reducible apply State.engineRead_keeps | lift_lets | split
    | with_reducible refine Keeps.lit ?_ rfl rfl

theorem State.applyDelays_keeps {z : State} (s : State) (n : ℕ) (h : Keeps z s) : Keeps z (State.applyDelays s n) := by
  unfold State.applyDelays
  repeat' first
    | with_reducible assumption | (intro x; first | (refine Keeps.named (z := z) (s := x) ?_ ?_; focus subst x) | skip)
    | with_reducible apply Keeps.foldl | lift_lets | with_reducible refine Keeps.lit ?_ rfl rfl

theorem State.memStep_keeps {z : State} (s : State) (n : ℕ) (new : List (ℕ × ℕ × Bool)) (err : ℕ) (h : Keeps z s) :
    Keeps z (State.memStep s n new err) := by
  unfold State.memStep
  repeat' first
    | with_reducible assumption | (intro x; first | (refine Keeps.named (z := z) (s := x) ?_ ?_; focus subst x) | skip)
    | with_reducible apply State.admitEv_keeps | with_reducible apply State.admitStores_keeps | with_reducible apply State.mchanUpd_keeps
    | with_reducible apply State.applyDelays_keeps | with_reducible apply State.memServe_keeps | with_reducible apply State.upset_keeps
    | with_reducible apply Keeps.cond | lift_lets | split | with_reducible refine Keeps.of_fst (by assumption) ?_
    | with_reducible refine Keeps.of_snd (by assumption) ?_ | with_reducible refine Keeps.lit ?_ rfl rfl

theorem State.memRefresh_keeps {z : State} (s : State) (n : ℕ) (h : Keeps z s) : Keeps z (State.memRefresh s n) := by
  unfold State.memRefresh
  repeat' first
    | with_reducible assumption | (intro x; first | (refine Keeps.named (z := z) (s := x) ?_ ?_; focus subst x) | skip)
    | with_reducible apply State.mchanUpd_keeps | with_reducible refine Keeps.lit ?_ rfl rfl

theorem State.memRelease_keeps {z : State} (s : State) (h : Keeps z s) : Keeps z (State.memRelease s) := by
  unfold State.memRelease
  repeat' first
    | with_reducible assumption | with_reducible apply State.evbMerge_keeps | with_reducible apply State.crossDrain_keeps
    | with_reducible apply State.ringDrain_keeps

theorem State.scrubJudge_keeps {z : State} (s : State) (h : Keeps z s) : Keeps z (State.scrubJudge s) := by
  unfold State.scrubJudge
  repeat' first
    | with_reducible assumption | (intro x; first | (refine Keeps.named (z := z) (s := x) ?_ ?_; focus subst x) | skip)
    | with_reducible apply State.alarm_keeps | with_reducible apply State.setB_keeps | with_reducible apply Keeps.cond | lift_lets | split
    | with_reducible refine Keeps.lit ?_ rfl rfl

theorem State.admissionTick_keeps {z : State} (s : State) (h : Keeps z s) : Keeps z (State.admissionTick s) := by
  unfold State.admissionTick
  repeat' first
    | with_reducible assumption
    | (intro x; first | (refine Keeps.named (z := z) (s := x) ?_ ?_; focus subst x) | (refine Keeps.named (z := z) (s := x.1) ?_ ?_; focus subst x) | (refine Keeps.named (z := z) (s := x.2) ?_ ?_; focus subst x) | skip)
    | with_reducible apply State.mtouch_keeps | with_reducible apply State.setCsr_keeps | with_reducible apply State.bump_keeps
    | with_reducible apply State.inc_keeps | with_reducible apply State.setB_keeps | with_reducible apply State.memRelease_keeps
    | with_reducible apply State.scrubJudge_keeps | with_reducible apply State.alarm_keeps | with_reducible apply Keeps.foldl
    | with_reducible apply Keeps.foldl_fst | with_reducible apply Keeps.foldl_snd | lift_lets | split
    | with_reducible refine Keeps.lit ?_ rfl rfl

theorem State.scrubStep_keeps {z : State} (s : State) (err : ℕ) (h : Keeps z s) : Keeps z (State.scrubStep s err) := by
  unfold State.scrubStep
  repeat' first
    | with_reducible assumption | (intro x; first | (refine Keeps.named (z := z) (s := x) ?_ ?_; focus subst x) | skip)
    | with_reducible apply State.scrubJudge_keeps | with_reducible apply State.dramRead_keeps | with_reducible apply State.upset_keeps
    | with_reducible apply State.setPair_keeps | lift_lets | split | with_reducible refine Keeps.lit ?_ rfl rfl

theorem State.trnFlags_keeps {z : State} (s : State) (h : Keeps z s) : Keeps z (State.trnFlags s) := by
  unfold State.trnFlags
  repeat' first
    | with_reducible assumption | (intro x; first | (refine Keeps.named (z := z) (s := x) ?_ ?_; focus subst x) | skip)
    | with_reducible apply State.setF_keeps | lift_lets | split | with_reducible refine Keeps.of_fst (by assumption) ?_
    | with_reducible refine Keeps.of_snd (by assumption) ?_ | with_reducible refine Keeps.lit ?_ rfl rfl

theorem State.trainStart_keeps {z : State} (s : State) (t : Training) (h : Keeps z s) : Keeps z (State.trainStart s t) := by
  unfold State.trainStart
  repeat' first
    | with_reducible assumption | with_reducible apply State.trnFlags_keeps | with_reducible refine Keeps.lit ?_ rfl rfl

theorem State.trainNext_keeps {z : State} (s : State) (h : Keeps z s) : Keeps z (State.trainNext s) := by
  unfold State.trainNext
  repeat' first
    | with_reducible assumption | with_reducible apply State.trainStart_keeps | split | with_reducible refine Keeps.of_fst (by assumption) ?_
    | with_reducible refine Keeps.of_snd (by assumption) ?_ | with_reducible refine Keeps.lit ?_ rfl rfl

theorem State.trainAdd_keeps {z : State} (s : State) (t : Training) (h : Keeps z s) : Keeps z (State.trainAdd s t) := by
  unfold State.trainAdd
  repeat' first
    | with_reducible assumption | with_reducible apply State.trainStart_keeps | split | with_reducible refine Keeps.lit ?_ rfl rfl

theorem State.trnWrite_keeps {z : State} (s : State) (n : ℕ) (h : Keeps z s) : Keeps z (State.trnWrite s n) := by
  unfold State.trnWrite
  repeat' first
    | with_reducible assumption | (intro x; first | (refine Keeps.named (z := z) (s := x) ?_ ?_; focus subst x) | skip)
    | with_reducible apply State.mchanUpd_keeps | lift_lets | with_reducible refine Keeps.lit ?_ rfl rfl

theorem State.trnGo_keeps {z : State} (s : State) (v : Word) (h : Keeps z s) : Keeps z (State.trnGo s v) := by
  unfold State.trnGo
  repeat' first
    | with_reducible assumption | (intro x; first | (refine Keeps.named (z := z) (s := x) ?_ ?_; focus subst x) | skip)
    | with_reducible apply State.trnWrite_keeps | with_reducible apply State.setB_keeps | lift_lets | split
    | with_reducible refine Keeps.lit ?_ rfl rfl

theorem State.writeTrnCtl_keeps {z : State} (s : State) (v : Word) (h : Keeps z s) : Keeps z (State.writeTrnCtl s v) := by
  unfold State.writeTrnCtl
  repeat' first
    | with_reducible assumption | (intro x; first | (refine Keeps.named (z := z) (s := x) ?_ ?_; focus subst x) | skip)
    | with_reducible apply State.writeReg_keeps | with_reducible apply State.trnGo_keeps | lift_lets | split
    | with_reducible refine Keeps.lit ?_ rfl rfl

theorem State.rateStart_keeps {z : State} (s : State) (r : RateChange) (h : Keeps z s) : Keeps z (State.rateStart s r) := by
  unfold State.rateStart
  repeat' first
    | with_reducible assumption | (intro x; first | (refine Keeps.named (z := z) (s := x) ?_ ?_; focus subst x) | skip)
    | with_reducible apply State.trnFlags_keeps | with_reducible apply State.setB_keeps | lift_lets | split
    | with_reducible refine Keeps.of_fst (by assumption) ?_ | with_reducible refine Keeps.of_snd (by assumption) ?_
    | with_reducible refine Keeps.lit ?_ rfl rfl

theorem State.rateSettle_keeps {z : State} (s : State) (h : Keeps z s) : Keeps z (State.rateSettle s) := by
  unfold State.rateSettle
  repeat' first
    | with_reducible assumption | (intro x; first | (refine Keeps.named (z := z) (s := x) ?_ ?_; focus subst x) | skip)
    | with_reducible apply State.trainStart_keeps | with_reducible apply State.setF_keeps | lift_lets | split
    | with_reducible refine Keeps.of_fst (by assumption) ?_ | with_reducible refine Keeps.of_snd (by assumption) ?_
    | with_reducible refine Keeps.lit ?_ rfl rfl

theorem State.rateRequest_keeps {z : State} (s : State) (sel : ℕ) (tag : ℕ) (h : Keeps z s) : Keeps z (State.rateRequest s sel tag) := by
  unfold State.rateRequest
  repeat' first
    | with_reducible assumption | (intro x; first | (refine Keeps.named (z := z) (s := x) ?_ ?_; focus subst x) | skip)
    | with_reducible apply State.setF_keeps | with_reducible apply State.setB_keeps | with_reducible apply State.rateStart_keeps | lift_lets
    | split | with_reducible refine Keeps.lit ?_ rfl rfl

theorem State.trainAnswer_keeps {z : State} (s : State) (t : Training) (h : Keeps z s) : Keeps z (State.trainAnswer s t) := by
  unfold State.trainAnswer
  repeat' first
    | with_reducible assumption | (intro x; first | (refine Keeps.named (z := z) (s := x) ?_ ?_; focus subst x) | skip)
    | with_reducible apply State.lateAnswer_keeps | lift_lets | split | with_reducible refine Keeps.of_fst (by assumption) ?_
    | with_reducible refine Keeps.of_snd (by assumption) ?_

theorem State.trainDone_keeps {z : State} (s : State) (t : Training) (h : Keeps z s) : Keeps z (State.trainDone s t) := by
  unfold State.trainDone
  repeat' first
    | with_reducible assumption | (intro x; first | (refine Keeps.named (z := z) (s := x) ?_ ?_; focus subst x) | skip)
    | with_reducible apply State.trnFlags_keeps | with_reducible apply State.trainStart_keeps | with_reducible apply State.trainNext_keeps
    | with_reducible apply State.lateAnswer_keeps | with_reducible apply State.memRelease_keeps | with_reducible apply State.setB_keeps
    | with_reducible apply State.trainAnswer_keeps | lift_lets | split | with_reducible refine Keeps.of_fst (by assumption) ?_
    | with_reducible refine Keeps.of_snd (by assumption) ?_ | with_reducible refine Keeps.lit ?_ rfl rfl

theorem State.putDelays_keeps {z : State} (s : State) (n : ℕ) (mode : ℕ) (ds : List ℕ) (h : Keeps z s) : Keeps z (State.putDelays s n mode ds) := by
  unfold State.putDelays
  repeat' first
    | with_reducible assumption | (intro x; first | (refine Keeps.named (z := z) (s := x) ?_ ?_; focus subst x) | skip)
    | with_reducible apply State.setCsr_keeps | with_reducible apply Keeps.foldl | lift_lets | split
    | with_reducible refine Keeps.lit ?_ rfl rfl

theorem State.chanResult_keeps {z : State} (s : State) (n : ℕ) (mode : ℕ) (r : TrnResult) (h : Keeps z s) :
    Keeps z (State.chanResult s n mode r) := by
  unfold State.chanResult
  repeat' first
    | with_reducible assumption | (intro x; first | (refine Keeps.named (z := z) (s := x) ?_ ?_; focus subst x) | skip)
    | with_reducible apply State.trnWrite_keeps | with_reducible apply State.setF_keeps | with_reducible apply State.putDelays_keeps
    | with_reducible apply State.setB_keeps | with_reducible apply State.alarm_keeps | lift_lets | split

theorem State.chanTrained_keeps {z : State} (s : State) (r : TrnResult) (h : Keeps z s) : Keeps z (State.chanTrained s r) := by
  unfold State.chanTrained
  repeat' first
    | with_reducible assumption | (intro x; first | (refine Keeps.named (z := z) (s := x) ?_ ?_; focus subst x) | skip)
    | with_reducible apply State.trainDone_keeps | with_reducible apply State.chanResult_keeps | with_reducible apply State.trainStart_keeps
    | split | lift_lets | with_reducible refine Keeps.of_fst (by assumption) ?_ | with_reducible refine Keeps.of_snd (by assumption) ?_
    | with_reducible refine Keeps.lit ?_ rfl rfl

theorem State.gatherDone_keeps {z : State} (s : State) (reads : List (List (ℕ × ℕ))) (fin : Option TrnResult) (h : Keeps z s) :
    Keeps z (State.gatherDone s reads fin) := by
  unfold State.gatherDone
  repeat' first
    | with_reducible assumption | (intro x; first | (refine Keeps.named (z := z) (s := x) ?_ ?_; focus subst x) | skip)
    | with_reducible apply State.setCsr_keeps | with_reducible apply State.setB_keeps | with_reducible apply State.chanTrained_keeps
    | with_reducible apply State.rateSettle_keeps | with_reducible apply State.rateStart_keeps | with_reducible apply Keeps.foldl | split
    | lift_lets | with_reducible refine Keeps.of_fst (by assumption) ?_ | with_reducible refine Keeps.of_snd (by assumption) ?_
    | with_reducible refine Keeps.lit ?_ rfl rfl

theorem State.dramTemp_keeps {z : State} (s : State) (n : ℕ) (temp : ℕ) (h : Keeps z s) : Keeps z (State.dramTemp s n temp) := by
  unfold State.dramTemp
  repeat' first
    | with_reducible assumption | (intro x; first | (refine Keeps.named (z := z) (s := x) ?_ ?_; focus subst x) | skip)
    | with_reducible apply State.setF_keeps | with_reducible apply State.alarm_keeps | with_reducible apply State.setB_keeps
    | with_reducible apply State.trainAdd_keeps | lift_lets | split

theorem State.putTemps_keeps {z : State} (s : State) (temps : List ℕ) (h : Keeps z s) : Keeps z (State.putTemps s temps) := by
  unfold State.putTemps
  repeat' first
    | with_reducible assumption | (intro x; first | (refine Keeps.named (z := z) (s := x) ?_ ?_; focus subst x) | skip)
    | with_reducible apply State.setF_keeps | with_reducible apply Keeps.foldl

end Sys2Proof.Machine
end

