-- ==== Sys2Proof/Laws/Kept/Cmp.lean ====
section
/-! SUPPORT. What every function of Machine/Cmp.lean keeps (Laws/Keep.lean). -/

set_option linter.unusedTactic false
set_option linter.unreachableTactic false

namespace Sys2Proof.Machine

theorem State.laneSet_keeps {z : State} (s : State) (l : ℕ) (j : Option LaneJob) (h : Keeps z s) : Keeps z (State.laneSet s l j) := by
  unfold State.laneSet
  repeat' first
    | with_reducible assumption | (intro x; first | (refine Keeps.named (z := z) (s := x) ?_ ?_; focus subst x) | skip)
    | with_reducible apply State.setB_keeps | split | with_reducible refine Keeps.lit ?_ rfl rfl

theorem State.takeQueue_keeps {z : State} (s : State) (l : ℕ) (k : ℕ) (i : ℕ) (h : Keeps z s) : Keeps z (State.takeQueue s l k i) := by
  unfold State.takeQueue
  repeat' first
    | with_reducible assumption | (intro x; first | (refine Keeps.named (z := z) (s := x) ?_ ?_; focus subst x) | skip)
    | with_reducible apply State.engineRead_keeps | with_reducible apply State.bump_keeps | with_reducible apply State.setPair_keeps
    | with_reducible apply State.laneSet_keeps | lift_lets | split | with_reducible refine Keeps.lit ?_ rfl rfl

theorem State.laneTake_keeps {z : State} (s : State) (h : Keeps z s) : Keeps z (State.laneTake s) := by
  unfold State.laneTake
  repeat' first
    | with_reducible assumption | (intro x; first | (refine Keeps.named (z := z) (s := x) ?_ ?_; focus subst x) | skip)
    | with_reducible apply State.laneSet_keeps | with_reducible apply State.bump_keeps | with_reducible apply State.setPair_keeps
    | with_reducible apply State.takeQueue_keeps | lift_lets | split | with_reducible refine Keeps.of_fst (by assumption) ?_
    | with_reducible refine Keeps.of_snd (by assumption) ?_ | with_reducible refine Keeps.lit ?_ rfl rfl

theorem State.laneFree_keeps {z : State} (s : State) (l : ℕ) (j : LaneJob) (h : Keeps z s) : Keeps z (State.laneFree s l j) := by
  unfold State.laneFree
  repeat' first
    | with_reducible assumption | (intro x; first | (refine Keeps.named (z := z) (s := x) ?_ ?_; focus subst x) | skip)
    | with_reducible apply State.laneSet_keeps | with_reducible apply State.dequeue_keeps | lift_lets | split

theorem State.putChain_keeps {z : State} (s : State) (q : ℕ) (a2 : List ℕ) (a3 : List ℕ) (h : Keeps z s) : Keeps z (State.putChain s q a2 a3) := by
  induction a2 generalizing s a3 with
  | nil => exact h
  | cons x0 a2 ih =>
    unfold State.putChain
    repeat' first
      | with_reducible assumption | with_reducible apply ih | (intro x; first | (refine Keeps.named (z := z) (s := x) ?_ ?_; focus subst x) | skip)
      | with_reducible apply State.putWords_keeps | with_reducible apply State.claimWait_keeps | with_reducible apply State.take_keeps | lift_lets
      | split | with_reducible refine Keeps.of_fst (by assumption) ?_ | with_reducible refine Keeps.of_snd (by assumption) ?_
      | with_reducible refine Keeps.lit ?_ rfl rfl

theorem State.putOut_keeps {z : State} (s : State) (q : ℕ) (o : ℕ) (r : ℕ) (bufs : List ℕ) (ws : List ℕ) (tag : ℕ) (h : Keeps z s) :
    Keeps z (State.putOut s q o r bufs ws tag) := by
  unfold State.putOut
  repeat' first
    | with_reducible assumption | (intro x; first | (refine Keeps.named (z := z) (s := x) ?_ ?_; focus subst x) | skip)
    | with_reducible apply State.putWords_keeps | with_reducible apply State.putChain_keeps | with_reducible apply State.claimWait_keeps
    | with_reducible apply State.publishEntry_keeps | with_reducible apply State.setPair_keeps | lift_lets | split

theorem State.laneRefuse_keeps {z : State} (s : State) (l : ℕ) (j : LaneJob) (h : Keeps z s) : Keeps z (State.laneRefuse s l j) := by
  unfold State.laneRefuse
  repeat' first
    | with_reducible assumption | with_reducible apply State.laneFree_keeps | with_reducible apply State.publishEntry_keeps
    | with_reducible refine Keeps.lit ?_ rfl rfl

theorem State.lanePut_keeps {z : State} (s : State) (l : ℕ) (j : LaneJob) (o : ℕ) (r : ℕ) (bufs : List ℕ) (pass : Bool) (ws : List ℕ) (stored : ℕ)
    (h : Keeps z s) :
    Keeps z (State.lanePut s l j o r bufs pass ws stored) := by
  unfold State.lanePut
  repeat' first
    | with_reducible assumption | (intro x; first | (refine Keeps.named (z := z) (s := x) ?_ ?_; focus subst x) | skip)
    | with_reducible apply State.inc_keeps | with_reducible apply State.putOut_keeps | with_reducible apply State.recNext_keeps
    | with_reducible apply State.laneFree_keeps | lift_lets | split | with_reducible refine Keeps.lit ?_ rfl rfl

theorem State.laneGo_keeps {z : State} (s : State) (l : ℕ) (j : LaneJob) (r : ℕ) (need : ℕ) (pass : Bool) (ws : List ℕ) (stored : ℕ) (h : Keeps z
    s) :
    Keeps z (State.laneGo s l j r need pass ws stored) := by
  unfold State.laneGo
  repeat' first
    | with_reducible assumption | (intro x; first | (refine Keeps.named (z := z) (s := x) ?_ ?_; focus subst x) | skip)
    | with_reducible apply State.laneRefuse_keeps | with_reducible apply State.lanePut_keeps | split | lift_lets
    | with_reducible refine Keeps.of_fst (by assumption) ?_ | with_reducible refine Keeps.of_snd (by assumption) ?_
    | with_reducible refine Keeps.lit ?_ rfl rfl

theorem State.laneContainer_keeps {z : State} (s : State) (l : Nat) (j : LaneJob) (codes : List (List (List Nat × List Nat)))
    (spoilt : List (Nat × List Nat × Nat)) (h : Keeps z s) : Keeps z (State.laneContainer s l j codes spoilt) := by
  unfold State.laneContainer
  exact State.laneGo_keeps _ _ _ _ _ _ _ _ h

theorem State.jobRead_keeps {z : State} (s : State) (as : List ℕ) (h : Keeps z s) : Keeps z (State.jobRead s as) := by
  unfold State.jobRead
  repeat' first
    | with_reducible assumption | (intro x; first | (refine Keeps.named (z := z) (s := x) ?_ ?_; focus subst x) | skip)
    | with_reducible apply State.dramRead_keeps | with_reducible apply State.momentary_keeps | with_reducible apply Keeps.foldl | lift_lets
    | split

theorem State.inflateJob_keeps {z : State} (s : State) (l : ℕ) (j : LaneJob) (h : Keeps z s) : Keeps z (State.inflateJob s l j) := by
  unfold State.inflateJob
  repeat' first
    | with_reducible assumption
    | (intro x; first | (refine Keeps.named (z := z) (s := x) ?_ ?_; focus subst x) | (refine Keeps.named (z := z) (s := x.1) ?_ ?_; focus subst x) | (refine Keeps.named (z := z) (s := x.2) ?_ ?_; focus subst x) | skip)
    | with_reducible apply State.jobRead_keeps | with_reducible apply State.putWords_keeps | with_reducible apply State.inc_keeps
    | with_reducible apply State.laneFree_keeps | with_reducible apply State.publishEntry_keeps | lift_lets | split

theorem State.laneDone_keeps {z : State} (s : State) (l : ℕ) (codes : List (List (List ℕ × List ℕ))) (spoilt : List (ℕ × List ℕ × ℕ)) (h : Keeps z
    s) :
    Keeps z (State.laneDone s l codes spoilt) := by
  unfold State.laneDone
  repeat' first
    | with_reducible assumption
    | (intro x; first | (refine Keeps.named (z := z) (s := x) ?_ ?_; focus subst x) | (refine Keeps.named (z := z) (s := x.1) ?_ ?_; focus subst x) | (refine Keeps.named (z := z) (s := x.2) ?_ ?_; focus subst x) | skip)
    | with_reducible apply State.zipDone_keeps | with_reducible apply State.laneFree_keeps | with_reducible apply State.inc_keeps
    | with_reducible apply State.inflateJob_keeps | with_reducible apply State.laneContainer_keeps | lift_lets | split
    | with_reducible refine Keeps.of_fst (by assumption) ?_ | with_reducible refine Keeps.of_snd (by assumption) ?_
    | with_reducible refine Keeps.lit ?_ rfl rfl

theorem State.chainExpiry_keeps {z : State} (s : State) (l : ℕ) (h : Keeps z s) : Keeps z (State.chainExpiry s l) := by
  unfold State.chainExpiry
  repeat' first
    | with_reducible assumption | (intro x; first | (refine Keeps.named (z := z) (s := x) ?_ ?_; focus subst x) | skip)
    | with_reducible apply State.inc_keeps | with_reducible apply State.publishEntry_keeps | with_reducible apply State.laneFree_keeps
    | lift_lets | split | with_reducible refine Keeps.of_fst (by assumption) ?_ | with_reducible refine Keeps.of_snd (by assumption) ?_
    | with_reducible refine Keeps.lit ?_ rfl rfl

theorem State.writeCmpCfg_keeps {z : State} (s : State) (k : ℕ) (v : Word) (h : Keeps z s) : Keeps z (State.writeCmpCfg s k v) := by
  unfold State.writeCmpCfg
  repeat' first
    | with_reducible assumption | (intro x; first | (refine Keeps.named (z := z) (s := x) ?_ ?_; focus subst x) | skip)
    | with_reducible apply State.writeReg_keeps | with_reducible apply State.setB_keeps | lift_lets | split

theorem State.cmpTest_keeps {z : State} (s : State) (l : ℕ) (ok : Bool) (h : Keeps z s) : Keeps z (State.cmpTest s l ok) := by
  unfold State.cmpTest
  repeat' first
    | with_reducible assumption | (intro x; first | (refine Keeps.named (z := z) (s := x) ?_ ?_; focus subst x) | skip)
    | with_reducible apply State.alarm_keeps | with_reducible apply State.setB_keeps | with_reducible apply State.testRun_keeps
    | with_reducible apply Keeps.cond | split

end Sys2Proof.Machine
end

