-- ==== Sys2Proof/Laws/Kept/Rcv.lean ====
section
/-! SUPPORT. What every function of Machine/Rcv.lean keeps (Laws/Keep.lean). -/

set_option linter.unusedTactic false
set_option linter.unreachableTactic false

namespace Sys2Proof.Machine

theorem State.filtUpd_keeps {z : State} (s : State) (i : ℕ) (f : Filter → Filter) (h : Keeps z s) : Keeps z (State.filtUpd s i f) := by
  unfold State.filtUpd
  repeat' first
    | with_reducible assumption | with_reducible refine Keeps.lit ?_ rfl rfl

theorem State.settleAll_keeps {z : State} (s : State) (n : ℕ) (h : Keeps z s) : Keeps z (State.settleAll s n) := by
  unfold State.settleAll
  repeat' first
    | with_reducible assumption | with_reducible refine Keeps.lit ?_ rfl rfl

theorem State.settleSlots_keeps {z : State} (s : State) (m : ℕ) (n : ℕ) (h : Keeps z s) : Keeps z (State.settleSlots s m n) := by
  unfold State.settleSlots
  repeat' first
    | with_reducible assumption | (intro x; first | (refine Keeps.named (z := z) (s := x) ?_ ?_; focus subst x) | skip) | split
    | with_reducible refine Keeps.lit ?_ rfl rfl

theorem State.startCopy_keeps {z : State} (s : State) (i : ℕ) (fade : ℕ) (h : Keeps z s) : Keeps z (State.startCopy s i fade) := by
  unfold State.startCopy
  repeat' first
    | with_reducible assumption | (intro x; first | (refine Keeps.named (z := z) (s := x) ?_ ?_; focus subst x) | skip)
    | with_reducible apply State.filtUpd_keeps | with_reducible refine Keeps.lit ?_ rfl rfl

theorem State.writeSwap_keeps {z : State} (s : State) (v : Word) (h : Keeps z s) : Keeps z (State.writeSwap s v) := by
  unfold State.writeSwap
  repeat' first
    | with_reducible assumption | (intro x; first | (refine Keeps.named (z := z) (s := x) ?_ ?_; focus subst x) | skip)
    | with_reducible apply State.setB_keeps | with_reducible apply State.startCopy_keeps | with_reducible apply State.filtUpd_keeps
    | with_reducible apply State.inc_keeps | with_reducible apply Keeps.cond | lift_lets | split | with_reducible refine Keeps.lit ?_ rfl rfl

theorem State.copyDone_keeps {z : State} (s : State) (i : ℕ) (h : Keeps z s) : Keeps z (State.copyDone s i) := by
  unfold State.copyDone
  repeat' first
    | with_reducible assumption | (intro x; first | (refine Keeps.named (z := z) (s := x) ?_ ?_; focus subst x) | skip)
    | with_reducible apply State.filtUpd_keeps | split | with_reducible refine Keeps.of_fst (by assumption) ?_
    | with_reducible refine Keeps.of_snd (by assumption) ?_ | with_reducible refine Keeps.lit ?_ rfl rfl

theorem State.fadeOver_keeps {z : State} (s : State) (i : ℕ) (keep : Bool) (h : Keeps z s) : Keeps z (State.fadeOver s i keep) := by
  unfold State.fadeOver
  repeat' first
    | with_reducible assumption | (intro x; first | (refine Keeps.named (z := z) (s := x) ?_ ?_; focus subst x) | skip)
    | with_reducible apply State.filtUpd_keeps | with_reducible apply State.startCopy_keeps | split
    | with_reducible refine Keeps.of_fst (by assumption) ?_ | with_reducible refine Keeps.of_snd (by assumption) ?_
    | with_reducible refine Keeps.lit ?_ rfl rfl

theorem State.fadeEnd_keeps {z : State} (s : State) (i : ℕ) (h : Keeps z s) : Keeps z (State.fadeEnd s i) := by
  unfold State.fadeEnd
  repeat' first
    | with_reducible assumption | (intro x; first | (refine Keeps.named (z := z) (s := x) ?_ ?_; focus subst x) | skip)
    | with_reducible apply State.fadeOver_keeps | lift_lets | split | with_reducible refine Keeps.of_fst (by assumption) ?_
    | with_reducible refine Keeps.of_snd (by assumption) ?_

theorem State.filtLaunch_keeps {z : State} (s : State) (i : ℕ) (slots : ℕ) (start : ℕ) (n : ℕ) (h : Keeps z s) :
    Keeps z (State.filtLaunch s i slots start n).2.2 := by
  unfold State.filtLaunch
  repeat' first
    | with_reducible assumption | (intro x; first | (refine Keeps.named (z := z) (s := x) ?_ ?_; focus subst x) | skip)
    | with_reducible apply State.filtUpd_keeps | with_reducible apply State.settleAll_keeps | with_reducible apply State.fadeOver_keeps
    | with_reducible apply Keeps.cond | lift_lets | split | with_reducible refine Keeps.of_fst (by assumption) ?_
    | with_reducible refine Keeps.of_snd (by assumption) ?_ | with_reducible refine Keeps.lit ?_ rfl rfl

theorem State.fadesEnd_keeps {z : State} (s : State) (h : Keeps z s) : Keeps z (State.fadesEnd s) := by
  unfold State.fadesEnd
  repeat' first
    | with_reducible assumption | (intro x; first | (refine Keeps.named (z := z) (s := x) ?_ ?_; focus subst x) | skip)
    | with_reducible apply State.fadeOver_keeps | with_reducible apply Keeps.foldl | split
    | with_reducible refine Keeps.of_fst (by assumption) ?_ | with_reducible refine Keeps.of_snd (by assumption) ?_
    | with_reducible refine Keeps.lit ?_ rfl rfl

theorem State.genStart_keeps {z : State} (s : State) (k : ℕ) (h : Keeps z s) : Keeps z (State.genStart s k) := by
  unfold State.genStart
  repeat' first
    | with_reducible assumption | (intro x; first | (refine Keeps.named (z := z) (s := x) ?_ ?_; focus subst x) | skip)
    | with_reducible apply State.filtUpd_keeps | with_reducible refine Keeps.lit ?_ rfl rfl

theorem State.genDone_keeps {z : State} (s : State) (k : ℕ) (h : Keeps z s) : Keeps z (State.genDone s k) := by
  unfold State.genDone
  repeat' first
    | with_reducible assumption | (intro x; first | (refine Keeps.named (z := z) (s := x) ?_ ?_; focus subst x) | skip)
    | with_reducible apply State.filtUpd_keeps | lift_lets | split | with_reducible refine Keeps.lit ?_ rfl rfl

theorem State.writePcctl_keeps {z : State} (s : State) (v : Word) (h : Keeps z s) : Keeps z (State.writePcctl s v) := by
  unfold State.writePcctl
  repeat' first
    | with_reducible assumption | (intro x; first | (refine Keeps.named (z := z) (s := x) ?_ ?_; focus subst x) | skip)
    | with_reducible apply State.writeReg_keeps | with_reducible apply State.genStart_keeps | with_reducible apply Keeps.foldl | lift_lets
    | split | with_reducible refine Keeps.lit ?_ rfl rfl

theorem State.writeCsData_keeps {z : State} (s : State) (v : Word) (h : Keeps z s) : Keeps z (State.writeCsData s v) := by
  unfold State.writeCsData
  repeat' first
    | with_reducible assumption | (intro x; first | (refine Keeps.named (z := z) (s := x) ?_ ?_; focus subst x) | skip)
    | with_reducible apply State.setB_keeps | with_reducible apply State.setF_keeps | with_reducible apply State.filtUpd_keeps | lift_lets
    | split | with_reducible refine Keeps.of_fst (by assumption) ?_ | with_reducible refine Keeps.of_snd (by assumption) ?_
    | with_reducible refine Keeps.lit ?_ rfl rfl

theorem State.writeRcvCtl_keeps {z : State} (s : State) (v : Word) (h : Keeps z s) : Keeps z (State.writeRcvCtl s v) := by
  unfold State.writeRcvCtl
  repeat' first
    | with_reducible assumption | (intro x; first | (refine Keeps.named (z := z) (s := x) ?_ ?_; focus subst x) | skip)
    | with_reducible apply State.writeReg_keeps | with_reducible apply State.settleAll_keeps | with_reducible apply Keeps.cond | lift_lets

theorem State.writeLosb_keeps {z : State} (s : State) (v : Word) (h : Keeps z s) : Keeps z (State.writeLosb s v) := by
  unfold State.writeLosb
  repeat' first
    | with_reducible assumption | (intro x; first | (refine Keeps.named (z := z) (s := x) ?_ ?_; focus subst x) | skip)
    | with_reducible apply State.writeReg_keeps | with_reducible apply State.settleAll_keeps | with_reducible apply Keeps.cond | lift_lets
    | with_reducible refine Keeps.lit ?_ rfl rfl

theorem State.writeRaw_keeps {z : State} (s : State) (v : Word) (h : Keeps z s) : Keeps z (State.writeRaw s v) := by
  unfold State.writeRaw
  repeat' first
    | with_reducible assumption | (intro x; first | (refine Keeps.named (z := z) (s := x) ?_ ?_; focus subst x) | skip)
    | with_reducible apply State.setB_keeps | with_reducible apply State.writeReg_keeps | lift_lets | split

theorem State.writeRawlen_keeps {z : State} (s : State) (v : Word) (h : Keeps z s) : Keeps z (State.writeRawlen s v) := by
  unfold State.writeRawlen
  repeat' first
    | with_reducible assumption | with_reducible apply State.writeReg_keeps

theorem State.rawCapture_keeps {z : State} (s : State) (l : Launch) (h : Keeps z s) : Keeps z (State.rawCapture s l) := by
  unfold State.rawCapture
  repeat' first
    | with_reducible assumption | (intro x; first | (refine Keeps.named (z := z) (s := x) ?_ ?_; focus subst x) | skip)
    | with_reducible apply State.incF_keeps | with_reducible apply State.publishAll_keeps | with_reducible apply State.setB_keeps
    | with_reducible apply State.setF_keeps | with_reducible apply Keeps.cond | lift_lets | split
    | with_reducible refine Keeps.of_fst (by assumption) ?_ | with_reducible refine Keeps.of_snd (by assumption) ?_
    | with_reducible refine Keeps.lit ?_ rfl rfl

theorem State.tailsDone_keeps {z : State} (s : State) (h : Keeps z s) : Keeps z (State.tailsDone s) := by
  unfold State.tailsDone
  repeat' first
    | with_reducible assumption | (intro x; first | (refine Keeps.named (z := z) (s := x) ?_ ?_; focus subst x) | skip)
    | with_reducible apply State.dtsClose_keeps | with_reducible apply State.rawCapture_keeps | with_reducible apply Keeps.foldl
    | with_reducible refine Keeps.lit ?_ rfl rfl

theorem State.take_keeps {z : State} (s : State) (xs : List Adc) (h : Keeps z s) : Keeps z (State.take s xs) := by
  unfold State.take
  repeat' first
    | with_reducible assumption | with_reducible apply State.tailsDone_keeps | with_reducible apply State.feed_keeps

end Sys2Proof.Machine
end

