-- ==== Sys2Proof/Laws/Kept/Lch.lean ====
section
/-! SUPPORT. What every function of Machine/Lch.lean keeps (Laws/Keep.lean). -/

set_option linter.unusedTactic false
set_option linter.unreachableTactic false

namespace Sys2Proof.Machine

theorem State.runEnded_keeps {z : State} (s : State) (h : Keeps z s) : Keeps z (State.runEnded s) := by
  unfold State.runEnded
  repeat' first
    | with_reducible assumption | (intro x; first | (refine Keeps.named (z := z) (s := x) ?_ ?_; focus subst x) | skip)
    | with_reducible apply State.strEnd_keeps | with_reducible apply State.dtsEnd_keeps | with_reducible apply State.fadesEnd_keeps | lift_lets
    | split | with_reducible refine Keeps.lit ?_ rfl rfl

theorem State.seqStop_keeps {z : State} (s : State) (h : Keeps z s) : Keeps z (State.seqStop s) := by
  unfold State.seqStop
  repeat' first
    | with_reducible assumption | with_reducible apply State.runEnded_keeps | with_reducible refine Keeps.lit ?_ rfl rfl

theorem State.refuse_keeps {z : State} (s : State) (w : Why) (h : Keeps z s) : Keeps z (State.refuse s w) := by
  unfold State.refuse
  repeat' first
    | with_reducible assumption | with_reducible apply State.setF_keeps

theorem State.settleChanged_keeps {z : State} (s : State) (k : ℕ) (h : Keeps z s) : Keeps z (State.settleChanged s k) := by
  unfold State.settleChanged
  repeat' first
    | with_reducible assumption | (intro x; first | (refine Keeps.named (z := z) (s := x) ?_ ?_; focus subst x) | skip)
    | with_reducible apply State.settleSlots_keeps | lift_lets | split | with_reducible refine Keeps.of_fst (by assumption) ?_
    | with_reducible refine Keeps.of_snd (by assumption) ?_ | with_reducible refine Keeps.lit ?_ rfl rfl

theorem State.frmStart_keeps {z : State} (s : State) (stamp : ℕ) (per : ℕ) (h : Keeps z s) : Keeps z (State.frmStart s stamp per).2.2 := by
  unfold State.frmStart
  repeat' first
    | with_reducible assumption
    | (intro x; first | (refine Keeps.named (z := z) (s := x) ?_ ?_; focus subst x) | (refine Keeps.named (z := z) (s := x.1) ?_ ?_; focus subst x) | (refine Keeps.named (z := z) (s := x.2) ?_ ?_; focus subst x) | skip)
    | with_reducible apply State.refuse_keeps | with_reducible apply State.setB_keeps | with_reducible apply State.settleAll_keeps
    | with_reducible apply State.setF_keeps | with_reducible apply State.settleChanged_keeps | with_reducible apply State.strStart_keeps
    | with_reducible apply Keeps.cond | with_reducible apply Keeps.foldl | with_reducible apply Keeps.foldl_fst
    | with_reducible apply Keeps.foldl_snd | lift_lets | split | with_reducible refine Keeps.of_fst (by assumption) ?_
    | with_reducible refine Keeps.of_snd (by assumption) ?_ | with_reducible refine Keeps.lit ?_ rfl rfl

theorem State.lnch_keeps {z : State} (s : State) (k : ℕ) (stamp : ℕ) (h : Keeps z s) : Keeps z (State.lnch s k stamp).2.2 := by
  unfold State.lnch
  repeat' first
    | with_reducible assumption | intro _ | with_reducible apply State.refuse_keeps | with_reducible apply Keeps.ite | extract_lets | split
    | with_reducible refine Keeps.of_fst (by assumption) ?_ | with_reducible refine Keeps.of_snd (by assumption) ?_
    | with_reducible refine Keeps.lit ?_ rfl rfl | (dsimp -zeta +zetaDelta only; split)

theorem State.stopAfter_keeps {z : State} (s : State) (w : Option Launch) (h : Keeps z s) : Keeps z (State.stopAfter s w) := by
  unfold State.stopAfter
  repeat' first
    | with_reducible assumption | with_reducible apply State.seqStop_keeps | split | with_reducible refine Keeps.of_fst (by assumption) ?_
    | with_reducible refine Keeps.of_snd (by assumption) ?_ | with_reducible refine Keeps.lit ?_ rfl rfl

theorem State.frmStop_keeps {z : State} (s : State) (a : Option ℕ) (h : Keeps z s) : Keeps z (State.frmStop s a) := by
  unfold State.frmStop
  repeat' first
    | with_reducible assumption
    | (intro x; first | (refine Keeps.named (z := z) (s := x) ?_ ?_; focus subst x) | (refine Keeps.named (z := z) (s := x.1) ?_ ?_; focus subst x) | (refine Keeps.named (z := z) (s := x.2) ?_ ?_; focus subst x) | skip)
    | with_reducible apply State.stopAfter_keeps | lift_lets | split | with_reducible refine Keeps.of_fst (by assumption) ?_
    | with_reducible refine Keeps.of_snd (by assumption) ?_ | with_reducible refine Keeps.lit ?_ rfl rfl

theorem State.withhold_keeps {z : State} (s : State) (h : Keeps z s) : Keeps z (State.withhold s) := by
  unfold State.withhold
  repeat' first
    | with_reducible assumption | (intro x; first | (refine Keeps.named (z := z) (s := x) ?_ ?_; focus subst x) | skip)
    | with_reducible apply State.bump_keeps | with_reducible apply State.inc_keeps | lift_lets | with_reducible refine Keeps.lit ?_ rfl rfl

theorem State.leaveSafe_keeps {z : State} (s : State) (h : Keeps z s) : Keeps z (State.leaveSafe s) := by
  unfold State.leaveSafe
  repeat' first
    | with_reducible assumption | (intro x; first | (refine Keeps.named (z := z) (s := x) ?_ ?_; focus subst x) | skip)
    | with_reducible apply State.settleAll_keeps | with_reducible apply State.setB_keeps | lift_lets
    | with_reducible refine Keeps.lit ?_ rfl rfl

theorem State.monStart_keeps {z : State} (s : State) (start : ℕ) (h : Keeps z s) : Keeps z (State.monStart s start).2 := by
  unfold State.monStart
  repeat' first
    | with_reducible assumption | with_reducible apply State.tdcStart_keeps | split

theorem State.emitCode_keeps {z : State} (s : State) (p : PlanRegs) (plan a b c : Word) (entry start frame per tail : Nat) (single fib : Bool)
    (h : Keeps z s) : Keeps z (State.emitCode s p plan a b c entry start frame per tail single fib) := by
  unfold State.emitCode
  extract_lets slots code temp dts das window cyc s1 s2 side s3 s4 n f0 f1 fk m s5 memb owed single3 safe first l r l' s7
  have h1 : Keeps z s1 := Keeps.cond _ h fun _ w => State.leaveSafe_keeps _ w
  have h2 : Keeps z s2 := Keeps.cond _ h1 fun _ w => State.settleAll_keeps _ _ w
  have h3 : Keeps z s3 := Keeps.cond _ h2 fun _ w => State.settleAll_keeps _ _ (Keeps.lit w rfl rfl)
  have h4 : Keeps z s4 := State.settleChanged_keeps _ _ h3
  have h5 : Keeps z f0.2.2 := by
    by_cases hc : (!das) = true
    · rw [show f0 = _ from if_pos hc]; exact h4
    · rw [show f0 = _ from if_neg hc]; exact State.filtLaunch_keeps _ _ _ _ _ h4
  have h6 : Keeps z f1.2.2 := by
    by_cases hc : dts = true
    · rw [show f1 = _ from if_pos hc]; exact State.filtLaunch_keeps _ _ _ _ _ h5
    · rw [show f1 = _ from if_neg hc]; exact h5
  have h8 : Keeps z s5 := State.monStart_keeps _ _ (State.filtLaunch_keeps _ _ _ _ _ h6)
  have h9 : Keeps z s7 := State.hkBlank_keeps _ _ _ _ (State.bump_keeps _ _ _ (State.dtsLaunch_keeps _ _ h8))
  exact Keeps.lit h9 rfl rfl

theorem State.emit_keeps {z : State} (s : State) (entry : ℕ) (start : ℕ) (frame : ℕ) (per : ℕ) (tail : ℕ) (single : Bool) (h : Keeps z s) :
    Keeps z (State.emit s entry start frame per tail single) := by
  unfold State.emit
  repeat' first
    | with_reducible assumption | intro _ | with_reducible apply State.emitCode_keeps | with_reducible apply Keeps.ite
    | (dsimp -zeta +zetaDelta only; split)

theorem State.fibEmit_keeps {z : State} (s : State) (h : Keeps z s) : Keeps z (State.fibEmit s) := by
  unfold State.fibEmit
  repeat' first
    | with_reducible assumption | intro _ | with_reducible apply State.emitCode_keeps | with_reducible apply Keeps.ite | extract_lets
    | with_reducible refine Keeps.lit ?_ rfl rfl | (dsimp -zeta +zetaDelta only; split)

theorem State.seqLaunch_keeps {z : State} (s : State) (q : SeqRun) (j : ℕ) (start : ℕ) (entry : ℕ) (h : Keeps z s) :
    Keeps z (State.seqLaunch s q j start entry) := by
  unfold State.seqLaunch
  repeat' first
    | with_reducible assumption | (intro x; first | (refine Keeps.named (z := z) (s := x) ?_ ?_; focus subst x) | skip)
    | with_reducible apply State.withhold_keeps | with_reducible apply State.emit_keeps | with_reducible apply State.seqStop_keeps | lift_lets
    | split | with_reducible refine Keeps.of_fst (by assumption) ?_ | with_reducible refine Keeps.of_snd (by assumption) ?_
    | with_reducible refine Keeps.lit ?_ rfl rfl

theorem State.lnchDue_keeps {z : State} (s : State) (l : Lnch) (h : Keeps z s) : Keeps z (State.lnchDue s l) := by
  unfold State.lnchDue
  repeat' first
    | with_reducible assumption | (intro x; first | (refine Keeps.named (z := z) (s := x) ?_ ?_; focus subst x) | skip)
    | with_reducible apply State.withhold_keeps | with_reducible apply State.emit_keeps | lift_lets | split
    | with_reducible refine Keeps.lit ?_ rfl rfl

theorem State.fibLaunch_keeps {z : State} (s : State) (f : FibRun) (h : Keeps z s) : Keeps z (State.fibLaunch s f) := by
  unfold State.fibLaunch
  repeat' first
    | with_reducible assumption | (intro x; first | (refine Keeps.named (z := z) (s := x) ?_ ?_; focus subst x) | skip)
    | with_reducible apply State.setB_keeps | with_reducible apply State.fibEmit_keeps | lift_lets | split
    | with_reducible refine Keeps.lit ?_ rfl rfl

theorem State.launch_keeps {z : State} (s : State) (h : Keeps z s) : Keeps z (State.launch s) := by
  unfold State.launch
  repeat' first
    | with_reducible assumption | with_reducible apply State.seqLaunch_keeps | with_reducible apply State.lnchDue_keeps
    | with_reducible apply State.fibLaunch_keeps | split | with_reducible refine Keeps.of_fst (by assumption) ?_
    | with_reducible refine Keeps.of_snd (by assumption) ?_ | with_reducible refine Keeps.lit ?_ rfl rfl

theorem State.winUpd_keeps {z : State} (s : State) (n : ℕ) (f : Launch → Launch) (h : Keeps z s) : Keeps z (State.winUpd s n f) := by
  unfold State.winUpd
  repeat' first
    | with_reducible assumption | (intro x; first | (refine Keeps.named (z := z) (s := x) ?_ ?_; focus subst x) | skip) | split
    | with_reducible refine Keeps.lit ?_ rfl rfl

theorem State.phaseSettle_keeps {z : State} (s : State) (h : Keeps z s) : Keeps z (State.phaseSettle s) := by
  unfold State.phaseSettle
  repeat' first
    | with_reducible assumption | with_reducible apply State.setF_keeps | split | with_reducible refine Keeps.of_fst (by assumption) ?_
    | with_reducible refine Keeps.of_snd (by assumption) ?_ | with_reducible refine Keeps.lit ?_ rfl rfl

theorem State.monEdge_keeps {z : State} (s : State) (n : ℕ) (h : Keeps z s) : Keeps z (State.monEdge s n) := by
  unfold State.monEdge
  repeat' first
    | with_reducible assumption
    | (intro x; first | (refine Keeps.named (z := z) (s := x) ?_ ?_; focus subst x) | (refine Keeps.named (z := z) (s := x.1) ?_ ?_; focus subst x) | (refine Keeps.named (z := z) (s := x.2) ?_ ?_; focus subst x) | skip)
    | with_reducible apply State.tdcEdge_keeps | with_reducible apply State.phaseSettle_keeps | with_reducible apply State.winUpd_keeps
    | with_reducible apply State.result_keeps | with_reducible apply State.momentary_keeps | with_reducible apply State.alarm_keeps
    | with_reducible apply Keeps.cond | lift_lets | split | with_reducible refine Keeps.of_fst (by assumption) ?_
    | with_reducible refine Keeps.of_snd (by assumption) ?_ | with_reducible refine Keeps.lit ?_ rfl rfl

theorem State.monMiss_keeps {z : State} (s : State) (h : Keeps z s) : Keeps z (State.monMiss s) := by
  unfold State.monMiss
  repeat' first
    | with_reducible assumption | (intro x; first | (refine Keeps.named (z := z) (s := x) ?_ ?_; focus subst x) | skip)
    | with_reducible apply State.momentary_keeps | with_reducible apply State.phaseSettle_keeps | with_reducible apply State.winUpd_keeps
    | with_reducible apply State.result_keeps | split | with_reducible refine Keeps.of_fst (by assumption) ?_
    | with_reducible refine Keeps.of_snd (by assumption) ?_ | with_reducible refine Keeps.lit ?_ rfl rfl

theorem State.passRestart_keeps {z : State} (s : State) (l : Launch) (h : Keeps z s) : Keeps z (State.passRestart s l) := by
  unfold State.passRestart
  repeat' first
    | with_reducible assumption | (intro x; first | (refine Keeps.named (z := z) (s := x) ?_ ?_; focus subst x) | skip)
    | with_reducible apply Keeps.foldl | lift_lets | split | with_reducible refine Keeps.of_fst (by assumption) ?_
    | with_reducible refine Keeps.of_snd (by assumption) ?_ | with_reducible refine Keeps.lit ?_ rfl rfl

theorem State.windowClose_keeps {z : State} (s0 : State) (xs : List Adc) (h : Keeps z s0) : Keeps z (State.windowClose s0 xs) := by
  unfold State.windowClose
  repeat' first
    | with_reducible assumption | (intro x; first | (refine Keeps.named (z := z) (s := x) ?_ ?_; focus subst x) | skip)
    | with_reducible apply State.take_keeps | with_reducible apply State.runEnded_keeps | with_reducible apply State.passRestart_keeps
    | with_reducible apply Keeps.cond | lift_lets | split | with_reducible refine Keeps.of_fst (by assumption) ?_
    | with_reducible refine Keeps.of_snd (by assumption) ?_ | with_reducible refine Keeps.lit ?_ rfl rfl

theorem State.lockFall_keeps {z : State} (s : State) (h : Keeps z s) : Keeps z (State.lockFall s) := by
  unfold State.lockFall
  repeat' first
    | with_reducible assumption | (intro x; first | (refine Keeps.named (z := z) (s := x) ?_ ?_; focus subst x) | skip)
    | with_reducible apply State.alarm_keeps | with_reducible apply Keeps.cond | lift_lets | split | with_reducible refine Keeps.lit ?_ rfl rfl

theorem State.lockGain_keeps {z : State} (s : State) (h : Keeps z s) : Keeps z (State.lockGain s) := by
  unfold State.lockGain
  repeat' first
    | with_reducible assumption | split | with_reducible refine Keeps.lit ?_ rfl rfl

theorem State.writeLaser_keeps {z : State} (s : State) (v : Word) (h : Keeps z s) : Keeps z (State.writeLaser s v) := by
  unfold State.writeLaser
  repeat' first
    | with_reducible assumption | (intro x; first | (refine Keeps.named (z := z) (s := x) ?_ ?_; focus subst x) | skip)
    | with_reducible apply State.writeReg_keeps | with_reducible apply State.lockFall_keeps | with_reducible apply Keeps.cond | lift_lets

theorem State.laserPin_keeps {z : State} (s : State) (v : Bool) (h : Keeps z s) : Keeps z (State.laserPin s v) := by
  unfold State.laserPin
  repeat' first
    | with_reducible assumption | with_reducible refine Keeps.lit ?_ rfl rfl

theorem State.laserLow_keeps {z : State} (s : State) (h : Keeps z s) : Keeps z (State.laserLow s) := by
  unfold State.laserLow
  repeat' first
    | with_reducible assumption | (intro x; first | (refine Keeps.named (z := z) (s := x) ?_ ?_; focus subst x) | skip)
    | with_reducible apply State.lockFall_keeps | with_reducible apply State.bump_keeps | with_reducible apply State.inc_keeps
    | with_reducible apply State.seqStop_keeps | with_reducible apply State.dtsEnd_keeps | with_reducible apply State.alarm_keeps | lift_lets
    | split | with_reducible refine Keeps.lit ?_ rfl rfl

theorem State.laserHigh_keeps {z : State} (s : State) (h : Keeps z s) : Keeps z (State.laserHigh s) := by
  unfold State.laserHigh
  repeat' first
    | with_reducible assumption | with_reducible refine Keeps.lit ?_ rfl rfl

theorem State.openFail_keeps {z : State} (s : State) (l : Launch) (h : Keeps z s) : Keeps z (State.openFail s l) := by
  unfold State.openFail
  repeat' first
    | with_reducible assumption | (intro x; first | (refine Keeps.named (z := z) (s := x) ?_ ?_; focus subst x) | skip)
    | with_reducible apply State.setB_keeps | with_reducible apply State.alarm_keeps | with_reducible apply State.settleAll_keeps
    | with_reducible apply State.incF_keeps | lift_lets | split | with_reducible refine Keeps.lit ?_ rfl rfl

theorem State.openPass_keeps {z : State} (s : State) (h : Keeps z s) : Keeps z (State.openPass s) := by
  unfold State.openPass
  repeat' first
    | with_reducible assumption | (intro x; first | (refine Keeps.named (z := z) (s := x) ?_ ?_; focus subst x) | skip)
    | with_reducible apply State.setB_keeps | with_reducible apply Keeps.cond | lift_lets | split | with_reducible refine Keeps.lit ?_ rfl rfl

theorem State.openPort_keeps {z : State} (s0 : State) (xs : List Adc) (h : Keeps z s0) : Keeps z (State.openPort s0 xs) := by
  unfold State.openPort
  repeat' first
    | with_reducible assumption | intro _ | with_reducible apply State.take_keeps | with_reducible apply State.openFail_keeps
    | with_reducible apply State.openPass_keeps | with_reducible apply Keeps.ite | extract_lets | split
    | with_reducible refine Keeps.of_fst (by assumption) ?_ | with_reducible refine Keeps.of_snd (by assumption) ?_
    | with_reducible refine Keeps.lit ?_ rfl rfl | (dsimp -zeta +zetaDelta only; split)

theorem State.writeOpenstat_keeps {z : State} (s : State) (v : Word) (h : Keeps z s) : Keeps z (State.writeOpenstat s v) := by
  unfold State.writeOpenstat
  repeat' first
    | with_reducible assumption | with_reducible apply State.leaveSafe_keeps | split

theorem State.movePortTo_keeps {z : State} (s : State) (p : ℕ) (h : Keeps z s) : Keeps z (State.movePortTo s p) := by
  unfold State.movePortTo
  repeat' first
    | with_reducible assumption | (intro x; first | (refine Keeps.named (z := z) (s := x) ?_ ?_; focus subst x) | skip)
    | with_reducible apply State.settleAll_keeps | with_reducible apply State.dtsEnd_keeps | lift_lets
    | with_reducible refine Keeps.lit ?_ rfl rfl

theorem State.movePort_keeps {z : State} (s : State) (h : Keeps z s) : Keeps z (State.movePort s) := by
  unfold State.movePort
  repeat' first
    | with_reducible assumption | with_reducible apply State.movePortTo_keeps

theorem State.writePlan_keeps {z : State} (s : State) (v : Word) (h : Keeps z s) : Keeps z (State.writePlan s v) := by
  unfold State.writePlan
  repeat' first
    | with_reducible assumption | (intro x; first | (refine Keeps.named (z := z) (s := x) ?_ ?_; focus subst x) | skip)
    | with_reducible apply State.writeReg_keeps | with_reducible apply State.settleAll_keeps | with_reducible apply State.movePort_keeps
    | with_reducible apply Keeps.cond | lift_lets | split | with_reducible refine Keeps.lit ?_ rfl rfl

theorem State.portMove_keeps {z : State} (s : State) (h : Keeps z s) : Keeps z (State.portMove s) := by
  unfold State.portMove
  repeat' first
    | with_reducible assumption | with_reducible apply State.movePort_keeps | split

theorem State.portSettled_keeps {z : State} (s : State) (h : Keeps z s) : Keeps z (State.portSettled s) := by
  unfold State.portSettled
  repeat' first
    | with_reducible assumption | split | with_reducible refine Keeps.lit ?_ rfl rfl

theorem State.writeRange_keeps {z : State} (s : State) (v : Word) (h : Keeps z s) : Keeps z (State.writeRange s v) := by
  unfold State.writeRange
  repeat' first
    | with_reducible assumption | (intro x; first | (refine Keeps.named (z := z) (s := x) ?_ ?_; focus subst x) | skip)
    | with_reducible apply State.writeReg_keeps | with_reducible apply State.settleAll_keeps | with_reducible apply Keeps.cond | lift_lets

theorem State.writeSent_keeps {z : State} (s : State) (v : Word) (h : Keeps z s) : Keeps z (State.writeSent s v) := by
  unfold State.writeSent
  repeat' first
    | with_reducible assumption | (intro x; first | (refine Keeps.named (z := z) (s := x) ?_ ?_; focus subst x) | skip)
    | with_reducible apply State.writeReg_keeps | lift_lets | with_reducible refine Keeps.lit ?_ rfl rfl

theorem State.writeEntry_keeps {z : State} (s : State) (a : ℕ) (k : ℕ) (owed : ℕ) (gen : Bool) (v : Word) (h : Keeps z s) :
    Keeps z (State.writeEntry s a k owed gen v) := by
  unfold State.writeEntry
  repeat' first
    | with_reducible assumption | (intro x; first | (refine Keeps.named (z := z) (s := x) ?_ ?_; focus subst x) | skip)
    | with_reducible apply State.writeReg_keeps | with_reducible apply State.genStart_keeps | with_reducible apply Keeps.cond | lift_lets
    | split | with_reducible refine Keeps.lit ?_ rfl rfl

theorem State.genWrite_keeps {z : State} (s : State) (which : ℕ) (k : ℕ) (v : Word) (h : Keeps z s) : Keeps z (State.genWrite s which k v) := by
  unfold State.genWrite
  repeat' first
    | with_reducible assumption | with_reducible apply State.writeEntry_keeps | with_reducible apply State.writePcctl_keeps | split
    | with_reducible refine Keeps.of_fst (by assumption) ?_ | with_reducible refine Keeps.of_snd (by assumption) ?_

end Sys2Proof.Machine
end

