-- ==== Sys2Proof/Laws/Kept/Hkc.lean ====
section
/-! SUPPORT. What every function of Machine/Hkc.lean keeps (Laws/Keep.lean). -/

set_option linter.unusedTactic false
set_option linter.unreachableTactic false

namespace Sys2Proof.Machine

theorem State.hkSetRun_keeps {z : State} (s : State) (inj : Bool) (r : Option HkRun) (h : Keeps z s) : Keeps z (State.hkSetRun s inj r) := by
  unfold State.hkSetRun
  repeat' first
    | with_reducible assumption | split | with_reducible refine Keeps.lit ?_ rfl rfl

theorem State.hkBlock_keeps {z : State} (s : State) (inj : Bool) (r : HkRun) (h : Keeps z s) : Keeps z (State.hkBlock s inj r) := by
  unfold State.hkBlock
  repeat' first
    | with_reducible assumption | (intro x; first | (refine Keeps.named (z := z) (s := x) ?_ ?_; focus subst x) | skip)
    | with_reducible apply State.publish_keeps | split | lift_lets | with_reducible refine Keeps.of_fst (by assumption) ?_
    | with_reducible refine Keeps.of_snd (by assumption) ?_ | with_reducible refine Keeps.lit ?_ rfl rfl

theorem State.hkSample_keeps {z : State} (s : State) (inj : Bool) (x : HkSample) (h : Keeps z s) : Keeps z (State.hkSample s inj x) := by
  unfold State.hkSample
  repeat' first
    | with_reducible assumption | (intro x; first | (refine Keeps.named (z := z) (s := x) ?_ ?_; focus subst x) | skip)
    | with_reducible apply State.momentary_keeps | with_reducible apply State.hkSetRun_keeps | with_reducible apply State.hkBlock_keeps
    | with_reducible apply Keeps.cond | split | lift_lets | with_reducible refine Keeps.of_fst (by assumption) ?_
    | with_reducible refine Keeps.of_snd (by assumption) ?_ | with_reducible refine Keeps.lit ?_ rfl rfl

theorem State.hkPassEnd_keeps {z : State} (s : State) (inj : Bool) (r : HkRun) (h : Keeps z s) : Keeps z (State.hkPassEnd s inj r) := by
  unfold State.hkPassEnd
  repeat' first
    | with_reducible assumption | (intro x; first | (refine Keeps.named (z := z) (s := x) ?_ ?_; focus subst x) | skip)
    | with_reducible apply State.hkSetRun_keeps | with_reducible apply State.hkBlock_keeps | with_reducible apply State.hkRegular_keeps | split
    | lift_lets

theorem State.hkBegin_keeps {z : State} (s : State) (kind : HkKind) (c : ℕ) (entry : ℕ) (lead : Bool) (cfg : Word) (h : Keeps z s) :
    Keeps z (State.hkBegin s kind c entry lead cfg) := by
  unfold State.hkBegin
  repeat' first
    | with_reducible assumption | (intro x; first | (refine Keeps.named (z := z) (s := x) ?_ ?_; focus subst x) | skip) | lift_lets | split
    | with_reducible refine Keeps.of_fst (by assumption) ?_ | with_reducible refine Keeps.of_snd (by assumption) ?_
    | with_reducible refine Keeps.lit ?_ rfl rfl

theorem State.hkAux_keeps {z : State} (s : State) (entry : ℕ) (h : Keeps z s) : Keeps z (State.hkAux s entry).2 := by
  unfold State.hkAux
  repeat' first
    | with_reducible assumption | with_reducible apply State.free_keeps | split | with_reducible refine Keeps.of_fst (by assumption) ?_
    | with_reducible refine Keeps.of_snd (by assumption) ?_

theorem State.hkAdvance_keeps {z : State} (s : State) (inj : Bool) (a2 : ℕ) (h : Keeps z s) : Keeps z (State.hkAdvance s inj a2) := by
  induction a2 generalizing s with
  | zero => exact h
  | succ a2 ih =>
    unfold State.hkAdvance
    repeat' first
      | with_reducible assumption | with_reducible apply ih
      | (intro x; first | (refine Keeps.named (z := z) (s := x) ?_ ?_; focus subst x) | (refine Keeps.named (z := z) (s := x.1) ?_ ?_; focus subst x) | (refine Keeps.named (z := z) (s := x.2) ?_ ?_; focus subst x) | skip)
      | with_reducible apply State.hkPassEnd_keeps | with_reducible apply State.hkSetRun_keeps | with_reducible apply State.hkBegin_keeps
      | with_reducible apply State.hkSample_keeps | with_reducible apply State.hkAux_keeps | lift_lets | split
      | with_reducible refine Keeps.of_fst (by assumption) ?_ | with_reducible refine Keeps.of_snd (by assumption) ?_
      | with_reducible refine Keeps.lit ?_ rfl rfl

theorem State.hkGoOn_keeps {z : State} (s : State) (inj : Bool) (h : Keeps z s) : Keeps z (State.hkGoOn s inj) := by
  unfold State.hkGoOn
  repeat' first
    | with_reducible assumption | with_reducible apply State.hkAdvance_keeps | with_reducible apply State.hkSetRun_keeps | split
    | with_reducible refine Keeps.of_fst (by assumption) ?_ | with_reducible refine Keeps.of_snd (by assumption) ?_
    | with_reducible refine Keeps.lit ?_ rfl rfl

theorem State.hkCalBegin_keeps {z : State} (s : State) (k : HkCal) (h : Keeps z s) : Keeps z (State.hkCalBegin s k) := by
  unfold State.hkCalBegin
  repeat' first
    | with_reducible assumption | (intro x; first | (refine Keeps.named (z := z) (s := x) ?_ ?_; focus subst x) | skip)
    | with_reducible apply State.hkBegin_keeps | lift_lets | split

theorem State.hkNext_keeps {z : State} (s : State) (h : Keeps z s) : Keeps z (State.hkNext s) := by
  unfold State.hkNext
  repeat' first
    | with_reducible assumption | (intro x; first | (refine Keeps.named (z := z) (s := x) ?_ ?_; focus subst x) | skip)
    | with_reducible apply State.hkFlags_keeps | with_reducible apply State.hkGoOn_keeps | with_reducible apply State.hkCalBegin_keeps
    | lift_lets | split | with_reducible refine Keeps.of_fst (by assumption) ?_ | with_reducible refine Keeps.of_snd (by assumption) ?_

theorem State.hkGo_keeps {z : State} (s : State) (h : Keeps z s) : Keeps z (State.hkGo s) := by
  unfold State.hkGo
  repeat' first
    | with_reducible assumption | (intro x; first | (refine Keeps.named (z := z) (s := x) ?_ ?_; focus subst x) | skip)
    | with_reducible apply State.hkNext_keeps | with_reducible apply State.hkRegular_keeps | lift_lets | split

theorem State.hkIgo_keeps {z : State} (s : State) (h : Keeps z s) : Keeps z (State.hkIgo s) := by
  unfold State.hkIgo
  repeat' first
    | with_reducible assumption | with_reducible apply State.hkNext_keeps | with_reducible apply State.hkInject_keeps | split

theorem State.hkStop_keeps {z : State} (s : State) (h : Keeps z s) : Keeps z (State.hkStop s) := by
  unfold State.hkStop
  repeat' first
    | with_reducible assumption | (intro x; first | (refine Keeps.named (z := z) (s := x) ?_ ?_; focus subst x) | skip)
    | with_reducible apply State.hkNext_keeps | with_reducible apply State.hkPassEnd_keeps | lift_lets | split
    | with_reducible refine Keeps.of_fst (by assumption) ?_ | with_reducible refine Keeps.of_snd (by assumption) ?_
    | with_reducible refine Keeps.lit ?_ rfl rfl

theorem State.writeSeqctl_keeps {z : State} (s : State) (v : Word) (h : Keeps z s) : Keeps z (State.writeSeqctl s v) := by
  unfold State.writeSeqctl
  repeat' first
    | with_reducible assumption | (intro x; first | (refine Keeps.named (z := z) (s := x) ?_ ?_; focus subst x) | skip)
    | with_reducible apply State.hkStop_keeps | with_reducible apply State.hkIgo_keeps | with_reducible apply State.hkGo_keeps
    | with_reducible apply Keeps.cond

theorem State.hkTimer_keeps {z : State} (s : State) (h : Keeps z s) : Keeps z (State.hkTimer s) := by
  unfold State.hkTimer
  repeat' first
    | with_reducible assumption | (intro x; first | (refine Keeps.named (z := z) (s := x) ?_ ?_; focus subst x) | skip)
    | with_reducible apply State.hkNext_keeps | with_reducible apply State.hkRegular_keeps | lift_lets | split
    | with_reducible refine Keeps.lit ?_ rfl rfl

theorem State.hkRing_keeps {z : State} (s : State) (c : ℕ) (value : ℕ) (fl : ℕ) (t : ℕ) (h : Keeps z s) : Keeps z (State.hkRing s c value fl t) := by
  unfold State.hkRing
  repeat' first
    | with_reducible assumption | (intro x; first | (refine Keeps.named (z := z) (s := x) ?_ ?_; focus subst x) | skip)
    | with_reducible apply State.ringPut_keeps | split

theorem State.hkShow_keeps {z : State} (s : State) (inj : Bool) (c : ℕ) (value : ℕ) (fl : ℕ) (t : ℕ) (h : Keeps z s) :
    Keeps z (State.hkShow s inj c value fl t) := by
  unfold State.hkShow
  repeat' first
    | with_reducible assumption | (intro x; first | (refine Keeps.named (z := z) (s := x) ?_ ?_; focus subst x) | skip)
    | with_reducible apply State.result_keeps | with_reducible apply State.setB_keeps | with_reducible apply State.inc_keeps
    | with_reducible apply State.condSample_keeps | with_reducible apply State.hkRing_keeps | with_reducible apply Keeps.cond
    | with_reducible apply Keeps.foldl | lift_lets | split | with_reducible refine Keeps.of_fst (by assumption) ?_
    | with_reducible refine Keeps.of_snd (by assumption) ?_

theorem State.hkResult_keeps {z : State} (s : State) (inj : Bool) (c : ℕ) (entry : ℕ) (value : ℕ) (fl : ℕ) (t : ℕ) (h : Keeps z s) :
    Keeps z (State.hkResult s inj c entry value fl t) := by
  unfold State.hkResult
  repeat' first
    | with_reducible assumption | (intro x; first | (refine Keeps.named (z := z) (s := x) ?_ ?_; focus subst x) | skip)
    | with_reducible apply State.hkShow_keeps | with_reducible apply State.hkSample_keeps | lift_lets

theorem State.hkOpenAlarm_keeps {z : State} (s : State) (c : ℕ) (h : Keeps z s) : Keeps z (State.hkOpenAlarm s c) := by
  unfold State.hkOpenAlarm
  repeat' first
    | with_reducible assumption | (intro x; first | (refine Keeps.named (z := z) (s := x) ?_ ?_; focus subst x) | skip)
    | with_reducible apply State.alarm_keeps | with_reducible apply State.setB_keeps | lift_lets | split

theorem State.hkFinish_keeps {z : State} (s : State) (inj : Bool) (c : ℕ) (entry : ℕ) (cfg : Word) (d : ℤ) (dl : Option ℤ) (fl : ℕ) (t : ℕ) (h :
    Keeps z s) :
    Keeps z (State.hkFinish s inj c entry cfg d dl fl t) := by
  unfold State.hkFinish
  repeat' first
    | with_reducible assumption
    | (intro x; first | (refine Keeps.named (z := z) (s := x) ?_ ?_; focus subst x) | (refine Keeps.named (z := z) (s := x.1) ?_ ?_; focus subst x) | (refine Keeps.named (z := z) (s := x.2) ?_ ?_; focus subst x) | skip)
    | with_reducible apply State.hkResult_keeps | lift_lets | split | with_reducible refine Keeps.of_fst (by assumption) ?_
    | with_reducible refine Keeps.of_snd (by assumption) ?_ | with_reducible refine Keeps.lit ?_ rfl rfl

theorem State.hkCalDone_keeps {z : State} (s : State) (k : HkCal) (status : ℕ) (res : List ℕ) (h : Keeps z s) :
    Keeps z (State.hkCalDone s k status res) := by
  unfold State.hkCalDone
  repeat' first
    | with_reducible assumption | with_reducible apply State.lateAnswer_keeps | split | with_reducible refine Keeps.lit ?_ rfl rfl

theorem State.hkCalFail_keeps {z : State} (s : State) (c : ℕ) (h : Keeps z s) : Keeps z (State.hkCalFail s c) := by
  unfold State.hkCalFail
  repeat' first
    | with_reducible assumption | with_reducible apply State.alarm_keeps

theorem State.hkSetCoef_keeps {z : State} (s : State) (c : ℕ) (o : ℤ) (g : ℤ) (h : Keeps z s) : Keeps z (State.hkSetCoef s c o g) := by
  unfold State.hkSetCoef
  repeat' first
    | with_reducible assumption | with_reducible apply State.setF_keeps

theorem State.hkStepEnd_keeps {z : State} (s : State) (k : HkCal) (h : Keeps z s) : Keeps z (State.hkStepEnd s k) := by
  unfold State.hkStepEnd
  repeat' first
    | with_reducible assumption | (intro x; first | (refine Keeps.named (z := z) (s := x) ?_ ?_; focus subst x) | skip)
    | with_reducible apply State.hkCalDone_keeps | with_reducible apply State.hkCalFail_keeps | with_reducible apply State.hkSetCoef_keeps
    | lift_lets | split | with_reducible refine Keeps.of_fst (by assumption) ?_ | with_reducible refine Keeps.of_snd (by assumption) ?_
    | with_reducible refine Keeps.lit ?_ rfl rfl

theorem State.hkSelfStep_keeps {z : State} (s : State) (k : HkCal) (d : ℤ) (h : Keeps z s) : Keeps z (State.hkSelfStep s k d) := by
  unfold State.hkSelfStep
  repeat' first
    | with_reducible assumption | intro _ | with_reducible apply State.hkSetCoef_keeps | with_reducible apply State.hkCalFail_keeps
    | with_reducible apply State.hkCalDone_keeps | with_reducible apply Keeps.ite | extract_lets | split
    | with_reducible refine Keeps.of_fst (by assumption) ?_ | with_reducible refine Keeps.of_snd (by assumption) ?_
    | with_reducible refine Keeps.lit ?_ rfl rfl | (dsimp -zeta +zetaDelta only; split)

theorem State.hkCalConv_keeps {z : State} (s : State) (d : ℤ) (h : Keeps z s) : Keeps z (State.hkCalConv s d) := by
  unfold State.hkCalConv
  repeat' first
    | with_reducible assumption | intro _ | with_reducible apply State.hkSelfStep_keeps | with_reducible apply State.hkStepEnd_keeps
    | with_reducible apply Keeps.ite | extract_lets | split | with_reducible refine Keeps.of_fst (by assumption) ?_
    | with_reducible refine Keeps.of_snd (by assumption) ?_ | with_reducible refine Keeps.lit ?_ rfl rfl | (dsimp -zeta +zetaDelta only; split)

theorem State.hkcal_keeps {z : State} (s : State) (tag : ℕ) (c : ℕ) (step : ℕ) (a : ℤ) (h : Keeps z s) : Keeps z (State.hkcal s tag c step a) := by
  unfold State.hkcal
  repeat' first
    | with_reducible assumption | (intro x; first | (refine Keeps.named (z := z) (s := x) ?_ ?_; focus subst x) | skip)
    | with_reducible apply State.lateAnswer_keeps | with_reducible apply State.hkNext_keeps | lift_lets | split
    | with_reducible refine Keeps.lit ?_ rfl rfl

theorem State.hkselfcal_keeps {z : State} (s : State) (tag : ℕ) (mask : ℕ) (h : Keeps z s) : Keeps z (State.hkselfcal s tag mask) := by
  unfold State.hkselfcal
  repeat' first
    | with_reducible assumption | (intro x; first | (refine Keeps.named (z := z) (s := x) ?_ ?_; focus subst x) | skip)
    | with_reducible apply State.lateAnswer_keeps | with_reducible apply State.hkNext_keeps | lift_lets | split
    | with_reducible refine Keeps.lit ?_ rfl rfl

theorem State.hkMain_keeps {z : State} (s : State) (j : HkConv) (d : ℤ) (fl : ℕ) (t : ℕ) (h : Keeps z s) : Keeps z (State.hkMain s j d fl t) := by
  unfold State.hkMain
  repeat' first
    | with_reducible assumption | (intro x; first | (refine Keeps.named (z := z) (s := x) ?_ ?_; focus subst x) | skip)
    | with_reducible apply State.hkSetRun_keeps | with_reducible apply State.hkFinish_keeps | lift_lets | split
    | with_reducible refine Keeps.of_fst (by assumption) ?_ | with_reducible refine Keeps.of_snd (by assumption) ?_
    | with_reducible refine Keeps.lit ?_ rfl rfl

theorem State.hkLead_keeps {z : State} (s : State) (j : HkConv) (d : ℤ) (flags : ℕ) (h : Keeps z s) : Keeps z (State.hkLead s j d flags) := by
  unfold State.hkLead
  repeat' first
    | with_reducible assumption | intro _ | with_reducible apply State.hkSetRun_keeps | with_reducible apply State.hkFinish_keeps
    | with_reducible apply State.setF_keeps | with_reducible apply Keeps.ite | extract_lets | split
    | with_reducible refine Keeps.of_fst (by assumption) ?_ | with_reducible refine Keeps.of_snd (by assumption) ?_
    | with_reducible refine Keeps.lit ?_ rfl rfl | (dsimp -zeta +zetaDelta only; split)

theorem State.hkFilter_keeps {z : State} (s : State) (j : HkConv) (d : ℤ) (fl : ℕ) (h : Keeps z s) : Keeps z (State.hkFilter s j d fl).2.2.2 := by
  unfold State.hkFilter
  repeat' first
    | with_reducible assumption
    | (intro x; first | (refine Keeps.named (z := z) (s := x) ?_ ?_; focus subst x) | (refine Keeps.named (z := z) (s := x.1) ?_ ?_; focus subst x) | (refine Keeps.named (z := z) (s := x.2) ?_ ?_; focus subst x) | skip)
    | with_reducible apply Keeps.foldl | with_reducible apply Keeps.foldl_fst | with_reducible apply Keeps.foldl_snd | lift_lets | split
    | with_reducible refine Keeps.lit ?_ rfl rfl

theorem State.hkDone_keeps {z : State} (s : State) (d : ℤ) (ovr : Bool) (openFail : Bool) (h : Keeps z s) :
    Keeps z (State.hkDone s d ovr openFail) := by
  unfold State.hkDone
  repeat' first
    | with_reducible assumption
    | (intro x; first | (refine Keeps.named (z := z) (s := x) ?_ ?_; focus subst x) | (refine Keeps.named (z := z) (s := x.1) ?_ ?_; focus subst x) | (refine Keeps.named (z := z) (s := x.2) ?_ ?_; focus subst x) | skip)
    | with_reducible apply State.bump_keeps | with_reducible apply State.hkNext_keeps | with_reducible apply State.hkFinish_keeps
    | with_reducible apply State.hkOpenAlarm_keeps | with_reducible apply State.hkCalConv_keeps | with_reducible apply State.hkLead_keeps
    | with_reducible apply State.hkFilter_keeps | with_reducible apply State.hkResult_keeps | with_reducible apply State.hkMain_keeps
    | with_reducible apply Keeps.cond | lift_lets | split | with_reducible refine Keeps.of_fst (by assumption) ?_
    | with_reducible refine Keeps.of_snd (by assumption) ?_ | with_reducible refine Keeps.lit ?_ rfl rfl

theorem State.hkAuxDone_keeps {z : State} (s : State) (d : ℤ) (ovr : Bool) (open_ : Bool) (h : Keeps z s) :
    Keeps z (State.hkAuxDone s d ovr open_) := by
  unfold State.hkAuxDone
  repeat' first
    | with_reducible assumption
    | (intro x; first | (refine Keeps.named (z := z) (s := x) ?_ ?_; focus subst x) | (refine Keeps.named (z := z) (s := x.1) ?_ ?_; focus subst x) | (refine Keeps.named (z := z) (s := x.2) ?_ ?_; focus subst x) | skip)
    | with_reducible apply State.hkShow_keeps | lift_lets | split | with_reducible refine Keeps.lit ?_ rfl rfl

theorem State.hkAbandon_keeps {z : State} (s : State) (h : Keeps z s) : Keeps z (State.hkAbandon s) := by
  unfold State.hkAbandon
  repeat' first
    | with_reducible assumption | (intro x; first | (refine Keeps.named (z := z) (s := x) ?_ ?_; focus subst x) | skip)
    | with_reducible apply State.hkFlags_keeps | lift_lets | with_reducible refine Keeps.lit ?_ rfl rfl

theorem State.hkRestart_keeps {z : State} (s : State) (h : Keeps z s) : Keeps z (State.hkRestart s) := by
  unfold State.hkRestart
  repeat' first
    | with_reducible assumption | (intro x; first | (refine Keeps.named (z := z) (s := x) ?_ ?_; focus subst x) | skip)
    | with_reducible apply State.hkSample_keeps | with_reducible apply State.hkRing_keeps | with_reducible apply State.hkFlags_keeps
    | with_reducible apply State.hkBegin_keeps | lift_lets | split | with_reducible refine Keeps.of_fst (by assumption) ?_
    | with_reducible refine Keeps.of_snd (by assumption) ?_ | with_reducible refine Keeps.lit ?_ rfl rfl

theorem State.writeExc_keeps {z : State} (s : State) (c : ℕ) (v : Word) (h : Keeps z s) : Keeps z (State.writeExc s c v) := by
  unfold State.writeExc
  repeat' first
    | with_reducible assumption | (intro x; first | (refine Keeps.named (z := z) (s := x) ?_ ?_; focus subst x) | skip)
    | with_reducible apply State.writeReg_keeps | with_reducible apply State.hkRestart_keeps | with_reducible apply State.setB_keeps
    | with_reducible apply Keeps.cond | lift_lets | split | with_reducible refine Keeps.of_fst (by assumption) ?_
    | with_reducible refine Keeps.of_snd (by assumption) ?_ | with_reducible refine Keeps.lit ?_ rfl rfl

theorem State.writeHkcCtl_keeps {z : State} (s : State) (v : Word) (h : Keeps z s) : Keeps z (State.writeHkcCtl s v) := by
  unfold State.writeHkcCtl
  repeat' first
    | with_reducible assumption | (intro x; first | (refine Keeps.named (z := z) (s := x) ?_ ?_; focus subst x) | skip)
    | with_reducible apply State.writeReg_keeps | with_reducible apply State.hkBlock_keeps | with_reducible apply State.hkNext_keeps | split
    | lift_lets | with_reducible refine Keeps.of_fst (by assumption) ?_ | with_reducible refine Keeps.of_snd (by assumption) ?_
    | with_reducible refine Keeps.lit ?_ rfl rfl

theorem State.writeCaloff_keeps {z : State} (s : State) (c : ℕ) (v : Word) (h : Keeps z s) : Keeps z (State.writeCaloff s c v) := by
  unfold State.writeCaloff
  repeat' first
    | with_reducible assumption | with_reducible refine Keeps.lit ?_ rfl rfl

theorem State.writeCalgain_keeps {z : State} (s : State) (c : ℕ) (v : Word) (h : Keeps z s) : Keeps z (State.writeCalgain s c v) := by
  unfold State.writeCalgain
  repeat' first
    | with_reducible assumption | (intro x; first | (refine Keeps.named (z := z) (s := x) ?_ ?_; focus subst x) | skip)
    | with_reducible apply State.writeReg_keeps | lift_lets | split | with_reducible refine Keeps.of_fst (by assumption) ?_
    | with_reducible refine Keeps.of_snd (by assumption) ?_ | with_reducible refine Keeps.lit ?_ rfl rfl

theorem State.writeHkcCfg_keeps {z : State} (s : State) (c : ℕ) (v : Word) (h : Keeps z s) : Keeps z (State.writeHkcCfg s c v) := by
  unfold State.writeHkcCfg
  repeat' first
    | with_reducible assumption | with_reducible apply State.setCsr_keeps | with_reducible apply State.writeReg_keeps
    | with_reducible apply State.setB_keeps | split

theorem State.blankPin_keeps {z : State} (s : State) (high : Bool) (h : Keeps z s) : Keeps z (State.blankPin s high) := by
  unfold State.blankPin
  repeat' first
    | with_reducible assumption | (intro x; first | (refine Keeps.named (z := z) (s := x) ?_ ?_; focus subst x) | skip)
    | with_reducible apply State.hkBlank_keeps | lift_lets | split | with_reducible refine Keeps.of_fst (by assumption) ?_
    | with_reducible refine Keeps.of_snd (by assumption) ?_ | with_reducible refine Keeps.lit ?_ rfl rfl

theorem State.hkRefCheck_keeps {z : State} (s : State) (z0 : ℤ) (r : ℤ) (h : Keeps z s) : Keeps z (State.hkRefCheck s z0 r) := by
  unfold State.hkRefCheck
  repeat' first
    | with_reducible assumption | (intro x; first | (refine Keeps.named (z := z) (s := x) ?_ ?_; focus subst x) | skip)
    | with_reducible apply State.suspectSrc_keeps | with_reducible apply State.bump_keeps | with_reducible apply State.alarm_keeps | lift_lets
    | split | with_reducible refine Keeps.lit ?_ rfl rfl

end Sys2Proof.Machine
end

