-- ==== Sys2Proof/Laws/Kept/Fls.lean ====
section
/-! SUPPORT. What every function of Machine/Fls.lean keeps (Laws/Keep.lean). -/

set_option linter.unusedTactic false
set_option linter.unreachableTactic false

namespace Sys2Proof.Machine

theorem State.flsUpd_keeps {z : State} (s : State) (n : ℕ) (f : FlsCh → FlsCh) (h : Keeps z s) : Keeps z (State.flsUpd s n f) := by
  unfold State.flsUpd
  repeat' first
    | with_reducible assumption | with_reducible refine Keeps.lit ?_ rfl rfl

theorem State.flsAlarm_keeps {z : State} (s : State) (cls : ℕ) (n : ℕ) (bit_ : ℕ) (h : Keeps z s) : Keeps z (State.flsAlarm s cls n bit_) := by
  unfold State.flsAlarm
  repeat' first
    | with_reducible assumption | with_reducible apply State.alarm_keeps

theorem State.flsDisarm_keeps {z : State} (s : State) (n : ℕ) (h : Keeps z s) : Keeps z (State.flsDisarm s n) := by
  unfold State.flsDisarm
  repeat' first
    | with_reducible assumption | (intro x; first | (refine Keeps.named (z := z) (s := x) ?_ ?_; focus subst x) | skip)
    | with_reducible apply State.flsUpd_keeps | with_reducible apply State.setF_keeps | lift_lets | with_reducible refine Keeps.lit ?_ rfl rfl

theorem State.flsStop_keeps {z : State} (s : State) (n : ℕ) (h : Keeps z s) : Keeps z (State.flsStop s n) := by
  unfold State.flsStop
  repeat' first
    | with_reducible assumption | (intro x; first | (refine Keeps.named (z := z) (s := x) ?_ ?_; focus subst x) | skip)
    | with_reducible apply State.flsUpd_keeps | with_reducible apply State.flsDisarm_keeps | split | with_reducible refine Keeps.lit ?_ rfl rfl

theorem State.flsSet_keeps {z : State} (s : State) (n : ℕ) (st : ℕ) (h : Keeps z s) : Keeps z (State.flsSet s n st) := by
  unfold State.flsSet
  repeat' first
    | with_reducible assumption | (intro x; first | (refine Keeps.named (z := z) (s := x) ?_ ?_; focus subst x) | skip)
    | with_reducible apply State.setF_keeps | with_reducible apply State.flsAlarm_keeps | with_reducible apply State.flsStop_keeps
    | with_reducible apply State.setB_keeps | lift_lets | split | with_reducible refine Keeps.of_fst (by assumption) ?_
    | with_reducible refine Keeps.of_snd (by assumption) ?_ | with_reducible refine Keeps.lit ?_ rfl rfl

theorem State.flsArm_keeps {z : State} (s : State) (n : ℕ) (h : Keeps z s) : Keeps z (State.flsArm s n) := by
  unfold State.flsArm
  repeat' first
    | with_reducible assumption | (intro x; first | (refine Keeps.named (z := z) (s := x) ?_ ?_; focus subst x) | skip)
    | with_reducible apply State.setB_keeps | with_reducible apply State.flsUpd_keeps | with_reducible apply State.flsSet_keeps | split
    | lift_lets | with_reducible refine Keeps.of_fst (by assumption) ?_ | with_reducible refine Keeps.of_snd (by assumption) ?_
    | with_reducible refine Keeps.lit ?_ rfl rfl

theorem State.writeFlsArm_keeps {z : State} (s : State) (v : Word) (h : Keeps z s) : Keeps z (State.writeFlsArm s v) := by
  unfold State.writeFlsArm
  repeat' first
    | with_reducible assumption
    | (intro x; first | (refine Keeps.named (z := z) (s := x) ?_ ?_; focus subst x) | (refine Keeps.named (z := z) (s := x.1) ?_ ?_; focus subst x) | (refine Keeps.named (z := z) (s := x.2) ?_ ?_; focus subst x) | skip)
    | with_reducible apply State.flsArm_keeps | with_reducible apply Keeps.cond | with_reducible apply Keeps.foldl
    | with_reducible apply Keeps.foldl_fst | with_reducible apply Keeps.foldl_snd

theorem State.flsTakeOver_keeps {z : State} (s : State) (n : ℕ) (h : Keeps z s) : Keeps z (State.flsTakeOver s n) := by
  unfold State.flsTakeOver
  repeat' first
    | with_reducible assumption
    | (intro x; first | (refine Keeps.named (z := z) (s := x) ?_ ?_; focus subst x) | (refine Keeps.named (z := z) (s := x.1) ?_ ?_; focus subst x) | (refine Keeps.named (z := z) (s := x.2) ?_ ?_; focus subst x) | skip)
    | with_reducible apply State.flsUpd_keeps | lift_lets | split | with_reducible refine Keeps.of_fst (by assumption) ?_
    | with_reducible refine Keeps.of_snd (by assumption) ?_ | with_reducible refine Keeps.lit ?_ rfl rfl

theorem State.flsEvent_keeps {z : State} (s : State) (n : ℕ) (i : ℕ) (edge : ℕ) (t : ℕ) (h : Keeps z s) : Keeps z (State.flsEvent s n i edge t) := by
  unfold State.flsEvent
  repeat' first
    | with_reducible assumption | (intro x; first | (refine Keeps.named (z := z) (s := x) ?_ ?_; focus subst x) | skip)
    | with_reducible apply State.hkNext_keeps | with_reducible apply State.hkFlash_keeps | lift_lets | split

theorem State.flsOn_keeps {z : State} (s : State) (n : ℕ) (mode : ℕ) (width0 : ℕ) (per : ℕ) (i : ℕ) (t : ℕ) (diag : Bool) (h : Keeps z s) :
    Keeps z (State.flsOn s n mode width0 per i t diag) := by
  unfold State.flsOn
  repeat' first
    | with_reducible assumption
    | (intro x; first | (refine Keeps.named (z := z) (s := x) ?_ ?_; focus subst x) | (refine Keeps.named (z := z) (s := x.1) ?_ ?_; focus subst x) | (refine Keeps.named (z := z) (s := x.2) ?_ ?_; focus subst x) | skip)
    | with_reducible apply State.setF_keeps | with_reducible apply State.bump_keeps | with_reducible apply State.incMod_keeps
    | with_reducible apply State.flsUpd_keeps | with_reducible apply State.hkBlank_keeps | lift_lets | split
    | with_reducible refine Keeps.lit ?_ rfl rfl

theorem State.flashOn_keeps {z : State} (s0 : State) (n : ℕ) (h : Keeps z s0) : Keeps z (State.flashOn s0 n) := by
  unfold State.flashOn
  repeat' first
    | with_reducible assumption | (intro x; first | (refine Keeps.named (z := z) (s := x) ?_ ?_; focus subst x) | skip)
    | with_reducible apply State.flsTakeOver_keeps | with_reducible apply State.flsUpd_keeps | with_reducible apply State.incF_keeps
    | with_reducible apply State.flsEvent_keeps | with_reducible apply State.flsOn_keeps | lift_lets | split
    | with_reducible refine Keeps.of_fst (by assumption) ?_ | with_reducible refine Keeps.of_snd (by assumption) ?_
    | with_reducible refine Keeps.lit ?_ rfl rfl

theorem State.flsEnd_keeps {z : State} (s : State) (n : ℕ) (p : FlsPulse) (h : Keeps z s) : Keeps z (State.flsEnd s n p) := by
  unfold State.flsEnd
  repeat' first
    | with_reducible assumption
    | (intro x; first | (refine Keeps.named (z := z) (s := x) ?_ ?_; focus subst x) | (refine Keeps.named (z := z) (s := x.1) ?_ ?_; focus subst x) | (refine Keeps.named (z := z) (s := x.2) ?_ ?_; focus subst x) | skip)
    | with_reducible apply State.setF_keeps | with_reducible apply State.flsUpd_keeps | with_reducible apply State.flsEvent_keeps
    | with_reducible apply State.flsDisarm_keeps | lift_lets | split | with_reducible refine Keeps.of_fst (by assumption) ?_
    | with_reducible refine Keeps.of_snd (by assumption) ?_ | with_reducible refine Keeps.lit ?_ rfl rfl

theorem State.flashOff_keeps {z : State} (s : State) (n : ℕ) (h : Keeps z s) : Keeps z (State.flashOff s n) := by
  unfold State.flashOff
  repeat' first
    | with_reducible assumption | with_reducible apply State.flsEnd_keeps | split | with_reducible refine Keeps.of_fst (by assumption) ?_
    | with_reducible refine Keeps.of_snd (by assumption) ?_

theorem State.flsCut_keeps {z : State} (s : State) (h : Keeps z s) : Keeps z (State.flsCut s) := by
  unfold State.flsCut
  repeat' first
    | with_reducible assumption | (intro x; first | (refine Keeps.named (z := z) (s := x) ?_ ?_; focus subst x) | skip)
    | with_reducible apply State.flsUpd_keeps | with_reducible apply State.setF_keeps | with_reducible apply State.flsEnd_keeps
    | with_reducible apply Keeps.cond | with_reducible apply Keeps.foldl | lift_lets | split
    | with_reducible refine Keeps.of_fst (by assumption) ?_ | with_reducible refine Keeps.of_snd (by assumption) ?_
    | with_reducible refine Keeps.lit ?_ rfl rfl

theorem State.flsCocoon_keeps {z : State} (s : State) (h : Keeps z s) : Keeps z (State.flsCocoon s) := by
  unfold State.flsCocoon
  repeat' first
    | with_reducible assumption | (intro x; first | (refine Keeps.named (z := z) (s := x) ?_ ?_; focus subst x) | skip)
    | with_reducible apply State.setF_keeps | with_reducible apply State.flsDisarm_keeps | with_reducible apply State.flsCut_keeps
    | with_reducible apply Keeps.foldl

theorem State.dimOn_keeps {z : State} (s : State) (n : ℕ) (on : Bool) (acc : ℕ) (h : Keeps z s) : Keeps z (State.dimOn s n on acc) := by
  unfold State.dimOn
  repeat' first
    | with_reducible assumption
    | (intro x; first | (refine Keeps.named (z := z) (s := x) ?_ ?_; focus subst x) | (refine Keeps.named (z := z) (s := x.1) ?_ ?_; focus subst x) | (refine Keeps.named (z := z) (s := x.2) ?_ ?_; focus subst x) | skip)
    | with_reducible apply State.flsUpd_keeps | with_reducible apply State.setF_keeps | lift_lets | split
    | with_reducible refine Keeps.lit ?_ rfl rfl

theorem State.dimSlot_keeps {z : State} (s0 : State) (n : ℕ) (h : Keeps z s0) : Keeps z (State.dimSlot s0 n) := by
  unfold State.dimSlot
  repeat' first
    | with_reducible assumption | (intro x; first | (refine Keeps.named (z := z) (s := x) ?_ ?_; focus subst x) | skip)
    | with_reducible apply State.flsTakeOver_keeps | with_reducible apply State.flsUpd_keeps | with_reducible apply State.dimOn_keeps
    | lift_lets | split | with_reducible refine Keeps.lit ?_ rfl rfl

theorem State.writeFlsCfg_keeps {z : State} (s : State) (n : ℕ) (v : Word) (h : Keeps z s) : Keeps z (State.writeFlsCfg s n v) := by
  unfold State.writeFlsCfg
  repeat' first
    | with_reducible assumption | (intro x; first | (refine Keeps.named (z := z) (s := x) ?_ ?_; focus subst x) | skip)
    | with_reducible apply State.writeReg_keeps | with_reducible apply State.flsStop_keeps | lift_lets | split

theorem State.writeFlsCtl_keeps {z : State} (s : State) (v : Word) (h : Keeps z s) : Keeps z (State.writeFlsCtl s v) := by
  unfold State.writeFlsCtl
  repeat' first
    | with_reducible assumption | (intro x; first | (refine Keeps.named (z := z) (s := x) ?_ ?_; focus subst x) | skip)
    | with_reducible apply State.writeReg_keeps | with_reducible apply State.flsStop_keeps | with_reducible apply Keeps.foldl | lift_lets
    | split

theorem State.flsVerdict_keeps {z : State} (s : State) (n : ℕ) (v : ℕ) (h : Keeps z s) : Keeps z (State.flsVerdict s n v) := by
  unfold State.flsVerdict
  repeat' first
    | with_reducible assumption | (intro x; first | (refine Keeps.named (z := z) (s := x) ?_ ?_; focus subst x) | skip)
    | with_reducible apply State.flsUpd_keeps | with_reducible apply State.flsSet_keeps | lift_lets | split
    | with_reducible refine Keeps.of_fst (by assumption) ?_ | with_reducible refine Keeps.of_snd (by assumption) ?_
    | with_reducible refine Keeps.lit ?_ rfl rfl

theorem State.flashCheck_keeps {z : State} (s : State) (n : ℕ) (reg : Bool) (pct : ℕ) (sink : ℕ) (h : Keeps z s) :
    Keeps z (State.flashCheck s n reg pct sink) := by
  unfold State.flashCheck
  repeat' first
    | with_reducible assumption | (intro x; first | (refine Keeps.named (z := z) (s := x) ?_ ?_; focus subst x) | skip)
    | with_reducible apply State.flsUpd_keeps | with_reducible apply State.flsVerdict_keeps | lift_lets | split
    | with_reducible refine Keeps.of_fst (by assumption) ?_ | with_reducible refine Keeps.of_snd (by assumption) ?_
    | with_reducible refine Keeps.lit ?_ rfl rfl

theorem State.diagEnd_keeps {z : State} (s : State) (n : ℕ) (h : Keeps z s) : Keeps z (State.diagEnd s n) := by
  unfold State.diagEnd
  repeat' first
    | with_reducible assumption | (intro x; first | (refine Keeps.named (z := z) (s := x) ?_ ?_; focus subst x) | skip)
    | with_reducible apply State.flsUpd_keeps | with_reducible apply State.flsAlarm_keeps | with_reducible apply State.flsSet_keeps | lift_lets
    | split | with_reducible refine Keeps.lit ?_ rfl rfl

theorem State.diagPulse_keeps {z : State} (s : State) (n : ℕ) (h : Keeps z s) : Keeps z (State.diagPulse s n) := by
  unfold State.diagPulse
  repeat' first
    | with_reducible assumption | (intro x; first | (refine Keeps.named (z := z) (s := x) ?_ ?_; focus subst x) | skip)
    | with_reducible apply State.flsUpd_keeps | with_reducible apply State.setB_keeps | with_reducible apply State.flsOn_keeps | lift_lets
    | split | with_reducible refine Keeps.lit ?_ rfl rfl

theorem State.flvSet_keeps {z : State} (s : State) (vin : ℕ) (x : ℕ) (h : Keeps z s) : Keeps z (State.flvSet s vin x) := by
  unfold State.flvSet
  repeat' first
    | with_reducible assumption | (intro x; first | (refine Keeps.named (z := z) (s := x) ?_ ?_; focus subst x) | skip) | lift_lets
    | with_reducible refine Keeps.lit ?_ rfl rfl

theorem State.flvAdapt_keeps {z : State} (s : State) (vin : ℕ) (h : Keeps z s) : Keeps z (State.flvAdapt s vin) := by
  unfold State.flvAdapt
  repeat' first
    | with_reducible assumption
    | (intro x; first | (refine Keeps.named (z := z) (s := x) ?_ ?_; focus subst x) | (refine Keeps.named (z := z) (s := x.1) ?_ ?_; focus subst x) | (refine Keeps.named (z := z) (s := x.2) ?_ ?_; focus subst x) | skip)
    | with_reducible apply State.flvSet_keeps | lift_lets | split | with_reducible refine Keeps.lit ?_ rfl rfl

theorem State.writeFlsFlv_keeps {z : State} (s : State) (v : Word) (h : Keeps z s) : Keeps z (State.writeFlsFlv s v) := by
  unfold State.writeFlsFlv
  repeat' first
    | with_reducible assumption | (intro x; first | (refine Keeps.named (z := z) (s := x) ?_ ?_; focus subst x) | skip)
    | with_reducible apply State.writeReg_keeps | with_reducible apply State.flvSet_keeps | lift_lets | split

theorem State.flsPower_keeps {z : State} (s : State) (mw : ℕ) (h : Keeps z s) : Keeps z (State.flsPower s mw) := by
  unfold State.flsPower
  repeat' first
    | with_reducible assumption
    | (intro x; first | (refine Keeps.named (z := z) (s := x) ?_ ?_; focus subst x) | (refine Keeps.named (z := z) (s := x.1) ?_ ?_; focus subst x) | (refine Keeps.named (z := z) (s := x.2) ?_ ?_; focus subst x) | skip)
    | with_reducible apply State.setF_keeps | with_reducible apply State.alarm_keeps | with_reducible apply State.setB_keeps | lift_lets | split
    | with_reducible refine Keeps.lit ?_ rfl rfl

theorem State.flsHeat_keeps {z : State} (s : State) (ta : ℤ) (tb : ℤ) (h : Keeps z s) : Keeps z (State.flsHeat s ta tb) := by
  unfold State.flsHeat
  repeat' first
    | with_reducible assumption | (intro x; first | (refine Keeps.named (z := z) (s := x) ?_ ?_; focus subst x) | skip)
    | with_reducible apply State.setF_keeps | with_reducible apply State.flsAlarm_keeps | with_reducible apply State.flsUpd_keeps
    | with_reducible apply Keeps.cond | with_reducible apply Keeps.foldl | lift_lets | split | with_reducible refine Keeps.lit ?_ rfl rfl

theorem State.flsPost_keeps {z : State} (s : State) (h : Keeps z s) : Keeps z (State.flsPost s) := by
  unfold State.flsPost
  repeat' first
    | with_reducible assumption | (intro x; first | (refine Keeps.named (z := z) (s := x) ?_ ?_; focus subst x) | skip)
    | with_reducible apply State.publish_keeps | lift_lets | split | with_reducible refine Keeps.lit ?_ rfl rfl

end Sys2Proof.Machine
end

