-- ==== Sys2Proof/Laws/Kept/Hold.lean ====
section
/-! SUPPORT. What every function of Machine/Hold.lean keeps (Laws/Keep.lean). -/

set_option linter.unusedTactic false
set_option linter.unreachableTactic false

namespace Sys2Proof.Machine

theorem State.launchOff_keeps {z : State} (s : State) (h : Keeps z s) : Keeps z (State.launchOff s) := by
  unfold State.launchOff
  repeat' first
    | with_reducible assumption | (intro x; first | (refine Keeps.named (z := z) (s := x) ?_ ?_; focus subst x) | skip)
    | with_reducible apply State.seqStop_keeps | lift_lets | with_reducible refine Keeps.lit ?_ rfl rfl

theorem State.holdMove_keeps {z : State} (s : State) (cause : ℕ) (h : Keeps z s) : Keeps z (State.holdMove s cause) := by
  unfold State.holdMove
  repeat' first
    | with_reducible assumption | (intro x; first | (refine Keeps.named (z := z) (s := x) ?_ ?_; focus subst x) | skip)
    | with_reducible apply State.setF_keeps | with_reducible apply State.flsCut_keeps | with_reducible apply State.trgStop_keeps
    | with_reducible apply State.launchOff_keeps | with_reducible apply State.alarm_keeps | with_reducible apply State.setB_keeps | lift_lets
    | with_reducible refine Keeps.litSec ?_ rfl rfl (SecKeeps.same rfl rfl rfl rfl rfl rfl)

theorem State.enterHold_keeps {z : State} (s : State) (cause : ℕ) (h : Keeps z s) : Keeps z (State.enterHold s cause) := by
  unfold State.enterHold
  repeat' first
    | with_reducible assumption | with_reducible apply State.holdMove_keeps | with_reducible apply State.fabEnables_keeps
    | with_reducible apply State.alarm_keeps | split | with_reducible refine Keeps.lit ?_ rfl rfl

theorem State.holdFirst_keeps {z : State} (s : State) (h : Keeps z s) : Keeps z (State.holdFirst s) := by
  unfold State.holdFirst
  repeat' first
    | with_reducible assumption | with_reducible apply State.holdMove_keeps | split | with_reducible refine Keeps.of_fst (by assumption) ?_
    | with_reducible refine Keeps.of_snd (by assumption) ?_

end Sys2Proof.Machine
end

