-- ==== Sys2Proof/Laws/Kept/Clk.lean ====
section
/-! SUPPORT. What every function of Machine/Clk.lean keeps (Laws/Keep.lean). -/

set_option linter.unusedTactic false
set_option linter.unreachableTactic false

namespace Sys2Proof.Machine

theorem State.pllCount_keeps {z : State} (s : State) (p : ℕ) (h : Keeps z s) : Keeps z (State.pllCount s p) := by
  unfold State.pllCount
  repeat' first
    | with_reducible assumption | with_reducible apply State.incF_keeps | split | with_reducible refine Keeps.of_fst (by assumption) ?_
    | with_reducible refine Keeps.of_snd (by assumption) ?_

theorem State.linksLeave_keeps {z : State} (s : State) (h : Keeps z s) : Keeps z (State.linksLeave s) := by
  unfold State.linksLeave
  repeat' first
    | with_reducible assumption | (intro x; first | (refine Keeps.named (z := z) (s := x) ?_ ?_; focus subst x) | skip)
    | with_reducible apply State.linkLost_keeps | with_reducible apply Keeps.foldl | split

theorem State.spoilWindows_keeps {z : State} (s : State) (h : Keeps z s) : Keeps z (State.spoilWindows s) := by
  unfold State.spoilWindows
  repeat' first
    | with_reducible assumption | (intro x; first | (refine Keeps.named (z := z) (s := x) ?_ ?_; focus subst x) | skip)
    | with_reducible apply State.profSuspect_keeps | lift_lets | with_reducible refine Keeps.lit ?_ rfl rfl

theorem State.spoilTemps_keeps {z : State} (s : State) (h : Keeps z s) : Keeps z (State.spoilTemps s) := by
  unfold State.spoilTemps
  repeat' first
    | with_reducible assumption | (intro x; first | (refine Keeps.named (z := z) (s := x) ?_ ?_; focus subst x) | skip)
    | with_reducible apply State.profSuspect_keeps | with_reducible apply State.fibFail_keeps | with_reducible apply State.freeHalf_keeps
    | with_reducible apply State.dtsSkip_keeps | with_reducible apply Keeps.foldl | lift_lets | split
    | with_reducible refine Keeps.lit ?_ rfl rfl

theorem State.tdcAbort_keeps {z : State} (s : State) (h : Keeps z s) : Keeps z (State.tdcAbort s) := by
  unfold State.tdcAbort
  repeat' first
    | with_reducible assumption | (intro x; first | (refine Keeps.named (z := z) (s := x) ?_ ?_; focus subst x) | skip)
    | with_reducible apply State.tdcUpd_keeps | with_reducible apply State.tdcResult_keeps | with_reducible apply Keeps.foldl | lift_lets
    | split | with_reducible refine Keeps.lit ?_ rfl rfl

theorem State.pllEffect_keeps {z : State} (s : State) (p : ℕ) (h : Keeps z s) : Keeps z (State.pllEffect s p) := by
  unfold State.pllEffect
  repeat' first
    | with_reducible assumption | (intro x; first | (refine Keeps.named (z := z) (s := x) ?_ ?_; focus subst x) | skip)
    | with_reducible apply State.hkAbandon_keeps | with_reducible apply State.flsCut_keeps | with_reducible apply State.tdcAbort_keeps
    | with_reducible apply State.linksLeave_keeps | with_reducible apply State.spoilWindows_keeps | with_reducible apply State.spoilTemps_keeps
    | with_reducible apply State.setB_keeps | with_reducible apply State.fabMasks_keeps | with_reducible apply State.fleave_keeps
    | with_reducible apply Keeps.foldl | lift_lets | split | with_reducible refine Keeps.of_fst (by assumption) ?_
    | with_reducible refine Keeps.of_snd (by assumption) ?_

theorem State.pllUnlock_keeps {z : State} (s : State) (p : ℕ) (h : Keeps z s) : Keeps z (State.pllUnlock s p) := by
  unfold State.pllUnlock
  repeat' first
    | with_reducible assumption | (intro x; first | (refine Keeps.named (z := z) (s := x) ?_ ?_; focus subst x) | skip)
    | with_reducible apply State.bump_keeps | with_reducible apply State.pllCount_keeps | with_reducible apply State.setB_keeps
    | with_reducible apply State.setF_keeps | with_reducible apply State.pllEffect_keeps | lift_lets | split
    | with_reducible refine Keeps.lit ?_ rfl rfl

theorem State.searchStart_keeps {z : State} (s : State) (h : Keeps z s) : Keeps z (State.searchStart s) := by
  unfold State.searchStart
  repeat' first
    | with_reducible assumption | split | with_reducible refine Keeps.lit ?_ rfl rfl

theorem State.hopTo_keeps {z : State} (s : State) (n : ℕ) (h : Keeps z s) : Keeps z (State.hopTo s n) := by
  unfold State.hopTo
  repeat' first
    | with_reducible assumption | with_reducible apply State.setB_keeps | split | with_reducible refine Keeps.lit ?_ rfl rfl

theorem State.searchResult_keeps {z : State} (s : State) (n : ℕ) (band : ℕ) (amp : ℕ) (h : Keeps z s) :
    Keeps z (State.searchResult s n band amp) := by
  unfold State.searchResult
  repeat' first
    | with_reducible assumption | (intro x; first | (refine Keeps.named (z := z) (s := x) ?_ ?_; focus subst x) | skip)
    | with_reducible apply State.setCsr_keeps | split | with_reducible refine Keeps.lit ?_ rfl rfl

theorem State.searchDone_keeps {z : State} (s : State) (band : ℕ) (amp : ℕ) (h : Keeps z s) : Keeps z (State.searchDone s band amp) := by
  unfold State.searchDone
  repeat' first
    | with_reducible assumption | (intro x; first | (refine Keeps.named (z := z) (s := x) ?_ ?_; focus subst x) | skip)
    | with_reducible apply State.searchResult_keeps | with_reducible apply State.hopTo_keeps | lift_lets | split
    | with_reducible refine Keeps.of_fst (by assumption) ?_ | with_reducible refine Keeps.of_snd (by assumption) ?_

theorem State.dtsAlign_keeps {z : State} (s : State) (h : Keeps z s) : Keeps z (State.dtsAlign s) := by
  unfold State.dtsAlign
  repeat' first
    | with_reducible assumption | with_reducible apply State.hopTo_keeps | split

theorem State.mselHop_keeps {z : State} (s : State) (locked : Bool) (h : Keeps z s) : Keeps z (State.mselHop s locked) := by
  unfold State.mselHop
  repeat' first
    | with_reducible assumption | (intro x; first | (refine Keeps.named (z := z) (s := x) ?_ ?_; focus subst x) | skip)
    | with_reducible apply State.setF_keeps | with_reducible apply State.pllUnlock_keeps | with_reducible apply State.setB_keeps | lift_lets
    | split | with_reducible refine Keeps.of_fst (by assumption) ?_ | with_reducible refine Keeps.of_snd (by assumption) ?_
    | with_reducible refine Keeps.lit ?_ rfl rfl

theorem State.dtsHopEnd_keeps {z : State} (s : State) (h : Keeps z s) : Keeps z (State.dtsHopEnd s) := by
  unfold State.dtsHopEnd
  repeat' first
    | with_reducible assumption | with_reducible apply State.hopEnd_keeps | with_reducible apply State.pllUnlock_keeps
    | with_reducible apply State.setB_keeps | with_reducible apply State.setF_keeps | split
    | with_reducible refine Keeps.of_fst (by assumption) ?_ | with_reducible refine Keeps.of_snd (by assumption) ?_
    | with_reducible refine Keeps.lit ?_ rfl rfl

theorem State.writeMslot_keeps {z : State} (s : State) (who : ℕ) (n : ℕ) (v : Word) (h : Keeps z s) : Keeps z (State.writeMslot s who n v) := by
  unfold State.writeMslot
  repeat' first
    | with_reducible assumption | (intro x; first | (refine Keeps.named (z := z) (s := x) ?_ ?_; focus subst x) | skip)
    | with_reducible apply State.dropLo_keeps | with_reducible apply State.setB_keeps | with_reducible apply State.searchSlot_keeps | lift_lets
    | split

theorem State.writeCommit_keeps {z : State} (s : State) (v : Word) (h : Keeps z s) : Keeps z (State.writeCommit s v) := by
  unfold State.writeCommit
  repeat' first
    | with_reducible assumption | with_reducible apply State.setB_keeps | split | with_reducible refine Keeps.lit ?_ rfl rfl

theorem State.pllStart_keeps {z : State} (s : State) (p : ℕ) (h : Keeps z s) : Keeps z (State.pllStart s p) := by
  unfold State.pllStart
  repeat' first
    | with_reducible assumption | (intro x; first | (refine Keeps.named (z := z) (s := x) ?_ ?_; focus subst x) | skip) | split
    | with_reducible refine Keeps.lit ?_ rfl rfl

theorem State.pllStop_keeps {z : State} (s : State) (p : ℕ) (h : Keeps z s) : Keeps z (State.pllStop s p) := by
  unfold State.pllStop
  repeat' first
    | with_reducible assumption | (intro x; first | (refine Keeps.named (z := z) (s := x) ?_ ?_; focus subst x) | skip)
    | with_reducible apply State.setB_keeps | with_reducible refine Keeps.lit ?_ rfl rfl

theorem State.commitApply_keeps {z : State} (s : State) (h : Keeps z s) : Keeps z (State.commitApply s) := by
  unfold State.commitApply
  repeat' first
    | with_reducible assumption | (intro x; first | (refine Keeps.named (z := z) (s := x) ?_ ?_; focus subst x) | skip)
    | with_reducible apply State.pllStop_keeps | with_reducible apply State.pllStart_keeps | with_reducible apply State.setF_keeps
    | with_reducible apply State.hopTo_keeps | lift_lets | split | with_reducible refine Keeps.lit ?_ rfl rfl

theorem State.commitPoint_keeps {z : State} (s0 : State) (h : Keeps z s0) : Keeps z (State.commitPoint s0) := by
  unfold State.commitPoint
  repeat' first
    | with_reducible assumption | (intro x; first | (refine Keeps.named (z := z) (s := x) ?_ ?_; focus subst x) | skip)
    | with_reducible apply State.rateSettle_keeps | with_reducible apply State.setB_keeps | with_reducible apply State.commitApply_keeps
    | lift_lets | split | with_reducible refine Keeps.of_fst (by assumption) ?_ | with_reducible refine Keeps.of_snd (by assumption) ?_
    | with_reducible refine Keeps.lit ?_ rfl rfl

theorem State.pllReturn_keeps {z : State} (s : State) (p : ℕ) (h : Keeps z s) : Keeps z (State.pllReturn s p) := by
  unfold State.pllReturn
  repeat' first
    | with_reducible assumption
    | (intro x; first | (refine Keeps.named (z := z) (s := x) ?_ ?_; focus subst x) | (refine Keeps.named (z := z) (s := x.1) ?_ ?_; focus subst x) | (refine Keeps.named (z := z) (s := x.2) ?_ ?_; focus subst x) | skip)
    | with_reducible apply State.setB_keeps | with_reducible apply State.setF_keeps | lift_lets | split
    | with_reducible refine Keeps.lit ?_ rfl rfl

theorem State.memReturn_keeps {z : State} (s : State) (rows : List (ℕ × ℕ × ℕ × ℕ)) (temps : List ℕ) (h : Keeps z s) :
    Keeps z (State.memReturn s rows temps) := by
  unfold State.memReturn
  repeat' first
    | with_reducible assumption | (intro x; first | (refine Keeps.named (z := z) (s := x) ?_ ?_; focus subst x) | skip)
    | with_reducible apply State.putTemps_keeps | with_reducible apply State.mchanUpd_keeps | with_reducible apply State.memRelease_keeps
    | with_reducible apply State.trainAdd_keeps | with_reducible apply Keeps.foldl | lift_lets | split
    | with_reducible refine Keeps.lit ?_ rfl rfl

theorem State.synmReturn_keeps {z : State} (s : State) (band : ℕ) (amp : ℕ) (h : Keeps z s) : Keeps z (State.synmReturn s band amp) := by
  unfold State.synmReturn
  repeat' first
    | with_reducible assumption | (intro x; first | (refine Keeps.named (z := z) (s := x) ?_ ?_; focus subst x) | skip)
    | with_reducible apply State.setF_keeps | with_reducible apply State.searchResult_keeps | lift_lets | split
    | with_reducible refine Keeps.lit ?_ rfl rfl

theorem State.pllRelock_keeps {z : State} (s : State) (p : ℕ) (band : ℕ) (amp : ℕ) (phase : Word) (rows : List (ℕ × ℕ × ℕ × ℕ)) (temps : List ℕ)
    (h : Keeps z s) :
    Keeps z (State.pllRelock s p band amp phase rows temps) := by
  unfold State.pllRelock
  repeat' first
    | with_reducible assumption | (intro x; first | (refine Keeps.named (z := z) (s := x) ?_ ?_; focus subst x) | skip)
    | with_reducible apply State.pllReturn_keeps | with_reducible apply State.hkNext_keeps | with_reducible apply State.memReturn_keeps
    | with_reducible apply State.phaseSettle_keeps | with_reducible apply State.synmReturn_keeps | lift_lets | split
    | with_reducible refine Keeps.of_fst (by assumption) ?_ | with_reducible refine Keeps.of_snd (by assumption) ?_
    | with_reducible refine Keeps.lit ?_ rfl rfl

theorem State.synsTimeout_keeps {z : State} (s : State) (h : Keeps z s) : Keeps z (State.synsTimeout s) := by
  unfold State.synsTimeout
  repeat' first
    | with_reducible assumption | (intro x; first | (refine Keeps.named (z := z) (s := x) ?_ ?_; focus subst x) | skip)
    | with_reducible apply State.enterHold_keeps | split | with_reducible refine Keeps.lit ?_ rfl rfl

theorem State.pllAlarm_keeps {z : State} (s : State) (p : ℕ) (h : Keeps z s) : Keeps z (State.pllAlarm s p) := by
  unfold State.pllAlarm
  repeat' first
    | with_reducible assumption | (intro x; first | (refine Keeps.named (z := z) (s := x) ?_ ?_; focus subst x) | skip)
    | with_reducible apply State.alarm_keeps | split | with_reducible refine Keeps.lit ?_ rfl rfl

theorem State.refFail_keeps {z : State} (s : State) (h : Keeps z s) : Keeps z (State.refFail s) := by
  unfold State.refFail
  repeat' first
    | with_reducible assumption | with_reducible apply State.enterHold_keeps | with_reducible apply State.setB_keeps | split

end Sys2Proof.Machine
end

