-- ==== Sys2Proof/Laws/Kept/Flt.lean ====
section
/-! SUPPORT. What every function of Machine/Flt.lean keeps (Laws/Keep.lean). -/

set_option linter.unusedTactic false
set_option linter.unreachableTactic false

namespace Sys2Proof.Machine

theorem State.fltFlags_keeps {z : State} (s : State) (h : Keeps z s) : Keeps z (State.fltFlags s) := by
  unfold State.fltFlags
  repeat' first
    | with_reducible assumption | with_reducible apply State.setB_keeps

theorem State.setFore_keeps {z : State} (s : State) (b : Bool) (h : Keeps z s) : Keeps z (State.setFore s b) := by
  unfold State.setFore
  repeat' first
    | with_reducible assumption | with_reducible apply State.fltFlags_keeps | with_reducible apply State.log_keeps | split
    | with_reducible refine Keeps.lit ?_ rfl rfl

theorem State.recover_keeps {z : State} (s : State) (cause : ℕ) (h : Keeps z s) : Keeps z (State.recover s cause) := by
  unfold State.recover
  repeat' first
    | with_reducible assumption | split | with_reducible refine Keeps.of_fst (by assumption) ?_
    | with_reducible refine Keeps.of_snd (by assumption) ?_ | with_reducible refine Keeps.lit ?_ rfl rfl

theorem State.mismatch_keeps {z : State} (s : State) (h : Keeps z s) : Keeps z (State.mismatch s) := by
  unfold State.mismatch
  repeat' first
    | with_reducible assumption | with_reducible apply State.recover_keeps | with_reducible apply State.alarm_keeps
    | with_reducible apply State.bump_keeps | with_reducible apply State.setB_keeps | split

theorem State.leaseRenew_keeps {z : State} (s : State) (h : Keeps z s) : Keeps z (State.leaseRenew s) := by
  unfold State.leaseRenew
  repeat' first
    | with_reducible assumption | with_reducible apply State.bump_keeps | split | with_reducible refine Keeps.lit ?_ rfl rfl

theorem State.leaseExpire_keeps {z : State} (s : State) (h : Keeps z s) : Keeps z (State.leaseExpire s) := by
  unfold State.leaseExpire
  repeat' first
    | with_reducible assumption | (intro x; first | (refine Keeps.named (z := z) (s := x) ?_ ?_; focus subst x) | skip)
    | with_reducible apply State.bump_keeps | with_reducible apply State.enterHold_keeps | with_reducible apply State.recover_keeps | lift_lets
    | split

theorem State.coreOut_keeps {z : State} (s : State) (b : Bool) (h : Keeps z s) : Keeps z (State.coreOut s b) := by
  unfold State.coreOut
  repeat' first
    | with_reducible assumption | (intro x; first | (refine Keeps.named (z := z) (s := x) ?_ ?_; focus subst x) | skip)
    | with_reducible apply State.alarm_keeps | with_reducible apply State.fltFlags_keeps | lift_lets
    | with_reducible refine Keeps.lit ?_ rfl rfl

theorem State.recovLog_keeps {z : State} (s : State) (level : ℕ) (a : Bool) (b : Bool) (cause : ℕ) (h : Keeps z s) :
    Keeps z (State.recovLog s level a b cause) := by
  unfold State.recovLog
  repeat' first
    | with_reducible assumption | with_reducible apply State.log_keeps

theorem State.selfTest_keeps {z : State} (s : State) (va : Bool) (vb : Bool) (h : Keeps z s) : Keeps z (State.selfTest s va vb) := by
  unfold State.selfTest
  repeat' first
    | with_reducible assumption | (intro x; first | (refine Keeps.named (z := z) (s := x) ?_ ?_; focus subst x) | skip)
    | with_reducible apply State.setFore_keeps | with_reducible apply State.coreOut_keeps | with_reducible apply State.enterHold_keeps
    | with_reducible apply State.recovLog_keeps | with_reducible apply Keeps.cond | lift_lets | split
    | with_reducible refine Keeps.of_fst (by assumption) ?_ | with_reducible refine Keeps.of_snd (by assumption) ?_
    | with_reducible refine Keeps.lit ?_ rfl rfl

theorem State.loadTrap_keeps {z : State} (s : State) (h : Keeps z s) : Keeps z (State.loadTrap s) := by
  unfold State.loadTrap
  repeat' first
    | with_reducible assumption | (intro x; first | (refine Keeps.named (z := z) (s := x) ?_ ?_; focus subst x) | skip)
    | with_reducible apply State.setCsr_keeps | with_reducible apply State.setF_keeps | lift_lets | with_reducible refine Keeps.lit ?_ rfl rfl

theorem State.resume_keeps {z : State} (s : State) (h : Keeps z s) : Keeps z (State.resume s) := by
  unfold State.resume
  repeat' first
    | with_reducible assumption | (intro x; first | (refine Keeps.named (z := z) (s := x) ?_ ?_; focus subst x) | skip)
    | with_reducible apply State.bump_keeps | with_reducible apply State.inc_keeps | with_reducible apply State.loadTrap_keeps
    | with_reducible apply State.recovLog_keeps | with_reducible apply Keeps.cond | lift_lets | split
    | with_reducible refine Keeps.of_fst (by assumption) ?_ | with_reducible refine Keeps.of_snd (by assumption) ?_
    | with_reducible refine Keeps.lit ?_ rfl rfl

theorem State.coreRetest_keeps {z : State} (s : State) (pass : Bool) (h : Keeps z s) : Keeps z (State.coreRetest s pass) := by
  unfold State.coreRetest
  repeat' first
    | with_reducible assumption | (intro x; first | (refine Keeps.named (z := z) (s := x) ?_ ?_; focus subst x) | skip) | lift_lets | split
    | with_reducible refine Keeps.lit ?_ rfl rfl

theorem State.coreBack_keeps {z : State} (s : State) (h : Keeps z s) : Keeps z (State.coreBack s) := by
  unfold State.coreBack
  repeat' first
    | with_reducible assumption | with_reducible apply State.fltFlags_keeps | split | with_reducible refine Keeps.lit ?_ rfl rfl

theorem State.ctest_keeps {z : State} (s : State) (lease : Bool) (h : Keeps z s) : Keeps z (State.ctest s lease) := by
  unfold State.ctest
  repeat' first
    | with_reducible assumption | (intro x; first | (refine Keeps.named (z := z) (s := x) ?_ ?_; focus subst x) | skip)
    | with_reducible apply State.bump_keeps | with_reducible apply State.recover_keeps | lift_lets | split
    | with_reducible refine Keeps.of_fst (by assumption) ?_ | with_reducible refine Keeps.of_snd (by assumption) ?_
    | with_reducible refine Keeps.lit ?_ rfl rfl

theorem State.writeFltCtl_keeps {z : State} (s : State) (v : Word) (lease : Bool) (h : Keeps z s) : Keeps z (State.writeFltCtl s v lease) := by
  unfold State.writeFltCtl
  repeat' first
    | with_reducible assumption | (intro x; first | (refine Keeps.named (z := z) (s := x) ?_ ?_; focus subst x) | skip)
    | with_reducible apply State.ctest_keeps | with_reducible apply State.writeReg_keeps | with_reducible apply Keeps.cond

theorem State.comparatorTest_keeps {z : State} (s : State) (ok : Bool) (h : Keeps z s) : Keeps z (State.comparatorTest s ok) := by
  unfold State.comparatorTest
  repeat' first
    | with_reducible assumption | (intro x; first | (refine Keeps.named (z := z) (s := x) ?_ ?_; focus subst x) | skip)
    | with_reducible apply State.enterHold_keeps | with_reducible apply State.testRun_keeps | with_reducible apply Keeps.cond | split

theorem State.vecTest_keeps {z : State} (s : State) (ok : Bool) (h : Keeps z s) : Keeps z (State.vecTest s ok) := by
  unfold State.vecTest
  repeat' first
    | with_reducible assumption | (intro x; first | (refine Keeps.named (z := z) (s := x) ?_ ?_; focus subst x) | skip)
    | with_reducible apply State.alarm_keeps | with_reducible apply State.suspectSrc_keeps | with_reducible apply State.testRun_keeps
    | with_reducible apply Keeps.cond | split

theorem State.timeCheck_keeps {z : State} (s : State) (p : ℕ) (diff : ℤ) (h : Keeps z s) : Keeps z (State.timeCheck s p diff) := by
  unfold State.timeCheck
  repeat' first
    | with_reducible assumption | with_reducible apply State.alarm_keeps | with_reducible apply State.setTimState_keeps | split

theorem State.sramScrub_keeps {z : State} (s : State) (mem : ℕ) (a : ℕ) (double : Bool) (h : Keeps z s) :
    Keeps z (State.sramScrub s mem a double) := by
  unfold State.sramScrub
  repeat' first
    | with_reducible assumption | (intro x; first | (refine Keeps.named (z := z) (s := x) ?_ ?_; focus subst x) | skip)
    | with_reducible apply State.bump_keeps | with_reducible apply State.alarm_keeps | with_reducible apply State.incF_keeps | split
    | with_reducible refine Keeps.of_fst (by assumption) ?_ | with_reducible refine Keeps.of_snd (by assumption) ?_
    | with_reducible refine Keeps.lit ?_ rfl rfl

theorem State.parityError_keeps {z : State} (s : State) (island : ℕ) (h : Keeps z s) : Keeps z (State.parityError s island) := by
  unfold State.parityError
  repeat' first
    | with_reducible assumption | with_reducible apply State.momentary_keeps | with_reducible apply State.alarm_keeps

theorem State.supervisorFault_keeps {z : State} (s : State) (h : Keeps z s) : Keeps z (State.supervisorFault s) := by
  unfold State.supervisorFault
  repeat' first
    | with_reducible assumption | with_reducible apply State.enterHold_keeps

theorem State.summaryPost_keeps {z : State} (s : State) (h : Keeps z s) : Keeps z (State.summaryPost s) := by
  unfold State.summaryPost
  repeat' first
    | with_reducible assumption | (intro x; first | (refine Keeps.named (z := z) (s := x) ?_ ?_; focus subst x) | skip)
    | with_reducible apply State.postAlarm_keeps | with_reducible apply Keeps.cond | lift_lets | split
    | with_reducible refine Keeps.of_fst (by assumption) ?_ | with_reducible refine Keeps.of_snd (by assumption) ?_
    | with_reducible refine Keeps.lit ?_ rfl rfl

theorem State.tokenRefill_keeps {z : State} (s : State) (c : ℕ) (h : Keeps z s) : Keeps z (State.tokenRefill s c) := by
  unfold State.tokenRefill
  repeat' first
    | with_reducible assumption | (intro x; first | (refine Keeps.named (z := z) (s := x) ?_ ?_; focus subst x) | skip) | lift_lets
    | with_reducible refine Keeps.lit ?_ rfl rfl

theorem State.critSlots_keeps {z : State} (s : State) (a1 : ℕ) (h : Keeps z s) : Keeps z (State.critSlots s a1) := by
  induction a1 generalizing s with
  | zero => exact h
  | succ a1 ih =>
    unfold State.critSlots
    repeat' first
      | with_reducible assumption | with_reducible apply ih | (intro x; first | (refine Keeps.named (z := z) (s := x) ?_ ?_; focus subst x) | skip) | split
      | with_reducible refine Keeps.of_fst (by assumption) ?_ | with_reducible refine Keeps.of_snd (by assumption) ?_
      | with_reducible refine Keeps.lit ?_ rfl rfl

theorem State.critDrain_keeps {z : State} (s : State) (h : Keeps z s) : Keeps z (State.critDrain s) := by
  unfold State.critDrain
  repeat' first
    | with_reducible assumption | (intro x; first | (refine Keeps.named (z := z) (s := x) ?_ ?_; focus subst x) | skip)
    | with_reducible apply State.critSlots_keeps | with_reducible apply State.postAlarm_keeps | lift_lets | split
    | with_reducible refine Keeps.of_fst (by assumption) ?_ | with_reducible refine Keeps.of_snd (by assumption) ?_
    | with_reducible refine Keeps.lit ?_ rfl rfl

theorem State.writeSnapat_keeps {z : State} (s : State) (who : ℕ) (v : Word) (h : Keeps z s) : Keeps z (State.writeSnapat s who v) := by
  unfold State.writeSnapat
  repeat' first
    | with_reducible assumption | (intro x; first | (refine Keeps.named (z := z) (s := x) ?_ ?_; focus subst x) | skip)
    | with_reducible apply State.writePair_keeps | lift_lets | with_reducible refine Keeps.lit ?_ rfl rfl

theorem State.cntsnap_keeps {z : State} (s : State) (stamp : ℕ) (h : Keeps z s) : Keeps z (State.cntsnap s stamp) := by
  unfold State.cntsnap
  repeat' first
    | with_reducible assumption | split | with_reducible refine Keeps.lit ?_ rfl rfl

theorem State.snapshot_keeps {z : State} (s : State) (h : Keeps z s) : Keeps z (State.snapshot s) := by
  unfold State.snapshot
  repeat' first
    | with_reducible assumption | (intro x; first | (refine Keeps.named (z := z) (s := x) ?_ ?_; focus subst x) | skip)
    | with_reducible apply State.incMod_keeps | with_reducible apply State.publish_keeps | with_reducible apply Keeps.foldl | lift_lets

theorem State.counterSnap_keeps {z : State} (s : State) (h : Keeps z s) : Keeps z (State.counterSnap s) := by
  unfold State.counterSnap
  repeat' first
    | with_reducible assumption | (intro x; first | (refine Keeps.named (z := z) (s := x) ?_ ?_; focus subst x) | skip)
    | with_reducible apply State.snapshot_keeps | lift_lets | split | with_reducible refine Keeps.of_fst (by assumption) ?_
    | with_reducible refine Keeps.of_snd (by assumption) ?_ | with_reducible refine Keeps.lit ?_ rfl rfl

theorem State.staleCheck_keeps {z : State} (s : State) (h : Keeps z s) : Keeps z (State.staleCheck s) := by
  unfold State.staleCheck
  repeat' first
    | with_reducible assumption | (intro x; first | (refine Keeps.named (z := z) (s := x) ?_ ?_; focus subst x) | skip)
    | with_reducible apply State.setCsr_keeps | lift_lets | split | with_reducible refine Keeps.of_fst (by assumption) ?_
    | with_reducible refine Keeps.of_snd (by assumption) ?_ | with_reducible refine Keeps.lit ?_ rfl rfl

end Sys2Proof.Machine
end

