-- ==== Sys2Proof/Laws/Kept/Journal.lean ====
section
/-! SUPPORT. What every function of Machine/Journal.lean keeps (Laws/Keep.lean). -/

set_option linter.unusedTactic false
set_option linter.unreachableTactic false

namespace Sys2Proof.Machine

theorem State.jpush_keeps {z : State} (s : State) (e : JEntry) (h : Keeps z s) : Keeps z (State.jpush s e) := by
  unfold State.jpush
  repeat' first
    | with_reducible assumption | with_reducible apply State.alarm_keeps | with_reducible apply State.setB_keeps | split
    | with_reducible refine Keeps.lit ?_ rfl rfl

theorem State.jdiverge_keeps {z : State} (s : State) (h : Keeps z s) : Keeps z (State.jdiverge s) := by
  unfold State.jdiverge
  repeat' first
    | with_reducible assumption | (intro x; first | (refine Keeps.named (z := z) (s := x) ?_ ?_; focus subst x) | skip)
    | with_reducible apply State.setB_keeps | lift_lets | split | with_reducible refine Keeps.lit ?_ rfl rfl

theorem State.jmeet_keeps {z s : State} {α : Type} {f : JEntry → Option α} {r : α × State} (h : Keeps z s) (e : s.jmeet f = some r) :
    Keeps z r.2 := by
  unfold State.jmeet at e
  split at e
  · cases e
  · obtain ⟨x, -, rfl⟩ := Option.map_eq_some_iff.1 e
    exact Keeps.lit h rfl rfl

end Sys2Proof.Machine
end

