-- ==== Sys2Proof/Laws/Kept/Phs.lean ====
section
/-! SUPPORT. What every function of Machine/Phs.lean keeps (Laws/Keep.lean). -/

set_option linter.unusedTactic false
set_option linter.unreachableTactic false

namespace Sys2Proof.Machine

theorem State.pairHalves_keeps {z : State} (s : State) (l : Launch) (data : List (List (Cx × Cx))) (h : Keeps z s) :
    Keeps z (State.pairHalves s l data).2 := by
  unfold State.pairHalves
  repeat' first
    | with_reducible assumption
    | (intro x; first | (refine Keeps.named (z := z) (s := x) ?_ ?_; focus subst x) | (refine Keeps.named (z := z) (s := x.1) ?_ ?_; focus subst x) | (refine Keeps.named (z := z) (s := x.2) ?_ ?_; focus subst x) | skip)
    | with_reducible apply Keeps.foldl | with_reducible apply Keeps.foldl_fst | with_reducible apply Keeps.foldl_snd | lift_lets | split
    | with_reducible refine Keeps.lit ?_ rfl rfl

theorem State.combine_keeps {z : State} (s : State) (l : Launch) (data : List (List (Cx × Cx))) (h : Keeps z s) :
    Keeps z (State.combine s l data).2 := by
  unfold State.combine
  repeat' first
    | with_reducible assumption
    | (intro x; first | (refine Keeps.named (z := z) (s := x) ?_ ?_; focus subst x) | (refine Keeps.named (z := z) (s := x.1) ?_ ?_; focus subst x) | (refine Keeps.named (z := z) (s := x.2) ?_ ?_; focus subst x) | skip)
    | lift_lets | split | with_reducible refine Keeps.lit ?_ rfl rfl

theorem State.postFrame_keeps {z : State} (s : State) (l : Launch) (gap : Bool) (flags : ℕ) (chans : List PhW) (h : Keeps z s) :
    Keeps z (State.postFrame s l gap flags chans) := by
  unfold State.postFrame
  repeat' first
    | with_reducible assumption
    | (intro x; first | (refine Keeps.named (z := z) (s := x) ?_ ?_; focus subst x) | (refine Keeps.named (z := z) (s := x.1) ?_ ?_; focus subst x) | (refine Keeps.named (z := z) (s := x.2) ?_ ?_; focus subst x) | skip)
    | with_reducible apply State.bump_keeps | with_reducible apply State.publish_keeps | with_reducible apply State.inc_keeps
    | with_reducible apply Keeps.cond | with_reducible apply Keeps.foldl | with_reducible apply Keeps.foldl_fst
    | with_reducible apply Keeps.foldl_snd | lift_lets

theorem State.postCoil_keeps {z : State} (s : State) (l : Launch) (gap : Bool) (flags : ℕ) (ws : List PhW) (h : Keeps z s) :
    Keeps z (State.postCoil s l gap flags ws) := by
  unfold State.postCoil
  repeat' first
    | with_reducible assumption | (intro x; first | (refine Keeps.named (z := z) (s := x) ?_ ?_; focus subst x) | skip)
    | with_reducible apply State.bump_keeps | with_reducible apply State.publish_keeps | with_reducible apply State.inc_keeps
    | with_reducible apply Keeps.cond | lift_lets

theorem State.checkFrame_keeps {z : State} (s : State) (l : Launch) (z0 : List (ℕ × List Cx)) (delta : ℕ) (h : Keeps z s) :
    Keeps z (State.checkFrame s l z0 delta) := by
  unfold State.checkFrame
  repeat' first
    | with_reducible assumption
    | (intro x; first | (refine Keeps.named (z := z) (s := x) ?_ ?_; focus subst x) | (refine Keeps.named (z := z) (s := x.1) ?_ ?_; focus subst x) | (refine Keeps.named (z := z) (s := x.2) ?_ ?_; focus subst x) | skip)
    | with_reducible apply Keeps.foldl | with_reducible apply Keeps.foldl_fst | with_reducible apply Keeps.foldl_snd | lift_lets | split
    | with_reducible refine Keeps.lit ?_ rfl rfl

theorem State.frameTaken_keeps {z : State} (s : State) (l : Launch) (h : Keeps z s) : Keeps z (State.frameTaken s l) := by
  unfold State.frameTaken
  repeat' first
    | with_reducible assumption | with_reducible apply State.chansFresh_keeps | split | with_reducible refine Keeps.lit ?_ rfl rfl

theorem State.frameKept_keeps {z : State} (s : State) (l : Launch) (coilOn : Bool) (outs : List (ℕ × PhOut)) (coils : List (ℕ × PhOut)) (h : Keeps
    z s) :
    Keeps z (State.frameKept s l coilOn outs coils) := by
  unfold State.frameKept
  repeat' first
    | with_reducible assumption
    | (intro x; first | (refine Keeps.named (z := z) (s := x) ?_ ?_; focus subst x) | (refine Keeps.named (z := z) (s := x.1) ?_ ?_; focus subst x) | (refine Keeps.named (z := z) (s := x.2) ?_ ?_; focus subst x) | skip)
    | with_reducible apply State.inc_keeps | with_reducible apply State.setB_keeps | with_reducible apply Keeps.cond | lift_lets | split
    | with_reducible refine Keeps.lit ?_ rfl rfl

theorem State.frameOut_keeps {z : State} (s5 : State) (s : State) (l : Launch) (coilOn : Bool) (gap : Bool) (delta : ℕ) (z0 : List (ℕ × List Cx))
    (outs : List (ℕ × PhOut)) (coils : List (ℕ × PhOut)) (h : Keeps z s5) (h1 : Keeps z s) :
    Keeps z (State.frameOut s5 s l coilOn gap delta z0 outs coils) := by
  unfold State.frameOut
  repeat' first
    | with_reducible assumption
    | (intro x; first | (refine Keeps.named (z := z) (s := x) ?_ ?_; focus subst x) | (refine Keeps.named (z := z) (s := x.1) ?_ ?_; focus subst x) | (refine Keeps.named (z := z) (s := x.2) ?_ ?_; focus subst x) | skip)
    | with_reducible apply State.frameChannels_keeps | with_reducible apply State.postFrame_keeps | with_reducible apply State.ringPut_keeps
    | with_reducible apply State.postCoil_keeps | with_reducible apply State.pushFrame_keeps | with_reducible apply State.checkFrame_keeps
    | with_reducible apply State.strFlush_keeps | with_reducible apply Keeps.cond | lift_lets | split
    | with_reducible refine Keeps.lit ?_ rfl rfl

theorem State.framePublish_keeps {z : State} (s0 : State) (xs : List Adc) (h : Keeps z s0) : Keeps z (State.framePublish s0 xs) := by
  unfold State.framePublish
  repeat' first
    | with_reducible assumption
    | (intro x; first | (refine Keeps.named (z := z) (s := x) ?_ ?_; focus subst x) | (refine Keeps.named (z := z) (s := x.1) ?_ ?_; focus subst x) | (refine Keeps.named (z := z) (s := x.2) ?_ ?_; focus subst x) | skip)
    | with_reducible apply State.take_keeps | with_reducible apply State.pairHalves_keeps | with_reducible apply State.frameTaken_keeps
    | with_reducible apply State.combine_keeps | with_reducible apply State.frameOut_keeps | with_reducible apply State.frameKept_keeps
    | lift_lets | split | with_reducible refine Keeps.of_fst (by assumption) ?_ | with_reducible refine Keeps.of_snd (by assumption) ?_
    | with_reducible refine Keeps.lit ?_ rfl rfl

theorem State.sentMeasure_keeps {z : State} (s : State) (kept : List ChkFrame) (h : Keeps z s) : Keeps z (State.sentMeasure s kept).2 := by
  unfold State.sentMeasure
  repeat' first
    | with_reducible assumption
    | (intro x; first | (refine Keeps.named (z := z) (s := x) ?_ ?_; focus subst x) | (refine Keeps.named (z := z) (s := x.1) ?_ ?_; focus subst x) | (refine Keeps.named (z := z) (s := x.2) ?_ ?_; focus subst x) | skip)
    | with_reducible apply State.free_keeps | lift_lets | split

theorem State.sentinelEnd_keeps {z : State} (s : State) (h : Keeps z s) : Keeps z (State.sentinelEnd s) := by
  unfold State.sentinelEnd
  repeat' first
    | with_reducible assumption
    | (intro x; first | (refine Keeps.named (z := z) (s := x) ?_ ?_; focus subst x) | (refine Keeps.named (z := z) (s := x.1) ?_ ?_; focus subst x) | (refine Keeps.named (z := z) (s := x.2) ?_ ?_; focus subst x) | skip)
    | with_reducible apply State.setB_keeps | with_reducible apply State.sentMeasure_keeps | with_reducible apply State.result_keeps
    | with_reducible apply State.suspectSrc_keeps | with_reducible apply State.alarm_keeps | with_reducible apply Keeps.cond | lift_lets | split
    | with_reducible refine Keeps.lit ?_ rfl rfl

theorem State.writeGauge_keeps {z : State} (s : State) (v : Word) (h : Keeps z s) : Keeps z (State.writeGauge s v) := by
  unfold State.writeGauge
  repeat' first
    | with_reducible assumption | (intro x; first | (refine Keeps.named (z := z) (s := x) ?_ ?_; focus subst x) | skip)
    | with_reducible apply State.setB_keeps | with_reducible apply State.writeReg_keeps | with_reducible apply State.settleAll_keeps | lift_lets
    | split | with_reducible refine Keeps.lit ?_ rfl rfl

theorem State.writeGidx_keeps {z : State} (s : State) (v : Word) (h : Keeps z s) : Keeps z (State.writeGidx s v) := by
  unfold State.writeGidx
  repeat' first
    | with_reducible assumption | with_reducible apply State.setB_keeps | with_reducible apply State.writeReg_keeps | split
    | with_reducible refine Keeps.lit ?_ rfl rfl

theorem State.writeXi_keeps {z : State} (s : State) (v : Word) (h : Keeps z s) : Keeps z (State.writeXi s v) := by
  unfold State.writeXi
  repeat' first
    | with_reducible assumption | with_reducible apply State.setB_keeps | with_reducible apply State.writeReg_keeps | split

end Sys2Proof.Machine
end

