-- ==== Sys2Proof/Laws/Kept/Vec.lean ====
section
/-! SUPPORT. What every function of Machine/Vec.lean keeps (Laws/Keep.lean). -/

set_option linter.unusedTactic false
set_option linter.unreachableTactic false

namespace Sys2Proof.Machine

theorem State.xferLoad_keeps {z : State} (s : State) (x : Xfer) (h : Keeps z s) : Keeps z (State.xferLoad s x) := by
  unfold State.xferLoad
  repeat' first
    | with_reducible assumption | (intro x; first | (refine Keeps.named (z := z) (s := x) ?_ ?_; focus subst x) | skip)
    | with_reducible apply State.engineRead_keeps | with_reducible apply Keeps.foldl | lift_lets | with_reducible refine Keeps.lit ?_ rfl rfl

theorem State.xferStore_keeps {z : State} (s : State) (x : Xfer) (h : Keeps z s) : Keeps z (s.xferStore x) := by
  unfold State.xferStore
  refine Keeps.foldl _ h fun t i w => ?_
  extract_lets e a
  split
  · exact w.sameMem (fun v => ⟨Memory.writeN_wf v.mem _ _ _, v.pmem, v.dmem, v.img⟩) rfl rfl
  · exact State.putWords_keeps _ _ _ w

theorem State.outputs_keeps {z : State} (s : State) (a1 : List Xfer) (h : Keeps z s) : Keeps z (State.outputs s a1).2 := by
  induction a1 generalizing s with
  | nil => exact h
  | cons x0 a1 ih =>
    unfold State.outputs
    repeat' first
      | with_reducible assumption | with_reducible apply ih | with_reducible apply State.xferStore_keeps | split

theorem State.jobResult_keeps {z : State} (s : State) (q : ℕ) (e : Entry) (status : ℕ) (h : Keeps z s) : Keeps z (State.jobResult s q e status) := by
  unfold State.jobResult
  repeat' first
    | with_reducible assumption | with_reducible apply State.publishEntry_keeps | with_reducible apply State.incMod_keeps
    | with_reducible refine Keeps.lit ?_ rfl rfl

theorem State.vecStart_keeps {z : State} (s : State) (h : Keeps z s) : Keeps z (State.vecStart s) := by
  unfold State.vecStart
  repeat' first
    | with_reducible assumption | (intro x; first | (refine Keeps.named (z := z) (s := x) ?_ ?_; focus subst x) | skip)
    | with_reducible apply State.dequeue_keeps | with_reducible apply State.jobResult_keeps | with_reducible apply State.putWords_keeps
    | with_reducible apply State.xferLoad_keeps | with_reducible apply Keeps.foldl | lift_lets | split
    | with_reducible refine Keeps.lit ?_ rfl rfl

theorem State.vecDone_keeps {z : State} (s : State) (cycles : ℕ) (h : Keeps z s) : Keeps z (State.vecDone s cycles) := by
  unfold State.vecDone
  repeat' first
    | with_reducible assumption
    | (intro x; first | (refine Keeps.named (z := z) (s := x) ?_ ?_; focus subst x) | (refine Keeps.named (z := z) (s := x.1) ?_ ?_; focus subst x) | (refine Keeps.named (z := z) (s := x.2) ?_ ?_; focus subst x) | skip)
    | with_reducible apply State.outputs_keeps | with_reducible apply State.putWords_keeps | with_reducible apply State.setF_keeps
    | with_reducible apply State.setPair_keeps | with_reducible apply State.incF_keeps | with_reducible apply State.setB_keeps
    | with_reducible apply State.jobResult_keeps | with_reducible apply Keeps.cond | lift_lets | split
    | with_reducible refine Keeps.of_fst (by assumption) ?_ | with_reducible refine Keeps.of_snd (by assumption) ?_
    | with_reducible refine Keeps.lit ?_ rfl rfl

theorem State.vecFault_keeps {z : State} (s : State) (cause : ℕ) (h : Keeps z s) : Keeps z (State.vecFault s cause) := by
  unfold State.vecFault
  repeat' first
    | with_reducible assumption | split | with_reducible refine Keeps.of_fst (by assumption) ?_
    | with_reducible refine Keeps.of_snd (by assumption) ?_ | with_reducible refine Keeps.lit ?_ rfl rfl

theorem State.vecLimit_keeps {z : State} (s : State) (h : Keeps z s) : Keeps z (State.vecLimit s) := by
  unfold State.vecLimit
  repeat' first
    | with_reducible assumption | split | with_reducible refine Keeps.of_fst (by assumption) ?_
    | with_reducible refine Keeps.of_snd (by assumption) ?_ | with_reducible refine Keeps.lit ?_ rfl rfl

theorem State.writeVecCtl_keeps {z : State} (s : State) (v : Word) (h : Keeps z s) : Keeps z (State.writeVecCtl s v) := by
  unfold State.writeVecCtl
  repeat' first
    | with_reducible assumption | (intro x; first | (refine Keeps.named (z := z) (s := x) ?_ ?_; focus subst x) | skip)
    | with_reducible apply State.vecFault_keeps | with_reducible apply State.writeReg_keeps | with_reducible apply Keeps.cond | lift_lets
    | split | with_reducible refine Keeps.lit ?_ rfl rfl

theorem State.svStep_keeps {z : State} (s : State) (f : VecJob → VecSt → SvOut) (h : Keeps z s) : Keeps z (State.svStep s f) := by
  unfold State.svStep
  repeat' first
    | with_reducible assumption | (intro x; first | (refine Keeps.named (z := z) (s := x) ?_ ?_; focus subst x) | skip)
    | with_reducible apply State.vecLimit_keeps | with_reducible apply State.vecFault_keeps | with_reducible apply State.setB_keeps
    | with_reducible apply Keeps.cond | lift_lets | split | with_reducible refine Keeps.of_fst (by assumption) ?_
    | with_reducible refine Keeps.of_snd (by assumption) ?_ | with_reducible refine Keeps.lit ?_ rfl rfl

end Sys2Proof.Machine
end

