-- ==== Sys2Proof/Laws/Kept/Sec.lean ====
section
/-! SUPPORT. What every function of Machine/Sec.lean keeps (Laws/Keep.lean). -/

set_option linter.unusedTactic false
set_option linter.unreachableTactic false

namespace Sys2Proof.Machine

theorem State.secUpd_at {z : State} (s : State) (f : SecSt → SecSt) (h : Keeps z s) (hf : SecKeeps s.sec (f s.sec)) : Keeps z (s.secUpd f) :=
  h.sameSec rfl rfl rfl rfl hf

theorem State.secUpd_keeps {z : State} (s : State) (f : SecSt → SecSt) (h : Keeps z s) (hf : ∀ x, SecKeeps x (f x)) : Keeps z (s.secUpd f) :=
  State.secUpd_at s f h (hf _)

theorem State.slot_wf {s : State} (w : s.MemWf) (i : Nat) : (s.slot i).wf := by
  unfold State.slot
  split
  · exact w.img.slots 0 (by decide)
  · exact w.img.slots 1 (by decide)

theorem State.putSlot_keeps {z : State} (s : State) (i : Nat) (f : Image → Image) (h : Keeps z s)
    (hf : ∀ m, s.MemWf → m.wf → (f m).wf) : Keeps z (s.putSlot i f) := by
  unfold State.putSlot State.secUpd
  refine h.trans ⟨fun w => ⟨w.mem, w.pmem, w.dmem, ⟨fun j hj => ?_, w.img.running, w.img.loading⟩⟩, id, ⟨Nat.le_refl _, Nat.le_refl _, id, id, id⟩⟩
  show ((vmod s.sec.slots (i % 2) f)[j]).wf
  unfold vmod
  rw [Vector.getElem_mapIdx]
  split
  · exact hf _ w (w.img.slots j hj)
  · exact w.img.slots j hj

theorem State.span_wf {s : State} (w : s.MemWf) (a n : Nat) : Memory.wf (s.span a n) = true :=
  Memory.shift_wf (Memory.filter_wf w.mem _) a fun c hc => by
    have := (List.mem_filter.1 hc).2
    simp only [Bool.and_eq_true, decide_eq_true_eq] at this
    exact this.1

theorem State.container_wf {s : State} (w : s.MemWf) (a len : Nat) : (s.container a len).2.wf :=
  ⟨State.span_wf w _ _, State.span_wf w _ _⟩

theorem State.loadimg_keeps {z : State} (s : State) (tag a len : Nat) (h : Keeps z s) :
    Keeps z (s.loadimg tag a len).1 := by
  unfold State.loadimg
  split
  · exact h
  · split
    · exact h
    · extract_lets t c st s1
      have h1 : Keeps s s1 := State.putSlot_keeps _ _ _ (State.dramRead_keeps _ _ _ (Keeps.refl _)) fun m _ k => k
      split
      · refine h.trans ⟨fun w => ⟨(h1.mem w).mem, (h1.mem w).pmem, (h1.mem w).dmem, ⟨(h1.mem w).img.slots, (h1.mem w).img.running, ?_⟩⟩,
          h1.csr, ⟨h1.sec.rbc, h1.sec.cnt, h1.sec.cap, h1.sec.exuvia, h1.sec.egg⟩⟩
        rintro l hl
        cases hl
        exact State.container_wf w a len
      · exact h.trans h1

theorem State.setboot_keeps {z : State} (s : State) (slot : Nat) (commit : Bool) (h : Keeps z s) : Keeps z (s.setboot slot commit).1 := by
  unfold State.setboot
  split
  · exact h
  · split
    · exact h
    · refine Keeps.fst_mk (State.secUpd_at _ _ h ⟨fun w => ⟨w.slots, w.running, w.loading⟩, ?_, Nat.le_refl _, id, id, id⟩)
      show s.sec.rbc ≤ if commit then max s.sec.rbc _ else s.sec.rbc
      split
      · exact Nat.le_max_left ..
      · exact Nat.le_refl _

theorem State.moultBegin_keeps {z : State} (s : State) (slot : ℕ) (h : Keeps z s) : Keeps z (State.moultBegin s slot) := by
  unfold State.moultBegin
  repeat' first
    | with_reducible assumption | exact fun _ => SecKeeps.same rfl rfl rfl rfl rfl rfl
    | (intro x; first | (refine Keeps.named (z := z) (s := x) ?_ ?_; focus subst x) | skip) | with_reducible apply State.secUpd_keeps
    | with_reducible apply State.setB_keeps | lift_lets | with_reducible refine Keeps.lit ?_ rfl rfl

theorem State.moultAbandon_keeps {z : State} (s : State) (h : Keeps z s) : Keeps z (State.moultAbandon s) := by
  unfold State.moultAbandon
  repeat' first
    | with_reducible assumption | exact fun _ => SecKeeps.same rfl rfl rfl rfl rfl rfl
    | (intro x; first | (refine Keeps.named (z := z) (s := x) ?_ ?_; focus subst x) | skip) | with_reducible apply State.alarm_keeps
    | with_reducible apply State.secUpd_keeps | with_reducible apply State.setB_keeps | lift_lets | with_reducible refine Keeps.lit ?_ rfl rfl

theorem State.moultLoaded_keeps {z : State} (s : State) (ok : Bool) (h : Keeps z s) : Keeps z (State.moultLoaded s ok) := by
  unfold State.moultLoaded
  repeat' first
    | with_reducible assumption | exact fun _ => SecKeeps.same rfl rfl rfl rfl rfl rfl
    | (intro x; first | (refine Keeps.named (z := z) (s := x) ?_ ?_; focus subst x) | skip) | with_reducible apply State.secUpd_keeps
    | with_reducible apply State.moultAbandon_keeps | split | with_reducible refine Keeps.of_fst (by assumption) ?_
    | with_reducible refine Keeps.of_snd (by assumption) ?_ | with_reducible refine Keeps.lit ?_ rfl rfl

theorem State.moultTimeout_keeps {z : State} (s : State) (h : Keeps z s) : Keeps z (State.moultTimeout s) := by
  unfold State.moultTimeout
  repeat' first
    | with_reducible assumption | with_reducible apply State.moultAbandon_keeps | split | with_reducible refine Keeps.of_fst (by assumption) ?_
    | with_reducible refine Keeps.of_snd (by assumption) ?_

theorem State.abandon_keeps {z : State} (s : State) (h : Keeps z s) : Keeps z (State.abandon s).1 := by
  unfold State.abandon
  repeat' first
    | with_reducible assumption | with_reducible apply State.moultAbandon_keeps | split | with_reducible refine Keeps.of_fst (by assumption) ?_
    | with_reducible refine Keeps.of_snd (by assumption) ?_

theorem State.setKey_keeps {z : State} (s : State) (k : ℕ) (v : Bool) (h : Keeps z s) : Keeps z (State.setKey s k v) := by
  unfold State.setKey
  repeat' first
    | with_reducible assumption | exact fun _ => SecKeeps.same rfl rfl rfl rfl rfl rfl
    | (intro x; first | (refine Keeps.named (z := z) (s := x) ?_ ?_; focus subst x) | skip) | with_reducible apply State.secUpd_keeps
    | with_reducible refine Keeps.lit ?_ rfl rfl

theorem State.freeWords_keeps {z : State} (s : State) (a1 : ℕ) (h : Keeps z s) : Keeps z (State.freeWords s a1).2 := by
  induction a1 generalizing s with
  | zero => exact h
  | succ a1 ih =>
    unfold State.freeWords
    repeat' first
      | with_reducible assumption | with_reducible apply ih
      | (intro x; first | (refine Keeps.named (z := z) (s := x) ?_ ?_; focus subst x) | (refine Keeps.named (z := z) (s := x.1) ?_ ?_; focus subst x) | (refine Keeps.named (z := z) (s := x.2) ?_ ?_; focus subst x) | skip)
      | with_reducible apply State.free_keeps | lift_lets | split

theorem State.keyrepl_keeps {z : State} (s : State) (args : List ℕ) (h : Keeps z s) : Keeps z (State.keyrepl s args).1 := by
  unfold State.keyrepl
  repeat' first
    | with_reducible assumption | exact fun _ => SecKeeps.same rfl rfl rfl rfl rfl rfl
    | (intro x; first | (refine Keeps.named (z := z) (s := x) ?_ ?_; focus subst x) | (refine Keeps.named (z := z) (s := x.1) ?_ ?_; focus subst x) | (refine Keeps.named (z := z) (s := x.2) ?_ ?_; focus subst x) | skip)
    | with_reducible apply State.secUpd_keeps | with_reducible apply State.setKey_keeps | with_reducible apply State.free_keeps | lift_lets
    | split | with_reducible refine Keeps.of_fst (by assumption) ?_ | with_reducible refine Keeps.of_snd (by assumption) ?_
    | with_reducible refine Keeps.lit ?_ rfl rfl

theorem State.putFabKey_keeps {z : State} (s : State) (i : ℕ) (x : ℕ × List ℕ) (h : Keeps z s) : Keeps z (State.putFabKey s i x) := by
  unfold State.putFabKey
  repeat' first
    | with_reducible assumption | exact fun _ => SecKeeps.same rfl rfl rfl rfl rfl rfl
    | (intro x; first | (refine Keeps.named (z := z) (s := x) ?_ ?_; focus subst x) | skip) | with_reducible apply State.secUpd_keeps
    | with_reducible refine Keeps.lit ?_ rfl rfl

theorem State.fabkey_keeps {z : State} (s : State) (args : List ℕ) (h : Keeps z s) : Keeps z (State.fabkey s args).1 := by
  unfold State.fabkey
  repeat' first
    | with_reducible assumption | (intro x; first | (refine Keeps.named (z := z) (s := x) ?_ ?_; focus subst x) | skip)
    | with_reducible apply State.keyInstall_keeps | with_reducible apply State.putFabKey_keeps | with_reducible apply State.setKey_keeps
    | with_reducible apply State.keyActivate_keeps | lift_lets | split | with_reducible refine Keeps.of_fst (by assumption) ?_
    | with_reducible refine Keeps.of_snd (by assumption) ?_

theorem State.rng_keeps {z : State} (s : State) (h : Keeps z s) : Keeps z (State.rng s).2 := by
  unfold State.rng
  repeat' first
    | with_reducible assumption
    | (intro x; first | (refine Keeps.named (z := z) (s := x) ?_ ?_; focus subst x) | (refine Keeps.named (z := z) (s := x.1) ?_ ?_; focus subst x) | (refine Keeps.named (z := z) (s := x.2) ?_ ?_; focus subst x) | skip)
    | with_reducible apply State.free_keeps | lift_lets | split

theorem State.rngRead_keeps {z : State} (s : State) (who : ℕ) (h : Keeps z s) : Keeps z (State.rngRead s who) := by
  unfold State.rngRead
  repeat' first
    | with_reducible assumption
    | (intro x; first | (refine Keeps.named (z := z) (s := x) ?_ ?_; focus subst x) | (refine Keeps.named (z := z) (s := x.1) ?_ ?_; focus subst x) | (refine Keeps.named (z := z) (s := x.2) ?_ ?_; focus subst x) | skip)
    | with_reducible apply State.rng_keeps | lift_lets | with_reducible refine Keeps.lit ?_ rfl rfl

theorem State.rngFail_keeps {z : State} (s : State) (h : Keeps z s) : Keeps z (State.rngFail s) := by
  unfold State.rngFail
  repeat' first
    | with_reducible assumption | exact fun _ => SecKeeps.same rfl rfl rfl rfl rfl rfl
    | (intro x; first | (refine Keeps.named (z := z) (s := x) ?_ ?_; focus subst x) | skip) | with_reducible apply State.alarm_keeps
    | with_reducible apply State.secUpd_keeps | with_reducible refine Keeps.lit ?_ rfl rfl

theorem State.rngClear_keeps {z : State} (s : State) (h : Keeps z s) : Keeps z (State.rngClear s) := by
  unfold State.rngClear
  repeat' first
    | with_reducible assumption | exact fun _ => SecKeeps.same rfl rfl rfl rfl rfl rfl
    | (intro x; first | (refine Keeps.named (z := z) (s := x) ?_ ?_; focus subst x) | skip) | with_reducible apply State.secUpd_keeps
    | with_reducible refine Keeps.lit ?_ rfl rfl

theorem State.zeroise_keeps {z : State} (s : State) (h : Keeps z s) : Keeps z (State.zeroise s) := by
  unfold State.zeroise
  repeat' first
    | with_reducible assumption | exact fun _ => SecKeeps.same rfl rfl rfl rfl rfl rfl
    | (intro x; first | (refine Keeps.named (z := z) (s := x) ?_ ?_; focus subst x) | skip) | with_reducible apply State.secUpd_keeps
    | lift_lets | with_reducible refine Keeps.lit ?_ rfl rfl

theorem State.sealRecord_keeps {z : State} (s : State) (atStart : Bool) (h : Keeps z s) : Keeps z (State.sealRecord s atStart) := by
  unfold State.sealRecord
  repeat' first
    | with_reducible assumption | exact fun _ => SecKeeps.same rfl rfl rfl rfl rfl rfl
    | (intro x; first | (refine Keeps.named (z := z) (s := x) ?_ ?_; focus subst x) | skip) | with_reducible apply State.alarm_keeps
    | with_reducible apply State.secUpd_keeps | with_reducible refine Keeps.lit ?_ rfl rfl

theorem State.sealBreak_keeps {z : State} (s : State) (h : Keeps z s) : Keeps z (State.sealBreak s) := by
  unfold State.sealBreak
  repeat' first
    | with_reducible assumption | exact fun _ => SecKeeps.same rfl rfl rfl rfl rfl rfl
    | (intro x; first | (refine Keeps.named (z := z) (s := x) ?_ ?_; focus subst x) | skip) | with_reducible apply State.secUpd_keeps
    | with_reducible apply State.sealRecord_keeps | with_reducible apply State.zeroise_keeps | split | lift_lets
    | with_reducible refine Keeps.lit ?_ rfl rfl

theorem State.sealClose_keeps {z : State} (s : State) (h : Keeps z s) : Keeps z (State.sealClose s) := by
  unfold State.sealClose
  repeat' first
    | with_reducible assumption | exact fun _ => SecKeeps.same rfl rfl rfl rfl rfl rfl
    | (intro x; first | (refine Keeps.named (z := z) (s := x) ?_ ?_; focus subst x) | skip) | with_reducible apply State.secUpd_keeps | split
    | with_reducible refine Keeps.lit ?_ rfl rfl

theorem State.lcjChange_keeps {z : State} (s : State) (fitted : Bool) (h : Keeps z s) : Keeps z (State.lcjChange s fitted) := by
  unfold State.lcjChange
  repeat' first
    | with_reducible assumption | exact fun _ => SecKeeps.same rfl rfl rfl rfl rfl rfl
    | (intro x; first | (refine Keeps.named (z := z) (s := x) ?_ ?_; focus subst x) | skip) | with_reducible apply State.secUpd_keeps
    | lift_lets | with_reducible refine Keeps.lit ?_ rfl rfl

theorem State.dbgDefault_keeps {z : State} (s : State) (h : Keeps z s) : Keeps z (State.dbgDefault s) := by
  unfold State.dbgDefault
  repeat' first
    | with_reducible assumption | (intro x; first | (refine Keeps.named (z := z) (s := x) ?_ ?_; focus subst x) | skip) | lift_lets | split
    | with_reducible refine Keeps.lit ?_ rfl rfl

theorem lcRow_exuvia (t : LifeCycle) : lcRow .exuvia t = false := by cases t <;> rfl

theorem lcRow_egg (a : LifeCycle) : lcRow a .egg = false := by cases a <;> rfl

theorem State.lcApply_keeps {z : State} (s : State) (target : LifeCycle) (h : Keeps z s) : Keeps z (s.lcApply target) := by
  unfold State.lcApply
  split
  · exact h
  · rename_i hn
    simp only [Bool.or_eq_true, Bool.not_eq_true', Bool.and_eq_true, beq_iff_eq, bne_iff_ne, decide_eq_true_eq, not_or, not_and] at hn
    split
    · exact State.dbgDefault_keeps _ (State.secUpd_at _ _ h (SecKeeps.same rfl rfl rfl rfl rfl rfl))
    · rename_i hi
      refine State.dbgDefault_keeps _ (State.secUpd_at _ _ h ⟨fun w => ⟨w.slots, w.running, w.loading⟩, Nat.le_refl _, Nat.le_add_right .., ?_, ?_, ?_⟩)
      · intro hc
        show s.sec.lccnt + (if target = .imago then 1 else 0) ≤ 16
        split
        · have := hn.2 ⟨‹_›, fun e => hi ⟨e, ‹_›⟩⟩
          omega
        · exact hc
      · intro he
        exact absurd (he ▸ hn.1) (by rw [lcRow_exuvia]; decide)
      · rintro - rfl
        exact hn.1 (lcRow_egg _)

theorem State.wipeDram_keeps {z : State} (s : State) (h : Keeps z s) : Keeps z s.wipeDram :=
  h.sameMem (fun w => ⟨Memory.filter_wf w.mem _, w.pmem, w.dmem, w.img⟩) rfl rfl

theorem State.wipeFor_keeps {z : State} (s : State) (a b : LifeCycle) (h : Keeps z s) : Keeps z (s.wipeFor a b) := by
  unfold State.wipeFor
  extract_lets images profs idlast keep x ks ps im lg y s1
  refine Keeps.cond _ ?_ fun _ w => State.setCsr_keeps _ _ _ w
  refine State.secUpd_at _ _ (State.wipeDram_keeps _ h) ⟨fun w => ⟨fun i hi => ?_, w.running, w.loading⟩, Nat.le_refl _, Nat.le_refl _, id, id, id⟩
  show (im[i]).wf
  by_cases hb : images = true
  · have : im = Vector.replicate 2 (Image.blank false) := if_pos hb
    rw [this, Vector.getElem_replicate]
    exact ⟨rfl, rfl⟩
  · have : im = x.slots := if_neg hb
    rw [this]
    exact w.slots i hi

theorem State.windowOpen_keeps {z : State} (s : State) (c : OutCmd) (e : Entry) (row : Bool) (h : Keeps z s) :
    Keeps z (State.windowOpen s c e row) := by
  unfold State.windowOpen
  repeat' first
    | with_reducible assumption | exact fun _ => SecKeeps.same rfl rfl rfl rfl rfl rfl
    | (intro x; first | (refine Keeps.named (z := z) (s := x) ?_ ?_; focus subst x) | skip) | with_reducible apply State.secUpd_keeps
    | lift_lets | with_reducible refine Keeps.lit ?_ rfl rfl

theorem State.dbgunlock_keeps {z : State} (s : State) (kinds : ℕ) (minutes : ℕ) (h : Keeps z s) : Keeps z (State.dbgunlock s kinds minutes).1 := by
  unfold State.dbgunlock
  repeat' first
    | with_reducible assumption | (intro x; first | (refine Keeps.named (z := z) (s := x) ?_ ?_; focus subst x) | skip) | lift_lets | split
    | with_reducible refine Keeps.lit ?_ rfl rfl

theorem State.dbgLock_keeps {z : State} (s : State) (h : Keeps z s) : Keeps z (State.dbgLock s) := by
  unfold State.dbgLock
  repeat' first
    | with_reducible assumption | split | with_reducible refine Keeps.lit ?_ rfl rfl

theorem State.dbgExpire_keeps {z : State} (s : State) (h : Keeps z s) : Keeps z (State.dbgExpire s) := by
  unfold State.dbgExpire
  repeat' first
    | with_reducible assumption | (intro x; first | (refine Keeps.named (z := z) (s := x) ?_ ?_; focus subst x) | skip) | lift_lets | split
    | with_reducible refine Keeps.lit ?_ rfl rfl

end Sys2Proof.Machine
end

