-- ==== Sys2Proof/Laws/Kept/Pwr.lean ====
section
/-! SUPPORT. What every function of Machine/Pwr.lean keeps (Laws/Keep.lean). -/

set_option linter.unusedTactic false
set_option linter.unreachableTactic false

namespace Sys2Proof.Machine

theorem State.pwrUpd_keeps {z : State} (s : State) (f : PwrSt → PwrSt) (h : Keeps z s) : Keeps z (State.pwrUpd s f) := by
  unfold State.pwrUpd
  repeat' first
    | with_reducible assumption | with_reducible refine Keeps.lit ?_ rfl rfl

theorem SecSt.reset_wf : SecSt.reset.Wf := by
  refine ⟨fun i hi => ?_, ⟨rfl, rfl⟩, fun _ e => nomatch e⟩
  match i, hi with
  | 0, _ => exact ⟨rfl, rfl⟩
  | 1, _ => exact ⟨rfl, rfl⟩

theorem SecSt.kept_keeps (x : SecSt) : SecKeeps x x.kept :=
  ⟨fun w => ⟨w.slots, SecSt.reset_wf.running, SecSt.reset_wf.loading⟩, Nat.le_refl _, Nat.le_refl _, id, id, id⟩

theorem State.doReset_keeps {z : State} (s : State) (cause : Nat) (h : Keeps z s) : Keeps z (s.doReset cause) := by
  unfold State.doReset
  extract_lets n cocoons r0 r r1 d0 d flt pwr r2
  have hk := SecSt.kept_keeps s.sec
  have h0 : Keeps s r := ⟨fun w => ⟨rfl, rfl, rfl, hk.wf w.img⟩, fun _ => rfl, hk.mono⟩
  have h1 : Keeps s r1 := Keeps.ite (fun _ => ⟨fun w => ⟨Memory.filter_wf w.mem _, rfl, rfl, hk.wf w.img⟩, fun _ => rfl, hk.mono⟩) fun _ => h0
  have h2 : Keeps z r2 := h.trans (Keeps.lit h1 rfl rfl)
  exact State.setCsr_keeps _ _ _ (State.setCsr_keeps _ _ _ (State.setCsr_keeps _ _ _ (State.dbgDefault_keeps _ h2)))

theorem State.coldStart_keeps {z : State} (s : State) (main : Bool) (ka : Bool) (h : Keeps z s) : Keeps z (State.coldStart s main ka) := by
  unfold State.coldStart
  repeat' first
    | with_reducible assumption | exact fun _ => SecKeeps.same rfl rfl rfl rfl rfl rfl
    | (intro x; first | (refine Keeps.named (z := z) (s := x) ?_ ?_; focus subst x) | skip) | with_reducible apply State.pwrUpd_keeps
    | with_reducible apply State.doReset_keeps | with_reducible apply State.secUpd_keeps | with_reducible apply State.alarm_keeps | lift_lets
    | split | with_reducible refine Keeps.lit ?_ rfl rfl

theorem State.powerGood_keeps {z : State} (s : State) (absent : Bool) (h : Keeps z s) : Keeps z (State.powerGood s absent) := by
  unfold State.powerGood
  repeat' first
    | with_reducible assumption | (intro x; first | (refine Keeps.named (z := z) (s := x) ?_ ?_; focus subst x) | skip)
    | with_reducible apply State.pwrUpd_keeps | with_reducible apply State.setF_keeps | lift_lets | split
    | with_reducible refine Keeps.lit ?_ rfl rfl

theorem State.lightsOut_keeps {z : State} (s : State) (h : Keeps z s) : Keeps z (State.lightsOut s) := by
  unfold State.lightsOut
  repeat' first
    | with_reducible assumption | (intro x; first | (refine Keeps.named (z := z) (s := x) ?_ ?_; focus subst x) | skip)
    | with_reducible apply State.flsCut_keeps | lift_lets | with_reducible refine Keeps.lit ?_ rfl rfl

theorem State.brownOut_keeps {z : State} (s : State) (h : Keeps z s) : Keeps z (State.brownOut s) := by
  unfold State.brownOut
  repeat' first
    | with_reducible assumption | intro _ | with_reducible apply State.pwrUpd_keeps | with_reducible apply State.doReset_keeps
    | with_reducible apply State.lightsOut_keeps | split | with_reducible refine Keeps.lit ?_ rfl rfl | with_reducible apply Keeps.ite
    | (dsimp -zeta +zetaDelta only; split)

theorem State.railFault_keeps {z : State} (s : State) (chan : ℕ) (h : Keeps z s) : Keeps z (State.railFault s chan) := by
  unfold State.railFault
  repeat' first
    | with_reducible assumption | with_reducible apply State.enterHold_keeps | with_reducible apply State.setF_keeps
    | with_reducible apply State.setB_keeps

theorem State.resetNLow_keeps {z : State} (s : State) (h : Keeps z s) : Keeps z (State.resetNLow s) := by
  unfold State.resetNLow
  repeat' first
    | with_reducible assumption | intro _ | with_reducible apply State.pwrUpd_keeps | with_reducible apply State.doReset_keeps
    | with_reducible apply Keeps.cond | with_reducible refine Keeps.lit ?_ rfl rfl | with_reducible apply Keeps.ite
    | (dsimp -zeta +zetaDelta only; split)

theorem State.resetSoon_keeps {z : State} (s : State) (h : Keeps z s) : Keeps z (State.resetSoon s) := by
  unfold State.resetSoon
  repeat' first
    | with_reducible assumption | (intro x; first | (refine Keeps.named (z := z) (s := x) ?_ ?_; focus subst x) | skip)
    | with_reducible apply State.pwrUpd_keeps | split | with_reducible refine Keeps.lit ?_ rfl rfl

theorem State.resetExpire_keeps {z : State} (s : State) (h : Keeps z s) : Keeps z (State.resetExpire s) := by
  unfold State.resetExpire
  repeat' first
    | with_reducible assumption | intro _ | with_reducible apply State.doReset_keeps | split
    | with_reducible refine Keeps.of_fst (by assumption) ?_ | with_reducible refine Keeps.of_snd (by assumption) ?_
    | with_reducible apply Keeps.ite | (dsimp -zeta +zetaDelta only; split)

theorem State.resetRelease_keeps {z : State} (s : State) (profsel : ℕ) (h : Keeps z s) : Keeps z (State.resetRelease s profsel) := by
  unfold State.resetRelease
  repeat' first
    | with_reducible assumption | exact fun _ => SecKeeps.same rfl rfl rfl rfl rfl rfl
    | (intro x; first | (refine Keeps.named (z := z) (s := x) ?_ ?_; focus subst x) | skip) | with_reducible apply State.secUpd_keeps
    | with_reducible apply State.sealRecord_keeps | with_reducible apply State.zeroise_keeps | split | lift_lets
    | with_reducible refine Keeps.lit ?_ rfl rfl

theorem State.wipeDone_keeps {z : State} (s : State) (h : Keeps z s) : Keeps z (State.wipeDone s) := by
  unfold State.wipeDone
  repeat' first
    | with_reducible assumption | intro _ | with_reducible apply State.wipeFor_keeps | with_reducible apply State.doReset_keeps
    | with_reducible apply Keeps.ite | extract_lets | split | with_reducible refine Keeps.of_fst (by assumption) ?_
    | with_reducible refine Keeps.of_snd (by assumption) ?_ | (dsimp -zeta +zetaDelta only; split)

theorem State.kaChange_keeps {z : State} (s : State) (ok : Bool) (h : Keeps z s) : Keeps z (State.kaChange s ok) := by
  unfold State.kaChange
  repeat' first
    | with_reducible assumption | (intro x; first | (refine Keeps.named (z := z) (s := x) ?_ ?_; focus subst x) | skip)
    | with_reducible apply State.pwrUpd_keeps | with_reducible refine Keeps.lit ?_ rfl rfl

theorem State.baseplate_keeps {z : State} (s : State) (temp : ℤ) (h : Keeps z s) : Keeps z (State.baseplate s temp) := by
  unfold State.baseplate
  repeat' first
    | with_reducible assumption | (intro x; first | (refine Keeps.named (z := z) (s := x) ?_ ?_; focus subst x) | skip)
    | with_reducible apply State.alarm_keeps | with_reducible apply State.pwrUpd_keeps | with_reducible apply Keeps.cond | lift_lets
    | with_reducible refine Keeps.lit ?_ rfl rfl

theorem State.cocoonBegin_keeps {z : State} (s : State) (h : Keeps z s) : Keeps z (State.cocoonBegin s) := by
  unfold State.cocoonBegin
  repeat' first
    | with_reducible assumption | (intro x; first | (refine Keeps.named (z := z) (s := x) ?_ ?_; focus subst x) | skip)
    | with_reducible apply State.hkAbandon_keeps | with_reducible apply State.flsCocoon_keeps | with_reducible apply State.fabDown_keeps
    | with_reducible apply State.hkFlags_keeps | with_reducible apply Keeps.foldl | lift_lets | with_reducible refine Keeps.lit ?_ rfl rfl

theorem State.startPlls_keeps {z : State} (s : State) (h : Keeps z s) : Keeps z (State.startPlls s) := by
  unfold State.startPlls
  repeat' first
    | with_reducible assumption | (intro x; first | (refine Keeps.named (z := z) (s := x) ?_ ?_; focus subst x) | skip)
    | with_reducible apply State.pllStart_keeps | with_reducible apply Keeps.foldl

theorem State.emergeBegin_keeps {z : State} (s : State) (tag : Option ℕ) (h : Keeps z s) : Keeps z (State.emergeBegin s tag) := by
  unfold State.emergeBegin
  repeat' first
    | with_reducible assumption | (intro x; first | (refine Keeps.named (z := z) (s := x) ?_ ?_; focus subst x) | skip)
    | with_reducible apply State.pwrUpd_keeps | with_reducible apply State.startPlls_keeps | with_reducible refine Keeps.lit ?_ rfl rfl

theorem State.dramFlush_keeps {z : State} (s : State) (h : Keeps z s) : Keeps z (State.dramFlush s) := by
  unfold State.dramFlush
  repeat' first
    | with_reducible assumption
    | (intro x; first | (refine Keeps.named (z := z) (s := x) ?_ ?_; focus subst x) | (refine Keeps.named (z := z) (s := x.1) ?_ ?_; focus subst x) | (refine Keeps.named (z := z) (s := x.2) ?_ ?_; focus subst x) | skip)
    | with_reducible apply State.memServe_keeps | with_reducible apply State.commitStore_keeps | with_reducible apply State.mchanUpd_keeps
    | with_reducible apply Keeps.foldl | with_reducible apply Keeps.foldl_fst | with_reducible apply Keeps.foldl_snd | lift_lets
    | with_reducible refine Keeps.lit ?_ rfl rfl

theorem State.dramSave_keeps {z : State} (s : State) (h : Keeps z s) : Keeps z (State.dramSave s) := by
  unfold State.dramSave
  repeat' first
    | with_reducible assumption | (intro x; first | (refine Keeps.named (z := z) (s := x) ?_ ?_; focus subst x) | skip)
    | with_reducible apply State.pwrUpd_keeps | with_reducible refine Keeps.lit ?_ rfl rfl

theorem State.dramRestore_keeps {z : State} (s : State) (h : Keeps z s) : Keeps z (State.dramRestore s) := by
  unfold State.dramRestore
  repeat' first
    | with_reducible assumption | (intro x; first | (refine Keeps.named (z := z) (s := x) ?_ ?_; focus subst x) | skip)
    | with_reducible apply State.setF_keeps | with_reducible apply Keeps.foldl | with_reducible refine Keeps.lit ?_ rfl rfl

theorem State.cocoonDone_keeps {z : State} (s : State) (h : Keeps z s) : Keeps z (State.cocoonDone s) := by
  unfold State.cocoonDone
  repeat' first
    | with_reducible assumption | (intro x; first | (refine Keeps.named (z := z) (s := x) ?_ ?_; focus subst x) | skip)
    | with_reducible apply State.dramSave_keeps | with_reducible apply State.inc_keeps | with_reducible apply State.linksLeave_keeps
    | with_reducible apply State.dramFlush_keeps | with_reducible apply State.pwrUpd_keeps | with_reducible apply State.pllStop_keeps
    | with_reducible apply State.emergeBegin_keeps | with_reducible apply Keeps.cond | with_reducible apply Keeps.foldl | lift_lets | split
    | with_reducible refine Keeps.of_fst (by assumption) ?_ | with_reducible refine Keeps.of_snd (by assumption) ?_
    | with_reducible refine Keeps.lit ?_ rfl rfl

theorem State.wakeExpire_keeps {z : State} (s : State) (h : Keeps z s) : Keeps z (State.wakeExpire s) := by
  unfold State.wakeExpire
  repeat' first
    | with_reducible assumption | (intro x; first | (refine Keeps.named (z := z) (s := x) ?_ ?_; focus subst x) | skip)
    | with_reducible apply State.emergeBegin_keeps | with_reducible apply State.pwrUpd_keeps | split
    | with_reducible refine Keeps.of_fst (by assumption) ?_ | with_reducible refine Keeps.of_snd (by assumption) ?_
    | with_reducible refine Keeps.lit ?_ rfl rfl

theorem State.mboxAnswer_keeps {z : State} (s : State) (tag : ℕ) (status : ℕ) (res : List ℕ) (h : Keeps z s) :
    Keeps z (State.mboxAnswer s tag status res) := by
  unfold State.mboxAnswer
  repeat' first
    | with_reducible assumption | (intro x; first | (refine Keeps.named (z := z) (s := x) ?_ ?_; focus subst x) | skip)
    | with_reducible apply State.setCsr_keeps | with_reducible apply State.pwrUpd_keeps | with_reducible apply State.keepResult_keeps
    | with_reducible apply Keeps.foldl | lift_lets | split | with_reducible refine Keeps.lit ?_ rfl rfl

theorem State.rejectLog_keeps {z : State} (s : State) (code : ℕ) (tag : ℕ) (h : Keeps z s) : Keeps z (State.rejectLog s code tag) := by
  unfold State.rejectLog
  repeat' first
    | with_reducible assumption | with_reducible apply State.log_keeps | with_reducible apply State.bump_keeps
    | with_reducible apply State.inc_keeps | with_reducible refine Keeps.lit ?_ rfl rfl

theorem State.mboxEmerge_keeps {z : State} (s : State) (tag : ℕ) (h : Keeps z s) : Keeps z (State.mboxEmerge s tag) := by
  unfold State.mboxEmerge
  repeat' first
    | with_reducible assumption | (intro x; first | (refine Keeps.named (z := z) (s := x) ?_ ?_; focus subst x) | skip)
    | with_reducible apply State.mboxAnswer_keeps | with_reducible apply State.rejectLog_keeps | with_reducible apply State.pwrUpd_keeps
    | with_reducible apply State.emergeBegin_keeps | split | with_reducible refine Keeps.of_fst (by assumption) ?_
    | with_reducible refine Keeps.of_snd (by assumption) ?_ | with_reducible refine Keeps.lit ?_ rfl rfl

theorem State.mboxWrite_keeps {z : State} (s : State) (v : Word) (h : Keeps z s) : Keeps z (State.mboxWrite s v) := by
  unfold State.mboxWrite
  repeat' first
    | with_reducible assumption | (intro x; first | (refine Keeps.named (z := z) (s := x) ?_ ?_; focus subst x) | skip)
    | with_reducible apply State.setB_keeps | with_reducible apply State.mboxAnswer_keeps | with_reducible apply State.resetSoon_keeps
    | with_reducible apply State.mboxEmerge_keeps | lift_lets | split | with_reducible refine Keeps.of_fst (by assumption) ?_
    | with_reducible refine Keeps.of_snd (by assumption) ?_

theorem State.writeWakeat_keeps {z : State} (s : State) (who : ℕ) (v : Word) (h : Keeps z s) : Keeps z (State.writeWakeat s who v) := by
  unfold State.writeWakeat
  repeat' first
    | with_reducible assumption | (intro x; first | (refine Keeps.named (z := z) (s := x) ?_ ?_; focus subst x) | skip)
    | with_reducible apply State.writePair_keeps | with_reducible apply State.pwrUpd_keeps | lift_lets
    | with_reducible refine Keeps.lit ?_ rfl rfl

theorem State.wakeIdle_keeps {z : State} (s : State) (h : Keeps z s) : Keeps z (State.wakeIdle s) := by
  unfold State.wakeIdle
  repeat' first
    | with_reducible assumption | (intro x; first | (refine Keeps.named (z := z) (s := x) ?_ ?_; focus subst x) | skip)
    | with_reducible apply State.jpush_keeps | with_reducible apply State.bump_keeps | split | lift_lets
    | with_reducible refine Keeps.of_fst (by assumption) ?_ | with_reducible refine Keeps.of_snd (by assumption) ?_
    | with_reducible refine Keeps.lit ?_ rfl rfl

theorem State.dramWake_keeps {z : State} (s : State) (rows : List (ℕ × ℕ × ℕ × ℕ)) (temps : List ℕ) (res : List TrnResult) (h : Keeps z s) :
    Keeps z (State.dramWake s rows temps res) := by
  unfold State.dramWake
  repeat' first
    | with_reducible assumption | (intro x; first | (refine Keeps.named (z := z) (s := x) ?_ ?_; focus subst x) | skip)
    | with_reducible apply State.dramRestore_keeps | with_reducible apply State.chanResult_keeps | with_reducible apply State.putTemps_keeps
    | with_reducible apply State.dramTemp_keeps | with_reducible apply Keeps.foldl | lift_lets

theorem State.emergeDone_keeps {z : State} (s0 : State) (phase : Word) (rows : List (ℕ × ℕ × ℕ × ℕ)) (temps : List ℕ) (res : List TrnResult) (h :
    Keeps z s0) :
    Keeps z (State.emergeDone s0 phase rows temps res) := by
  unfold State.emergeDone
  repeat' first
    | with_reducible assumption | (intro x; first | (refine Keeps.named (z := z) (s := x) ?_ ?_; focus subst x) | skip)
    | with_reducible apply State.pllReturn_keeps | with_reducible apply State.setF_keeps | with_reducible apply State.wakeIdle_keeps
    | with_reducible apply State.fabEnables_keeps | with_reducible apply State.dramWake_keeps | with_reducible apply State.setB_keeps
    | with_reducible apply State.holdFirst_keeps | with_reducible apply State.mboxAnswer_keeps | with_reducible apply Keeps.foldl | lift_lets
    | split | with_reducible refine Keeps.of_fst (by assumption) ?_ | with_reducible refine Keeps.of_snd (by assumption) ?_
    | with_reducible refine Keeps.lit ?_ rfl rfl

end Sys2Proof.Machine
end

