-- ==== Sys2Proof/Laws/Kept/Regs.lean ====
section
/-! SUPPORT. What every function of Machine/Regs.lean keeps (Laws/Keep.lean). -/

set_option linter.unusedTactic false
set_option linter.unreachableTactic false

namespace Sys2Proof.Machine

theorem State.setW_keeps {z : State} (s : State) (d : Fin 16) (v : DWord) (h : Keeps z s) : Keeps z (State.setW s d v) := by
  unfold State.setW
  repeat' first
    | with_reducible assumption | (intro x; first | (refine Keeps.named (z := z) (s := x) ?_ ?_; focus subst x) | skip) | split
    | with_reducible refine Keeps.lit ?_ rfl rfl

theorem State.setPc_keeps {z : State} (s : State) (a : BitVec 18) (h : Keeps z s) : Keeps z (State.setPc s a) := by
  unfold State.setPc
  repeat' first
    | with_reducible assumption | with_reducible refine Keeps.lit ?_ rfl rfl

theorem State.retireTo_keeps {z : State} (s : State) (a : BitVec 18) (h : Keeps z s) : Keeps z (State.retireTo s a) := by
  unfold State.retireTo
  repeat' first
    | with_reducible assumption | with_reducible apply State.bump_keeps | with_reducible apply State.setPc_keeps

theorem State.advance_keeps {z : State} (s : State) (h : Keeps z s) : Keeps z (State.advance s) := by
  unfold State.advance
  repeat' first
    | with_reducible assumption | with_reducible apply State.retireTo_keeps

theorem State.setStall_keeps {z : State} (s : State) (x : Stall) (h : Keeps z s) : Keeps z (State.setStall s x) := by
  unfold State.setStall
  repeat' first
    | with_reducible assumption | with_reducible refine Keeps.lit ?_ rfl rfl

theorem State.retire_keeps {z : State} (s : State) (d : Fin 16) (v : DWord) (f : DWord) (h : Keeps z s) : Keeps z (State.retire s d v f) := by
  unfold State.retire
  repeat' first
    | with_reducible assumption | with_reducible apply State.advance_keeps | with_reducible apply State.setFlags_keeps
    | with_reducible apply State.setW_keeps

theorem State.retireStatus_keeps {z : State} (s : State) (d : Fin 16) (status : ℕ) (h : Keeps z s) : Keeps z (State.retireStatus s d status) := by
  unfold State.retireStatus
  repeat' first
    | with_reducible assumption | with_reducible apply State.retire_keeps | with_reducible refine Keeps.lit ?_ rfl rfl

theorem State.trapRaise_keeps {z : State} (s : State) (cause : ℕ) (code : ℕ) (tval : ℕ) (h : Keeps z s) :
    Keeps z (State.trapRaise s cause code tval) := by
  unfold State.trapRaise
  repeat' first
    | with_reducible assumption | (intro x; first | (refine Keeps.named (z := z) (s := x) ?_ ?_; focus subst x) | skip)
    | with_reducible apply State.setStall_keeps | with_reducible apply State.enterHold_keeps | with_reducible apply State.setB_keeps
    | with_reducible apply State.setCsr_keeps | with_reducible apply State.setPair_keeps | with_reducible apply State.setPc_keeps | lift_lets
    | split

theorem State.trapReturn_keeps {z : State} (s : State) (h : Keeps z s) : Keeps z (State.trapReturn s) := by
  unfold State.trapReturn
  repeat' first
    | with_reducible assumption | with_reducible apply State.retireTo_keeps | with_reducible apply State.setB_keeps

theorem State.cycles_keeps {z : State} (s : State) (n : ℕ) (h : Keeps z s) : Keeps z (State.cycles s n) := by
  unfold State.cycles
  repeat' first
    | with_reducible assumption | with_reducible apply State.elapse_keeps

theorem State.issue_keeps {z : State} (s : State) (f : State → IssueOut) (h : Keeps z s) (hf : ∀ t, Keeps z t → KeepsI z (f t)) :
    Keeps z (State.issue s f) := by
  unfold State.issue
  repeat' first
    | with_reducible assumption | (intro x; first | (refine Keeps.named (z := z) (s := x) ?_ ?_; focus subst x) | skip)
    | with_reducible apply State.cycles_keeps | with_reducible apply State.trapRaise_keeps | with_reducible apply KeepsI.trap
    | with_reducible apply hf | split | with_reducible refine Keeps.of_fst (by assumption) ?_
    | with_reducible refine Keeps.of_snd (by assumption) ?_ | with_reducible refine Keeps.of_done (by assumption) ?_

theorem State.compute_keeps {z : State} (s : State) (d : Fin 16) (v : DWord) (f : DWord) (n : ℕ) (h : Keeps z s) :
    KeepsI z (State.compute s d v f n) := by
  unfold State.compute
  repeat' first
    | with_reducible assumption | with_reducible apply KeepsI.done | with_reducible exact KeepsI.trap | with_reducible apply State.retire_keeps
    | with_reducible refine Keeps.of_done (by assumption) ?_

end Sys2Proof.Machine
end

