-- ==== Sys2Proof/Laws/Kept/CsrBus.lean ====
section
/-! SUPPORT. What every function of Machine/CsrBus.lean keeps (Laws/Keep.lean). -/

set_option linter.unusedTactic false
set_option linter.unreachableTactic false

namespace Sys2Proof.Machine

theorem State.putLatch_keeps {z : State} (s : State) (who : ℕ) (a : ℕ) (v : Word) (h : Keeps z s) : Keeps z (State.putLatch s who a v) := by
  unfold State.putLatch
  repeat' first
    | with_reducible assumption | with_reducible refine Keeps.lit ?_ rfl rfl

theorem State.readRes_keeps {z : State} (s : State) (who : ℕ) (a : ℕ) (h : Keeps z s) : Keeps z (State.readRes s who a).2 := by
  unfold State.readRes
  repeat' first
    | with_reducible assumption
    | (intro x; first | (refine Keeps.named (z := z) (s := x) ?_ ?_; focus subst x) | (refine Keeps.named (z := z) (s := x.1) ?_ ?_; focus subst x) | (refine Keeps.named (z := z) (s := x.2) ?_ ?_; focus subst x) | skip)
    | with_reducible apply State.readResult_keeps | with_reducible apply State.putLatch_keeps | lift_lets | split
    | with_reducible refine Keeps.of_fst (by assumption) ?_ | with_reducible refine Keeps.of_snd (by assumption) ?_
    | with_reducible refine Keeps.lit ?_ rfl rfl

theorem State.readLo_keeps {z : State} (s : State) (who : ℕ) (a : ℕ) (h : Keeps z s) : Keeps z (State.readLo s who a).2 := by
  unfold State.readLo
  repeat' first
    | with_reducible assumption | (intro x; first | (refine Keeps.named (z := z) (s := x) ?_ ?_; focus subst x) | skip)
    | with_reducible apply State.latchHi_keeps | with_reducible apply State.putLatch_keeps | lift_lets | split

theorem State.readCsr_keeps {z : State} (s : State) (who : ℕ) (a : ℕ) (h : Keeps z s) : Keeps z (State.readCsr s who a).2 := by
  unfold State.readCsr
  repeat' first
    | with_reducible assumption | with_reducible apply State.setB_keeps | with_reducible apply State.readRes_keeps
    | with_reducible apply State.rng_keeps | with_reducible apply State.readLo_keeps | split
    | with_reducible refine Keeps.of_fst (by assumption) ?_ | with_reducible refine Keeps.of_snd (by assumption) ?_

theorem State.coreRelease_keeps {z : State} (s : State) (n : ℕ) (h : Keeps z s) : Keeps z (State.coreRelease s n) := by
  unfold State.coreRelease
  repeat' first
    | with_reducible assumption | with_reducible apply State.jpush_keeps | with_reducible apply State.retireStatus_keeps
    | with_reducible apply State.setStall_keeps | split | with_reducible refine Keeps.of_fst (by assumption) ?_
    | with_reducible refine Keeps.of_snd (by assumption) ?_

theorem State.queRelease_keeps {z : State} (s : State) (n : ℕ) (h : Keeps z s) : Keeps z (State.queRelease s n) := by
  unfold State.queRelease
  repeat' first
    | with_reducible assumption | (intro x; first | (refine Keeps.named (z := z) (s := x) ?_ ?_; focus subst x) | skip)
    | with_reducible apply State.coreRelease_keeps | with_reducible apply State.dropRec_keeps | with_reducible apply Keeps.foldl | lift_lets
    | with_reducible refine Keeps.lit ?_ rfl rfl

theorem State.queStart_keeps {z : State} (s : State) (n : ℕ) (h : Keeps z s) : Keeps z (State.queStart s n) := by
  unfold State.queStart
  repeat' first
    | with_reducible assumption
    | (intro x; first | (refine Keeps.named (z := z) (s := x) ?_ ?_; focus subst x) | (refine Keeps.named (z := z) (s := x.1) ?_ ?_; focus subst x) | (refine Keeps.named (z := z) (s := x.2) ?_ ?_; focus subst x) | skip)
    | with_reducible apply State.setCsr_keeps | with_reducible apply State.evbRestart_keeps | with_reducible apply State.headMoved_keeps
    | with_reducible apply Keeps.cond | lift_lets | with_reducible refine Keeps.lit ?_ rfl rfl

theorem State.writeQueCfg_keeps {z : State} (s : State) (n : ℕ) (v : Word) (h : Keeps z s) : Keeps z (State.writeQueCfg s n v) := by
  unfold State.writeQueCfg
  repeat' first
    | with_reducible assumption | (intro x; first | (refine Keeps.named (z := z) (s := x) ?_ ?_; focus subst x) | skip)
    | with_reducible apply State.writeReg_keeps | with_reducible apply State.queRelease_keeps | with_reducible apply State.evbSync_keeps
    | with_reducible apply State.queStart_keeps | with_reducible apply State.setB_keeps | with_reducible apply Keeps.cond | lift_lets | split
    | with_reducible refine Keeps.lit ?_ rfl rfl

theorem State.writeQueHead_keeps {z : State} (s : State) (n : ℕ) (v : Word) (h : Keeps z s) : Keeps z (State.writeQueHead s n v) := by
  unfold State.writeQueHead
  repeat' first
    | with_reducible assumption | (intro x; first | (refine Keeps.named (z := z) (s := x) ?_ ?_; focus subst x) | skip)
    | with_reducible apply State.setB_keeps | with_reducible apply State.evbSync_keeps | with_reducible apply State.headMoved_keeps
    | with_reducible apply State.setCsr_keeps | with_reducible apply Keeps.cond | split

theorem State.writeQue_keeps {z : State} (s : State) (who : ℕ) (a : ℕ) (v : Word) (lease : Bool) (h : Keeps z s) :
    Keeps z (State.writeQue s who a v lease) := by
  unfold State.writeQue
  repeat' first
    | with_reducible assumption | (intro x; first | (refine Keeps.named (z := z) (s := x) ?_ ?_; focus subst x) | skip)
    | with_reducible apply State.writePair_keeps | with_reducible apply State.writeQueCfg_keeps | with_reducible apply State.writeQueHead_keeps
    | with_reducible apply State.writeReg_keeps | lift_lets | split | with_reducible refine Keeps.of_fst (by assumption) ?_
    | with_reducible refine Keeps.of_snd (by assumption) ?_

theorem State.writeGatebuf_keeps {z : State} (s : State) (who : ℕ) (v : Word) (lease : Bool) (h : Keeps z s) :
    Keeps z (State.writeGatebuf s who v lease) := by
  unfold State.writeGatebuf
  repeat' first
    | with_reducible assumption | (intro x; first | (refine Keeps.named (z := z) (s := x) ?_ ?_; focus subst x) | skip)
    | with_reducible apply State.writePair_keeps | with_reducible apply State.bump_keeps | with_reducible apply State.dropLo_keeps | lift_lets
    | split

theorem State.writeSeqLch_keeps {z : State} (s : State) (who : ℕ) (a : ℕ) (v : Word) (lease : Bool) (h : Keeps z s) :
    Keeps z (State.writeSeqLch s who a v lease) := by
  unfold State.writeSeqLch
  repeat' first
    | with_reducible assumption | (intro x; first | (refine Keeps.named (z := z) (s := x) ?_ ?_; focus subst x) | skip)
    | with_reducible apply State.writeGatebuf_keeps | with_reducible apply State.writePlan_keeps | with_reducible apply State.writeRange_keeps
    | with_reducible apply State.writeLaser_keeps | with_reducible apply State.writeTdcOwner_keeps
    | with_reducible apply State.writeOpenstat_keeps | with_reducible apply State.writeSent_keeps | with_reducible apply State.writeEntry_keeps
    | with_reducible apply State.writeReg_keeps | lift_lets | split | with_reducible refine Keeps.of_fst (by assumption) ?_
    | with_reducible refine Keeps.of_snd (by assumption) ?_

theorem State.writeChan_keeps {z : State} (s : State) (a : ℕ) (v : Word) (lease : Bool) (h : Keeps z s) : Keeps z (State.writeChan s a v lease) := by
  unfold State.writeChan
  repeat' first
    | with_reducible assumption | intro _ | with_reducible apply State.writeRcvCtl_keeps | with_reducible apply State.writeLosb_keeps
    | with_reducible apply State.writePcctl_keeps | with_reducible apply State.writeSwap_keeps | with_reducible apply State.writeCsData_keeps
    | with_reducible apply State.writeRaw_keeps | with_reducible apply State.writeRawlen_keeps | with_reducible apply State.writeGauge_keeps
    | with_reducible apply State.writeGidx_keeps | with_reducible apply State.writeXi_keeps | with_reducible apply State.dtsAlign_keeps
    | with_reducible apply State.writeDtsCtl_keeps | with_reducible apply State.writeReg_keeps | with_reducible apply State.writeDtsWin_keeps
    | with_reducible apply State.writeVecCtl_keeps | with_reducible apply Keeps.ite | split

theorem State.writeEvt_keeps {z : State} (s : State) (who : ℕ) (a : ℕ) (v : Word) (lease : Bool) (h : Keeps z s) :
    Keeps z (State.writeEvt s who a v lease) := by
  unfold State.writeEvt
  repeat' first
    | with_reducible assumption | intro _ | with_reducible apply State.writeStrCtl_keeps | with_reducible apply State.writeStrTap_keeps
    | with_reducible apply State.writeStrCsaddr_keeps | with_reducible apply State.writeMapData_keeps
    | with_reducible apply State.writeMapCommit_keeps | with_reducible apply State.writeFelCtl_keeps
    | with_reducible apply State.writeLinken_keeps | with_reducible apply State.writeFcmd_keeps | with_reducible apply State.writeSccmd_keeps
    | with_reducible apply State.writeTdcOwner_keeps | with_reducible apply State.writeTrgCtl_keeps
    | with_reducible apply State.writeTrgArm_keeps | with_reducible apply State.writeOutclr_keeps
    | with_reducible apply State.writeTrgSize_keeps | with_reducible apply State.writeTimCtl_keeps | with_reducible apply State.writeAsy_keeps
    | with_reducible apply State.writeNextsec_keeps | with_reducible apply State.writeTdcCfg_keeps | with_reducible apply State.writePair_keeps
    | with_reducible apply State.writeEvb_keeps | with_reducible apply State.writeReg_keeps | with_reducible apply Keeps.ite | split
    | with_reducible refine Keeps.of_fst (by assumption) ?_ | with_reducible refine Keeps.of_snd (by assumption) ?_

theorem State.writeSys_keeps {z : State} (s : State) (who : ℕ) (a : ℕ) (v : Word) (lease : Bool) (h : Keeps z s) :
    Keeps z (State.writeSys s who a v lease) := by
  unfold State.writeSys
  repeat' first
    | with_reducible assumption | with_reducible apply State.fabEnables_keeps | with_reducible apply State.writeReg_keeps
    | with_reducible apply State.idFixed_keeps | with_reducible apply State.writePortCfg_keeps | with_reducible apply State.writePtpCfg_keeps
    | with_reducible apply State.writeFwd_keeps | with_reducible apply State.writeTrnCtl_keeps | with_reducible apply State.writeCmpCfg_keeps
    | with_reducible apply State.writeCommit_keeps | with_reducible apply State.writeMslot_keeps | split

theorem State.writeSlow_keeps {z : State} (s : State) (a : ℕ) (v : Word) (lease : Bool) (h : Keeps z s) : Keeps z (State.writeSlow s a v lease) := by
  unfold State.writeSlow
  repeat' first
    | with_reducible assumption | (intro x; first | (refine Keeps.named (z := z) (s := x) ?_ ?_; focus subst x) | skip)
    | with_reducible apply State.writeHkcCtl_keeps | with_reducible apply State.writeSeqctl_keeps | with_reducible apply State.writeHkcCfg_keeps
    | with_reducible apply State.writeExc_keeps | with_reducible apply State.writeCaloff_keeps | with_reducible apply State.writeCalgain_keeps
    | with_reducible apply State.writeReg_keeps | with_reducible apply State.writeFlsArm_keeps | with_reducible apply State.writeFlsCtl_keeps
    | with_reducible apply State.writeFlsFlv_keeps | with_reducible apply State.writeFlsCfg_keeps | with_reducible apply State.writeFltCtl_keeps
    | with_reducible apply State.mboxWrite_keeps | with_reducible apply State.dbgLock_keeps | with_reducible apply Keeps.cond | lift_lets
    | split | with_reducible refine Keeps.of_fst (by assumption) ?_ | with_reducible refine Keeps.of_snd (by assumption) ?_

theorem State.writeHit_keeps {z : State} (s : State) (who : ℕ) (a : ℕ) (v : Word) (lease : Bool) (hi : Bool) (h : Keeps z s) :
    Keeps z (State.writeHit s who a v lease hi) := by
  unfold State.writeHit
  repeat' first
    | with_reducible assumption | intro _ | with_reducible apply State.writeWakeat_keeps | with_reducible apply State.writeSnapat_keeps
    | with_reducible apply State.writeQue_keeps | with_reducible apply State.writeSeqLch_keeps | with_reducible apply State.writeEvt_keeps
    | with_reducible apply State.writeSys_keeps | with_reducible apply State.writeEvbHi_keeps | with_reducible apply State.writePair_keeps
    | with_reducible apply State.writeChan_keeps | with_reducible apply State.writeSlow_keeps | with_reducible apply Keeps.ite | split

theorem State.writeCsr_keeps {z : State} (s : State) (who : ℕ) (lease : Bool) (a : ℕ) (v : Word) (h : Keeps z s) :
    Keeps z (State.writeCsr s who lease a v) := by
  unfold State.writeCsr
  repeat' first
    | with_reducible assumption | with_reducible apply State.setB_keeps | with_reducible apply State.holdLo_keeps
    | with_reducible apply State.writeHit_keeps | split | with_reducible refine Keeps.of_fst (by assumption) ?_
    | with_reducible refine Keeps.of_snd (by assumption) ?_

theorem State.csrFlush_keeps {z : State} (s : State) (h : Keeps z s) : Keeps z (State.csrFlush s) := by
  unfold State.csrFlush
  repeat' first
    | with_reducible assumption
    | (intro x; first | (refine Keeps.named (z := z) (s := x) ?_ ?_; focus subst x) | (refine Keeps.named (z := z) (s := x.1) ?_ ?_; focus subst x) | (refine Keeps.named (z := z) (s := x.2) ?_ ?_; focus subst x) | skip)
    | with_reducible apply State.writeCsr_keeps | with_reducible apply Keeps.foldl | with_reducible apply Keeps.foldl_fst
    | with_reducible apply Keeps.foldl_snd | with_reducible refine Keeps.lit ?_ rfl rfl

end Sys2Proof.Machine
end

