-- ==== Sys2Proof/Laws/Kept/Prof.lean ====
section
/-! SUPPORT. What every function of Machine/Prof.lean keeps (Laws/Keep.lean). -/

set_option linter.unusedTactic false
set_option linter.unreachableTactic false

namespace Sys2Proof.Machine

theorem State.csrread_keeps {z : State} (s : State) (a : ℕ) (h : Keeps z s) : Keeps z (State.csrread s a).1 := by
  unfold State.csrread
  repeat' first
    | with_reducible assumption
    | (intro x; first | (refine Keeps.named (z := z) (s := x) ?_ ?_; focus subst x) | (refine Keeps.named (z := z) (s := x.1) ?_ ?_; focus subst x) | (refine Keeps.named (z := z) (s := x.2) ?_ ?_; focus subst x) | skip)
    | with_reducible apply State.readCsr_keeps | lift_lets | split

theorem State.csrwrite_keeps {z : State} (s : State) (a : ℕ) (v : ℕ) (h : Keeps z s) : Keeps z (State.csrwrite s a v).1 := by
  unfold State.csrwrite
  repeat' first
    | with_reducible assumption | with_reducible apply State.writeCsr_keeps | split

theorem State.writePairs_keeps {z : State} (s : State) (ps : List (ℕ × ℕ)) (h : Keeps z s) : Keeps z (State.writePairs s ps) := by
  unfold State.writePairs
  repeat' first
    | with_reducible assumption
    | (intro x; first | (refine Keeps.named (z := z) (s := x) ?_ ?_; focus subst x) | (refine Keeps.named (z := z) (s := x.1) ?_ ?_; focus subst x) | (refine Keeps.named (z := z) (s := x.2) ?_ ?_; focus subst x) | skip)
    | with_reducible apply State.writeCsr_keeps | with_reducible apply Keeps.foldl | with_reducible apply Keeps.foldl_fst
    | with_reducible apply Keeps.foldl_snd

theorem State.setcfg_keeps {z : State} (s : State) (ps : List (ℕ × ℕ)) (odd : Bool) (h : Keeps z s) : Keeps z (State.setcfg s ps odd).1 := by
  unfold State.setcfg
  repeat' first
    | with_reducible assumption | exact fun _ => SecKeeps.same rfl rfl rfl rfl rfl rfl
    | (intro x; first | (refine Keeps.named (z := z) (s := x) ?_ ?_; focus subst x) | (refine Keeps.named (z := z) (s := x.1) ?_ ?_; focus subst x) | (refine Keeps.named (z := z) (s := x.2) ?_ ?_; focus subst x) | skip)
    | with_reducible apply State.secUpd_keeps | with_reducible apply State.writePairs_keeps | with_reducible apply State.csrFlush_keeps
    | with_reducible apply State.instarTo_keeps | with_reducible apply State.setCsr_keeps | split | lift_lets
    | with_reducible refine Keeps.lit ?_ rfl rfl

theorem State.applyPairs_keeps {z : State} (s : State) (ps : List (ℕ × Word)) (h : Keeps z s) : Keeps z (State.applyPairs s ps) := by
  unfold State.applyPairs
  repeat' first
    | with_reducible assumption
    | (intro x; first | (refine Keeps.named (z := z) (s := x) ?_ ?_; focus subst x) | (refine Keeps.named (z := z) (s := x.1) ?_ ?_; focus subst x) | (refine Keeps.named (z := z) (s := x.2) ?_ ?_; focus subst x) | skip)
    | with_reducible apply State.inc_keeps | with_reducible apply State.writeCsr_keeps | with_reducible apply Keeps.foldl
    | with_reducible apply Keeps.foldl_fst | with_reducible apply Keeps.foldl_snd | split

theorem State.loadProfile_keeps {z : State} (s : State) (n : ℕ) (instar : ℕ) (h : Keeps z s) : Keeps z (State.loadProfile s n instar).1 := by
  unfold State.loadProfile
  repeat' first
    | with_reducible assumption | exact fun _ => SecKeeps.same rfl rfl rfl rfl rfl rfl
    | (intro x; first | (refine Keeps.named (z := z) (s := x) ?_ ?_; focus subst x) | (refine Keeps.named (z := z) (s := x.1) ?_ ?_; focus subst x) | (refine Keeps.named (z := z) (s := x.2) ?_ ?_; focus subst x) | skip)
    | with_reducible apply State.writeCsr_keeps | with_reducible apply State.applyPairs_keeps | with_reducible apply State.secUpd_keeps
    | with_reducible apply State.instarTo_keeps | split | lift_lets | with_reducible refine Keeps.lit ?_ rfl rfl

theorem State.profBad_keeps {z : State} (s : State) (h : Keeps z s) : Keeps z (State.profBad s) := by
  unfold State.profBad
  repeat' first
    | with_reducible assumption | exact fun _ => SecKeeps.same rfl rfl rfl rfl rfl rfl
    | (intro x; first | (refine Keeps.named (z := z) (s := x) ?_ ?_; focus subst x) | skip) | with_reducible apply State.alarm_keeps
    | with_reducible apply State.secUpd_keeps | with_reducible refine Keeps.lit ?_ rfl rfl

theorem State.selprof_keeps {z : State} (s : State) (n : ℕ) (h : Keeps z s) : Keeps z (State.selprof s n).1 := by
  unfold State.selprof
  repeat' first
    | with_reducible assumption
    | (intro x; first | (refine Keeps.named (z := z) (s := x) ?_ ?_; focus subst x) | (refine Keeps.named (z := z) (s := x.1) ?_ ?_; focus subst x) | (refine Keeps.named (z := z) (s := x.2) ?_ ?_; focus subst x) | skip)
    | with_reducible apply State.profBad_keeps | with_reducible apply State.loadProfile_keeps | with_reducible apply Keeps.cond | lift_lets
    | split | with_reducible refine Keeps.lit ?_ rfl rfl

theorem State.saveprof_keeps {z : State} (s : State) (tag : ℕ) (n : ℕ) (mask : ℕ) (h : Keeps z s) : Keeps z (State.saveprof s tag n mask).1 := by
  unfold State.saveprof
  repeat' first
    | with_reducible assumption | exact fun _ => SecKeeps.same rfl rfl rfl rfl rfl rfl
    | (intro x; first | (refine Keeps.named (z := z) (s := x) ?_ ?_; focus subst x) | skip) | with_reducible apply State.secUpd_keeps | split
    | lift_lets | with_reducible refine Keeps.lit ?_ rfl rfl

end Sys2Proof.Machine
end

