-- ==== Sys2Proof/Laws/Kept/Start.lean ====
section
/-! SUPPORT. What every function of Machine/Start.lean keeps (Laws/Keep.lean). -/

set_option linter.unusedTactic false
set_option linter.unreachableTactic false

namespace Sys2Proof.Machine

theorem State.coreLoad_keeps {z : State} (s : State) (i : Nat) (h : Keeps z s) : Keeps z (s.coreLoad i) := by
  unfold State.coreLoad
  extract_lets m pc core0 ckpt core sec0 s1
  have h1 : Keeps z s1 := h.trans ⟨fun w => ⟨w.mem, (State.slot_wf w i).1, (State.slot_wf w i).2,
    ⟨w.img.slots, State.slot_wf w i, w.img.loading⟩⟩, id, ⟨Nat.le_refl _, Nat.le_refl _, id, id, id⟩⟩
  exact State.setCsr_keeps _ _ _ (State.setPair_keeps _ _ _ (State.setCsr_keeps _ _ _ (State.setCsr_keeps _ _ _ (State.setCsr_keeps _ _ _ h1))))

theorem State.answerAll_keeps {z : State} (s : State) (h : Keeps z s) : Keeps z (State.answerAll s) := by
  unfold State.answerAll
  repeat' first
    | with_reducible assumption | (intro x; first | (refine Keeps.named (z := z) (s := x) ?_ ?_; focus subst x) | skip)
    | with_reducible apply State.gateAnswer_keeps | with_reducible apply Keeps.foldl | lift_lets | with_reducible refine Keeps.lit ?_ rfl rfl

theorem State.handover_keeps {z : State} (s : State) (slot : ℕ) (h : Keeps z s) : Keeps z (State.handover s slot) := by
  unfold State.handover
  repeat' first
    | with_reducible assumption
    | (intro x; first | (refine Keeps.named (z := z) (s := x) ?_ ?_; focus subst x) | (refine Keeps.named (z := z) (s := x.1) ?_ ?_; focus subst x) | (refine Keeps.named (z := z) (s := x.2) ?_ ?_; focus subst x) | skip)
    | with_reducible apply State.csrFlush_keeps | with_reducible apply State.bump_keeps | with_reducible apply State.commitStore_keeps
    | with_reducible apply State.answerAll_keeps | with_reducible apply State.coreLoad_keeps | with_reducible apply State.fltFlags_keeps
    | with_reducible apply Keeps.foldl | with_reducible apply Keeps.foldl_fst | with_reducible apply Keeps.foldl_snd | lift_lets
    | with_reducible refine Keeps.litSec ?_ rfl rfl (SecKeeps.same rfl rfl rfl rfl rfl rfl)

theorem State.moultEnd_keeps {z : State} (s : State) (h : Keeps z s) : Keeps z (State.moultEnd s) := by
  unfold State.moultEnd
  repeat' first
    | with_reducible assumption | (intro x; first | (refine Keeps.named (z := z) (s := x) ?_ ?_; focus subst x) | skip)
    | with_reducible apply State.log_keeps | with_reducible apply State.setB_keeps | lift_lets
    | with_reducible refine Keeps.litSec ?_ rfl rfl (SecKeeps.same rfl rfl rfl rfl rfl rfl)

theorem State.keyLoad_keeps {z : State} (s : State) (slot : ℕ) (h : Keeps z s) : Keeps z (State.keyLoad s slot) := by
  unfold State.keyLoad
  repeat' first
    | with_reducible assumption
    | (intro x; first | (refine Keeps.named (z := z) (s := x) ?_ ?_; focus subst x) | (refine Keeps.named (z := z) (s := x.1) ?_ ?_; focus subst x) | (refine Keeps.named (z := z) (s := x.2) ?_ ?_; focus subst x) | skip)
    | with_reducible apply State.setF_keeps | lift_lets | split | with_reducible refine Keeps.lit ?_ rfl rfl

theorem State.unwrapKeys_keeps {z : State} (s : State) (bad : ℕ) (h : Keeps z s) : Keeps z (State.unwrapKeys s bad) := by
  unfold State.unwrapKeys
  repeat' first
    | with_reducible assumption | exact fun _ => SecKeeps.same rfl rfl rfl rfl rfl rfl
    | (intro x; first | (refine Keeps.named (z := z) (s := x) ?_ ?_; focus subst x) | skip) | with_reducible apply State.alarm_keeps
    | with_reducible apply State.setKey_keeps | with_reducible apply State.keyLoad_keeps | with_reducible apply State.secUpd_keeps
    | with_reducible apply Keeps.foldl | lift_lets | split | with_reducible refine Keeps.lit ?_ rfl rfl

theorem State.bootProfile_keeps {z : State} (s : State) (torn : Bool) (h : Keeps z s) : Keeps z (State.bootProfile s torn) := by
  unfold State.bootProfile
  repeat' first
    | with_reducible assumption | exact fun _ => SecKeeps.same rfl rfl rfl rfl rfl rfl
    | (intro x; first | (refine Keeps.named (z := z) (s := x) ?_ ?_; focus subst x) | (refine Keeps.named (z := z) (s := x.1) ?_ ?_; focus subst x) | (refine Keeps.named (z := z) (s := x.2) ?_ ?_; focus subst x) | skip)
    | with_reducible apply State.profBad_keeps | with_reducible apply State.loadProfile_keeps | with_reducible apply State.secUpd_keeps
    | with_reducible apply Keeps.cond | split | lift_lets | with_reducible refine Keeps.lit ?_ rfl rfl

theorem State.mramBad_keeps {z : State} (s : State) (bad : Nat) (h : Keeps z s) : Keeps z (s.mramBad bad) := by
  unfold State.mramBad
  extract_lets sl pr
  refine State.secUpd_at _ _ h ⟨fun w => ⟨fun i hi => ?_, w.running, w.loading⟩, Nat.le_refl _, Nat.le_refl _, id, id, id⟩
  show (sl[i]).wf
  rw [Vector.getElem_mapIdx]
  exact w.slots i hi

theorem State.startProfile_keeps {z : State} (s : State) (bad : ℕ) (h : Keeps z s) : Keeps z (State.startProfile s bad) := by
  unfold State.startProfile
  repeat' first
    | with_reducible assumption | exact fun _ => SecKeeps.same rfl rfl rfl rfl rfl rfl
    | (intro x; first | (refine Keeps.named (z := z) (s := x) ?_ ?_; focus subst x) | skip) | with_reducible apply State.pwrUpd_keeps
    | with_reducible apply State.mramBad_keeps | with_reducible apply State.unwrapKeys_keeps | with_reducible apply State.setF_keeps
    | with_reducible apply State.enterHold_keeps | with_reducible apply State.secUpd_keeps | with_reducible apply State.coreLoad_keeps
    | with_reducible apply State.alarm_keeps | with_reducible apply State.fabRelease_keeps | with_reducible apply State.bootProfile_keeps
    | with_reducible apply Keeps.cond | split | lift_lets | with_reducible refine Keeps.of_fst (by assumption) ?_
    | with_reducible refine Keeps.of_snd (by assumption) ?_ | with_reducible refine Keeps.lit ?_ rfl rfl

theorem State.tdcCalibrate_keeps {z : State} (s : State) (u : ℕ) (lsb : ℕ) (dnl : ℕ) (h : Keeps z s) : Keeps z (State.tdcCalibrate s u lsb dnl) := by
  unfold State.tdcCalibrate
  repeat' first
    | with_reducible assumption | (intro x; first | (refine Keeps.named (z := z) (s := x) ?_ ?_; focus subst x) | skip)
    | with_reducible apply State.incF_keeps | with_reducible apply State.setF_keeps | with_reducible apply State.alarm_keeps | lift_lets | split
    | with_reducible refine Keeps.lit ?_ rfl rfl

theorem State.startDone_keeps {z : State} (s : State) (cal : List (ℕ × ℕ)) (phase : Word) (res : List TrnResult) (h : Keeps z s) :
    Keeps z (State.startDone s cal phase res) := by
  unfold State.startDone
  repeat' first
    | with_reducible assumption
    | (intro x; first | (refine Keeps.named (z := z) (s := x) ?_ ?_; focus subst x) | (refine Keeps.named (z := z) (s := x.1) ?_ ?_; focus subst x) | (refine Keeps.named (z := z) (s := x.2) ?_ ?_; focus subst x) | skip)
    | with_reducible apply State.enterHold_keeps | with_reducible apply State.chanResult_keeps | with_reducible apply State.tdcCalibrate_keeps
    | with_reducible apply State.setF_keeps | with_reducible apply Keeps.foldl | with_reducible apply Keeps.foldl_fst
    | with_reducible apply Keeps.foldl_snd | lift_lets | split | with_reducible refine Keeps.lit ?_ rfl rfl

theorem State.startFail_keeps {z : State} (s : State) (kind : ℕ) (h : Keeps z s) : Keeps z (State.startFail s kind) := by
  unfold State.startFail
  repeat' first
    | with_reducible assumption | exact fun _ => SecKeeps.same rfl rfl rfl rfl rfl rfl
    | (intro x; first | (refine Keeps.named (z := z) (s := x) ?_ ?_; focus subst x) | skip) | with_reducible apply State.enterHold_keeps
    | with_reducible apply State.setB_keeps | with_reducible apply State.secUpd_keeps | with_reducible apply State.setFore_keeps
    | with_reducible apply State.coreOut_keeps | split | with_reducible refine Keeps.of_fst (by assumption) ?_
    | with_reducible refine Keeps.of_snd (by assumption) ?_ | with_reducible refine Keeps.lit ?_ rfl rfl

theorem State.tdccal_keeps {z : State} (s : State) (tag : ℕ) (mask : ℕ) (h : Keeps z s) : Keeps z (State.tdccal s tag mask).1 := by
  unfold State.tdccal
  repeat' first
    | with_reducible assumption | (intro x; first | (refine Keeps.named (z := z) (s := x) ?_ ?_; focus subst x) | skip)
    | with_reducible apply State.setF_keeps | with_reducible apply Keeps.foldl | lift_lets | split | with_reducible refine Keeps.lit ?_ rfl rfl

theorem State.tdcCalDone_keeps {z : State} (s : State) (u : ℕ) (lsb : ℕ) (dnl : ℕ) (h : Keeps z s) : Keeps z (State.tdcCalDone s u lsb dnl) := by
  unfold State.tdcCalDone
  repeat' first
    | with_reducible assumption
    | (intro x; first | (refine Keeps.named (z := z) (s := x) ?_ ?_; focus subst x) | (refine Keeps.named (z := z) (s := x.1) ?_ ?_; focus subst x) | (refine Keeps.named (z := z) (s := x.2) ?_ ?_; focus subst x) | skip)
    | with_reducible apply State.setB_keeps | with_reducible apply State.tdcCalibrate_keeps | with_reducible apply State.lateAnswer_keeps
    | split | lift_lets | with_reducible refine Keeps.of_fst (by assumption) ?_ | with_reducible refine Keeps.of_snd (by assumption) ?_
    | with_reducible refine Keeps.lit ?_ rfl rfl

theorem State.slotDone_keeps {z : State} (s : State) (sigOk hashOk : Bool) (h : Keeps z s) : Keeps z (s.slotDone sigOk hashOk) := by
  unfold State.slotDone
  split
  · exact h
  · rename_i t m tag hl
    extract_lets ok st s1
    refine State.lateAnswer_keeps _ _ _ _ _ (State.secUpd_keeps _ _ (State.putSlot_keeps _ _ _ h fun _ w _ => ?_) fun x => ?_)
    · exact w.img.loading _ hl
    · exact ⟨fun w => ⟨w.slots, w.running, fun _ e => nomatch e⟩, Nat.le_refl _, Nat.le_refl _, id, id, id⟩

theorem State.profDone_keeps {z : State} (s : State) (h : Keeps z s) : Keeps z (State.profDone s) := by
  unfold State.profDone
  repeat' first
    | with_reducible assumption | exact fun _ => SecKeeps.same rfl rfl rfl rfl rfl rfl
    | (intro x; first | (refine Keeps.named (z := z) (s := x) ?_ ?_; focus subst x) | skip) | with_reducible apply State.lateAnswer_keeps
    | with_reducible apply State.secUpd_keeps | split | with_reducible refine Keeps.of_fst (by assumption) ?_
    | with_reducible refine Keeps.of_snd (by assumption) ?_ | with_reducible refine Keeps.lit ?_ rfl rfl

end Sys2Proof.Machine
end

