-- ==== Sys2Proof/Laws/Kept/Gate.lean ====
section
/-! SUPPORT. What every function of Machine/Gate.lean keeps (Laws/Keep.lean). -/

set_option linter.unusedTactic false
set_option linter.unreachableTactic false

namespace Sys2Proof.Machine

theorem State.gateFail_keeps {z : State} (s : State) (code : ℕ) (tag : ℕ) (status : ℕ) (h : Keeps z s) :
    Keeps z (State.gateFail s code tag status) := by
  unfold State.gateFail
  repeat' first
    | with_reducible assumption | (intro x; first | (refine Keeps.named (z := z) (s := x) ?_ ?_; focus subst x) | skip)
    | with_reducible apply State.gateAnswer_keeps | with_reducible apply State.rejectLog_keeps | with_reducible apply Keeps.cond

theorem State.gateServe_keeps {z s t : State} {code tag : Nat} (h : Keeps z s) (e : s.gateServe code tag = some t) : Keeps z t := by
  unfold State.gateServe at e
  split at e
  · exact Option.some.inj e ▸ State.gateAnswer_keeps _ _ _ h
  · exact Option.some.inj e ▸ State.gatePost_keeps _ _ (State.gateBlock_keeps _ _ h)
  · exact Option.some.inj e ▸ State.resetSoon_keeps _ (State.gateAnswer_keeps _ _ _ h)
  · cases e

theorem State.gateHand_keeps {z : State} (s : State) (c : OutCmd) (h : Keeps z s) : Keeps z (State.gateHand s c) := by
  unfold State.gateHand
  repeat' first
    | with_reducible assumption | with_reducible refine Keeps.lit ?_ rfl rfl

theorem State.gateEntry_keeps {z : State} (s : State) (e : Entry) (h : Keeps z s) : Keeps z (s.gateEntry e).1 := by
  unfold State.gateEntry
  split
  · exact State.gateAnswer_keeps _ _ _ h
  · extract_lets st c
    split
    · exact State.gateFail_keeps _ _ _ _ h
    · split
      · exact State.gateServe_keeps h ‹_›
      · split
        · exact State.gateHand_keeps _ _ h
        · split
          · exact State.gateHand_keeps _ _ h
          · exact State.windowOpen_keeps _ _ _ _ h

theorem State.cmdCount_keeps {z : State} (s : State) (h : Keeps z s) : Keeps z (State.cmdCount s) := by
  unfold State.cmdCount
  repeat' first
    | with_reducible assumption | with_reducible apply State.bump_keeps | with_reducible apply State.incMod_keeps

theorem State.takeHead_keeps {z : State} (s : State) (n : ℕ) (h : Keeps z s) : Keeps z (State.takeHead s n).2 := by
  unfold State.takeHead
  repeat' first
    | with_reducible assumption | with_reducible apply State.dequeue_keeps

theorem State.gateNext_keeps {z s : State} {r : Entry × State} (h : Keeps z s) (e : s.gateNext = some r) : Keeps z r.2 := by
  unfold State.gateNext at e
  split at e
  · exact Keeps.some_mk e (State.cmdCount_keeps _ (Keeps.lit h rfl rfl))
  · split at e
    · exact Keeps.some_mk e (State.cmdCount_keeps _ (State.takeHead_keeps _ _ h))
    · cases e

theorem State.gateLoop_keeps {z : State} (s : State) (a1 : ℕ) (h : Keeps z s) : Keeps z (State.gateLoop s a1).1 := by
  induction a1 generalizing s with
  | zero => exact h
  | succ a1 ih =>
    unfold State.gateLoop
    repeat' first
      | with_reducible assumption | with_reducible apply ih | with_reducible refine State.gateNext_keeps ?_ (by assumption)
      | with_reducible refine Keeps.of_some (by assumption) (fun _ e => State.gateNext_keeps ?_ e) | with_reducible apply State.gateEntry_keeps
      | split | with_reducible refine Keeps.of_fst (by assumption) ?_ | with_reducible refine Keeps.of_snd (by assumption) ?_

theorem State.gateTake_keeps {z : State} (s : State) (h : Keeps z s) : Keeps z (State.gateTake s).1 := by
  unfold State.gateTake
  repeat' first
    | with_reducible assumption | with_reducible apply State.gateHand_keeps | with_reducible apply State.gateLoop_keeps | split
    | with_reducible refine Keeps.of_fst (by assumption) ?_ | with_reducible refine Keeps.of_snd (by assumption) ?_
    | with_reducible refine Keeps.litSec ?_ rfl rfl (SecKeeps.same rfl rfl rfl rfl rfl rfl)

theorem State.gateOwn_keeps {z : State} (s : State) (h : Keeps z s) : Keeps z (State.gateOwn s) := by
  unfold State.gateOwn
  repeat' first
    | with_reducible assumption
    | (intro x; first | (refine Keeps.named (z := z) (s := x) ?_ ?_; focus subst x) | (refine Keeps.named (z := z) (s := x.1) ?_ ?_; focus subst x) | (refine Keeps.named (z := z) (s := x.2) ?_ ?_; focus subst x) | skip)
    | with_reducible refine State.gateNext_keeps ?_ (by assumption)
    | with_reducible refine Keeps.of_some (by assumption) (fun _ e => State.gateNext_keeps ?_ e) | with_reducible apply State.gateEntry_keeps
    | lift_lets | split | with_reducible refine Keeps.of_fst (by assumption) ?_ | with_reducible refine Keeps.of_snd (by assumption) ?_

theorem State.gateIdle_keeps {z : State} (s : State) (h : Keeps z s) : Keeps z (State.gateIdle s) := by
  unfold State.gateIdle
  repeat' first
    | with_reducible assumption | (intro x; first | (refine Keeps.named (z := z) (s := x) ?_ ?_; focus subst x) | skip) | lift_lets
    | with_reducible refine Keeps.lit ?_ rfl rfl

theorem State.gateArm_keeps {z : State} (s : State) (args : List ℕ) (h : Keeps z s) : Keeps z (State.gateArm s args) := by
  unfold State.gateArm
  repeat' first
    | with_reducible assumption | (intro x; first | (refine Keeps.named (z := z) (s := x) ?_ ?_; focus subst x) | skip) | lift_lets | split
    | with_reducible refine Keeps.lit ?_ rfl rfl

theorem State.gateStop_keeps {z : State} (s : State) (h : Keeps z s) : Keeps z (State.gateStop s) := by
  unfold State.gateStop
  repeat' first
    | with_reducible assumption | (intro x; first | (refine Keeps.named (z := z) (s := x) ?_ ?_; focus subst x) | skip)
    | with_reducible apply State.trgStop_keeps | with_reducible apply State.gateIdle_keeps | lift_lets | split
    | with_reducible refine Keeps.of_fst (by assumption) ?_ | with_reducible refine Keeps.of_snd (by assumption) ?_
    | with_reducible refine Keeps.lit ?_ rfl rfl

theorem State.gateDo_keeps {z : State} (s : State) (c : OutCmd) (h : Keeps z s) : Keeps z (State.gateDo s c) := by
  unfold State.gateDo
  repeat' first
    | with_reducible assumption | with_reducible apply State.gateArm_keeps | with_reducible apply State.gateIdle_keeps
    | with_reducible apply State.gateStop_keeps | with_reducible apply State.moultBegin_keeps | with_reducible apply State.cocoonBegin_keeps
    | with_reducible apply State.lcApply_keeps | split | with_reducible refine Keeps.of_fst (by assumption) ?_
    | with_reducible refine Keeps.of_snd (by assumption) ?_ | with_reducible refine Keeps.lit ?_ rfl rfl

theorem State.gateSees_keeps {z : State} (s : State) (tag : ℕ) (status : ℕ) (h : Keeps z s) : Keeps z (State.gateSees s tag status) := by
  unfold State.gateSees
  repeat' first
    | with_reducible assumption | (intro x; first | (refine Keeps.named (z := z) (s := x) ?_ ?_; focus subst x) | skip)
    | with_reducible apply State.gateDo_keeps | with_reducible apply State.gateDone_keeps | split
    | with_reducible refine Keeps.of_fst (by assumption) ?_ | with_reducible refine Keeps.of_snd (by assumption) ?_

theorem State.armStart_keeps {z : State} (s : State) (h : Keeps z s) : Keeps z (State.armStart s) := by
  unfold State.armStart
  repeat' first
    | with_reducible assumption | split | with_reducible refine Keeps.of_fst (by assumption) ?_
    | with_reducible refine Keeps.of_snd (by assumption) ?_ | with_reducible refine Keeps.lit ?_ rfl rfl

theorem State.armEnd_keeps {z : State} (s : State) (h : Keeps z s) : Keeps z (State.armEnd s) := by
  unfold State.armEnd
  repeat' first
    | with_reducible assumption | (intro x; first | (refine Keeps.named (z := z) (s := x) ?_ ?_; focus subst x) | skip) | lift_lets | split
    | with_reducible refine Keeps.of_fst (by assumption) ?_ | with_reducible refine Keeps.of_snd (by assumption) ?_
    | with_reducible refine Keeps.lit ?_ rfl rfl

theorem State.stopInsert_keeps {z : State} (s : State) (h : Keeps z s) : Keeps z (State.stopInsert s) := by
  unfold State.stopInsert
  repeat' first
    | with_reducible assumption | (intro x; first | (refine Keeps.named (z := z) (s := x) ?_ ?_; focus subst x) | skip)
    | with_reducible apply State.putWords_keeps | with_reducible apply State.enqueue_keeps | lift_lets | split
    | with_reducible refine Keeps.lit ?_ rfl rfl

end Sys2Proof.Machine
end

