-- ==== Sys2Proof/Laws/Kept/HostCmd.lean ====
section
/-! SUPPORT. What every function of Machine/HostCmd.lean keeps (Laws/Keep.lean). -/

set_option linter.unusedTactic false
set_option linter.unreachableTactic false

namespace Sys2Proof.Machine

theorem State.hostCmd_keeps {z : State} (s : State) (code tag : Nat) (args : List Nat) (serve : State → State) (h : Keeps z s)
    (hserve : ∀ t, Keeps z t → Keeps z (serve t)) : Keeps z (s.hostCmd code tag args serve) := by
  unfold State.hostCmd
  extract_lets s1 st
  have h1 : Keeps z s1 := State.cmdCount_keeps _ h
  split
  · exact State.mboxWrite_keeps _ _ h
  · split
    · exact h
    · split
      · exact State.gateFail_keeps _ _ _ _ h1
      · split
        · exact State.gateServe_keeps h1 ‹_›
        · split
          · exact h
          · exact hserve _ (State.gateHand_keeps _ _ h1)

theorem State.hostAnswer_keeps {z : State} (s : State) (tag : ℕ) (code : ℕ) (status : ℕ) (res : List ℕ) (h : Keeps z s) :
    Keeps z (State.hostAnswer s tag code status res) := by
  unfold State.hostAnswer
  repeat' first
    | with_reducible assumption | (intro x; first | (refine Keeps.named (z := z) (s := x) ?_ ?_; focus subst x) | skip)
    | with_reducible apply State.progPost_keeps | with_reducible apply State.gateSees_keeps | lift_lets | split

theorem State.answerOr_keeps {z : State} (r : State × Option ℕ) (tag : ℕ) (code : ℕ) (hr : Keeps z r.1) : Keeps z (State.answerOr r tag code) := by
  unfold State.answerOr
  repeat' first
    | with_reducible assumption | with_reducible apply State.hostAnswer_keeps | split | with_reducible refine Keeps.of_fst (by assumption) ?_
    | with_reducible refine Keeps.of_snd (by assumption) ?_

theorem State.arm_keeps {z : State} (s : State) (tag : ℕ) (args : List ℕ) (h : Keeps z s) : Keeps z (State.arm s tag args) := by
  unfold State.arm
  repeat' first
    | with_reducible assumption | with_reducible apply State.hostAnswer_keeps | split

theorem State.loglevel_keeps {z : State} (s : State) (tag : ℕ) (level : ℕ) (h : Keeps z s) : Keeps z (State.loglevel s tag level) := by
  unfold State.loglevel
  repeat' first
    | with_reducible assumption | with_reducible apply State.hostAnswer_keeps | with_reducible apply State.setF_keeps

theorem State.moult_keeps {z : State} (s : State) (tag : ℕ) (slot : ℕ) (h : Keeps z s) : Keeps z (State.moult s tag slot) := by
  unfold State.moult
  repeat' first
    | with_reducible assumption | with_reducible apply State.hostAnswer_keeps

theorem State.dramtrain_keeps {z : State} (s : State) (tag : ℕ) (arg : ℕ) (h : Keeps z s) : Keeps z (State.dramtrain s tag arg) := by
  unfold State.dramtrain
  repeat' first
    | with_reducible assumption | (intro x; first | (refine Keeps.named (z := z) (s := x) ?_ ?_; focus subst x) | skip)
    | with_reducible apply State.hostAnswer_keeps | with_reducible apply State.trainStart_keeps | lift_lets | split

theorem State.dramrate_keeps {z : State} (s : State) (tag : ℕ) (arg : ℕ) (h : Keeps z s) : Keeps z (State.dramrate s tag arg) := by
  unfold State.dramrate
  repeat' first
    | with_reducible assumption | with_reducible apply State.hostAnswer_keeps | with_reducible apply State.rateRequest_keeps | split

theorem State.rolereq_keeps {z : State} (s : State) (tag : ℕ) (arg : ℕ) (h : Keeps z s) : Keeps z (State.rolereq s tag arg) := by
  unfold State.rolereq
  repeat' first
    | with_reducible assumption | (intro x; first | (refine Keeps.named (z := z) (s := x) ?_ ?_; focus subst x) | skip)
    | with_reducible apply State.hostAnswer_keeps | with_reducible apply State.roleRequest_keeps | lift_lets | split

theorem State.rolerel_keeps {z : State} (s : State) (tag : ℕ) (arg : ℕ) (h : Keeps z s) : Keeps z (State.rolerel s tag arg) := by
  unfold State.rolerel
  repeat' first
    | with_reducible assumption | (intro x; first | (refine Keeps.named (z := z) (s := x) ?_ ?_; focus subst x) | skip)
    | with_reducible apply State.hostAnswer_keeps | with_reducible apply State.roleRelease_keeps | lift_lets | split

theorem State.fibrecal_keeps {z : State} (s : State) (tag : ℕ) (args : List ℕ) (h : Keeps z s) : Keeps z (State.fibrecal s tag args) := by
  unfold State.fibrecal
  repeat' first
    | with_reducible assumption | (intro x; first | (refine Keeps.named (z := z) (s := x) ?_ ?_; focus subst x) | skip)
    | with_reducible apply State.hostAnswer_keeps | with_reducible apply State.movePortTo_keeps | with_reducible apply Keeps.cond | lift_lets
    | split | with_reducible refine Keeps.lit ?_ rfl rfl

theorem State.fibreEnd_keeps {z : State} (s : State) (h : Keeps z s) : Keeps z (State.fibreEnd s) := by
  unfold State.fibreEnd
  repeat' first
    | with_reducible assumption
    | (intro x; first | (refine Keeps.named (z := z) (s := x) ?_ ?_; focus subst x) | (refine Keeps.named (z := z) (s := x.1) ?_ ?_; focus subst x) | (refine Keeps.named (z := z) (s := x.2) ?_ ?_; focus subst x) | skip)
    | with_reducible apply State.setB_keeps | with_reducible apply State.hopTo_keeps | with_reducible apply State.movePort_keeps
    | with_reducible apply State.hostAnswer_keeps | with_reducible apply State.setCsr_keeps | with_reducible apply State.setF_keeps
    | with_reducible apply Keeps.cond | with_reducible apply Keeps.foldl | with_reducible apply Keeps.foldl_fst
    | with_reducible apply Keeps.foldl_snd | lift_lets | split | with_reducible refine Keeps.of_fst (by assumption) ?_
    | with_reducible refine Keeps.of_snd (by assumption) ?_ | with_reducible refine Keeps.lit ?_ rfl rfl

theorem State.present_keeps {z : State} (s : State) (c : OutCmd) (pre : Bool) (h : Keeps z s) : Keeps z (State.present s c pre) := by
  unfold State.present
  repeat' first
    | with_reducible assumption
    | (intro x; first | (refine Keeps.named (z := z) (s := x) ?_ ?_; focus subst x) | (refine Keeps.named (z := z) (s := x.1) ?_ ?_; focus subst x) | (refine Keeps.named (z := z) (s := x.2) ?_ ?_; focus subst x) | skip)
    | with_reducible apply State.hostAnswer_keeps | with_reducible apply State.keyrepl_keeps | with_reducible apply State.dbgunlock_keeps
    | with_reducible apply State.fabkey_keeps | lift_lets | split | with_reducible refine Keeps.of_fst (by assumption) ?_
    | with_reducible refine Keeps.of_snd (by assumption) ?_ | with_reducible refine Keeps.lit ?_ rfl rfl

theorem State.pressFor_keeps {z : State} (s : State) (c : OutCmd) (h : Keeps z s) : Keeps z (State.pressFor s c) := by
  unfold State.pressFor
  repeat' first
    | with_reducible assumption | with_reducible apply State.present_keeps | with_reducible apply State.hostAnswer_keeps
    | with_reducible apply State.windowOpen_keeps | split | with_reducible refine Keeps.lit ?_ rfl rfl

theorem State.windowEnd_keeps {z : State} (s : State) (w : PresWin) (mark : ℕ) (h : Keeps z s) : Keeps z (State.windowEnd s w mark) := by
  unfold State.windowEnd
  repeat' first
    | with_reducible assumption | exact fun _ => SecKeeps.same rfl rfl rfl rfl rfl rfl
    | (intro x; first | (refine Keeps.named (z := z) (s := x) ?_ ?_; focus subst x) | skip) | with_reducible apply State.secUpd_keeps
    | with_reducible apply State.present_keeps | with_reducible apply State.hostAnswer_keeps | split | lift_lets
    | with_reducible refine Keeps.lit ?_ rfl rfl

theorem State.presenceGiven_keeps {z : State} (s : State) (h : Keeps z s) : Keeps z (State.presenceGiven s) := by
  unfold State.presenceGiven
  repeat' first
    | with_reducible assumption | with_reducible apply State.windowEnd_keeps | split | with_reducible refine Keeps.of_fst (by assumption) ?_
    | with_reducible refine Keeps.of_snd (by assumption) ?_

theorem State.presenceTimeout_keeps {z : State} (s : State) (stuck : Bool) (h : Keeps z s) : Keeps z (State.presenceTimeout s stuck) := by
  unfold State.presenceTimeout
  repeat' first
    | with_reducible assumption | exact fun _ => SecKeeps.same rfl rfl rfl rfl rfl rfl
    | (intro x; first | (refine Keeps.named (z := z) (s := x) ?_ ?_; focus subst x) | skip) | with_reducible apply State.windowEnd_keeps
    | with_reducible apply State.secUpd_keeps | with_reducible apply Keeps.cond | split | with_reducible refine Keeps.of_fst (by assumption) ?_
    | with_reducible refine Keeps.of_snd (by assumption) ?_ | with_reducible refine Keeps.lit ?_ rfl rfl

end Sys2Proof.Machine
end

