-- ==== Sys2Proof/Laws/Kept/Shaham.lean ====
section
/-! SUPPORT. What every function of Machine/Shaham.lean keeps (Laws/Keep.lean). -/

set_option linter.unusedTactic false
set_option linter.unreachableTactic false

namespace Sys2Proof.Machine

theorem State.meet_keeps {z : State} {α : Type} (s : State) (f : JEntry → Option α) (live : State → State) (met : α → State → State)
    (h : Keeps z s) (hl : ∀ t, Keeps z t → Keeps z (live t)) (hm : ∀ a t, Keeps z t → Keeps z (met a t)) : Keeps z (s.meet f live met) := by
  unfold State.meet
  split
  · exact hm _ _ (State.jmeet_keeps h ‹_›)
  · exact hl _ (State.jdiverge_keeps _ h)

theorem State.meetI_keeps {z : State} {α : Type} (s : State) (f : JEntry → Option α) (live : State → IssueOut) (met : α → State → IssueOut)
    (h : Keeps z s) (hl : ∀ t, Keeps z t → KeepsI z (live t)) (hm : ∀ a t, Keeps z t → KeepsI z (met a t)) : KeepsI z (s.meet f live met) := by
  unfold State.meet
  split
  · exact hm _ _ (State.jmeet_keeps h ‹_›)
  · exact hl _ (State.jdiverge_keeps _ h)

theorem illegal_keeps {z : State} (w : ℕ) : KeepsI z (illegal w) := by
  unfold illegal
  repeat' first
    | with_reducible assumption | with_reducible apply KeepsI.done | with_reducible exact KeepsI.trap
    | with_reducible refine Keeps.of_done (by assumption) ?_

theorem State.opAlu_keeps {z : State} (s : State) (fn : ℕ) (d : Fin 16) (a : Fin 16) (b : Fin 16) (h : Keeps z s) :
    KeepsI z (State.opAlu s fn d a b) := by
  unfold State.opAlu
  repeat' first
    | with_reducible assumption | with_reducible apply KeepsI.done | with_reducible exact KeepsI.trap | with_reducible apply State.compute_keeps
    | with_reducible refine Keeps.of_done (by assumption) ?_

theorem State.opAddi_keeps {z : State} (s : State) (d : Fin 16) (a : Fin 16) (imm : BitVec 18) (h : Keeps z s) :
    KeepsI z (State.opAddi s d a imm) := by
  unfold State.opAddi
  repeat' first
    | with_reducible assumption | with_reducible apply KeepsI.done | with_reducible exact KeepsI.trap | with_reducible apply State.compute_keeps
    | with_reducible refine Keeps.of_done (by assumption) ?_

theorem State.opLogi_keeps {z : State} (s : State) (fn : ℕ) (d : Fin 16) (a : Fin 16) (imm : BitVec 18) (h : Keeps z s) :
    KeepsI z (State.opLogi s fn d a imm) := by
  unfold State.opLogi
  repeat' first
    | with_reducible assumption | with_reducible apply KeepsI.done | with_reducible exact KeepsI.trap
    | (intro x; first | (refine Keeps.named (z := z) (s := x) ?_ ?_; focus subst x) | skip) | with_reducible apply State.compute_keeps
    | lift_lets | with_reducible refine Keeps.of_done (by assumption) ?_

theorem State.opShi_keeps {z : State} (s : State) (fn : ℕ) (d : Fin 16) (a : Fin 16) (imm : BitVec 18) (h : Keeps z s) :
    KeepsI z (State.opShi s fn d a imm) := by
  unfold State.opShi
  repeat' first
    | with_reducible assumption | with_reducible apply KeepsI.done | with_reducible exact KeepsI.trap
    | (intro x; first | (refine Keeps.named (z := z) (s := x) ?_ ?_; focus subst x) | skip) | with_reducible apply illegal_keeps
    | with_reducible apply State.compute_keeps | lift_lets | split | with_reducible refine Keeps.of_done (by assumption) ?_

theorem State.opLui_keeps {z : State} (s : State) (d : Fin 16) (imm : BitVec 22) (h : Keeps z s) : KeepsI z (State.opLui s d imm) := by
  unfold State.opLui
  repeat' first
    | with_reducible assumption | with_reducible apply KeepsI.done | with_reducible exact KeepsI.trap | with_reducible apply State.compute_keeps
    | with_reducible refine Keeps.of_done (by assumption) ?_

theorem State.opMfs_keeps {z : State} (s : State) (d : Fin 16) (a : Fin 16) (imm : BitVec 18) (h : Keeps z s) : KeepsI z (State.opMfs s d a imm) := by
  unfold State.opMfs
  repeat' first
    | with_reducible assumption | with_reducible apply KeepsI.done | with_reducible exact KeepsI.trap
    | (intro x; first | (refine Keeps.named (z := z) (s := x) ?_ ?_; focus subst x) | skip) | with_reducible apply State.compute_keeps
    | with_reducible apply illegal_keeps | lift_lets | split | with_reducible refine Keeps.of_fst (by assumption) ?_
    | with_reducible refine Keeps.of_snd (by assumption) ?_ | with_reducible refine Keeps.of_done (by assumption) ?_

theorem State.opMts_keeps {z : State} (s : State) (d : Fin 16) (a : Fin 16) (imm : BitVec 18) (h : Keeps z s) : KeepsI z (State.opMts s d a imm) := by
  unfold State.opMts
  repeat' first
    | with_reducible assumption | with_reducible apply KeepsI.done | with_reducible exact KeepsI.trap | with_reducible apply State.advance_keeps
    | with_reducible apply State.setFlags_keeps | with_reducible apply illegal_keeps | split
    | with_reducible refine Keeps.of_done (by assumption) ?_

theorem State.opTadd_keeps {z : State} (s : State) (d : Fin 16) (a : Fin 16) (b : Fin 16) (h : Keeps z s) : KeepsI z (State.opTadd s d a b) := by
  unfold State.opTadd
  repeat' first
    | with_reducible assumption | with_reducible apply KeepsI.done | with_reducible exact KeepsI.trap | with_reducible apply State.compute_keeps
    | with_reducible refine Keeps.of_done (by assumption) ?_

theorem State.goTo_keeps {z : State} (s : State) (t : ℤ) (cycles : ℕ) (h : Keeps z s) : KeepsI z (State.goTo s t cycles) := by
  unfold State.goTo
  repeat' first
    | with_reducible assumption | with_reducible apply KeepsI.done | with_reducible exact KeepsI.trap
    | with_reducible apply State.retireTo_keeps | split | with_reducible refine Keeps.of_done (by assumption) ?_

theorem State.opBranch_keeps {z : State} (s : State) (k : ℕ) (a : Fin 16) (b : Fin 16) (off : BitVec 18) (h : Keeps z s) :
    KeepsI z (State.opBranch s k a b off) := by
  unfold State.opBranch
  repeat' first
    | with_reducible assumption | with_reducible apply KeepsI.done | with_reducible exact KeepsI.trap | with_reducible apply State.goTo_keeps
    | with_reducible apply State.advance_keeps | split | with_reducible refine Keeps.of_done (by assumption) ?_

theorem State.opJ_keeps {z : State} (s : State) (off : BitVec 26) (h : Keeps z s) : KeepsI z (State.opJ s off) := by
  unfold State.opJ
  repeat' first
    | with_reducible assumption | with_reducible apply KeepsI.done | with_reducible exact KeepsI.trap | with_reducible apply State.goTo_keeps
    | with_reducible refine Keeps.of_done (by assumption) ?_

theorem State.opJal_keeps {z : State} (s : State) (off : BitVec 26) (h : Keeps z s) : KeepsI z (State.opJal s off) := by
  unfold State.opJal
  repeat' first
    | with_reducible assumption | with_reducible apply KeepsI.done | with_reducible exact KeepsI.trap | with_reducible apply State.goTo_keeps
    | with_reducible apply State.setW_keeps | with_reducible refine Keeps.of_done (by assumption) ?_

theorem State.opJr_keeps {z : State} (s : State) (a : Fin 16) (h : Keeps z s) : KeepsI z (State.opJr s a) := by
  unfold State.opJr
  repeat' first
    | with_reducible assumption | with_reducible apply KeepsI.done | with_reducible exact KeepsI.trap | with_reducible apply State.goTo_keeps
    | split | with_reducible refine Keeps.of_done (by assumption) ?_

theorem State.opLdl_keeps {z : State} (s : State) (d : Fin 16) (a : Fin 16) (imm : BitVec 18) (h : Keeps z s) : KeepsI z (State.opLdl s d a imm) := by
  unfold State.opLdl
  repeat' first
    | with_reducible assumption | with_reducible apply KeepsI.done | with_reducible exact KeepsI.trap
    | (intro x; first | (refine Keeps.named (z := z) (s := x) ?_ ?_; focus subst x) | (refine Keeps.named (z := z) (s := x.1) ?_ ?_; focus subst x) | (refine Keeps.named (z := z) (s := x.2) ?_ ?_; focus subst x) | skip)
    | with_reducible apply State.compute_keeps | lift_lets | split | with_reducible refine Keeps.of_fst (by assumption) ?_
    | with_reducible refine Keeps.of_snd (by assumption) ?_ | with_reducible refine Keeps.of_done (by assumption) ?_
    | with_reducible refine Keeps.lit ?_ rfl rfl

theorem State.putLocal_keeps {z : State} (s : State) (x : Nat) (v : Nat) (h : Keeps z s) : Keeps z (s.putLocal x v) :=
  h.sameMem (fun w => ⟨w.mem, w.pmem, Memory.writeN_wf w.dmem _ _ _, w.img⟩) rfl rfl

theorem State.opStl_keeps {z : State} (s : State) (d : Fin 16) (a : Fin 16) (imm : BitVec 18) (h : Keeps z s) : KeepsI z (State.opStl s d a imm) := by
  unfold State.opStl
  repeat' first
    | with_reducible assumption | with_reducible apply KeepsI.done | with_reducible exact KeepsI.trap
    | (intro x; first | (refine Keeps.named (z := z) (s := x) ?_ ?_; focus subst x) | (refine Keeps.named (z := z) (s := x.1) ?_ ?_; focus subst x) | (refine Keeps.named (z := z) (s := x.2) ?_ ?_; focus subst x) | skip)
    | with_reducible apply State.advance_keeps | with_reducible apply State.putLocal_keeps | lift_lets | split
    | with_reducible refine Keeps.of_fst (by assumption) ?_ | with_reducible refine Keeps.of_snd (by assumption) ?_
    | with_reducible refine Keeps.of_done (by assumption) ?_

theorem State.accessCycles_keeps {z : State} (s : State) (a : ℕ) (sram : ℕ) (h : Keeps z s) : Keeps z (State.accessCycles s a sram).2 := by
  unfold State.accessCycles
  repeat' first
    | with_reducible assumption | with_reducible apply State.free_keeps | split

theorem State.loadNow_keeps {z : State} (s : State) (d : Fin 16) (x : ℕ) (size : ℕ) (h : Keeps z s) : KeepsI z (State.loadNow s d x size) := by
  unfold State.loadNow
  repeat' first
    | with_reducible assumption | with_reducible apply KeepsI.done | with_reducible exact KeepsI.trap
    | (intro x; first | (refine Keeps.named (z := z) (s := x) ?_ ?_; focus subst x) | (refine Keeps.named (z := z) (s := x.1) ?_ ?_; focus subst x) | (refine Keeps.named (z := z) (s := x.2) ?_ ?_; focus subst x) | skip)
    | with_reducible apply State.trapRaise_keeps | with_reducible apply State.dramRead_keeps | with_reducible apply State.accessCycles_keeps
    | with_reducible apply State.compute_keeps | with_reducible apply State.ceRead_keeps | lift_lets | split
    | with_reducible refine Keeps.of_done (by assumption) ?_

theorem State.opLoad_keeps {z : State} (s : State) (size : ℕ) (d : Fin 16) (a : Fin 16) (imm : BitVec 18) (h : Keeps z s) :
    KeepsI z (State.opLoad s size d a imm) := by
  unfold State.opLoad
  repeat' first
    | with_reducible assumption | with_reducible apply KeepsI.done | with_reducible exact KeepsI.trap
    | (intro x; first | (refine Keeps.named (z := z) (s := x) ?_ ?_; focus subst x) | (refine Keeps.named (z := z) (s := x.1) ?_ ?_; focus subst x) | (refine Keeps.named (z := z) (s := x.2) ?_ ?_; focus subst x) | skip)
    | with_reducible apply State.setStall_keeps | with_reducible apply State.loadNow_keeps | lift_lets | split
    | with_reducible refine Keeps.of_fst (by assumption) ?_ | with_reducible refine Keeps.of_snd (by assumption) ?_
    | with_reducible refine Keeps.of_done (by assumption) ?_

theorem State.putStore_keeps {z : State} (s : State) (a size v : Nat) (h : Keeps z s) : Keeps z (s.putStore a size v) := by
  unfold State.putStore
  split
  · extract_lets s1
    have h1 : Keeps z s1 := h.sameMem (fun w => ⟨Memory.writeN_wf w.mem _ _ _, w.pmem, w.dmem, w.img⟩) rfl rfl
    split
    · exact Keeps.lit h1 rfl rfl
    · exact h1
  · exact State.admitStores_keeps _ _ (Keeps.lit h rfl rfl)

theorem State.opStore_keeps {z : State} (s : State) (size : ℕ) (d : Fin 16) (a : Fin 16) (imm : BitVec 18) (h : Keeps z s) :
    KeepsI z (State.opStore s size d a imm) := by
  unfold State.opStore
  repeat' first
    | with_reducible assumption | with_reducible apply KeepsI.done | with_reducible exact KeepsI.trap
    | (intro x; first | (refine Keeps.named (z := z) (s := x) ?_ ?_; focus subst x) | (refine Keeps.named (z := z) (s := x.1) ?_ ?_; focus subst x) | (refine Keeps.named (z := z) (s := x.2) ?_ ?_; focus subst x) | skip)
    | with_reducible apply State.setStall_keeps | with_reducible apply State.advance_keeps | with_reducible apply State.putStore_keeps
    | lift_lets | split | with_reducible refine Keeps.of_fst (by assumption) ?_ | with_reducible refine Keeps.of_snd (by assumption) ?_
    | with_reducible refine Keeps.of_done (by assumption) ?_

theorem State.csrrDone_keeps {z : State} (s : State) (d : Fin 16) (a : ℕ) (h : Keeps z s) : Keeps z (State.csrrDone s d a) := by
  unfold State.csrrDone
  repeat' first
    | with_reducible assumption
    | (intro x; first | (refine Keeps.named (z := z) (s := x) ?_ ?_; focus subst x) | (refine Keeps.named (z := z) (s := x.1) ?_ ?_; focus subst x) | (refine Keeps.named (z := z) (s := x.2) ?_ ?_; focus subst x) | skip)
    | with_reducible apply State.readCsr_keeps | with_reducible apply State.jpush_keeps | with_reducible apply State.retire_keeps
    | with_reducible apply Keeps.cond | lift_lets | with_reducible refine Keeps.lit ?_ rfl rfl

theorem State.csrrLive_keeps {z : State} (s : State) (d : Fin 16) (a : ℕ) (h : Keeps z s) : KeepsI z (State.csrrLive s d a) := by
  unfold State.csrrLive
  repeat' first
    | with_reducible assumption | with_reducible apply KeepsI.done | with_reducible exact KeepsI.trap
    | (intro x; first | (refine Keeps.named (z := z) (s := x) ?_ ?_; focus subst x) | skip) | with_reducible apply State.csrrDone_keeps | split
    | lift_lets | with_reducible refine Keeps.of_done (by assumption) ?_ | with_reducible refine Keeps.lit ?_ rfl rfl

theorem State.opCsrr_keeps {z : State} (s : State) (d : Fin 16) (a : Fin 16) (imm : BitVec 18) (h : Keeps z s) :
    KeepsI z (State.opCsrr s d a imm) := by
  unfold State.opCsrr
  repeat' first
    | with_reducible assumption | with_reducible apply KeepsI.done | with_reducible exact KeepsI.trap
    | (intro x; first | (refine Keeps.named (z := z) (s := x) ?_ ?_; focus subst x) | skip) | with_reducible apply State.csrrLive_keeps
    | with_reducible apply State.compute_keeps | with_reducible apply State.meetI_keeps | lift_lets | split
    | with_reducible refine Keeps.of_fst (by assumption) ?_ | with_reducible refine Keeps.of_snd (by assumption) ?_
    | with_reducible refine Keeps.of_done (by assumption) ?_ | with_reducible refine Keeps.lit ?_ rfl rfl

theorem State.csrwPost_keeps {z : State} (s : State) (a : ℕ) (v : Word) (h : Keeps z s) : Keeps z (State.csrwPost s a v) := by
  unfold State.csrwPost
  repeat' first
    | with_reducible assumption | with_reducible apply State.writeCsr_keeps | split | with_reducible refine Keeps.lit ?_ rfl rfl

theorem State.opCsrw_keeps {z : State} (s : State) (d : Fin 16) (a : Fin 16) (imm : BitVec 18) (h : Keeps z s) :
    KeepsI z (State.opCsrw s d a imm) := by
  unfold State.opCsrw
  repeat' first
    | with_reducible assumption | with_reducible apply KeepsI.done | with_reducible exact KeepsI.trap
    | (intro x; first | (refine Keeps.named (z := z) (s := x) ?_ ?_; focus subst x) | skip) | with_reducible apply State.csrwPost_keeps
    | with_reducible apply State.advance_keeps | lift_lets | split | with_reducible refine Keeps.of_done (by assumption) ?_
    | with_reducible refine Keeps.lit ?_ rfl rfl

theorem State.csrFlushTo_keeps {z : State} (s : State) (island : ℕ) (h : Keeps z s) : Keeps z (State.csrFlushTo s island) := by
  unfold State.csrFlushTo
  repeat' first
    | with_reducible assumption
    | (intro x; first | (refine Keeps.named (z := z) (s := x) ?_ ?_; focus subst x) | (refine Keeps.named (z := z) (s := x.1) ?_ ?_; focus subst x) | (refine Keeps.named (z := z) (s := x.2) ?_ ?_; focus subst x) | skip)
    | with_reducible apply State.writeCsr_keeps | with_reducible apply Keeps.foldl | with_reducible apply Keeps.foldl_fst
    | with_reducible apply Keeps.foldl_snd | lift_lets | with_reducible refine Keeps.lit ?_ rfl rfl

theorem State.coreSettle_keeps {z : State} (s : State) (h : Keeps z s) : Keeps z (State.coreSettle s) := by
  unfold State.coreSettle
  repeat' first
    | with_reducible assumption | with_reducible apply State.csrwPost_keeps | with_reducible apply State.advance_keeps
    | with_reducible apply State.setStall_keeps | with_reducible apply State.putStore_keeps | split
    | with_reducible refine Keeps.of_fst (by assumption) ?_ | with_reducible refine Keeps.of_snd (by assumption) ?_

theorem State.csrAck_keeps {z : State} (s : State) (island : ℕ) (h : Keeps z s) : Keeps z (State.csrAck s island) := by
  unfold State.csrAck
  repeat' first
    | with_reducible assumption
    | (intro x; first | (refine Keeps.named (z := z) (s := x) ?_ ?_; focus subst x) | (refine Keeps.named (z := z) (s := x.1) ?_ ?_; focus subst x) | (refine Keeps.named (z := z) (s := x.2) ?_ ?_; focus subst x) | skip)
    | with_reducible apply State.coreSettle_keeps | with_reducible apply State.writeCsr_keeps | with_reducible apply State.csrrDone_keeps
    | with_reducible apply State.setStall_keeps | lift_lets | split | with_reducible refine Keeps.of_fst (by assumption) ?_
    | with_reducible refine Keeps.of_snd (by assumption) ?_ | with_reducible refine Keeps.lit ?_ rfl rfl

theorem State.csrTimeout_keeps {z : State} (s : State) (h : Keeps z s) : Keeps z (State.csrTimeout s) := by
  unfold State.csrTimeout
  repeat' first
    | with_reducible assumption | with_reducible apply State.cycles_keeps | with_reducible apply State.trapRaise_keeps | split
    | with_reducible refine Keeps.of_fst (by assumption) ?_ | with_reducible refine Keeps.of_snd (by assumption) ?_
    | with_reducible refine Keeps.lit ?_ rfl rfl

end Sys2Proof.Machine
end

