-- ==== Sys2Proof/Laws/Kept/ShahamQ.lean ====
section
/-! SUPPORT. What every function of Machine/ShahamQ.lean keeps (Laws/Keep.lean). -/

set_option linter.unusedTactic false
set_option linter.unreachableTactic false

namespace Sys2Proof.Machine

theorem State.opWait_keeps {z : State} (s : State) (a : Fin 16) (h : Keeps z s) : KeepsI z (State.opWait s a) := by
  unfold State.opWait
  repeat' first
    | with_reducible assumption | with_reducible apply KeepsI.done | with_reducible exact KeepsI.trap
    | (intro x; first | (refine Keeps.named (z := z) (s := x) ?_ ?_; focus subst x) | skip) | with_reducible apply State.advance_keeps
    | with_reducible apply State.setStall_keeps | lift_lets | split | with_reducible refine Keeps.of_done (by assumption) ?_

theorem State.waitResume_keeps {z : State} (s : State) (h : Keeps z s) : Keeps z (State.waitResume s) := by
  unfold State.waitResume
  repeat' first
    | with_reducible assumption | with_reducible apply State.advance_keeps | with_reducible apply State.setStall_keeps | split
    | with_reducible refine Keeps.of_fst (by assumption) ?_ | with_reducible refine Keeps.of_snd (by assumption) ?_

theorem State.tactDrop_keeps {z : State} (s : State) (k : ℕ) (h : Keeps z s) : Keeps z (State.tactDrop s k) := by
  unfold State.tactDrop
  repeat' first
    | with_reducible assumption | (intro x; first | (refine Keeps.named (z := z) (s := x) ?_ ?_; focus subst x) | skip)
    | with_reducible refine Keeps.lit ?_ rfl rfl

theorem State.opAt_keeps {z : State} (s : State) (d : Fin 16) (a : Fin 16) (b : Fin 16) (k : BitVec 6) (h : Keeps z s) :
    KeepsI z (State.opAt s d a b k) := by
  unfold State.opAt
  repeat' first
    | with_reducible assumption | with_reducible apply KeepsI.done | with_reducible exact KeepsI.trap
    | (intro x; first | (refine Keeps.named (z := z) (s := x) ?_ ?_; focus subst x) | skip) | with_reducible apply illegal_keeps
    | with_reducible apply State.csrFlushTo_keeps | with_reducible apply State.retireStatus_keeps | with_reducible apply State.tactDrop_keeps
    | with_reducible apply State.sticky_keeps | lift_lets | split | with_reducible refine Keeps.of_done (by assumption) ?_
    | with_reducible refine Keeps.lit ?_ rfl rfl

theorem State.timedAction_keeps {z : State} (s : State) (k : ℕ) (h : Keeps z s) : Keeps z (State.timedAction s k) := by
  unfold State.timedAction
  repeat' first
    | with_reducible assumption | (intro x; first | (refine Keeps.named (z := z) (s := x) ?_ ?_; focus subst x) | skip)
    | with_reducible apply State.tactDrop_keeps | with_reducible apply State.setB_keeps | with_reducible apply State.writeCsr_keeps | lift_lets
    | split | with_reducible refine Keeps.of_fst (by assumption) ?_ | with_reducible refine Keeps.of_snd (by assumption) ?_
    | with_reducible refine Keeps.lit ?_ rfl rfl

theorem State.launchDone_keeps {z : State} (d : Fin 16) (r : Nat × Bool × State) (h : Keeps z r.2.2) :
    KeepsI z (State.launchDone d r) :=
  KeepsI.done (State.retireStatus_keeps _ _ _ (Keeps.cond _ h fun _ w => State.sticky_keeps _ _ w))

theorem State.opLnch_keeps {z : State} (s : State) (d : Fin 16) (a : Fin 16) (b : Fin 16) (h : Keeps z s) : KeepsI z (State.opLnch s d a b) := by
  unfold State.opLnch
  repeat' first
    | with_reducible assumption | with_reducible apply KeepsI.done | with_reducible exact KeepsI.trap
    | with_reducible apply State.launchDone_keeps | with_reducible apply State.lnch_keeps | with_reducible apply State.csrFlushTo_keeps
    | with_reducible refine Keeps.of_done (by assumption) ?_

theorem State.opFrmStart_keeps {z : State} (s : State) (d : Fin 16) (a : Fin 16) (b : Fin 16) (h : Keeps z s) :
    KeepsI z (State.opFrmStart s d a b) := by
  unfold State.opFrmStart
  repeat' first
    | with_reducible assumption | with_reducible apply KeepsI.done | with_reducible exact KeepsI.trap
    | with_reducible apply State.launchDone_keeps | with_reducible apply State.frmStart_keeps | with_reducible apply State.csrFlushTo_keeps
    | with_reducible refine Keeps.of_done (by assumption) ?_

theorem State.opFrmStop_keeps {z : State} (s : State) (d : Fin 16) (a : Fin 16) (h : Keeps z s) : KeepsI z (State.opFrmStop s d a) := by
  unfold State.opFrmStop
  repeat' first
    | with_reducible assumption | with_reducible apply KeepsI.done | with_reducible exact KeepsI.trap
    | with_reducible apply State.retireStatus_keeps | with_reducible apply State.frmStop_keeps | with_reducible apply State.csrFlushTo_keeps
    | split | with_reducible refine Keeps.of_done (by assumption) ?_

theorem State.qFlag_keeps {z : State} (s : State) (kind : ℕ) (status : ℕ) (h : Keeps z s) : Keeps z (State.qFlag s kind status) := by
  unfold State.qFlag
  repeat' first
    | with_reducible assumption | (intro x; first | (refine Keeps.named (z := z) (s := x) ?_ ?_; focus subst x) | skip)
    | with_reducible apply State.sticky_keeps | with_reducible apply Keeps.cond | with_reducible refine Keeps.lit ?_ rfl rfl

theorem State.postDone_keeps {z : State} (s : State) (kind : ℕ) (d : Fin 16) (n : ℕ) (e : Entry) (status : ℕ) (h : Keeps z s) :
    Keeps z (State.postDone s kind d n e status) := by
  unfold State.postDone
  repeat' first
    | with_reducible assumption | with_reducible apply State.jpush_keeps | with_reducible apply State.retireStatus_keeps
    | with_reducible apply State.qFlag_keeps

theorem State.postOk_keeps {z : State} (s : State) (kind : ℕ) (d : Fin 16) (n : ℕ) (e : Entry) (h : Keeps z s) :
    Keeps z (State.postOk s kind d n e) := by
  unfold State.postOk
  repeat' first
    | with_reducible assumption | (intro x; first | (refine Keeps.named (z := z) (s := x) ?_ ?_; focus subst x) | skip)
    | with_reducible apply State.postDone_keeps | with_reducible apply State.enqueue_keeps | with_reducible apply State.gateSees_keeps
    | lift_lets | split

theorem State.postLive_keeps {z : State} (s : State) (kind : ℕ) (d : Fin 16) (n : ℕ) (e : Entry) (h : Keeps z s) :
    Keeps z (State.postLive s kind d n e) := by
  unfold State.postLive
  repeat' first
    | with_reducible assumption | (intro x; first | (refine Keeps.named (z := z) (s := x) ?_ ?_; focus subst x) | skip)
    | with_reducible apply State.postDone_keeps | with_reducible apply State.setStall_keeps | with_reducible apply State.postOk_keeps
    | with_reducible apply State.inc_keeps | split

theorem State.doPost_keeps {z : State} (s : State) (kind : ℕ) (d : Fin 16) (n : ℕ) (a : ℕ) (h : Keeps z s) : Keeps z (State.doPost s kind d n a) := by
  unfold State.doPost
  repeat' first
    | with_reducible assumption | (intro x; first | (refine Keeps.named (z := z) (s := x) ?_ ?_; focus subst x) | skip)
    | with_reducible apply State.postLive_keeps | with_reducible apply State.retireStatus_keeps | with_reducible apply State.qFlag_keeps
    | with_reducible apply State.meet_keeps | lift_lets | split | with_reducible refine Keeps.of_fst (by assumption) ?_
    | with_reducible refine Keeps.of_snd (by assumption) ?_ | with_reducible refine Keeps.lit ?_ rfl rfl

theorem State.opPost_keeps {z : State} (s : State) (d : Fin 16) (a : Fin 16) (imm : BitVec 18) (h : Keeps z s) :
    KeepsI z (State.opPost s d a imm) := by
  unfold State.opPost
  repeat' first
    | with_reducible assumption | with_reducible apply KeepsI.done | with_reducible exact KeepsI.trap
    | (intro x; first | (refine Keeps.named (z := z) (s := x) ?_ ?_; focus subst x) | (refine Keeps.named (z := z) (s := x.1) ?_ ?_; focus subst x) | (refine Keeps.named (z := z) (s := x.2) ?_ ?_; focus subst x) | skip)
    | with_reducible apply State.doPost_keeps | lift_lets | split | with_reducible refine Keeps.of_fst (by assumption) ?_
    | with_reducible refine Keeps.of_snd (by assumption) ?_ | with_reducible refine Keeps.of_done (by assumption) ?_

theorem State.opVjob_keeps {z : State} (s : State) (d : Fin 16) (a : Fin 16) (imm : BitVec 18) (h : Keeps z s) :
    KeepsI z (State.opVjob s d a imm) := by
  unfold State.opVjob
  repeat' first
    | with_reducible assumption | with_reducible apply KeepsI.done | with_reducible exact KeepsI.trap
    | (intro x; first | (refine Keeps.named (z := z) (s := x) ?_ ?_; focus subst x) | (refine Keeps.named (z := z) (s := x.1) ?_ ?_; focus subst x) | (refine Keeps.named (z := z) (s := x.2) ?_ ?_; focus subst x) | skip)
    | with_reducible apply State.doPost_keeps | lift_lets | split | with_reducible refine Keeps.of_fst (by assumption) ?_
    | with_reducible refine Keeps.of_snd (by assumption) ?_ | with_reducible refine Keeps.of_done (by assumption) ?_

theorem State.opFence_keeps {z : State} (s : State) (kind : ℕ) (h : Keeps z s) : KeepsI z (State.opFence s kind) := by
  unfold State.opFence
  repeat' first
    | with_reducible assumption | with_reducible apply KeepsI.done | with_reducible exact KeepsI.trap | with_reducible apply State.advance_keeps
    | with_reducible apply State.setStall_keeps | split | with_reducible refine Keeps.of_done (by assumption) ?_

theorem State.opPostr_keeps {z : State} (s : State) (d : Fin 16) (a : Fin 16) (imm : BitVec 18) (h : Keeps z s) :
    KeepsI z (State.opPostr s d a imm) := by
  unfold State.opPostr
  repeat' first
    | with_reducible assumption | with_reducible apply KeepsI.done | with_reducible exact KeepsI.trap
    | (intro x; first | (refine Keeps.named (z := z) (s := x) ?_ ?_; focus subst x) | (refine Keeps.named (z := z) (s := x.1) ?_ ?_; focus subst x) | (refine Keeps.named (z := z) (s := x.2) ?_ ?_; focus subst x) | skip)
    | with_reducible apply State.doPost_keeps | with_reducible apply State.setStall_keeps | lift_lets | split
    | with_reducible refine Keeps.of_fst (by assumption) ?_ | with_reducible refine Keeps.of_snd (by assumption) ?_
    | with_reducible refine Keeps.of_done (by assumption) ?_

theorem State.fenceResume_keeps {z : State} (s : State) (h : Keeps z s) : Keeps z (State.fenceResume s) := by
  unfold State.fenceResume
  repeat' first
    | with_reducible assumption | with_reducible apply State.advance_keeps | with_reducible apply State.setStall_keeps
    | with_reducible apply State.cycles_keeps | with_reducible apply State.doPost_keeps | split
    | with_reducible refine Keeps.of_fst (by assumption) ?_ | with_reducible refine Keeps.of_snd (by assumption) ?_

theorem State.lateSeen_keeps {z : State} (s : State) (r : Rec) (h : Keeps z s) : Keeps z (State.lateSeen s r) := by
  unfold State.lateSeen
  repeat' first
    | with_reducible assumption | with_reducible apply State.gateSees_keeps | split | with_reducible refine Keeps.of_fst (by assumption) ?_
    | with_reducible refine Keeps.of_snd (by assumption) ?_ | with_reducible refine Keeps.lit ?_ rfl rfl

theorem State.postStallEnd_keeps {z : State} (s : State) (n : ℕ) (h : Keeps z s) : Keeps z (State.postStallEnd s n) := by
  unfold State.postStallEnd
  repeat' first
    | with_reducible assumption | (intro x; first | (refine Keeps.named (z := z) (s := x) ?_ ?_; focus subst x) | skip)
    | with_reducible apply State.lateSeen_keeps | with_reducible apply State.trgSettle_keeps | with_reducible apply State.evbMerge_keeps
    | with_reducible apply State.emitRec_keeps | with_reducible apply State.dropRec_keeps | with_reducible apply State.postOk_keeps
    | with_reducible apply State.setStall_keeps | with_reducible apply State.postDone_keeps | with_reducible apply State.inc_keeps | lift_lets
    | split | with_reducible refine Keeps.of_fst (by assumption) ?_ | with_reducible refine Keeps.of_snd (by assumption) ?_
    | with_reducible refine Keeps.lit ?_ rfl rfl

theorem State.putEntry_keeps {z : State} (s : State) (a : ℕ) (ws : List ℕ) (h : Keeps z s) : Keeps z (State.putEntry s a ws) := by
  unfold State.putEntry
  repeat' first
    | with_reducible assumption
    | (intro x; first | (refine Keeps.named (z := z) (s := x) ?_ ?_; focus subst x) | (refine Keeps.named (z := z) (s := x.1) ?_ ?_; focus subst x) | (refine Keeps.named (z := z) (s := x.2) ?_ ?_; focus subst x) | skip)
    | with_reducible apply State.putLocal_keeps | with_reducible apply Keeps.foldl | with_reducible apply Keeps.foldl_fst
    | with_reducible apply Keeps.foldl_snd | with_reducible refine Keeps.lit ?_ rfl rfl

theorem State.takeDone_keeps {z : State} (s : State) (d : Fin 16) (n : ℕ) (a : ℕ) (e : Option Entry) (status : ℕ) (h : Keeps z s) :
    Keeps z (State.takeDone s d n a e status) := by
  unfold State.takeDone
  repeat' first
    | with_reducible assumption | (intro x; first | (refine Keeps.named (z := z) (s := x) ?_ ?_; focus subst x) | skip)
    | with_reducible apply State.jpush_keeps | with_reducible apply State.retireStatus_keeps | with_reducible apply State.putEntry_keeps
    | lift_lets | split | with_reducible refine Keeps.of_fst (by assumption) ?_ | with_reducible refine Keeps.of_snd (by assumption) ?_
    | with_reducible refine Keeps.lit ?_ rfl rfl

theorem State.takeLive_keeps {z : State} (s : State) (d : Fin 16) (n : ℕ) (a : ℕ) (h : Keeps z s) : Keeps z (State.takeLive s d n a) := by
  unfold State.takeLive
  repeat' first
    | with_reducible assumption
    | (intro x; first | (refine Keeps.named (z := z) (s := x) ?_ ?_; focus subst x) | (refine Keeps.named (z := z) (s := x.1) ?_ ?_; focus subst x) | (refine Keeps.named (z := z) (s := x.2) ?_ ?_; focus subst x) | skip)
    | with_reducible apply State.takeDone_keeps | with_reducible apply State.gateTake_keeps | with_reducible apply State.takeHead_keeps
    | with_reducible apply State.evbSync_keeps | with_reducible apply Keeps.cond | lift_lets | split

theorem State.takeRun_keeps {z : State} (s : State) (d : Fin 16) (n : ℕ) (x : ℕ) (h : Keeps z s) : KeepsI z (State.takeRun s d n x) := by
  unfold State.takeRun
  repeat' first
    | with_reducible assumption | with_reducible apply KeepsI.done | with_reducible exact KeepsI.trap
    | (intro x; first | (refine Keeps.named (z := z) (s := x) ?_ ?_; focus subst x) | (refine Keeps.named (z := z) (s := x.1) ?_ ?_; focus subst x) | (refine Keeps.named (z := z) (s := x.2) ?_ ?_; focus subst x) | skip)
    | with_reducible apply State.accessCycles_keeps | with_reducible apply State.takeLive_keeps | with_reducible apply State.retireStatus_keeps
    | with_reducible apply State.putEntry_keeps | with_reducible apply State.meet_keeps | lift_lets | split
    | with_reducible refine Keeps.of_fst (by assumption) ?_ | with_reducible refine Keeps.of_snd (by assumption) ?_
    | with_reducible refine Keeps.of_done (by assumption) ?_ | with_reducible refine Keeps.lit ?_ rfl rfl

theorem State.memResume_keeps {z : State} (s : State) (h : Keeps z s) : Keeps z (State.memResume s) := by
  unfold State.memResume
  repeat' first
    | with_reducible assumption | (intro x; first | (refine Keeps.named (z := z) (s := x) ?_ ?_; focus subst x) | skip)
    | with_reducible apply State.cycles_keeps | with_reducible apply State.trapRaise_keeps | with_reducible apply State.loadNow_keeps
    | with_reducible apply State.setStall_keeps | with_reducible apply State.takeRun_keeps | lift_lets | split
    | with_reducible refine Keeps.of_fst (by assumption) ?_ | with_reducible refine Keeps.of_snd (by assumption) ?_
    | with_reducible refine Keeps.of_done (by assumption) ?_ | with_reducible refine Keeps.lit ?_ rfl rfl

theorem State.opTake_keeps {z : State} (s : State) (d : Fin 16) (a : Fin 16) (imm : BitVec 18) (h : Keeps z s) :
    KeepsI z (State.opTake s d a imm) := by
  unfold State.opTake
  repeat' first
    | with_reducible assumption | with_reducible apply KeepsI.done | with_reducible exact KeepsI.trap
    | (intro x; first | (refine Keeps.named (z := z) (s := x) ?_ ?_; focus subst x) | (refine Keeps.named (z := z) (s := x.1) ?_ ?_; focus subst x) | (refine Keeps.named (z := z) (s := x.2) ?_ ?_; focus subst x) | skip)
    | with_reducible apply State.setStall_keeps | with_reducible apply State.takeRun_keeps | lift_lets | split
    | with_reducible refine Keeps.of_fst (by assumption) ?_ | with_reducible refine Keeps.of_snd (by assumption) ?_
    | with_reducible refine Keeps.of_done (by assumption) ?_

theorem opTrap_keeps {z : State} (code : BitVec 26) : KeepsI z (opTrap code) := by
  unfold opTrap
  repeat' first
    | with_reducible assumption | with_reducible apply KeepsI.done | with_reducible exact KeepsI.trap | with_reducible apply illegal_keeps
    | split | with_reducible refine Keeps.of_done (by assumption) ?_

theorem State.opEret_keeps {z : State} (s : State) (d : Fin 16) (a : Fin 16) (b : Fin 16) (h : Keeps z s) : KeepsI z (State.opEret s d a b) := by
  unfold State.opEret
  repeat' first
    | with_reducible assumption | with_reducible apply KeepsI.done | with_reducible exact KeepsI.trap
    | with_reducible apply State.trapReturn_keeps | with_reducible apply illegal_keeps | split
    | with_reducible refine Keeps.of_done (by assumption) ?_

theorem State.idleDone_keeps {z : State} (s : State) (d : Fin 16) (v : ℕ) (h : Keeps z s) : Keeps z (State.idleDone s d v) := by
  unfold State.idleDone
  repeat' first
    | with_reducible assumption | with_reducible apply State.jpush_keeps | with_reducible apply State.retire_keeps

theorem State.opIdle_keeps {z : State} (s : State) (d : Fin 16) (a : Fin 16) (h : Keeps z s) : KeepsI z (State.opIdle s d a) := by
  unfold State.opIdle
  repeat' first
    | with_reducible assumption | with_reducible apply KeepsI.done | with_reducible exact KeepsI.trap
    | (intro x; first | (refine Keeps.named (z := z) (s := x) ?_ ?_; focus subst x) | skip) | with_reducible apply State.idleDone_keeps
    | with_reducible apply State.setStall_keeps | with_reducible apply State.retire_keeps | with_reducible apply State.meetI_keeps
    | with_reducible apply State.meet_keeps | lift_lets | split | with_reducible refine Keeps.of_fst (by assumption) ?_
    | with_reducible refine Keeps.of_snd (by assumption) ?_ | with_reducible refine Keeps.of_done (by assumption) ?_
    | with_reducible refine Keeps.lit ?_ rfl rfl

theorem State.idleWake_keeps {z : State} (s : State) (h : Keeps z s) : Keeps z (State.idleWake s) := by
  unfold State.idleWake
  repeat' first
    | with_reducible assumption | with_reducible apply State.idleDone_keeps | with_reducible apply State.setStall_keeps | split
    | with_reducible refine Keeps.of_fst (by assumption) ?_ | with_reducible refine Keeps.of_snd (by assumption) ?_
    | with_reducible refine Keeps.lit ?_ rfl rfl

theorem State.takeCkpt_keeps {z : State} (s : State) (h : Keeps z s) : Keeps z (State.takeCkpt s) := by
  unfold State.takeCkpt
  repeat' first
    | with_reducible assumption | (intro x; first | (refine Keeps.named (z := z) (s := x) ?_ ?_; focus subst x) | skip)
    | with_reducible apply State.advance_keeps | lift_lets | with_reducible refine Keeps.lit ?_ rfl rfl

theorem State.opCkpt_keeps {z : State} (s : State) (h : Keeps z s) : KeepsI z (State.opCkpt s) := by
  unfold State.opCkpt
  repeat' first
    | with_reducible assumption | with_reducible apply KeepsI.done | with_reducible exact KeepsI.trap
    | with_reducible apply State.handover_keeps | with_reducible apply State.moultEnd_keeps | with_reducible apply State.coreBack_keeps
    | with_reducible apply State.takeCkpt_keeps | split | with_reducible refine Keeps.of_fst (by assumption) ?_
    | with_reducible refine Keeps.of_snd (by assumption) ?_ | with_reducible refine Keeps.of_done (by assumption) ?_

end Sys2Proof.Machine
end

