-- ==== Sys2Proof/Laws/Kept/Spi.lean ====
section
/-! SUPPORT. What every function of Machine/Spi.lean keeps (Laws/Keep.lean). -/

set_option linter.unusedTactic false
set_option linter.unreachableTactic false

namespace Sys2Proof.Machine

theorem State.spiReply_keeps {z : State} (s : State) (status : ℕ) (data : List ℕ) (h : Keeps z s) : Keeps z (State.spiReply s status data) := by
  unfold State.spiReply
  repeat' first
    | with_reducible assumption | with_reducible refine Keeps.lit ?_ rfl rfl

theorem State.spiOp_keeps {z : State} (s : State) (op : ℕ) (f : SpiFrame) (form : Bool) (asleep : Bool) (run : State → State) (h : Keeps z s)
    (hrun : ∀ t, Keeps z t → Keeps z (run t)) :
    Keeps z (State.spiOp s op f form asleep run) := by
  unfold State.spiOp
  repeat' first
    | with_reducible assumption | (intro x; first | (refine Keeps.named (z := z) (s := x) ?_ ?_; focus subst x) | skip)
    | with_reducible apply State.spiReply_keeps | with_reducible apply State.incF_keeps | with_reducible apply hrun | split

theorem State.spiNop_keeps {z : State} (s : State) (h : Keeps z s) : Keeps z (State.spiNop s) := by
  unfold State.spiNop
  repeat' first
    | with_reducible assumption | with_reducible apply State.spiReply_keeps

theorem State.spiRegs_keeps {z : State} (s : State) (a : ℕ) (a2 : ℕ) (h : Keeps z s) : Keeps z (State.spiRegs s a a2).2 := by
  induction a2 generalizing s a with
  | zero => exact h
  | succ a2 ih =>
    unfold State.spiRegs
    repeat' first
      | with_reducible assumption | with_reducible apply ih
      | (intro x; first | (refine Keeps.named (z := z) (s := x) ?_ ?_; focus subst x) | (refine Keeps.named (z := z) (s := x.1) ?_ ?_; focus subst x) | (refine Keeps.named (z := z) (s := x.2) ?_ ?_; focus subst x) | skip)
      | with_reducible apply State.readCsr_keeps | lift_lets | split

theorem State.spiCsrrd_keeps {z : State} (s : State) (len : ℕ) (a : ℕ) (h : Keeps z s) : Keeps z (State.spiCsrrd s len a) := by
  unfold State.spiCsrrd
  repeat' first
    | with_reducible assumption
    | (intro x; first | (refine Keeps.named (z := z) (s := x) ?_ ?_; focus subst x) | (refine Keeps.named (z := z) (s := x.1) ?_ ?_; focus subst x) | (refine Keeps.named (z := z) (s := x.2) ?_ ?_; focus subst x) | skip)
    | with_reducible apply State.spiReply_keeps | with_reducible apply State.spiRegs_keeps | lift_lets | split

theorem State.spiCsrwr_keeps {z : State} (s : State) (a : ℕ) (v : ℕ) (h : Keeps z s) : Keeps z (State.spiCsrwr s a v) := by
  unfold State.spiCsrwr
  repeat' first
    | with_reducible assumption | with_reducible apply State.spiReply_keeps | with_reducible apply State.writeCsr_keeps | split

theorem State.spiMemrd_keeps {z : State} (s : State) (len : ℕ) (a : ℕ) (h : Keeps z s) : Keeps z (State.spiMemrd s len a) := by
  unfold State.spiMemrd
  repeat' first
    | with_reducible assumption | with_reducible apply State.spiReply_keeps | with_reducible apply State.dramRead_keeps | split

theorem State.spiMemwr_keeps {z : State} (s : State) (len : ℕ) (a : ℕ) (ws : List ℕ) (h : Keeps z s) : Keeps z (State.spiMemwr s len a ws) := by
  unfold State.spiMemwr
  repeat' first
    | with_reducible assumption | with_reducible apply State.spiReply_keeps | with_reducible apply State.putWords_keeps | split

theorem State.spiPost_keeps {z : State} (s : State) (ws : List ℕ) (h : Keeps z s) : Keeps z (State.spiPost s ws) := by
  unfold State.spiPost
  repeat' first
    | with_reducible assumption | (intro x; first | (refine Keeps.named (z := z) (s := x) ?_ ?_; focus subst x) | skip)
    | with_reducible apply State.spiReply_keeps | with_reducible apply State.enqueue_keeps | with_reducible apply State.incMod_keeps | lift_lets
    | split | with_reducible refine Keeps.lit ?_ rfl rfl

theorem State.spiOldest_keeps {z s : State} {r : Entry × State} (h : Keeps z s) (e : s.spiOldest = some r) : Keeps z r.2 := by
  unfold State.spiOldest at e
  split at e
  · exact Keeps.some_mk e (Keeps.lit h rfl rfl)
  · split at e
    · exact State.takeMine_keeps h e
    · cases e

theorem State.spiTake_keeps {z : State} (s : State) (whole : Bool) (h : Keeps z s) : Keeps z (State.spiTake s whole) := by
  unfold State.spiTake
  repeat' first
    | with_reducible assumption | with_reducible refine State.spiOldest_keeps ?_ (by assumption)
    | with_reducible refine Keeps.of_some (by assumption) (fun _ e => State.spiOldest_keeps ?_ e) | with_reducible apply State.spiReply_keeps
    | split | with_reducible refine Keeps.of_fst (by assumption) ?_ | with_reducible refine Keeps.of_snd (by assumption) ?_

theorem State.tapScan_keeps {z : State} (s : State) (ir din : Nat) (h : Keeps z s) : Keeps z (s.tapScan ir din) := by
  unfold State.tapScan
  split
  · exact Keeps.lit h rfl rfl
  · exact Keeps.lit (State.free_keeps _ h) rfl rfl
  · exact Keeps.lit (State.free_keeps _ h) rfl rfl
  · exact Keeps.lit h rfl rfl

end Sys2Proof.Machine
end

