-- ==== Sys2Proof/Laws/Kept/Clocked.lean ====
section
/-! SUPPORT. What every function of Machine/Clocked.lean keeps (Laws/Keep.lean). -/

set_option linter.unusedTactic false
set_option linter.unreachableTactic false

namespace Sys2Proof.Machine

theorem Keeps.of_next {z s t u : State} (e : s.done u = .next t) (h : Keeps z u) : Keeps z t := by
  cases e
  exact Keeps.lit h rfl rfl

theorem State.after_keeps {z : State} (s : State) (dt : ℕ) (f : State → State) (h : Keeps z s) (hf : ∀ t, Keeps z t → Keeps z (f t)) :
    Keeps z (State.after s dt f) := by
  unfold State.after
  repeat' first
    | with_reducible assumption | (intro x; first | (refine Keeps.named (z := z) (s := x) ?_ ?_; focus subst x) | skip)
    | with_reducible apply State.elapse_keeps | with_reducible apply hf

theorem State.run_keeps {z : State} (s : State) (dt : ℕ) (f : State → State) (h : Keeps z s) (hf : ∀ t, Keeps z t → Keeps z (f t)) :
    Keeps z (State.run s dt f) := by
  unfold State.run
  repeat' first
    | with_reducible assumption | (intro x; first | (refine Keeps.named (z := z) (s := x) ?_ ?_; focus subst x) | skip)
    | with_reducible apply State.elapse_keeps | with_reducible apply hf | lift_lets | split

theorem State.main_keeps {z : State} (s : State) (dt : ℕ) (f : State → State) (h : Keeps z s) (hf : ∀ t, Keeps z t → Keeps z (f t)) :
    Keeps z (State.main s dt f) := by
  unfold State.main
  repeat' first
    | with_reducible assumption | (intro x; first | (refine Keeps.named (z := z) (s := x) ?_ ?_; focus subst x) | skip)
    | with_reducible apply State.elapse_keeps | with_reducible apply hf | lift_lets | split

theorem State.clocks_keeps {z : State} (s : State) (dt : ℕ) (f : State → State) (h : Keeps z s) (hf : ∀ t, Keeps z t → Keeps z (f t)) :
    Keeps z (State.clocks s dt f) := by
  unfold State.clocks
  repeat' first
    | with_reducible assumption | (intro x; first | (refine Keeps.named (z := z) (s := x) ?_ ?_; focus subst x) | skip)
    | with_reducible apply State.elapse_keeps | with_reducible apply hf | lift_lets | split

theorem State.isl_keeps {z : State} (s : State) (i : ℕ) (dt : ℕ) (f : State → State) (h : Keeps z s) (hf : ∀ t, Keeps z t → Keeps z (f t)) :
    Keeps z (State.isl s i dt f) := by
  unfold State.isl
  repeat' first
    | with_reducible assumption | (intro x; first | (refine Keeps.named (z := z) (s := x) ?_ ?_; focus subst x) | skip)
    | with_reducible apply State.main_keeps | with_reducible apply hf | split

theorem State.lit_keeps {z : State} (s : State) (f : State → State) (h : Keeps z s) (hf : ∀ t, Keeps z t → Keeps z (f t)) :
    Keeps z (State.lit s f) := by
  unfold State.lit
  repeat' first
    | with_reducible assumption | (intro x; first | (refine Keeps.named (z := z) (s := x) ?_ ?_; focus subst x) | skip)
    | with_reducible apply hf | split

theorem State.out_keeps {z : State} (s : State) (f : State → State) (h : Keeps z s) (hf : ∀ t, Keeps z t → Keeps z (f t)) :
    Keeps z (State.out s f) := by
  unfold State.out
  repeat' first
    | with_reducible assumption | (intro x; first | (refine Keeps.named (z := z) (s := x) ?_ ?_; focus subst x) | skip)
    | with_reducible apply hf | split

theorem State.wr_keeps {z : State} (s : State) (who : ℕ) (a : ℕ) (v : Word) (ok : Bool) (h : Keeps z s) : Keeps z (State.wr s who a v ok) := by
  unfold State.wr
  repeat' first
    | with_reducible assumption | with_reducible apply State.writeCsr_keeps | split

theorem State.rd_keeps {z : State} (s : State) (who : ℕ) (a : ℕ) (f : State → State) (h : Keeps z s) (hf : ∀ t, Keeps z t → Keeps z (f t)) :
    Keeps z (State.rd s who a f) := by
  unfold State.rd
  repeat' first
    | with_reducible assumption | (intro x; first | (refine Keeps.named (z := z) (s := x) ?_ ?_; focus subst x) | skip)
    | with_reducible apply State.putLatch_keeps | with_reducible apply hf | split

theorem State.readKept_keeps {z : State} (s : State) (who : ℕ) (a : ℕ) (h : Keeps z s) : Keeps z (State.readKept s who a) := by
  unfold State.readKept
  repeat' first
    | with_reducible assumption
    | (intro x; first | (refine Keeps.named (z := z) (s := x) ?_ ?_; focus subst x) | (refine Keeps.named (z := z) (s := x.1) ?_ ?_; focus subst x) | (refine Keeps.named (z := z) (s := x.2) ?_ ?_; focus subst x) | skip)
    | with_reducible apply State.readCsr_keeps | with_reducible apply State.putLatch_keeps | lift_lets

theorem State.readResultRow_keeps {z : State} (s : State) (who : ℕ) (a : ℕ) (h : Keeps z s) : Keeps z (State.readResultRow s who a) := by
  unfold State.readResultRow
  repeat' first
    | with_reducible assumption | with_reducible apply State.readKept_keeps | split

theorem State.readLoRow_keeps {z : State} (s : State) (who : ℕ) (a : ℕ) (h : Keeps z s) : Keeps z (State.readLoRow s who a) := by
  unfold State.readLoRow
  repeat' first
    | with_reducible assumption | with_reducible apply State.readKept_keeps | split | with_reducible refine Keeps.lit ?_ rfl rfl

theorem State.profilePost_keeps {z : State} (s : State) (h : Keeps z s) : Keeps z (State.profilePost s) := by
  unfold State.profilePost
  repeat' first
    | with_reducible assumption | (intro x; first | (refine Keeps.named (z := z) (s := x) ?_ ?_; focus subst x) | skip)
    | with_reducible apply State.profPost_keeps | with_reducible apply State.tintAll_keeps | lift_lets | split
    | with_reducible refine Keeps.of_fst (by assumption) ?_ | with_reducible refine Keeps.of_snd (by assumption) ?_

theorem State.profileOrFibre_keeps {z : State} (s : State) (h : Keeps z s) : Keeps z (State.profileOrFibre s) := by
  unfold State.profileOrFibre
  repeat' first
    | with_reducible assumption | with_reducible apply State.fibreEnd_keeps | with_reducible apply State.profilePost_keeps

theorem State.laserEdge_keeps {z : State} (s : State) (dt : ℕ) (v : Bool) (f : State → State) (h : Keeps z s) (hf : ∀ t, Keeps z t → Keeps z (f
    t)) :
    Keeps z (State.laserEdge s dt v f) := by
  unfold State.laserEdge
  repeat' first
    | with_reducible assumption | (intro x; first | (refine Keeps.named (z := z) (s := x) ?_ ?_; focus subst x) | skip)
    | with_reducible apply State.elapse_keeps | with_reducible apply State.laserPin_keeps | with_reducible apply hf | lift_lets | split

end Sys2Proof.Machine
end

