-- ==== Sys2Proof/Laws/Kept/CmdClk.lean ====
section
/-! SUPPORT. What every function of Machine/CmdClk.lean keeps (Laws/Keep.lean). -/

set_option linter.unusedTactic false
set_option linter.unreachableTactic false

namespace Sys2Proof.Machine

theorem execPllUnlock_keeps {z s s' : State} (dt : ℕ) (pll : Fin 5) (h : Keeps z s) (e : execPllUnlock dt pll s = .next s') : Keeps z s' := by
  refine Keeps.of_next e ?_
  repeat' first
    | with_reducible assumption | (intro x; first | (refine Keeps.named (z := z) (s := x) ?_ ?_; focus subst x) | skip)
    | with_reducible apply State.clocks_keeps | with_reducible apply State.pllUnlock_keeps

theorem execPllRelock_keeps {z s s' : State} (dt : ℕ) (pll : Fin 5) (band : ℕ) (amp : ℕ) (phase : Word) (rows : List (ℕ × ℕ × ℕ × ℕ)) (temps :
    List ℕ) (h : Keeps z s) (e : execPllRelock dt pll band amp phase rows temps s = .next s') :
    Keeps z s' := by
  refine Keeps.of_next e ?_
  repeat' first
    | with_reducible assumption | (intro x; first | (refine Keeps.named (z := z) (s := x) ?_ ?_; focus subst x) | skip)
    | with_reducible apply State.clocks_keeps | with_reducible apply State.memResume_keeps | with_reducible apply State.pllRelock_keeps

theorem execSynSLockTimeout_keeps {z s s' : State} (dt : ℕ) (h : Keeps z s) (e : execSynSLockTimeout dt s = .next s') : Keeps z s' := by
  refine Keeps.of_next e ?_
  repeat' first
    | with_reducible assumption | (intro x; first | (refine Keeps.named (z := z) (s := x) ?_ ?_; focus subst x) | skip)
    | with_reducible apply State.clocks_keeps | with_reducible apply State.synsTimeout_keeps

theorem execPllRetryAlarm_keeps {z s s' : State} (dt : ℕ) (pll : Fin 5) (h : Keeps z s) (e : execPllRetryAlarm dt pll s = .next s') : Keeps z s' := by
  refine Keeps.of_next e ?_
  repeat' first
    | with_reducible assumption | (intro x; first | (refine Keeps.named (z := z) (s := x) ?_ ?_; focus subst x) | skip)
    | with_reducible apply State.clocks_keeps | with_reducible apply State.pllAlarm_keeps

theorem execRefCountFail_keeps {z s s' : State} (dt : ℕ) (h : Keeps z s) (e : execRefCountFail dt s = .next s') : Keeps z s' := by
  refine Keeps.of_next e ?_
  repeat' first
    | with_reducible assumption | (intro x; first | (refine Keeps.named (z := z) (s := x) ?_ ?_; focus subst x) | skip)
    | with_reducible apply State.clocks_keeps | with_reducible apply State.refFail_keeps | with_reducible refine Keeps.lit ?_ rfl rfl

theorem execClkCommit_keeps {z s s' : State} (v : Word) (h : Keeps z s) (e : execClkCommit v s = .next s') : Keeps z s' := by
  refine Keeps.of_next e ?_
  repeat' first
    | with_reducible assumption | with_reducible apply State.wr_keeps

theorem execCommitPoint_keeps {z s s' : State} (dt : ℕ) (h : Keeps z s) (e : execCommitPoint dt s = .next s') : Keeps z s' := by
  refine Keeps.of_next e ?_
  repeat' first
    | with_reducible assumption | (intro x; first | (refine Keeps.named (z := z) (s := x) ?_ ?_; focus subst x) | skip)
    | with_reducible apply State.main_keeps | with_reducible apply State.commitPoint_keeps

theorem execMslotWrite_keeps {z s s' : State} (n : Fin 16) (v : Word) (h : Keeps z s) (e : execMslotWrite n v s = .next s') : Keeps z s' := by
  refine Keeps.of_next e ?_
  repeat' first
    | with_reducible assumption | with_reducible apply State.wr_keeps

theorem execMselHop_keeps {z s s' : State} (dt : ℕ) (locked : Bool) (h : Keeps z s) (e : execMselHop dt locked s = .next s') : Keeps z s' := by
  refine Keeps.of_next e ?_
  repeat' first
    | with_reducible assumption | (intro x; first | (refine Keeps.named (z := z) (s := x) ?_ ?_; focus subst x) | skip)
    | with_reducible apply State.main_keeps | with_reducible apply State.mselHop_keeps

end Sys2Proof.Machine
end

