-- ==== Sys2Proof/Laws/Kept/CmdCore.lean ====
section
/-! SUPPORT. What every function of Machine/CmdCore.lean keeps (Laws/Keep.lean). -/

set_option linter.unusedTactic false
set_option linter.unreachableTactic false

namespace Sys2Proof.Machine

theorem execAdd_keeps {z s s' : State} (d : Fin 16) (a : Fin 16) (b : Fin 16) (h : Keeps z s) (e : execAdd d a b s = .next s') : Keeps z s' := by
  refine Keeps.of_next e ?_
  repeat' first
    | with_reducible assumption | with_reducible apply KeepsI.done | with_reducible exact KeepsI.trap
    | (intro x; first | (refine Keeps.named (z := z) (s := x) ?_ ?_; focus subst x) | skip) | with_reducible apply State.issue_keeps
    | with_reducible apply State.opAlu_keeps

theorem execSub_keeps {z s s' : State} (d : Fin 16) (a : Fin 16) (b : Fin 16) (h : Keeps z s) (e : execSub d a b s = .next s') : Keeps z s' := by
  refine Keeps.of_next e ?_
  repeat' first
    | with_reducible assumption | with_reducible apply KeepsI.done | with_reducible exact KeepsI.trap
    | (intro x; first | (refine Keeps.named (z := z) (s := x) ?_ ?_; focus subst x) | skip) | with_reducible apply State.issue_keeps
    | with_reducible apply State.opAlu_keeps

theorem execAnd_keeps {z s s' : State} (d : Fin 16) (a : Fin 16) (b : Fin 16) (h : Keeps z s) (e : execAnd d a b s = .next s') : Keeps z s' := by
  refine Keeps.of_next e ?_
  repeat' first
    | with_reducible assumption | with_reducible apply KeepsI.done | with_reducible exact KeepsI.trap
    | (intro x; first | (refine Keeps.named (z := z) (s := x) ?_ ?_; focus subst x) | skip) | with_reducible apply State.issue_keeps
    | with_reducible apply State.opAlu_keeps

theorem execOr_keeps {z s s' : State} (d : Fin 16) (a : Fin 16) (b : Fin 16) (h : Keeps z s) (e : execOr d a b s = .next s') : Keeps z s' := by
  refine Keeps.of_next e ?_
  repeat' first
    | with_reducible assumption | with_reducible apply KeepsI.done | with_reducible exact KeepsI.trap
    | (intro x; first | (refine Keeps.named (z := z) (s := x) ?_ ?_; focus subst x) | skip) | with_reducible apply State.issue_keeps
    | with_reducible apply State.opAlu_keeps

theorem execXor_keeps {z s s' : State} (d : Fin 16) (a : Fin 16) (b : Fin 16) (h : Keeps z s) (e : execXor d a b s = .next s') : Keeps z s' := by
  refine Keeps.of_next e ?_
  repeat' first
    | with_reducible assumption | with_reducible apply KeepsI.done | with_reducible exact KeepsI.trap
    | (intro x; first | (refine Keeps.named (z := z) (s := x) ?_ ?_; focus subst x) | skip) | with_reducible apply State.issue_keeps
    | with_reducible apply State.opAlu_keeps

theorem execShl_keeps {z s s' : State} (d : Fin 16) (a : Fin 16) (b : Fin 16) (h : Keeps z s) (e : execShl d a b s = .next s') : Keeps z s' := by
  refine Keeps.of_next e ?_
  repeat' first
    | with_reducible assumption | with_reducible apply KeepsI.done | with_reducible exact KeepsI.trap
    | (intro x; first | (refine Keeps.named (z := z) (s := x) ?_ ?_; focus subst x) | skip) | with_reducible apply State.issue_keeps
    | with_reducible apply State.opAlu_keeps

theorem execShr_keeps {z s s' : State} (d : Fin 16) (a : Fin 16) (b : Fin 16) (h : Keeps z s) (e : execShr d a b s = .next s') : Keeps z s' := by
  refine Keeps.of_next e ?_
  repeat' first
    | with_reducible assumption | with_reducible apply KeepsI.done | with_reducible exact KeepsI.trap
    | (intro x; first | (refine Keeps.named (z := z) (s := x) ?_ ?_; focus subst x) | skip) | with_reducible apply State.issue_keeps
    | with_reducible apply State.opAlu_keeps

theorem execSra_keeps {z s s' : State} (d : Fin 16) (a : Fin 16) (b : Fin 16) (h : Keeps z s) (e : execSra d a b s = .next s') : Keeps z s' := by
  refine Keeps.of_next e ?_
  repeat' first
    | with_reducible assumption | with_reducible apply KeepsI.done | with_reducible exact KeepsI.trap
    | (intro x; first | (refine Keeps.named (z := z) (s := x) ?_ ?_; focus subst x) | skip) | with_reducible apply State.issue_keeps
    | with_reducible apply State.opAlu_keeps

theorem execMul_keeps {z s s' : State} (d : Fin 16) (a : Fin 16) (b : Fin 16) (h : Keeps z s) (e : execMul d a b s = .next s') : Keeps z s' := by
  refine Keeps.of_next e ?_
  repeat' first
    | with_reducible assumption | with_reducible apply KeepsI.done | with_reducible exact KeepsI.trap
    | (intro x; first | (refine Keeps.named (z := z) (s := x) ?_ ?_; focus subst x) | skip) | with_reducible apply State.issue_keeps
    | with_reducible apply State.opAlu_keeps

theorem execMulhu_keeps {z s s' : State} (d : Fin 16) (a : Fin 16) (b : Fin 16) (h : Keeps z s) (e : execMulhu d a b s = .next s') : Keeps z s' := by
  refine Keeps.of_next e ?_
  repeat' first
    | with_reducible assumption | with_reducible apply KeepsI.done | with_reducible exact KeepsI.trap
    | (intro x; first | (refine Keeps.named (z := z) (s := x) ?_ ?_; focus subst x) | skip) | with_reducible apply State.issue_keeps
    | with_reducible apply State.opAlu_keeps

theorem execMin_keeps {z s s' : State} (d : Fin 16) (a : Fin 16) (b : Fin 16) (h : Keeps z s) (e : execMin d a b s = .next s') : Keeps z s' := by
  refine Keeps.of_next e ?_
  repeat' first
    | with_reducible assumption | with_reducible apply KeepsI.done | with_reducible exact KeepsI.trap
    | (intro x; first | (refine Keeps.named (z := z) (s := x) ?_ ?_; focus subst x) | skip) | with_reducible apply State.issue_keeps
    | with_reducible apply State.opAlu_keeps

theorem execMax_keeps {z s s' : State} (d : Fin 16) (a : Fin 16) (b : Fin 16) (h : Keeps z s) (e : execMax d a b s = .next s') : Keeps z s' := by
  refine Keeps.of_next e ?_
  repeat' first
    | with_reducible assumption | with_reducible apply KeepsI.done | with_reducible exact KeepsI.trap
    | (intro x; first | (refine Keeps.named (z := z) (s := x) ?_ ?_; focus subst x) | skip) | with_reducible apply State.issue_keeps
    | with_reducible apply State.opAlu_keeps

theorem execMinu_keeps {z s s' : State} (d : Fin 16) (a : Fin 16) (b : Fin 16) (h : Keeps z s) (e : execMinu d a b s = .next s') : Keeps z s' := by
  refine Keeps.of_next e ?_
  repeat' first
    | with_reducible assumption | with_reducible apply KeepsI.done | with_reducible exact KeepsI.trap
    | (intro x; first | (refine Keeps.named (z := z) (s := x) ?_ ?_; focus subst x) | skip) | with_reducible apply State.issue_keeps
    | with_reducible apply State.opAlu_keeps

theorem execMaxu_keeps {z s s' : State} (d : Fin 16) (a : Fin 16) (b : Fin 16) (h : Keeps z s) (e : execMaxu d a b s = .next s') : Keeps z s' := by
  refine Keeps.of_next e ?_
  repeat' first
    | with_reducible assumption | with_reducible apply KeepsI.done | with_reducible exact KeepsI.trap
    | (intro x; first | (refine Keeps.named (z := z) (s := x) ?_ ?_; focus subst x) | skip) | with_reducible apply State.issue_keeps
    | with_reducible apply State.opAlu_keeps

theorem execAddi_keeps {z s s' : State} (d : Fin 16) (a : Fin 16) (imm : BitVec 18) (h : Keeps z s) (e : execAddi d a imm s = .next s') :
    Keeps z s' := by
  refine Keeps.of_next e ?_
  repeat' first
    | with_reducible assumption | with_reducible apply KeepsI.done | with_reducible exact KeepsI.trap
    | (intro x; first | (refine Keeps.named (z := z) (s := x) ?_ ?_; focus subst x) | skip) | with_reducible apply State.issue_keeps
    | with_reducible apply State.opAddi_keeps | with_reducible refine Keeps.lit ?_ rfl rfl

theorem execAndi_keeps {z s s' : State} (d : Fin 16) (a : Fin 16) (imm : BitVec 18) (h : Keeps z s) (e : execAndi d a imm s = .next s') :
    Keeps z s' := by
  refine Keeps.of_next e ?_
  repeat' first
    | with_reducible assumption | with_reducible apply KeepsI.done | with_reducible exact KeepsI.trap
    | (intro x; first | (refine Keeps.named (z := z) (s := x) ?_ ?_; focus subst x) | skip) | with_reducible apply State.issue_keeps
    | with_reducible apply State.opLogi_keeps | with_reducible refine Keeps.lit ?_ rfl rfl

theorem execOri_keeps {z s s' : State} (d : Fin 16) (a : Fin 16) (imm : BitVec 18) (h : Keeps z s) (e : execOri d a imm s = .next s') :
    Keeps z s' := by
  refine Keeps.of_next e ?_
  repeat' first
    | with_reducible assumption | with_reducible apply KeepsI.done | with_reducible exact KeepsI.trap
    | (intro x; first | (refine Keeps.named (z := z) (s := x) ?_ ?_; focus subst x) | skip) | with_reducible apply State.issue_keeps
    | with_reducible apply State.opLogi_keeps | with_reducible refine Keeps.lit ?_ rfl rfl

theorem execXori_keeps {z s s' : State} (d : Fin 16) (a : Fin 16) (imm : BitVec 18) (h : Keeps z s) (e : execXori d a imm s = .next s') :
    Keeps z s' := by
  refine Keeps.of_next e ?_
  repeat' first
    | with_reducible assumption | with_reducible apply KeepsI.done | with_reducible exact KeepsI.trap
    | (intro x; first | (refine Keeps.named (z := z) (s := x) ?_ ?_; focus subst x) | skip) | with_reducible apply State.issue_keeps
    | with_reducible apply State.opLogi_keeps

theorem execShli_keeps {z s s' : State} (d : Fin 16) (a : Fin 16) (imm : BitVec 18) (h : Keeps z s) (e : execShli d a imm s = .next s') :
    Keeps z s' := by
  refine Keeps.of_next e ?_
  repeat' first
    | with_reducible assumption | with_reducible apply KeepsI.done | with_reducible exact KeepsI.trap
    | (intro x; first | (refine Keeps.named (z := z) (s := x) ?_ ?_; focus subst x) | skip) | with_reducible apply State.issue_keeps
    | with_reducible apply State.opShi_keeps

theorem execShri_keeps {z s s' : State} (d : Fin 16) (a : Fin 16) (imm : BitVec 18) (h : Keeps z s) (e : execShri d a imm s = .next s') :
    Keeps z s' := by
  refine Keeps.of_next e ?_
  repeat' first
    | with_reducible assumption | with_reducible apply KeepsI.done | with_reducible exact KeepsI.trap
    | (intro x; first | (refine Keeps.named (z := z) (s := x) ?_ ?_; focus subst x) | skip) | with_reducible apply State.issue_keeps
    | with_reducible apply State.opShi_keeps

theorem execSrai_keeps {z s s' : State} (d : Fin 16) (a : Fin 16) (imm : BitVec 18) (h : Keeps z s) (e : execSrai d a imm s = .next s') :
    Keeps z s' := by
  refine Keeps.of_next e ?_
  repeat' first
    | with_reducible assumption | with_reducible apply KeepsI.done | with_reducible exact KeepsI.trap
    | (intro x; first | (refine Keeps.named (z := z) (s := x) ?_ ?_; focus subst x) | skip) | with_reducible apply State.issue_keeps
    | with_reducible apply State.opShi_keeps

theorem execLui_keeps {z s s' : State} (d : Fin 16) (imm : BitVec 22) (h : Keeps z s) (e : execLui d imm s = .next s') : Keeps z s' := by
  refine Keeps.of_next e ?_
  repeat' first
    | with_reducible assumption | with_reducible apply KeepsI.done | with_reducible exact KeepsI.trap
    | (intro x; first | (refine Keeps.named (z := z) (s := x) ?_ ?_; focus subst x) | skip) | with_reducible apply State.issue_keeps
    | with_reducible apply State.opLui_keeps

theorem execLdl_keeps {z s s' : State} (d : Fin 16) (a : Fin 16) (imm : BitVec 18) (h : Keeps z s) (e : execLdl d a imm s = .next s') :
    Keeps z s' := by
  refine Keeps.of_next e ?_
  repeat' first
    | with_reducible assumption | with_reducible apply KeepsI.done | with_reducible exact KeepsI.trap
    | (intro x; first | (refine Keeps.named (z := z) (s := x) ?_ ?_; focus subst x) | skip) | with_reducible apply State.issue_keeps
    | with_reducible apply State.opLdl_keeps

theorem execStl_keeps {z s s' : State} (d : Fin 16) (a : Fin 16) (imm : BitVec 18) (h : Keeps z s) (e : execStl d a imm s = .next s') :
    Keeps z s' := by
  refine Keeps.of_next e ?_
  repeat' first
    | with_reducible assumption | with_reducible apply KeepsI.done | with_reducible exact KeepsI.trap
    | (intro x; first | (refine Keeps.named (z := z) (s := x) ?_ ?_; focus subst x) | skip) | with_reducible apply State.issue_keeps
    | with_reducible apply State.opStl_keeps

theorem execLd_keeps {z s s' : State} (d : Fin 16) (a : Fin 16) (imm : BitVec 18) (h : Keeps z s) (e : execLd d a imm s = .next s') : Keeps z s' := by
  refine Keeps.of_next e ?_
  repeat' first
    | with_reducible assumption | with_reducible apply KeepsI.done | with_reducible exact KeepsI.trap
    | (intro x; first | (refine Keeps.named (z := z) (s := x) ?_ ?_; focus subst x) | skip) | with_reducible apply State.issue_keeps
    | with_reducible apply State.opLoad_keeps

theorem execSt_keeps {z s s' : State} (d : Fin 16) (a : Fin 16) (imm : BitVec 18) (h : Keeps z s) (e : execSt d a imm s = .next s') : Keeps z s' := by
  refine Keeps.of_next e ?_
  repeat' first
    | with_reducible assumption | with_reducible apply KeepsI.done | with_reducible exact KeepsI.trap
    | (intro x; first | (refine Keeps.named (z := z) (s := x) ?_ ?_; focus subst x) | skip) | with_reducible apply State.issue_keeps
    | with_reducible apply State.opStore_keeps

theorem execLdw_keeps {z s s' : State} (d : Fin 16) (a : Fin 16) (imm : BitVec 18) (h : Keeps z s) (e : execLdw d a imm s = .next s') :
    Keeps z s' := by
  refine Keeps.of_next e ?_
  repeat' first
    | with_reducible assumption | with_reducible apply KeepsI.done | with_reducible exact KeepsI.trap
    | (intro x; first | (refine Keeps.named (z := z) (s := x) ?_ ?_; focus subst x) | skip) | with_reducible apply State.issue_keeps
    | with_reducible apply State.opLoad_keeps

theorem execStw_keeps {z s s' : State} (d : Fin 16) (a : Fin 16) (imm : BitVec 18) (h : Keeps z s) (e : execStw d a imm s = .next s') :
    Keeps z s' := by
  refine Keeps.of_next e ?_
  repeat' first
    | with_reducible assumption | with_reducible apply KeepsI.done | with_reducible exact KeepsI.trap
    | (intro x; first | (refine Keeps.named (z := z) (s := x) ?_ ?_; focus subst x) | skip) | with_reducible apply State.issue_keeps
    | with_reducible apply State.opStore_keeps

theorem execCsrr_keeps {z s s' : State} (d : Fin 16) (a : Fin 16) (imm : BitVec 18) (h : Keeps z s) (e : execCsrr d a imm s = .next s') :
    Keeps z s' := by
  refine Keeps.of_next e ?_
  repeat' first
    | with_reducible assumption | with_reducible apply KeepsI.done | with_reducible exact KeepsI.trap
    | (intro x; first | (refine Keeps.named (z := z) (s := x) ?_ ?_; focus subst x) | skip) | with_reducible apply State.issue_keeps
    | with_reducible apply State.opCsrr_keeps

theorem execCsrw_keeps {z s s' : State} (d : Fin 16) (a : Fin 16) (imm : BitVec 18) (h : Keeps z s) (e : execCsrw d a imm s = .next s') :
    Keeps z s' := by
  refine Keeps.of_next e ?_
  repeat' first
    | with_reducible assumption | with_reducible apply KeepsI.done | with_reducible exact KeepsI.trap
    | (intro x; first | (refine Keeps.named (z := z) (s := x) ?_ ?_; focus subst x) | skip) | with_reducible apply State.issue_keeps
    | with_reducible apply State.opCsrw_keeps

theorem execMfs_keeps {z s s' : State} (d : Fin 16) (a : Fin 16) (imm : BitVec 18) (h : Keeps z s) (e : execMfs d a imm s = .next s') :
    Keeps z s' := by
  refine Keeps.of_next e ?_
  repeat' first
    | with_reducible assumption | with_reducible apply KeepsI.done | with_reducible exact KeepsI.trap
    | (intro x; first | (refine Keeps.named (z := z) (s := x) ?_ ?_; focus subst x) | skip) | with_reducible apply State.issue_keeps
    | with_reducible apply State.opMfs_keeps

theorem execMts_keeps {z s s' : State} (d : Fin 16) (a : Fin 16) (imm : BitVec 18) (h : Keeps z s) (e : execMts d a imm s = .next s') :
    Keeps z s' := by
  refine Keeps.of_next e ?_
  repeat' first
    | with_reducible assumption | with_reducible apply KeepsI.done | with_reducible exact KeepsI.trap
    | (intro x; first | (refine Keeps.named (z := z) (s := x) ?_ ?_; focus subst x) | skip) | with_reducible apply State.issue_keeps
    | with_reducible apply State.opMts_keeps | split

theorem execBeq_keeps {z s s' : State} (a : Fin 16) (b : Fin 16) (off : BitVec 18) (h : Keeps z s) (e : execBeq a b off s = .next s') :
    Keeps z s' := by
  refine Keeps.of_next e ?_
  repeat' first
    | with_reducible assumption | with_reducible apply KeepsI.done | with_reducible exact KeepsI.trap
    | (intro x; first | (refine Keeps.named (z := z) (s := x) ?_ ?_; focus subst x) | skip) | with_reducible apply State.issue_keeps
    | with_reducible apply State.opBranch_keeps | split

theorem execBne_keeps {z s s' : State} (a : Fin 16) (b : Fin 16) (off : BitVec 18) (h : Keeps z s) (e : execBne a b off s = .next s') :
    Keeps z s' := by
  refine Keeps.of_next e ?_
  repeat' first
    | with_reducible assumption | with_reducible apply KeepsI.done | with_reducible exact KeepsI.trap
    | (intro x; first | (refine Keeps.named (z := z) (s := x) ?_ ?_; focus subst x) | skip) | with_reducible apply State.issue_keeps
    | with_reducible apply State.opBranch_keeps

theorem execBlt_keeps {z s s' : State} (a : Fin 16) (b : Fin 16) (off : BitVec 18) (h : Keeps z s) (e : execBlt a b off s = .next s') :
    Keeps z s' := by
  refine Keeps.of_next e ?_
  repeat' first
    | with_reducible assumption | with_reducible apply KeepsI.done | with_reducible exact KeepsI.trap
    | (intro x; first | (refine Keeps.named (z := z) (s := x) ?_ ?_; focus subst x) | skip) | with_reducible apply State.issue_keeps
    | with_reducible apply State.opBranch_keeps

theorem execBge_keeps {z s s' : State} (a : Fin 16) (b : Fin 16) (off : BitVec 18) (h : Keeps z s) (e : execBge a b off s = .next s') :
    Keeps z s' := by
  refine Keeps.of_next e ?_
  repeat' first
    | with_reducible assumption | with_reducible apply KeepsI.done | with_reducible exact KeepsI.trap
    | (intro x; first | (refine Keeps.named (z := z) (s := x) ?_ ?_; focus subst x) | skip) | with_reducible apply State.issue_keeps
    | with_reducible apply State.opBranch_keeps

theorem execBltu_keeps {z s s' : State} (a : Fin 16) (b : Fin 16) (off : BitVec 18) (h : Keeps z s) (e : execBltu a b off s = .next s') :
    Keeps z s' := by
  refine Keeps.of_next e ?_
  repeat' first
    | with_reducible assumption | with_reducible apply KeepsI.done | with_reducible exact KeepsI.trap
    | (intro x; first | (refine Keeps.named (z := z) (s := x) ?_ ?_; focus subst x) | skip) | with_reducible apply State.issue_keeps
    | with_reducible apply State.opBranch_keeps

theorem execBgeu_keeps {z s s' : State} (a : Fin 16) (b : Fin 16) (off : BitVec 18) (h : Keeps z s) (e : execBgeu a b off s = .next s') :
    Keeps z s' := by
  refine Keeps.of_next e ?_
  repeat' first
    | with_reducible assumption | with_reducible apply KeepsI.done | with_reducible exact KeepsI.trap
    | (intro x; first | (refine Keeps.named (z := z) (s := x) ?_ ?_; focus subst x) | skip) | with_reducible apply State.issue_keeps
    | with_reducible apply State.opBranch_keeps

theorem execJ_keeps {z s s' : State} (off : BitVec 26) (h : Keeps z s) (e : execJ off s = .next s') : Keeps z s' := by
  refine Keeps.of_next e ?_
  repeat' first
    | with_reducible assumption | with_reducible apply KeepsI.done | with_reducible exact KeepsI.trap
    | (intro x; first | (refine Keeps.named (z := z) (s := x) ?_ ?_; focus subst x) | skip) | with_reducible apply State.issue_keeps
    | with_reducible apply State.opJ_keeps

theorem execJal_keeps {z s s' : State} (off : BitVec 26) (h : Keeps z s) (e : execJal off s = .next s') : Keeps z s' := by
  refine Keeps.of_next e ?_
  repeat' first
    | with_reducible assumption | with_reducible apply KeepsI.done | with_reducible exact KeepsI.trap
    | (intro x; first | (refine Keeps.named (z := z) (s := x) ?_ ?_; focus subst x) | skip) | with_reducible apply State.issue_keeps
    | with_reducible apply State.opJal_keeps

theorem execJr_keeps {z s s' : State} (a : Fin 16) (h : Keeps z s) (e : execJr a s = .next s') : Keeps z s' := by
  refine Keeps.of_next e ?_
  repeat' first
    | with_reducible assumption | with_reducible apply KeepsI.done | with_reducible exact KeepsI.trap
    | (intro x; first | (refine Keeps.named (z := z) (s := x) ?_ ?_; focus subst x) | skip) | with_reducible apply State.issue_keeps
    | with_reducible apply State.opJr_keeps

theorem execWait_keeps {z s s' : State} (a : Fin 16) (h : Keeps z s) (e : execWait a s = .next s') : Keeps z s' := by
  refine Keeps.of_next e ?_
  repeat' first
    | with_reducible assumption | with_reducible apply KeepsI.done | with_reducible exact KeepsI.trap
    | (intro x; first | (refine Keeps.named (z := z) (s := x) ?_ ?_; focus subst x) | skip) | with_reducible apply State.issue_keeps
    | with_reducible apply State.opWait_keeps

theorem execWaitResume_keeps {z s s' : State} (dt : ℕ) (h : Keeps z s) (e : execWaitResume dt s = .next s') : Keeps z s' := by
  refine Keeps.of_next e ?_
  repeat' first
    | with_reducible assumption | (intro x; first | (refine Keeps.named (z := z) (s := x) ?_ ?_; focus subst x) | skip)
    | with_reducible apply State.main_keeps | with_reducible apply State.waitResume_keeps

theorem execWaitc_keeps {z s s' : State} (imm : BitVec 18) (h : Keeps z s) (e : execWaitc imm s = .next s') : Keeps z s' := by
  refine Keeps.of_next e ?_
  repeat' first
    | with_reducible assumption | with_reducible apply KeepsI.done | with_reducible exact KeepsI.trap
    | (intro x; first | (refine Keeps.named (z := z) (s := x) ?_ ?_; focus subst x) | skip) | with_reducible apply State.issue_keeps
    | with_reducible apply State.advance_keeps | with_reducible refine Keeps.of_done (by assumption) ?_

theorem execTimedAt_keeps {z s s' : State} (d : Fin 16) (a : Fin 16) (b : Fin 16) (k : BitVec 6) (h : Keeps z s) (e : execTimedAt d a b k s =
    .next s') :
    Keeps z s' := by
  refine Keeps.of_next e ?_
  repeat' first
    | with_reducible assumption | with_reducible apply KeepsI.done | with_reducible exact KeepsI.trap
    | (intro x; first | (refine Keeps.named (z := z) (s := x) ?_ ?_; focus subst x) | skip) | with_reducible apply State.issue_keeps
    | with_reducible apply State.opAt_keeps

theorem execTimedAction_keeps {z s s' : State} (dt : ℕ) (k : Fin 16) (h : Keeps z s) (e : execTimedAction dt k s = .next s') : Keeps z s' := by
  refine Keeps.of_next e ?_
  repeat' first
    | with_reducible assumption | (intro x; first | (refine Keeps.named (z := z) (s := x) ?_ ?_; focus subst x) | skip)
    | with_reducible apply State.main_keeps | with_reducible apply State.timedAction_keeps

theorem execTadd_keeps {z s s' : State} (d : Fin 16) (a : Fin 16) (b : Fin 16) (h : Keeps z s) (e : execTadd d a b s = .next s') : Keeps z s' := by
  refine Keeps.of_next e ?_
  repeat' first
    | with_reducible assumption | with_reducible apply KeepsI.done | with_reducible exact KeepsI.trap
    | (intro x; first | (refine Keeps.named (z := z) (s := x) ?_ ?_; focus subst x) | skip) | with_reducible apply State.issue_keeps
    | with_reducible apply State.opTadd_keeps

theorem execLnch_keeps {z s s' : State} (d : Fin 16) (a : Fin 16) (b : Fin 16) (h : Keeps z s) (e : execLnch d a b s = .next s') : Keeps z s' := by
  refine Keeps.of_next e ?_
  repeat' first
    | with_reducible assumption | with_reducible apply KeepsI.done | with_reducible exact KeepsI.trap
    | (intro x; first | (refine Keeps.named (z := z) (s := x) ?_ ?_; focus subst x) | skip) | with_reducible apply State.issue_keeps
    | with_reducible apply State.opLnch_keeps | with_reducible refine Keeps.lit ?_ rfl rfl

theorem execFrmStart_keeps {z s s' : State} (d : Fin 16) (a : Fin 16) (b : Fin 16) (h : Keeps z s) (e : execFrmStart d a b s = .next s') :
    Keeps z s' := by
  refine Keeps.of_next e ?_
  repeat' first
    | with_reducible assumption | with_reducible apply KeepsI.done | with_reducible exact KeepsI.trap
    | (intro x; first | (refine Keeps.named (z := z) (s := x) ?_ ?_; focus subst x) | skip) | with_reducible apply State.issue_keeps
    | with_reducible apply State.opFrmStart_keeps

theorem execFrmStop_keeps {z s s' : State} (d : Fin 16) (a : Fin 16) (h : Keeps z s) (e : execFrmStop d a s = .next s') : Keeps z s' := by
  refine Keeps.of_next e ?_
  repeat' first
    | with_reducible assumption | with_reducible apply KeepsI.done | with_reducible exact KeepsI.trap
    | (intro x; first | (refine Keeps.named (z := z) (s := x) ?_ ?_; focus subst x) | skip) | with_reducible apply State.issue_keeps
    | with_reducible apply State.opFrmStop_keeps

theorem execPost_keeps {z s s' : State} (d : Fin 16) (a : Fin 16) (imm : BitVec 18) (h : Keeps z s) (e : execPost d a imm s = .next s') :
    Keeps z s' := by
  refine Keeps.of_next e ?_
  repeat' first
    | with_reducible assumption | with_reducible apply KeepsI.done | with_reducible exact KeepsI.trap
    | (intro x; first | (refine Keeps.named (z := z) (s := x) ?_ ?_; focus subst x) | skip) | with_reducible apply State.issue_keeps
    | with_reducible apply State.opPost_keeps

theorem execPostR_keeps {z s s' : State} (d : Fin 16) (a : Fin 16) (imm : BitVec 18) (h : Keeps z s) (e : execPostR d a imm s = .next s') :
    Keeps z s' := by
  refine Keeps.of_next e ?_
  repeat' first
    | with_reducible assumption | with_reducible apply KeepsI.done | with_reducible exact KeepsI.trap
    | (intro x; first | (refine Keeps.named (z := z) (s := x) ?_ ?_; focus subst x) | skip) | with_reducible apply State.issue_keeps
    | with_reducible apply State.opPostr_keeps

theorem execPostStallEnd_keeps {z s s' : State} (dt : ℕ) (q : Fin 128) (h : Keeps z s) (e : execPostStallEnd dt q s = .next s') : Keeps z s' := by
  refine Keeps.of_next e ?_
  repeat' first
    | with_reducible assumption | (intro x; first | (refine Keeps.named (z := z) (s := x) ?_ ?_; focus subst x) | skip)
    | with_reducible apply State.main_keeps | with_reducible apply State.postStallEnd_keeps

theorem execTake_keeps {z s s' : State} (d : Fin 16) (a : Fin 16) (imm : BitVec 18) (h : Keeps z s) (e : execTake d a imm s = .next s') :
    Keeps z s' := by
  refine Keeps.of_next e ?_
  repeat' first
    | with_reducible assumption | with_reducible apply KeepsI.done | with_reducible exact KeepsI.trap
    | (intro x; first | (refine Keeps.named (z := z) (s := x) ?_ ?_; focus subst x) | skip) | with_reducible apply State.issue_keeps
    | with_reducible apply State.opTake_keeps

theorem execVjob_keeps {z s s' : State} (d : Fin 16) (a : Fin 16) (imm : BitVec 18) (h : Keeps z s) (e : execVjob d a imm s = .next s') :
    Keeps z s' := by
  refine Keeps.of_next e ?_
  repeat' first
    | with_reducible assumption | with_reducible apply KeepsI.done | with_reducible exact KeepsI.trap
    | (intro x; first | (refine Keeps.named (z := z) (s := x) ?_ ?_; focus subst x) | skip) | with_reducible apply State.issue_keeps
    | with_reducible apply State.opVjob_keeps

theorem execFenceCsr_keeps {z s s' : State}  (h : Keeps z s) (e : execFenceCsr s = .next s') : Keeps z s' := by
  refine Keeps.of_next e ?_
  repeat' first
    | with_reducible assumption | with_reducible apply KeepsI.done | with_reducible exact KeepsI.trap
    | (intro x; first | (refine Keeps.named (z := z) (s := x) ?_ ?_; focus subst x) | skip) | with_reducible apply State.issue_keeps
    | with_reducible apply State.opFence_keeps

theorem execFenceMem_keeps {z s s' : State}  (h : Keeps z s) (e : execFenceMem s = .next s') : Keeps z s' := by
  refine Keeps.of_next e ?_
  repeat' first
    | with_reducible assumption | with_reducible apply KeepsI.done | with_reducible exact KeepsI.trap
    | (intro x; first | (refine Keeps.named (z := z) (s := x) ?_ ?_; focus subst x) | skip) | with_reducible apply State.issue_keeps
    | with_reducible apply State.opFence_keeps

theorem execFenceQ_keeps {z s s' : State}  (h : Keeps z s) (e : execFenceQ s = .next s') : Keeps z s' := by
  refine Keeps.of_next e ?_
  repeat' first
    | with_reducible assumption | with_reducible apply KeepsI.done | with_reducible exact KeepsI.trap
    | (intro x; first | (refine Keeps.named (z := z) (s := x) ?_ ?_; focus subst x) | skip) | with_reducible apply State.issue_keeps
    | with_reducible apply State.opFence_keeps

theorem execFenceAll_keeps {z s s' : State}  (h : Keeps z s) (e : execFenceAll s = .next s') : Keeps z s' := by
  refine Keeps.of_next e ?_
  repeat' first
    | with_reducible assumption | with_reducible apply KeepsI.done | with_reducible exact KeepsI.trap
    | (intro x; first | (refine Keeps.named (z := z) (s := x) ?_ ?_; focus subst x) | skip) | with_reducible apply State.issue_keeps
    | with_reducible apply State.opFence_keeps

theorem execFenceResume_keeps {z s s' : State} (dt : ℕ) (h : Keeps z s) (e : execFenceResume dt s = .next s') : Keeps z s' := by
  refine Keeps.of_next e ?_
  repeat' first
    | with_reducible assumption | (intro x; first | (refine Keeps.named (z := z) (s := x) ?_ ?_; focus subst x) | skip)
    | with_reducible apply State.main_keeps | with_reducible apply State.fenceResume_keeps

theorem execCsrtimeout_keeps {z s s' : State} (dt : ℕ) (h : Keeps z s) (e : execCsrtimeout dt s = .next s') : Keeps z s' := by
  refine Keeps.of_next e ?_
  repeat' first
    | with_reducible assumption | (intro x; first | (refine Keeps.named (z := z) (s := x) ?_ ?_; focus subst x) | skip)
    | with_reducible apply State.main_keeps | with_reducible apply State.csrTimeout_keeps | with_reducible refine Keeps.lit ?_ rfl rfl

theorem execTrap_keeps {z s s' : State} (code : BitVec 26) (h : Keeps z s) (e : execTrap code s = .next s') : Keeps z s' := by
  refine Keeps.of_next e ?_
  repeat' first
    | with_reducible assumption | with_reducible apply KeepsI.done | with_reducible exact KeepsI.trap
    | (intro x; first | (refine Keeps.named (z := z) (s := x) ?_ ?_; focus subst x) | skip) | with_reducible apply State.issue_keeps
    | with_reducible apply opTrap_keeps

theorem execEret_keeps {z s s' : State} (d : Fin 16) (a : Fin 16) (b : Fin 16) (h : Keeps z s) (e : execEret d a b s = .next s') : Keeps z s' := by
  refine Keeps.of_next e ?_
  repeat' first
    | with_reducible assumption | with_reducible apply KeepsI.done | with_reducible exact KeepsI.trap
    | (intro x; first | (refine Keeps.named (z := z) (s := x) ?_ ?_; focus subst x) | skip) | with_reducible apply State.issue_keeps
    | with_reducible apply State.opEret_keeps

theorem execIdle_keeps {z s s' : State} (d : Fin 16) (a : Fin 16) (h : Keeps z s) (e : execIdle d a s = .next s') : Keeps z s' := by
  refine Keeps.of_next e ?_
  repeat' first
    | with_reducible assumption | with_reducible apply KeepsI.done | with_reducible exact KeepsI.trap
    | (intro x; first | (refine Keeps.named (z := z) (s := x) ?_ ?_; focus subst x) | skip) | with_reducible apply State.issue_keeps
    | with_reducible apply State.opIdle_keeps

theorem execIdleWake_keeps {z s s' : State} (dt : ℕ) (h : Keeps z s) (e : execIdleWake dt s = .next s') : Keeps z s' := by
  refine Keeps.of_next e ?_
  repeat' first
    | with_reducible assumption | (intro x; first | (refine Keeps.named (z := z) (s := x) ?_ ?_; focus subst x) | skip)
    | with_reducible apply State.main_keeps | with_reducible apply State.idleWake_keeps

theorem execCkpt_keeps {z s s' : State}  (h : Keeps z s) (e : execCkpt s = .next s') : Keeps z s' := by
  refine Keeps.of_next e ?_
  repeat' first
    | with_reducible assumption | with_reducible apply KeepsI.done | with_reducible exact KeepsI.trap
    | (intro x; first | (refine Keeps.named (z := z) (s := x) ?_ ?_; focus subst x) | skip) | with_reducible apply State.issue_keeps
    | with_reducible apply State.opCkpt_keeps

theorem execIllegalInstruction_keeps {z s s' : State} (w : Word) (h : Keeps z s) (e : execIllegalInstruction w s = .next s') : Keeps z s' := by
  refine Keeps.of_next e ?_
  repeat' first
    | with_reducible assumption | with_reducible apply KeepsI.done | with_reducible exact KeepsI.trap
    | (intro x; first | (refine Keeps.named (z := z) (s := x) ?_ ?_; focus subst x) | skip) | with_reducible apply State.issue_keeps
    | with_reducible apply illegal_keeps | split | with_reducible refine Keeps.of_done (by assumption) ?_

end Sys2Proof.Machine
end

