-- ==== Sys2Proof/Laws/Kept/CmdCsr.lean ====
section
/-! SUPPORT. What every function of Machine/CmdCsr.lean keeps (Laws/Keep.lean). -/

set_option linter.unusedTactic false
set_option linter.unreachableTactic false

namespace Sys2Proof.Machine

theorem execQueEnable_keeps {z s s' : State} (n : Fin 128) (v : Word) (h : Keeps z s) (e : execQueEnable n v s = .next s') : Keeps z s' := by
  refine Keeps.of_next e ?_
  repeat' first
    | with_reducible assumption | with_reducible apply State.wr_keeps

theorem execQueHeadWrite_keeps {z s s' : State} (n : Fin 128) (v : Word) (h : Keeps z s) (e : execQueHeadWrite n v s = .next s') : Keeps z s' := by
  refine Keeps.of_next e ?_
  repeat' first
    | with_reducible assumption | with_reducible apply State.wr_keeps

theorem execResultRegisterRead_keeps {z s s' : State} (who : Fin 2) (addr : ℕ) (h : Keeps z s) (e : execResultRegisterRead who addr s = .next s')
    :
    Keeps z s' := by
  refine Keeps.of_next e ?_
  repeat' first
    | with_reducible assumption | (intro x; first | (refine Keeps.named (z := z) (s := x) ?_ ?_; focus subst x) | skip)
    | with_reducible apply State.rd_keeps | with_reducible apply State.readResultRow_keeps

theorem execPairLoRead_keeps {z s s' : State} (who : Fin 2) (addr : ℕ) (h : Keeps z s) (e : execPairLoRead who addr s = .next s') : Keeps z s' := by
  refine Keeps.of_next e ?_
  repeat' first
    | with_reducible assumption | (intro x; first | (refine Keeps.named (z := z) (s := x) ?_ ?_; focus subst x) | skip)
    | with_reducible apply State.rd_keeps | with_reducible apply State.readLoRow_keeps | with_reducible refine Keeps.lit ?_ rfl rfl

theorem execPairHiWrite_keeps {z s s' : State} (who : Fin 2) (addr : ℕ) (v : Word) (h : Keeps z s) (e : execPairHiWrite who addr v s = .next s') :
    Keeps z s' := by
  refine Keeps.of_next e ?_
  repeat' first
    | with_reducible assumption | with_reducible apply State.wr_keeps

theorem execCsrWrite_keeps {z s s' : State} (who : Fin 2) (addr : ℕ) (v : Word) (h : Keeps z s) (e : execCsrWrite who addr v s = .next s') :
    Keeps z s' := by
  refine Keeps.of_next e ?_
  repeat' first
    | with_reducible assumption | with_reducible apply State.wr_keeps

theorem execFeSuperframe_keeps {z s s' : State} (dt : ℕ) (h : Keeps z s) (e : execFeSuperframe dt s = .next s') : Keeps z s' := by
  refine Keeps.of_next e ?_
  repeat' first
    | with_reducible assumption | (intro x; first | (refine Keeps.named (z := z) (s := x) ?_ ?_; focus subst x) | skip)
    | with_reducible apply State.isl_keeps | with_reducible apply State.superframe_keeps

theorem execIngressFifoDrained_keeps {z s s' : State} (dt : ℕ) (l : Fin 64) (h : Keeps z s) (e : execIngressFifoDrained dt l s = .next s') :
    Keeps z s' := by
  refine Keeps.of_next e ?_
  repeat' first
    | with_reducible assumption | (intro x; first | (refine Keeps.named (z := z) (s := x) ?_ ?_; focus subst x) | skip)
    | with_reducible apply State.isl_keeps | with_reducible apply State.fifoDrained_keeps

theorem execCsrAcknowledge_keeps {z s s' : State} (dt : ℕ) (island : Fin 12) (h : Keeps z s) (e : execCsrAcknowledge dt island s = .next s') :
    Keeps z s' := by
  refine Keeps.of_next e ?_
  repeat' first
    | with_reducible assumption | (intro x; first | (refine Keeps.named (z := z) (s := x) ?_ ?_; focus subst x) | skip)
    | with_reducible apply State.main_keeps | with_reducible apply State.csrAck_keeps

theorem execTdcCalibrationDone_keeps {z s s' : State} (dt : ℕ) (u : Fin 8) (lsb : ℕ) (dnl : ℕ) (h : Keeps z s) (e : execTdcCalibrationDone dt u
    lsb dnl s = .next s') :
    Keeps z s' := by
  refine Keeps.of_next e ?_
  repeat' first
    | with_reducible assumption | (intro x; first | (refine Keeps.named (z := z) (s := x) ?_ ?_; focus subst x) | skip)
    | with_reducible apply State.main_keeps | with_reducible apply State.tdcCalDone_keeps

theorem execImageSlotWriteDone_keeps {z s s' : State} (dt : ℕ) (sigOk : Bool) (hashOk : Bool) (h : Keeps z s) (e : execImageSlotWriteDone dt sigOk
    hashOk s = .next s') :
    Keeps z s' := by
  refine Keeps.of_next e ?_
  repeat' first
    | with_reducible assumption | (intro x; first | (refine Keeps.named (z := z) (s := x) ?_ ?_; focus subst x) | skip)
    | with_reducible apply State.main_keeps | with_reducible apply State.slotDone_keeps | with_reducible refine Keeps.lit ?_ rfl rfl

theorem execProfileWriteDone_keeps {z s s' : State} (dt : ℕ) (h : Keeps z s) (e : execProfileWriteDone dt s = .next s') : Keeps z s' := by
  refine Keeps.of_next e ?_
  repeat' first
    | with_reducible assumption | (intro x; first | (refine Keeps.named (z := z) (s := x) ?_ ?_; focus subst x) | skip)
    | with_reducible apply State.main_keeps | with_reducible apply State.profDone_keeps

theorem execLifeCycleWipeDone_keeps {z s s' : State} (dt : ℕ) (h : Keeps z s) (e : execLifeCycleWipeDone dt s = .next s') : Keeps z s' := by
  refine Keeps.of_next e ?_
  repeat' first
    | with_reducible assumption | (intro x; first | (refine Keeps.named (z := z) (s := x) ?_ ?_; focus subst x) | skip)
    | with_reducible apply State.after_keeps | with_reducible apply State.wipeDone_keeps | with_reducible refine Keeps.lit ?_ rfl rfl

theorem execStartUpFailure_keeps {z s s' : State} (dt : ℕ) (kind : Fin 7) (h : Keeps z s) (e : execStartUpFailure dt kind s = .next s') :
    Keeps z s' := by
  refine Keeps.of_next e ?_
  repeat' first
    | with_reducible assumption | (intro x; first | (refine Keeps.named (z := z) (s := x) ?_ ?_; focus subst x) | skip)
    | with_reducible apply State.run_keeps | with_reducible apply State.startFail_keeps

theorem execStartUpProfileLoaded_keeps {z s s' : State} (dt : ℕ) (bad : ℕ) (h : Keeps z s) (e : execStartUpProfileLoaded dt bad s = .next s') :
    Keeps z s' := by
  refine Keeps.of_next e ?_
  repeat' first
    | with_reducible assumption | (intro x; first | (refine Keeps.named (z := z) (s := x) ?_ ?_; focus subst x) | skip)
    | with_reducible apply State.run_keeps | with_reducible apply State.startProfile_keeps

theorem execSramScrub_keeps {z s s' : State} (dt : ℕ) (mem : Fin 6) (a : ℕ) (double : Bool) (h : Keeps z s) (e : execSramScrub dt mem a double s =
    .next s') :
    Keeps z s' := by
  refine Keeps.of_next e ?_
  repeat' first
    | with_reducible assumption | (intro x; first | (refine Keeps.named (z := z) (s := x) ?_ ?_; focus subst x) | skip)
    | with_reducible apply State.main_keeps | with_reducible apply State.sramScrub_keeps

theorem execConfigurationParityError_keeps {z s s' : State} (dt : ℕ) (island : Fin 12) (h : Keeps z s) (e : execConfigurationParityError dt island
    s = .next s') :
    Keeps z s' := by
  refine Keeps.of_next e ?_
  repeat' first
    | with_reducible assumption | (intro x; first | (refine Keeps.named (z := z) (s := x) ?_ ?_; focus subst x) | skip)
    | with_reducible apply State.main_keeps | with_reducible apply State.parityError_keeps | with_reducible refine Keeps.lit ?_ rfl rfl

theorem execSupervisorFault_keeps {z s s' : State} (dt : ℕ) (h : Keeps z s) (e : execSupervisorFault dt s = .next s') : Keeps z s' := by
  refine Keeps.of_next e ?_
  repeat' first
    | with_reducible assumption | (intro x; first | (refine Keeps.named (z := z) (s := x) ?_ ?_; focus subst x) | skip)
    | with_reducible apply State.run_keeps | with_reducible apply State.supervisorFault_keeps

theorem execBaseplateTemperatureCheck_keeps {z s s' : State} (dt : ℕ) (temp : ℤ) (h : Keeps z s) (e : execBaseplateTemperatureCheck dt temp s =
    .next s') :
    Keeps z s' := by
  refine Keeps.of_next e ?_
  repeat' first
    | with_reducible assumption | (intro x; first | (refine Keeps.named (z := z) (s := x) ?_ ?_; focus subst x) | skip)
    | with_reducible apply State.run_keeps | with_reducible apply State.baseplate_keeps

theorem execKa3v3Change_keeps {z s s' : State} (dt : ℕ) (ok : Bool) (h : Keeps z s) (e : execKa3v3Change dt ok s = .next s') : Keeps z s' := by
  refine Keeps.of_next e ?_
  repeat' first
    | with_reducible assumption | (intro x; first | (refine Keeps.named (z := z) (s := x) ?_ ?_; focus subst x) | skip)
    | with_reducible apply State.after_keeps | with_reducible apply State.kaChange_keeps

theorem execRngfailClear_keeps {z s s' : State} (dt : ℕ) (h : Keeps z s) (e : execRngfailClear dt s = .next s') : Keeps z s' := by
  refine Keeps.of_next e ?_
  repeat' first
    | with_reducible assumption | (intro x; first | (refine Keeps.named (z := z) (s := x) ?_ ?_; focus subst x) | skip)
    | with_reducible apply State.run_keeps | with_reducible apply State.rngClear_keeps | with_reducible apply Keeps.cond
    | with_reducible refine Keeps.lit ?_ rfl rfl

theorem execDiagnosticPulse_keeps {z s s' : State} (dt : ℕ) (n : Fin 16) (h : Keeps z s) (e : execDiagnosticPulse dt n s = .next s') :
    Keeps z s' := by
  refine Keeps.of_next e ?_
  repeat' first
    | with_reducible assumption | (intro x; first | (refine Keeps.named (z := z) (s := x) ?_ ?_; focus subst x) | skip)
    | with_reducible apply State.main_keeps | with_reducible apply State.diagPulse_keeps

theorem execPtpLockChange_keeps {z s s' : State} (dt : ℕ) (ok : Bool) (h : Keeps z s) (e : execPtpLockChange dt ok s = .next s') : Keeps z s' := by
  refine Keeps.of_next e ?_
  repeat' first
    | with_reducible assumption | (intro x; first | (refine Keeps.named (z := z) (s := x) ?_ ?_; focus subst x) | skip)
    | with_reducible apply State.main_keeps | with_reducible apply State.ptpLock_keeps

theorem execEthernetFrameDiscarded_keeps {z s s' : State} (dt : ℕ) (p : Fin 8) (h : Keeps z s) (e : execEthernetFrameDiscarded dt p s = .next s')
    :
    Keeps z s' := by
  refine Keeps.of_next e ?_
  repeat' first
    | with_reducible assumption
    | (intro x; first | (refine Keeps.named (z := z) (s := x) ?_ ?_; focus subst x) | (refine Keeps.named (z := z) (s := x.1) ?_ ?_; focus subst x) | (refine Keeps.named (z := z) (s := x.2) ?_ ?_; focus subst x) | skip)
    | with_reducible apply State.isl_keeps | with_reducible apply State.ethOther_keeps

theorem execTapOperation_keeps {z s s' : State} (dt : ℕ) (ir : Fin 8) (din : ℕ) (h : Keeps z s) (e : execTapOperation dt ir din s = .next s') :
    Keeps z s' := by
  refine Keeps.of_next e ?_
  repeat' first
    | with_reducible assumption | (intro x; first | (refine Keeps.named (z := z) (s := x) ?_ ?_; focus subst x) | skip)
    | with_reducible apply State.after_keeps | with_reducible apply State.tapScan_keeps

end Sys2Proof.Machine
end

