-- ==== Sys2Proof/Laws/Kept/CmdEvb.lean ====
section
/-! SUPPORT. What every function of Machine/CmdEvb.lean keeps (Laws/Keep.lean). -/

set_option linter.unusedTactic false
set_option linter.unreachableTactic false

namespace Sys2Proof.Machine

theorem execEvbWindowClose_keeps {z s s' : State} (dt : ℕ) (h : Keeps z s) (e : execEvbWindowClose dt s = .next s') : Keeps z s' := by
  refine Keeps.of_next e ?_
  repeat' first
    | with_reducible assumption | (intro x; first | (refine Keeps.named (z := z) (s := x) ?_ ?_; focus subst x) | skip)
    | with_reducible apply State.isl_keeps | with_reducible apply State.evbClose_keeps

theorem execLocalStragglerPost_keeps {z s s' : State} (dt : ℕ) (h : Keeps z s) (e : execLocalStragglerPost dt s = .next s') : Keeps z s' := by
  refine Keeps.of_next e ?_
  repeat' first
    | with_reducible assumption | (intro x; first | (refine Keeps.named (z := z) (s := x) ?_ ?_; focus subst x) | skip)
    | with_reducible apply State.isl_keeps | with_reducible apply State.stragglerPost_keeps

theorem execEvbHeadAdvance_keeps {z s s' : State} (dt : ℕ) (l : Fin 64) (h : Keeps z s) (e : execEvbHeadAdvance dt l s = .next s') : Keeps z s' := by
  refine Keeps.of_next e ?_
  repeat' first
    | with_reducible assumption | (intro x; first | (refine Keeps.named (z := z) (s := x) ?_ ?_; focus subst x) | skip)
    | with_reducible apply State.isl_keeps | with_reducible apply State.evbAdvance_keeps

theorem execCand_keeps {z s s' : State} (dt : ℕ) (dev : Fin 1024) (c : Fin 4) (stamp : ℕ) (cid : ℕ) (h : Keeps z s) (e : execCand dt dev c stamp
    cid s = .next s') :
    Keeps z s' := by
  refine Keeps.of_next e ?_
  repeat' first
    | with_reducible assumption | (intro x; first | (refine Keeps.named (z := z) (s := x) ?_ ?_; focus subst x) | skip)
    | with_reducible apply State.isl_keeps | with_reducible apply State.cand_keeps

theorem execDeciderDecide_keeps {z s s' : State} (dt : ℕ) (h : Keeps z s) (e : execDeciderDecide dt s = .next s') : Keeps z s' := by
  refine Keeps.of_next e ?_
  repeat' first
    | with_reducible assumption | (intro x; first | (refine Keeps.named (z := z) (s := x) ?_ ?_; focus subst x) | skip)
    | with_reducible apply State.isl_keeps | with_reducible apply State.decDecide_keeps

theorem execAccept_keeps {z s s' : State} (dt : ℕ) (c : Fin 4) (epoch : ℕ) (cid : ℕ) (stamp : ℕ) (num : ℕ) (h : Keeps z s) (e : execAccept dt c
    epoch cid stamp num s = .next s') :
    Keeps z s' := by
  refine Keeps.of_next e ?_
  repeat' first
    | with_reducible assumption | (intro x; first | (refine Keeps.named (z := z) (s := x) ?_ ?_; focus subst x) | skip)
    | with_reducible apply State.isl_keeps | with_reducible apply State.acceptMsg_keeps

theorem execReject_keeps {z s s' : State} (dt : ℕ) (c : Fin 4) (cid : ℕ) (h : Keeps z s) (e : execReject dt c cid s = .next s') : Keeps z s' := by
  refine Keeps.of_next e ?_
  repeat' first
    | with_reducible assumption | (intro x; first | (refine Keeps.named (z := z) (s := x) ?_ ?_; focus subst x) | skip)
    | with_reducible apply State.isl_keeps | with_reducible apply State.rejectMsg_keeps

theorem execCandTimeout_keeps {z s s' : State} (dt : ℕ) (h : Keeps z s) (e : execCandTimeout dt s = .next s') : Keeps z s' := by
  refine Keeps.of_next e ?_
  repeat' first
    | with_reducible assumption | (intro x; first | (refine Keeps.named (z := z) (s := x) ?_ ?_; focus subst x) | skip)
    | with_reducible apply State.isl_keeps | with_reducible apply State.candTimeout_keeps

theorem execBuild_keeps {z s s' : State} (dt : ℕ) (epoch : ℕ) (num : ℕ) (stamp : ℕ) (devs : List ℕ) (h : Keeps z s) (e : execBuild dt epoch num
    stamp devs s = .next s') :
    Keeps z s' := by
  refine Keeps.of_next e ?_
  repeat' first
    | with_reducible assumption | (intro x; first | (refine Keeps.named (z := z) (s := x) ?_ ?_; focus subst x) | skip)
    | with_reducible apply State.isl_keeps | with_reducible apply State.build_keeps

theorem execBusy_keeps {z s s' : State} (dt : ℕ) (dev : Fin 1024) (busy : Bool) (h : Keeps z s) (e : execBusy dt dev busy s = .next s') :
    Keeps z s' := by
  refine Keeps.of_next e ?_
  repeat' first
    | with_reducible assumption | (intro x; first | (refine Keeps.named (z := z) (s := x) ?_ ?_; focus subst x) | skip)
    | with_reducible apply State.isl_keeps | with_reducible apply State.decBusyMsg_keeps

theorem execGrant_keeps {z s s' : State} (dt : ℕ) (bnum : Fin 4) (bepoch : ℕ) (units : ℕ) (h : Keeps z s) (e : execGrant dt bnum bepoch units s =
    .next s') :
    Keeps z s' := by
  refine Keeps.of_next e ?_
  repeat' first
    | with_reducible assumption | (intro x; first | (refine Keeps.named (z := z) (s := x) ?_ ?_; focus subst x) | skip)
    | with_reducible apply State.isl_keeps | with_reducible apply State.grant_keeps

theorem execCredit_keeps {z s s' : State} (dt : ℕ) (bnum : Fin 4) (bepoch : ℕ) (units : ℕ) (fseq : ℕ) (h : Keeps z s) (e : execCredit dt bnum
    bepoch units fseq s = .next s') :
    Keeps z s' := by
  refine Keeps.of_next e ?_
  repeat' first
    | with_reducible assumption | (intro x; first | (refine Keeps.named (z := z) (s := x) ?_ ?_; focus subst x) | skip)
    | with_reducible apply State.isl_keeps | with_reducible apply State.credit_keeps

theorem execFragmentSend_keeps {z s s' : State} (dt : ℕ) (h : Keeps z s) (e : execFragmentSend dt s = .next s') : Keeps z s' := by
  refine Keeps.of_next e ?_
  repeat' first
    | with_reducible assumption | (intro x; first | (refine Keeps.named (z := z) (s := x) ?_ ?_; focus subst x) | skip)
    | with_reducible apply State.isl_keeps | with_reducible apply State.fragSend_keeps

theorem execFragmentReceive_keeps {z s s' : State} (dt : ℕ) (words : List ℕ) (h : Keeps z s) (e : execFragmentReceive dt words s = .next s') :
    Keeps z s' := by
  refine Keeps.of_next e ?_
  repeat' first
    | with_reducible assumption | (intro x; first | (refine Keeps.named (z := z) (s := x) ?_ ?_; focus subst x) | skip)
    | with_reducible apply State.isl_keeps | with_reducible apply State.fragReceive_keeps

theorem execEventCloseTimeout_keeps {z s s' : State} (dt : ℕ) (h : Keeps z s) (e : execEventCloseTimeout dt s = .next s') : Keeps z s' := by
  refine Keeps.of_next e ?_
  repeat' first
    | with_reducible assumption | (intro x; first | (refine Keeps.named (z := z) (s := x) ?_ ?_; focus subst x) | skip)
    | with_reducible apply State.isl_keeps | with_reducible apply State.eventTimeout_keeps

end Sys2Proof.Machine
end

