-- ==== Sys2Proof/Laws/Kept/CmdFab.lean ====
section
/-! SUPPORT. What every function of Machine/CmdFab.lean keeps (Laws/Keep.lean). -/

set_option linter.unusedTactic false
set_option linter.unreachableTactic false

namespace Sys2Proof.Machine

theorem execFabricFrame_keeps {z s s' : State} (dt : ℕ) (p : Fin 8) (sfd : Bool) (f : Frame) (done : Bool) (h : Keeps z s) (e : execFabricFrame dt
    p sfd f done s = .next s') :
    Keeps z s' := by
  refine Keeps.of_next e ?_
  repeat' first
    | with_reducible assumption | (intro x; first | (refine Keeps.named (z := z) (s := x) ?_ ?_; focus subst x) | skip)
    | with_reducible apply State.isl_keeps | with_reducible apply State.fabFrame_keeps

theorem execPher_keeps {z s s' : State} (dt : ℕ) (p : Fin 8) (f : Frame) (h : Keeps z s) (e : execPher dt p f s = .next s') : Keeps z s' := by
  refine Keeps.of_next e ?_
  repeat' first
    | with_reducible assumption | (intro x; first | (refine Keeps.named (z := z) (s := x) ?_ ?_; focus subst x) | skip)
    | with_reducible apply State.isl_keeps | with_reducible apply State.pher_keeps

theorem execPherSend_keeps {z s s' : State} (dt : ℕ) (p : Fin 8) (h : Keeps z s) (e : execPherSend dt p s = .next s') : Keeps z s' := by
  refine Keeps.of_next e ?_
  repeat' first
    | with_reducible assumption | (intro x; first | (refine Keeps.named (z := z) (s := x) ?_ ?_; focus subst x) | skip)
    | with_reducible apply State.isl_keeps | with_reducible apply State.pherSend_keeps | with_reducible refine Keeps.lit ?_ rfl rfl

theorem execPeerDead_keeps {z s s' : State} (dt : ℕ) (p : Fin 8) (h : Keeps z s) (e : execPeerDead dt p s = .next s') : Keeps z s' := by
  refine Keeps.of_next e ?_
  repeat' first
    | with_reducible assumption | (intro x; first | (refine Keeps.named (z := z) (s := x) ?_ ?_; focus subst x) | skip)
    | with_reducible apply State.isl_keeps | with_reducible apply State.peerDead_keeps

theorem execFabPortLock_keeps {z s s' : State} (dt : ℕ) (p : Fin 8) (signal : Bool) (lock : Bool) (h : Keeps z s) (e : execFabPortLock dt p signal
    lock s = .next s') :
    Keeps z s' := by
  refine Keeps.of_next e ?_
  repeat' first
    | with_reducible assumption | (intro x; first | (refine Keeps.named (z := z) (s := x) ?_ ?_; focus subst x) | skip)
    | with_reducible apply State.isl_keeps | with_reducible apply State.fabLock_keeps

theorem execFabPortTimeout_keeps {z s s' : State} (dt : ℕ) (p : Fin 8) (h : Keeps z s) (e : execFabPortTimeout dt p s = .next s') : Keeps z s' := by
  refine Keeps.of_next e ?_
  repeat' first
    | with_reducible assumption | (intro x; first | (refine Keeps.named (z := z) (s := x) ?_ ?_; focus subst x) | skip)
    | with_reducible apply State.isl_keeps | with_reducible apply State.fabTimeout_keeps

theorem execLsa_keeps {z s s' : State} (dt : ℕ) (p : Fin 8) (f : Frame) (done : Bool) (h : Keeps z s) (e : execLsa dt p f done s = .next s') :
    Keeps z s' := by
  refine Keeps.of_next e ?_
  repeat' first
    | with_reducible assumption | (intro x; first | (refine Keeps.named (z := z) (s := x) ?_ ?_; focus subst x) | skip)
    | with_reducible apply State.isl_keeps | with_reducible apply State.lsa_keeps

theorem execLsaRefresh_keeps {z s s' : State} (dt : ℕ) (h : Keeps z s) (e : execLsaRefresh dt s = .next s') : Keeps z s' := by
  refine Keeps.of_next e ?_
  repeat' first
    | with_reducible assumption | (intro x; first | (refine Keeps.named (z := z) (s := x) ?_ ?_; focus subst x) | skip)
    | with_reducible apply State.isl_keeps | with_reducible apply State.lsaRefresh_keeps

theorem execLsaMaxage_keeps {z s s' : State} (dt : ℕ) (dev : Fin 1024) (h : Keeps z s) (e : execLsaMaxage dt dev s = .next s') : Keeps z s' := by
  refine Keeps.of_next e ?_
  repeat' first
    | with_reducible assumption | (intro x; first | (refine Keeps.named (z := z) (s := x) ?_ ?_; focus subst x) | skip)
    | with_reducible apply State.isl_keeps | with_reducible apply State.lsaMaxage_keeps

theorem execIdClaimDone_keeps {z s s' : State} (dt : ℕ) (h : Keeps z s) (e : execIdClaimDone dt s = .next s') : Keeps z s' := by
  refine Keeps.of_next e ?_
  repeat' first
    | with_reducible assumption | (intro x; first | (refine Keeps.named (z := z) (s := x) ?_ ?_; focus subst x) | skip)
    | with_reducible apply State.isl_keeps | with_reducible apply State.idTake_keeps

theorem execLcred_keeps {z s s' : State} (dt : ℕ) (p : Fin 8) (w : ℕ) (h : Keeps z s) (e : execLcred dt p w s = .next s') : Keeps z s' := by
  refine Keeps.of_next e ?_
  repeat' first
    | with_reducible assumption | (intro x; first | (refine Keeps.named (z := z) (s := x) ?_ ?_; focus subst x) | skip)
    | with_reducible apply State.isl_keeps | with_reducible apply State.lcred_keeps

theorem execLcredSend_keeps {z s s' : State} (dt : ℕ) (p : Fin 8) (h : Keeps z s) (e : execLcredSend dt p s = .next s') : Keeps z s' := by
  refine Keeps.of_next e ?_
  repeat' first
    | with_reducible assumption | (intro x; first | (refine Keeps.named (z := z) (s := x) ?_ ?_; focus subst x) | skip)
    | with_reducible apply State.isl_keeps | with_reducible apply State.lcredSend_keeps

theorem execFabSend_keeps {z s s' : State} (dt : ℕ) (p : Fin 8) (h : Keeps z s) (e : execFabSend dt p s = .next s') : Keeps z s' := by
  refine Keeps.of_next e ?_
  repeat' first
    | with_reducible assumption | (intro x; first | (refine Keeps.named (z := z) (s := x) ?_ ?_; focus subst x) | skip)
    | with_reducible apply State.isl_keeps | with_reducible apply State.fabSend_keeps

theorem execFwdTapSend_keeps {z s s' : State} (dt : ℕ) (t : Fin 8) (h : Keeps z s) (e : execFwdTapSend dt t s = .next s') : Keeps z s' := by
  refine Keeps.of_next e ?_
  repeat' first
    | with_reducible assumption | (intro x; first | (refine Keeps.named (z := z) (s := x) ?_ ?_; focus subst x) | skip)
    | with_reducible apply State.isl_keeps | with_reducible apply State.fwdTap_keeps

theorem execFwdWrite_keeps {z s s' : State} (t : Fin 8) (v : Word) (h : Keeps z s) (e : execFwdWrite t v s = .next s') : Keeps z s' := by
  refine Keeps.of_next e ?_
  repeat' first
    | with_reducible assumption | with_reducible apply State.wr_keeps

theorem execReassemblyTimeout_keeps {z s s' : State} (dt : ℕ) (h : Keeps z s) (e : execReassemblyTimeout dt s = .next s') : Keeps z s' := by
  refine Keeps.of_next e ?_
  repeat' first
    | with_reducible assumption | (intro x; first | (refine Keeps.named (z := z) (s := x) ?_ ?_; focus subst x) | skip)
    | with_reducible apply State.isl_keeps | with_reducible apply State.reasmTimeout_keeps | split

theorem execRann_keeps {z s s' : State} (dt : ℕ) (r : Fin 6) (dev : Fin 1024) (epoch : ℕ) (prio : ℕ) (stamp : ℕ) (serial : ℕ) (h : Keeps z s) (e :
    execRann dt r dev epoch prio stamp serial s = .next s') :
    Keeps z s' := by
  refine Keeps.of_next e ?_
  repeat' first
    | with_reducible assumption | (intro x; first | (refine Keeps.named (z := z) (s := x) ?_ ?_; focus subst x) | skip)
    | with_reducible apply State.isl_keeps | with_reducible apply State.rann_keeps

theorem execRannRenew_keeps {z s s' : State} (dt : ℕ) (r : Fin 6) (h : Keeps z s) (e : execRannRenew dt r s = .next s') : Keeps z s' := by
  refine Keeps.of_next e ?_
  repeat' first
    | with_reducible assumption | (intro x; first | (refine Keeps.named (z := z) (s := x) ?_ ?_; focus subst x) | skip)
    | with_reducible apply State.isl_keeps | with_reducible apply State.rannRenew_keeps

theorem execRreq_keeps {z s s' : State} (dt : ℕ) (r : Fin 6) (dev : Fin 1024) (epoch : ℕ) (prio : ℕ) (stamp : ℕ) (serial : ℕ) (h : Keeps z s) (e :
    execRreq dt r dev epoch prio stamp serial s = .next s') :
    Keeps z s' := by
  refine Keeps.of_next e ?_
  repeat' first
    | with_reducible assumption | (intro x; first | (refine Keeps.named (z := z) (s := x) ?_ ?_; focus subst x) | skip)
    | with_reducible apply State.isl_keeps | with_reducible apply State.rreq_keeps

theorem execRrel_keeps {z s s' : State} (dt : ℕ) (r : Fin 6) (dev : Fin 1024) (epoch : ℕ) (prio : ℕ) (stamp : ℕ) (h : Keeps z s) (e : execRrel dt
    r dev epoch prio stamp s = .next s') :
    Keeps z s' := by
  refine Keeps.of_next e ?_
  repeat' first
    | with_reducible assumption | (intro x; first | (refine Keeps.named (z := z) (s := x) ?_ ?_; focus subst x) | skip)
    | with_reducible apply State.isl_keeps | with_reducible apply State.rrel_keeps

theorem execRoleLapse_keeps {z s s' : State} (dt : ℕ) (r : Fin 6) (h : Keeps z s) (e : execRoleLapse dt r s = .next s') : Keeps z s' := by
  refine Keeps.of_next e ?_
  repeat' first
    | with_reducible assumption | (intro x; first | (refine Keeps.named (z := z) (s := x) ?_ ?_; focus subst x) | skip)
    | with_reducible apply State.main_keeps | with_reducible apply State.roleLapse_keeps

theorem execRoleRequestWaitEnd_keeps {z s s' : State} (dt : ℕ) (r : Fin 6) (h : Keeps z s) (e : execRoleRequestWaitEnd dt r s = .next s') :
    Keeps z s' := by
  refine Keeps.of_next e ?_
  repeat' first
    | with_reducible assumption | (intro x; first | (refine Keeps.named (z := z) (s := x) ?_ ?_; focus subst x) | skip)
    | with_reducible apply State.main_keeps | with_reducible apply State.roleWaitEnd_keeps

theorem execEthAck_keeps {z s s' : State} (dt : ℕ) (p : Fin 8) (dseq : ℕ) (sack : ℕ) (h : Keeps z s) (e : execEthAck dt p dseq sack s = .next s')
    :
    Keeps z s' := by
  refine Keeps.of_next e ?_
  repeat' first
    | with_reducible assumption | (intro x; first | (refine Keeps.named (z := z) (s := x) ?_ ?_; focus subst x) | skip)
    | with_reducible apply State.isl_keeps | with_reducible apply State.ethAck_keeps

theorem execEthSyncTimeout_keeps {z s s' : State} (dt : ℕ) (p : Fin 8) (h : Keeps z s) (e : execEthSyncTimeout dt p s = .next s') : Keeps z s' := by
  refine Keeps.of_next e ?_
  repeat' first
    | with_reducible assumption | (intro x; first | (refine Keeps.named (z := z) (s := x) ?_ ?_; focus subst x) | skip)
    | with_reducible apply State.isl_keeps | with_reducible apply State.ethSync_keeps

theorem execEthRetransmit_keeps {z s s' : State} (dt : ℕ) (p : Fin 8) (h : Keeps z s) (e : execEthRetransmit dt p s = .next s') : Keeps z s' := by
  refine Keeps.of_next e ?_
  repeat' first
    | with_reducible assumption | (intro x; first | (refine Keeps.named (z := z) (s := x) ?_ ?_; focus subst x) | skip)
    | with_reducible apply State.isl_keeps | with_reducible apply State.ethRetransmit_keeps

theorem execEthPieceSend_keeps {z s s' : State} (dt : ℕ) (p : Fin 8) (h : Keeps z s) (e : execEthPieceSend dt p s = .next s') : Keeps z s' := by
  refine Keeps.of_next e ?_
  repeat' first
    | with_reducible assumption | (intro x; first | (refine Keeps.named (z := z) (s := x) ?_ ?_; focus subst x) | skip)
    | with_reducible apply State.isl_keeps | with_reducible apply State.ethPiece_keeps

theorem execEthMgmtDatagram_keeps {z s s' : State} (dt : ℕ) (p : Fin 8) (ip : ℕ) (port : ℕ) (f : Frame) (h : Keeps z s) (e : execEthMgmtDatagram
    dt p ip port f s = .next s') :
    Keeps z s' := by
  refine Keeps.of_next e ?_
  repeat' first
    | with_reducible assumption | (intro x; first | (refine Keeps.named (z := z) (s := x) ?_ ?_; focus subst x) | skip)
    | with_reducible apply State.isl_keeps | with_reducible apply State.ethMgmt_keeps

theorem execEthArp_keeps {z s s' : State} (dt : ℕ) (p : Fin 8) (reply : Bool) (target : ℕ) (sender : ℕ) (h : Keeps z s) (e : execEthArp dt p reply
    target sender s = .next s') :
    Keeps z s' := by
  refine Keeps.of_next e ?_
  repeat' first
    | with_reducible assumption | (intro x; first | (refine Keeps.named (z := z) (s := x) ?_ ?_; focus subst x) | skip)
    | with_reducible apply State.isl_keeps | with_reducible apply State.ethArp_keeps

theorem execEthNd_keeps {z s s' : State} (dt : ℕ) (p : Fin 8) (solicit : Bool) (target : ℕ) (sender : ℕ) (h : Keeps z s) (e : execEthNd dt p
    solicit target sender s = .next s') :
    Keeps z s' := by
  refine Keeps.of_next e ?_
  repeat' first
    | with_reducible assumption | (intro x; first | (refine Keeps.named (z := z) (s := x) ?_ ?_; focus subst x) | skip)
    | with_reducible apply State.isl_keeps | with_reducible apply State.ethNd_keeps

theorem execEthEcho_keeps {z s s' : State} (dt : ℕ) (p : Fin 8) (v6 : Bool) (target : ℕ) (sender : ℕ) (data : List ℕ) (h : Keeps z s) (e :
    execEthEcho dt p v6 target sender data s = .next s') :
    Keeps z s' := by
  refine Keeps.of_next e ?_
  repeat' first
    | with_reducible assumption | (intro x; first | (refine Keeps.named (z := z) (s := x) ?_ ?_; focus subst x) | skip)
    | with_reducible apply State.isl_keeps | with_reducible apply State.ethEcho_keeps

theorem execPtpMessage_keeps {z s s' : State} (dt : ℕ) (v6 : Bool) (domain : ℕ) (m : PtpMsg) (h : Keeps z s) (e : execPtpMessage dt v6 domain m s
    = .next s') :
    Keeps z s' := by
  refine Keeps.of_next e ?_
  repeat' first
    | with_reducible assumption | (intro x; first | (refine Keeps.named (z := z) (s := x) ?_ ?_; focus subst x) | skip)
    | with_reducible apply State.isl_keeps | with_reducible apply State.ptpMessage_keeps

end Sys2Proof.Machine
end

