-- ==== Sys2Proof/Laws/Kept/CmdFel.lean ====
section
/-! SUPPORT. What every function of Machine/CmdFel.lean keeps (Laws/Keep.lean). -/

set_option linter.unusedTactic false
set_option linter.unreachableTactic false

namespace Sys2Proof.Machine

theorem execLinkenWrite_keeps {z s s' : State} (v : Word) (h : Keeps z s) (e : execLinkenWrite v s = .next s') : Keeps z s' := by
  refine Keeps.of_next e ?_
  repeat' first
    | with_reducible assumption | with_reducible apply State.wr_keeps

theorem execFeBlockLock_keeps {z s s' : State} (dt : ℕ) (l : Fin 64) (headers : List ℕ) (h : Keeps z s) (e : execFeBlockLock dt l headers s =
    .next s') :
    Keeps z s' := by
  refine Keeps.of_next e ?_
  repeat' first
    | with_reducible assumption | (intro x; first | (refine Keeps.named (z := z) (s := x) ?_ ?_; focus subst x) | skip)
    | with_reducible apply State.isl_keeps | with_reducible apply State.feLock_keeps

theorem execFeLockLoss_keeps {z s s' : State} (dt : ℕ) (l : Fin 64) (opened : Bool) (headers : List ℕ) (h : Keeps z s) (e : execFeLockLoss dt l
    opened headers s = .next s') :
    Keeps z s' := by
  refine Keeps.of_next e ?_
  repeat' first
    | with_reducible assumption | (intro x; first | (refine Keeps.named (z := z) (s := x) ?_ ?_; focus subst x) | skip)
    | with_reducible apply State.isl_keeps | with_reducible apply State.feLoss_keeps

theorem execFeHello_keeps {z s s' : State} (dt : ℕ) (l : Fin 64) (payload : ℕ) (h : Keeps z s) (e : execFeHello dt l payload s = .next s') :
    Keeps z s' := by
  refine Keeps.of_next e ?_
  repeat' first
    | with_reducible assumption | (intro x; first | (refine Keeps.named (z := z) (s := x) ?_ ?_; focus subst x) | skip)
    | with_reducible apply State.isl_keeps | with_reducible apply State.feHello_keeps

theorem execFeStateTimeout_keeps {z s s' : State} (dt : ℕ) (l : Fin 64) (h : Keeps z s) (e : execFeStateTimeout dt l s = .next s') : Keeps z s' := by
  refine Keeps.of_next e ?_
  repeat' first
    | with_reducible assumption | (intro x; first | (refine Keeps.named (z := z) (s := x) ?_ ?_; focus subst x) | skip)
    | with_reducible apply State.isl_keeps | with_reducible apply State.feTimeouts_keeps

theorem execFeRetry_keeps {z s s' : State} (dt : ℕ) (l : Fin 64) (h : Keeps z s) (e : execFeRetry dt l s = .next s') : Keeps z s' := by
  refine Keeps.of_next e ?_
  repeat' first
    | with_reducible assumption | (intro x; first | (refine Keeps.named (z := z) (s := x) ?_ ?_; focus subst x) | skip)
    | with_reducible apply State.isl_keeps | with_reducible apply State.feRetry_keeps | with_reducible refine Keeps.lit ?_ rfl rfl

theorem execFcmd_keeps {z s s' : State} (v : Word) (h : Keeps z s) (e : execFcmd v s = .next s') : Keeps z s' := by
  refine Keeps.of_next e ?_
  repeat' first
    | with_reducible assumption | with_reducible apply State.wr_keeps

theorem execBcresetAct_keeps {z s s' : State} (dt : ℕ) (l : Fin 64) (h : Keeps z s) (e : execBcresetAct dt l s = .next s') : Keeps z s' := by
  refine Keeps.of_next e ?_
  repeat' first
    | with_reducible assumption | (intro x; first | (refine Keeps.named (z := z) (s := x) ?_ ?_; focus subst x) | skip)
    | with_reducible apply State.isl_keeps | with_reducible apply State.bcreset_keeps | with_reducible refine Keeps.lit ?_ rfl rfl

theorem execSccmd_keeps {z s s' : State} (v : Word) (h : Keeps z s) (e : execSccmd v s = .next s') : Keeps z s' := by
  refine Keeps.of_next e ?_
  repeat' first
    | with_reducible assumption | with_reducible apply State.wr_keeps

theorem execScrsp_keeps {z s s' : State} (dt : ℕ) (l : Fin 64) (payload : ℕ) (h : Keeps z s) (e : execScrsp dt l payload s = .next s') :
    Keeps z s' := by
  refine Keeps.of_next e ?_
  repeat' first
    | with_reducible assumption | (intro x; first | (refine Keeps.named (z := z) (s := x) ?_ ?_; focus subst x) | skip)
    | with_reducible apply State.isl_keeps | with_reducible apply State.scRsp_keeps | with_reducible refine Keeps.lit ?_ rfl rfl

theorem execScTimeout_keeps {z s s' : State} (dt : ℕ) (h : Keeps z s) (e : execScTimeout dt s = .next s') : Keeps z s' := by
  refine Keeps.of_next e ?_
  repeat' first
    | with_reducible assumption | (intro x; first | (refine Keeps.named (z := z) (s := x) ?_ ?_; focus subst x) | skip)
    | with_reducible apply State.isl_keeps | with_reducible apply State.scTimeout_keeps | with_reducible refine Keeps.lit ?_ rfl rfl

theorem execHitFrame_keeps {z s s' : State} (dt : ℕ) (l : Fin 64) (fill : ℕ) (blocks : List (ℕ × ℕ)) (h : Keeps z s) (e : execHitFrame dt l fill
    blocks s = .next s') :
    Keeps z s' := by
  refine Keeps.of_next e ?_
  repeat' first
    | with_reducible assumption | (intro x; first | (refine Keeps.named (z := z) (s := x) ?_ ?_; focus subst x) | skip)
    | with_reducible apply State.isl_keeps | with_reducible apply State.hitFrame_keeps

theorem execFeStatusBlock_keeps {z s s' : State} (dt : ℕ) (l : Fin 64) (payload : ℕ) (h : Keeps z s) (e : execFeStatusBlock dt l payload s = .next
    s') :
    Keeps z s' := by
  refine Keeps.of_next e ?_
  repeat' first
    | with_reducible assumption | (intro x; first | (refine Keeps.named (z := z) (s := x) ?_ ?_; focus subst x) | skip)
    | with_reducible apply State.isl_keeps | with_reducible apply State.feStatus_keeps

theorem execEcho_keeps {z s s' : State} (dt : ℕ) (l : Fin 64) (arg : ℕ) (n : ℕ) (h : Keeps z s) (e : execEcho dt l arg n s = .next s') :
    Keeps z s' := by
  refine Keeps.of_next e ?_
  repeat' first
    | with_reducible assumption | (intro x; first | (refine Keeps.named (z := z) (s := x) ?_ ?_; focus subst x) | skip)
    | with_reducible apply State.isl_keeps | with_reducible apply State.echo_keeps | with_reducible apply Keeps.cond

theorem execPatrolStart_keeps {z s s' : State} (dt : ℕ) (h : Keeps z s) (e : execPatrolStart dt s = .next s') : Keeps z s' := by
  refine Keeps.of_next e ?_
  repeat' first
    | with_reducible assumption | (intro x; first | (refine Keeps.named (z := z) (s := x) ?_ ?_; focus subst x) | skip)
    | with_reducible apply State.isl_keeps | with_reducible apply State.patrolStart_keeps

theorem execPatrolDone_keeps {z s s' : State} (dt : ℕ) (l : Fin 64) (h : Keeps z s) (e : execPatrolDone dt l s = .next s') : Keeps z s' := by
  refine Keeps.of_next e ?_
  repeat' first
    | with_reducible assumption | (intro x; first | (refine Keeps.named (z := z) (s := x) ?_ ?_; focus subst x) | skip)
    | with_reducible apply State.isl_keeps | with_reducible apply State.patrolDone_keeps

theorem execZsDecide_keeps {z s s' : State} (dt : ℕ) (h : Keeps z s) (e : execZsDecide dt s = .next s') : Keeps z s' := by
  refine Keeps.of_next e ?_
  repeat' first
    | with_reducible assumption | (intro x; first | (refine Keeps.named (z := z) (s := x) ?_ ?_; focus subst x) | skip)
    | with_reducible apply State.isl_keeps | with_reducible apply State.zsStep_keeps

theorem execHitBlockTmo_keeps {z s s' : State} (dt : ℕ) (l : Fin 64) (h : Keeps z s) (e : execHitBlockTmo dt l s = .next s') : Keeps z s' := by
  refine Keeps.of_next e ?_
  repeat' first
    | with_reducible assumption | (intro x; first | (refine Keeps.named (z := z) (s := x) ?_ ?_; focus subst x) | skip)
    | with_reducible apply State.isl_keeps | with_reducible apply State.blockTmo_keeps

end Sys2Proof.Machine
end

