-- ==== Sys2Proof/Laws/Kept/CmdFls.lean ====
section
/-! SUPPORT. What every function of Machine/CmdFls.lean keeps (Laws/Keep.lean). -/

set_option linter.unusedTactic false
set_option linter.unreachableTactic false

namespace Sys2Proof.Machine

theorem execFlsArm_keeps {z s s' : State} (v : Word) (h : Keeps z s) (e : execFlsArm v s = .next s') : Keeps z s' := by
  refine Keeps.of_next e ?_
  repeat' first
    | with_reducible assumption | with_reducible apply State.wr_keeps

theorem execFlashTurnOn_keeps {z s s' : State} (dt : ℕ) (n : Fin 16) (h : Keeps z s) (e : execFlashTurnOn dt n s = .next s') : Keeps z s' := by
  refine Keeps.of_next e ?_
  repeat' first
    | with_reducible assumption | (intro x; first | (refine Keeps.named (z := z) (s := x) ?_ ?_; focus subst x) | skip)
    | with_reducible apply State.main_keeps | with_reducible apply State.flashOn_keeps

theorem execFlashTurnOff_keeps {z s s' : State} (dt : ℕ) (n : Fin 16) (h : Keeps z s) (e : execFlashTurnOff dt n s = .next s') : Keeps z s' := by
  refine Keeps.of_next e ?_
  repeat' first
    | with_reducible assumption | (intro x; first | (refine Keeps.named (z := z) (s := x) ?_ ?_; focus subst x) | skip)
    | with_reducible apply State.main_keeps | with_reducible apply State.flashOff_keeps

theorem execFlashCheck_keeps {z s s' : State} (dt : ℕ) (n : Fin 16) (reg : Bool) (pct : ℕ) (sink : ℕ) (h : Keeps z s) (e : execFlashCheck dt n reg
    pct sink s = .next s') :
    Keeps z s' := by
  refine Keeps.of_next e ?_
  repeat' first
    | with_reducible assumption | (intro x; first | (refine Keeps.named (z := z) (s := x) ?_ ?_; focus subst x) | skip)
    | with_reducible apply State.main_keeps | with_reducible apply State.flashCheck_keeps

theorem execDimSlot_keeps {z s s' : State} (dt : ℕ) (n : Fin 16) (h : Keeps z s) (e : execDimSlot dt n s = .next s') : Keeps z s' := by
  refine Keeps.of_next e ?_
  repeat' first
    | with_reducible assumption | (intro x; first | (refine Keeps.named (z := z) (s := x) ?_ ?_; focus subst x) | skip)
    | with_reducible apply State.main_keeps | with_reducible apply State.dimSlot_keeps

theorem execFlsChDisable_keeps {z s s' : State} (n : Fin 16) (v : Word) (h : Keeps z s) (e : execFlsChDisable n v s = .next s') : Keeps z s' := by
  refine Keeps.of_next e ?_
  repeat' first
    | with_reducible assumption | with_reducible apply State.wr_keeps

theorem execFlvAdapt_keeps {z s s' : State} (dt : ℕ) (vin : ℕ) (h : Keeps z s) (e : execFlvAdapt dt vin s = .next s') : Keeps z s' := by
  refine Keeps.of_next e ?_
  repeat' first
    | with_reducible assumption | (intro x; first | (refine Keeps.named (z := z) (s := x) ?_ ?_; focus subst x) | skip)
    | with_reducible apply State.main_keeps | with_reducible apply State.flvAdapt_keeps | split

theorem execFlsPowerCheck_keeps {z s s' : State} (dt : ℕ) (mw : ℕ) (h : Keeps z s) (e : execFlsPowerCheck dt mw s = .next s') : Keeps z s' := by
  refine Keeps.of_next e ?_
  repeat' first
    | with_reducible assumption | (intro x; first | (refine Keeps.named (z := z) (s := x) ?_ ?_; focus subst x) | skip)
    | with_reducible apply State.main_keeps | with_reducible apply State.flsPower_keeps

theorem execFlsDerate_keeps {z s s' : State} (dt : ℕ) (ta : ℤ) (tb : ℤ) (h : Keeps z s) (e : execFlsDerate dt ta tb s = .next s') : Keeps z s' := by
  refine Keeps.of_next e ?_
  repeat' first
    | with_reducible assumption | (intro x; first | (refine Keeps.named (z := z) (s := x) ?_ ?_; focus subst x) | skip)
    | with_reducible apply State.main_keeps | with_reducible apply State.flsHeat_keeps | with_reducible refine Keeps.lit ?_ rfl rfl

theorem execDiagWindowEnd_keeps {z s s' : State} (dt : ℕ) (n : Fin 16) (h : Keeps z s) (e : execDiagWindowEnd dt n s = .next s') : Keeps z s' := by
  refine Keeps.of_next e ?_
  repeat' first
    | with_reducible assumption | (intro x; first | (refine Keeps.named (z := z) (s := x) ?_ ?_; focus subst x) | skip)
    | with_reducible apply State.main_keeps | with_reducible apply State.diagEnd_keeps

theorem execFlsStatusPost_keeps {z s s' : State} (dt : ℕ) (h : Keeps z s) (e : execFlsStatusPost dt s = .next s') : Keeps z s' := by
  refine Keeps.of_next e ?_
  repeat' first
    | with_reducible assumption | (intro x; first | (refine Keeps.named (z := z) (s := x) ?_ ?_; focus subst x) | skip)
    | with_reducible apply State.main_keeps | with_reducible apply State.flsPost_keeps

end Sys2Proof.Machine
end

