-- ==== Sys2Proof/Laws/Kept/CmdFlt.lean ====
section
/-! SUPPORT. What every function of Machine/CmdFlt.lean keeps (Laws/Keep.lean). -/

set_option linter.unusedTactic false
set_option linter.unreachableTactic false

namespace Sys2Proof.Machine

theorem execMismatch_keeps {z s s' : State} (dt : ℕ) (h : Keeps z s) (e : execMismatch dt s = .next s') : Keeps z s' := by
  refine Keeps.of_next e ?_
  repeat' first
    | with_reducible assumption | (intro x; first | (refine Keeps.named (z := z) (s := x) ?_ ?_; focus subst x) | skip)
    | with_reducible apply State.main_keeps | with_reducible apply State.mismatch_keeps

theorem execSelfTestVerdict_keeps {z s s' : State} (dt : ℕ) (a : Bool) (b : Bool) (h : Keeps z s) (e : execSelfTestVerdict dt a b s = .next s') :
    Keeps z s' := by
  refine Keeps.of_next e ?_
  repeat' first
    | with_reducible assumption | (intro x; first | (refine Keeps.named (z := z) (s := x) ?_ ?_; focus subst x) | skip)
    | with_reducible apply State.main_keeps | with_reducible apply State.selfTest_keeps

theorem execRecoveryResume_keeps {z s s' : State} (dt : ℕ) (h : Keeps z s) (e : execRecoveryResume dt s = .next s') : Keeps z s' := by
  refine Keeps.of_next e ?_
  repeat' first
    | with_reducible assumption | (intro x; first | (refine Keeps.named (z := z) (s := x) ?_ ?_; focus subst x) | skip)
    | with_reducible apply State.main_keeps | with_reducible apply State.resume_keeps

theorem execLeaseRenewal_keeps {z s s' : State} (dt : ℕ) (h : Keeps z s) (e : execLeaseRenewal dt s = .next s') : Keeps z s' := by
  refine Keeps.of_next e ?_
  repeat' first
    | with_reducible assumption | (intro x; first | (refine Keeps.named (z := z) (s := x) ?_ ?_; focus subst x) | skip)
    | with_reducible apply State.main_keeps | with_reducible apply State.leaseRenew_keeps

theorem execLeaseExpiry_keeps {z s s' : State} (dt : ℕ) (h : Keeps z s) (e : execLeaseExpiry dt s = .next s') : Keeps z s' := by
  refine Keeps.of_next e ?_
  repeat' first
    | with_reducible assumption | (intro x; first | (refine Keeps.named (z := z) (s := x) ?_ ?_; focus subst x) | skip)
    | with_reducible apply State.main_keeps | with_reducible apply State.leaseExpire_keeps

theorem execCoreRetest_keeps {z s s' : State} (dt : ℕ) (pass : Bool) (h : Keeps z s) (e : execCoreRetest dt pass s = .next s') : Keeps z s' := by
  refine Keeps.of_next e ?_
  repeat' first
    | with_reducible assumption | (intro x; first | (refine Keeps.named (z := z) (s := x) ?_ ?_; focus subst x) | skip)
    | with_reducible apply State.main_keeps | with_reducible apply State.coreRetest_keeps

theorem execCtest_keeps {z s s' : State} (v : Word) (h : Keeps z s) (e : execCtest v s = .next s') : Keeps z s' := by
  refine Keeps.of_next e ?_
  repeat' first
    | with_reducible assumption | with_reducible apply State.wr_keeps

theorem execComparatorTest_keeps {z s s' : State} (dt : ℕ) (ok : Bool) (h : Keeps z s) (e : execComparatorTest dt ok s = .next s') : Keeps z s' := by
  refine Keeps.of_next e ?_
  repeat' first
    | with_reducible assumption | (intro x; first | (refine Keeps.named (z := z) (s := x) ?_ ?_; focus subst x) | skip)
    | with_reducible apply State.main_keeps | with_reducible apply State.comparatorTest_keeps | with_reducible refine Keeps.lit ?_ rfl rfl

theorem execVecKnownAnswer_keeps {z s s' : State} (dt : ℕ) (ok : Bool) (h : Keeps z s) (e : execVecKnownAnswer dt ok s = .next s') : Keeps z s' := by
  refine Keeps.of_next e ?_
  repeat' first
    | with_reducible assumption | (intro x; first | (refine Keeps.named (z := z) (s := x) ?_ ?_; focus subst x) | skip)
    | with_reducible apply State.main_keeps | with_reducible apply State.vecTest_keeps

theorem execCmpKnownAnswer_keeps {z s s' : State} (dt : ℕ) (l : Fin 4) (ok : Bool) (h : Keeps z s) (e : execCmpKnownAnswer dt l ok s = .next s') :
    Keeps z s' := by
  refine Keeps.of_next e ?_
  repeat' first
    | with_reducible assumption | (intro x; first | (refine Keeps.named (z := z) (s := x) ?_ ?_; focus subst x) | skip)
    | with_reducible apply State.main_keeps | with_reducible apply State.cmpTest_keeps

theorem execHkcRefCheck_keeps {z s s' : State} (dt : ℕ) (z0 : ℤ) (r : ℤ) (h : Keeps z s) (e : execHkcRefCheck dt z0 r s = .next s') : Keeps z s' := by
  refine Keeps.of_next e ?_
  repeat' first
    | with_reducible assumption | (intro x; first | (refine Keeps.named (z := z) (s := x) ?_ ?_; focus subst x) | skip)
    | with_reducible apply State.main_keeps | with_reducible apply State.hkRefCheck_keeps

theorem execTimeCrossCheck_keeps {z s s' : State} (dt : ℕ) (p : Fin 8) (diff : ℤ) (h : Keeps z s) (e : execTimeCrossCheck dt p diff s = .next s')
    :
    Keeps z s' := by
  refine Keeps.of_next e ?_
  repeat' first
    | with_reducible assumption | (intro x; first | (refine Keeps.named (z := z) (s := x) ?_ ?_; focus subst x) | skip)
    | with_reducible apply State.main_keeps | with_reducible apply State.timeCheck_keeps | with_reducible refine Keeps.lit ?_ rfl rfl

theorem execAlarmSummaryPost_keeps {z s s' : State} (dt : ℕ) (h : Keeps z s) (e : execAlarmSummaryPost dt s = .next s') : Keeps z s' := by
  refine Keeps.of_next e ?_
  repeat' first
    | with_reducible assumption | (intro x; first | (refine Keeps.named (z := z) (s := x) ?_ ?_; focus subst x) | skip)
    | with_reducible apply State.main_keeps | with_reducible apply State.summaryPost_keeps

theorem execAlarmTokenRefill_keeps {z s s' : State} (dt : ℕ) (c : Fin 4) (h : Keeps z s) (e : execAlarmTokenRefill dt c s = .next s') :
    Keeps z s' := by
  refine Keeps.of_next e ?_
  repeat' first
    | with_reducible assumption | (intro x; first | (refine Keeps.named (z := z) (s := x) ?_ ?_; focus subst x) | skip)
    | with_reducible apply State.main_keeps | with_reducible apply State.tokenRefill_keeps

theorem execCriticalBufferDrain_keeps {z s s' : State} (dt : ℕ) (h : Keeps z s) (e : execCriticalBufferDrain dt s = .next s') : Keeps z s' := by
  refine Keeps.of_next e ?_
  repeat' first
    | with_reducible assumption | (intro x; first | (refine Keeps.named (z := z) (s := x) ?_ ?_; focus subst x) | skip)
    | with_reducible apply State.main_keeps | with_reducible apply State.critDrain_keeps

theorem execCounterSnapshot_keeps {z s s' : State} (dt : ℕ) (h : Keeps z s) (e : execCounterSnapshot dt s = .next s') : Keeps z s' := by
  refine Keeps.of_next e ?_
  repeat' first
    | with_reducible assumption | (intro x; first | (refine Keeps.named (z := z) (s := x) ?_ ?_; focus subst x) | skip)
    | with_reducible apply State.main_keeps | with_reducible apply State.counterSnap_keeps

theorem execSnapatWrite_keeps {z s s' : State} (v : Word) (h : Keeps z s) (e : execSnapatWrite v s = .next s') : Keeps z s' := by
  refine Keeps.of_next e ?_
  repeat' first
    | with_reducible assumption | with_reducible apply State.wr_keeps | with_reducible refine Keeps.lit ?_ rfl rfl

theorem execStaleCheck_keeps {z s s' : State} (dt : ℕ) (h : Keeps z s) (e : execStaleCheck dt s = .next s') : Keeps z s' := by
  refine Keeps.of_next e ?_
  repeat' first
    | with_reducible assumption | (intro x; first | (refine Keeps.named (z := z) (s := x) ?_ ?_; focus subst x) | skip)
    | with_reducible apply State.main_keeps | with_reducible apply State.staleCheck_keeps

end Sys2Proof.Machine
end

