-- ==== Sys2Proof/Laws/Kept/CmdHkc.lean ====
section
/-! SUPPORT. What every function of Machine/CmdHkc.lean keeps (Laws/Keep.lean). -/

set_option linter.unusedTactic false
set_option linter.unreachableTactic false

namespace Sys2Proof.Machine

theorem execHkcGo_keeps {z s s' : State} (v : Word) (h : Keeps z s) (e : execHkcGo v s = .next s') : Keeps z s' := by
  refine Keeps.of_next e ?_
  repeat' first
    | with_reducible assumption | with_reducible apply State.wr_keeps

theorem execHkcIgo_keeps {z s s' : State} (v : Word) (h : Keeps z s) (e : execHkcIgo v s = .next s') : Keeps z s' := by
  refine Keeps.of_next e ?_
  repeat' first
    | with_reducible assumption | with_reducible apply State.wr_keeps

theorem execHkcStop_keeps {z s s' : State} (v : Word) (h : Keeps z s) (e : execHkcStop v s = .next s') : Keeps z s' := by
  refine Keeps.of_next e ?_
  repeat' first
    | with_reducible assumption | with_reducible apply State.wr_keeps

theorem execHkcTimer_keeps {z s s' : State} (dt : ℕ) (h : Keeps z s) (e : execHkcTimer dt s = .next s') : Keeps z s' := by
  refine Keeps.of_next e ?_
  repeat' first
    | with_reducible assumption | (intro x; first | (refine Keeps.named (z := z) (s := x) ?_ ?_; focus subst x) | skip)
    | with_reducible apply State.main_keeps | with_reducible apply State.hkTimer_keeps

theorem execHkcStartDelayEnd_keeps {z s s' : State} (dt : ℕ) (h : Keeps z s) (e : execHkcStartDelayEnd dt s = .next s') : Keeps z s' := by
  refine Keeps.of_next e ?_
  repeat' first
    | with_reducible assumption | (intro x; first | (refine Keeps.named (z := z) (s := x) ?_ ?_; focus subst x) | skip)
    | with_reducible apply State.main_keeps | with_reducible apply State.hkNext_keeps

theorem execHkcConversionDone_keeps {z s s' : State} (dt : ℕ) (d : ℤ) (ovr : Bool) (openFail : Bool) (h : Keeps z s) (e : execHkcConversionDone dt
    d ovr openFail s = .next s') :
    Keeps z s' := by
  refine Keeps.of_next e ?_
  repeat' first
    | with_reducible assumption | (intro x; first | (refine Keeps.named (z := z) (s := x) ?_ ?_; focus subst x) | skip)
    | with_reducible apply State.main_keeps | with_reducible apply State.hkDone_keeps

theorem execHkcAuxConversion_keeps {z s s' : State} (dt : ℕ) (d : ℤ) (ovr : Bool) (opened : Bool) (h : Keeps z s) (e : execHkcAuxConversion dt d
    ovr opened s = .next s') :
    Keeps z s' := by
  refine Keeps.of_next e ?_
  repeat' first
    | with_reducible assumption | (intro x; first | (refine Keeps.named (z := z) (s := x) ?_ ?_; focus subst x) | skip)
    | with_reducible apply State.main_keeps | with_reducible apply State.hkAuxDone_keeps

theorem execHkcExcWrite_keeps {z s s' : State} (c : Fin 16) (v : Word) (h : Keeps z s) (e : execHkcExcWrite c v s = .next s') : Keeps z s' := by
  refine Keeps.of_next e ?_
  repeat' first
    | with_reducible assumption | with_reducible apply State.wr_keeps

theorem execHkcEnWrite_keeps {z s s' : State} (v : Word) (h : Keeps z s) (e : execHkcEnWrite v s = .next s') : Keeps z s' := by
  refine Keeps.of_next e ?_
  repeat' first
    | with_reducible assumption | with_reducible apply State.wr_keeps | with_reducible refine Keeps.lit ?_ rfl rfl

theorem execCalgainWrite_keeps {z s s' : State} (c : Fin 16) (v : Word) (h : Keeps z s) (e : execCalgainWrite c v s = .next s') : Keeps z s' := by
  refine Keeps.of_next e ?_
  repeat' first
    | with_reducible assumption | with_reducible apply State.wr_keeps

theorem execBlankPin_keeps {z s s' : State} (dt : ℕ) (high : Bool) (h : Keeps z s) (e : execBlankPin dt high s = .next s') : Keeps z s' := by
  refine Keeps.of_next e ?_
  repeat' first
    | with_reducible assumption | (intro x; first | (refine Keeps.named (z := z) (s := x) ?_ ?_; focus subst x) | skip)
    | with_reducible apply State.run_keeps | with_reducible apply State.blankPin_keeps

end Sys2Proof.Machine
end

