-- ==== Sys2Proof/Laws/Kept/CmdHost.lean ====
section
/-! SUPPORT. What every function of Machine/CmdHost.lean keeps (Laws/Keep.lean). -/

set_option linter.unusedTactic false
set_option linter.unreachableTactic false

namespace Sys2Proof.Machine

theorem execGateTake_keeps {z s s' : State} (dt : ℕ) (h : Keeps z s) (e : execGateTake dt s = .next s') : Keeps z s' := by
  refine Keeps.of_next e ?_
  repeat' first
    | with_reducible assumption | (intro x; first | (refine Keeps.named (z := z) (s := x) ?_ ?_; focus subst x) | skip)
    | with_reducible apply State.run_keeps | with_reducible apply State.gateOwn_keeps

theorem execArmStartReached_keeps {z s s' : State} (dt : ℕ) (h : Keeps z s) (e : execArmStartReached dt s = .next s') : Keeps z s' := by
  refine Keeps.of_next e ?_
  repeat' first
    | with_reducible assumption | (intro x; first | (refine Keeps.named (z := z) (s := x) ?_ ?_; focus subst x) | skip)
    | with_reducible apply State.main_keeps | with_reducible apply State.armStart_keeps

theorem execArmEndReached_keeps {z s s' : State} (dt : ℕ) (h : Keeps z s) (e : execArmEndReached dt s = .next s') : Keeps z s' := by
  refine Keeps.of_next e ?_
  repeat' first
    | with_reducible assumption | (intro x; first | (refine Keeps.named (z := z) (s := x) ?_ ?_; focus subst x) | skip)
    | with_reducible apply State.main_keeps | with_reducible apply State.armEnd_keeps | with_reducible refine Keeps.lit ?_ rfl rfl

theorem execGateStopInsert_keeps {z s s' : State} (dt : ℕ) (h : Keeps z s) (e : execGateStopInsert dt s = .next s') : Keeps z s' := by
  refine Keeps.of_next e ?_
  repeat' first
    | with_reducible assumption | (intro x; first | (refine Keeps.named (z := z) (s := x) ?_ ?_; focus subst x) | skip)
    | with_reducible apply State.main_keeps | with_reducible apply State.stopInsert_keeps

theorem execPing_keeps {z s s' : State} (dt : ℕ) (tag : ℕ) (h : Keeps z s) (e : execPing dt tag s = .next s') : Keeps z s' := by
  refine Keeps.of_next e ?_
  repeat' first
    | with_reducible assumption | with_reducible apply Keeps.id
    | (intro x; first | (refine Keeps.named (z := z) (s := x) ?_ ?_; focus subst x) | skip) | with_reducible apply State.run_keeps
    | with_reducible apply State.hostCmd_keeps | with_reducible refine Keeps.lit ?_ rfl rfl

theorem execStatus_keeps {z s s' : State} (dt : ℕ) (tag : ℕ) (h : Keeps z s) (e : execStatus dt tag s = .next s') : Keeps z s' := by
  refine Keeps.of_next e ?_
  repeat' first
    | with_reducible assumption | with_reducible apply Keeps.id
    | (intro x; first | (refine Keeps.named (z := z) (s := x) ?_ ?_; focus subst x) | skip) | with_reducible apply State.run_keeps
    | with_reducible apply State.hostCmd_keeps

theorem execReset_keeps {z s s' : State} (dt : ℕ) (tag : ℕ) (h : Keeps z s) (e : execReset dt tag s = .next s') : Keeps z s' := by
  refine Keeps.of_next e ?_
  repeat' first
    | with_reducible assumption | with_reducible apply Keeps.id
    | (intro x; first | (refine Keeps.named (z := z) (s := x) ?_ ?_; focus subst x) | skip) | with_reducible apply State.run_keeps
    | with_reducible apply State.hostCmd_keeps

theorem execResetDelayExpiry_keeps {z s s' : State} (dt : ℕ) (h : Keeps z s) (e : execResetDelayExpiry dt s = .next s') : Keeps z s' := by
  refine Keeps.of_next e ?_
  repeat' first
    | with_reducible assumption | (intro x; first | (refine Keeps.named (z := z) (s := x) ?_ ?_; focus subst x) | skip)
    | with_reducible apply State.run_keeps | with_reducible apply State.resetExpire_keeps

theorem execLoglevel_keeps {z s s' : State} (dt : ℕ) (tag : ℕ) (level : ℕ) (h : Keeps z s) (e : execLoglevel dt tag level s = .next s') :
    Keeps z s' := by
  refine Keeps.of_next e ?_
  repeat' first
    | with_reducible assumption | (intro x; first | (refine Keeps.named (z := z) (s := x) ?_ ?_; focus subst x) | skip)
    | with_reducible apply State.run_keeps | with_reducible apply State.hostCmd_keeps | with_reducible apply State.loglevel_keeps

theorem execCntsnap_keeps {z s s' : State} (dt : ℕ) (tag : ℕ) (stamp : ℕ) (h : Keeps z s) (e : execCntsnap dt tag stamp s = .next s') :
    Keeps z s' := by
  refine Keeps.of_next e ?_
  repeat' first
    | with_reducible assumption | (intro x; first | (refine Keeps.named (z := z) (s := x) ?_ ?_; focus subst x) | skip)
    | with_reducible apply State.run_keeps | with_reducible apply State.hostCmd_keeps | with_reducible apply State.hostAnswer_keeps
    | with_reducible apply State.cntsnap_keeps | with_reducible refine Keeps.lit ?_ rfl rfl

theorem execArm_keeps {z s s' : State} (dt : ℕ) (tag : ℕ) (args : List ℕ) (h : Keeps z s) (e : execArm dt tag args s = .next s') : Keeps z s' := by
  refine Keeps.of_next e ?_
  repeat' first
    | with_reducible assumption | (intro x; first | (refine Keeps.named (z := z) (s := x) ?_ ?_; focus subst x) | skip)
    | with_reducible apply State.run_keeps | with_reducible apply State.hostCmd_keeps | with_reducible apply State.arm_keeps

theorem execDisarm_keeps {z s s' : State} (dt : ℕ) (tag : ℕ) (h : Keeps z s) (e : execDisarm dt tag s = .next s') : Keeps z s' := by
  refine Keeps.of_next e ?_
  repeat' first
    | with_reducible assumption | (intro x; first | (refine Keeps.named (z := z) (s := x) ?_ ?_; focus subst x) | skip)
    | with_reducible apply State.run_keeps | with_reducible apply State.hostCmd_keeps | with_reducible apply State.hostAnswer_keeps

theorem execStop_keeps {z s s' : State} (dt : ℕ) (tag : ℕ) (h : Keeps z s) (e : execStop dt tag s = .next s') : Keeps z s' := by
  refine Keeps.of_next e ?_
  repeat' first
    | with_reducible assumption | (intro x; first | (refine Keeps.named (z := z) (s := x) ?_ ?_; focus subst x) | skip)
    | with_reducible apply State.run_keeps | with_reducible apply State.hostCmd_keeps | with_reducible apply State.hostAnswer_keeps

theorem execSelprof_keeps {z s s' : State} (dt : ℕ) (tag : ℕ) (n : ℕ) (h : Keeps z s) (e : execSelprof dt tag n s = .next s') : Keeps z s' := by
  refine Keeps.of_next e ?_
  repeat' first
    | with_reducible assumption
    | (intro x; first | (refine Keeps.named (z := z) (s := x) ?_ ?_; focus subst x) | (refine Keeps.named (z := z) (s := x.1) ?_ ?_; focus subst x) | (refine Keeps.named (z := z) (s := x.2) ?_ ?_; focus subst x) | skip)
    | with_reducible apply State.run_keeps | with_reducible apply State.hostCmd_keeps | with_reducible apply State.selprof_keeps
    | with_reducible apply State.hostAnswer_keeps | lift_lets

theorem execSaveprof_keeps {z s s' : State} (dt : ℕ) (tag : ℕ) (n : ℕ) (mask : ℕ) (h : Keeps z s) (e : execSaveprof dt tag n mask s = .next s') :
    Keeps z s' := by
  refine Keeps.of_next e ?_
  repeat' first
    | with_reducible assumption
    | (intro x; first | (refine Keeps.named (z := z) (s := x) ?_ ?_; focus subst x) | (refine Keeps.named (z := z) (s := x.1) ?_ ?_; focus subst x) | (refine Keeps.named (z := z) (s := x.2) ?_ ?_; focus subst x) | skip)
    | with_reducible apply State.run_keeps | with_reducible apply State.hostCmd_keeps | with_reducible apply State.answerOr_keeps
    | with_reducible apply State.saveprof_keeps

theorem execSetcfg_keeps {z s s' : State} (dt : ℕ) (tag : ℕ) (args : List ℕ) (h : Keeps z s) (e : execSetcfg dt tag args s = .next s') :
    Keeps z s' := by
  refine Keeps.of_next e ?_
  repeat' first
    | with_reducible assumption
    | (intro x; first | (refine Keeps.named (z := z) (s := x) ?_ ?_; focus subst x) | (refine Keeps.named (z := z) (s := x.1) ?_ ?_; focus subst x) | (refine Keeps.named (z := z) (s := x.2) ?_ ?_; focus subst x) | skip)
    | with_reducible apply State.run_keeps | with_reducible apply State.hostCmd_keeps | with_reducible apply State.setcfg_keeps
    | with_reducible apply State.hostAnswer_keeps | lift_lets

theorem execGetcfg_keeps {z s s' : State} (dt : ℕ) (tag : ℕ) (h : Keeps z s) (e : execGetcfg dt tag s = .next s') : Keeps z s' := by
  refine Keeps.of_next e ?_
  repeat' first
    | with_reducible assumption | (intro x; first | (refine Keeps.named (z := z) (s := x) ?_ ?_; focus subst x) | skip)
    | with_reducible apply State.run_keeps | with_reducible apply State.hostCmd_keeps | with_reducible apply State.hostAnswer_keeps

theorem execLoadimg_keeps {z s s' : State} (dt : ℕ) (tag : ℕ) (addr : ℕ) (len : ℕ) (h : Keeps z s) (e : execLoadimg dt tag addr len s = .next s')
    :
    Keeps z s' := by
  refine Keeps.of_next e ?_
  repeat' first
    | with_reducible assumption
    | (intro x; first | (refine Keeps.named (z := z) (s := x) ?_ ?_; focus subst x) | (refine Keeps.named (z := z) (s := x.1) ?_ ?_; focus subst x) | (refine Keeps.named (z := z) (s := x.2) ?_ ?_; focus subst x) | skip)
    | with_reducible apply State.run_keeps | with_reducible apply State.hostCmd_keeps | with_reducible apply State.answerOr_keeps
    | with_reducible apply State.loadimg_keeps

theorem execMoult_keeps {z s s' : State} (dt : ℕ) (tag : ℕ) (slot : ℕ) (h : Keeps z s) (e : execMoult dt tag slot s = .next s') : Keeps z s' := by
  refine Keeps.of_next e ?_
  repeat' first
    | with_reducible assumption | (intro x; first | (refine Keeps.named (z := z) (s := x) ?_ ?_; focus subst x) | skip)
    | with_reducible apply State.run_keeps | with_reducible apply State.hostCmd_keeps | with_reducible apply State.moult_keeps

theorem execAbandon_keeps {z s s' : State} (dt : ℕ) (tag : ℕ) (h : Keeps z s) (e : execAbandon dt tag s = .next s') : Keeps z s' := by
  refine Keeps.of_next e ?_
  repeat' first
    | with_reducible assumption
    | (intro x; first | (refine Keeps.named (z := z) (s := x) ?_ ?_; focus subst x) | (refine Keeps.named (z := z) (s := x.1) ?_ ?_; focus subst x) | (refine Keeps.named (z := z) (s := x.2) ?_ ?_; focus subst x) | skip)
    | with_reducible apply State.run_keeps | with_reducible apply State.hostCmd_keeps | with_reducible apply State.abandon_keeps
    | with_reducible apply State.hostAnswer_keeps | lift_lets

theorem execSetboot_keeps {z s s' : State} (dt : ℕ) (tag : ℕ) (arg : ℕ) (h : Keeps z s) (e : execSetboot dt tag arg s = .next s') : Keeps z s' := by
  refine Keeps.of_next e ?_
  repeat' first
    | with_reducible assumption
    | (intro x; first | (refine Keeps.named (z := z) (s := x) ?_ ?_; focus subst x) | (refine Keeps.named (z := z) (s := x.1) ?_ ?_; focus subst x) | (refine Keeps.named (z := z) (s := x.2) ?_ ?_; focus subst x) | skip)
    | with_reducible apply State.run_keeps | with_reducible apply State.hostCmd_keeps | with_reducible apply State.setboot_keeps
    | with_reducible apply State.hostAnswer_keeps | lift_lets

theorem execCocoon_keeps {z s s' : State} (dt : ℕ) (tag : ℕ) (h : Keeps z s) (e : execCocoon dt tag s = .next s') : Keeps z s' := by
  refine Keeps.of_next e ?_
  repeat' first
    | with_reducible assumption | (intro x; first | (refine Keeps.named (z := z) (s := x) ?_ ?_; focus subst x) | skip)
    | with_reducible apply State.run_keeps | with_reducible apply State.hostCmd_keeps | with_reducible apply State.hostAnswer_keeps

theorem execEmerge_keeps {z s s' : State} (dt : ℕ) (tag : ℕ) (h : Keeps z s) (e : execEmerge dt tag s = .next s') : Keeps z s' := by
  refine Keeps.of_next e ?_
  repeat' first
    | with_reducible assumption | with_reducible apply Keeps.id
    | (intro x; first | (refine Keeps.named (z := z) (s := x) ?_ ?_; focus subst x) | skip) | with_reducible apply State.run_keeps
    | with_reducible apply State.hostCmd_keeps

theorem execCsrread_keeps {z s s' : State} (dt : ℕ) (tag : ℕ) (addr : ℕ) (h : Keeps z s) (e : execCsrread dt tag addr s = .next s') : Keeps z s' := by
  refine Keeps.of_next e ?_
  repeat' first
    | with_reducible assumption
    | (intro x; first | (refine Keeps.named (z := z) (s := x) ?_ ?_; focus subst x) | (refine Keeps.named (z := z) (s := x.1) ?_ ?_; focus subst x) | (refine Keeps.named (z := z) (s := x.2) ?_ ?_; focus subst x) | skip)
    | with_reducible apply State.run_keeps | with_reducible apply State.hostCmd_keeps | with_reducible apply State.csrread_keeps
    | with_reducible apply State.hostAnswer_keeps | lift_lets

theorem execCsrwrite_keeps {z s s' : State} (dt : ℕ) (tag : ℕ) (addr : ℕ) (v : ℕ) (h : Keeps z s) (e : execCsrwrite dt tag addr v s = .next s') :
    Keeps z s' := by
  refine Keeps.of_next e ?_
  repeat' first
    | with_reducible assumption
    | (intro x; first | (refine Keeps.named (z := z) (s := x) ?_ ?_; focus subst x) | (refine Keeps.named (z := z) (s := x.1) ?_ ?_; focus subst x) | (refine Keeps.named (z := z) (s := x.2) ?_ ?_; focus subst x) | skip)
    | with_reducible apply State.run_keeps | with_reducible apply State.hostCmd_keeps | with_reducible apply State.csrwrite_keeps
    | with_reducible apply State.hostAnswer_keeps | lift_lets

theorem execHkcal_keeps {z s s' : State} (dt : ℕ) (tag : ℕ) (c : ℕ) (step : ℕ) (ideal : ℕ) (h : Keeps z s) (e : execHkcal dt tag c step ideal s =
    .next s') :
    Keeps z s' := by
  refine Keeps.of_next e ?_
  repeat' first
    | with_reducible assumption | (intro x; first | (refine Keeps.named (z := z) (s := x) ?_ ?_; focus subst x) | skip)
    | with_reducible apply State.run_keeps | with_reducible apply State.hostCmd_keeps | with_reducible apply State.hkcal_keeps

theorem execHkselfcal_keeps {z s s' : State} (dt : ℕ) (tag : ℕ) (mask : ℕ) (h : Keeps z s) (e : execHkselfcal dt tag mask s = .next s') :
    Keeps z s' := by
  refine Keeps.of_next e ?_
  repeat' first
    | with_reducible assumption | (intro x; first | (refine Keeps.named (z := z) (s := x) ?_ ?_; focus subst x) | skip)
    | with_reducible apply State.run_keeps | with_reducible apply State.hostCmd_keeps | with_reducible apply State.hkselfcal_keeps

theorem execFibrecal_keeps {z s s' : State} (dt : ℕ) (tag : ℕ) (args : List ℕ) (h : Keeps z s) (e : execFibrecal dt tag args s = .next s') :
    Keeps z s' := by
  refine Keeps.of_next e ?_
  repeat' first
    | with_reducible assumption | (intro x; first | (refine Keeps.named (z := z) (s := x) ?_ ?_; focus subst x) | skip)
    | with_reducible apply State.run_keeps | with_reducible apply State.hostCmd_keeps | with_reducible apply State.fibrecal_keeps

theorem execTdccal_keeps {z s s' : State} (dt : ℕ) (tag : ℕ) (mask : ℕ) (h : Keeps z s) (e : execTdccal dt tag mask s = .next s') : Keeps z s' := by
  refine Keeps.of_next e ?_
  repeat' first
    | with_reducible assumption
    | (intro x; first | (refine Keeps.named (z := z) (s := x) ?_ ?_; focus subst x) | (refine Keeps.named (z := z) (s := x.1) ?_ ?_; focus subst x) | (refine Keeps.named (z := z) (s := x.2) ?_ ?_; focus subst x) | skip)
    | with_reducible apply State.run_keeps | with_reducible apply State.hostCmd_keeps | with_reducible apply State.answerOr_keeps
    | with_reducible apply State.tdccal_keeps

theorem execDramtrain_keeps {z s s' : State} (dt : ℕ) (tag : ℕ) (arg : ℕ) (h : Keeps z s) (e : execDramtrain dt tag arg s = .next s') :
    Keeps z s' := by
  refine Keeps.of_next e ?_
  repeat' first
    | with_reducible assumption | (intro x; first | (refine Keeps.named (z := z) (s := x) ?_ ?_; focus subst x) | skip)
    | with_reducible apply State.run_keeps | with_reducible apply State.hostCmd_keeps | with_reducible apply State.dramtrain_keeps

theorem execDramrate_keeps {z s s' : State} (dt : ℕ) (tag : ℕ) (arg : ℕ) (h : Keeps z s) (e : execDramrate dt tag arg s = .next s') : Keeps z s' := by
  refine Keeps.of_next e ?_
  repeat' first
    | with_reducible assumption | (intro x; first | (refine Keeps.named (z := z) (s := x) ?_ ?_; focus subst x) | skip)
    | with_reducible apply State.run_keeps | with_reducible apply State.hostCmd_keeps | with_reducible apply State.dramrate_keeps

theorem execRolereq_keeps {z s s' : State} (dt : ℕ) (tag : ℕ) (arg : ℕ) (h : Keeps z s) (e : execRolereq dt tag arg s = .next s') : Keeps z s' := by
  refine Keeps.of_next e ?_
  repeat' first
    | with_reducible assumption | (intro x; first | (refine Keeps.named (z := z) (s := x) ?_ ?_; focus subst x) | skip)
    | with_reducible apply State.run_keeps | with_reducible apply State.hostCmd_keeps | with_reducible apply State.rolereq_keeps

theorem execRolerel_keeps {z s s' : State} (dt : ℕ) (tag : ℕ) (arg : ℕ) (h : Keeps z s) (e : execRolerel dt tag arg s = .next s') : Keeps z s' := by
  refine Keeps.of_next e ?_
  repeat' first
    | with_reducible assumption | (intro x; first | (refine Keeps.named (z := z) (s := x) ?_ ?_; focus subst x) | skip)
    | with_reducible apply State.run_keeps | with_reducible apply State.hostCmd_keeps | with_reducible apply State.rolerel_keeps

theorem execLcset_keeps {z s s' : State} (dt : ℕ) (tag : ℕ) (args : List ℕ) (h : Keeps z s) (e : execLcset dt tag args s = .next s') :
    Keeps z s' := by
  refine Keeps.of_next e ?_
  repeat' first
    | with_reducible assumption | (intro x; first | (refine Keeps.named (z := z) (s := x) ?_ ?_; focus subst x) | skip)
    | with_reducible apply State.run_keeps | with_reducible apply State.hostCmd_keeps | with_reducible apply State.pressFor_keeps

theorem execKeyrepl_keeps {z s s' : State} (dt : ℕ) (tag : ℕ) (args : List ℕ) (h : Keeps z s) (e : execKeyrepl dt tag args s = .next s') :
    Keeps z s' := by
  refine Keeps.of_next e ?_
  repeat' first
    | with_reducible assumption | (intro x; first | (refine Keeps.named (z := z) (s := x) ?_ ?_; focus subst x) | skip)
    | with_reducible apply State.run_keeps | with_reducible apply State.hostCmd_keeps | with_reducible apply State.pressFor_keeps

theorem execDbgunlock_keeps {z s s' : State} (dt : ℕ) (tag : ℕ) (args : List ℕ) (h : Keeps z s) (e : execDbgunlock dt tag args s = .next s') :
    Keeps z s' := by
  refine Keeps.of_next e ?_
  repeat' first
    | with_reducible assumption | (intro x; first | (refine Keeps.named (z := z) (s := x) ?_ ?_; focus subst x) | skip)
    | with_reducible apply State.run_keeps | with_reducible apply State.hostCmd_keeps | with_reducible apply State.pressFor_keeps

theorem execFabkey_keeps {z s s' : State} (dt : ℕ) (tag : ℕ) (args : List ℕ) (h : Keeps z s) (e : execFabkey dt tag args s = .next s') :
    Keeps z s' := by
  refine Keeps.of_next e ?_
  repeat' first
    | with_reducible assumption | (intro x; first | (refine Keeps.named (z := z) (s := x) ?_ ?_; focus subst x) | skip)
    | with_reducible apply State.run_keeps | with_reducible apply State.hostCmd_keeps | with_reducible apply State.pressFor_keeps

theorem execPresenceGiven_keeps {z s s' : State} (dt : ℕ) (h : Keeps z s) (e : execPresenceGiven dt s = .next s') : Keeps z s' := by
  refine Keeps.of_next e ?_
  repeat' first
    | with_reducible assumption | (intro x; first | (refine Keeps.named (z := z) (s := x) ?_ ?_; focus subst x) | skip)
    | with_reducible apply State.run_keeps | with_reducible apply State.presenceGiven_keeps

theorem execPresenceTimeout_keeps {z s s' : State} (dt : ℕ) (stuck : Bool) (h : Keeps z s) (e : execPresenceTimeout dt stuck s = .next s') :
    Keeps z s' := by
  refine Keeps.of_next e ?_
  repeat' first
    | with_reducible assumption | (intro x; first | (refine Keeps.named (z := z) (s := x) ?_ ?_; focus subst x) | skip)
    | with_reducible apply State.run_keeps | with_reducible apply State.presenceTimeout_keeps

end Sys2Proof.Machine
end

