-- ==== Sys2Proof/Laws/Kept/CmdLight.lean ====
section
/-! SUPPORT. What every function of Machine/CmdLight.lean keeps (Laws/Keep.lean). -/

set_option linter.unusedTactic false
set_option linter.unreachableTactic false

namespace Sys2Proof.Machine

theorem execLaunch_keeps {z s s' : State} (dt : ℕ) (h : Keeps z s) (e : execLaunch dt s = .next s') : Keeps z s' := by
  refine Keeps.of_next e ?_
  repeat' first
    | with_reducible assumption | (intro x; first | (refine Keeps.named (z := z) (s := x) ?_ ?_; focus subst x) | skip)
    | with_reducible apply State.main_keeps | with_reducible apply State.launch_keeps

theorem execLaunchMonitorEdge_keeps {z s s' : State} (dt : ℕ) (n : ℕ) (h : Keeps z s) (e : execLaunchMonitorEdge dt n s = .next s') : Keeps z s' := by
  refine Keeps.of_next e ?_
  repeat' first
    | with_reducible assumption | (intro x; first | (refine Keeps.named (z := z) (s := x) ?_ ?_; focus subst x) | skip)
    | with_reducible apply State.main_keeps | with_reducible apply State.monEdge_keeps

theorem execLaunchMonitorMiss_keeps {z s s' : State} (dt : ℕ) (h : Keeps z s) (e : execLaunchMonitorMiss dt s = .next s') : Keeps z s' := by
  refine Keeps.of_next e ?_
  repeat' first
    | with_reducible assumption | (intro x; first | (refine Keeps.named (z := z) (s := x) ?_ ?_; focus subst x) | skip)
    | with_reducible apply State.main_keeps | with_reducible apply State.monMiss_keeps

theorem execCaptureWindowClose_keeps {z s s' : State} (dt : ℕ) (xs : List Adc) (h : Keeps z s) (e : execCaptureWindowClose dt xs s = .next s') :
    Keeps z s' := by
  refine Keeps.of_next e ?_
  repeat' first
    | with_reducible assumption | (intro x; first | (refine Keeps.named (z := z) (s := x) ?_ ?_; focus subst x) | skip)
    | with_reducible apply State.main_keeps | with_reducible apply State.windowClose_keeps

theorem execLaserLockGain_keeps {z s s' : State} (dt : ℕ) (h : Keeps z s) (e : execLaserLockGain dt s = .next s') : Keeps z s' := by
  refine Keeps.of_next e ?_
  repeat' first
    | with_reducible assumption | (intro x; first | (refine Keeps.named (z := z) (s := x) ?_ ?_; focus subst x) | skip)
    | with_reducible apply State.main_keeps | with_reducible apply State.lockGain_keeps

theorem execLaserLockLoss_keeps {z s s' : State} (dt : ℕ) (h : Keeps z s) (e : execLaserLockLoss dt s = .next s') : Keeps z s' := by
  refine Keeps.of_next e ?_
  repeat' first
    | with_reducible assumption | (intro x; first | (refine Keeps.named (z := z) (s := x) ?_ ?_; focus subst x) | skip)
    | with_reducible apply State.main_keeps | with_reducible apply State.lockFall_keeps

theorem execLaserWlWrite_keeps {z s s' : State} (v : Word) (h : Keeps z s) (e : execLaserWlWrite v s = .next s') : Keeps z s' := by
  refine Keeps.of_next e ?_
  repeat' first
    | with_reducible assumption | with_reducible apply State.wr_keeps

theorem execLaserEnLow_keeps {z s s' : State} (dt : ℕ) (h : Keeps z s) (e : execLaserEnLow dt s = .next s') : Keeps z s' := by
  refine Keeps.of_next e ?_
  repeat' first
    | with_reducible assumption | with_reducible apply State.laserEdge_keeps | with_reducible apply State.laserLow_keeps

theorem execLaserEnHigh_keeps {z s s' : State} (dt : ℕ) (h : Keeps z s) (e : execLaserEnHigh dt s = .next s') : Keeps z s' := by
  refine Keeps.of_next e ?_
  repeat' first
    | with_reducible assumption | with_reducible apply State.laserEdge_keeps | with_reducible apply State.laserHigh_keeps

theorem execOpenPortDecision_keeps {z s s' : State} (dt : ℕ) (xs : List Adc) (h : Keeps z s) (e : execOpenPortDecision dt xs s = .next s') :
    Keeps z s' := by
  refine Keeps.of_next e ?_
  repeat' first
    | with_reducible assumption | (intro x; first | (refine Keeps.named (z := z) (s := x) ?_ ?_; focus subst x) | skip)
    | with_reducible apply State.main_keeps | with_reducible apply State.openPort_keeps

theorem execSafeClear_keeps {z s s' : State} (v : Word) (h : Keeps z s) (e : execSafeClear v s = .next s') : Keeps z s' := by
  refine Keeps.of_next e ?_
  repeat' first
    | with_reducible assumption | with_reducible apply State.wr_keeps

theorem execPortWrite_keeps {z s s' : State} (v : Word) (h : Keeps z s) (e : execPortWrite v s = .next s') : Keeps z s' := by
  refine Keeps.of_next e ?_
  repeat' first
    | with_reducible assumption | with_reducible apply State.wr_keeps

theorem execPortSwitchMove_keeps {z s s' : State} (dt : ℕ) (h : Keeps z s) (e : execPortSwitchMove dt s = .next s') : Keeps z s' := by
  refine Keeps.of_next e ?_
  repeat' first
    | with_reducible assumption | (intro x; first | (refine Keeps.named (z := z) (s := x) ?_ ?_; focus subst x) | skip)
    | with_reducible apply State.main_keeps | with_reducible apply State.portMove_keeps

theorem execPortSettled_keeps {z s s' : State} (dt : ℕ) (h : Keeps z s) (e : execPortSettled dt s = .next s') : Keeps z s' := by
  refine Keeps.of_next e ?_
  repeat' first
    | with_reducible assumption | (intro x; first | (refine Keeps.named (z := z) (s := x) ?_ ?_; focus subst x) | skip)
    | with_reducible apply State.main_keeps | with_reducible apply State.portSettled_keeps

theorem execMfGenStart_keeps {z s s' : State} (which : Fin 3) (k : Fin 16) (v : Word) (h : Keeps z s) (e : execMfGenStart which k v s = .next s')
    :
    Keeps z s' := by
  refine Keeps.of_next e ?_
  repeat' first
    | with_reducible assumption | (intro x; first | (refine Keeps.named (z := z) (s := x) ?_ ?_; focus subst x) | skip)
    | with_reducible apply State.lit_keeps | with_reducible apply State.genWrite_keeps

theorem execMfGenDone_keeps {z s s' : State} (dt : ℕ) (k : Fin 16) (h : Keeps z s) (e : execMfGenDone dt k s = .next s') : Keeps z s' := by
  refine Keeps.of_next e ?_
  repeat' first
    | with_reducible assumption | (intro x; first | (refine Keeps.named (z := z) (s := x) ?_ ?_; focus subst x) | skip)
    | with_reducible apply State.main_keeps | with_reducible apply State.genDone_keeps

theorem execCoefWrite_keeps {z s s' : State} (v : Word) (h : Keeps z s) (e : execCoefWrite v s = .next s') : Keeps z s' := by
  refine Keeps.of_next e ?_
  repeat' first
    | with_reducible assumption | with_reducible apply State.wr_keeps | with_reducible refine Keeps.lit ?_ rfl rfl

theorem execSwapRequest_keeps {z s s' : State} (v : Word) (h : Keeps z s) (e : execSwapRequest v s = .next s') : Keeps z s' := by
  refine Keeps.of_next e ?_
  repeat' first
    | with_reducible assumption | with_reducible apply State.wr_keeps

theorem execSwapCopyDone_keeps {z s s' : State} (dt : ℕ) (filt : Fin 18) (h : Keeps z s) (e : execSwapCopyDone dt filt s = .next s') :
    Keeps z s' := by
  refine Keeps.of_next e ?_
  repeat' first
    | with_reducible assumption | (intro x; first | (refine Keeps.named (z := z) (s := x) ?_ ?_; focus subst x) | skip)
    | with_reducible apply State.main_keeps | with_reducible apply State.copyDone_keeps

theorem execFadeEnd_keeps {z s s' : State} (dt : ℕ) (filt : Fin 18) (h : Keeps z s) (e : execFadeEnd dt filt s = .next s') : Keeps z s' := by
  refine Keeps.of_next e ?_
  repeat' first
    | with_reducible assumption | (intro x; first | (refine Keeps.named (z := z) (s := x) ?_ ?_; focus subst x) | skip)
    | with_reducible apply State.main_keeps | with_reducible apply State.fadeEnd_keeps

theorem execFramePublish_keeps {z s s' : State} (dt : ℕ) (xs : List Adc) (h : Keeps z s) (e : execFramePublish dt xs s = .next s') : Keeps z s' := by
  refine Keeps.of_next e ?_
  repeat' first
    | with_reducible assumption | (intro x; first | (refine Keeps.named (z := z) (s := x) ?_ ?_; focus subst x) | skip)
    | with_reducible apply State.isl_keeps | with_reducible apply State.framePublish_keeps | with_reducible refine Keeps.lit ?_ rfl rfl

theorem execSentinelWindowEnd_keeps {z s s' : State} (dt : ℕ) (h : Keeps z s) (e : execSentinelWindowEnd dt s = .next s') : Keeps z s' := by
  refine Keeps.of_next e ?_
  repeat' first
    | with_reducible assumption | (intro x; first | (refine Keeps.named (z := z) (s := x) ?_ ?_; focus subst x) | skip)
    | with_reducible apply State.isl_keeps | with_reducible apply State.sentinelEnd_keeps

theorem execMapdataWrite_keeps {z s s' : State} (v : Word) (h : Keeps z s) (e : execMapdataWrite v s = .next s') : Keeps z s' := by
  refine Keeps.of_next e ?_
  repeat' first
    | with_reducible assumption | with_reducible apply State.wr_keeps | with_reducible refine Keeps.lit ?_ rfl rfl

theorem execMapcommit_keeps {z s s' : State} (v : Word) (h : Keeps z s) (e : execMapcommit v s = .next s') : Keeps z s' := by
  refine Keeps.of_next e ?_
  repeat' first
    | with_reducible assumption | with_reducible apply State.wr_keeps

theorem execStrCsdataWrite_keeps {z s s' : State} (v : Word) (h : Keeps z s) (e : execStrCsdataWrite v s = .next s') : Keeps z s' := by
  refine Keeps.of_next e ?_
  repeat' first
    | with_reducible assumption | with_reducible apply State.wr_keeps

theorem execDtsWinWrite_keeps {z s s' : State} (w : Fin 8) (v : Word) (h : Keeps z s) (e : execDtsWinWrite w v s = .next s') : Keeps z s' := by
  refine Keeps.of_next e ?_
  repeat' first
    | with_reducible assumption | with_reducible apply State.wr_keeps

theorem execBandSearchStart_keeps {z s s' : State} (dt : ℕ) (h : Keeps z s) (e : execBandSearchStart dt s = .next s') : Keeps z s' := by
  refine Keeps.of_next e ?_
  repeat' first
    | with_reducible assumption | (intro x; first | (refine Keeps.named (z := z) (s := x) ?_ ?_; focus subst x) | skip)
    | with_reducible apply State.main_keeps | with_reducible apply State.searchStart_keeps

theorem execBandSearchDone_keeps {z s s' : State} (dt : ℕ) (band : ℕ) (amp : ℕ) (h : Keeps z s) (e : execBandSearchDone dt band amp s = .next s')
    :
    Keeps z s' := by
  refine Keeps.of_next e ?_
  repeat' first
    | with_reducible assumption | (intro x; first | (refine Keeps.named (z := z) (s := x) ?_ ?_; focus subst x) | skip)
    | with_reducible apply State.main_keeps | with_reducible apply State.searchDone_keeps

theorem execDtsHopStart_keeps {z s s' : State} (dt : ℕ) (h : Keeps z s) (e : execDtsHopStart dt s = .next s') : Keeps z s' := by
  refine Keeps.of_next e ?_
  repeat' first
    | with_reducible assumption | (intro x; first | (refine Keeps.named (z := z) (s := x) ?_ ?_; focus subst x) | skip)
    | with_reducible apply State.main_keeps | with_reducible apply State.hopStart_keeps

theorem execDtsHopEnd_keeps {z s s' : State} (dt : ℕ) (h : Keeps z s) (e : execDtsHopEnd dt s = .next s') : Keeps z s' := by
  refine Keeps.of_next e ?_
  repeat' first
    | with_reducible assumption | (intro x; first | (refine Keeps.named (z := z) (s := x) ?_ ?_; focus subst x) | skip)
    | with_reducible apply State.main_keeps | with_reducible apply State.dtsHopEnd_keeps

theorem execDtsLaunchJob_keeps {z s s' : State} (dt : ℕ) (h : Keeps z s) (e : execDtsLaunchJob dt s = .next s') : Keeps z s' := by
  refine Keeps.of_next e ?_
  repeat' first
    | with_reducible assumption | (intro x; first | (refine Keeps.named (z := z) (s := x) ?_ ?_; focus subst x) | skip)
    | with_reducible apply State.isl_keeps | with_reducible apply State.dtsJob_keeps

theorem execDtsProfilePost_keeps {z s s' : State} (dt : ℕ) (h : Keeps z s) (e : execDtsProfilePost dt s = .next s') : Keeps z s' := by
  refine Keeps.of_next e ?_
  repeat' first
    | with_reducible assumption | (intro x; first | (refine Keeps.named (z := z) (s := x) ?_ ?_; focus subst x) | skip)
    | with_reducible apply State.isl_keeps | with_reducible apply State.profileOrFibre_keeps

end Sys2Proof.Machine
end

