-- ==== Sys2Proof/Laws/Kept/CmdMem.lean ====
section
/-! SUPPORT. What every function of Machine/CmdMem.lean keeps (Laws/Keep.lean). -/

set_option linter.unusedTactic false
set_option linter.unreachableTactic false

namespace Sys2Proof.Machine

theorem execMemAdmissionTick_keeps {z s s' : State} (dt : ℕ) (h : Keeps z s) (e : execMemAdmissionTick dt s = .next s') : Keeps z s' := by
  refine Keeps.of_next e ?_
  repeat' first
    | with_reducible assumption | (intro x; first | (refine Keeps.named (z := z) (s := x) ?_ ?_; focus subst x) | skip)
    | with_reducible apply State.main_keeps | with_reducible apply State.admissionTick_keeps

theorem execMemRefresh_keeps {z s s' : State} (dt : ℕ) (n : Fin 4) (h : Keeps z s) (e : execMemRefresh dt n s = .next s') : Keeps z s' := by
  refine Keeps.of_next e ?_
  repeat' first
    | with_reducible assumption | (intro x; first | (refine Keeps.named (z := z) (s := x) ?_ ?_; focus subst x) | skip)
    | with_reducible apply State.main_keeps | with_reducible apply State.memRefresh_keeps

theorem execMemRequestServe_keeps {z s s' : State} (dt : ℕ) (n : Fin 4) (new : List (ℕ × ℕ × Bool)) (err : Fin 3) (h : Keeps z s) (e :
    execMemRequestServe dt n new err s = .next s') :
    Keeps z s' := by
  refine Keeps.of_next e ?_
  repeat' first
    | with_reducible assumption | (intro x; first | (refine Keeps.named (z := z) (s := x) ?_ ?_; focus subst x) | skip)
    | with_reducible apply State.main_keeps | with_reducible apply State.memResume_keeps | with_reducible apply State.coreSettle_keeps
    | with_reducible apply State.memStep_keeps

theorem execScrubStep_keeps {z s s' : State} (dt : ℕ) (err : Fin 3) (h : Keeps z s) (e : execScrubStep dt err s = .next s') : Keeps z s' := by
  refine Keeps.of_next e ?_
  repeat' first
    | with_reducible assumption | (intro x; first | (refine Keeps.named (z := z) (s := x) ?_ ?_; focus subst x) | skip)
    | with_reducible apply State.main_keeps | with_reducible apply State.scrubStep_keeps | with_reducible refine Keeps.lit ?_ rfl rfl

theorem execTrnGo_keeps {z s s' : State} (v : Word) (h : Keeps z s) (e : execTrnGo v s = .next s') : Keeps z s' := by
  refine Keeps.of_next e ?_
  repeat' first
    | with_reducible assumption | with_reducible apply State.wr_keeps | with_reducible refine Keeps.lit ?_ rfl rfl

theorem execTrnApply_keeps {z s s' : State} (v : Word) (h : Keeps z s) (e : execTrnApply v s = .next s') : Keeps z s' := by
  refine Keeps.of_next e ?_
  repeat' first
    | with_reducible assumption | with_reducible apply State.wr_keeps

theorem execTrnGatherDone_keeps {z s s' : State} (dt : ℕ) (reads : List (List (ℕ × ℕ))) (fin : Option TrnResult) (h : Keeps z s) (e :
    execTrnGatherDone dt reads fin s = .next s') :
    Keeps z s' := by
  refine Keeps.of_next e ?_
  repeat' first
    | with_reducible assumption | (intro x; first | (refine Keeps.named (z := z) (s := x) ?_ ?_; focus subst x) | skip)
    | with_reducible apply State.main_keeps | with_reducible apply State.memResume_keeps | with_reducible apply State.gatherDone_keeps

theorem execDramTempDrift_keeps {z s s' : State} (dt : ℕ) (n : Fin 4) (temp : ℕ) (h : Keeps z s) (e : execDramTempDrift dt n temp s = .next s') :
    Keeps z s' := by
  refine Keeps.of_next e ?_
  repeat' first
    | with_reducible assumption | (intro x; first | (refine Keeps.named (z := z) (s := x) ?_ ?_; focus subst x) | skip)
    | with_reducible apply State.main_keeps | with_reducible apply State.dramTemp_keeps

theorem execCmpLaneTake_keeps {z s s' : State} (dt : ℕ) (h : Keeps z s) (e : execCmpLaneTake dt s = .next s') : Keeps z s' := by
  refine Keeps.of_next e ?_
  repeat' first
    | with_reducible assumption | (intro x; first | (refine Keeps.named (z := z) (s := x) ?_ ?_; focus subst x) | skip)
    | with_reducible apply State.isl_keeps | with_reducible apply State.laneTake_keeps

theorem execCmpOutputPublish_keeps {z s s' : State} (dt : ℕ) (l : Fin 4) (codes : List (List (List ℕ × List ℕ))) (spoilt : List (ℕ × List ℕ × ℕ))
    (h : Keeps z s) (e : execCmpOutputPublish dt l codes spoilt s = .next s') :
    Keeps z s' := by
  refine Keeps.of_next e ?_
  repeat' first
    | with_reducible assumption | (intro x; first | (refine Keeps.named (z := z) (s := x) ?_ ?_; focus subst x) | skip)
    | with_reducible apply State.isl_keeps | with_reducible apply State.laneDone_keeps

theorem execCmpChainWaitExpiry_keeps {z s s' : State} (dt : ℕ) (l : Fin 4) (h : Keeps z s) (e : execCmpChainWaitExpiry dt l s = .next s') :
    Keeps z s' := by
  refine Keeps.of_next e ?_
  repeat' first
    | with_reducible assumption | (intro x; first | (refine Keeps.named (z := z) (s := x) ?_ ?_; focus subst x) | skip)
    | with_reducible apply State.isl_keeps | with_reducible apply State.chainExpiry_keeps

theorem execDecompressJob_keeps {z s s' : State} (dt : ℕ) (l : Fin 4) (h : Keeps z s) (e : execDecompressJob dt l s = .next s') : Keeps z s' := by
  refine Keeps.of_next e ?_
  repeat' first
    | with_reducible assumption | (intro x; first | (refine Keeps.named (z := z) (s := x) ?_ ?_; focus subst x) | skip)
    | with_reducible apply State.isl_keeps | with_reducible apply State.laneDone_keeps

end Sys2Proof.Machine
end

