-- ==== Sys2Proof/Laws/Kept/CmdSec.lean ====
section
/-! SUPPORT. What every function of Machine/CmdSec.lean keeps (Laws/Keep.lean). -/

set_option linter.unusedTactic false
set_option linter.unreachableTactic false

namespace Sys2Proof.Machine

theorem execSealBreak_keeps {z s s' : State} (dt : ℕ) (h : Keeps z s) (e : execSealBreak dt s = .next s') : Keeps z s' := by
  refine Keeps.of_next e ?_
  repeat' first
    | with_reducible assumption | (intro x; first | (refine Keeps.named (z := z) (s := x) ?_ ?_; focus subst x) | skip)
    | with_reducible apply State.after_keeps | with_reducible apply State.sealBreak_keeps

theorem execSealClose_keeps {z s s' : State} (dt : ℕ) (h : Keeps z s) (e : execSealClose dt s = .next s') : Keeps z s' := by
  refine Keeps.of_next e ?_
  repeat' first
    | with_reducible assumption | (intro x; first | (refine Keeps.named (z := z) (s := x) ?_ ?_; focus subst x) | skip)
    | with_reducible apply State.after_keeps | with_reducible apply State.sealClose_keeps

theorem execLcjChange_keeps {z s s' : State} (dt : ℕ) (fitted : Bool) (h : Keeps z s) (e : execLcjChange dt fitted s = .next s') : Keeps z s' := by
  refine Keeps.of_next e ?_
  repeat' first
    | with_reducible assumption | (intro x; first | (refine Keeps.named (z := z) (s := x) ?_ ?_; focus subst x) | skip)
    | with_reducible apply State.after_keeps | with_reducible apply State.lcjChange_keeps

theorem execRngRead_keeps {z s s' : State} (who : Fin 2) (h : Keeps z s) (e : execRngRead who s = .next s') : Keeps z s' := by
  refine Keeps.of_next e ?_
  repeat' first
    | with_reducible assumption | (intro x; first | (refine Keeps.named (z := z) (s := x) ?_ ?_; focus subst x) | skip)
    | with_reducible apply State.rd_keeps | with_reducible apply State.rngRead_keeps

theorem execRngHealthFail_keeps {z s s' : State} (dt : ℕ) (h : Keeps z s) (e : execRngHealthFail dt s = .next s') : Keeps z s' := by
  refine Keeps.of_next e ?_
  repeat' first
    | with_reducible assumption | (intro x; first | (refine Keeps.named (z := z) (s := x) ?_ ?_; focus subst x) | skip)
    | with_reducible apply State.run_keeps | with_reducible apply State.rngFail_keeps

theorem execMoultLoadDone_keeps {z s s' : State} (dt : ℕ) (ok : Bool) (h : Keeps z s) (e : execMoultLoadDone dt ok s = .next s') : Keeps z s' := by
  refine Keeps.of_next e ?_
  repeat' first
    | with_reducible assumption | (intro x; first | (refine Keeps.named (z := z) (s := x) ?_ ?_; focus subst x) | skip)
    | with_reducible apply State.main_keeps | with_reducible apply State.moultLoaded_keeps

theorem execMoultCkptTimeout_keeps {z s s' : State} (dt : ℕ) (h : Keeps z s) (e : execMoultCkptTimeout dt s = .next s') : Keeps z s' := by
  refine Keeps.of_next e ?_
  repeat' first
    | with_reducible assumption | (intro x; first | (refine Keeps.named (z := z) (s := x) ?_ ?_; focus subst x) | skip)
    | with_reducible apply State.main_keeps | with_reducible apply State.moultTimeout_keeps

theorem execColdStart_keeps {z s s' : State} (dt : ℕ) (main : Bool) (ka : Bool) (h : Keeps z s) (e : execColdStart dt main ka s = .next s') :
    Keeps z s' := by
  refine Keeps.of_next e ?_
  repeat' first
    | with_reducible assumption | (intro x; first | (refine Keeps.named (z := z) (s := x) ?_ ?_; focus subst x) | skip)
    | with_reducible apply State.after_keeps | with_reducible apply State.coldStart_keeps

theorem execPowerGood_keeps {z s s' : State} (dt : ℕ) (absent : Bool) (h : Keeps z s) (e : execPowerGood dt absent s = .next s') : Keeps z s' := by
  refine Keeps.of_next e ?_
  repeat' first
    | with_reducible assumption | (intro x; first | (refine Keeps.named (z := z) (s := x) ?_ ?_; focus subst x) | skip)
    | with_reducible apply State.after_keeps | with_reducible apply State.powerGood_keeps

theorem execBrownOut_keeps {z s s' : State} (dt : ℕ) (h : Keeps z s) (e : execBrownOut dt s = .next s') : Keeps z s' := by
  refine Keeps.of_next e ?_
  repeat' first
    | with_reducible assumption | (intro x; first | (refine Keeps.named (z := z) (s := x) ?_ ?_; focus subst x) | skip)
    | with_reducible apply State.after_keeps | with_reducible apply State.brownOut_keeps | with_reducible refine Keeps.lit ?_ rfl rfl

theorem execRailFault_keeps {z s s' : State} (dt : ℕ) (chan : Fin 64) (h : Keeps z s) (e : execRailFault dt chan s = .next s') : Keeps z s' := by
  refine Keeps.of_next e ?_
  repeat' first
    | with_reducible assumption | (intro x; first | (refine Keeps.named (z := z) (s := x) ?_ ?_; focus subst x) | skip)
    | with_reducible apply State.main_keeps | with_reducible apply State.railFault_keeps

theorem execResetNAssert_keeps {z s s' : State} (dt : ℕ) (h : Keeps z s) (e : execResetNAssert dt s = .next s') : Keeps z s' := by
  refine Keeps.of_next e ?_
  repeat' first
    | with_reducible assumption | (intro x; first | (refine Keeps.named (z := z) (s := x) ?_ ?_; focus subst x) | skip)
    | with_reducible apply State.after_keeps | with_reducible apply State.resetNLow_keeps

theorem execResetRelease_keeps {z s s' : State} (dt : ℕ) (profsel : Fin 4) (h : Keeps z s) (e : execResetRelease dt profsel s = .next s') :
    Keeps z s' := by
  refine Keeps.of_next e ?_
  repeat' first
    | with_reducible assumption | (intro x; first | (refine Keeps.named (z := z) (s := x) ?_ ?_; focus subst x) | skip)
    | with_reducible apply State.after_keeps | with_reducible apply State.resetRelease_keeps | with_reducible refine Keeps.lit ?_ rfl rfl

theorem execStartupComplete_keeps {z s s' : State} (dt : ℕ) (cal : List (ℕ × ℕ)) (phase : Word) (res : List TrnResult) (h : Keeps z s) (e :
    execStartupComplete dt cal phase res s = .next s') :
    Keeps z s' := by
  refine Keeps.of_next e ?_
  repeat' first
    | with_reducible assumption | (intro x; first | (refine Keeps.named (z := z) (s := x) ?_ ?_; focus subst x) | skip)
    | with_reducible apply State.run_keeps | with_reducible apply State.startDone_keeps | with_reducible refine Keeps.lit ?_ rfl rfl

theorem execCocoonEntryDone_keeps {z s s' : State} (dt : ℕ) (h : Keeps z s) (e : execCocoonEntryDone dt s = .next s') : Keeps z s' := by
  refine Keeps.of_next e ?_
  repeat' first
    | with_reducible assumption | (intro x; first | (refine Keeps.named (z := z) (s := x) ?_ ?_; focus subst x) | skip)
    | with_reducible apply State.run_keeps | with_reducible apply State.cocoonDone_keeps

theorem execMboxcmd_keeps {z s s' : State} (v : Word) (h : Keeps z s) (e : execMboxcmd v s = .next s') : Keeps z s' := by
  refine Keeps.of_next e ?_
  repeat' first
    | with_reducible assumption | (intro x; first | (refine Keeps.named (z := z) (s := x) ?_ ?_; focus subst x) | skip)
    | with_reducible apply State.out_keeps | with_reducible apply State.mboxWrite_keeps

theorem execWakeatExpiry_keeps {z s s' : State} (dt : ℕ) (h : Keeps z s) (e : execWakeatExpiry dt s = .next s') : Keeps z s' := by
  refine Keeps.of_next e ?_
  repeat' first
    | with_reducible assumption | (intro x; first | (refine Keeps.named (z := z) (s := x) ?_ ?_; focus subst x) | skip)
    | with_reducible apply State.run_keeps | with_reducible apply State.wakeExpire_keeps

theorem execEmergenceDone_keeps {z s s' : State} (dt : ℕ) (phase : Word) (rows : List (ℕ × ℕ × ℕ × ℕ)) (temps : List ℕ) (res : List TrnResult) (h
    : Keeps z s) (e : execEmergenceDone dt phase rows temps res s = .next s') :
    Keeps z s' := by
  refine Keeps.of_next e ?_
  repeat' first
    | with_reducible assumption | (intro x; first | (refine Keeps.named (z := z) (s := x) ?_ ?_; focus subst x) | skip)
    | with_reducible apply State.run_keeps | with_reducible apply State.emergeDone_keeps

end Sys2Proof.Machine
end

