-- ==== Sys2Proof/Laws/Kept/CmdSpi.lean ====
section
/-! SUPPORT. What every function of Machine/CmdSpi.lean keeps (Laws/Keep.lean). -/

set_option linter.unusedTactic false
set_option linter.unreachableTactic false

namespace Sys2Proof.Machine

theorem execSpiNop_keeps {z s s' : State} (dt : ℕ) (op : ℕ) (len : ℕ) (addr : ℕ) (chk : ℕ) (h : Keeps z s) (e : execSpiNop dt op len addr chk s =
    .next s') :
    Keeps z s' := by
  refine Keeps.of_next e ?_
  repeat' first
    | with_reducible assumption | (intro x; first | (refine Keeps.named (z := z) (s := x) ?_ ?_; focus subst x) | skip)
    | with_reducible apply State.run_keeps | with_reducible apply State.spiOp_keeps | with_reducible apply State.spiNop_keeps

theorem execCsrrd_keeps {z s s' : State} (dt : ℕ) (len : ℕ) (addr : ℕ) (chk : ℕ) (h : Keeps z s) (e : execCsrrd dt len addr chk s = .next s') :
    Keeps z s' := by
  refine Keeps.of_next e ?_
  repeat' first
    | with_reducible assumption | (intro x; first | (refine Keeps.named (z := z) (s := x) ?_ ?_; focus subst x) | skip)
    | with_reducible apply State.run_keeps | with_reducible apply State.spiOp_keeps | with_reducible apply State.spiCsrrd_keeps

theorem execCsrwr_keeps {z s s' : State} (dt : ℕ) (len : ℕ) (addr : ℕ) (v : ℕ) (chk : ℕ) (h : Keeps z s) (e : execCsrwr dt len addr v chk s =
    .next s') :
    Keeps z s' := by
  refine Keeps.of_next e ?_
  repeat' first
    | with_reducible assumption | (intro x; first | (refine Keeps.named (z := z) (s := x) ?_ ?_; focus subst x) | skip)
    | with_reducible apply State.run_keeps | with_reducible apply State.spiOp_keeps | with_reducible apply State.spiCsrwr_keeps

theorem execMemrd_keeps {z s s' : State} (dt : ℕ) (len : ℕ) (addr : ℕ) (chk : ℕ) (h : Keeps z s) (e : execMemrd dt len addr chk s = .next s') :
    Keeps z s' := by
  refine Keeps.of_next e ?_
  repeat' first
    | with_reducible assumption | (intro x; first | (refine Keeps.named (z := z) (s := x) ?_ ?_; focus subst x) | skip)
    | with_reducible apply State.run_keeps | with_reducible apply State.spiOp_keeps | with_reducible apply State.spiMemrd_keeps

theorem execMemwr_keeps {z s s' : State} (dt : ℕ) (len : ℕ) (addr : ℕ) (words : List ℕ) (chk : ℕ) (h : Keeps z s) (e : execMemwr dt len addr words
    chk s = .next s') :
    Keeps z s' := by
  refine Keeps.of_next e ?_
  repeat' first
    | with_reducible assumption | (intro x; first | (refine Keeps.named (z := z) (s := x) ?_ ?_; focus subst x) | skip)
    | with_reducible apply State.run_keeps | with_reducible apply State.spiOp_keeps | with_reducible apply State.spiMemwr_keeps

theorem execSpiPost_keeps {z s s' : State} (dt : ℕ) (len : ℕ) (addr : ℕ) (words : List ℕ) (chk : ℕ) (h : Keeps z s) (e : execSpiPost dt len addr
    words chk s = .next s') :
    Keeps z s' := by
  refine Keeps.of_next e ?_
  repeat' first
    | with_reducible assumption | (intro x; first | (refine Keeps.named (z := z) (s := x) ?_ ?_; focus subst x) | skip)
    | with_reducible apply State.run_keeps | with_reducible apply State.spiOp_keeps | with_reducible apply State.spiPost_keeps

theorem execSpiTake_keeps {z s s' : State} (dt : ℕ) (len : ℕ) (addr : ℕ) (chk : ℕ) (whole : Bool) (h : Keeps z s) (e : execSpiTake dt len addr chk
    whole s = .next s') :
    Keeps z s' := by
  refine Keeps.of_next e ?_
  repeat' first
    | with_reducible assumption | (intro x; first | (refine Keeps.named (z := z) (s := x) ?_ ?_; focus subst x) | skip)
    | with_reducible apply State.run_keeps | with_reducible apply State.spiOp_keeps | with_reducible apply State.spiTake_keeps

theorem execDbgLock_keeps {z s s' : State} (v : Word) (h : Keeps z s) (e : execDbgLock v s = .next s') : Keeps z s' := by
  refine Keeps.of_next e ?_
  repeat' first
    | with_reducible assumption | with_reducible apply State.wr_keeps

theorem execDebugOpenExpiry_keeps {z s s' : State} (dt : ℕ) (h : Keeps z s) (e : execDebugOpenExpiry dt s = .next s') : Keeps z s' := by
  refine Keeps.of_next e ?_
  repeat' first
    | with_reducible assumption | (intro x; first | (refine Keeps.named (z := z) (s := x) ?_ ?_; focus subst x) | skip)
    | with_reducible apply State.run_keeps | with_reducible apply State.dbgExpire_keeps

end Sys2Proof.Machine
end

