-- ==== Sys2Proof/Laws/Kept/CmdTim.lean ====
section
/-! SUPPORT. What every function of Machine/CmdTim.lean keeps (Laws/Keep.lean). -/

set_option linter.unusedTactic false
set_option linter.unreachableTactic false

namespace Sys2Proof.Machine

theorem execTimex_keeps {z s s' : State} (dt : ℕ) (p : Fin 8) (xseq : ℕ) (rxseq : ℕ) (txprev : ℕ) (rxlast : ℕ) (peerState : Fin 4) (rootHold :
    Bool) (hops : Fin 32) (rootDev : Fin 1024) (rootEpoch : ℕ) (h : Keeps z s) (e : execTimex dt p xseq rxseq txprev rxlast peerState rootHold hops
    rootDev rootEpoch s = .next s') :
    Keeps z s' := by
  refine Keeps.of_next e ?_
  repeat' first
    | with_reducible assumption | (intro x; first | (refine Keeps.named (z := z) (s := x) ?_ ?_; focus subst x) | skip)
    | with_reducible apply State.main_keeps | with_reducible apply State.timex_keeps

theorem execTimexSend_keeps {z s s' : State} (dt : ℕ) (p : Fin 8) (h : Keeps z s) (e : execTimexSend dt p s = .next s') : Keeps z s' := by
  refine Keeps.of_next e ?_
  repeat' first
    | with_reducible assumption | (intro x; first | (refine Keeps.named (z := z) (s := x) ?_ ?_; focus subst x) | skip)
    | with_reducible apply State.main_keeps | with_reducible apply State.timexSend_keeps

theorem execParentExchangeLoss_keeps {z s s' : State} (dt : ℕ) (h : Keeps z s) (e : execParentExchangeLoss dt s = .next s') : Keeps z s' := by
  refine Keeps.of_next e ?_
  repeat' first
    | with_reducible assumption | (intro x; first | (refine Keeps.named (z := z) (s := x) ?_ ?_; focus subst x) | skip)
    | with_reducible apply State.main_keeps | with_reducible apply State.parentLoss_keeps

theorem execLockedTimer_keeps {z s s' : State} (dt : ℕ) (h : Keeps z s) (e : execLockedTimer dt s = .next s') : Keeps z s' := by
  refine Keeps.of_next e ?_
  repeat' first
    | with_reducible assumption | (intro x; first | (refine Keeps.named (z := z) (s := x) ?_ ?_; focus subst x) | skip)
    | with_reducible apply State.main_keeps | with_reducible apply State.lockedTimer_keeps

theorem execPpsEdge_keeps {z s s' : State} (dt : ℕ) (present : Bool) (h : Keeps z s) (e : execPpsEdge dt present s = .next s') : Keeps z s' := by
  refine Keeps.of_next e ?_
  repeat' first
    | with_reducible assumption | (intro x; first | (refine Keeps.named (z := z) (s := x) ?_ ?_; focus subst x) | skip)
    | with_reducible apply State.main_keeps | with_reducible apply State.ppsEdge_keeps

theorem execRef10mChange_keeps {z s s' : State} (dt : ℕ) (n : ℕ) (h : Keeps z s) (e : execRef10mChange dt n s = .next s') : Keeps z s' := by
  refine Keeps.of_next e ?_
  repeat' first
    | with_reducible assumption | (intro x; first | (refine Keeps.named (z := z) (s := x) ?_ ?_; focus subst x) | skip)
    | with_reducible apply State.main_keeps | with_reducible apply State.refChange_keeps | with_reducible apply Keeps.cond

theorem execRootSecondBoundary_keeps {z s s' : State} (dt : ℕ) (h : Keeps z s) (e : execRootSecondBoundary dt s = .next s') : Keeps z s' := by
  refine Keeps.of_next e ?_
  repeat' first
    | with_reducible assumption | (intro x; first | (refine Keeps.named (z := z) (s := x) ?_ ?_; focus subst x) | skip)
    | with_reducible apply State.main_keeps | with_reducible apply State.rootBoundary_keeps | with_reducible apply Keeps.cond

theorem execNextsecWrite_keeps {z s s' : State} (v : Word) (h : Keeps z s) (e : execNextsecWrite v s = .next s') : Keeps z s' := by
  refine Keeps.of_next e ?_
  repeat' first
    | with_reducible assumption | with_reducible apply State.wr_keeps

theorem execAsyUpdate_keeps {z s s' : State} (dt : ℕ) (p : Fin 8) (h : Keeps z s) (e : execAsyUpdate dt p s = .next s') : Keeps z s' := by
  refine Keeps.of_next e ?_
  repeat' first
    | with_reducible assumption | (intro x; first | (refine Keeps.named (z := z) (s := x) ?_ ?_; focus subst x) | skip)
    | with_reducible apply State.main_keeps | with_reducible apply State.asyUpdate_keeps

theorem execAsySlew_keeps {z s s' : State} (dt : ℕ) (p : Fin 8) (h : Keeps z s) (e : execAsySlew dt p s = .next s') : Keeps z s' := by
  refine Keeps.of_next e ?_
  repeat' first
    | with_reducible assumption | (intro x; first | (refine Keeps.named (z := z) (s := x) ?_ ?_; focus subst x) | skip)
    | with_reducible apply State.main_keeps | with_reducible apply State.asySlew_keeps

theorem execTsub_keeps {z s s' : State} (dt : ℕ) (dev : Fin 1024) (sense : Fin 4) (first : ℕ) (last : ℕ) (tref : ℤ) (h : Keeps z s) (e : execTsub
    dt dev sense first last tref s = .next s') :
    Keeps z s' := by
  refine Keeps.of_next e ?_
  repeat' first
    | with_reducible assumption | (intro x; first | (refine Keeps.named (z := z) (s := x) ?_ ?_; focus subst x) | skip)
    | with_reducible apply State.main_keeps | with_reducible apply State.tsubMsg_keeps

theorem execTint_keeps {z s s' : State} (dt : ℕ) (sense : Fin 4) (dev : Fin 1024) (last : ℕ) (integral : ℤ) (pm : ℕ) (h : Keeps z s) (e : execTint
    dt sense dev last integral pm s = .next s') :
    Keeps z s' := by
  refine Keeps.of_next e ?_
  repeat' first
    | with_reducible assumption | (intro x; first | (refine Keeps.named (z := z) (s := x) ?_ ?_; focus subst x) | skip)
    | with_reducible apply State.main_keeps | with_reducible apply State.tintMsg_keeps

theorem execProfileAgeExpiry_keeps {z s s' : State} (dt : ℕ) (p : Fin 8) (h : Keeps z s) (e : execProfileAgeExpiry dt p s = .next s') :
    Keeps z s' := by
  refine Keeps.of_next e ?_
  repeat' first
    | with_reducible assumption | (intro x; first | (refine Keeps.named (z := z) (s := x) ?_ ?_; focus subst x) | skip)
    | with_reducible apply State.main_keeps | with_reducible apply State.profileAge_keeps

theorem execTdcEdge_keeps {z s s' : State} (dt : ℕ) (u : Fin 8) (src : Fin 4) (n : ℕ) (h : Keeps z s) (e : execTdcEdge dt u src n s = .next s') :
    Keeps z s' := by
  refine Keeps.of_next e ?_
  repeat' first
    | with_reducible assumption | (intro x; first | (refine Keeps.named (z := z) (s := x) ?_ ?_; focus subst x) | skip)
    | with_reducible apply State.main_keeps | with_reducible apply State.tdcPin_keeps | with_reducible apply Keeps.cond

theorem execTdcTimeout_keeps {z s s' : State} (dt : ℕ) (u : Fin 8) (h : Keeps z s) (e : execTdcTimeout dt u s = .next s') : Keeps z s' := by
  refine Keeps.of_next e ?_
  repeat' first
    | with_reducible assumption | (intro x; first | (refine Keeps.named (z := z) (s := x) ?_ ?_; focus subst x) | skip)
    | with_reducible apply State.main_keeps | with_reducible apply State.tdcTimeout_keeps

theorem execTdcDeadTimeEnd_keeps {z s s' : State} (dt : ℕ) (u : Fin 8) (h : Keeps z s) (e : execTdcDeadTimeEnd dt u s = .next s') : Keeps z s' := by
  refine Keeps.of_next e ?_
  repeat' first
    | with_reducible assumption | (intro x; first | (refine Keeps.named (z := z) (s := x) ?_ ?_; focus subst x) | skip)
    | with_reducible apply State.main_keeps | with_reducible apply State.tdcDeadEnd_keeps

theorem execTdcRingCheck_keeps {z s s' : State} (dt : ℕ) (u : Fin 8) (lsb : ℕ) (ok : Bool) (h : Keeps z s) (e : execTdcRingCheck dt u lsb ok s =
    .next s') :
    Keeps z s' := by
  refine Keeps.of_next e ?_
  repeat' first
    | with_reducible assumption | (intro x; first | (refine Keeps.named (z := z) (s := x) ?_ ?_; focus subst x) | skip)
    | with_reducible apply State.main_keeps | with_reducible apply State.tdcRing_keeps | with_reducible refine Keeps.lit ?_ rfl rfl

theorem execTdcCfgWrite_keeps {z s s' : State} (u : Fin 8) (v : Word) (h : Keeps z s) (e : execTdcCfgWrite u v s = .next s') : Keeps z s' := by
  refine Keeps.of_next e ?_
  repeat' first
    | with_reducible assumption | with_reducible apply State.wr_keeps

end Sys2Proof.Machine
end

