-- ==== Sys2Proof/Laws/Kept/CmdTrg.lean ====
section
/-! SUPPORT. What every function of Machine/CmdTrg.lean keeps (Laws/Keep.lean). -/

set_option linter.unusedTactic false
set_option linter.unreachableTactic false

namespace Sys2Proof.Machine

theorem execTrgArm_keeps {z s s' : State} (v : Word) (h : Keeps z s) (e : execTrgArm v s = .next s') : Keeps z s' := by
  refine Keeps.of_next e ?_
  repeat' first
    | with_reducible assumption | with_reducible apply State.wr_keeps | with_reducible refine Keeps.lit ?_ rfl rfl

theorem execTrgArmStop_keeps {z s s' : State} (v : Word) (h : Keeps z s) (e : execTrgArmStop v s = .next s') : Keeps z s' := by
  refine Keeps.of_next e ?_
  repeat' first
    | with_reducible assumption | with_reducible apply State.wr_keeps

theorem execCondSample_keeps {z s s' : State} (dt : ℕ) (k : Fin 16) (h : Keeps z s) (e : execCondSample dt k s = .next s') : Keeps z s' := by
  refine Keeps.of_next e ?_
  repeat' first
    | with_reducible assumption | (intro x; first | (refine Keeps.named (z := z) (s := x) ?_ ?_; focus subst x) | skip)
    | with_reducible apply State.isl_keeps | with_reducible apply State.condDas_keeps

theorem execCondTimeout_keeps {z s s' : State} (dt : ℕ) (k : Fin 16) (h : Keeps z s) (e : execCondTimeout dt k s = .next s') : Keeps z s' := by
  refine Keeps.of_next e ?_
  repeat' first
    | with_reducible assumption | (intro x; first | (refine Keeps.named (z := z) (s := x) ?_ ?_; focus subst x) | skip)
    | with_reducible apply State.isl_keeps | with_reducible apply State.condTimeout_keeps

theorem execTrigInEdge_keeps {z s s' : State} (dt : ℕ) (i : Fin 4) (rising : Bool) (short : Bool) (n : ℕ) (h : Keeps z s) (e : execTrigInEdge dt i
    rising short n s = .next s') :
    Keeps z s' := by
  refine Keeps.of_next e ?_
  repeat' first
    | with_reducible assumption | (intro x; first | (refine Keeps.named (z := z) (s := x) ?_ ?_; focus subst x) | skip)
    | with_reducible apply State.main_keeps | with_reducible apply State.trigIn_keeps

theorem execHpHitTake_keeps {z s s' : State} (dt : ℕ) (p : Fin 8) (h : Keeps z s) (e : execHpHitTake dt p s = .next s') : Keeps z s' := by
  refine Keeps.of_next e ?_
  repeat' first
    | with_reducible assumption | (intro x; first | (refine Keeps.named (z := z) (s := x) ?_ ?_; focus subst x) | skip)
    | with_reducible apply State.isl_keeps | with_reducible apply State.hpTake_keeps

theorem execHpHitExpire_keeps {z s s' : State} (dt : ℕ) (p : Fin 8) (h : Keeps z s) (e : execHpHitExpire dt p s = .next s') : Keeps z s' := by
  refine Keeps.of_next e ?_
  repeat' first
    | with_reducible assumption | (intro x; first | (refine Keeps.named (z := z) (s := x) ?_ ?_; focus subst x) | skip)
    | with_reducible apply State.isl_keeps | with_reducible apply State.hpExpire_keeps

theorem execClassDecide_keeps {z s s' : State} (dt : ℕ) (c : Fin 4) (h : Keeps z s) (e : execClassDecide dt c s = .next s') : Keeps z s' := by
  refine Keeps.of_next e ?_
  repeat' first
    | with_reducible assumption | (intro x; first | (refine Keeps.named (z := z) (s := x) ?_ ?_; focus subst x) | skip)
    | with_reducible apply State.isl_keeps | with_reducible apply State.classDecide_keeps

theorem execSegmentCopy_keeps {z s s' : State} (dt : ℕ) (c : Fin 4) (h : Keeps z s) (e : execSegmentCopy dt c s = .next s') : Keeps z s' := by
  refine Keeps.of_next e ?_
  repeat' first
    | with_reducible assumption | (intro x; first | (refine Keeps.named (z := z) (s := x) ?_ ?_; focus subst x) | skip)
    | with_reducible apply State.isl_keeps | with_reducible apply State.segCopy_keeps

theorem execSegmentStreamPart_keeps {z s s' : State} (dt : ℕ) (c : Fin 4) (h : Keeps z s) (e : execSegmentStreamPart dt c s = .next s') :
    Keeps z s' := by
  refine Keeps.of_next e ?_
  repeat' first
    | with_reducible assumption | (intro x; first | (refine Keeps.named (z := z) (s := x) ?_ ?_; focus subst x) | skip)
    | with_reducible apply State.isl_keeps | with_reducible apply State.segPart_keeps

theorem execTrigOutEdge_keeps {z s s' : State} (dt : ℕ) (i : Fin 4) (h : Keeps z s) (e : execTrigOutEdge dt i s = .next s') : Keeps z s' := by
  refine Keeps.of_next e ?_
  repeat' first
    | with_reducible assumption | (intro x; first | (refine Keeps.named (z := z) (s := x) ?_ ?_; focus subst x) | skip)
    | with_reducible apply State.main_keeps | with_reducible apply State.outEdge_keeps

theorem execTrigOutPulseEnd_keeps {z s s' : State} (dt : ℕ) (i : Fin 4) (h : Keeps z s) (e : execTrigOutPulseEnd dt i s = .next s') : Keeps z s' := by
  refine Keeps.of_next e ?_
  repeat' first
    | with_reducible assumption | (intro x; first | (refine Keeps.named (z := z) (s := x) ?_ ?_; focus subst x) | skip)
    | with_reducible apply State.main_keeps | with_reducible apply State.outPulseEnd_keeps

theorem execOutclr_keeps {z s s' : State} (v : Word) (h : Keeps z s) (e : execOutclr v s = .next s') : Keeps z s' := by
  refine Keeps.of_next e ?_
  repeat' first
    | with_reducible assumption | with_reducible apply State.wr_keeps

end Sys2Proof.Machine
end

