-- ==== Sys2Proof/Laws/Kept/CmdVec.lean ====
section
/-! SUPPORT. What every function of Machine/CmdVec.lean keeps (Laws/Keep.lean). -/

set_option linter.unusedTactic false
set_option linter.unreachableTactic false

namespace Sys2Proof.Machine

theorem execVecJobStart_keeps {z s s' : State} (dt : ℕ) (h : Keeps z s) (e : execVecJobStart dt s = .next s') : Keeps z s' := by
  refine Keeps.of_next e ?_
  repeat' first
    | with_reducible assumption | (intro x; first | (refine Keeps.named (z := z) (s := x) ?_ ?_; focus subst x) | skip)
    | with_reducible apply State.isl_keeps | with_reducible apply State.vecStart_keeps

theorem execVecJobDone_keeps {z s s' : State} (dt : ℕ) (cycles : ℕ) (h : Keeps z s) (e : execVecJobDone dt cycles s = .next s') : Keeps z s' := by
  refine Keeps.of_next e ?_
  repeat' first
    | with_reducible assumption | (intro x; first | (refine Keeps.named (z := z) (s := x) ?_ ?_; focus subst x) | skip)
    | with_reducible apply State.isl_keeps | with_reducible apply State.vecDone_keeps | with_reducible refine Keeps.lit ?_ rfl rfl

theorem execVecAbort_keeps {z s s' : State} (v : Word) (h : Keeps z s) (e : execVecAbort v s = .next s') : Keeps z s' := by
  refine Keeps.of_next e ?_
  repeat' first
    | with_reducible assumption | with_reducible apply State.wr_keeps | with_reducible refine Keeps.lit ?_ rfl rfl

theorem execVecCycleLimit_keeps {z s s' : State} (dt : ℕ) (h : Keeps z s) (e : execVecCycleLimit dt s = .next s') : Keeps z s' := by
  refine Keeps.of_next e ?_
  repeat' first
    | with_reducible assumption | (intro x; first | (refine Keeps.named (z := z) (s := x) ?_ ?_; focus subst x) | skip)
    | with_reducible apply State.isl_keeps | with_reducible apply State.vecLimit_keeps

theorem execSvScalarInstr_keeps {z s s' : State} (w : Word) (h : Keeps z s) (e : execSvScalarInstr w s = .next s') : Keeps z s' := by
  refine Keeps.of_next e ?_
  repeat' first
    | with_reducible assumption | (intro x; first | (refine Keeps.named (z := z) (s := x) ?_ ?_; focus subst x) | skip)
    | with_reducible apply State.lit_keeps | with_reducible apply State.svStep_keeps

theorem execVld_keeps {z s s' : State} (d : Fin 16) (a : Fin 16) (b : Fin 16) (mem : Fin 4) (pi : Bool) (br : Fin 32) (h : Keeps z s) (e : execVld
    d a b mem pi br s = .next s') :
    Keeps z s' := by
  refine Keeps.of_next e ?_
  repeat' first
    | with_reducible assumption | (intro x; first | (refine Keeps.named (z := z) (s := x) ?_ ?_; focus subst x) | skip)
    | with_reducible apply State.lit_keeps | with_reducible apply State.svStep_keeps

theorem execVst_keeps {z s s' : State} (d : Fin 16) (a : Fin 16) (b : Fin 16) (mem : Fin 4) (pi : Bool) (br : Fin 32) (h : Keeps z s) (e : execVst
    d a b mem pi br s = .next s') :
    Keeps z s' := by
  refine Keeps.of_next e ?_
  repeat' first
    | with_reducible assumption | (intro x; first | (refine Keeps.named (z := z) (s := x) ?_ ?_; focus subst x) | skip)
    | with_reducible apply State.lit_keeps | with_reducible apply State.svStep_keeps | with_reducible refine Keeps.lit ?_ rfl rfl

theorem execVlw_keeps {z s s' : State} (d : Fin 16) (a : Fin 16) (b : Fin 16) (mem : Fin 4) (pi : Bool) (br : Fin 32) (h : Keeps z s) (e : execVlw
    d a b mem pi br s = .next s') :
    Keeps z s' := by
  refine Keeps.of_next e ?_
  repeat' first
    | with_reducible assumption | (intro x; first | (refine Keeps.named (z := z) (s := x) ?_ ?_; focus subst x) | skip)
    | with_reducible apply State.lit_keeps | with_reducible apply State.svStep_keeps | with_reducible refine Keeps.lit ?_ rfl rfl

theorem execVadd_keeps {z s s' : State} (d : Fin 16) (a : Fin 16) (b : Fin 16) (m : Fin 256) (h : Keeps z s) (e : execVadd d a b m s = .next s') :
    Keeps z s' := by
  refine Keeps.of_next e ?_
  repeat' first
    | with_reducible assumption | (intro x; first | (refine Keeps.named (z := z) (s := x) ?_ ?_; focus subst x) | skip)
    | with_reducible apply State.lit_keeps | with_reducible apply State.svStep_keeps | with_reducible refine Keeps.lit ?_ rfl rfl

theorem execVsub_keeps {z s s' : State} (d : Fin 16) (a : Fin 16) (b : Fin 16) (m : Fin 256) (h : Keeps z s) (e : execVsub d a b m s = .next s') :
    Keeps z s' := by
  refine Keeps.of_next e ?_
  repeat' first
    | with_reducible assumption | (intro x; first | (refine Keeps.named (z := z) (s := x) ?_ ?_; focus subst x) | skip)
    | with_reducible apply State.lit_keeps | with_reducible apply State.svStep_keeps

theorem execVmul_keeps {z s s' : State} (d : Fin 16) (a : Fin 16) (b : Fin 16) (m : Fin 256) (h : Keeps z s) (e : execVmul d a b m s = .next s') :
    Keeps z s' := by
  refine Keeps.of_next e ?_
  repeat' first
    | with_reducible assumption | (intro x; first | (refine Keeps.named (z := z) (s := x) ?_ ?_; focus subst x) | skip)
    | with_reducible apply State.lit_keeps | with_reducible apply State.svStep_keeps

theorem execVmac_keeps {z s s' : State} (d : Fin 16) (a : Fin 16) (b : Fin 16) (m : Fin 256) (h : Keeps z s) (e : execVmac d a b m s = .next s') :
    Keeps z s' := by
  refine Keeps.of_next e ?_
  repeat' first
    | with_reducible assumption | (intro x; first | (refine Keeps.named (z := z) (s := x) ?_ ?_; focus subst x) | skip)
    | with_reducible apply State.lit_keeps | with_reducible apply State.svStep_keeps

theorem execVmsu_keeps {z s s' : State} (d : Fin 16) (a : Fin 16) (b : Fin 16) (m : Fin 256) (h : Keeps z s) (e : execVmsu d a b m s = .next s') :
    Keeps z s' := by
  refine Keeps.of_next e ?_
  repeat' first
    | with_reducible assumption | (intro x; first | (refine Keeps.named (z := z) (s := x) ?_ ?_; focus subst x) | skip)
    | with_reducible apply State.lit_keeps | with_reducible apply State.svStep_keeps

theorem execVpwr_keeps {z s s' : State} (d : Fin 16) (a : Fin 16) (b : Fin 16) (m : Fin 256) (h : Keeps z s) (e : execVpwr d a b m s = .next s') :
    Keeps z s' := by
  refine Keeps.of_next e ?_
  repeat' first
    | with_reducible assumption | (intro x; first | (refine Keeps.named (z := z) (s := x) ?_ ?_; focus subst x) | skip)
    | with_reducible apply State.lit_keeps | with_reducible apply State.svStep_keeps

theorem execVclr_keeps {z s s' : State} (d : Fin 16) (m : Fin 256) (h : Keeps z s) (e : execVclr d m s = .next s') : Keeps z s' := by
  refine Keeps.of_next e ?_
  repeat' first
    | with_reducible assumption | (intro x; first | (refine Keeps.named (z := z) (s := x) ?_ ?_; focus subst x) | skip)
    | with_reducible apply State.lit_keeps | with_reducible apply State.svStep_keeps | with_reducible refine Keeps.lit ?_ rfl rfl

theorem execVrd_keeps {z s s' : State} (d : Fin 16) (a : Fin 16) (m : Fin 256) (h : Keeps z s) (e : execVrd d a m s = .next s') : Keeps z s' := by
  refine Keeps.of_next e ?_
  repeat' first
    | with_reducible assumption | (intro x; first | (refine Keeps.named (z := z) (s := x) ?_ ?_; focus subst x) | skip)
    | with_reducible apply State.lit_keeps | with_reducible apply State.svStep_keeps

theorem execVbf_keeps {z s s' : State} (d : Fin 16) (a : Fin 16) (b : Fin 16) (m : Fin 256) (h : Keeps z s) (e : execVbf d a b m s = .next s') :
    Keeps z s' := by
  refine Keeps.of_next e ?_
  repeat' first
    | with_reducible assumption | (intro x; first | (refine Keeps.named (z := z) (s := x) ?_ ?_; focus subst x) | skip)
    | with_reducible apply State.lit_keeps | with_reducible apply State.svStep_keeps

theorem execVbfx_keeps {z s s' : State} (d : Fin 16) (a : Fin 16) (b : Fin 16) (m : Fin 256) (h : Keeps z s) (e : execVbfx d a b m s = .next s') :
    Keeps z s' := by
  refine Keeps.of_next e ?_
  repeat' first
    | with_reducible assumption | (intro x; first | (refine Keeps.named (z := z) (s := x) ?_ ?_; focus subst x) | skip)
    | with_reducible apply State.lit_keeps | with_reducible apply State.svStep_keeps

theorem execVperm_keeps {z s s' : State} (d : Fin 16) (a : Fin 16) (b : Fin 16) (m : Fin 256) (h : Keeps z s) (e : execVperm d a b m s = .next s')
    :
    Keeps z s' := by
  refine Keeps.of_next e ?_
  repeat' first
    | with_reducible assumption | (intro x; first | (refine Keeps.named (z := z) (s := x) ?_ ?_; focus subst x) | skip)
    | with_reducible apply State.lit_keeps | with_reducible apply State.svStep_keeps

theorem execVsplat_keeps {z s s' : State} (d : Fin 16) (a : Fin 16) (m : Fin 256) (h : Keeps z s) (e : execVsplat d a m s = .next s') :
    Keeps z s' := by
  refine Keeps.of_next e ?_
  repeat' first
    | with_reducible assumption | (intro x; first | (refine Keeps.named (z := z) (s := x) ?_ ?_; focus subst x) | skip)
    | with_reducible apply State.lit_keeps | with_reducible apply State.svStep_keeps

theorem execVbexp_keeps {z s s' : State} (d : Fin 16) (a : Fin 16) (m : Fin 256) (h : Keeps z s) (e : execVbexp d a m s = .next s') : Keeps z s' := by
  refine Keeps.of_next e ?_
  repeat' first
    | with_reducible assumption | (intro x; first | (refine Keeps.named (z := z) (s := x) ?_ ?_; focus subst x) | skip)
    | with_reducible apply State.lit_keeps | with_reducible apply State.svStep_keeps

theorem execVstage_keeps {z s s' : State} (d : Fin 16) (m : Fin 256) (h : Keeps z s) (e : execVstage d m s = .next s') : Keeps z s' := by
  refine Keeps.of_next e ?_
  repeat' first
    | with_reducible assumption | (intro x; first | (refine Keeps.named (z := z) (s := x) ?_ ?_; focus subst x) | skip)
    | with_reducible apply State.lit_keeps | with_reducible apply State.svStep_keeps

theorem execVsclr_keeps {z s s' : State} (m : Fin 256) (h : Keeps z s) (e : execVsclr m s = .next s') : Keeps z s' := by
  refine Keeps.of_next e ?_
  repeat' first
    | with_reducible assumption | (intro x; first | (refine Keeps.named (z := z) (s := x) ?_ ?_; focus subst x) | skip)
    | with_reducible apply State.lit_keeps | with_reducible apply State.svStep_keeps

theorem execVmx_keeps {z s s' : State} (a : Fin 16) (b : Fin 16) (m : Fin 256) (h : Keeps z s) (e : execVmx a b m s = .next s') : Keeps z s' := by
  refine Keeps.of_next e ?_
  repeat' first
    | with_reducible assumption | (intro x; first | (refine Keeps.named (z := z) (s := x) ?_ ?_; focus subst x) | skip)
    | with_reducible apply State.lit_keeps | with_reducible apply State.svStep_keeps

theorem execVmn_keeps {z s s' : State} (a : Fin 16) (b : Fin 16) (m : Fin 256) (h : Keeps z s) (e : execVmn a b m s = .next s') : Keeps z s' := by
  refine Keeps.of_next e ?_
  repeat' first
    | with_reducible assumption | (intro x; first | (refine Keeps.named (z := z) (s := x) ?_ ?_; focus subst x) | skip)
    | with_reducible apply State.lit_keeps | with_reducible apply State.svStep_keeps

theorem execVmxr_keeps {z s s' : State} (d : Fin 16) (a : Fin 16) (m : Fin 256) (h : Keeps z s) (e : execVmxr d a m s = .next s') : Keeps z s' := by
  refine Keeps.of_next e ?_
  repeat' first
    | with_reducible assumption | (intro x; first | (refine Keeps.named (z := z) (s := x) ?_ ?_; focus subst x) | skip)
    | with_reducible apply State.lit_keeps | with_reducible apply State.svStep_keeps

theorem execVmnr_keeps {z s s' : State} (d : Fin 16) (a : Fin 16) (m : Fin 256) (h : Keeps z s) (e : execVmnr d a m s = .next s') : Keeps z s' := by
  refine Keeps.of_next e ?_
  repeat' first
    | with_reducible assumption | (intro x; first | (refine Keeps.named (z := z) (s := x) ?_ ?_; focus subst x) | skip)
    | with_reducible apply State.lit_keeps | with_reducible apply State.svStep_keeps

theorem execVloop_keeps {z s s' : State} (a : Fin 16) (imm : BitVec 18) (h : Keeps z s) (e : execVloop a imm s = .next s') : Keeps z s' := by
  refine Keeps.of_next e ?_
  repeat' first
    | with_reducible assumption | (intro x; first | (refine Keeps.named (z := z) (s := x) ?_ ?_; focus subst x) | skip)
    | with_reducible apply State.lit_keeps | with_reducible apply State.svStep_keeps | with_reducible refine Keeps.lit ?_ rfl rfl

theorem execVdone_keeps {z s s' : State} (a : Fin 16) (h : Keeps z s) (e : execVdone a s = .next s') : Keeps z s' := by
  refine Keeps.of_next e ?_
  repeat' first
    | with_reducible assumption | (intro x; first | (refine Keeps.named (z := z) (s := x) ?_ ?_; focus subst x) | skip)
    | with_reducible apply State.lit_keeps | with_reducible apply State.svStep_keeps

end Sys2Proof.Machine
end

