-- ==== Sys2Proof/Laws/Kept/All.lean ====
section
/-! SUPPORT. What every command keeps, whatever its operands (Laws/Keep.lean). -/

set_option linter.unusedTactic false
set_option linter.unreachableTactic false

namespace Sys2Proof.Machine

theorem exec_keeps {z s t : State} (c : Instr) (h : Keeps z s) (e : exec c s = .next t) : Keeps z t := by
  cases c with
  | add a0 a1 a2 => exact execAdd_keeps _ _ _ h e
  | sub a0 a1 a2 => exact execSub_keeps _ _ _ h e
  | and a0 a1 a2 => exact execAnd_keeps _ _ _ h e
  | or a0 a1 a2 => exact execOr_keeps _ _ _ h e
  | xor a0 a1 a2 => exact execXor_keeps _ _ _ h e
  | shl a0 a1 a2 => exact execShl_keeps _ _ _ h e
  | shr a0 a1 a2 => exact execShr_keeps _ _ _ h e
  | sra a0 a1 a2 => exact execSra_keeps _ _ _ h e
  | mul a0 a1 a2 => exact execMul_keeps _ _ _ h e
  | mulhu a0 a1 a2 => exact execMulhu_keeps _ _ _ h e
  | min a0 a1 a2 => exact execMin_keeps _ _ _ h e
  | max a0 a1 a2 => exact execMax_keeps _ _ _ h e
  | minu a0 a1 a2 => exact execMinu_keeps _ _ _ h e
  | maxu a0 a1 a2 => exact execMaxu_keeps _ _ _ h e
  | addi a0 a1 a2 => exact execAddi_keeps _ _ _ h e
  | andi a0 a1 a2 => exact execAndi_keeps _ _ _ h e
  | ori a0 a1 a2 => exact execOri_keeps _ _ _ h e
  | xori a0 a1 a2 => exact execXori_keeps _ _ _ h e
  | shli a0 a1 a2 => exact execShli_keeps _ _ _ h e
  | shri a0 a1 a2 => exact execShri_keeps _ _ _ h e
  | srai a0 a1 a2 => exact execSrai_keeps _ _ _ h e
  | lui a0 a1 => exact execLui_keeps _ _ h e
  | ldl a0 a1 a2 => exact execLdl_keeps _ _ _ h e
  | stl a0 a1 a2 => exact execStl_keeps _ _ _ h e
  | ld a0 a1 a2 => exact execLd_keeps _ _ _ h e
  | st a0 a1 a2 => exact execSt_keeps _ _ _ h e
  | ldw a0 a1 a2 => exact execLdw_keeps _ _ _ h e
  | stw a0 a1 a2 => exact execStw_keeps _ _ _ h e
  | csrr a0 a1 a2 => exact execCsrr_keeps _ _ _ h e
  | csrw a0 a1 a2 => exact execCsrw_keeps _ _ _ h e
  | mfs a0 a1 a2 => exact execMfs_keeps _ _ _ h e
  | mts a0 a1 a2 => exact execMts_keeps _ _ _ h e
  | beq a0 a1 a2 => exact execBeq_keeps _ _ _ h e
  | bne a0 a1 a2 => exact execBne_keeps _ _ _ h e
  | blt a0 a1 a2 => exact execBlt_keeps _ _ _ h e
  | bge a0 a1 a2 => exact execBge_keeps _ _ _ h e
  | bltu a0 a1 a2 => exact execBltu_keeps _ _ _ h e
  | bgeu a0 a1 a2 => exact execBgeu_keeps _ _ _ h e
  | j a0 => exact execJ_keeps _ h e
  | jal a0 => exact execJal_keeps _ h e
  | jr a0 => exact execJr_keeps _ h e
  | wait a0 => exact execWait_keeps _ h e
  | waitResume a0 => exact execWaitResume_keeps _ h e
  | waitc a0 => exact execWaitc_keeps _ h e
  | timedAt a0 a1 a2 a3 => exact execTimedAt_keeps _ _ _ _ h e
  | timedAction a0 a1 => exact execTimedAction_keeps _ _ h e
  | tadd a0 a1 a2 => exact execTadd_keeps _ _ _ h e
  | lnch a0 a1 a2 => exact execLnch_keeps _ _ _ h e
  | frmStart a0 a1 a2 => exact execFrmStart_keeps _ _ _ h e
  | frmStop a0 a1 => exact execFrmStop_keeps _ _ h e
  | post a0 a1 a2 => exact execPost_keeps _ _ _ h e
  | postR a0 a1 a2 => exact execPostR_keeps _ _ _ h e
  | postStallEnd a0 a1 => exact execPostStallEnd_keeps _ _ h e
  | take a0 a1 a2 => exact execTake_keeps _ _ _ h e
  | vjob a0 a1 a2 => exact execVjob_keeps _ _ _ h e
  | fenceCsr => exact execFenceCsr_keeps h e
  | fenceMem => exact execFenceMem_keeps h e
  | fenceQ => exact execFenceQ_keeps h e
  | fenceAll => exact execFenceAll_keeps h e
  | fenceResume a0 => exact execFenceResume_keeps _ h e
  | csrtimeout a0 => exact execCsrtimeout_keeps _ h e
  | trap a0 => exact execTrap_keeps _ h e
  | eret a0 a1 a2 => exact execEret_keeps _ _ _ h e
  | idle a0 a1 => exact execIdle_keeps _ _ h e
  | idleWake a0 => exact execIdleWake_keeps _ h e
  | ckpt => exact execCkpt_keeps h e
  | illegalInstruction a0 => exact execIllegalInstruction_keeps _ h e
  | gateTake a0 => exact execGateTake_keeps _ h e
  | armStartReached a0 => exact execArmStartReached_keeps _ h e
  | armEndReached a0 => exact execArmEndReached_keeps _ h e
  | gateStopInsert a0 => exact execGateStopInsert_keeps _ h e
  | ping a0 a1 => exact execPing_keeps _ _ h e
  | status a0 a1 => exact execStatus_keeps _ _ h e
  | reset a0 a1 => exact execReset_keeps _ _ h e
  | resetDelayExpiry a0 => exact execResetDelayExpiry_keeps _ h e
  | loglevel a0 a1 a2 => exact execLoglevel_keeps _ _ _ h e
  | cntsnap a0 a1 a2 => exact execCntsnap_keeps _ _ _ h e
  | arm a0 a1 a2 => exact execArm_keeps _ _ _ h e
  | disarm a0 a1 => exact execDisarm_keeps _ _ h e
  | stop a0 a1 => exact execStop_keeps _ _ h e
  | selprof a0 a1 a2 => exact execSelprof_keeps _ _ _ h e
  | saveprof a0 a1 a2 a3 => exact execSaveprof_keeps _ _ _ _ h e
  | setcfg a0 a1 a2 => exact execSetcfg_keeps _ _ _ h e
  | getcfg a0 a1 => exact execGetcfg_keeps _ _ h e
  | loadimg a0 a1 a2 a3 => exact execLoadimg_keeps _ _ _ _ h e
  | moult a0 a1 a2 => exact execMoult_keeps _ _ _ h e
  | abandon a0 a1 => exact execAbandon_keeps _ _ h e
  | setboot a0 a1 a2 => exact execSetboot_keeps _ _ _ h e
  | cocoon a0 a1 => exact execCocoon_keeps _ _ h e
  | emerge a0 a1 => exact execEmerge_keeps _ _ h e
  | csrread a0 a1 a2 => exact execCsrread_keeps _ _ _ h e
  | csrwrite a0 a1 a2 a3 => exact execCsrwrite_keeps _ _ _ _ h e
  | hkcal a0 a1 a2 a3 a4 => exact execHkcal_keeps _ _ _ _ _ h e
  | hkselfcal a0 a1 a2 => exact execHkselfcal_keeps _ _ _ h e
  | fibrecal a0 a1 a2 => exact execFibrecal_keeps _ _ _ h e
  | tdccal a0 a1 a2 => exact execTdccal_keeps _ _ _ h e
  | dramtrain a0 a1 a2 => exact execDramtrain_keeps _ _ _ h e
  | dramrate a0 a1 a2 => exact execDramrate_keeps _ _ _ h e
  | rolereq a0 a1 a2 => exact execRolereq_keeps _ _ _ h e
  | rolerel a0 a1 a2 => exact execRolerel_keeps _ _ _ h e
  | lcset a0 a1 a2 => exact execLcset_keeps _ _ _ h e
  | keyrepl a0 a1 a2 => exact execKeyrepl_keeps _ _ _ h e
  | dbgunlock a0 a1 a2 => exact execDbgunlock_keeps _ _ _ h e
  | fabkey a0 a1 a2 => exact execFabkey_keeps _ _ _ h e
  | presenceGiven a0 => exact execPresenceGiven_keeps _ h e
  | presenceTimeout a0 a1 => exact execPresenceTimeout_keeps _ _ h e
  | launch a0 => exact execLaunch_keeps _ h e
  | launchMonitorEdge a0 a1 => exact execLaunchMonitorEdge_keeps _ _ h e
  | launchMonitorMiss a0 => exact execLaunchMonitorMiss_keeps _ h e
  | captureWindowClose a0 a1 => exact execCaptureWindowClose_keeps _ _ h e
  | laserLockGain a0 => exact execLaserLockGain_keeps _ h e
  | laserLockLoss a0 => exact execLaserLockLoss_keeps _ h e
  | laserWlWrite a0 => exact execLaserWlWrite_keeps _ h e
  | laserEnLow a0 => exact execLaserEnLow_keeps _ h e
  | laserEnHigh a0 => exact execLaserEnHigh_keeps _ h e
  | openPortDecision a0 a1 => exact execOpenPortDecision_keeps _ _ h e
  | safeClear a0 => exact execSafeClear_keeps _ h e
  | portWrite a0 => exact execPortWrite_keeps _ h e
  | portSwitchMove a0 => exact execPortSwitchMove_keeps _ h e
  | portSettled a0 => exact execPortSettled_keeps _ h e
  | mfGenStart a0 a1 a2 => exact execMfGenStart_keeps _ _ _ h e
  | mfGenDone a0 a1 => exact execMfGenDone_keeps _ _ h e
  | coefWrite a0 => exact execCoefWrite_keeps _ h e
  | swapRequest a0 => exact execSwapRequest_keeps _ h e
  | swapCopyDone a0 a1 => exact execSwapCopyDone_keeps _ _ h e
  | fadeEnd a0 a1 => exact execFadeEnd_keeps _ _ h e
  | framePublish a0 a1 => exact execFramePublish_keeps _ _ h e
  | sentinelWindowEnd a0 => exact execSentinelWindowEnd_keeps _ h e
  | mapdataWrite a0 => exact execMapdataWrite_keeps _ h e
  | mapcommit a0 => exact execMapcommit_keeps _ h e
  | strCsdataWrite a0 => exact execStrCsdataWrite_keeps _ h e
  | dtsWinWrite a0 a1 => exact execDtsWinWrite_keeps _ _ h e
  | bandSearchStart a0 => exact execBandSearchStart_keeps _ h e
  | bandSearchDone a0 a1 a2 => exact execBandSearchDone_keeps _ _ _ h e
  | dtsHopStart a0 => exact execDtsHopStart_keeps _ h e
  | dtsHopEnd a0 => exact execDtsHopEnd_keeps _ h e
  | dtsLaunchJob a0 => exact execDtsLaunchJob_keeps _ h e
  | dtsProfilePost a0 => exact execDtsProfilePost_keeps _ h e
  | vecJobStart a0 => exact execVecJobStart_keeps _ h e
  | vecJobDone a0 a1 => exact execVecJobDone_keeps _ _ h e
  | vecAbort a0 => exact execVecAbort_keeps _ h e
  | vecCycleLimit a0 => exact execVecCycleLimit_keeps _ h e
  | svScalarInstr a0 => exact execSvScalarInstr_keeps _ h e
  | vld a0 a1 a2 a3 a4 a5 => exact execVld_keeps _ _ _ _ _ _ h e
  | vst a0 a1 a2 a3 a4 a5 => exact execVst_keeps _ _ _ _ _ _ h e
  | vlw a0 a1 a2 a3 a4 a5 => exact execVlw_keeps _ _ _ _ _ _ h e
  | vadd a0 a1 a2 a3 => exact execVadd_keeps _ _ _ _ h e
  | vsub a0 a1 a2 a3 => exact execVsub_keeps _ _ _ _ h e
  | vmul a0 a1 a2 a3 => exact execVmul_keeps _ _ _ _ h e
  | vmac a0 a1 a2 a3 => exact execVmac_keeps _ _ _ _ h e
  | vmsu a0 a1 a2 a3 => exact execVmsu_keeps _ _ _ _ h e
  | vpwr a0 a1 a2 a3 => exact execVpwr_keeps _ _ _ _ h e
  | vclr a0 a1 => exact execVclr_keeps _ _ h e
  | vrd a0 a1 a2 => exact execVrd_keeps _ _ _ h e
  | vbf a0 a1 a2 a3 => exact execVbf_keeps _ _ _ _ h e
  | vbfx a0 a1 a2 a3 => exact execVbfx_keeps _ _ _ _ h e
  | vperm a0 a1 a2 a3 => exact execVperm_keeps _ _ _ _ h e
  | vsplat a0 a1 a2 => exact execVsplat_keeps _ _ _ h e
  | vbexp a0 a1 a2 => exact execVbexp_keeps _ _ _ h e
  | vstage a0 a1 => exact execVstage_keeps _ _ h e
  | vsclr a0 => exact execVsclr_keeps _ h e
  | vmx a0 a1 a2 => exact execVmx_keeps _ _ _ h e
  | vmn a0 a1 a2 => exact execVmn_keeps _ _ _ h e
  | vmxr a0 a1 a2 => exact execVmxr_keeps _ _ _ h e
  | vmnr a0 a1 a2 => exact execVmnr_keeps _ _ _ h e
  | vloop a0 a1 => exact execVloop_keeps _ _ h e
  | vdone a0 => exact execVdone_keeps _ h e
  | linkenWrite a0 => exact execLinkenWrite_keeps _ h e
  | feBlockLock a0 a1 a2 => exact execFeBlockLock_keeps _ _ _ h e
  | feLockLoss a0 a1 a2 a3 => exact execFeLockLoss_keeps _ _ _ _ h e
  | feHello a0 a1 a2 => exact execFeHello_keeps _ _ _ h e
  | feStateTimeout a0 a1 => exact execFeStateTimeout_keeps _ _ h e
  | feRetry a0 a1 => exact execFeRetry_keeps _ _ h e
  | fcmd a0 => exact execFcmd_keeps _ h e
  | bcresetAct a0 a1 => exact execBcresetAct_keeps _ _ h e
  | sccmd a0 => exact execSccmd_keeps _ h e
  | scrsp a0 a1 a2 => exact execScrsp_keeps _ _ _ h e
  | scTimeout a0 => exact execScTimeout_keeps _ h e
  | hitFrame a0 a1 a2 a3 => exact execHitFrame_keeps _ _ _ _ h e
  | feStatusBlock a0 a1 a2 => exact execFeStatusBlock_keeps _ _ _ h e
  | echo a0 a1 a2 a3 => exact execEcho_keeps _ _ _ _ h e
  | patrolStart a0 => exact execPatrolStart_keeps _ h e
  | patrolDone a0 a1 => exact execPatrolDone_keeps _ _ h e
  | zsDecide a0 => exact execZsDecide_keeps _ h e
  | hitBlockTmo a0 a1 => exact execHitBlockTmo_keeps _ _ h e
  | trgArm a0 => exact execTrgArm_keeps _ h e
  | trgArmStop a0 => exact execTrgArmStop_keeps _ h e
  | condSample a0 a1 => exact execCondSample_keeps _ _ h e
  | condTimeout a0 a1 => exact execCondTimeout_keeps _ _ h e
  | trigInEdge a0 a1 a2 a3 a4 => exact execTrigInEdge_keeps _ _ _ _ _ h e
  | hpHitTake a0 a1 => exact execHpHitTake_keeps _ _ h e
  | hpHitExpire a0 a1 => exact execHpHitExpire_keeps _ _ h e
  | classDecide a0 a1 => exact execClassDecide_keeps _ _ h e
  | segmentCopy a0 a1 => exact execSegmentCopy_keeps _ _ h e
  | segmentStreamPart a0 a1 => exact execSegmentStreamPart_keeps _ _ h e
  | trigOutEdge a0 a1 => exact execTrigOutEdge_keeps _ _ h e
  | trigOutPulseEnd a0 a1 => exact execTrigOutPulseEnd_keeps _ _ h e
  | outclr a0 => exact execOutclr_keeps _ h e
  | evbWindowClose a0 => exact execEvbWindowClose_keeps _ h e
  | localStragglerPost a0 => exact execLocalStragglerPost_keeps _ h e
  | evbHeadAdvance a0 a1 => exact execEvbHeadAdvance_keeps _ _ h e
  | cand a0 a1 a2 a3 a4 => exact execCand_keeps _ _ _ _ _ h e
  | deciderDecide a0 => exact execDeciderDecide_keeps _ h e
  | accept a0 a1 a2 a3 a4 a5 => exact execAccept_keeps _ _ _ _ _ _ h e
  | reject a0 a1 a2 => exact execReject_keeps _ _ _ h e
  | candTimeout a0 => exact execCandTimeout_keeps _ h e
  | build a0 a1 a2 a3 a4 => exact execBuild_keeps _ _ _ _ _ h e
  | busy a0 a1 a2 => exact execBusy_keeps _ _ _ h e
  | grant a0 a1 a2 a3 => exact execGrant_keeps _ _ _ _ h e
  | credit a0 a1 a2 a3 a4 => exact execCredit_keeps _ _ _ _ _ h e
  | fragmentSend a0 => exact execFragmentSend_keeps _ h e
  | fragmentReceive a0 a1 => exact execFragmentReceive_keeps _ _ h e
  | eventCloseTimeout a0 => exact execEventCloseTimeout_keeps _ h e
  | timex a0 a1 a2 a3 a4 a5 a6 a7 a8 a9 a10 => exact execTimex_keeps _ _ _ _ _ _ _ _ _ _ _ h e
  | timexSend a0 a1 => exact execTimexSend_keeps _ _ h e
  | parentExchangeLoss a0 => exact execParentExchangeLoss_keeps _ h e
  | lockedTimer a0 => exact execLockedTimer_keeps _ h e
  | ppsEdge a0 a1 => exact execPpsEdge_keeps _ _ h e
  | ref10mChange a0 a1 => exact execRef10mChange_keeps _ _ h e
  | rootSecondBoundary a0 => exact execRootSecondBoundary_keeps _ h e
  | nextsecWrite a0 => exact execNextsecWrite_keeps _ h e
  | asyUpdate a0 a1 => exact execAsyUpdate_keeps _ _ h e
  | asySlew a0 a1 => exact execAsySlew_keeps _ _ h e
  | tsub a0 a1 a2 a3 a4 a5 => exact execTsub_keeps _ _ _ _ _ _ h e
  | tint a0 a1 a2 a3 a4 a5 => exact execTint_keeps _ _ _ _ _ _ h e
  | profileAgeExpiry a0 a1 => exact execProfileAgeExpiry_keeps _ _ h e
  | tdcEdge a0 a1 a2 a3 => exact execTdcEdge_keeps _ _ _ _ h e
  | tdcTimeout a0 a1 => exact execTdcTimeout_keeps _ _ h e
  | tdcDeadTimeEnd a0 a1 => exact execTdcDeadTimeEnd_keeps _ _ h e
  | tdcRingCheck a0 a1 a2 a3 => exact execTdcRingCheck_keeps _ _ _ _ h e
  | tdcCfgWrite a0 a1 => exact execTdcCfgWrite_keeps _ _ h e
  | fabricFrame a0 a1 a2 a3 a4 => exact execFabricFrame_keeps _ _ _ _ _ h e
  | pher a0 a1 a2 => exact execPher_keeps _ _ _ h e
  | pherSend a0 a1 => exact execPherSend_keeps _ _ h e
  | peerDead a0 a1 => exact execPeerDead_keeps _ _ h e
  | fabPortLock a0 a1 a2 a3 => exact execFabPortLock_keeps _ _ _ _ h e
  | fabPortTimeout a0 a1 => exact execFabPortTimeout_keeps _ _ h e
  | lsa a0 a1 a2 a3 => exact execLsa_keeps _ _ _ _ h e
  | lsaRefresh a0 => exact execLsaRefresh_keeps _ h e
  | lsaMaxage a0 a1 => exact execLsaMaxage_keeps _ _ h e
  | idClaimDone a0 => exact execIdClaimDone_keeps _ h e
  | lcred a0 a1 a2 => exact execLcred_keeps _ _ _ h e
  | lcredSend a0 a1 => exact execLcredSend_keeps _ _ h e
  | fabSend a0 a1 => exact execFabSend_keeps _ _ h e
  | fwdTapSend a0 a1 => exact execFwdTapSend_keeps _ _ h e
  | fwdWrite a0 a1 => exact execFwdWrite_keeps _ _ h e
  | reassemblyTimeout a0 => exact execReassemblyTimeout_keeps _ h e
  | rann a0 a1 a2 a3 a4 a5 a6 => exact execRann_keeps _ _ _ _ _ _ _ h e
  | rannRenew a0 a1 => exact execRannRenew_keeps _ _ h e
  | rreq a0 a1 a2 a3 a4 a5 a6 => exact execRreq_keeps _ _ _ _ _ _ _ h e
  | rrel a0 a1 a2 a3 a4 a5 => exact execRrel_keeps _ _ _ _ _ _ h e
  | roleLapse a0 a1 => exact execRoleLapse_keeps _ _ h e
  | roleRequestWaitEnd a0 a1 => exact execRoleRequestWaitEnd_keeps _ _ h e
  | ethAck a0 a1 a2 a3 => exact execEthAck_keeps _ _ _ _ h e
  | ethSyncTimeout a0 a1 => exact execEthSyncTimeout_keeps _ _ h e
  | ethRetransmit a0 a1 => exact execEthRetransmit_keeps _ _ h e
  | ethPieceSend a0 a1 => exact execEthPieceSend_keeps _ _ h e
  | ethMgmtDatagram a0 a1 a2 a3 a4 => exact execEthMgmtDatagram_keeps _ _ _ _ _ h e
  | ethArp a0 a1 a2 a3 a4 => exact execEthArp_keeps _ _ _ _ _ h e
  | ethNd a0 a1 a2 a3 a4 => exact execEthNd_keeps _ _ _ _ _ h e
  | ethEcho a0 a1 a2 a3 a4 a5 => exact execEthEcho_keeps _ _ _ _ _ _ h e
  | ptpMessage a0 a1 a2 a3 => exact execPtpMessage_keeps _ _ _ _ h e
  | memAdmissionTick a0 => exact execMemAdmissionTick_keeps _ h e
  | memRefresh a0 a1 => exact execMemRefresh_keeps _ _ h e
  | memRequestServe a0 a1 a2 a3 => exact execMemRequestServe_keeps _ _ _ _ h e
  | scrubStep a0 a1 => exact execScrubStep_keeps _ _ h e
  | trnGo a0 => exact execTrnGo_keeps _ h e
  | trnApply a0 => exact execTrnApply_keeps _ h e
  | trnGatherDone a0 a1 a2 => exact execTrnGatherDone_keeps _ _ _ h e
  | dramTempDrift a0 a1 a2 => exact execDramTempDrift_keeps _ _ _ h e
  | cmpLaneTake a0 => exact execCmpLaneTake_keeps _ h e
  | cmpOutputPublish a0 a1 a2 a3 => exact execCmpOutputPublish_keeps _ _ _ _ h e
  | cmpChainWaitExpiry a0 a1 => exact execCmpChainWaitExpiry_keeps _ _ h e
  | decompressJob a0 a1 => exact execDecompressJob_keeps _ _ h e
  | pllUnlock a0 a1 => exact execPllUnlock_keeps _ _ h e
  | pllRelock a0 a1 a2 a3 a4 a5 a6 => exact execPllRelock_keeps _ _ _ _ _ _ _ h e
  | synSLockTimeout a0 => exact execSynSLockTimeout_keeps _ h e
  | pllRetryAlarm a0 a1 => exact execPllRetryAlarm_keeps _ _ h e
  | refCountFail a0 => exact execRefCountFail_keeps _ h e
  | clkCommit a0 => exact execClkCommit_keeps _ h e
  | commitPoint a0 => exact execCommitPoint_keeps _ h e
  | mslotWrite a0 a1 => exact execMslotWrite_keeps _ _ h e
  | mselHop a0 a1 => exact execMselHop_keeps _ _ h e
  | hkcGo a0 => exact execHkcGo_keeps _ h e
  | hkcIgo a0 => exact execHkcIgo_keeps _ h e
  | hkcStop a0 => exact execHkcStop_keeps _ h e
  | hkcTimer a0 => exact execHkcTimer_keeps _ h e
  | hkcStartDelayEnd a0 => exact execHkcStartDelayEnd_keeps _ h e
  | hkcConversionDone a0 a1 a2 a3 => exact execHkcConversionDone_keeps _ _ _ _ h e
  | hkcAuxConversion a0 a1 a2 a3 => exact execHkcAuxConversion_keeps _ _ _ _ h e
  | hkcExcWrite a0 a1 => exact execHkcExcWrite_keeps _ _ h e
  | hkcEnWrite a0 => exact execHkcEnWrite_keeps _ h e
  | calgainWrite a0 a1 => exact execCalgainWrite_keeps _ _ h e
  | blankPin a0 a1 => exact execBlankPin_keeps _ _ h e
  | flsArm a0 => exact execFlsArm_keeps _ h e
  | flashTurnOn a0 a1 => exact execFlashTurnOn_keeps _ _ h e
  | flashTurnOff a0 a1 => exact execFlashTurnOff_keeps _ _ h e
  | flashCheck a0 a1 a2 a3 a4 => exact execFlashCheck_keeps _ _ _ _ _ h e
  | dimSlot a0 a1 => exact execDimSlot_keeps _ _ h e
  | flsChDisable a0 a1 => exact execFlsChDisable_keeps _ _ h e
  | flvAdapt a0 a1 => exact execFlvAdapt_keeps _ _ h e
  | flsPowerCheck a0 a1 => exact execFlsPowerCheck_keeps _ _ h e
  | flsDerate a0 a1 a2 => exact execFlsDerate_keeps _ _ _ h e
  | diagWindowEnd a0 a1 => exact execDiagWindowEnd_keeps _ _ h e
  | flsStatusPost a0 => exact execFlsStatusPost_keeps _ h e
  | mismatch a0 => exact execMismatch_keeps _ h e
  | selfTestVerdict a0 a1 a2 => exact execSelfTestVerdict_keeps _ _ _ h e
  | recoveryResume a0 => exact execRecoveryResume_keeps _ h e
  | leaseRenewal a0 => exact execLeaseRenewal_keeps _ h e
  | leaseExpiry a0 => exact execLeaseExpiry_keeps _ h e
  | coreRetest a0 a1 => exact execCoreRetest_keeps _ _ h e
  | ctest a0 => exact execCtest_keeps _ h e
  | comparatorTest a0 a1 => exact execComparatorTest_keeps _ _ h e
  | vecKnownAnswer a0 a1 => exact execVecKnownAnswer_keeps _ _ h e
  | cmpKnownAnswer a0 a1 a2 => exact execCmpKnownAnswer_keeps _ _ _ h e
  | hkcRefCheck a0 a1 a2 => exact execHkcRefCheck_keeps _ _ _ h e
  | timeCrossCheck a0 a1 a2 => exact execTimeCrossCheck_keeps _ _ _ h e
  | alarmSummaryPost a0 => exact execAlarmSummaryPost_keeps _ h e
  | alarmTokenRefill a0 a1 => exact execAlarmTokenRefill_keeps _ _ h e
  | criticalBufferDrain a0 => exact execCriticalBufferDrain_keeps _ h e
  | counterSnapshot a0 => exact execCounterSnapshot_keeps _ h e
  | snapatWrite a0 => exact execSnapatWrite_keeps _ h e
  | staleCheck a0 => exact execStaleCheck_keeps _ h e
  | sealBreak a0 => exact execSealBreak_keeps _ h e
  | sealClose a0 => exact execSealClose_keeps _ h e
  | lcjChange a0 a1 => exact execLcjChange_keeps _ _ h e
  | rngRead a0 => exact execRngRead_keeps _ h e
  | rngHealthFail a0 => exact execRngHealthFail_keeps _ h e
  | moultLoadDone a0 a1 => exact execMoultLoadDone_keeps _ _ h e
  | moultCkptTimeout a0 => exact execMoultCkptTimeout_keeps _ h e
  | coldStart a0 a1 a2 => exact execColdStart_keeps _ _ _ h e
  | powerGood a0 a1 => exact execPowerGood_keeps _ _ h e
  | brownOut a0 => exact execBrownOut_keeps _ h e
  | railFault a0 a1 => exact execRailFault_keeps _ _ h e
  | resetNAssert a0 => exact execResetNAssert_keeps _ h e
  | resetRelease a0 a1 => exact execResetRelease_keeps _ _ h e
  | startupComplete a0 a1 a2 a3 => exact execStartupComplete_keeps _ _ _ _ h e
  | cocoonEntryDone a0 => exact execCocoonEntryDone_keeps _ h e
  | mboxcmd a0 => exact execMboxcmd_keeps _ h e
  | wakeatExpiry a0 => exact execWakeatExpiry_keeps _ h e
  | emergenceDone a0 a1 a2 a3 a4 => exact execEmergenceDone_keeps _ _ _ _ _ h e
  | spiNop a0 a1 a2 a3 a4 => exact execSpiNop_keeps _ _ _ _ _ h e
  | csrrd a0 a1 a2 a3 => exact execCsrrd_keeps _ _ _ _ h e
  | csrwr a0 a1 a2 a3 a4 => exact execCsrwr_keeps _ _ _ _ _ h e
  | memrd a0 a1 a2 a3 => exact execMemrd_keeps _ _ _ _ h e
  | memwr a0 a1 a2 a3 a4 => exact execMemwr_keeps _ _ _ _ _ h e
  | spiPost a0 a1 a2 a3 a4 => exact execSpiPost_keeps _ _ _ _ _ h e
  | spiTake a0 a1 a2 a3 a4 => exact execSpiTake_keeps _ _ _ _ _ h e
  | dbgLock a0 => exact execDbgLock_keeps _ h e
  | debugOpenExpiry a0 => exact execDebugOpenExpiry_keeps _ h e
  | queEnable a0 a1 => exact execQueEnable_keeps _ _ h e
  | queHeadWrite a0 a1 => exact execQueHeadWrite_keeps _ _ h e
  | resultRegisterRead a0 a1 => exact execResultRegisterRead_keeps _ _ h e
  | pairLoRead a0 a1 => exact execPairLoRead_keeps _ _ h e
  | pairHiWrite a0 a1 a2 => exact execPairHiWrite_keeps _ _ _ h e
  | csrWrite a0 a1 a2 => exact execCsrWrite_keeps _ _ _ h e
  | feSuperframe a0 => exact execFeSuperframe_keeps _ h e
  | ingressFifoDrained a0 a1 => exact execIngressFifoDrained_keeps _ _ h e
  | csrAcknowledge a0 a1 => exact execCsrAcknowledge_keeps _ _ h e
  | tdcCalibrationDone a0 a1 a2 a3 => exact execTdcCalibrationDone_keeps _ _ _ _ h e
  | imageSlotWriteDone a0 a1 a2 => exact execImageSlotWriteDone_keeps _ _ _ h e
  | profileWriteDone a0 => exact execProfileWriteDone_keeps _ h e
  | lifeCycleWipeDone a0 => exact execLifeCycleWipeDone_keeps _ h e
  | startUpFailure a0 a1 => exact execStartUpFailure_keeps _ _ h e
  | startUpProfileLoaded a0 a1 => exact execStartUpProfileLoaded_keeps _ _ h e
  | sramScrub a0 a1 a2 a3 => exact execSramScrub_keeps _ _ _ _ h e
  | configurationParityError a0 a1 => exact execConfigurationParityError_keeps _ _ h e
  | supervisorFault a0 => exact execSupervisorFault_keeps _ h e
  | baseplateTemperatureCheck a0 a1 => exact execBaseplateTemperatureCheck_keeps _ _ h e
  | ka3v3Change a0 a1 => exact execKa3v3Change_keeps _ _ h e
  | rngfailClear a0 => exact execRngfailClear_keeps _ h e
  | diagnosticPulse a0 a1 => exact execDiagnosticPulse_keeps _ _ h e
  | ptpLockChange a0 a1 => exact execPtpLockChange_keeps _ _ h e
  | ethernetFrameDiscarded a0 a1 => exact execEthernetFrameDiscarded_keeps _ _ h e
  | tapOperation a0 a1 a2 => exact execTapOperation_keeps _ _ _ h e

end Sys2Proof.Machine
end

