-- ==== Sys2Proof/Machine/Pins.lean ====
section
/-! DEFINITION. The output pins as the state drives them (R467, R474, R475, R477, R481, R483). No command reads them. -/

namespace Sys2Proof.Machine

open Csr

/-- What drives an output pin. -/
inductive Level where
  /-- High-impedance. -/
  | z
  | low
  | high
  deriving DecidableEq, Repr

/-- A driven level. -/
def Level.of (b : Bool) : Level := if b then .high else .low

/-- The pins of the main supply are held in the states of R467: in reset, in STARTUP and in HOLD. -/
def State.pinsHeld (s : State) : Bool := s.pwr.held || s.mode == Mode.startup || s.mode == Mode.hold

/-- TRIG_OUT i (R240, R467). -/
def State.pinTrigOut (s : State) (i : Nat) : Level := if s.pwr.mainOk then .of (s.outPin i) else .z

/-- SPI_ATTN_N, an open drain: low or released (R467, R474). -/
def State.pinAttn (s : State) : Level := if s.pwr.mainOk && !s.pinsHeld && s.spiAttn then .low else .z

/-- UART_TX: idle high; a start bit, 8 data bits from the least significant, a stop bit (R467, R475). -/
def State.pinUart (s : State) : Level :=
  if !s.pwr.mainOk then .z
  else match s.pinsHeld || !s.b DBG_UART 31, s.dbg.uart with
    | false, c :: _ => let k := s.dbg.uartPhase * 10 / psPerSec; .of (decide (k = 9) || (decide (0 < k) && c.testBit (k - 1)))
    | _, _ => .high

/-- A conversion integrates: its window is open. -/
def State.hkWindow (s : State) : Bool :=
  match s.hkc.conv with
  | some v => decide (v.start + v.wait + v.pre ≤ s.up) && decide (s.up < v.start + v.wait + v.pre + v.win)
  | none => false

/-- Housekeeping blanking is in force. -/
def State.hkBlanking (s : State) : Bool :=
  s.hkc.blankSince.isSome || s.hkc.blanks.any (fun (x : Nat × Nat) => decide (x.1 ≤ s.up) && decide (s.up < x.2))

/-- The sink of a flasher channel conducts. -/
def State.sinkOn (s : State) (n : Nat) : Bool := (s.flsCh n).on.isSome || (s.flsCh n).slotOn

/-- A source of Table DBG-18. Source 5, the raw comparator of the launch monitor, is low between commands (notes/assumptions/155.md). -/
def State.dtestSource (s : State) (sel : Nat) : Bool :=
  match sel with
  | 1 => decide (s.time % psPerSec < us)
  | 2 => (s.time / tick).testBit 4
  | 3 => s.lch.wins.any (fun l => decide (l.gateOn ≤ s.time) && decide (s.time < l.gateOff))
  | 4 => s.lchStat.testBit 27
  | 6 => s.trg.accAt.any (fun t => decide (s.up < t + 100000))
  | 7 => s.hkWindow
  | 8 => s.hkBlanking
  | 9 => (List.range 16).any s.sinkOn
  | 10 => decide (s.up < s.flt.leaseAt + 100000)
  | 11 => s.b FLT_STAT 31
  | 12 => s.b CLK_STAT 30
  | 13 => decide (s.timState = 2)
  | 14 => s.b MEM_STAT 30
  | 15 => s.vec.job.isSome
  | _ => false

/-- DTEST i: low while MUX is locked (R467, R483). -/
def State.pinDtest (s : State) (i : Nat) : Level :=
  if !s.pwr.mainOk then .z
  else .of (!s.pinsHeld && s.dbgKind s.dbg.mux && s.dtestSource (s.f (DBG_DTEST i) 5 0))

/-- The source of Table DBG-17 that ATEST i carries; none where it is high-impedance (R483). -/
def State.pinAtest (s : State) (i : Nat) : Option Nat :=
  let sel := s.f (DBG_ATEST i) 4 0
  if s.pwr.mainOk && s.dbgKind s.dbg.mux && decide (1 ≤ sel) && decide (sel ≤ 8) then some sel else none

/-- The IEX pin that drives and its current code: at most one (R477). -/
def State.pinIex (s : State) : Option (Nat × Nat) := if s.pwr.mainOk then s.hkc.exc else none

/-- The test access port is driven by the boundary register: EXTEST, CLAMP and HIGHZ act in EGG and LARVA while RESET_N is low (R481). -/
def State.scanDrives (s : State) : Bool :=
  decide (3 ≤ s.dbg.tapIr) && (s.sec.lc == LifeCycle.egg || s.sec.lc == LifeCycle.larva) && s.pwr.resetN

end Sys2Proof.Machine
end

