-- ==== Sys2Proof/Tests/Slice0.lean ====
section
/-! SUPPORT. The model's own tests: ill-formed commands, a witness for every statement with hypotheses, and examples worked out in the spec. -/

namespace Sys2Proof.Tests

open Sys2Proof Sys2Proof.Machine Sys2Proof.Machine.Csr Host

/-- Out of reset, in IDLE, with the clock of every island on. -/
def withIslands : State := { State.reset with mode := .idle, pwr := { PwrSt.reset with held := false }, clk := { ClkSt.reset with gate := 0xFFF } }

/-- Operands that fit: an empty frame, what a training finds, four of them, and four temperatures. -/
def frame : Frame := { h0 := 0, h1 := 0, h2 := 0, h3 := 0, payload := [] }

def trained : TrnResult := { delays := List.replicate 35 0 }

def all4 : List TrnResult := List.replicate 4 trained

def temps : List Nat := List.replicate 4 0

/-- Operands that do not fit their field are refused, part 1. -/
theorem test_ill_formed_1 : ([.ping 0 (2 ^ 64), .status 0 (2 ^ 64), .reset 0 (2 ^ 64), .loglevel 0 (2 ^ 64) 0, .loglevel 0 0 (2 ^ 64),
    .cntsnap 0 (2 ^ 64) 0, .cntsnap 0 0 (2 ^ 64), .arm 0 (2 ^ 64) [], .arm 0 0 [2 ^ 64], .disarm 0 (2 ^ 64), .stop 0 (2 ^ 64), .selprof 0 (2 ^ 64) 0,
    .selprof 0 0 (2 ^ 64), .saveprof 0 (2 ^ 64) 0 0, .saveprof 0 0 (2 ^ 64) 0, .saveprof 0 0 0 (2 ^ 64), .setcfg 0 (2 ^ 64) [], .setcfg 0 0 [2 ^ 64],
    .getcfg 0 (2 ^ 64), .moult 0 (2 ^ 64) 0, .moult 0 0 (2 ^ 64), .abandon 0 (2 ^ 64), .setboot 0 (2 ^ 64) 0, .setboot 0 0 (2 ^ 64)] : List Instr).all (fun i => !i.wf) = true := by decide

/-- Operands that do not fit their field are refused, part 2. -/
theorem test_ill_formed_2 : ([.cocoon 0 (2 ^ 64), .emerge 0 (2 ^ 64), .csrread 0 (2 ^ 64) 0, .csrread 0 0 (2 ^ 64), .csrwrite 0 (2 ^ 64) 0 0,
    .csrwrite 0 0 (2 ^ 64) 0, .csrwrite 0 0 0 (2 ^ 64), .hkcal 0 (2 ^ 64) 0 0 0, .hkcal 0 0 (2 ^ 64) 0 0, .hkcal 0 0 0 (2 ^ 64) 0,
    .hkcal 0 0 0 0 (2 ^ 64), .hkselfcal 0 (2 ^ 64) 0, .hkselfcal 0 0 (2 ^ 64), .fibrecal 0 (2 ^ 64) [], .fibrecal 0 0 [2 ^ 64], .tdccal 0 (2 ^ 64) 0,
    .tdccal 0 0 (2 ^ 64), .dramtrain 0 (2 ^ 64) 0, .dramtrain 0 0 (2 ^ 64), .dramrate 0 (2 ^ 64) 0, .dramrate 0 0 (2 ^ 64), .rolereq 0 (2 ^ 64) 0,
    .rolereq 0 0 (2 ^ 64), .rolerel 0 (2 ^ 64) 0] : List Instr).all (fun i => !i.wf) = true := by decide

/-- Operands that do not fit their field are refused, part 3. -/
theorem test_ill_formed_3 : ([.rolerel 0 0 (2 ^ 64), .lcset 0 (2 ^ 64) [], .lcset 0 0 [2 ^ 64], .keyrepl 0 (2 ^ 64) [], .keyrepl 0 0 [2 ^ 64],
    .dbgunlock 0 (2 ^ 64) [], .dbgunlock 0 0 [2 ^ 64], .fabkey 0 (2 ^ 64) [], .fabkey 0 0 [2 ^ 64], .feHello 0 0 (2 ^ 64), .scrsp 0 0 (2 ^ 64),
    .feStatusBlock 0 0 (2 ^ 64), .echo 0 0 (2 ^ 64) 0, .cand 0 0 0 (2 ^ 64) 0, .cand 0 0 0 0 (2 ^ 32), .accept 0 0 (2 ^ 16) 0 0 0,
    .accept 0 0 0 (2 ^ 32) 0 0, .accept 0 0 0 0 (2 ^ 64) 0, .accept 0 0 0 0 0 (2 ^ 32), .reject 0 0 (2 ^ 32), .build 0 (2 ^ 16) 0 0 [],
    .build 0 0 (2 ^ 32) 0 [], .build 0 0 0 (2 ^ 64) [], .build 0 0 0 0 [2 ^ 10]] : List Instr).all (fun i => !i.wf) = true := by decide

/-- Operands that do not fit their field are refused, part 4. -/
theorem test_ill_formed_4 : ([.grant 0 0 (2 ^ 16) 0, .grant 0 0 0 (2 ^ 16), .credit 0 0 (2 ^ 16) 0 0, .credit 0 0 0 (2 ^ 16) 0,
    .credit 0 0 0 0 (2 ^ 32), .fragmentReceive 0 [2 ^ 64], .timex 0 0 (2 ^ 32) 0 0 0 0 false 0 0 0, .timex 0 0 0 (2 ^ 32) 0 0 0 false 0 0 0,
    .timex 0 0 0 0 (2 ^ 64) 0 0 false 0 0 0, .timex 0 0 0 0 0 (2 ^ 64) 0 false 0 0 0, .timex 0 0 0 0 0 0 0 false 0 0 (2 ^ 16), .lcred 0 0 (2 ^ 64),
    .rann 0 0 0 (2 ^ 16) 0 0 0, .rann 0 0 0 0 (2 ^ 8) 0 0, .rann 0 0 0 0 0 (2 ^ 64) 0, .rann 0 0 0 0 0 0 (2 ^ 64), .rreq 0 0 0 (2 ^ 16) 0 0 0,
    .rreq 0 0 0 0 (2 ^ 8) 0 0, .rreq 0 0 0 0 0 (2 ^ 64) 0, .rreq 0 0 0 0 0 0 (2 ^ 64), .rrel 0 0 0 (2 ^ 16) 0 0, .rrel 0 0 0 0 (2 ^ 8) 0,
    .rrel 0 0 0 0 0 (2 ^ 64), .ethAck 0 0 (2 ^ 32) 0] : List Instr).all (fun i => !i.wf) = true := by decide

/-- Operands that do not fit their field are refused, part 5. -/
theorem test_ill_formed_5 : ([.ethAck 0 0 0 (2 ^ 32), .ethArp 0 0 false (2 ^ 32) 0, .ethArp 0 0 false 0 (2 ^ 32), .ethNd 0 0 false (2 ^ 128) 0,
    .ethNd 0 0 false 0 (2 ^ 128), .spiNop 0 (2 ^ 8) 0 0 0, .spiNop 0 0 (2 ^ 16) 0 0, .spiNop 0 0 0 (2 ^ 40) 0, .spiNop 0 0 0 0 (2 ^ 8),
    .csrrd 0 (2 ^ 16) 0 0, .csrrd 0 0 (2 ^ 40) 0, .csrrd 0 0 0 (2 ^ 8), .csrwr 0 (2 ^ 16) 0 0 0, .csrwr 0 0 (2 ^ 40) 0 0, .csrwr 0 0 0 (2 ^ 32) 0,
    .csrwr 0 0 0 0 (2 ^ 8), .memrd 0 (2 ^ 16) 0 0, .memrd 0 0 (2 ^ 40) 0, .memrd 0 0 0 (2 ^ 8), .memwr 0 (2 ^ 16) 0 [] 0, .memwr 0 0 (2 ^ 40) [] 0,
    .memwr 0 0 0 [2 ^ 64] 0, .memwr 0 0 0 [] (2 ^ 8), .spiPost 0 (2 ^ 16) 0 [] 0] : List Instr).all (fun i => !i.wf) = true := by decide

/-- Operands that do not fit their field are refused, part 6. -/
theorem test_ill_formed_6 : ([.spiPost 0 0 (2 ^ 40) [] 0, .spiPost 0 0 0 [2 ^ 64] 0, .spiPost 0 0 0 [] (2 ^ 8), .spiTake 0 (2 ^ 16) 0 0 false,
    .spiTake 0 0 (2 ^ 40) 0 false, .spiTake 0 0 0 (2 ^ 8) false, .resultRegisterRead 0 (2 ^ 32), .pairLoRead 0 (2 ^ 32), .pairHiWrite 0 (2 ^ 32) 0,
    .csrWrite 0 (2 ^ 32) 0, .launchMonitorEdge 0 (2 ^ 16), .vecJobDone 0 (2 ^ 32), .feBlockLock 0 0 [2 ^ 2], .feLockLoss 0 0 false [2 ^ 2],
    .hitFrame 0 0 0 [(4, 0)], .hitFrame 0 0 0 [(0, 2 ^ 64)], .hitFrame 0 0 (2 ^ 16) [], .trigInEdge 0 0 false false (2 ^ 16),
    .tsub 0 0 0 (2 ^ 18) 0 0, .tsub 0 0 0 0 (2 ^ 18) 0, .tsub 0 0 0 0 0 (2 ^ 31), .tsub 0 0 0 0 0 (-2 ^ 31 - 1), .tint 0 0 0 (2 ^ 64) 0 0,
    .tint 0 0 0 0 (2 ^ 63) 0] : List Instr).all (fun i => !i.wf) = true := by decide

/-- Operands that do not fit their field are refused, part 7. -/
theorem test_ill_formed_7 : ([.tint 0 0 0 0 (-2 ^ 63 - 1) 0, .tint 0 0 0 0 0 (2 ^ 10), .tdcRingCheck 0 0 (2 ^ 16) false, .dramTempDrift 0 0 (2 ^ 8),
    .flashCheck 0 0 false (2 ^ 16) 0, .flashCheck 0 0 false 0 (2 ^ 16), .flvAdapt 0 (2 ^ 16), .flsPowerCheck 0 (2 ^ 32),
    .tdcCalibrationDone 0 0 (2 ^ 16) 0, .tdcCalibrationDone 0 0 0 (2 ^ 16), .startUpProfileLoaded 0 (2 ^ 14), .sramScrub 0 0 (2 ^ 32) false,
    .loadimg 0 (2 ^ 64) 0 0, .loadimg 0 0 (2 ^ 64) 0, .loadimg 0 0 0 (2 ^ 64), .fabricFrame 0 0 false { frame with h0 := 2 ^ 64 } false,
    .fabricFrame 0 0 false { frame with h1 := 2 ^ 64 } false, .fabricFrame 0 0 false { frame with h2 := 2 ^ 64 } false,
    .fabricFrame 0 0 false { frame with h3 := 2 ^ 64 } false, .fabricFrame 0 0 false { frame with payload := [2 ^ 64] } false,
    .fabricFrame 0 0 false { frame with tag := [0] } false, .fabricFrame 0 0 false { frame with tag := [2 ^ 64, 0] } false,
    .fabricFrame 0 0 false { frame with crc := 2 ^ 32 } false, .pher 0 0 { frame with h0 := 2 ^ 64 }] : List Instr).all (fun i => !i.wf) = true := by decide

/-- Operands that do not fit their field are refused, part 8. -/
theorem test_ill_formed_8 : ([.lsa 0 0 { frame with payload := [2 ^ 64] } false, .ethMgmtDatagram 0 0 (2 ^ 128) 0 frame,
    .ethMgmtDatagram 0 0 0 (2 ^ 16) frame, .ethMgmtDatagram 0 0 0 0 { frame with crc := 2 ^ 32 }, .ethEcho 0 0 false (2 ^ 32) 0 [],
    .ethEcho 0 0 false 0 (2 ^ 32) [], .ethEcho 0 0 true (2 ^ 128) 0 [], .ethEcho 0 0 true 0 (2 ^ 128) [], .ethEcho 0 0 false 0 0 [2 ^ 8],
    .ptpMessage 0 false (2 ^ 8) (.sync 0 0 false 0), .ptpMessage 0 false 0 (.sync (2 ^ 80) 0 false 0),
    .ptpMessage 0 false 0 (.sync 0 (2 ^ 16) false 0), .ptpMessage 0 false 0 (.followUp (2 ^ 80) 0 0), .ptpMessage 0 false 0 (.followUp 0 (2 ^ 16) 0),
    .ptpMessage 0 false 0 (.delayResp (2 ^ 80) 0 0 0), .ptpMessage 0 false 0 (.delayResp 0 (2 ^ 16) 0 0),
    .ptpMessage 0 false 0 (.delayResp 0 0 (2 ^ 80) 0), .ptpMessage 0 false 0 (.announce (2 ^ 80) true 0 [0, 0, 0, 0, 0, 0, 0]),
    .ptpMessage 0 false 0 (.announce 0 true 128 [0, 0, 0, 0, 0, 0, 0]), .ptpMessage 0 false 0 (.announce 0 true 0 []),
    .ptpMessage 0 false 0 (.announce 0 true 0 [0, 0, 0, 0, 0, 0, 2 ^ 64]), .trnGatherDone 0 [[(0, 2 ^ 32)]] none,
    .trnGatherDone 0 [] (some { trained with rd := 2 ^ 8 }), .trnGatherDone 0 [] (some { trained with wr := 2 ^ 8 })] : List Instr).all (fun i => !i.wf) = true := by decide

/-- Operands that do not fit their field are refused, part 9. -/
theorem test_ill_formed_9 : ([.trnGatherDone 0 [] (some { trained with temp := 2 ^ 8 }), .trnGatherDone 0 [] (some { trained with delays := [] }),
    .trnGatherDone 0 [] (some { trained with delays := List.replicate 35 (2 ^ 16) }), .pllRelock 0 0 (2 ^ 9) 0 0 [] temps,
    .pllRelock 0 0 0 0 0 [(4, 0, 0, 0)] temps, .pllRelock 0 0 0 0 0 [(0, 16, 0, 0)] temps, .pllRelock 0 0 0 0 0 [(0, 0, 512, 0)] temps,
    .pllRelock 0 0 0 0 0 [(0, 0, 0, 2 ^ 32)] temps, .pllRelock 0 0 0 0 0 [] [0], .pllRelock 0 0 0 0 0 [] [0, 0, 0, 2 ^ 8],
    .emergenceDone 0 0 [(4, 0, 0, 0)] temps [], .emergenceDone 0 0 [] [] [], .emergenceDone 0 0 [] temps [{}],
    .startupComplete 0 [(2 ^ 16, 0)] 0 all4, .startupComplete 0 [(0, 2 ^ 16)] 0 all4, .startupComplete 0 [] 0 [],
    .startupComplete 0 [] 0 [trained, trained, trained, {}], .bandSearchDone 0 (2 ^ 9) 0, .memRequestServe 0 0 [(16, 0, false)] 0,
    .memRequestServe 0 0 [(0, 2 ^ 40, false)] 0, .tdcEdge 0 0 0 (2 ^ 16), .cmpOutputPublish 0 0 [[([2 ^ 4], [])]] [],
    .cmpOutputPublish 0 0 [[([], [2 ^ 4])]] [], .cmpOutputPublish 0 0 [] [(0, [2 ^ 8], 0)]] : List Instr).all (fun i => !i.wf) = true := by decide

/-- Operands that do not fit their field are refused, part 10. -/
theorem test_ill_formed_10 : ([.cmpOutputPublish 0 0 [] [(0, [], 2 ^ 32)]] : List Instr).all (fun i => !i.wf) = true := by decide

/-- More than 8,190 arguments (R56). -/
theorem test_too_many_arguments : (Instr.arm 0 0 (List.replicate 8191 0)).wf = false ∧
      (Instr.setcfg 0 0 (List.replicate 8191 0)).wf = false ∧
      (Instr.fibrecal 0 0 (List.replicate 8191 0)).wf = false ∧
      (Instr.lcset 0 0 (List.replicate 8191 0)).wf = false ∧
      (Instr.keyrepl 0 0 (List.replicate 8191 0)).wf = false ∧
      (Instr.dbgunlock 0 0 (List.replicate 8191 0)).wf = false ∧
      (Instr.fabkey 0 0 (List.replicate 8191 0)).wf = false := by
  have h : (List.replicate 8191 0).length = 8191 := List.length_replicate
  generalize List.replicate 8191 0 = l at h ⊢
  simp [Instr.wf, h]

/-- More than 512 words (R472). -/
theorem test_too_many_words : (Instr.memwr 0 0 0 (List.replicate 513 0) 0).wf = false ∧
      (Instr.spiPost 0 0 0 (List.replicate 513 0) 0).wf = false := by
  have h : (List.replicate 513 0).length = 513 := List.length_replicate
  generalize List.replicate 513 0 = l at h ⊢
  simp [Instr.wf, h]

/-- At the bounds the operands fit: the largest words, fields of each kind, and 8,190 arguments. -/
theorem test_well_formed : ([.ping 0 (2 ^ 64 - 1), .arm 0 0 [2 ^ 64 - 1], .credit 0 0 (2 ^ 16 - 1) (2 ^ 16 - 1) (2 ^ 32 - 1), .pllRelock 0 0 (2 ^ 9 - 1) 0 0 [(3, 15, 511, 2 ^ 32 - 1)] temps, .fabricFrame 0 0 true { frame with tag := [2 ^ 64 - 1, 0], crc := 2 ^ 32 - 1 } true,
    .startupComplete 0 [(2 ^ 16 - 1, 0)] 0 all4,
    .hitFrame 0 0 (2 ^ 16 - 1) [(3, 2 ^ 64 - 1)], .tsub 0 0 0 0 (2 ^ 18 - 1) (-2 ^ 31), .ethEcho 0 0 true (2 ^ 128 - 1) 0 [255],
    .memwr 0 (2 ^ 16 - 1) (2 ^ 40 - 1) [2 ^ 64 - 1] (2 ^ 8 - 1), .add 15 15 15] : List Instr).all (·.wf) = true := by decide

theorem test_enough_arguments : (Instr.arm 0 0 (List.replicate 8190 0)).wf = true := by
  have h : (List.replicate 8190 0).length = 8190 := List.length_replicate
  have g : (List.replicate 8190 0).all (fits 64) = true := by
    rw [List.all_eq_true]; intro x hx; rw [List.eq_of_mem_replicate hx]; decide
  generalize List.replicate 8190 0 = l at h g ⊢
  simp [Instr.wf, allFit, g, h, fits]

/-! States for the tests: the reset state with what the test needs. -/

/-- The module in IDLE, out of reset: the cores issue. -/
def on : State := { State.reset with mode := .idle, pwr := { PwrSt.reset with held := false } }

/-- The same in another module state. -/
def inMode (m : Mode) : State := { on with mode := m }

/-- The core state changed. -/
def withCore (f : CoreSt → CoreSt) : State := { on with core := f on.core }

/-- w1 and w2 set. -/
def regs12 (x y : DWord) : State := (on.setW 1 x).setW 2 y

/-- A queue with 16 slots at a base, its HEAD and TAIL. -/
def ring (s : State) (n base head tail : Nat) : State :=
  ((((s.setCsr (QUE_BASE_LO n) (BitVec.ofNat 32 base)).setCsr (QUE_BASE_HI n) (BitVec.ofNat 32 (base / 2 ^ 32))).setCsr (QUE_CFG n) 0x80000004).setCsr (QUE_HEAD n)
    (BitVec.ofNat 32 head)).setCsr (QUE_TAIL n) (BitVec.ofNat 32 tail)

theorem test_on_issues : on.issues = true ∧ on.eccAt 0 on.core.pc.toNat = false ∧ on.awake = true ∧ on.pwr.held = false := by decide

/-- Memories of the state on. -/
theorem test_on_mem : on.MemWf := by
  refine ⟨rfl, rfl, rfl, ⟨?_, ⟨rfl, rfl⟩, ?_⟩⟩
  · intro i hi
    have : i = 0 ∨ i = 1 := by omega
    rcases this with rfl | rfl <;> exact ⟨rfl, rfl⟩
  · intro l hl; cases hl

theorem test_on_safe : on.Safe := ⟨test_on_mem, rfl, by decide⟩

/-! Witnesses: for each statement with hypotheses, states and operands that meet them, at the bounds of each clause. -/

/-- EmptyQueueIdles. -/
theorem test_wit_empty_queue : on.pending = [] := rfl

/-- StepsKeepSafe, RollbackCounterOnlyRises and LifeCycleGoesOneWay: a step from a safe state, in EXUVIA, and out of EGG. -/
theorem test_wit_step : on.Safe ∧ (∃ t, step { on with pending := [.gateTake 0] } = .next t) ∧
    ({ on with sec := { on.sec with lc := .exuvia } } : State).sec.lc = .exuvia ∧ LifeCycle.exuvia ≠ .egg :=
  ⟨test_on_safe, ⟨_, rfl⟩, rfl, by decide⟩

/-- ImmediateInstructions and RegisterInstructionFrame: the largest shift and selector, and a destination that is not w0. -/
theorem test_wit_immediates : (63 : BitVec 18).toNat < 64 ∧ (4 : BitVec 18).toNat ≤ 4 ∧ (15 : Fin 16) ≠ 0 := by decide

/-- RegisterInstructionFrame: the frame has a next state. -/
theorem test_wit_frame : (∃ t, exec (.add 3 1 2) on = .next t) ∧ (∃ t, exec (.srai 3 1 63) on = .next t) ∧ ∃ t, exec (.mfs 3 1 4) on = .next t :=
  ⟨⟨_, rfl⟩, ⟨_, rfl⟩, ⟨_, rfl⟩⟩

/-- LocalLoadStore: the last word of data SRAM, good. -/
theorem test_wit_local : let s := regs12 0x3FFF8 0
    s.issues = true ∧ (s.wreg 1 + sext18 0).toNat = 0x3FFF8 ∧ 0x3FFF8 < 0x40000 ∧ 0x3FFF8 % 8 = 0 ∧ s.eccAt 1 0x3FFF8 = false := by decide

/-- LocalAddressTraps: the first address outside, the last one inside but misaligned, and a bad word. -/
theorem test_wit_local_traps : (((regs12 0x3FFFF 0).wreg 1) + sext18 1).toNat = 0x40000 ∧ (((regs12 0x3FFFF 0).wreg 1) + sext18 0).toNat = 0x3FFFF ∧
    0x3FFFF % 8 ≠ 0 ∧ (withCore (fun c => { c with eccBad := [(1, 8)] })).eccAt 1 8 = true ∧
    (withCore (fun c => { c with eccBad := [(1, 8)] })).eccAt 0 0 = false := by decide

/-- MEM on the SAFE clock, which holds requests to DRAM. -/
def memSafe (s : State) : State := s.setB CLK_STAT 8 true

/-- PhysicalLoadStore: SRAM and DRAM, fewer than 8 and 8 stores outstanding, a good word, DRAM held and served. -/
theorem test_wit_physical : (memSafe on).memWaits 0x100000000 = true ∧ on.memWaits 0x100000000 = false ∧ on.memWaits 0xFF0000 = false ∧
    inMem 0xFF0000 1 = true ∧ inSram 0xFF0000 1 = true ∧ inMem 0x100000000 1 = true ∧ inSram 0x100000000 1 = false ∧
    on.loadBad 0x100000000 8 = false ∧ on.core.stores.length < 8 ∧
    8 ≤ (withCore (fun c => { c with stores := List.replicate 8 (0x100000000, 8, 0) })).core.stores.length := by decide

/-- PhysicalAddressTraps: an address in no memory, and misaligned ones inside. -/
theorem test_wit_physical_traps : inMem 0 1 = false ∧ inMem 0xFF0004 1 = true ∧ 0xFF0004 % 8 ≠ 0 ∧ inMem 0xFF0002 1 = true ∧ 0xFF0002 % 4 ≠ 0 := by decide

/-- BranchesAndJumps: targets at both ends of program SRAM, taken and not taken. -/
theorem test_wit_branches : on.core.pc.toNat = 0 ∧ (0 : Int) + 4 * (0xFFFF : BitVec 18).toInt < 0x40000 ∧ (0 : Int) ≤ 0 + 4 * (0 : BitVec 18).toInt ∧
    ((regs12 1 2).wreg 1).toInt < ((regs12 1 2).wreg 2).toInt ∧ ((regs12 1 2).wreg 1).toNat ≠ ((regs12 1 2).wreg 2).toNat ∧
    ((regs12 0x3FFFC 0).wreg 1).toNat < 0x40000 ∧ ((regs12 0x3FFFC 0).wreg 1).toNat % 4 = 0 := by decide

/-- JumpTargetTrap: the first targets outside on both sides, and a misaligned jr. -/
theorem test_wit_targets : (0 : Int) + 4 * (0x10000 : BitVec 18).toInt = 0x40000 ∧ (0 : Int) + 4 * (BitVec.ofInt 26 (-1)).toInt < 0 ∧
    0x40000 ≤ ((regs12 0x40000 0).wreg 1).toNat ∧ ((regs12 0x40000 2).wreg 2).toNat % 4 ≠ 0 := by decide

/-- TrapEntrySaves and TrapInHandlerHolds: outside and inside a handler, with the largest code. -/
theorem test_wit_trap : on.b SEQ_TSTAT 31 = false ∧ (0xFFFF : BitVec 26).toNat < 65536 ∧ spSorted on.csr = true ∧
    (on.setB SEQ_TSTAT 31 true).b SEQ_TSTAT 31 = true ∧ (on.setB SEQ_TSTAT 31 true).issues = true ∧ on.mode.live = true ∧
    spSorted (on.setB SEQ_TSTAT 31 true).csr = true := by decide

/-- IllegalInstructions: the first value of each that the encoding does not admit, and an unassigned OP. -/
theorem test_wit_illegal : legalWord (0xFC000000 : Word).toNat = false ∧ 64 ≤ (64 : BitVec 18).toNat ∧ 4 < (5 : BitVec 18).toNat ∧
    (1 : BitVec 18).toNat ≠ 2 ∧ 16 ≤ (16 : BitVec 6).toNat ∧ 128 ≤ (128 : BitVec 18).toNat ∧ 65536 ≤ (65536 : BitVec 26).toNat := by decide

/-- WaitsAndFences: stamps reached and not, nothing and something outstanding, an idle that ends and one that does not, the journal, and the resumes. -/
theorem test_wit_waits : stampReached on.tnow (on.wreg 1).toNat = true ∧ stampReached (regs12 1 0).tnow ((regs12 1 0).wreg 1).toNat = false ∧
    on.core.csrOut = [] ∧ on.core.stores = [] ∧ (withCore (fun c => { c with csrOut := [(0xB0000, 0, 0)] })).core.csrOut ≠ [] ∧
    (withCore (fun c => { c with stores := [(0x100000000, 8, 0)] })).core.stores ≠ [] ∧ on.core.replay = [] ∧ on.mode ≠ .cocoon ∧
    on.idleEnd (some 0) = some 1 ∧ on.idleEnd none = none ∧
    (withCore (fun c => { c with replay := [.idle 1] })).core.replay = .idle 1 :: [] := by decide

/-- WaitsAndFences, the resumes: a wait reached, a fence met, an idle that is ready (time counts by 25 ns while SYN-S is unlocked). -/
theorem test_wit_resumes : on.awake = true ∧ ((withCore (fun c => { c with stall := .wait 25000 })).elapse 25000).coreRuns = true ∧
    stampReached ((withCore (fun c => { c with stall := .wait 25000 })).elapse 25000).tnow 25000 = true ∧
    (withCore (fun c => { c with stall := .fence 3 })).fenceMet 3 = true ∧ on.mode.live = true ∧ on.flt.recovery = none ∧
    ((withCore (fun c => { c with stall := .idle 1 (some 25000) })).elapse 25000).idleEnd (some 25000) = some 1 := by decide

/-- An entry that waits for room in Q80. -/
def waiting (e : Entry) : Rec :=
  { q := 80, island := 6, ty := 0, port := 0, flags := 0, instar := 0, spec := 0, stamp := 0, words := [], status := 0, tag := 0, base := 0, size := 0,
    key := 0, bare := some e, since := 0, follow := .none }

/-- WaitsAndFences, POST_STALL_END: room, a full queue whose producer still waits, and one whose limit has passed; a waiting producer and a
stalled post of the cores. -/
theorem test_wit_post_stall : let e : Entry := { status := 0, type := 1, addr := 0, length := 0, qseq := 0, stamp := 0, tag := 0 }
    (ring on 80 0xFF0000 0 0).qEn 80 = true ∧ (ring on 80 0xFF0000 0 0).qHeld 80 = false ∧ (ring on 80 0xFF0000 0 0).qFull 80 = false ∧
    (ring on 80 0xFF0000 0 16).qFull 80 = true ∧ ((ring on 80 0xFF0000 0 16).elapse 0).stallOver 80 0 = true ∧ (((ring on 80 0xFF0000 0 16).setF (QUE_CFG 80) 29 28 2).elapse 25000).stallOver 80 0 = false ∧
    (ring on 80 0xFF0000 0 16).oldestStalled 80 = none ∧
    ({ on with que := { on.que with stalled := [waiting e] } } : State).oldestStalled 80 = some (waiting e) := by decide

/-- CsrAccessOfTheCores: the first address past the windows, a CORE register, one of another island, 15 and 16 writes outstanding, the
acknowledgements and the timeout. -/
theorem test_wit_csr_access : csrEnd ≤ ((regs12 csrEnd 0).wreg 1 + zext18 0).toNat ∧ SEQ_TVEC < csrEnd ∧ winIsland SEQ_TVEC = 1 ∧ winIsland TIM_CTL = 10 ∧
    (List.replicate 15 (TIM_CTL, (0 : Word), 0)).length < 16 ∧ 16 ≤ (List.replicate 16 (TIM_CTL, (0 : Word), 0)).length ∧
    (withCore (fun c => { c with csrOut := [(TIM_CTL, 0, 0)] })).core.stall = .none ∧
    (withCore (fun c => { c with stall := .csrr 1 TIM_CTL })).core.csrOut = [] ∧
    (withCore (fun c => { c with stall := .csrr 1 TIM_CTL })).coreRuns = true ∧
    ((withCore (fun c => { c with stall := .csrr 1 TIM_CTL })).elapse (10 * us)).coreRuns = true ∧ on.b SEQ_TSTAT 30 = false ∧
    on.core.csrSince + 10 * us ≤ on.up + 10 * us := by decide

/-- QueueInstructions: each class and each state of a queue. -/
theorem test_wit_queue_classes : seqProduces 80 = true ∧ seqProduces 0 = false ∧ seqConsumes 0 = true ∧ seqConsumes 80 = false ∧ seqConsumes 125 = true ∧
    seqProduces 127 = true ∧ seqConsumes 127 = true ∧ (127 : BitVec 18).toNat < 128 ∧ (0x3FFE0 : Nat) % 32 = 0 ∧ on.qEn 80 = false ∧
    on.fenceMet 3 = true ∧ (withCore (fun c => { c with csrOut := [(0xB0000, 0, 0)] })).fenceMet 3 = false := by decide

theorem test_wit_queue_posts : (ring on 80 0xFF0000 0 0).qEn 80 = true ∧ (ring on 80 0xFF0000 0 0).qFull 80 = false ∧ reservedAddr 0x180000 0 = true ∧
    reservedAddr 0xFF0000 64 = false ∧ on.entryEcc 0 = none ∧
    (withCore (fun c => { c with eccBad := [(1, 8)] })).entryEcc 0 = some (5, 8) ∧ (ring on 80 0xFF0000 0 16).qFull 80 = true ∧ (ring on 80 0xFF0000 0 15).qFull 80 = false ∧
    (memSafe (ring on 80 0x100000000 0 0)).qHeld 80 = true ∧ (ring on 80 0xFF0000 0 0).qHeld 80 = false ∧
    ((ring on 80 0xFF0000 0 16).setF (QUE_CFG 80) 29 28 1).qPol 80 = 1 ∧ (ring on 80 0xFF0000 0 16).qPol 80 ≠ 1 ∧ on.que.stalled = [] := by decide

theorem test_wit_queue_takes : (ring on 0 0xFF0000 0 0).tapped 0 = false ∧ ((ring on 0 0xFF0000 0 0).setCsr (FAB_FWD 1) 0x80000000).tapped 0 = true ∧
    (memSafe (ring on 0 0x100000000 0 0)).qHeld 0 = true ∧ (ring on 0 0xFF0000 0 0).qHeld 0 = false ∧ (ring on 0 0xFF0000 0 0).qReady 0 = false ∧ (ring on 125 0xFF0000 0 0).qEn 125 = true ∧
    ((ring on 0 0xFF0000 0 0).enqueue 0 { status := 0, type := 1, addr := 0, length := 0, qseq := 0, stamp := 0, tag := 0 }).qReady 0 = true := by decide

/-- PostedEntryAppears: a safe state with an enabled queue that is not full. -/
theorem test_wit_posted : (ring on 80 0xFF0000 0 0).Safe ∧ (ring on 80 0xFF0000 0 0).issues = true ∧ (ring on 80 0xFF0000 0 0).qHeld 80 = false ∧
    (ring on 80 0xFF0000 0 0).behind 80 1 = 0 ∧ on.core.journal.length < 64 ∧
    reservedAddr ((ring on 80 0xFF0000 0 0).localEntry 0).addr ((ring on 80 0xFF0000 0 0).localEntry 0).length = false ∧
    (ring on 80 0xFF0000 0 0).entryEcc 0 = none :=
  ⟨⟨⟨test_on_mem.mem, test_on_mem.pmem, test_on_mem.dmem, test_on_mem.img⟩, by decide, by decide⟩, by decide, by decide, by decide, by decide, by decide, by decide⟩

/-- TimedActionsAndLaunches: cancel, under 100 ns, exactly 100 ns ahead, no moult, an action that is due, and both kinds of SEQ.TACT. -/
theorem test_wit_at : (15 : BitVec 6).toNat < 16 ∧ stampDelta on.tnow 99999 < 100000 ∧ (100000 : Int) ≤ stampDelta on.tnow 100000 ∧ on.sec.moult = none ∧
    ({ on with sec := { on.sec with moult := some (.handed 1) } } : State).sec.moult = some (.handed 1) ∧
    ({ on with sec := { on.sec with moult := some (.loaded 1 0) } } : State).sec.moult = some (.loaded 1 0) ∧
    stampReached ((on.time + 25000) / (if on.b CLK_STAT 30 then tick else 8 * tick) * (if on.b CLK_STAT 30 then tick else 8 * tick)) 25000 = true ∧ on.f (SEQ_TACT 0) 20 0 < csrEnd ∧
    ((withCore (fun c => { c with tacts := [{ k := 0, stamp := 0, value := 0 }] })).core.tacts.find? (fun z => z.k == 0)).isSome = true ∧
    csrEnd ≤ (on.setF (SEQ_TACT 0) 20 0 0x1FFFFF).f (SEQ_TACT 0) 20 0 := by decide

/-- WritesFollowTheAccessCodes and UnassignedOffsets: mapped and unmapped addresses. -/
theorem test_wit_map : (regAt SEQ_TVEC).isSome = true ∧ spSorted on.csr = true ∧ regAt 0x1FFFFC = none := by decide

/-- RegisterAccessRows and LoWriteIsHeld: each writer in reach and out of reach, COCOON at the PWR window, and the kinds of registers. -/
theorem test_wit_reach : on.reaches 0 SEQ_TVEC = true ∧ on.reaches 1 SEQ_TVEC = true ∧ (inMode .cocoon).reaches 1 SEQ_TVEC = false ∧
    (inMode .cocoon).reaches 1 PWR_STAT = true ∧ State.reset.reaches 0 SEQ_TVEC = false ∧ isHalf .lo (QUE_BASE_LO 0) = true ∧
    isHalf .hi (QUE_BASE_HI 0) = true ∧ on.gatedWin (QUE_BASE_LO 0) = false ∧ isHalf .lo (QUE_BASE_HI 0) = false := by decide

/-- RegisterAccessRows: a pair that is written plainly, a LO half that is read, and registers of no pair and of no result. -/
theorem test_wit_pair : isHalf .hi TIM_NOW_HI = true ∧ on.gatedWin TIM_NOW_HI = false ∧ TIM_NOW_HI ∉ [PWR_WAKEAT_HI, CNT_SNAPAT_HI, SEQ_GATEBUF_HI, FEL_LINKEN_HI] ∧
    TIM_NOW_HI / 0x10000 ∉ [0x0A, 0x16] ∧ TIM_NOW_HI / 0x100 ≠ 0xF01 ∧ isHalf .lo TIM_NOW_LO = true ∧ isResult TIM_NOW_LO = false ∧
    isCompanion TIM_NOW_LO = false ∧ TIM_NOW_LO ∉ [TIM_FULLSEC, SEC_RNG] ∧ isHalf .hi SEQ_TVEC = false ∧ isHalf .lo SEQ_TVEC = false ∧
    isResult SEQ_TVEC = false := by decide

/-- ResultReadClearsNew: no result in the present cycle, and one. -/
theorem test_wit_result : isResult (HKC_CH_RES 0) = true ∧ on.reaches 0 (HKC_CH_RES 0) = true ∧ on.gatedWin (HKC_CH_RES 0) = false ∧ HKC_CH_RES 0 ≠ FEL_SCRES ∧
    HKC_CH_RES 0 ≠ PWR_MBOXRSP ∧ spSorted on.csr = true ∧ on.resultNow (HKC_CH_RES 0) = none ∧
    ({ on with prevRes := [{ reg := HKC_CH_RES 0, ovr := some 30, value := 1, after := [2], done := 0 }] } : State).resultNow (HKC_CH_RES 0) ≠ none := by decide

/-- QueueEnable and QueueHeadRefused: the depths at the bounds, and a HEAD beyond TAIL. -/
theorem test_wit_queue_enable : on.qEn 127 = false ∧ fld (0x80000001 : Word) 4 0 = 1 ∧ fld (0x80000010 : Word) 4 0 = 16 ∧ fld (0x80000011 : Word) 4 0 = 17 ∧
    bit (0x80000011 : Word) 31 = true ∧ inMem 0xFF0000 (32 * 2 ^ 1) = true ∧ on.qBase 0 % 32 = 0 ∧ inMem 0 (32 * 2) = false ∧
    on.qFill 0 < ((1 : Word).toNat + 2 ^ 32 - on.qHead 0) % 2 ^ 32 := by decide

/-- HostCommandsServed: Q125 enabled, the gate free, and for each code a state in which nothing is found against it. -/
theorem test_wit_served : (ring on 125 0xFF0000 0 0).qEn 125 = true ∧ on.gateBlocked = false ∧ on.mode ≠ .cocoon ∧
    ∀ c ∈ [1, 2, 3, 4, 5, 0x10, 0x11, 0x12, 0x13, 0x14, 0x15, 0x16, 0x20, 0x21, 0x22, 0x23, 0x30, 0x40, 0x41, 0x50, 0x51, 0x52, 0x53, 0x54, 0x55, 0x60,
      0x61, 0x70, 0x71, 0x72, 0x73], ∃ m ∈ [Mode.idle, .armed, .moult], (inMode m).cmdJudge c 0 = 0 := by decide

/-- HostCommandsRefusedOrAsleep and GateJudgement: COCOON; a code refused for its state, an unknown one, and one without authorisation. -/
theorem test_wit_refused : (inMode .cocoon).pwr.held = false ∧ on.cmdJudge 0x11 0 = 1 ∧ on.cmdJudge 0x31 0 = 1 ∧ (inMode .hold).cmdJudge 0x73 0 ≠ 0 ∧
    cmdModes 0x99 = none ∧ (cmdModes 0x10).isSome = true ∧ on.cmdAuth 0 = true ∧ (inMode .startup).cmdJudge 0x03 0 = 0 := by decide

/-- GateJudgement: a message over the fabric from a device without the right is not authorised. -/
theorem test_wit_unauthorised : on.cmdAuth (2 ^ 63) = false := by decide

/-- The statements on groups of commands: awake, every island clocked, not held in reset, not in the HOLD of a clock fault. -/
theorem test_wit_clocked : (withIslands).awake = true ∧ withIslands.safeOnly = false ∧ (withIslands).pwr.held = false ∧ ∀ i ∈ [0, 1, 2, 3, 4, 5, 6, 7, 8, 9, 10, 11],
    withIslands.islandIdle i = false := by decide

/-- WaitingIslands: asleep, held, in the HOLD of a clock fault, and each island without its clock. -/
theorem test_wit_waiting : State.reset.awake = false ∧ State.reset.pwr.held = true ∧ ((inMode .hold).setF FLT_SUMMARY 27 24 4).safeOnly = true ∧ ∀ i ∈ [3, 4, 5, 6, 7, 8, 9], (on.setCsr CLK_STAT 0xFFF).islandIdle i = true := by decide

/-- ArmedRunStarts: START reached, not reached, and another state. -/
theorem test_wit_armed : ({ inMode .armed with gate := { on.gate with start := some 7 } } : State).awake = true ∧ stampReached (0 + 7) 7 = true ∧
    stampReached (0 + 6) 7 = false ∧ Mode.run ≠ .armed := by decide

/-- RailFaultHolds. -/
theorem test_wit_rail : on.awake = true ∧ Mode.startup.holds = true ∧ on.mode.holds = true := by decide

/-- A plan of one pulse entry with PEAK 173 on slot 0. -/
def plan173 : State :=
  (((on.setCsr LCH_PLAN 0x10100001).setCsr (LCH_ENTA 0) 0x10000028).setCsr (LCH_ENTC 0) 173)

/-- LaunchPeakRefused: the smallest reserved PEAK, 2 us ahead. -/
theorem test_wit_peak : plan173.issues = true ∧ spSorted plan173.csr = true ∧ plan173.core.csrOut = [] ∧ plan173.running = false ∧
    plan173.soonEnough 2000000 = true ∧ plan173.plan.formOk = true ∧ (∀ k ∈ plan173.plan.launched, codeOk (plan173.enta k) (plan173.entb k) = true) ∧
    (∃ k ∈ plan173.plan.launched, 173 ≤ fld (plan173.entc k) 7 0) := by decide

/-- ChannelIdentifier: the largest numbers. -/
theorem test_wit_channel : (1023 : Nat) < 2 ^ 10 ∧ (127 : Nat) < 2 ^ 7 ∧ (131071 : Nat) < 2 ^ 17 := by decide

/-- EventCountersCount: a counter that selects a source, and one that does not. -/
theorem test_wit_counter : (on.setCsr (CNT_CFG 31) 0x80000002).b (CNT_CFG 31) 31 = true ∧ (on.setCsr (CNT_CFG 31) 0x80000002).f (CNT_CFG 31) 7 0 = 2 ∧
    (on.setCsr (CNT_CFG 31) 0x80000002).f (CNT_CFG 31) 9 8 = 0 ∧ on.b (CNT_CFG 31) 31 = false := by decide

/-- A MEMWR frame of one word. -/
def memwrFrame (a : Nat) : SpiFrame :=
  { len := 1, addr := a, payload := bytesOf 8 1, chk := crc8 ([4, 1, 0] ++ bytesOf 5 a ++ bytesOf 8 1) }

/-- ServicePortMemoryWrite: one word at the end of the host area, and one just past it. -/
theorem test_wit_memwr : on.Safe ∧ on.pwr.held = false ∧ on.mode ≠ .cocoon ∧ (memwrFrame 0xFFEFF8).good 4 = true ∧
    (memwrFrame 0xFFF000).good 4 = true ∧ [1].flatMap (bytesOf 8) = bytesOf 8 1 ∧
    0xFFEFF8 + 8 * 1 ≤ 0xFFF000 ∧ 0xFFF000 < 0xFFF000 + 8 * 1 :=
  ⟨test_on_safe, rfl, by decide, by decide +kernel, by decide +kernel, by decide, by decide, by decide⟩

/-! Examples of the spec, worked out there. -/

/-- Example GLB-1: pixel 136 of board 19 on d17. -/
theorem test_example_glb1 : chanId 17 19 136 = 17 * 2 ^ 24 + 19 * 2 ^ 17 + 136 := by decide

/-- Example GLB-2: words 0 and 2 of a hit block header, LOSS set. -/
theorem test_example_glb2 :
    let r : Rec := { waiting { status := 0, type := 4, addr := 0, length := 0, qseq := 0, stamp := 0, tag := 0 } with
      ty := 4, port := 19, stamp := stampOf (0x6A3B1C07 * 10 ^ 12 + 512345678901), words := List.replicate 512 0 }
    nth (r.header 17 5 true) 0 0 = 0x0410800203044980 ∧ nth (r.header 17 5 true) 2 0 = 0x3B1C07774A2EA435 := by
  have h : (List.replicate 512 0).length = 512 := List.length_replicate
  generalize List.replicate 512 0 = l at h ⊢
  simp only [Rec.header, h]
  decide

/-- Example SEQ-1: two instruction words, which are legal. -/
theorem test_example_seq1 : wordI 0x01 3 3 0x3FFFF = 0x04CFFFFF ∧ wordI 0x2D 2 5 83 = 0xB4940053 ∧ legalWord 0x04CFFFFF = true ∧
    legalWord 0xB4940053 = true := by decide

/-- tadd carries at 10^12 ps and wraps the seconds modulo 2^24 (R44). -/
theorem test_tadd : stampAdd (0xFFFFFF * 2 ^ 40 + 999999999999) 1 = 0 ∧ stampAdd 0 (-1) = 0xFFFFFF * 2 ^ 40 + 999999999999 := by decide

/-- The registers of Example LCH-1, a split plan on SENSE1; the coil takes 2,448.75 ns. -/
def lch1 : State :=
  ((((on.setCsr LCH_SENTDLY 2448750).setCsr LCH_PLAN 0x29300001).setCsr LCH_RANGE 0x3D4).setCsr (LCH_ENTA 0) 0x300000A0).setCsr (LCH_ENTC 0) 0x9C

/-- Example LCH-1: a plan within the rules; its least period, its tails at that period and at P, and its power. -/
theorem test_example_lch1 : lch1.plan.formOk = true ∧ lch1.planRule lch1.plan = true ∧ lch1.minPeriod lch1.plan = 3921875 ∧
    lch1.planTail lch1.plan 3921875 = 622 ∧ lch1.planTail lch1.plan 6409375 = 0 ∧ lch1.periodRules lch1.plan 6409375 = true ∧
    lch1.averageOk lch1.plan 6409375 = true := by decide

/-- The registers of Example PHS-1, the rate plan of four slots on 80 km. -/
def phs1 : State :=
  (List.range 4).foldl (fun s k => ((s.setCsr (LCH_ENTA k) (BitVec.ofNat 32 (nth [0x14000FA0, 0x24000FA0, 0x44000FA0, 0x84000FA0] k 0))).setCsr
    (LCH_ENTB k) 0x7D0).setCsr (LCH_ENTC k) 0xA4) (((on.setCsr LCH_SENTDLY 2448750).setCsr LCH_PLAN 0x10F00004).setCsr LCH_RANGE 0x2FD2E)

/-- Example PHS-1: T_rep 783.6 us, 849 tail positions at 195.9 us, none at 196.75 us. -/
theorem test_example_phs1 : phs1.tRep phs1.plan 195900000 2 = 783600000 ∧ phs1.planTail phs1.plan 195900000 = 849 ∧
    phs1.planTail phs1.plan 196750000 = 0 := by decide

/-- Example FEL-1: the stamp of the hit of channel 136. -/
theorem test_example_fel1 :
    let s : State := (((({ on with fel := { on.fel with links := on.fel.links.set 19 { on.fel.links[19] with page1 := 11 * 2 ^ 60 } } } : State).setCsr
      (FEL_DDOWN 19) 48312).setCsr (FEL_HITOFS 19) 1200).setCsr (FEL_FINELSB 19) 384)
    s.hitTime 19 (0x3B1BE8 * 10 ^ 12 + 125000000000) 0 0x12345 0x0881A2B0C0000F00 = 0x3B1C06 * 10 ^ 12 + 666865920470 := by decide

/-- Signed and unsigned comparison, the borrow of a subtraction and an arithmetic shift by 63 (Table SEQ-4). -/
theorem test_alu : alu 10 (-1) 1 = (-1 : DWord) ∧ alu 12 (-1) 1 = 1 ∧ aluFlags 1 0 0 1 = 0b0110 ∧ alu 7 (-2) 63 = -1 ∧ alu 9 (-1) (-1) = -2 := by decide

/-- The two words of Example SEQ-1 as the cores read them: addi w3, w3, -1 and post.r w2, w5, 83; and a word of no encoding. -/
theorem test_core_words : coreWord 0x04CFFFFF = .addi 3 3 0x3FFFF ∧ coreWord 0xB4940053 = .postR 2 5 83 ∧
    coreWord 0xFC000000 = .illegalInstruction 0xFC000000 := by decide

/-- An instruction word of a vector kernel (Tables VEC-4 and VEC-5): OP 0x16 with D 2, A 0, B 1 and M 0xC8. -/
theorem test_vector_word : svWord 0x58807208 = .vbf 2 0 1 0xC8 := by decide

/-- No word spells a command: the table gives no row bits. -/
theorem test_decode_none : decodeTableWord 32 0x04CFFFFF = none := rfl

end Sys2Proof.Tests
end

section
/-! SUPPORT. The rules of CSR accesses (R1, R9 to R12, R22, R31): what a field-by-field write leaves, what a pair's latch and held half hold, and
which function of the bus a read or a write comes to. The statements about register accesses are settled from them. -/

namespace Sys2Proof.Machine

open Csr

variable {s : State}

/-! The outcome of a command. -/

/-- Every command is an effect on everything but the queue of waiting commands. -/
theorem exec_eq_done (c : Instr) (s : State) : ∃ u, exec c s = s.done u := by
  cases c <;> exact ⟨_, rfl⟩

@[simp] theorem State.done_self (s : State) : s.done s = .next s := rfl

/-- Settles O3: every command's outcome has the form `State.done`, which puts the queue of waiting commands back. -/
theorem everyCommandCompletes : Obligations.EveryCommandCompletes := by
  unfold Obligations.EveryCommandCompletes
  intro c s
  obtain ⟨u, hu⟩ := exec_eq_done c s
  exact ⟨_, hu, rfl⟩

/-! Tables with keys that are pairs of numbers: latches and held LO halves. -/

theorem pairGet_pairPut_self {α : Type} (l : List ((Nat × Nat) × α)) (k : Nat × Nat) (x : α) : pairGet (pairPut l k (some x)) k = some x := by
  simp [pairGet, pairPut]

theorem pairGet_pairPut_ne {α : Type} (l : List ((Nat × Nat) × α)) {k j : Nat × Nat} (v : Option α) (h : j ≠ k) :
    pairGet (pairPut l k v) j = pairGet l j := by
  have hf : (l.filter (fun x => x.1 != k)).find? (fun x => x.1 == j) = l.find? (fun x => x.1 == j) := by
    rw [List.find?_filter]
    congr 1; funext x
    by_cases hx : x.1 = j <;> simp [hx, h]
  cases v with
  | none => simp only [pairGet, pairPut, hf]
  | some x => rw [pairGet, pairPut, List.find?_cons_of_neg (by simpa using h.symm), hf, pairGet]

@[simp] theorem State.latched_putLatch_self (who a : Nat) (v : Word) : (s.putLatch who a v).latched who a = v := by
  simp [State.latched, State.putLatch, pairGet_pairPut_self]

theorem State.latched_putLatch_ne {who a w b : Nat} (v : Word) (h : (w, b) ≠ (who, a)) : (s.putLatch who a v).latched w b = s.latched w b := by
  simp only [State.latched, State.putLatch, pairGet_pairPut_ne _ _ h]

@[simp] theorem State.loFor_holdLo_self (who a : Nat) (v : Word) : (s.holdLo who a v).loFor who a = v := by
  simp [State.loFor, State.holdLo, pairGet_pairPut_self]

/-! A field-by-field write (R9, R10, R11). -/

theorem State.writeReg_unmapped {a : Nat} (h : regAt a = none) (v : Word) (lease : Bool) : s.writeReg a v lease = s := by
  simp [State.writeReg, h]

/-- A write of a mapped register replaces its stored value by the merge of its fields, and may count a refusal. -/
theorem State.writeReg_lit {a : Nat} {r : Reg} (h : regAt a = some r) (v : Word) (lease : Bool) :
    ∃ f, s.writeReg a v lease =
      { s.setCsr a (r.merge (s.csrRaw a) v (s.unitStopped a) lease (s.raisedNow a)) with flt := f } := by
  simp only [State.writeReg, h, cond]
  split <;> split <;> exact ⟨_, rfl⟩

theorem State.csrRaw_writeReg_self (hs : spSorted s.csr = true) {a : Nat} {r : Reg} (h : regAt a = some r) (v : Word) (lease : Bool) :
    (s.writeReg a v lease).csrRaw a = r.merge (s.csrRaw a) v (s.unitStopped a) lease (s.raisedNow a) := by
  obtain ⟨f, e⟩ := s.writeReg_lit h v lease
  rw [e]
  exact State.csrRaw_setCsr_self hs (by rw [h]; rfl) _

theorem State.csrRaw_writeReg_ne {a b : Nat} (v : Word) (lease : Bool) (hb : b ≠ a) : (s.writeReg a v lease).csrRaw b = s.csrRaw b := by
  cases h : regAt a with
  | none => rw [State.writeReg_unmapped h]
  | some r =>
    obtain ⟨f, e⟩ := s.writeReg_lit h v lease
    rw [e]
    exact State.csrRaw_setCsr_ne _ hb

/-- A field-by-field write changes the register file and the counters of FLT, and nothing else. -/
theorem State.writeReg_frame (a : Nat) (v : Word) (lease : Bool) : ∃ c f, s.writeReg a v lease = { s with csr := c, flt := f } := by
  cases h : regAt a with
  | none => exact ⟨_, _, State.writeReg_unmapped h v lease⟩
  | some r =>
    obtain ⟨f, e⟩ := s.writeReg_lit h v lease
    exact ⟨_, f, e⟩

/-- A bit may be written where its code is RW, RWS with the unit stopped, or RWL for the lease holder. -/
theorem Reg.writable_bit (r : Reg) (stopped lease : Bool) {i : Nat} (hi : i < 32) :
    (r.writable stopped lease).getLsbD i = (r.rw.testBit i || (r.rws.testBit i && stopped) || (r.rwl.testBit i && lease)) := by
  rw [Reg.writable, BitVec.getLsbD_ofNat, decide_eq_true hi]
  cases stopped <;> cases lease <;> simp

/-- Settles O30: the stored value is the merge of the register's fields, read bit by bit. -/
theorem writesFollowTheAccessCodes : Obligations.WritesFollowTheAccessCodes := by
  unfold Obligations.WritesFollowTheAccessCodes
  intro s a v lease r hs hr may
  obtain ⟨c, f, hframe⟩ := s.writeReg_frame a v lease
  refine ⟨fun i hi => ?_, fun y hy => State.csrRaw_writeReg_ne v lease hy, ?_, ?_, ?_⟩
  · have hmerge := r.merge_bit (s.csrRaw a) v (s.unitStopped a) lease (s.raisedNow a) i hi
    rw [Reg.writable_bit r _ _ hi, BitVec.getLsbD_ofNat, decide_eq_true hi, Bool.true_and] at hmerge
    rw [State.csrRaw_writeReg_self hs hr]
    exact hmerge
  all_goals rw [hframe]

/-! Which function of the bus an access comes to (R1, R12, R22, R345). -/

theorem isHalf_iff (h : Half) (a : Nat) : isHalf h a = true ↔ ∃ r, regAt a = some r ∧ r.half = h := by
  unfold isHalf
  cases regAt a <;> simp

theorem State.writeCsr_unmapped {a : Nat} (h : regAt a = none) (who : Nat) (lease : Bool) (v : Word) : s.writeCsr who lease a v = s := by
  simp [State.writeCsr, h]

theorem State.readCsr_unmapped {a : Nat} (h : regAt a = none) (who : Nat) : s.readCsr who a = (0, s) := by
  simp [State.readCsr, h]

/-- A write of a LO half of a clocked window is held for its writer, but for the frequencies of slots 0 to 7 of SYN-M (R341). -/
theorem State.writeCsr_lo {a : Nat} (hg : s.gatedWin a = false) (h : isHalf .lo a = true) (hm : ¬(0xF0100 ≤ a ∧ a < 0xF0180))
    (who : Nat) (lease : Bool) (v : Word) : s.writeCsr who lease a v = s.holdLo who a v := by
  obtain ⟨r, hr, hh⟩ := (isHalf_iff _ _).1 h
  simp [State.writeCsr, hr, hg, hh, hm]

/-- A write of the LO half of slots 0 to 7 of SYN-M is ignored and sets CLK.STAT.CFGERR (R341). -/
theorem State.writeCsr_slotLo {a : Nat} (hg : s.gatedWin a = false) (h : isHalf .lo a = true) (hm : 0xF0100 ≤ a ∧ a < 0xF0180)
    (who : Nat) (lease : Bool) (v : Word) : s.writeCsr who lease a v = s.setB CLK_STAT 20 true := by
  obtain ⟨r, hr, hh⟩ := (isHalf_iff _ _).1 h
  simp [State.writeCsr, hr, hg, hh, hm]

theorem State.writeCsr_hi {a : Nat} (hg : s.gatedWin a = false) (h : isHalf .hi a = true) (who : Nat) (lease : Bool) (v : Word) :
    s.writeCsr who lease a v = s.writeHit who a v lease true := by
  obtain ⟨r, hr, hh⟩ := (isHalf_iff _ _).1 h
  simp [State.writeCsr, hr, hg, hh]

/-- A HI half whose write does nothing of its own is written as a pair. -/
theorem State.writeHit_pair {a : Nat} (hspecial : a ∉ [PWR_WAKEAT_HI, CNT_SNAPAT_HI, SEQ_GATEBUF_HI, FEL_LINKEN_HI])
    (hwin : a / 0x10000 ∉ [0x0A, 0x16]) (hslot : a / 0x100 ≠ 0xF01) (who : Nat) (v : Word) (lease : Bool) :
    s.writeHit who a v lease true = s.writePair who a v lease := by
  simp only [List.mem_cons, List.not_mem_nil, or_false, not_or] at hspecial hwin
  obtain ⟨hwake, hsnap, hgate, hlink⟩ := hspecial
  have hm : ¬(0xF0100 ≤ a ∧ a < 0xF0200 ∧ a % 0x10 = 4) := by omega
  simp [State.writeHit, hwake, hsnap, hgate, hlink, hwin, hm]

/-- A LO half that no other rule of reads claims reads as R12 says. -/
theorem State.readCsr_lo {a : Nat} (hg : s.gatedWin a = false) (h : isHalf .lo a = true) (hres : isResult a = false)
    (hcomp : isCompanion a = false) (hspecial : a ∉ [TIM_FULLSEC, SEC_RNG]) (who : Nat) : s.readCsr who a = s.readLo who a := by
  obtain ⟨r, hr, hh⟩ := (isHalf_iff _ _).1 h
  have hrc : r.rc = false := by simpa [isResult, hr] using hres
  simp only [List.mem_cons, List.not_mem_nil, or_false, not_or] at hspecial
  simp [State.readCsr, hr, hg, hrc, hcomp, hspecial, hh]

/-- The read of a LO half changes latches only. -/
theorem State.readLo_frame (who a : Nat) : ∃ l, (s.readLo who a).2 = { s with latch := l } := by
  simp only [State.readLo]
  split <;> exact ⟨_, rfl⟩

@[simp] theorem State.readLo_fst (who a : Nat) : (s.readLo who a).1 = s.csrView a := rfl

/-- The read of a LO half latches its HI half for the reader (R12). -/
theorem State.latched_readLo_hi (who a : Nat) : (s.readLo who a).2.latched who (a + 4) = s.csrView (a + 4) := by
  have hlatch : (s.latchHi who a (s.csrView (a + 4))).latched who (a + 4) = s.csrView (a + 4) := State.latched_putLatch_self ..
  simp only [State.readLo]
  split
  · rename_i hnow
    have hne : a + 4 ≠ TIM_FULLSEC := hnow ▸ by decide
    rw [State.latched_putLatch_ne _ (fun e => hne (congrArg Prod.snd e)), hlatch]
  · exact hlatch

/-! Accesses that reach no register (R454). -/

/-- The same condition with the writer or reader as the commands name it. -/
theorem State.reaches_fin (who : Fin 2) (a : Nat) :
    s.reaches who a = if who = 0 then s.awake else !s.pwr.held && (s.mode != .cocoon || a / 0x10000 == 0x14) := by
  match who with
  | 0 => rfl
  | 1 => rfl

theorem State.wr_unreached {who a : Nat} (h : s.reaches who a = false) (v : Word) (ok : Bool) : s.wr who a v ok = s := by
  simp [State.wr, h]

theorem State.wr_not_ok (who a : Nat) (v : Word) : s.wr who a v false = s := by simp [State.wr]

/-- A read of the cores, or of a port held in reset, that reaches no register does nothing. -/
theorem State.rd_unreached {who a : Nat} (h : s.reaches who a = false) (hw : who = 0 ∨ s.pwr.held = true) (f : State → State) :
    s.rd who a f = s := by
  rcases hw with rfl | hw <;> simp [State.rd, *]

/-- In COCOON the service SPI port reads 0 outside the PWR window. -/
theorem State.rd_port_unreached {a : Nat} (h : s.reaches 1 a = false) (hp : s.pwr.held = false) (f : State → State) :
    s.rd 1 a f = s.putLatch 1 a 0 := by
  simp [State.rd, h, hp]

/-! The four register-access commands. -/

section
variable (who : Fin 2) (a : Nat) (v : Word)

theorem exec_csrWrite : exec (.csrWrite who a v) s = s.done (s.wr who a v) := rfl

theorem exec_pairHiWrite : exec (.pairHiWrite who a v) s = s.done (s.wr who a v (isHalf .hi a)) := rfl

theorem exec_resultRegisterRead : exec (.resultRegisterRead who a) s = s.done (s.rd who a (·.readResultRow who a)) := rfl

theorem exec_pairLoRead : exec (.pairLoRead who a) s = s.done (s.rd who a (·.readLoRow who a)) := rfl

variable {who a}

theorem exec_csrWrite_reached (h : s.reaches who a = true) : exec (.csrWrite who a v) s = s.done (s.writeCsr who (who.val == 0) a v) := by
  rw [exec_csrWrite, State.wr_reach h]

theorem exec_pairHiWrite_hi (h : s.reaches who a = true) (hh : isHalf .hi a = true) :
    exec (.pairHiWrite who a v) s = s.done (s.writeCsr who (who.val == 0) a v) := by
  rw [exec_pairHiWrite, hh, State.wr_reach h]

theorem exec_pairHiWrite_other (hh : isHalf .hi a = false) : exec (.pairHiWrite who a v) s = .next s := by
  rw [exec_pairHiWrite, hh, State.wr_not_ok, State.done_self]

theorem exec_resultRegisterRead_reached (h : s.reaches who a = true) :
    exec (.resultRegisterRead who a) s = s.done (if isResult a then s.readKept who a else s) := by
  rw [exec_resultRegisterRead, State.rd_reach h]; rfl

theorem exec_pairLoRead_reached (h : s.reaches who a = true) :
    exec (.pairLoRead who a) s = s.done (if isHalf .lo a then s.readKept who a else s) := by
  rw [exec_pairLoRead, State.rd_reach h]; rfl

/-- A LO half that is read stands with its HI half in the latch of its reader, and nothing else changes (R12). -/
theorem exec_pairLoRead_plain (h : s.reaches who a = true) (hg : s.gatedWin a = false) (hlo : isHalf .lo a = true)
    (hres : isResult a = false) (hcomp : isCompanion a = false) (hspecial : a ∉ [TIM_FULLSEC, SEC_RNG]) :
    ∃ t, exec (.pairLoRead who a) s = .next t ∧ t = { s with latch := t.latch } ∧ t.latched who a = s.csrView a ∧
      t.latched who (a + 4) = s.csrView (a + 4) := by
  obtain ⟨l, hl⟩ := s.readLo_frame who a
  refine ⟨(s.readLo who a).2.putLatch who a (s.csrView a), ?_, ?_, State.latched_putLatch_self .., ?_⟩
  · rw [exec_pairLoRead_reached h, if_pos hlo, State.readKept, State.readCsr_lo hg hlo hres hcomp hspecial, State.readLo_fst, hl]
    rfl
  · rw [hl]; rfl
  · rw [State.latched_putLatch_ne _ (by simp), State.latched_readLo_hi]

/-- A HI half of a pair that is written plainly is written with the held LO half of its writer (R12). -/
theorem exec_pairHiWrite_plain (h : s.reaches who a = true) (hg : s.gatedWin a = false) (hh : isHalf .hi a = true)
    (hspecial : a ∉ [PWR_WAKEAT_HI, CNT_SNAPAT_HI, SEQ_GATEBUF_HI, FEL_LINKEN_HI]) (hwin : a / 0x10000 ∉ [0x0A, 0x16])
    (hslot : a / 0x100 ≠ 0xF01) :
    exec (.pairHiWrite who a v) s = s.done (s.writePair who a v (who.val == 0)) := by
  rw [exec_pairHiWrite_hi v h hh, State.writeCsr_hi hg hh, State.writeHit_pair hspecial hwin hslot]

/-- An access that reaches no register does nothing, but that the service SPI port reads 0 while the module is not held in reset (R454). -/
theorem exec_access_unreached (h : s.reaches who a = false) :
    exec (.csrWrite who a v) s = .next s ∧ exec (.pairHiWrite who a v) s = .next s ∧
    (who = 0 ∨ s.pwr.held = true → exec (.resultRegisterRead who a) s = .next s ∧ exec (.pairLoRead who a) s = .next s) ∧
    (who = 1 → s.pwr.held = false →
      exec (.resultRegisterRead who a) s = s.done (s.putLatch 1 a 0) ∧ exec (.pairLoRead who a) s = s.done (s.putLatch 1 a 0)) := by
  refine ⟨?_, ?_, fun hw => ?_, fun hw hp => ?_⟩
  · rw [exec_csrWrite, State.wr_unreached h, State.done_self]
  · rw [exec_pairHiWrite, State.wr_unreached h, State.done_self]
  · have hw' : who.val = 0 ∨ s.pwr.held = true := hw.imp_left (congrArg Fin.val)
    rw [exec_resultRegisterRead, exec_pairLoRead, State.rd_unreached h hw', State.rd_unreached h hw']
    exact ⟨rfl, rfl⟩
  · subst hw
    rw [exec_resultRegisterRead, exec_pairLoRead]
    exact ⟨congrArg s.done (State.rd_port_unreached h hp _), congrArg s.done (State.rd_port_unreached h hp _)⟩

end

/-- Settles O31: neither a write nor a read finds a row of the map. -/
theorem unassignedOffsets : Obligations.UnassignedOffsets := by
  unfold Obligations.UnassignedOffsets
  intro s who a v h
  refine ⟨?_, State.readCsr_unmapped h _⟩
  cases hr : s.reaches who a with
  | true => rw [exec_csrWrite_reached v hr, State.writeCsr_unmapped h, State.done_self]
  | false => exact (exec_access_unreached v hr).1

/-- Settles O32: the commands' rules for an access that reaches its register, for the plain pairs, and for one that reaches none. -/
theorem registerAccessRows : Obligations.RegisterAccessRows := by
  unfold Obligations.RegisterAccessRows
  intro s who a v reach give kept
  have hreach : reach = s.reaches who a := (State.reaches_fin who a).symm
  rw [hreach]
  refine ⟨fun h => ⟨exec_csrWrite_reached v h, exec_pairHiWrite_hi v h, fun hres => ?_, fun hlo => ?_⟩, exec_pairHiWrite_other v,
    fun h hres => ?_, fun h hlo => ?_, exec_pairLoRead_plain, exec_pairHiWrite_plain v, exec_access_unreached v⟩
  · rw [exec_resultRegisterRead_reached h, if_pos hres]; rfl
  · rw [exec_pairLoRead_reached h, if_pos hlo]; rfl
  · rw [exec_resultRegisterRead_reached h, hres, if_neg Bool.false_ne_true, State.done_self]
  · rw [exec_pairLoRead_reached h, hlo, if_neg Bool.false_ne_true, State.done_self]

/-! Writes of LO halves. -/

/-- What O33 says holds of every LO half but the frequencies of slots 0 to 7 of SYN-M. -/
theorem exec_csrWrite_lo_held {who : Fin 2} {a : Nat} (v : Word) (h : s.reaches who a = true) (hg : s.gatedWin a = false)
    (hlo : isHalf .lo a = true) (hm : ¬(0xF0100 ≤ a ∧ a < 0xF0180)) :
    ∃ t, exec (.csrWrite who a v) s = .next t ∧ t = { s with heldLo := t.heldLo } ∧ t.loFor who.val a = v ∧
      ∀ k, k ≠ (who.val, a) → pairGet t.heldLo k = pairGet s.heldLo k := by
  refine ⟨s.holdLo who a v, ?_, rfl, State.loFor_holdLo_self .., fun k hk => pairGet_pairPut_ne s.heldLo (some v) hk⟩
  rw [exec_csrWrite_reached v h, State.writeCsr_lo hg hlo hm]
  rfl

/-- The module out of reset in IDLE: the cores reach every register. -/
def State.idleModule : State := { State.reset with mode := .idle, pwr := { PwrSt.reset with held := false } }

/-- Refutes O33: a write of CLK.MSLOT[0].FREQ_LO, which R341 has the hardware ignore, sets CLK.STAT.CFGERR and is not held. -/
theorem not_loWriteIsHeld : ¬ Obligations.LoWriteIsHeld := by
  unfold Obligations.LoWriteIsHeld
  intro h
  have hreach : State.idleModule.reaches (0 : Fin 2) (CLK_MSLOT_FREQ_LO 0) = true := by decide
  have hgate : State.idleModule.gatedWin (CLK_MSLOT_FREQ_LO 0) = false := by decide
  have hlo : isHalf .lo (CLK_MSLOT_FREQ_LO 0) = true := by decide
  obtain ⟨t, hexec, hframe, -, -⟩ := h State.idleModule 0 (CLK_MSLOT_FREQ_LO 0) 1 hreach hgate hlo
  rw [exec_csrWrite_reached 1 hreach, State.writeCsr_slotLo hgate hlo (by decide)] at hexec
  cases hexec
  have hcsr : (State.idleModule.setB CLK_STAT 20 true).csr = State.idleModule.csr := congrArg State.csr hframe
  exact absurd hcsr (by decide)

end Sys2Proof.Machine
end

section
/-! SUPPORT. The channel identifier, entry into HOLD by a rail fault, the refusal of host commands, and the events that act by a shared form. -/

namespace Sys2Proof.Machine

open Csr

variable {s : State}

/-- Settles O58: each field of the sum lies above those to its right. -/
theorem channelIdentifier : Obligations.ChannelIdentifier := by
  unfold Obligations.ChannelIdentifier
  intro dev port chan hd hp hc
  simp only [nfld, chanId, Nat.shiftRight_eq_div_pow]
  omega

/-- Settles O56: the entry into HOLD leaves the module state, the gate, the lease, the recovery and the moult as its first move sets them. -/
theorem railFaultHolds : Obligations.RailFaultHolds := by
  unfold Obligations.RailFaultHolds
  intro s dt chan hawake hlive
  have hholds : (((s.elapse dt).setB PWR_STAT 29 true).setF PWR_STAT 13 8 chan).mode.holds = true := by simpa using hlive
  obtain ⟨hmode, hgate, -, hmoult, -, hlease, hrec⟩ := State.enterHold_calm hholds 6
  exact ⟨_, State.done_main hawake rfl, rfl, hmode, congrArg GateSt.start hgate, congrArg GateSt.fin hgate, congrArg GateSt.stopPend hgate, hlease, hrec,
    hmoult⟩

/-- The gate's answer to a command that it refuses: E_STATE is counted and logged first (R59). -/
theorem State.gateFail_eq (s : State) (code tag status : Nat) :
    s.gateFail code tag status = if status = 1 then (s.rejectLog code tag).gateAnswer tag 1 else s.gateAnswer tag status := by
  unfold State.gateFail
  split
  · next h => subst h; rfl
  · next h => simp [h, cond]

/-- A host command goes to the mailbox in COCOON; elsewhere one that the judgement of R58 refuses is counted and answered by the gate. -/
theorem exec_hostCmd_refused_or_asleep {c : Instr} {dt tag code : Nat} {args : List Nat} {serve : State → State} (hfree : s.pwr.held = false)
    (hexec : exec c s = s.done (s.run dt (·.hostCmd code tag args serve))) :
    (s.mode = .cocoon →
      exec c s = .next { (s.elapse dt).mboxWrite (BitVec.ofNat 32 (code * 65536 + tag % 65536)) with pending := s.pending }) ∧
    (s.mode ≠ .cocoon → s.gateBlocked = false → s.cmdJudge code tag ≠ 0 →
      exec c s = .next { (if s.cmdJudge code tag = 1 then ((s.elapse dt).cmdCount.rejectLog code tag).gateAnswer tag 1
        else (s.elapse dt).cmdCount.gateAnswer tag (s.cmdJudge code tag)) with pending := s.pending }) := by
  refine ⟨fun hm => ?_, fun hm hb hj => ?_⟩
  · rw [hexec]; exact State.done_run hfree (State.hostCmd_asleep serve hm)
  · rw [hexec]; exact State.done_run hfree ((State.hostCmd_refused serve hb hm hj).trans (State.gateFail_eq ..))

/-- Settles O38: each of the host commands is one call of the gate. -/
theorem hostCommandsRefusedOrAsleep : Obligations.HostCommandsRefusedOrAsleep := by
  unfold Obligations.HostCommandsRefusedOrAsleep
  intro s dt tag hfree other
  have gate {c : Instr} {code : Nat} {args : List Nat} {serve : State → State}
      (hexec : exec c s = s.done (s.run dt (·.hostCmd code tag args serve))) : other c code :=
    exec_hostCmd_refused_or_asleep hfree hexec
  exact ⟨gate rfl, gate rfl, gate rfl, fun _ => gate rfl, fun _ => gate rfl, fun _ => gate rfl, gate rfl, gate rfl, fun _ => gate rfl,
    fun _ _ => gate rfl, fun _ => gate rfl, gate rfl, fun _ _ => gate rfl, fun _ => gate rfl, gate rfl, fun _ => gate rfl, gate rfl, gate rfl,
    fun _ => gate rfl, fun _ _ => gate rfl, fun _ _ _ => gate rfl, fun _ => gate rfl, fun _ => gate rfl, fun _ => gate rfl, fun _ => gate rfl,
    fun _ => gate rfl, fun _ => gate rfl, fun _ => gate rfl, fun _ => gate rfl, fun _ => gate rfl, fun _ => gate rfl, fun _ => gate rfl⟩

/-- Settles O48: each event acts by one of the shared forms, whose part of the module is awake. -/
theorem memoryAndClockCommandsComplete : Obligations.MemoryAndClockCommandsComplete := by
  unfold Obligations.MemoryAndClockCommandsComplete
  intro s
  refine ⟨fun h => ?_, fun h hs => ?_, fun h => ?_, fun h hi => ?_⟩
  · and_intros <;> intros <;> exact State.done_main h rfl
  · and_intros <;> intros <;> exact State.done_clocks h hs rfl
  · and_intros <;> intros <;> exact State.done_wr h rfl
  · and_intros <;> intros <;> exact State.done_isl h hi rfl

/-- Settles O53: each event acts by one of the shared forms, whose part of the module is awake. -/
theorem moduleEventsComplete : Obligations.ModuleEventsComplete := by
  unfold Obligations.ModuleEventsComplete
  intro s
  refine ⟨fun h => ?_, fun h hi => ?_, fun h => ?_, fun _ => rfl, fun _ _ => rfl, fun _ _ _ => rfl, fun h => ?_, fun h hi _ _ => ?_⟩
  · and_intros <;> intros <;> exact State.done_wr h rfl
  · and_intros <;> intros <;> exact State.done_isl h hi rfl
  · and_intros <;> intros <;> exact State.done_main h rfl
  · and_intros <;> intros <;> exact State.done_run h rfl
  · exact State.done_isl h hi rfl

end Sys2Proof.Machine
end

section
/-! SUPPORT. Waits, idle, fences and the end of a stalled post (R29, R43, R52): what each answers by what it waits for. -/

namespace Sys2Proof.Machine

open Csr

variable {s : State}

/-! What the passing of time leaves of what these conditions read. -/

theorem State.pair_elapse (dt : Nat) {a : Nat} (h : a / 0x10000 ≠ 7) (h4 : (a + 4) / 0x10000 ≠ 7) : (s.elapse dt).pair a = s.pair a := by
  simp only [State.pair, State.csrRaw_elapse dt h, State.csrRaw_elapse dt h4]

@[simp] theorem State.qBase_elapse (dt : Nat) (n : Fin 128) : (s.elapse dt).qBase n = s.qBase n := by
  have hwin : QUE_BASE_LO n / 0x10000 ≠ 7 ∧ (QUE_BASE_LO n + 4) / 0x10000 ≠ 7 := by
    show (0x160000 + 0x20 * n.val) / 0x10000 ≠ 7 ∧ (0x160000 + 0x20 * n.val + 4) / 0x10000 ≠ 7
    omega
  exact State.pair_elapse dt hwin.1 hwin.2

@[simp] theorem State.memHeldAt_elapse (dt : Nat) : (s.elapse dt).memHeldAt = s.memHeldAt := by
  funext n; simp [State.memHeldAt, State.onSafe, State.b_elapse dt (a := CLK_STAT) (by decide)]

@[simp] theorem State.qHeld_elapse (dt : Nat) (n : Fin 128) : (s.elapse dt).qHeld n = s.qHeld n := by
  simp [State.qHeld, State.memHeld]

@[simp] theorem State.fenceMet_elapse (dt k : Nat) : (s.elapse dt).fenceMet k = s.fenceMet k := by simp [State.fenceMet]

@[simp] theorem State.recovery_elapse (dt : Nat) : (s.elapse dt).flt.recovery = s.flt.recovery := by
  obtain ⟨_, _, _, _, _, _, _, _, e⟩ := s.elapse_lit dt; rw [e]

/-! wait and the fences. -/

theorem State.opWait_eq (a : Fin 16) :
    s.opWait a = if stampReached s.tnow (s.wreg a).toNat = true then .done s.advance 1 else .done (s.setStall (.wait (s.wreg a).toNat)) 1 := rfl

theorem State.opFence_met {k : Nat} (h : s.fenceMet k = true) : s.opFence k = .done s.advance 1 := if_pos h

theorem State.opFence_unmet {k : Nat} (h : s.fenceMet k = false) : s.opFence k = .done (s.setStall (.fence k)) 1 := if_neg (by simp [h])

theorem State.fenceMet_csr : s.fenceMet 0 = true ↔ s.core.csrOut = [] := List.isEmpty_iff

theorem State.fenceMet_mem : s.fenceMet 1 = true ↔ s.core.stores = [] := List.isEmpty_iff

theorem State.fenceMet_all : s.fenceMet 3 = true ↔ s.core.csrOut = [] ∧ s.core.stores = [] := by simp [State.fenceMet]

/-- A fence takes 1 cycle and goes on where what it waits for has happened, and else stalls the cores. -/
theorem exec_fence {c : Instr} {k : Nat} (hexec : exec c s = s.done (s.issue (·.opFence k))) (hi : s.issues = true)
    (he : s.eccAt 0 s.core.pc.toNat = false) :
    (s.fenceMet k = true → exec c s = .next (s.advance.cycles 1)) ∧
    (¬s.fenceMet k = true → exec c s = .next ((s.setStall (.fence k)).cycles 1)) := by
  refine ⟨fun h => ?_, fun h => ?_⟩ <;> rw [hexec]
  · exact State.done_issue_same hi he (State.opFence_met h) (by simp)
  · exact State.done_issue_same hi he (State.opFence_unmet (by simpa using h)) (by simp)

theorem State.waitResume_reached {k : Nat} (hr : s.coreRuns = true) (hs : s.core.stall = .wait k) (h : stampReached s.tnow k = true) :
    s.waitResume = (s.setStall .none).advance := by simp [State.waitResume, hs, hr, h]

theorem State.fenceResume_met {k : Nat} (hr : s.coreRuns = true) (hs : s.core.stall = .fence k) (h : s.fenceMet k = true) :
    s.fenceResume = (s.setStall .none).advance := by simp [State.fenceResume, hs, hr, h]

/-! idle. -/

/-- What idle waits for: a queue alone with w0, else a queue or a stamp. -/
def State.idleStamp (s : State) (a : Fin 16) : Option Nat := if a = 0 then none else some (s.wreg a).toNat

theorem State.opIdle_ready {d a : Fin 16} {v : Nat} (hl : s.core.replay = []) (hm : s.mode ≠ .cocoon) (h : s.idleEnd (s.idleStamp a) = some v) :
    s.opIdle d a = .done (s.idleDone d v) 2 := by
  simp only [State.idleStamp] at h
  simp [State.opIdle, State.meet_live hl, hm, h]

theorem State.opIdle_waits {d a : Fin 16} (hl : s.core.replay = []) (hm : s.mode ≠ .cocoon) (h : s.idleEnd (s.idleStamp a) = none) :
    s.opIdle d a = .done (s.setStall (.idle d (s.idleStamp a))) 2 := by
  simp only [State.idleStamp] at h ⊢
  simp [State.opIdle, State.meet_live hl, hm, h]

theorem State.opIdle_met {d a : Fin 16} {v : Nat} {rest : List JEntry} (hl : s.core.replay = .idle v :: rest) :
    s.opIdle d a =
      .done (({ s with core := { s.core with replay := rest } } : State).retire d (BitVec.ofNat 64 v) s.core.flags) 2 :=
  congrArg (IssueOut.done · 2) (State.meet_met hl (by rfl) _ _)

theorem State.idleWake_ready {d : Fin 16} {stamp : Option Nat} {v : Nat} (hm : s.mode.live = true) (hrec : s.flt.recovery = none)
    (hs : s.core.stall = .idle d stamp) (h : s.idleEnd stamp = some v) : s.idleWake = (s.setStall .none).idleDone d v := by
  simp [State.idleWake, hs, hm, hrec, h]

/-! A producer stalled on a full queue (R29). -/

/-- The end of a stall: the entry is published where there is room, dropped at its limit, and else goes on waiting. -/
def stallEnd (s : State) (n since : Nat) (got gone : State) : State :=
  if s.qFull n = false then got else if s.stallOver n since = true then gone else s

theorem State.postStallEnd_hardware {n : Nat} {r : Rec} (hen : s.qEn n = true) (hheld : s.qHeld n = false) (h : s.oldestStalled n = some r) :
    s.postStallEnd n =
      let s1 : State := { s with que := { s.que with stalled := s.que.stalled.erase r } }
      stallEnd s n r.since ((((s1.emitRec r).evbMerge).trgSettle).lateSeen r) ((s1.dropRec r).trgSettle) := by
  simp [State.postStallEnd, stallEnd, hen, hheld, h]

theorem State.postStallEnd_cores {d : Fin 16} {n since kind : Nat} {e : Entry} (hen : s.qEn n = true) (hheld : s.qHeld n = false)
    (h : s.oldestStalled n = none) (hs : s.core.stall = .post d n e since kind) :
    s.postStallEnd n =
      stallEnd s n since ((s.setStall .none).postOk kind d n e) (((s.setStall .none).inc (QUE_DROP n)).postDone kind d n e 3) := by
  simp [State.postStallEnd, stallEnd, hen, hheld, h, hs]

/-- POST_STALL_END by the room and the limit of the queue. -/
theorem exec_postStallEnd {dt since : Nat} {q : Fin 128} {got gone : State} (hawake : s.awake = true)
    (h : (s.elapse dt).postStallEnd q = stallEnd (s.elapse dt) q since got gone) :
    (¬(s.elapse dt).qFull q = true → exec (.postStallEnd dt q) s = .next { got with pending := s.pending }) ∧
    ((s.elapse dt).qFull q = true → (s.elapse dt).stallOver q since = true →
      exec (.postStallEnd dt q) s = .next { gone with pending := s.pending }) ∧
    ((s.elapse dt).qFull q = true → ¬(s.elapse dt).stallOver q since = true → exec (.postStallEnd dt q) s = .next (s.elapse dt)) := by
  refine ⟨fun hf => State.done_main hawake (h.trans ?_), fun hf hl => State.done_main hawake (h.trans ?_), fun hf hl => ?_⟩
  · simp [stallEnd, hf]
  · simp [stallEnd, hf, hl]
  · have hstay : (s.elapse dt).postStallEnd q = s.elapse dt := h.trans (by simp [stallEnd, hf, hl])
    exact (State.done_main hawake hstay).trans (State.done_elapse dt)

/-- Settles O25: the waits, the fences and idle by their conditions, and the stalls by what ends them. -/
theorem waitsAndFences : Obligations.WaitsAndFences := by
  unfold Obligations.WaitsAndFences
  intro s d a imm dt k q
  constructor
  · intro hi he
    have done {f : State → IssueOut} {t : State} {n : Nat} (hf : f s = .done t n) (hp : t.pending = s.pending) :=
      State.done_issue_same hi he hf hp
    have fenceCsr := exec_fence (c := .fenceCsr) rfl hi he
    have fenceMem := exec_fence (c := .fenceMem) rfl hi he
    have fenceAll := exec_fence (c := .fenceAll) rfl hi he
    rw [State.fenceMet_csr] at fenceCsr
    rw [State.fenceMet_mem] at fenceMem
    rw [State.fenceMet_all, Classical.not_and_iff_not_or_not] at fenceAll
    refine ⟨fun h => done ((State.opWait_eq a).trans (if_pos h)) (by simp), fun h => done ((State.opWait_eq a).trans (if_neg (by simp [h]))) (by simp),
      done rfl (by simp), fenceCsr.1, fenceCsr.2, fenceMem.1, fenceMem.2, (exec_fence (c := .fenceQ) rfl hi he).1 rfl, fenceAll.1, fenceAll.2, ?_⟩
    intro stamp
    refine ⟨fun hl hm => ⟨fun v h => ?_, fun h => ?_⟩, fun v rest hl => ?_⟩
    · exact State.done_issue hi he (State.opIdle_ready hl hm h)
    · exact done (State.opIdle_waits hl hm h) (by simp)
    · exact done (State.opIdle_met hl) (by simp [State.retire])
  · intro hawake u goOn
    have hcore : u.core = s.core := by simp [u]
    have hgo : goOn.pending = s.pending := by simp [goOn, u]
    have same {f : State → State} {c : Instr} (hexec : exec c s = s.done (s.main dt f)) (hf : f u = goOn) : exec c s = .next goOn := by
      rw [hexec, State.done_main hawake hf, ← hgo]
    refine ⟨fun hr hs h => ?_, fun hr hs h => ?_, fun v stamp hm hrec hs h => ?_, fun hen hheld => ?_⟩
    · exact same rfl (State.waitResume_reached hr (hcore ▸ hs) h)
    · exact same rfl (State.fenceResume_met hr (hcore ▸ hs) (by simpa [u] using h))
    · exact State.done_main hawake (State.idleWake_ready (by simpa [u] using hm) (by simpa [u] using hrec) (hcore ▸ hs) h)
    · refine ⟨fun r hr => ?_, fun e since kind hno hs => ?_⟩
      · exact exec_postStallEnd hawake (State.postStallEnd_hardware (by simpa using hen) (by simpa using hheld) hr)
      · exact exec_postStallEnd hawake (State.postStallEnd_cores (by simpa using hen) (by simpa using hheld) hno (hcore ▸ hs))

end Sys2Proof.Machine
end

section
/-! SUPPORT. csrr and csrw of the cores, their acknowledgement, and CSRTIMEOUT (R14, R15, R42, R51, R52). -/

namespace Sys2Proof.Machine

open Csr

variable {s : State} {d a : Fin 16} {imm : BitVec 18}

/-- The CSR address of csrr and csrw. -/
def State.csrAddr (s : State) (a : Fin 16) (imm : BitVec 18) : Nat := (s.wreg a + zext18 imm).toNat

/-! csrr. -/

theorem State.opCsrr_outside (h : csrEnd ≤ s.csrAddr a imm) : s.opCsrr d a imm = .trap 3 0 (s.csrAddr a imm) := if_pos h

/-- With nothing of it in the journal a csrr runs live. -/
theorem State.opCsrr_live (h : s.csrAddr a imm < csrEnd) (hl : isResult (s.csrAddr a imm) = false ∨ s.core.replay = []) :
    s.opCsrr d a imm = s.csrrLive d (s.csrAddr a imm) := by
  rw [State.opCsrr, ← State.csrAddr, if_neg (by omega)]
  split
  · next hres => exact State.meet_live (hl.resolve_left (by simp [hres])) _ _ _
  · rfl

theorem State.opCsrr_met {n : Nat} {rest : List JEntry} (h : s.csrAddr a imm < csrEnd) (hres : isResult (s.csrAddr a imm) = true)
    (hl : s.core.replay = .csrr (s.csrAddr a imm) n :: rest) :
    s.opCsrr d a imm = .done (({ s with core := { s.core with replay := rest } } : State).retire d (BitVec.ofNat 64 n) s.core.flags) 2 := by
  rw [State.opCsrr, ← State.csrAddr, if_neg (by omega), if_pos hres]
  exact State.meet_met hl (by simp) _ _

theorem State.csrrLive_core {x : Nat} (h : winIsland x = 1) : s.csrrLive d x = .done (s.csrrDone d x) 2 := if_pos h

theorem State.csrrLive_other {x : Nat} (h : winIsland x ≠ 1) :
    s.csrrLive d x = .done { s with core := { s.core with stall := .csrr d x, csrSince := s.up } } 2 := if_neg h

/-! csrw. -/

theorem State.opCsrw_outside (h : csrEnd ≤ s.csrAddr a imm) : s.opCsrw d a imm = .trap 3 0 (s.csrAddr a imm) := if_pos h

theorem State.opCsrw_stalls (h : s.csrAddr a imm < csrEnd) (hfull : 16 ≤ s.core.csrOut.length) :
    s.opCsrw d a imm =
      .done { s with core := { s.core with stall := .csrw (s.csrAddr a imm) (BitVec.ofNat 32 (s.wreg d).toNat), csrSince := s.up } } 0 := by
  rw [State.opCsrw, ← State.csrAddr, if_neg (by omega), if_pos hfull]

theorem State.opCsrw_leaves (h : s.csrAddr a imm < csrEnd) (hroom : s.core.csrOut.length < 16) :
    s.opCsrw d a imm = .done (s.advance.csrwPost (s.csrAddr a imm) (BitVec.ofNat 32 (s.wreg d).toNat)) 1 := by
  rw [State.opCsrw, ← State.csrAddr, if_neg (by omega), if_neg (by omega)]

theorem State.csrwPost_core {x : Nat} (h : winIsland x = 1) (v : Word) : s.csrwPost x v = s.writeCsr 0 true x v := if_pos h

theorem State.csrwPost_other {x : Nat} (h : winIsland x ≠ 1) (v : Word) :
    s.csrwPost x v = { s with core := { s.core with csrOut := s.core.csrOut ++ [(x, v, s.up)] } } := if_neg h

/-! The acknowledgement and the timeout. -/

theorem State.csrAck_write {i : Nat} {y : Nat × Word × Nat} (h : s.core.csrOut.find? (fun z => winIsland z.1 == i) = some y) :
    s.csrAck i = (({ s with core := { s.core with csrOut := s.core.csrOut.erase y } } : State).writeCsr 0 true y.1 y.2.1).coreSettle := by
  simp [State.csrAck, h]

theorem State.csrAck_read {y : Nat} (hs : s.core.stall = .csrr d y) (h : ∀ z ∈ s.core.csrOut, winIsland z.1 ≠ winIsland y) :
    s.csrAck (winIsland y) = (s.setStall .none).csrrDone d y := by
  have hnone : s.core.csrOut.find? (fun z => winIsland z.1 == winIsland y) = none := by simpa using h
  simp [State.csrAck, hnone, hs]

theorem State.csrTimeout_read {y : Nat} (hr : s.coreRuns = true) (ht : s.b SEQ_TSTAT 30 = false) (hs : s.core.stall = .csrr d y)
    (hout : s.core.csrOut = []) (hlate : s.core.csrSince + 10 * us ≤ s.up) : s.csrTimeout = (s.trapRaise 8 0 y).cycles 6 := by
  simp [State.csrTimeout, hr, ht, hs, hout, hlate]

theorem State.csrTimeout_write {y : Nat × Word × Nat} {rest : List (Nat × Word × Nat)} (hr : s.coreRuns = true) (ht : s.b SEQ_TSTAT 30 = false)
    (hout : s.core.csrOut = y :: rest) (hlate : y.2.2 + 10 * us ≤ s.up) :
    s.csrTimeout = (({ s with core := { s.core with csrOut := rest } } : State).trapRaise 8 0 y.1).cycles 6 := by
  simp [State.csrTimeout, hr, ht, hout, hlate]

/-- Settles O26: the instructions by their address and its island, the acknowledgement and the timeout by what is outstanding. -/
theorem csrAccessOfTheCores : Obligations.CsrAccessOfTheCores := by
  unfold Obligations.CsrAccessOfTheCores
  intro s d a imm dt i x v u
  constructor
  · intro hi he
    refine ⟨fun h => ⟨State.done_trap hi he (State.opCsrr_outside h), State.done_trap hi he (State.opCsrw_outside h)⟩, fun h => ⟨fun hl => ?_,
      fun n rest hres hl => ?_, fun hfull => ?_, fun hroom => ?_⟩⟩
    · exact ⟨fun hw => State.done_issue hi he ((State.opCsrr_live h hl).trans (State.csrrLive_core hw)),
        fun hw => State.done_issue_same hi he ((State.opCsrr_live h hl).trans (State.csrrLive_other hw)) rfl⟩
    · exact State.done_issue_same hi he (State.opCsrr_met h hres hl) (by simp [State.retire])
    · exact State.done_issue_same hi he (State.opCsrw_stalls h hfull) rfl
    · have leaves := State.opCsrw_leaves (d := d) h hroom
      refine ⟨fun hw => ?_, fun hw => ?_⟩
      · rw [State.csrwPost_core (x := s.csrAddr a imm) hw] at leaves
        exact State.done_issue hi he leaves
      · rw [State.csrwPost_other (x := s.csrAddr a imm) hw] at leaves
        exact (State.done_issue_same hi he leaves (by simp)).trans (by simp [x, v, State.csrAddr])
  · intro hawake
    have hcore : u.core = s.core := by simp [u]
    refine ⟨fun y hy => ?_, fun y hs hw hno => ?_, fun hr ht => ⟨fun y hs hout hlate => ?_, fun y rest hout hlate => ?_⟩⟩
    · rw [← hcore] at hy ⊢
      exact State.done_main hawake (State.csrAck_write hy)
    · rw [← hcore] at hs hno
      rw [← hw] at hno
      exact State.done_main (f := (·.csrAck i)) hawake (hw ▸ State.csrAck_read hs hno)
    · have ht' : u.b SEQ_TSTAT 30 = false := (State.b_elapse dt (by decide) 30).trans ht
      exact State.done_main hawake (State.csrTimeout_read hr ht' (hcore ▸ hs) (hcore ▸ hout) (by simpa [u] using hlate))
    · have ht' : u.b SEQ_TSTAT 30 = false := (State.b_elapse dt (by decide) 30).trans ht
      exact State.done_main hawake (State.csrTimeout_write hr ht' (hcore ▸ hout) (by simpa [u] using hlate))

end Sys2Proof.Machine
end

section
/-! SUPPORT. post, post.r, vjob and take by the state of their queue (R29, R47 to R49, R53, R157, Table SEQ-6). -/

namespace Sys2Proof.Machine

open Csr

variable {s : State} {d a : Fin 16} {imm : BitVec 18} {n x : Nat}

/-! The traps of a queue instruction (R49, R50). -/

/-- With a queue number under 128 and a local address in order only the queue's class can trap. -/
theorem queueTrap_inRange (hn : n < 128) (hx : x < 0x40000) (ha : x % 32 = 0) (word : Nat) (ok : Nat → Bool) :
    queueTrap word x n ok = if ok n then none else some (9, n) := by
  have hrange : ¬128 ≤ n := by omega
  have hlocal : ¬0x40000 ≤ x := by omega
  simp [queueTrap, localTrap, hrange, hlocal, ha]

theorem State.postTrap_wrongClass (hn : n < 128) (hx : x < 0x40000) (ha : x % 32 = 0) {word : Nat} {ok : Nat → Bool} (hok : ok n = false) :
    s.postTrap word x n ok = some (9, n) := by
  simp [State.postTrap, queueTrap_inRange hn hx ha, hok]

theorem State.postTrap_entry (hn : n < 128) (hx : x < 0x40000) (ha : x % 32 = 0) {word : Nat} {ok : Nat → Bool} (hok : ok n = true) :
    s.postTrap word x n ok = s.entryEcc x := by
  simp [State.postTrap, queueTrap_inRange hn hx ha, hok]

/-! A post that runs live (R47), by the state of its queue. -/

section
variable {kind : Nat} {e : Entry}

theorem State.doPost_live (hl : s.core.replay = []) : s.doPost kind d n x = s.postLive kind d n (s.localEntry x) := by
  simp only [State.doPost, State.meet_live hl]

theorem State.postLive_disabled (hen : s.qEn n = false) : s.postLive kind d n e = s.postDone kind d n e 1 := by
  simp [State.postLive, hen]

theorem State.postLive_reserved (hen : s.qEn n = true) (hr : reservedAddr e.addr e.length = true) :
    s.postLive kind d n e = s.postDone kind d n e 2 := by
  simp [State.postLive, hen, hr]

theorem State.postLive_held (hen : s.qEn n = true) (hr : reservedAddr e.addr e.length = false) (hh : s.qHeld n = true) :
    s.postLive kind d n e = s.setStall (.post d n e s.up kind) := by
  simp [State.postLive, hen, hr, hh]

/-- A producer finds no place: the ring is full or an earlier producer waits for it. -/
theorem qBusy_iff : (!s.qFull n && !s.que.stalled.any (fun y => y.q == n)) = true ↔ ¬(s.qFull n = true ∨ ∃ y ∈ s.que.stalled, y.q = n) := by
  simp

theorem State.postLive_room (hen : s.qEn n = true) (hr : reservedAddr e.addr e.length = false) (hh : s.qHeld n = false)
    (hroom : ¬(s.qFull n = true ∨ ∃ y ∈ s.que.stalled, y.q = n)) : s.postLive kind d n e = s.postOk kind d n e := by
  simp [State.postLive, hen, hr, hh, qBusy_iff.2 hroom]

theorem State.postLive_busy (hen : s.qEn n = true) (hr : reservedAddr e.addr e.length = false) (hh : s.qHeld n = false)
    (hbusy : s.qFull n = true ∨ ∃ y ∈ s.que.stalled, y.q = n) :
    s.postLive kind d n e =
      if s.qPol n = 1 then (s.inc (QUE_DROP n)).postDone kind d n e 3 else s.setStall (.post d n e s.up kind) := by
  have hplace := Bool.eq_false_iff.2 (mt qBusy_iff.1 (not_not_intro hbusy))
  simp [State.postLive, hen, hr, hh, hplace]

end

/-! The three posting instructions. -/

theorem State.opPost_of_postTrap {t : Nat × Nat} (h : s.postTrap (wordI 0x2C d a imm) (s.wreg a).toNat imm.toNat seqProduces = some t) :
    s.opPost d a imm = .trap t.1 0 t.2 := by simp [State.opPost, h]

theorem State.opPost_runs (h : s.postTrap (wordI 0x2C d a imm) (s.wreg a).toNat imm.toNat seqProduces = none) :
    s.opPost d a imm = .done (s.doPost 0 d imm.toNat (s.wreg a).toNat) 4 := by simp [State.opPost, h]

theorem State.opPostr_of_postTrap {t : Nat × Nat} (h : s.postTrap (wordI 0x2D d a imm) (s.wreg a).toNat imm.toNat seqProduces = some t) :
    s.opPostr d a imm = .trap t.1 0 t.2 := by simp [State.opPostr, h]

theorem State.opPostr_runs (h : s.postTrap (wordI 0x2D d a imm) (s.wreg a).toNat imm.toNat seqProduces = none) (hm : s.fenceMet 3 = true) :
    s.opPostr d a imm = .done (s.doPost 0 d imm.toNat (s.wreg a).toNat) 5 := by simp [State.opPostr, h, hm]

theorem State.opPostr_waits (h : s.postTrap (wordI 0x2D d a imm) (s.wreg a).toNat imm.toNat seqProduces = none) (hm : s.fenceMet 3 = false) :
    s.opPostr d a imm = .done (s.setStall (.postr d (s.wreg a).toNat imm.toNat)) 1 := by simp [State.opPostr, h, hm]

theorem State.opVjob_of_postTrap {t : Nat × Nat}
    (h : s.postTrap (wordI 0x30 d a imm) (s.wreg a).toNat imm.toNat (fun n => n == 116 || n == 117) = some t) :
    s.opVjob d a imm = .trap t.1 0 t.2 := by simp [State.opVjob, h]

theorem State.opVjob_runs (h : s.postTrap (wordI 0x30 d a imm) (s.wreg a).toNat imm.toNat (fun n => n == 116 || n == 117) = none) :
    s.opVjob d a imm = .done (s.doPost 1 d imm.toNat (s.wreg a).toNat) 6 := by simp [State.opVjob, h]

/-! take (R48). -/

theorem State.opTake_wrongClass (h : queueTrap (wordI 0x2E d a imm) (s.wreg a).toNat imm.toNat (fun n => seqConsumes n && !s.tapped n) = some (9, n)) :
    s.opTake d a imm = .trap 9 0 n := by simp [State.opTake, h]

theorem State.opTake_held (h : queueTrap (wordI 0x2E d a imm) (s.wreg a).toNat imm.toNat (fun n => seqConsumes n && !s.tapped n) = none)
    (hen : s.qEn imm.toNat = true) (hh : s.qHeld imm.toNat = true) :
    s.opTake d a imm = .done (s.setStall (.take d imm.toNat (s.wreg a).toNat)) 0 := by simp [State.opTake, h, hen, hh]

/-- The cycles of a take, and the state that it acts on. -/
theorem State.opTake_runs (h : queueTrap (wordI 0x2E d a imm) (s.wreg a).toNat imm.toNat (fun n => seqConsumes n && !s.tapped n) = none)
    (hh : s.qEn imm.toNat = false ∨ s.qHeld imm.toNat = false) (hl : s.core.replay = []) :
    s.opTake d a imm = .done ((s.accessCycles (s.qBase imm.toNat) 6).2.takeLive d imm.toNat (s.wreg a).toNat)
      (if s.qEn imm.toNat then (s.accessCycles (s.qBase imm.toNat) 6).1 else 6) := by
  have hrun : (s.qEn imm.toNat && s.qHeld imm.toNat) = false := by rcases hh with hh | hh <;> simp [hh]
  have hlive : (s.accessCycles (s.qBase imm.toNat) 6).2.core.replay = [] := hl
  simp only [State.opTake, h, hrun, Bool.false_eq_true, if_false, State.takeRun]
  rw [State.meet_live hlive]

theorem State.takeLive_disabled (h : s.qEn n = false) : s.takeLive d n x = s.takeDone d n x none 1 := by simp [State.takeLive, h]

theorem State.takeLive_gate (h : s.qEn 125 = true) :
    s.takeLive d 125 x = s.gateTake.1.takeDone d 125 x s.gateTake.2 (if s.gateTake.2.isSome then 0 else 3) := by simp [State.takeLive, h]

theorem State.takeLive_empty (hen : s.qEn n = true) (hg : n ≠ 125) (h : s.qReady n = false) : s.takeLive d n x = s.takeDone d n x none 3 := by
  simp [State.takeLive, hen, hg, h]

theorem State.takeLive_ready (hg : n ≠ 125) (h : s.qReady n = true) :
    s.takeLive d n x = (Machine.cond (decide (n < 64)) State.evbSync (s.dequeue n)).takeDone d n x (some (s.qEntry n (s.qHead n))) 0 := by
  have hen : s.qEn n = true := by simp only [State.qReady, Bool.and_eq_true] at h; exact h.1.1.1
  simp [State.takeLive, hen, hg, h, State.takeHead]

/-- A queue that holds a published entry is enabled, and its requests are not held. -/
theorem State.qReady_enabled (h : s.qReady n = true) : s.qEn n = true ∧ s.qHeld n = false := by
  simp only [State.qReady, Bool.and_eq_true, Bool.not_eq_true'] at h
  exact ⟨h.1.1.1, h.2⟩

/-- Settles O27: each instruction by its trap, and then by the state of its queue. -/
theorem queueInstructions : Obligations.QueueInstructions := by
  unfold Obligations.QueueInstructions
  intro s d a imm hi he hl n x e give posts hn hx ha
  have done {c : Instr} {f : State → IssueOut} {t : State} {k : Nat} (hexec : exec c s = s.done (s.issue f)) (hf : f s = .done t k) :
      exec c s = give t k := hexec.trans (State.done_issue hi he hf)
  have trap {c : Instr} {f : State → IssueOut} {cause tval : Nat} (hexec : exec c s = s.done (s.issue f)) (hf : f s = .trap cause 0 tval) :
      exec c s = give (s.trapRaise cause 0 tval) 6 := hexec.trans (State.done_trap hi he hf)
  have posting {c : Instr} {f : State → IssueOut} {kind k : Nat} (hexec : exec c s = s.done (s.issue f))
      (hecc : ∀ y, s.entryEcc x = some y → f s = .trap y.1 0 y.2) (hrun : s.entryEcc x = none → f s = .done (s.doPost kind d n x) k) :
      posts c kind k := by
    refine ⟨fun y hy => trap hexec (hecc y hy), fun hno => ?_⟩
    have hpost : f s = .done (s.postLive kind d n e) k := by rw [hrun hno, State.doPost_live hl]
    refine ⟨fun hen => ?_, fun hen hr => ?_, fun hen hr hh => ?_, fun hen hr hh => ⟨fun hroom => ?_, fun hbusy hpol => ?_, fun hbusy hpol => ?_⟩⟩
    · exact done hexec (by rw [hpost, State.postLive_disabled hen])
    · exact done hexec (by rw [hpost, State.postLive_reserved hen hr])
    · exact done hexec (by rw [hpost, State.postLive_held hen hr hh])
    · exact done hexec (by rw [hpost, State.postLive_room hen hr hh hroom])
    · exact done hexec (by rw [hpost, State.postLive_busy hen hr hh hbusy, if_pos hpol])
    · exact done hexec (by rw [hpost, State.postLive_busy hen hr hh hbusy, if_neg hpol])
  have entry {word : Nat} {ok : Nat → Bool} (hok : ok n = true) : s.postTrap word x n ok = s.entryEcc x := State.postTrap_entry hn hx ha hok
  refine ⟨fun hp => ⟨?_, fun hm => ?_, fun hm hno => ?_⟩, fun hv => ?_, fun hp => ⟨?_, ?_⟩, fun hc => ?_, fun hc ht => ?_⟩
  · exact posting rfl (fun y hy => State.opPost_of_postTrap ((entry hp).trans hy)) (fun hno => State.opPost_runs ((entry hp).trans hno))
  · exact posting rfl (fun y hy => State.opPostr_of_postTrap ((entry hp).trans hy)) (fun hno => State.opPostr_runs ((entry hp).trans hno) hm)
  · exact done rfl (State.opPostr_waits ((entry hp).trans hno) hm)
  · have hok : (n == 116 || n == 117) = true := by simpa using hv
    have entry' {word : Nat} := entry (word := word) (ok := fun n => n == 116 || n == 117) hok
    exact posting rfl (fun y hy => State.opVjob_of_postTrap (entry'.trans hy)) (fun hno => State.opVjob_runs (entry'.trans hno))
  · exact trap rfl (State.opPost_of_postTrap (State.postTrap_wrongClass hn hx ha hp))
  · exact trap rfl (State.opPostr_of_postTrap (State.postTrap_wrongClass hn hx ha hp))
  · have hok : (seqConsumes n && !s.tapped n) = false := by rcases hc with h | h <;> simp [h]
    exact trap rfl (State.opTake_wrongClass ((queueTrap_inRange hn hx ha _ _).trans (if_neg (by simp [hok]))))
  · intro r
    have hno : queueTrap (wordI 0x2E d a imm) x n (fun n => seqConsumes n && !s.tapped n) = none :=
      (queueTrap_inRange hn hx ha _ _).trans (if_pos (by simp [hc, ht]))
    have taking (hh : s.qEn n = false ∨ s.qHeld n = false) {t : State} {k : Nat} (hlive : r.2.takeLive d n x = t)
        (hk : (if s.qEn n then r.1 else 6) = k) : exec (.take d a imm) s = give t k :=
      done rfl ((State.opTake_runs hno hh hl).trans (congrArg₂ IssueOut.done hlive hk))
    refine ⟨fun hen => ?_, fun hen hh => ?_, fun hen hh hg hr => ?_, fun hr hg => ?_, fun hen hh hg => ?_⟩
    · exact taking (.inl hen) (State.takeLive_disabled hen) (by simp [hen])
    · exact done rfl (State.opTake_held hno hen hh)
    · exact taking (.inr hh) (State.takeLive_empty (s := r.2) hen hg hr) (if_pos hen)
    · obtain ⟨hen, hh⟩ := State.qReady_enabled hr
      exact taking (.inr hh) (State.takeLive_ready (s := r.2) hg hr) (if_pos hen)
    · refine taking (.inr hh) ?_ (if_pos hen)
      rw [hg] at hen ⊢
      exact State.takeLive_gate (s := r.2) hen

end Sys2Proof.Machine
end

section
/-! SUPPORT. The read of a result register (R31, R32). -/

namespace Sys2Proof.Machine

open Csr

variable {s : State} {a who : Nat}

/-- A cleared bit reads 0, whether or not the map has a register at the address. -/
theorem State.b_setB_cleared (hs : spSorted s.csr = true) (i : Nat) (hi : i < 32) : (s.setB a i false).b a i = false := by
  cases h : regAt a with
  | some r => simp [State.b_setB_self hs (a := a) (by simp [h]) i i false hi]
  | none =>
    have hget : spGet (s.setB a i false).csr a = none := (spGet_spPut_self hs a _).trans (by simp [csrListed, h])
    simp [State.b, State.csrRaw, hget, csrReset, h, bit]

theorem isResult_iff (a : Nat) : isResult a = true ↔ ∃ r, regAt a = some r ∧ r.rc = true := by
  unfold isResult
  cases regAt a <;> simp

/-- A result register without companions of its own is read with the register after it. -/
theorem State.readCsr_result (hg : s.gatedWin a = false) (hres : isResult a = true) (hsc : a ≠ FEL_SCRES) (hmb : a ≠ PWR_MBOXRSP) :
    s.readCsr who a = s.readResult who a := by
  obtain ⟨r, hr, hrc⟩ := (isResult_iff a).1 hres
  simp [State.readCsr, hr, hg, hrc, State.readRes, hsc, hmb]

theorem State.readResult_settled (h : s.resultNow a = none) :
    s.readResult who a = (s.csrRaw a, (s.putLatch who (a + 4) (s.csrRaw (a + 4))).setB a 31 false) := by
  simp only [State.readResult, h]; rfl

/-- The companion's OVR is cleared in the cycle of a new result. -/
def State.clearOvr (s : State) (a : Nat) (ovr : Option Nat) : State := match ovr with | some i => s.setB (a + 4) i false | none => s

theorem State.clearOvr_lit (ovr : Option Nat) : ∃ c r, s.clearOvr a ovr = { s with csr := c, raised := r } := by
  cases ovr with
  | none => exact ⟨_, _, rfl⟩
  | some i => exact State.setB_lit s (a + 4) i false

theorem State.csrRaw_clearOvr_ne {y : Nat} (ovr : Option Nat) (h : y ≠ a + 4) : (s.clearOvr a ovr).csrRaw y = s.csrRaw y := by
  cases ovr with
  | none => rfl
  | some i => exact State.csrRaw_setB_ne false h

theorem State.b_clearOvr (hs : spSorted s.csr = true) {ovr : Option Nat} {i : Nat} (h : ovr = some i) (hi : i < 32) :
    (s.clearOvr a ovr).b (a + 4) i = false := by
  subst h; exact State.b_setB_cleared hs i hi

theorem State.readResult_now {x : PrevRes} (h : s.resultNow a = some x) :
    ∃ p, s.readResult who a = (x.value, { (s.clearOvr a x.ovr).putLatch who (a + 4) (nth x.after 0 0) with prevRes := p }) := by
  simp only [State.readResult, h]; exact ⟨_, rfl⟩

/-- The read of a result register leaves every latch but its own and its companion's. -/
theorem pairGet_latches {l : List ((Nat × Nat) × Word)} {k : Nat × Nat} (u v : Word) (ha : k ≠ (who, a)) (hc : k ≠ (who, a + 4)) :
    pairGet (pairPut (pairPut l (who, a + 4) (some u)) (who, a) (some v)) k = pairGet l k := by
  rw [pairGet_pairPut_ne _ _ ha, pairGet_pairPut_ne _ _ hc]

/-- Settles O34: with no result of the present cycle the stored one is read and loses NEW; else the previous one is read, and the new one
loses OVR. -/
theorem resultReadClearsNew : Obligations.ResultReadClearsNew := by
  unfold Obligations.ResultReadClearsNew
  intro s who a hs hreach hg hres hsc hmb
  have hexec : exec (.resultRegisterRead who a) s =
      s.done ((s.readResult who a).2.putLatch who a (s.readResult who a).1) := by
    rw [exec_resultRegisterRead_reached hreach, if_pos hres, State.readKept, State.readCsr_result hg hres hsc hmb]
  have hne : ((who.val, a + 4) : Nat × Nat) ≠ (who.val, a) := by simp
  refine ⟨_, hexec, ?_⟩
  cases hnow : s.resultNow a with
  | none =>
    rw [State.readResult_settled hnow]
    obtain ⟨r, hr, -⟩ := (isResult_iff a).1 hres
    refine ⟨by simp [State.putLatch], fun k ha hc => ?_, fun _ => ⟨?_, ?_, fun i hi => ?_, fun y hy => ?_⟩, fun x hx => by simp at hx⟩
    · simpa [State.putLatch] using pairGet_latches _ _ ha hc
    · exact State.latched_putLatch_self ..
    · refine (State.latched_putLatch_ne _ hne).trans ?_
      simp [State.latched, State.putLatch, pairGet_pairPut_self]
    · refine (State.b_setB_self (s := s.putLatch who (a + 4) (s.csrRaw (a + 4))) hs (by simp [hr]) 31 i false (by omega)).trans ?_
      by_cases h : i = 31
      · simp [h]
      · simp only [ne_eq, h, not_false_eq_true, decide_true, Bool.true_and]; rfl
    · exact State.csrRaw_setB_ne false hy
  | some x =>
    obtain ⟨p, hp⟩ := s.readResult_now (who := who) hnow
    obtain ⟨c, r, hlit⟩ := s.clearOvr_lit (a := a) x.ovr
    rw [hp]
    refine ⟨by simp [State.putLatch, hlit], fun k ha hc => ?_, fun h => by simp at h, fun x' hx => ?_⟩
    · simpa [State.putLatch, hlit] using pairGet_latches _ _ ha hc
    · cases hx
      refine ⟨State.latched_putLatch_self .., ?_, State.csrRaw_clearOvr_ne _ (by omega), fun i hi hi32 => State.b_clearOvr hs hi hi32,
        fun y hy => State.csrRaw_clearOvr_ne _ hy⟩
      exact (State.latched_putLatch_ne _ hne).trans (State.latched_putLatch_self ..)

end Sys2Proof.Machine
end

section
/-! SUPPORT. The enabling of the log queue while an error entry waits for room in the log ring (R28, R414). -/

namespace Sys2Proof.Machine

open Csr

theorem State.idleModule_safe : State.idleModule.Safe := by
  refine ⟨⟨rfl, rfl, rfl, ?_, ⟨rfl, rfl⟩, fun l hl => by cases hl⟩, rfl, by decide⟩
  intro i hi
  match i, hi with
  | 0, _ => exact ⟨rfl, rfl⟩
  | 1, _ => exact ⟨rfl, rfl⟩

/-- Q124 is disabled, with 16 slots' room at the base of SRAM; the log ring lies at the base of DRAM, and one error entry waits for it. -/
def State.errorEntryWaits : State :=
  let s : State := { State.idleModule with flt := { FltSt.reset with logWait := [{ level := 3, event := 1, args := [], stamp := 0, sec := 0 }] } }
  (s.setCsr (QUE_BASE_LO 124) 0x800000).setPair FLT_LOGBUF_LO 0x100000000

theorem State.errorEntryWaits_safe : State.errorEntryWaits.Safe := by
  have hkeeps : Keeps State.idleModule State.errorEntryWaits := by
    refine State.setPair_keeps _ _ _ (State.setCsr_keeps _ _ _ ?_)
    exact (Keeps.refl _).same rfl rfl rfl rfl rfl
  exact ⟨hkeeps.mem State.idleModule_safe.mem, hkeeps.csr State.idleModule_safe.csr, by decide⟩

/-- The same once Q124 is enabled: the entry has been published. -/
def State.logQueueEnabled : State := State.errorEntryWaits.writeCsr 0 true (QUE_CFG (124 : Fin 128)) 0x80000004

theorem State.qTail_congr {s t : State} (h : t.csr = s.csr) (n : Nat) : t.qTail n = s.qTail n := by
  simp only [State.qTail, State.csrRaw_congr h]

/-- QUE_ENABLE leaves the register file as the write of QUE.CFG does. -/
theorem State.csr_of_queEnable {s t : State} {n : Fin 128} {v : Word} (h : s.awake = true) (hexec : exec (.queEnable n v) s = .next t) :
    t.csr = (s.writeCsr 0 true (QUE_CFG n) v).csr := by
  have hdone : exec (.queEnable n v) s = .next { s.writeCsr 0 true (QUE_CFG n) v with pending := s.pending } := State.done_wr h rfl
  rw [hdone] at hexec
  cases hexec; rfl

/-- Refutes O35: enabling Q124 publishes the waiting error entry in the same step, so QUE.TAIL[124] is 1. -/
theorem not_queueEnable : ¬ Obligations.QueueEnable := by
  unfold Obligations.QueueEnable
  intro h
  have hawake : State.errorEntryWaits.awake = true := by decide
  obtain ⟨t, hexec, -, -, hok, -⟩ := h State.errorEntryWaits 124 0x80000004 State.errorEntryWaits_safe hawake (by decide) (by decide)
  obtain ⟨-, -, htail⟩ := hok ⟨by decide, by decide, by decide, by decide⟩
  have hcsr : t.csr = State.logQueueEnabled.csr := State.csr_of_queEnable hawake hexec
  have hone : State.logQueueEnabled.qTail (124 : Fin 128) = 1 := by decide
  rw [State.qTail_congr hcsr, hone] at htail
  cases htail

end Sys2Proof.Machine
end

section
/-! SUPPORT. An entry in the ring of a queue (R25, R26, R29, Table GLB-13): what its four words spell, and what publishing one writes. -/

namespace Sys2Proof.Machine

open Csr

/-! Words of memory. -/

theorem Memory.readN_lt (m : List Host.Cell) (a n : Nat) : Memory.readN m a n < 256 ^ n := by
  induction n generalizing a with
  | zero => simp [Memory.readN]
  | succ n ih =>
    have hbyte := (Memory.read m a).isLt
    have hrest := ih (a + 1)
    rw [Memory.readN, Nat.pow_succ]
    omega

/-- The words written one after another are read back, held to 64 bits. -/
theorem Memory.readN_writeWords {m : List Host.Cell} (h : Memory.wf m = true) (a : Nat) (ws : List Nat) (i : Nat) (hi : i < ws.length) :
    Memory.readN (Memory.writeWords m a ws) (a + 8 * i) 8 = ws[i] % 2 ^ 64 := by
  induction ws generalizing m a i with
  | nil => simp at hi
  | cons w ws ih =>
    cases i with
    | zero =>
      have hlater : ∀ x, a ≤ x → x < a + 8 →
          Memory.read (Memory.writeWords (Memory.writeN m a 8 w) (a + 8) ws) x = Memory.read (Memory.writeN m a 8 w) x :=
        fun x _ hx => Memory.read_writeWords_ne _ (.inl hx)
      exact (Memory.readN_congr hlater).trans (Memory.readN_writeN h a 8 w)
    | succ i =>
      have hnext := ih (Memory.writeN_wf h a 8 w) (a + 8) i (by simpa using hi)
      rw [show a + 8 * (i + 1) = a + 8 + 8 * i by omega]
      exact hnext

/-! The four words of an entry. -/

theorem nfld_lt (n hi lo : Nat) : nfld n hi lo < 2 ^ (hi + 1 - lo) := Nat.mod_lt _ (Nat.two_pow_pos _)

/-- Every field of an entry fits the bits that Table GLB-13 gives it. -/
structure Entry.Fits (e : Entry) : Prop where
  status : e.status < 2 ^ 8
  type : e.type < 2 ^ 8
  addr : e.addr < 2 ^ 40
  length : e.length < 2 ^ 32
  qseq : e.qseq < 2 ^ 32
  stamp : e.stamp < 2 ^ 64
  tag : e.tag < 2 ^ 64
  top : e.top < 2 ^ 7

/-- The first word of an entry: DONE above the other fields. -/
def Entry.word0 (e : Entry) : Nat :=
  2 ^ 63 + (e.top % 128) * 2 ^ 56 + (e.status % 256) * 2 ^ 48 + (e.type % 256) * 2 ^ 40 + e.addr % 2 ^ 40

/-- The second word of an entry. -/
def Entry.word1 (e : Entry) : Nat := (e.length % 2 ^ 32) * 2 ^ 32 + e.qseq % 2 ^ 32

theorem Entry.words_eq (e : Entry) : e.words = [e.word0, e.word1, e.stamp, e.tag] := rfl

/-- DONE is bit 63 of the first word, and nothing lies above it. -/
theorem Entry.word0_bounds (e : Entry) : 2 ^ 63 ≤ e.word0 ∧ e.word0 < 2 ^ 64 := by
  unfold Entry.word0; omega

theorem Entry.word1_lt (e : Entry) : e.word1 < 2 ^ 64 := by
  unfold Entry.word1; omega

theorem Entry.done_word0 (e : Entry) : e.word0.testBit 63 = true := by
  obtain ⟨hlo, hhi⟩ := e.word0_bounds
  rw [Nat.testBit_eq_decide_div_mod_eq, decide_eq_true_iff]
  omega

/-- The words of an entry whose fields fit spell it. -/
theorem Entry.ofWords_words {e : Entry} (h : e.Fits) : Entry.ofWords e.word0 e.word1 e.stamp e.tag = e := by
  obtain ⟨status, type, addr, length, qseq, stamp, tag, top⟩ := e
  obtain ⟨hstatus, htype, haddr, hlength, hqseq, -, -, htop⟩ := h
  simp only at hstatus htype haddr hlength hqseq htop
  simp only [Entry.ofWords, Entry.word0, Entry.word1, nfld, Nat.shiftRight_eq_div_pow, Entry.mk.injEq, true_and]
  omega

/-- A short stamp fits 64 bits. -/
theorem stampOf_lt (t : Nat) : stampOf t < 2 ^ 64 := by
  simp only [stampOf, psPerSec, Nat.shiftLeft_eq]
  omega

/-- The entry that a post publishes fits its four words. -/
theorem State.localEntry_fits (s : State) (x p isl : Nat) (hp : p < 2 ^ 32) :
    ({ s.localEntry x with qseq := p, stamp := s.stampAt isl } : Entry).Fits where
  status := nfld_lt _ 55 48
  type := nfld_lt _ 47 40
  addr := nfld_lt _ 39 0
  length := nfld_lt _ 63 32
  qseq := hp
  stamp := stampOf_lt _
  tag := Memory.readN_lt _ _ 8
  top := nfld_lt _ 62 56

theorem countBack_lt (t i : Nat) : countBack t i < 2 ^ 32 := Nat.mod_lt _ (by omega)

/-! The ring. -/

variable {s t : State} {n : Nat}

/-- A ring in which the words of an entry stand: the entry is read back, and its DONE reads 1. -/
theorem State.qEntry_written {m : List Host.Cell} {e : Entry} {i : Nat} (hm : Memory.wf m = true) (hmem : t.mem = Memory.writeWords m (t.qSlot n i) e.words)
    (he : e.Fits) : t.qEntry n i = e ∧ (t.word64 (t.qSlot n i)).testBit 63 = true := by
  have word (j : Nat) (hj : j < e.words.length) : t.word64 (t.qSlot n i + 8 * j) = e.words[j] % 2 ^ 64 := by
    rw [State.word64, hmem]; exact Memory.readN_writeWords hm _ _ _ hj
  have h0 : t.word64 (t.qSlot n i) = e.word0 := (word 0 (by simp [Entry.words_eq])).trans (Nat.mod_eq_of_lt e.word0_bounds.2)
  have h1 : t.word64 (t.qSlot n i + 8) = e.word1 := (word 1 (by simp [Entry.words_eq])).trans (Nat.mod_eq_of_lt e.word1_lt)
  have h2 : t.word64 (t.qSlot n i + 16) = e.stamp := (word 2 (by simp [Entry.words_eq])).trans (Nat.mod_eq_of_lt he.stamp)
  have h3 : t.word64 (t.qSlot n i + 24) = e.tag := (word 3 (by simp [Entry.words_eq])).trans (Nat.mod_eq_of_lt he.tag)
  refine ⟨?_, h0 ▸ e.done_word0⟩
  simp only [State.qEntry, h0, h1, h2, h3]
  exact Entry.ofWords_words he

/-- Where the other registers of the queue are as they were, so are its slots. -/
theorem State.qSlot_congr (h : ∀ y, y / 0x10000 ≠ 7 → y ≠ QUE_TAIL n → t.csrRaw y = s.csrRaw y) (hn : n < 128) (i : Nat) :
    t.qSlot n i = s.qSlot n i := by
  have hlo : t.csrRaw (QUE_BASE_LO n) = s.csrRaw (QUE_BASE_LO n) := h _ (by simp only [QUE_BASE_LO]; omega) (by simp only [QUE_BASE_LO, QUE_TAIL]; omega)
  have hhi : t.csrRaw (QUE_BASE_LO n + 4) = s.csrRaw (QUE_BASE_LO n + 4) :=
    h _ (by simp only [QUE_BASE_LO]; omega) (by simp only [QUE_BASE_LO, QUE_TAIL]; omega)
  have hcfg : t.csrRaw (QUE_CFG n) = s.csrRaw (QUE_CFG n) := h _ (by simp only [QUE_CFG]; omega) (by simp only [QUE_CFG, QUE_TAIL]; omega)
  simp only [State.qSlot, State.qBase, State.pair, State.qDepth, State.f, hlo, hhi, hcfg]

theorem State.qSlot_of_csr (h : t.csr = s.csr) (n i : Nat) : t.qSlot n i = s.qSlot n i := by
  simp only [State.qSlot, State.qBase, State.pair, State.qDepth, State.f, State.csrRaw_congr h]

theorem State.putWords_mem (s : State) (a : Nat) (ws : List Nat) : (s.putWords a ws).mem = Memory.writeWords s.mem a ws := rfl

theorem State.byte_putWords (s : State) (ws : List Nat) {a y : Nat} (hy : y < a ∨ a + 8 * ws.length ≤ y) : (s.putWords a ws).byte y = s.byte y :=
  Memory.read_writeWords_ne s.mem hy

/-- An entry is written to its slot and to no other place. -/
theorem State.byte_putEntry (s : State) (e : Entry) {a y : Nat} (hy : y < a ∨ a + 32 ≤ y) : (s.putWords a e.words).byte y = s.byte y :=
  s.byte_putWords e.words (by rw [Entry.words_eq]; exact hy)

/-- Moving the last entries on writes the slots they move to, and no register. -/
theorem State.moveOn_frame (s : State) (n k : Nat) :
    (s.moveOn n k).csr = s.csr ∧ (s.moveOn n k).core = s.core ∧
    ∀ y, (∀ i, i < k → y < s.qSlot n (countBack (s.qTail n) i) ∨ s.qSlot n (countBack (s.qTail n) i) + 32 ≤ y) → (s.moveOn n k).byte y = s.byte y := by
  refine List.foldlRecOn (motive := fun (st : State) => st.csr = s.csr ∧ st.core = s.core ∧
    ∀ y, (∀ i, i < k → y < s.qSlot n (countBack (s.qTail n) i) ∨ s.qSlot n (countBack (s.qTail n) i) + 32 ≤ y) → st.byte y = s.byte y)
    (List.range k) _ ⟨rfl, rfl, fun _ _ => rfl⟩ fun st ⟨hcsr, hcore, hbyte⟩ i hi =>
      ⟨(State.putWords_csr ..).trans hcsr, (State.putWords_core ..).trans hcore, fun y hy => ?_⟩
  have hout := hy i (List.mem_range.1 hi)
  rw [← State.qSlot_of_csr hcsr] at hout
  exact (State.byte_putEntry _ _ hout).trans (hbyte y hy)

/-- The entry as it is published: with the count of its place and the stamp of MEM's follower (R16, R26). -/
def State.published (s : State) (n : Nat) (e : Entry) (rank : Nat) : Entry :=
  { e with qseq := countBack (s.qTail n) (s.behind n rank), stamp := s.stampAt 8 }

theorem State.csrRaw_incMod_congr (h : t.csr = s.csr) (a b : Nat) : (t.incMod a).csrRaw b = (s.incMod a).csrRaw b := by
  have hset (v : Word) : (t.setCsr a v).csr = (s.setCsr a v).csr := by simp only [State.setCsr, h]
  simp only [State.incMod, State.csrRaw_congr h]
  exact State.csrRaw_congr (hset _) b

theorem regAt_queTail (n : Nat) (hn : n < 128) : (regAt (QUE_TAIL n)).isSome = true := by
  have hall : ∀ n : Fin 128, (regAt (QUE_TAIL n)).isSome = true := by decide
  exact hall ⟨n, hn⟩

section
variable (e : Entry) (rank : Nat)

/-- Publishing moves the entries behind on and writes the entry to its slot. -/
theorem State.enqueue_mem : (s.enqueue n e rank).mem =
    Memory.writeWords (s.moveOn n (s.behind n rank)).mem (s.qSlot n (countBack (s.qTail n) (s.behind n rank))) (s.published n e rank).words := by
  simp only [State.enqueue, State.bump_mem, State.incMod_mem, State.putWords_mem, State.published]

theorem State.enqueue_core : (s.enqueue n e rank).core = s.core := by
  simp only [State.enqueue, State.bump_core, State.incMod_core, State.putWords_core]
  exact (s.moveOn_frame n _).2.1

/-- Of the registers publishing advances TAIL alone. -/
theorem State.csrRaw_enqueue (y : Nat) : (s.enqueue n e rank).csrRaw y = (s.incMod (QUE_TAIL n)).csrRaw y := by
  simp only [State.enqueue, State.csrRaw_bump]
  refine State.csrRaw_incMod_congr ?_ _ _
  simp only [State.putWords_csr]
  exact (s.moveOn_frame n _).1

theorem State.csrRaw_enqueue_ne {y : Nat} (hy : y ≠ QUE_TAIL n) : (s.enqueue n e rank).csrRaw y = s.csrRaw y :=
  (State.csrRaw_enqueue e rank y).trans (State.csrRaw_setCsr_ne _ hy)

theorem State.qTail_enqueue (hs : spSorted s.csr = true) (hn : n < 128) : (s.enqueue n e rank).qTail n = (s.qTail n + 1) % 2 ^ 32 := by
  have htail := (State.csrRaw_enqueue (s := s) e rank (QUE_TAIL n)).trans (State.csrRaw_setCsr_self hs (regAt_queTail n hn) _)
  rw [State.qTail, htail, BitVec.toNat_add]
  rfl

/-- Bytes outside the slots from the entry's place to TAIL stay. -/
theorem State.byte_enqueue {y : Nat} (hy : ∀ i, i ≤ s.behind n rank →
      y < s.qSlot n (countBack (s.qTail n) i) ∨ s.qSlot n (countBack (s.qTail n) i) + 32 ≤ y) : (s.enqueue n e rank).byte y = s.byte y :=
  by
  have hput := (s.moveOn n (s.behind n rank)).byte_putEntry (s.published n e rank) (hy _ le_rfl)
  rw [State.byte, State.enqueue_mem, ← State.putWords_mem]
  exact hput.trans ((s.moveOn_frame n _).2.2 y fun i hi => hy i hi.le)

end

/-! The completion of a post. -/

theorem State.jpush_room (h : s.core.journal.length < 64) (e : JEntry) :
    s.jpush e = { s with core := { s.core with journal := s.core.journal ++ [e] } } := if_pos h

/-- A post that completes with OK and finds room in the journal: memory and registers stay, and wd is 0. -/
theorem State.postDone_ok (h : s.core.journal.length < 64) (d : Fin 16) (n : Nat) (e : Entry) :
    (s.postDone 0 d n e 0).mem = s.mem ∧ (s.postDone 0 d n e 0).csr = s.csr ∧ (d ≠ 0 → (s.postDone 0 d n e 0).wreg d = 0) := by
  have hroom : (s.retireStatus d 0).core.journal.length < 64 := by simpa [State.retireStatus, State.retire] using h
  have heq : s.postDone 0 d n e 0 = _ := State.jpush_room hroom (.post 0 n e.words 0)
  rw [heq]
  refine ⟨by simp [State.retireStatus, State.retire], by simp [State.retireStatus, State.retire], fun hd => ?_⟩
  have hwreg : (s.setW d 0).wreg d = 0 := by simp [State.wreg_setW, hd]
  have hregs : (s.retireStatus d 0).core.regs = (s.setW d 0).core.regs := by simp [State.retireStatus, State.retire]
  simpa [State.wreg, hregs] using hwreg

/-- Settles O28: the post runs live and publishes; what enqueue, the completion and the cycles leave gives the clauses. -/
theorem postedEntryAppears : Obligations.PostedEntryAppears := by
  unfold Obligations.PostedEntryAppears
  intro s d a imm hsafe hi he hl hj n x k hn h126 hx ha hprod hen hheld hfull hfirst hecc hres
  have hnotrap : s.postTrap (wordI 0x2C d a imm) x n seqProduces = none := (State.postTrap_entry hn hx ha hprod).trans hecc
  have hroom : ¬(s.qFull n = true ∨ ∃ y ∈ s.que.stalled, y.q = n) := by simpa [hfull] using hfirst
  have hop : s.opPost d a imm = .done ((s.enqueue n (s.localEntry x)).postDone 0 d n (s.localEntry x) 0) 4 := by
    rw [State.opPost_runs hnotrap, State.doPost_live hl, State.postLive_room hen hres hheld hroom, State.postOk, if_neg h126]
  refine ⟨_, State.done_issue hi he hop, ?_⟩
  obtain ⟨hmem, hcsr, hwreg⟩ := State.postDone_ok (s := s.enqueue n (s.localEntry x)) (by simpa [State.enqueue_core] using hj) d n (s.localEntry x)
  generalize hu : (s.enqueue n (s.localEntry x)).postDone 0 d n (s.localEntry x) 0 = u at hmem hcsr hwreg ⊢
  have hraw : ∀ y, y / 0x10000 ≠ 7 → (u.cycles 4).csrRaw y = (s.enqueue n (s.localEntry x)).csrRaw y :=
    fun y hy => (State.csrRaw_elapse _ hy).trans (State.csrRaw_congr hcsr y)
  have hslot (i : Nat) : (u.cycles 4).qSlot n i = s.qSlot n i :=
    State.qSlot_congr (fun y hy hne => (hraw y hy).trans (State.csrRaw_enqueue_ne _ _ hne)) hn i
  have hmem' : (u.cycles 4).mem = (s.enqueue n (s.localEntry x)).mem := by rw [State.cycles_mem, hmem]
  have hwf : Memory.wf (s.moveOn n k).mem = true := ((State.moveOn_keeps s n k (Keeps.refl s)).mem hsafe.mem).mem
  obtain ⟨hentry, hdone⟩ := State.qEntry_written (t := u.cycles 4) (n := n) (i := countBack (s.qTail n) k) hwf
    (by rw [hmem', hslot]; exact State.enqueue_mem ..) (s.localEntry_fits x _ 8 (countBack_lt _ _))
  refine ⟨hentry, hdone, ?_, fun y hy => ?_, fun hd => ?_⟩
  · have htail := congrArg BitVec.toNat (hraw (QUE_TAIL n) (by simp only [QUE_TAIL]; omega))
    exact htail.trans (State.qTail_enqueue _ _ hsafe.csr hn)
  · exact (congrArg (Memory.read · y) hmem').trans (State.byte_enqueue _ _ hy)
  · have hcore := congrArg CoreSt.regs (u.cycles_core 4)
    have hd0 := hwreg hd
    simpa [State.wreg, hcore] using hd0

end Sys2Proof.Machine
end

section
/-! SUPPORT. Instructions that only compute (R39, R41, R42, R44, Tables SEQ-2, SEQ-4, SEQ-5): their values over integers, FLAGS bit by bit, and
what they leave of the state. -/

namespace Sys2Proof.Machine

open Csr

variable {s : State} {d a b : Fin 16} {imm : BitVec 18}

/-! The values of OP 0x00 over integers (Table SEQ-4). -/

section
variable (x y : DWord)

theorem alu_shl : alu 5 x y = BitVec.ofNat 64 (x.toNat * 2 ^ (y.toNat % 64)) := by
  rw [alu, ← Nat.shiftLeft_eq]
  exact BitVec.eq_of_toNat_eq (by rw [BitVec.toNat_shiftLeft, BitVec.toNat_ofNat])

theorem alu_shr : alu 6 x y = BitVec.ofNat 64 (x.toNat / 2 ^ (y.toNat % 64)) := by
  rw [alu, ← Nat.shiftRight_eq_div_pow, ← BitVec.toNat_ushiftRight, BitVec.ofNat_toNat, BitVec.setWidth_eq]

theorem alu_sra : alu 7 x y = BitVec.ofInt 64 (x.toInt / ((2 ^ (y.toNat % 64) : Nat) : Int)) := by
  rw [alu, ← Int.shiftRight_eq_div_pow, ← BitVec.toInt_sshiftRight, BitVec.ofInt_toInt]

theorem alu_mul : alu 8 x y = BitVec.ofNat 64 (x.toNat * y.toNat) :=
  BitVec.eq_of_toNat_eq (by rw [alu, BitVec.toNat_mul, BitVec.toNat_ofNat])

theorem alu_min : alu 10 x y = if x.toInt < y.toInt then x else y := by simp [alu, BitVec.slt_eq_decide]

theorem alu_max : alu 11 x y = if x.toInt < y.toInt then y else x := by simp [alu, BitVec.slt_eq_decide]

theorem alu_minu : alu 12 x y = if x.toNat < y.toNat then x else y := by simp [alu, BitVec.ult_eq_decide]

theorem alu_maxu : alu 13 x y = if x.toNat < y.toNat then y else x := by simp [alu, BitVec.ult_eq_decide]

/-! FLAGS (Table SEQ-2). -/

/-- V after add: the signed sum does not fit. -/
theorem addOver_iff : addOver x y = true ↔ (x + y).toInt ≠ x.toInt + y.toInt := by
  have hsat : addOver x y = x.saddOverflow y := (BitVec.saddOverflow_eq x y).symm
  rw [hsat]
  refine ⟨fun h => ?_, fun h => Decidable.byContradiction fun hn => h (BitVec.toInt_add_of_not_saddOverflow hn)⟩
  have hlo := (x + y).le_toInt
  have hhi := (x + y).toInt_lt
  simp only [BitVec.saddOverflow, Bool.or_eq_true, decide_eq_true_eq] at h
  omega

/-- V after sub: the signed difference does not fit. -/
theorem subOver_iff : subOver x y = true ↔ (x - y).toInt ≠ x.toInt - y.toInt := by
  have hsat : subOver x y = x.ssubOverflow y := by
    rw [BitVec.ssubOverflow_eq, subOver]
    cases x.msb <;> cases y.msb <;> cases (x - y).msb <;> rfl
  rw [hsat]
  refine ⟨fun h => ?_, fun h => Decidable.byContradiction fun hn => h (BitVec.toInt_sub_of_not_ssubOverflow hn)⟩
  have hlo := (x - y).le_toInt
  have hhi := (x - y).toInt_lt
  simp only [BitVec.ssubOverflow, Bool.or_eq_true, decide_eq_true_eq] at h
  omega

variable {x y} (w r : DWord)

/-- Z, N, C and V over integers, after an instruction that sets all four. -/
theorem flagsCV_ordered (c v : Bool) {j : Nat} (hj : j < 64) :
    (flagsCV (flagsZN w r) c v).getLsbD j =
      if j = 0 then decide (r = 0) else if j = 1 then decide (r.toInt < 0) else if j = 2 then c else if j = 3 then v else w.getLsbD j := by
  rw [flagsCV_bit _ _ _ _ _ hj, BitVec.msb_eq_toInt, beq_eq_decide]
  grind

/-- Z and N over integers, after an instruction that sets these two. -/
theorem flagsZN_ordered {j : Nat} (hj : j < 64) :
    (flagsZN w r).getLsbD j = if j = 0 then decide (r = 0) else if j = 1 then decide (r.toInt < 0) else w.getLsbD j := by
  rw [flagsZN_bit _ _ _ hj, BitVec.msb_eq_toInt, beq_eq_decide]
  grind

/-- Z and N leave every bit above them. -/
theorem flagsZN_high {j : Nat} (h4 : 4 ≤ j) (hj : j < 64) : (flagsZN w r).getLsbD j = w.getLsbD j := by
  rw [flagsZN_bit _ _ _ hj, if_neg (by omega), if_neg (by omega)]

/-- Settles O10: the bits that flagsCV and flagsZN set, with C and V read over integers. -/
theorem aluFlags_bits : Obligations.AluFlags := by
  unfold Obligations.AluFlags
  rintro ⟨fn, hfn⟩ w x y j hj
  have hadd : addOver x y = decide ((x + y).toInt ≠ x.toInt + y.toInt) := Bool.eq_iff_iff.2 (by simpa using addOver_iff x y)
  have hsub : subOver x y = decide ((x - y).toInt ≠ x.toInt - y.toInt) := Bool.eq_iff_iff.2 (by simpa using subOver_iff x y)
  match fn with
  | 0 => exact (flagsCV_ordered w (x + y) _ _ hj).trans (by simp [alu, addCarry, hadd])
  | 1 => exact (flagsCV_ordered w (x - y) _ _ hj).trans (by simp [alu, subBorrow, hsub, BitVec.ult_eq_decide])
  | 2 | 3 | 4 => exact (flagsCV_ordered w _ false false hj).trans (by simp)
  | n + 5 => exact (flagsZN_ordered w _ hj).trans (by simp)

/-- Above V an instruction of OP 0x00 leaves FLAGS. -/
theorem aluFlags_high (fn : Nat) {j : Nat} (h4 : 4 ≤ j) (hj : j < 64) : (aluFlags fn w x y).getLsbD j = w.getLsbD j := by
  have high (r : DWord) (c v : Bool) : (flagsCV (flagsZN w r) c v).getLsbD j = w.getLsbD j := by
    rw [flagsCV_ordered _ _ _ _ hj, if_neg (by omega), if_neg (by omega), if_neg (by omega), if_neg (by omega)]
  match fn with
  | 0 | 1 | 2 | 3 | 4 => exact high ..
  | n + 5 => exact flagsZN_high w _ h4 hj

end

/-! An instruction that only computes. -/

/-- Where an instruction issues and computes, its result is written and the core goes on. -/
theorem exec_compute {c : Instr} {f : State → IssueOut} {v w : DWord} {n : Nat} (hexec : exec c s = s.done (s.issue f)) (hi : s.issues = true)
    (he : s.eccAt 0 s.core.pc.toNat = false) (hf : f s = s.compute d v w n) : exec c s = .next ((s.retire d v w).cycles n) :=
  hexec.trans (State.done_issue_same hi he hf (by simp [State.retire]))

/-- Settles O9: each instruction computes by its FN, and the value of that FN is the one Table SEQ-4 gives. -/
theorem aluInstructions : Obligations.AluInstructions := by
  unfold Obligations.AluInstructions
  intro s d a b hi he x y give
  have runs {c : Instr} {v : DWord} (fn : Nat) (hexec : exec c s = s.done (s.issue (·.opAlu fn d a b))) (hv : alu fn x y = v) :
      exec c s = give v fn (aluCycles fn) := exec_compute hexec hi he (hv ▸ rfl)
  exact ⟨runs 0 rfl rfl, runs 1 rfl rfl, runs 2 rfl rfl, runs 3 rfl rfl, runs 4 rfl rfl, runs 5 rfl (alu_shl x y), runs 6 rfl (alu_shr x y),
    runs 7 rfl (alu_sra x y), runs 8 rfl (alu_mul x y), runs 9 rfl rfl, runs 10 rfl (alu_min x y), runs 11 rfl (alu_max x y),
    runs 12 rfl (alu_minu x y), runs 13 rfl (alu_maxu x y)⟩

/-! Immediates (Table SEQ-5). -/

theorem addi_value (x : DWord) (imm : BitVec 18) : x + sext18 imm = BitVec.ofInt 64 (x.toInt + imm.toInt) := by
  have hext : (sext18 imm).toInt = imm.toInt := BitVec.toInt_signExtend_of_le (by omega)
  rw [BitVec.ofInt_add, BitVec.ofInt_toInt, ← hext, BitVec.ofInt_toInt]

theorem lui_value (u : BitVec 22) : u.zeroExtend 64 <<< 18 = BitVec.ofNat 64 (u.toNat * 2 ^ 18) := by
  refine BitVec.eq_of_toNat_eq ?_
  rw [BitVec.toNat_shiftLeft, BitVec.toNat_setWidth_of_le (by omega), BitVec.toNat_ofNat, Nat.shiftLeft_eq]

/-- A shift amount under 64 is the immediate. -/
theorem zext18_shift (h : imm.toNat < 64) : (zext18 imm).toNat % 64 = imm.toNat := by
  have hz : (zext18 imm).toNat = imm.toNat := BitVec.toNat_setWidth_of_le (by omega)
  rw [hz, Nat.mod_eq_of_lt h]

theorem State.opShi_small (h : imm.toNat < 64) (fn : Nat) :
    s.opShi fn d a imm = s.compute d (alu fn (s.wreg a) (zext18 imm)) (flagsZN s.core.flags (alu fn (s.wreg a) (zext18 imm))) 1 := if_neg (by omega)

/-- mfs of a selector up to 4 computes, and leaves FLAGS. -/
theorem State.opMfs_small (h : imm.toNat ≤ 4) : ∃ v, s.opMfs d a imm = s.compute d v s.core.flags 1 := by
  have hsel : imm.toNat = 0 ∨ imm.toNat = 1 ∨ imm.toNat = 2 ∨ imm.toNat = 3 ∨ imm.toNat = 4 := by omega
  rcases hsel with hsel | hsel | hsel | hsel | hsel <;> exact ⟨_, by simp only [State.opMfs, hsel]; rfl⟩

/-- Settles O11: each instruction computes; the immediates are read as integers. -/
theorem immediateInstructions : Obligations.ImmediateInstructions := by
  unfold Obligations.ImmediateInstructions
  intro s d a b imm u hi he x z give zn
  have runs {c : Instr} {f : State → IssueOut} {v w : DWord} {n : Nat} (hexec : exec c s = s.done (s.issue f)) (hf : f s = s.compute d v w n) :
      exec c s = give v w n := exec_compute hexec hi he hf
  have shifts {c : Instr} {v : DWord} (fn : Nat) (hsmall : imm.toNat < 64) (hexec : exec c s = s.done (s.issue (·.opShi fn d a imm)))
      (hv : alu fn x z = v) : exec c s = give v (zn v) 1 := runs hexec (hv ▸ State.opShi_small hsmall fn)
  refine ⟨?_, runs rfl rfl, runs rfl rfl, runs rfl rfl, fun h => ⟨?_, ?_, ?_⟩, runs rfl (congrArg (s.compute d · _ _) (lui_value u)), runs rfl rfl,
    runs rfl rfl, runs rfl rfl, ?_, runs rfl rfl, runs rfl rfl, ?_⟩
  · rw [← addi_value]; exact runs rfl rfl
  · exact shifts 5 h rfl (congrArg (x <<< ·) (zext18_shift h))
  · exact shifts 6 h rfl (congrArg (x >>> ·) (zext18_shift h))
  · exact shifts 7 h rfl (congrArg x.sshiftRight (zext18_shift h))
  · exact (runs rfl rfl).trans (by rw [BitVec.ofNat_toNat, BitVec.setWidth_eq])
  · exact State.done_issue_same hi he rfl (by simp)

/-! What an instruction that only computes leaves. -/

@[simp] theorem State.wreg_cycles (n : Nat) (r : Fin 16) : (s.cycles n).wreg r = s.wreg r := by simp [State.wreg]

/-- Of the general registers a computing instruction writes wd alone, and not w0. -/
theorem State.wreg_retire (v w : DWord) (r : Fin 16) : (s.retire d v w).wreg r = if r = d ∧ d ≠ 0 then v else s.wreg r := by
  have hregs : (s.retire d v w).wreg r = (s.setW d v).wreg r := by simp [State.retire, State.wreg]
  rw [hregs, State.wreg_setW]

theorem State.setW_lit (v : DWord) : ∃ r, s.setW d v = { s with core := { s.core with regs := r } } := by
  unfold State.setW
  split <;> exact ⟨_, rfl⟩

/-- A computing instruction changes the general registers, FLAGS, PC and the counters. -/
theorem State.retire_lit (v w : DWord) :
    ∃ r n, s.retire d v w = { s with core := { s.core with regs := r, flags := w, pc := s.core.pc + 4 }, flt := { s.flt with cnt := n } } := by
  obtain ⟨r, hr⟩ := s.setW_lit (d := d) v
  exact ⟨r, _, by rw [State.retire, hr]; rfl⟩

/-- The instruction completes with some result in wd, and FLAGS whose bits above V stay. -/
def Computes (s : State) (d : Fin 16) (c : Instr) : Prop :=
  ∃ v w n, exec c s = .next ((s.retire d v w).cycles n) ∧ ∀ j, 4 ≤ j → j < 64 → w.getLsbD j = s.core.flags.getLsbD j

/-- Every instruction on registers computes. -/
theorem registerInstruction_computes {b : Fin 16} {u : BitVec 22} {c : Instr} (hi : s.issues = true) (he : s.eccAt 0 s.core.pc.toNat = false)
    (hc : c ∈ [Instr.add d a b, .sub d a b, .and d a b, .or d a b, .xor d a b, .shl d a b, .shr d a b, .sra d a b, .mul d a b, .mulhu d a b,
        .min d a b, .max d a b, .minu d a b, .maxu d a b, .addi d a imm, .andi d a imm, .ori d a imm, .xori d a imm, .lui d u, .tadd d a b] ∨
      (c ∈ [Instr.shli d a imm, .shri d a imm, .srai d a imm] ∧ imm.toNat < 64) ∨ (c = .mfs d a imm ∧ imm.toNat ≤ 4)) : Computes s d c := by
  have alu {c : Instr} {v x y : DWord} {fn n : Nat} (h : exec c s = .next ((s.retire d v (aluFlags fn s.core.flags x y)).cycles n)) :
      Computes s d c := ⟨_, _, _, h, fun _ => aluFlags_high _ _⟩
  have logical {c : Instr} {v r : DWord} {n : Nat} (h : exec c s = .next ((s.retire d v (flagsZN s.core.flags r)).cycles n)) :
      Computes s d c := ⟨_, _, _, h, fun _ => flagsZN_high _ _⟩
  have moves {c : Instr} {v : DWord} {n : Nat} (h : exec c s = .next ((s.retire d v s.core.flags).cycles n)) : Computes s d c :=
    ⟨_, _, _, h, fun _ _ _ => rfl⟩
  obtain ⟨hadd, hsub, hand, hor, hxor, hshl, hshr, hsra, hmul, hmulhu, hmin, hmax, hminu, hmaxu⟩ := aluInstructions s d a b hi he
  obtain ⟨haddi, handi, hori, hxori, hshifts, hlui, htadd, -⟩ := immediateInstructions s d a b imm u hi he
  rcases hc with hc | ⟨hc, hsmall⟩ | ⟨rfl, hsmall⟩
  · simp only [List.mem_cons, List.not_mem_nil, or_false] at hc
    rcases hc with rfl | rfl | rfl | rfl | rfl | rfl | rfl | rfl | rfl | rfl | rfl | rfl | rfl | rfl | rfl | rfl | rfl | rfl | rfl | rfl
    exacts [alu hadd, alu hsub, alu hand, alu hor, alu hxor, alu hshl, alu hshr, alu hsra, alu hmul, alu hmulhu, alu hmin, alu hmax, alu hminu,
      alu hmaxu, alu haddi, logical handi, logical hori, logical hxori, moves hlui, moves htadd]
  · obtain ⟨hshli, hshri, hsrai⟩ := hshifts hsmall
    simp only [List.mem_cons, List.not_mem_nil, or_false] at hc
    rcases hc with rfl | rfl | rfl
    exacts [logical hshli, logical hshri, logical hsrai]
  · obtain ⟨v, hv⟩ := State.opMfs_small (s := s) (d := d) (a := a) hsmall
    exact moves (exec_compute rfl hi he hv)

/-- Settles O14: the instruction computes; what its result and its cycles write are the parts named. -/
theorem registerInstructionFrame : Obligations.RegisterInstructionFrame := by
  unfold Obligations.RegisterInstructionFrame
  intro s t d a b imm u c hi he hc ht
  obtain ⟨v, w, n, hexec, hhigh⟩ := registerInstruction_computes hi he hc
  rw [hexec] at ht
  cases ht
  obtain ⟨r, k, hret⟩ := s.retire_lit (d := d) v w
  have hcore : ((s.retire d v w).cycles n).core = { s.core with regs := r, flags := w, pc := s.core.pc + 4 } := by rw [State.cycles_core, hret]
  have hmem : ((s.retire d v w).cycles n).mem = s.mem := by rw [State.cycles_mem, hret]
  have hcsr : (s.retire d v w).csr = s.csr := by rw [hret]
  refine ⟨fun r hr => ?_, fun j h4 hj => ?_, by rw [hcore], fun x => congrArg (Memory.read · x) hmem, fun x hx => ?_, fun hquiet => ?_, ?_⟩
  · rw [State.wreg_cycles, State.wreg_retire, if_neg (fun h => hr h.1)]
  · rw [hcore]; exact hhigh j h4 hj
  · exact (State.csrRaw_elapse _ hx).trans (State.csrRaw_congr hcsr x)
  · have hq : (s.retire d v w).str.commit = none := by rw [hret]; exact hquiet
    obtain ⟨_, _, _, _, helapse⟩ := State.elapse_quiet _ hq (n * (s.retire d v w).corePeriod)
    rw [State.cycles, helapse, hret]
    exact ⟨rfl, rfl, rfl⟩
  · obtain ⟨_, _, _, _, _, _, _, _, hcyc⟩ := (s.retire d v w).cycles_lit n
    rw [hcyc, hret]

/-- Settles O13: w0 reads 0, and an add to it is an add whose result is discarded. -/
theorem zeroRegister : Obligations.ZeroRegister := by
  unfold Obligations.ZeroRegister
  intro s a b
  refine ⟨State.wreg_zero, fun hi he => ⟨_, (aluInstructions s 0 a b hi he).1, ?_, fun r => ?_⟩⟩
  · simp [State.retire]
  · simp [State.wreg_retire]

/-! Stamps (R44). -/

/-- A stamp joined from its two fields gives them back. -/
theorem stamp_join {sec ps : Nat} (hs : sec < 2 ^ 24) (hp : ps < 2 ^ 40) :
    stSec (sec <<< 40 + ps) = sec ∧ stPsec (sec <<< 40 + ps) = ps ∧ sec <<< 40 + ps < 2 ^ 64 := by
  simp only [stSec, stPsec, Nat.shiftLeft_eq, Nat.shiftRight_eq_div_pow]
  omega

/-- The stamp that tadd gives, in picoseconds, is the sum modulo 2^24 s; its picoseconds are under 10^12, and it fits 64 bits. -/
theorem stampAdd_fields (x : Nat) (z : Int) :
    stPsec (stampAdd x z) < psPerSec ∧ stampAdd x z < 2 ^ 64 ∧
    ((stSec (stampAdd x z) * psPerSec + stPsec (stampAdd x z) : Nat) : Int) =
      (((stSec x * psPerSec + stPsec x : Nat) : Int) + z) % ((2 ^ 24 * psPerSec : Nat) : Int) := by
  unfold stampAdd
  extract_lets t m
  have hpos : (0 : Int) < ((2 ^ 24 * psPerSec : Nat) : Int) := by decide
  have hm : (m : Int) = t % ((2 ^ 24 * psPerSec : Nat) : Int) := Int.toNat_of_nonneg (Int.emod_nonneg _ hpos.ne')
  have hlt : m < 2 ^ 24 * psPerSec := Int.ofNat_lt.1 (hm ▸ Int.emod_lt_of_pos _ hpos)
  have hsec : m / psPerSec < 2 ^ 24 := Nat.div_lt_of_lt_mul (by rwa [Nat.mul_comm])
  have hps : m % psPerSec < psPerSec := Nat.mod_lt _ (by decide)
  obtain ⟨h1, h2, h3⟩ := stamp_join hsec (hps.trans (by decide))
  rw [h1, h2, ← hm, Nat.div_add_mod']
  exact ⟨hps, h3, rfl⟩

/-- Settles O12: wd holds the sum of R44, whose fields are those of the sum in picoseconds. -/
theorem taddAddsPicoseconds : Obligations.TaddAddsPicoseconds := by
  unfold Obligations.TaddAddsPicoseconds
  intro s d a b hi he hd
  obtain ⟨hps, hfit, hsum⟩ := stampAdd_fields (s.wreg a).toNat (s.wreg b).toInt
  refine ⟨_, exec_compute (f := (·.opTadd d a b)) rfl hi he rfl, ?_⟩
  rw [State.wreg_cycles, State.wreg_retire, if_pos ⟨rfl, hd⟩, BitVec.toNat_ofNat, Nat.mod_eq_of_lt hfit]
  exact ⟨hps, hsum⟩

end Sys2Proof.Machine
end

section
/-! SUPPORT. Loads and stores of the cores, local and physical (R20, R22, R35, R42, R50, R51, Tables SEQ-5, SEQ-7): the traps of their addresses,
what a load reads and what a store leaves. -/

namespace Sys2Proof.Machine

open Csr

variable {s : State} {d a : Fin 16} {imm : BitVec 18} {x size : Nat}

/-- The address of a load or store. -/
def State.dataAddr (s : State) (a : Fin 16) (imm : BitVec 18) : Nat := (s.wreg a + sext18 imm).toNat

/-! The traps of an address. -/

theorem localTrap_outside (h : 0x40000 ≤ x) : localTrap x size = some (4, x) := if_pos h

theorem localTrap_misaligned (h : x < 0x40000) (ha : x % size ≠ 0) : localTrap x size = some (2, x) := by
  rw [localTrap, if_neg (by omega), if_pos ha]

theorem localTrap_inside (h : x < 0x40000) (ha : x % size = 0) : localTrap x size = none := by
  rw [localTrap, if_neg (by omega), if_neg (by omega)]

theorem physTrap_outside (h : inMem x 1 = false) : physTrap x size = some (3, x) := by simp [physTrap, h]

theorem physTrap_misaligned (h : inMem x 1 = true) (ha : x % size ≠ 0) : physTrap x size = some (2, x) := by simp [physTrap, h, ha]

theorem physTrap_inside (h : inMem x 1 = true) (ha : x % size = 0) : physTrap x size = none := by simp [physTrap, h, ha]

section
variable {t : Nat × Nat}

theorem State.opLdl_of_localTrap (h : localTrap (s.dataAddr a imm) 8 = some t) : s.opLdl d a imm = .trap t.1 0 t.2 := by
  rw [State.opLdl, ← State.dataAddr, h]

theorem State.opStl_of_localTrap (h : localTrap (s.dataAddr a imm) 8 = some t) : s.opStl d a imm = .trap t.1 0 t.2 := by
  rw [State.opStl, ← State.dataAddr, h]

theorem State.opLoad_of_physTrap (h : physTrap (s.dataAddr a imm) size = some t) : s.opLoad size d a imm = .trap t.1 0 t.2 := by
  rw [State.opLoad, ← State.dataAddr, h]

theorem State.opStore_of_physTrap (h : physTrap (s.dataAddr a imm) size = some t) : s.opStore size d a imm = .trap t.1 0 t.2 := by
  rw [State.opStore, ← State.dataAddr, h]

end

/-! Local memory. -/

theorem State.opLdl_bad (h : localTrap (s.dataAddr a imm) 8 = none) (he : s.eccAt 1 (s.dataAddr a imm) = true) :
    s.opLdl d a imm = .trap 5 0 (s.dataAddr a imm) := by
  rw [State.opLdl, ← State.dataAddr, h]; exact if_pos he

theorem State.opLdl_good (h : localTrap (s.dataAddr a imm) 8 = none) (he : s.eccAt 1 (s.dataAddr a imm) = false) :
    s.opLdl d a imm = s.compute d (BitVec.ofNat 64 (Memory.readN s.core.dmem (s.dataAddr a imm) 8)) s.core.flags 2 := by
  rw [State.opLdl, ← State.dataAddr, h]; exact if_neg (by simp [he])

theorem State.opStl_inside (h : localTrap (s.dataAddr a imm) 8 = none) :
    s.opStl d a imm = .done (s.putLocal (s.dataAddr a imm) (s.wreg d).toNat).advance 1 := by
  rw [State.opStl, ← State.dataAddr, h]

/-- A word written to local memory is good. -/
theorem State.eccAt_putLocal (v : Nat) : (s.putLocal x v).eccAt 1 x = false := by
  simp only [State.eccAt, State.putLocal, List.any_filter, List.any_eq_false]
  intro y _
  cases h : y.1 == 1 && y.2 / 8 == x / 8 <;> simp

/-- Settles O16: the traps of localTrap, and an ldl's own. -/
theorem localAddressTraps : Obligations.LocalAddressTraps := by
  unfold Obligations.LocalAddressTraps
  intro s d a imm hi he x trap
  have traps {cause : Nat} (h : localTrap x 8 = some (cause, x)) : exec (.ldl d a imm) s = trap cause ∧ exec (.stl d a imm) s = trap cause :=
    ⟨State.done_trap hi he (State.opLdl_of_localTrap h), State.done_trap hi he (State.opStl_of_localTrap h)⟩
  exact ⟨fun h => traps (localTrap_outside h), fun h ha => traps (localTrap_misaligned h ha),
    fun h ha hecc => State.done_trap hi he (State.opLdl_bad (localTrap_inside h ha) hecc)⟩

/-- The 64 bits of a general register are read back from the 8 bytes that hold them. -/
theorem Memory.readN_writeN_dword {m : List Host.Cell} (h : Memory.wf m = true) (x : Nat) (v : DWord) :
    Memory.readN (Memory.writeN m x 8 v.toNat) x 8 = v.toNat := by
  rw [Memory.readN_writeN h]
  exact Nat.mod_eq_of_lt v.isLt

/-- Settles O15: the word is written to data SRAM and to no other place; a good word is read into wd. -/
theorem localLoadStore : Obligations.LocalLoadStore := by
  unfold Obligations.LocalLoadStore
  intro s d a imm hi he hmem x hx ha
  have hin : localTrap x 8 = none := localTrap_inside hx ha
  have hexec : exec (.stl d a imm) s = .next ((s.putLocal x (s.wreg d).toNat).advance.cycles 1) :=
    State.done_issue_same hi he (State.opStl_inside (d := d) hin) (by simp [State.putLocal])
  refine ⟨⟨_, hexec, ?_⟩, fun hecc => exec_compute rfl hi he (State.opLdl_good hin hecc)⟩
  have hcore : ((s.putLocal x (s.wreg d).toNat).advance.cycles 1).core = { (s.putLocal x (s.wreg d).toNat).core with pc := s.core.pc + 4 } := by
    rw [State.cycles_core]; rfl
  have hword := Memory.readN_writeN_dword hmem.dmem x (s.wreg d)
  have hmem' : ((s.putLocal x (s.wreg d).toNat).advance.cycles 1).mem = s.mem := by simp [State.putLocal]
  refine ⟨?_, ?_, fun y hy => ?_, fun y => congrArg (Memory.read · y) hmem', ?_, ?_, ?_, fun y hy => ?_⟩
  · rw [hcore]; exact hword
  · rw [State.eccAt, hcore]; exact State.eccAt_putLocal (s.wreg d).toNat
  · rw [hcore]; exact Memory.read_writeN_ne s.core.dmem hy
  · rw [hcore]; rfl
  · rw [hcore]; rfl
  · rw [hcore]
  · exact (State.csrRaw_elapse _ hy).trans (State.csrRaw_congr (by simp [State.putLocal]) y)

/-! Loads of physical memory. -/

theorem State.opLoad_held (h : physTrap (s.dataAddr a imm) size = none) (hw : s.memWaits (s.dataAddr a imm) = true) :
    s.opLoad size d a imm = .done (s.setStall (.load d (s.dataAddr a imm) size)) 0 := by
  rw [State.opLoad, ← State.dataAddr, h]; exact if_pos hw

theorem State.opLoad_runs (h : physTrap (s.dataAddr a imm) size = none) (hw : s.memWaits (s.dataAddr a imm) = false) :
    s.opLoad size d a imm = s.loadNow d (s.dataAddr a imm) size := by
  rw [State.opLoad, ← State.dataAddr, h]; exact if_neg (by simp [hw])

/-- A read of DRAM counts what it corrects, and changes nothing else. -/
theorem State.ceRead_lit (s : State) (x size : Nat) : ∃ c f, s.ceRead x size = { s with csr := c, flt := f } := by
  simp only [State.ceRead]
  split <;> exact ⟨_, _, rfl⟩

/-- The load of a good word computes, on a state whose counts of DRAM errors and whose free values may have gone on. -/
theorem State.loadNow_good (h : s.loadBad x size = false) :
    ∃ c f n, s.loadNow d x size =
      ({ (s.accessCycles x 12).2 with csr := c, flt := f } : State).compute d (BitVec.ofNat 64 (s.coreRead x size)) s.core.flags n := by
  obtain ⟨c, f, hce⟩ := State.ceRead_lit (s.accessCycles x 12).2 x size
  exact ⟨c, f, (s.accessCycles x 12).1,
    (if_neg (by simp [h])).trans (congrArg (fun (t : State) => t.compute d (BitVec.ofNat 64 (s.coreRead x size)) s.core.flags _) hce)⟩

/-- The load of a good word writes it to wd and goes on; memory, the other general registers and FLAGS stay. -/
theorem exec_load_good {c : Instr} (hexec : exec c s = s.done (s.issue (·.opLoad size d a imm))) (hi : s.issues = true)
    (he : s.eccAt 0 s.core.pc.toNat = false) (hin : physTrap (s.dataAddr a imm) size = none) (hw : s.memWaits (s.dataAddr a imm) = false)
    (hgood : s.loadBad (s.dataAddr a imm) size = false) :
    ∃ t, exec c s = .next t ∧ (d ≠ 0 → (t.wreg d).toNat = s.coreRead (s.dataAddr a imm) size % 2 ^ 64) ∧ (∀ r, r ≠ d → t.wreg r = s.wreg r) ∧
      t.mem = s.mem ∧ t.core.flags = s.core.flags ∧ t.core.pc = s.core.pc + 4 := by
  obtain ⟨c, f, n, hload⟩ := State.loadNow_good (d := d) hgood
  have hop := (State.opLoad_runs hin hw).trans hload
  refine ⟨_, hexec.trans (State.done_issue_same hi he hop (by simp [State.retire, State.accessCycles_eq])), ?_⟩
  simp only [State.wreg_cycles, State.wreg_retire]
  refine ⟨fun hd => ?_, fun r hr => if_neg fun h => hr h.1, ?_⟩
  · rw [if_pos ⟨trivial, hd⟩, BitVec.toNat_ofNat]
  · simp [State.retire, State.accessCycles_eq]

/-! Stores to physical memory. -/

theorem State.opStore_full (h : physTrap (s.dataAddr a imm) size = none) (hfull : 8 ≤ s.core.stores.length) :
    s.opStore size d a imm = .done (s.setStall (.store (s.dataAddr a imm) size ((s.wreg d).toNat % 2 ^ (8 * size)))) 0 := by
  rw [State.opStore, ← State.dataAddr, h]; exact if_pos hfull

theorem State.opStore_room (h : physTrap (s.dataAddr a imm) size = none) (hroom : s.core.stores.length < 8) :
    s.opStore size d a imm = .done (s.putStore (s.dataAddr a imm) size ((s.wreg d).toNat % 2 ^ (8 * size))).advance 1 := by
  rw [State.opStore, ← State.dataAddr, h]; exact if_neg (by omega)

/-- A store to on-chip SRAM is visible at once (R51), and changes nothing but memory and which of its words are good. -/
theorem State.putStore_sram (h : inSram x 1 = true) (v : Nat) :
    ∃ p, s.putStore x size v = { s with mem := Memory.writeN s.mem x size v, poison := p } := by
  simp only [State.putStore, h, if_true]
  split <;> exact ⟨_, rfl⟩

/-- A store to on-chip SRAM leaves the low bytes of wd at its address, and the cores go on. -/
theorem exec_store_sram {c : Instr} (hexec : exec c s = s.done (s.issue (·.opStore size d a imm))) (hi : s.issues = true)
    (he : s.eccAt 0 s.core.pc.toNat = false) (hmem : Memory.wf s.mem = true) (hin : physTrap (s.dataAddr a imm) size = none)
    (hroom : s.core.stores.length < 8) (hsram : inSram (s.dataAddr a imm) 1 = true) :
    ∃ t, exec c s = .next t ∧ Memory.readN t.mem (s.dataAddr a imm) size = (s.wreg d).toNat % 2 ^ (8 * size) ∧
      (∀ y, y < s.dataAddr a imm ∨ s.dataAddr a imm + size ≤ y → t.byte y = s.byte y) ∧ t.core.regs = s.core.regs ∧
      t.core.flags = s.core.flags ∧ t.core.pc = s.core.pc + 4 := by
  obtain ⟨p, hput⟩ := State.putStore_sram (s := s) (size := size) hsram ((s.wreg d).toNat % 2 ^ (8 * size))
  have hop := State.opStore_room (d := d) hin hroom
  rw [hput] at hop
  refine ⟨_, hexec.trans (State.done_issue_same hi he hop (by simp)), ?_, fun y hy => ?_, by simp, by simp, by simp⟩
  · have hpow : 256 ^ size = 2 ^ (8 * size) := (pow_mul 2 8 size).symm
    rw [State.cycles_mem, State.advance_mem, Memory.readN_writeN hmem, hpow, Nat.mod_mod]
  · rw [State.byte, State.cycles_mem, State.advance_mem]
    exact Memory.read_writeN_ne s.mem hy

/-- Settles O18: the traps of physTrap. -/
theorem physicalAddressTraps : Obligations.PhysicalAddressTraps := by
  unfold Obligations.PhysicalAddressTraps
  intro s d a imm hi he x trap
  have loads {c : Instr} {size cause : Nat} (hexec : exec c s = s.done (s.issue (·.opLoad size d a imm)))
      (h : physTrap x size = some (cause, x)) : exec c s = trap cause := hexec.trans (State.done_trap hi he (State.opLoad_of_physTrap h))
  have stores {c : Instr} {size cause : Nat} (hexec : exec c s = s.done (s.issue (·.opStore size d a imm)))
      (h : physTrap x size = some (cause, x)) : exec c s = trap cause := hexec.trans (State.done_trap hi he (State.opStore_of_physTrap h))
  refine ⟨fun h => ?_, fun h ha => ?_, fun h ha => ?_⟩
  · exact ⟨loads rfl (physTrap_outside h), loads rfl (physTrap_outside h), stores rfl (physTrap_outside h), stores rfl (physTrap_outside h)⟩
  · exact ⟨loads rfl (physTrap_misaligned h ha), stores rfl (physTrap_misaligned h ha)⟩
  · exact ⟨loads rfl (physTrap_misaligned h ha), stores rfl (physTrap_misaligned h ha)⟩

/-- Settles O17: loads by whether the requests are held, and stores by the room among the outstanding ones and by their memory. -/
theorem physicalLoadStore : Obligations.PhysicalLoadStore := by
  unfold Obligations.PhysicalLoadStore
  intro s d a imm hi he hmem x hin
  have held {c : Instr} {size : Nat} (hexec : exec c s = s.done (s.issue (·.opLoad size d a imm))) (hw : s.memWaits x = true) (ha : x % size = 0) :
      exec c s = .next ((s.setStall (.load d x size)).cycles 0) :=
    hexec.trans (State.done_issue_same hi he (State.opLoad_held (physTrap_inside hin ha) hw) rfl)
  have whole : (s.wreg d).toNat % 2 ^ (8 * 8) = (s.wreg d).toNat := Nat.mod_eq_of_lt (s.wreg d).isLt
  have dram {c : Instr} {size : Nat} (hexec : exec c s = s.done (s.issue (·.opStore size d a imm))) (hroom : s.core.stores.length < 8)
      (ha : x % size = 0) : exec c s =
        .next { ((s.putStore x size ((s.wreg d).toNat % 2 ^ (8 * size))).advance).cycles 1 with pending := s.pending } :=
    hexec.trans (State.done_issue hi he (State.opStore_room (physTrap_inside hin ha) hroom))
  have full {c : Instr} {size : Nat} (hexec : exec c s = s.done (s.issue (·.opStore size d a imm))) (hfull : 8 ≤ s.core.stores.length)
      (ha : x % size = 0) : exec c s = .next ((s.setStall (.store x size ((s.wreg d).toNat % 2 ^ (8 * size)))).cycles 0) :=
    hexec.trans (State.done_issue_same hi he (State.opStore_full (physTrap_inside hin ha) hfull) rfl)
  refine ⟨fun hw => ⟨held rfl hw, held rfl hw⟩, fun ha => exec_load_good rfl hi he (physTrap_inside hin ha),
    fun ha => exec_load_good rfl hi he (physTrap_inside hin ha), fun hroom hsram => ⟨fun ha => ?_, fun ha => ?_⟩,
    fun hroom _ => ⟨fun ha => ?_, dram rfl hroom⟩, fun hfull => ⟨fun ha => ?_, full rfl hfull⟩⟩
  · have store := exec_store_sram (d := d) (c := .st d a imm) rfl hi he hmem.mem (physTrap_inside hin ha) hroom hsram
    rwa [whole] at store
  · exact exec_store_sram rfl hi he hmem.mem (physTrap_inside hin ha) hroom hsram
  · exact (dram rfl hroom ha).trans (by rw [whole])
  · exact (full rfl hfull ha).trans (by rw [whole])

end Sys2Proof.Machine
end

section
/-! SUPPORT. Branches and jumps (R42, R50, Table SEQ-4): their conditions over integers, and where control goes. -/

namespace Sys2Proof.Machine

open Csr

variable {s : State} {a b : Fin 16} {z : Int} {n : Nat}

/-- A target that control may go to: a multiple of 4 inside program SRAM. -/
def InProgram (z : Int) : Prop := 0 ≤ z ∧ z < 0x40000 ∧ z % 4 = 0

theorem State.goTo_inside (h : InProgram z) (n : Nat) : s.goTo z n = .done (s.retireTo (BitVec.ofInt 18 z)) n := by
  obtain ⟨hlo, hhi, halign⟩ := h
  obtain ⟨k, rfl⟩ := Int.eq_ofNat_of_zero_le hlo
  rw [State.goTo, if_neg (by omega), BitVec.ofInt_natCast, Int.toNat_natCast]

theorem State.goTo_outside (h : z < 0 ∨ 0x40000 ≤ z ∨ z % 4 ≠ 0) (n : Nat) : s.goTo z n = .trap 7 0 (ofSigned 64 z) := if_pos h

/-- A taken branch or a jump to a target inside program SRAM. -/
theorem State.done_goTo {u : State} {f : State → IssueOut} (hi : s.issues = true) (he : s.eccAt 0 s.core.pc.toNat = false)
    (hf : f s = u.goTo z n) (hp : u.pending = s.pending) (h : InProgram z) :
    s.done (s.issue f) = .next ((u.retireTo (BitVec.ofInt 18 z)).cycles n) :=
  State.done_issue_same hi he (hf.trans (State.goTo_inside h n)) (by simp [hp])

/-- A taken branch or a jump to another target raises TARGET, and nothing of it happens. -/
theorem State.done_goTo_trap {u : State} {f : State → IssueOut} (hi : s.issues = true) (he : s.eccAt 0 s.core.pc.toNat = false)
    (hf : f s = u.goTo z n) (h : z < 0 ∨ 0x40000 ≤ z ∨ z % 4 ≠ 0) :
    s.done (s.issue f) = .next { (s.trapRaise 7 0 (ofSigned 64 z)).cycles 6 with pending := s.pending } :=
  State.done_trap hi he (hf.trans (State.goTo_outside h n))

/-! Branches. -/

section
variable (x y : DWord)

theorem branchTaken_beq : branchTaken 0 x y = true ↔ x.toNat = y.toNat := by simp [branchTaken, BitVec.toNat_inj]

theorem branchTaken_bne : branchTaken 1 x y = true ↔ x.toNat ≠ y.toNat := by simp [branchTaken, BitVec.toNat_inj]

theorem branchTaken_blt : branchTaken 2 x y = true ↔ x.toInt < y.toInt := by simp [branchTaken, BitVec.slt_eq_decide]

theorem branchTaken_bge : branchTaken 3 x y = true ↔ y.toInt ≤ x.toInt := by simp [branchTaken, BitVec.slt_eq_decide]

theorem branchTaken_bltu : branchTaken 4 x y = true ↔ x.toNat < y.toNat := by simp [branchTaken, BitVec.ult_eq_decide]

theorem branchTaken_bgeu : branchTaken 5 x y = true ↔ y.toNat ≤ x.toNat := by simp [branchTaken, BitVec.ult_eq_decide]

end

theorem State.opBranch_taken {k : Nat} {off : BitVec 18} (h : branchTaken k (s.wreg a) (s.wreg b) = true) :
    s.opBranch k a b off = s.goTo ((s.core.pc.toNat : Int) + 4 * off.toInt) 2 := if_pos h

theorem State.opBranch_missed {k : Nat} {off : BitVec 18} (h : ¬branchTaken k (s.wreg a) (s.wreg b) = true) :
    s.opBranch k a b off = .done s.advance 1 := if_neg h

/-- A branch goes on where its condition fails, and else to its target. -/
theorem exec_branch {c : Instr} {k : Nat} {off : BitVec 18} {taken : Prop} (hexec : exec c s = s.done (s.issue (·.opBranch k a b off)))
    (hi : s.issues = true) (he : s.eccAt 0 s.core.pc.toNat = false) (ht : branchTaken k (s.wreg a) (s.wreg b) = true ↔ taken) :
    (¬taken → exec c s = .next (s.advance.cycles 1)) ∧
    (taken → InProgram ((s.core.pc.toNat : Int) + 4 * off.toInt) →
      exec c s = .next ((s.retireTo (BitVec.ofInt 18 ((s.core.pc.toNat : Int) + 4 * off.toInt))).cycles 2)) := by
  refine ⟨fun h => ?_, fun h hin => ?_⟩ <;> rw [hexec]
  · exact State.done_issue_same hi he (State.opBranch_missed (mt ht.1 h)) (by simp)
  · exact State.done_goTo hi he (State.opBranch_taken (ht.2 h)) rfl hin

/-- Settles O19: each branch by its condition over integers; each jump by its target. -/
theorem branchesAndJumps : Obligations.BranchesAndJumps := by
  unfold Obligations.BranchesAndJumps
  intro s a b off o hi he x y pc inside goes arm
  have branch {c : Instr} {k : Nat} {taken : Prop} (hexec : exec c s = s.done (s.issue (·.opBranch k a b off)))
      (ht : branchTaken k x y = true ↔ taken) : arm taken c := exec_branch hexec hi he ht
  refine ⟨branch rfl (branchTaken_beq x y), branch rfl (branchTaken_bne x y), branch rfl (branchTaken_blt x y), branch rfl (branchTaken_bge x y),
    branch rfl (branchTaken_bltu x y), branch rfl (branchTaken_bgeu x y), fun h => ⟨?_, ?_⟩, fun hlt halign => ?_⟩
  · exact State.done_goTo hi he rfl rfl h
  · exact State.done_goTo (u := s.setW 15 (BitVec.ofNat 64 (s.core.pc.toNat + 4))) hi he rfl (by simp) h
  · exact State.done_goTo hi he rfl rfl ⟨by omega, by omega, by omega⟩

/-- Settles O20: each comes to goTo, whose target is outside. -/
theorem jumpTargetTrap : Obligations.JumpTargetTrap := by
  unfold Obligations.JumpTargetTrap
  intro s a off o hi he pc outside trap
  have target {z : Int} (h : outside z) : z < 0 ∨ 0x40000 ≤ z ∨ z % 4 ≠ 0 := h.imp_right .inl
  refine ⟨fun h => ?_, fun h => ⟨?_, ?_⟩, fun h => ?_⟩
  · exact State.done_goTo_trap hi he (State.opBranch_taken ((branchTaken_beq _ _).2 rfl)) (target h)
  · exact State.done_goTo_trap hi he rfl (target h)
  · exact State.done_goTo_trap (u := s.setW 15 (BitVec.ofNat 64 (s.core.pc.toNat + 4))) hi he rfl (target h)
  · exact State.done_goTo_trap hi he rfl (.inr (by omega))

end Sys2Proof.Machine
end

section
/-! SUPPORT. Traps (R41, R50, R490, Tables SEQ-3, SEQ-6, SEQ-7): what taking one saves, the trap inside a handler, the return, and what is
ILLEGAL. -/

namespace Sys2Proof.Machine

open Csr

variable {s : State} {cause code tval : Nat}

/-! Pairs of registers. -/

theorem State.csrRaw_setPair_ne {lo y : Nat} (v : Nat) (hlo : y ≠ lo) (hhi : y ≠ lo + 4) : (s.setPair lo v).csrRaw y = s.csrRaw y := by
  rw [State.setPair, State.csrRaw_setCsr_ne _ hhi, State.csrRaw_setCsr_ne _ hlo]

theorem State.setPair_sorted (hs : spSorted s.csr = true) (lo v : Nat) : spSorted (s.setPair lo v).csr = true :=
  State.setCsr_sorted (s := s.setCsr lo _) (State.setCsr_sorted hs _ _) _ _

/-- A pair of the map reads as written, held to 64 bits. -/
theorem State.pair_setPair_self (hs : spSorted s.csr = true) {lo : Nat} (hlo : (regAt lo).isSome = true)
    (hhi : (regAt (lo + 4)).isSome = true) (v : Nat) : (s.setPair lo v).pair lo = v % 2 ^ 64 := by
  have hl : (s.setPair lo v).csrRaw lo = BitVec.ofNat 32 v := by
    rw [State.setPair, State.csrRaw_setCsr_ne _ (by omega), State.csrRaw_setCsr_self hs hlo]
  have hh : (s.setPair lo v).csrRaw (lo + 4) = BitVec.ofNat 32 (v / 2 ^ 32) := State.csrRaw_setCsr_self (State.setCsr_sorted hs _ _) hhi _
  rw [State.pair, hl, hh, BitVec.toNat_ofNat, BitVec.toNat_ofNat]
  omega

/-! A trap outside a handler. -/

section
variable (h : s.b SEQ_TSTAT 31 = false)
include h

/-- Of the registers it writes five. -/
theorem State.csrRaw_trapRaise_ne {y : Nat} (hy : y ∉ [SEQ_EPC, SEQ_CAUSE, SEQ_TVAL_LO, SEQ_TVAL_HI, SEQ_TSTAT]) :
    (s.trapRaise cause code tval).csrRaw y = s.csrRaw y := by
  simp only [List.mem_cons, List.not_mem_nil, or_false, not_or] at hy
  obtain ⟨hepc, hcause, hlo, hhi, hstat⟩ := hy
  rw [State.trapRaise_outside h, State.csrRaw_setPc, State.csrRaw_setB_ne _ hstat, State.csrRaw_setPair_ne _ hlo hhi, State.csrRaw_setCsr_ne _ hcause,
    State.csrRaw_setCsr_ne _ hepc, State.csrRaw_setStall]

/-- Of the cores it ends the stall and moves PC to the vector. -/
theorem State.trapRaise_core :
    (s.trapRaise cause code tval).core = { s.core with stall := .none, pc := BitVec.ofNat 18 (s.f SEQ_TVEC 17 2 * 4) } := by
  rw [State.trapRaise_outside h, State.setPc]
  simp [State.setStall]

theorem State.trapRaise_mem : (s.trapRaise cause code tval).mem = s.mem := by rw [State.trapRaise_outside h]; simp

theorem State.trapRaise_mode : (s.trapRaise cause code tval).mode = s.mode := by rw [State.trapRaise_outside h]; simp

variable (hs : spSorted s.csr = true)
include hs

theorem State.trapRaise_epc : (s.trapRaise cause code tval).csrRaw SEQ_EPC = BitVec.ofNat 32 (s.core.pc.toNat / 4 * 4) := by
  rw [State.trapRaise_outside h, State.csrRaw_setPc, State.csrRaw_setB_ne _ (by decide), State.csrRaw_setPair_ne _ (by decide) (by decide),
    State.csrRaw_setCsr_ne _ (by decide)]
  exact State.csrRaw_setCsr_self (s := s.setStall .none) hs (by decide) _

theorem State.trapRaise_cause : (s.trapRaise cause code tval).csrRaw SEQ_CAUSE = BitVec.ofNat 32 (code % 65536 * 65536 + cause % 256) := by
  rw [State.trapRaise_outside h, State.csrRaw_setPc, State.csrRaw_setB_ne _ (by decide), State.csrRaw_setPair_ne _ (by decide) (by decide)]
  exact State.csrRaw_setCsr_self (State.setCsr_sorted (s := s.setStall .none) hs _ _) (by decide) _

theorem State.trapRaise_tval : (s.trapRaise cause code tval).pair SEQ_TVAL_LO = tval % 2 ^ 64 := by
  rw [State.trapRaise_outside h, State.pair, State.csrRaw_setPc, State.csrRaw_setPc, State.csrRaw_setB_ne _ (by decide),
    State.csrRaw_setB_ne _ (by decide)]
  refine (State.pair_setPair_self ?_ (lo := SEQ_TVAL_LO) (by decide) (by decide) (tval % 2 ^ 64)).trans (Nat.mod_mod ..)
  exact State.setCsr_sorted (State.setCsr_sorted (s := s.setStall .none) hs _ _) _ _

theorem State.trapRaise_intrap : (s.trapRaise cause code tval).b SEQ_TSTAT 31 = true := by
  rw [State.trapRaise_outside h]
  refine (State.b_setB_self (State.setPair_sorted ?_ _ _) (by decide) 31 31 true (by decide)).trans (if_pos rfl)
  exact State.setCsr_sorted (State.setCsr_sorted (s := s.setStall .none) hs _ _) _ _

end

theorem opTrap_small {code : BitVec 26} (h : code.toNat < 65536) : opTrap code = .trap 6 code.toNat code.toNat := if_neg (by omega)

/-- Settles O21: what taking the trap writes stands after its cycles, outside the STR window. -/
theorem trapEntrySaves : Obligations.TrapEntrySaves := by
  unfold Obligations.TrapEntrySaves
  intro s code hi he hs hout hcode
  refine ⟨_, State.done_trap hi he (opTrap_small hcode), ?_⟩
  have hraw {y : Nat} (hy : y / 0x10000 ≠ 7) :
      ((s.trapRaise 6 code.toNat code.toNat).cycles 6).csrRaw y = (s.trapRaise 6 code.toNat code.toNat).csrRaw y := State.csrRaw_elapse _ hy
  have hcore := ((s.trapRaise 6 code.toNat code.toNat).cycles_core 6).trans (State.trapRaise_core hout)
  refine ⟨?_, ?_, ?_, ?_, congrArg CoreSt.pc hcore, (congrArg CoreSt.regs hcore).trans rfl, (congrArg CoreSt.flags hcore).trans rfl,
    (congrArg CoreSt.dmem hcore).trans rfl, fun y => ?_, ?_, fun y hy hwin => (hraw hwin).trans (State.csrRaw_trapRaise_ne hout hy)⟩
  · refine (congrArg BitVec.toNat ((hraw (by decide)).trans (State.trapRaise_epc hout hs))).trans ?_
    have hpc := s.core.pc.isLt
    rw [BitVec.toNat_ofNat]
    omega
  · refine (congrArg BitVec.toNat ((hraw (by decide)).trans (State.trapRaise_cause hout hs))).trans ?_
    rw [BitVec.toNat_ofNat]
    omega
  · have hpair : ((s.trapRaise 6 code.toNat code.toNat).cycles 6).pair SEQ_TVAL_LO = (s.trapRaise 6 code.toNat code.toNat).pair SEQ_TVAL_LO :=
      State.pair_elapse _ (by decide) (by decide)
    refine hpair.trans ((State.trapRaise_tval hout hs).trans (Nat.mod_eq_of_lt (by omega)))
  · exact (State.b_elapse _ (by decide) 31).trans (State.trapRaise_intrap hout hs)
  · exact congrArg (Memory.read · y) ((State.cycles_mem _ _).trans (State.trapRaise_mem hout))
  · exact (State.cycles_mode _ _).trans (State.trapRaise_mode hout)

/-! A trap inside a handler. -/

/-- A live state is one that a fault leading to HOLD leaves. -/
theorem Mode.holds_of_live {m : Mode} (h : m.live = true) : m.holds = true := by cases m <;> simp_all [Mode.live, Mode.holds]

/-- In HOLD the cores do not issue. -/
theorem State.issues_hold (h : s.mode = .hold) : s.issues = false := by simp [State.issues, State.coreRuns, h, Mode.live]

/-- Settles O22: the trap enters HOLD, whose first move sets the module state and the gate. -/
theorem trapInHandlerHolds : Obligations.TrapInHandlerHolds := by
  unfold Obligations.TrapInHandlerHolds
  intro s code hi he hlive hin hcode
  have hholds : ((s.setStall .none).setB SEQ_TSTAT 30 true).mode.holds = true := by simpa using Mode.holds_of_live hlive
  obtain ⟨hmode, hgate, -⟩ := State.enterHold_calm hholds 2
  have hexec := State.done_trap (f := fun _ => opTrap code) hi he (opTrap_small hcode)
  rw [State.trapRaise_inside hin] at hexec
  have hmode' := (State.cycles_mode _ 6).trans hmode
  have hgate' := (State.cycles_gate _ 6).trans hgate
  exact ⟨_, hexec, rfl, hmode', congrArg GateSt.start hgate', congrArg GateSt.fin hgate', State.issues_hold hmode'⟩

/-! eret. -/

theorem State.opEret_inside {d a b : Fin 16} (h : s.b SEQ_TSTAT 31 = true) : s.opEret d a b = .done s.trapReturn 3 := if_pos h

theorem State.opEret_outside {d a b : Fin 16} (h : s.b SEQ_TSTAT 31 = false) : s.opEret d a b = .trap 1 0 (wordA 0x39 d a b 0) := if_neg (by simp [h])

/-- The return clears INTRAP and no other bit. -/
theorem State.b_trapReturn (hs : spSorted s.csr = true) (i : Nat) : s.trapReturn.b SEQ_TSTAT i = if i = 31 then false else s.b SEQ_TSTAT i :=
  State.b_setB_self hs (by decide) 31 i false (by decide)

theorem State.csrRaw_trapReturn_ne {y : Nat} (h : y ≠ SEQ_TSTAT) : s.trapReturn.csrRaw y = s.csrRaw y := State.csrRaw_setB_ne false h

theorem State.trapReturn_core : s.trapReturn.core = { s.core with pc := BitVec.ofNat 18 (s.f SEQ_EPC 17 2 * 4) } := by
  have hcore : (s.setB SEQ_TSTAT 31 false).core = s.core := by simp
  rw [State.trapReturn, ← hcore]
  rfl

/-- Settles O23: the return and its cycles in a handler, ILLEGAL outside one. -/
theorem eretReturns : Obligations.EretReturns := by
  unfold Obligations.EretReturns
  intro s d a b hi he hs
  refine ⟨fun hin => ⟨_, State.done_issue_same hi he (State.opEret_inside hin) (by simp [State.trapReturn]), ?_⟩,
    fun hout => State.done_trap hi he (State.opEret_outside hout)⟩
  have hcore := (s.trapReturn.cycles_core 3).trans State.trapReturn_core
  have hstat (i : Nat) : (s.trapReturn.cycles 3).b SEQ_TSTAT i = if i = 31 then false else s.b SEQ_TSTAT i :=
    (State.b_elapse _ (by decide) i).trans (State.b_trapReturn hs i)
  refine ⟨congrArg CoreSt.pc hcore, (hstat 31).trans (if_pos rfl), fun i hi => (hstat i).trans (if_neg hi), fun y hy hwin => ?_,
    (congrArg CoreSt.regs hcore).trans rfl, (congrArg CoreSt.flags hcore).trans rfl, (congrArg CoreSt.dmem hcore).trans rfl, ?_⟩
  · exact (State.csrRaw_elapse _ hwin).trans (State.csrRaw_trapReturn_ne hy)
  · simp [State.trapReturn]

/-! ILLEGAL. -/

section
variable {d a b : Fin 16} {imm : BitVec 18} {k : BitVec 6}

theorem State.opShi_illegal (h : 64 ≤ imm.toNat) (fn : Nat) : s.opShi fn d a imm = .trap 1 0 (wordI fn d a imm) := if_pos h

theorem State.opMfs_illegal (h : 4 < imm.toNat) : s.opMfs d a imm = .trap 1 0 (wordI 0x14 d a imm) := by
  obtain ⟨n, hn⟩ : ∃ n, imm.toNat = n + 5 := ⟨imm.toNat - 5, by omega⟩
  simp only [State.opMfs, hn]
  rfl

theorem State.opMts_illegal (h : imm.toNat ≠ 2) : s.opMts d a imm = .trap 1 0 (wordI 0x15 d a imm) := if_neg h

theorem State.opAt_illegal (h : 16 ≤ k.toNat) : s.opAt d a b k = .trap 1 0 (wordA 0x26 d a b k.toNat) := if_pos h

/-- A queue number above 127 is ILLEGAL before any other trap of a queue instruction. -/
theorem queueTrap_illegal {n : Nat} (h : 128 ≤ n) (word x : Nat) (ok : Nat → Bool) : queueTrap word x n ok = some (1, word) := if_pos h

theorem State.postTrap_illegal {n : Nat} (h : 128 ≤ n) (word x : Nat) (ok : Nat → Bool) : s.postTrap word x n ok = some (1, word) := by
  rw [State.postTrap, queueTrap_illegal h]; rfl

theorem State.opTake_illegal (h : 128 ≤ imm.toNat) : s.opTake d a imm = .trap 1 0 (wordI 0x2E d a imm) := by
  simp only [State.opTake, queueTrap_illegal h]

theorem opTrap_illegal {code : BitVec 26} (h : 65536 ≤ code.toNat) : opTrap code = .trap 1 0 (0x38 * 2 ^ 26 + code.toNat) := if_pos h

end

/-- Settles O24: the ILLEGAL of each operand, as the outcome of its instruction. -/
theorem illegalInstructions : Obligations.IllegalInstructions := by
  unfold Obligations.IllegalInstructions
  intro s w d a b imm k code hi he ill
  have traps {c : Instr} {f : State → IssueOut} {n : Nat} (hexec : exec c s = s.done (s.issue f)) (hf : f s = .trap 1 0 n) : exec c s = ill n :=
    hexec.trans (State.done_trap hi he hf)
  refine ⟨fun h => traps rfl (if_neg (by simp [h])), fun h => ?_, fun h => traps rfl (State.opMfs_illegal h),
    fun h => traps rfl (State.opMts_illegal h), fun h => traps rfl (State.opAt_illegal h), fun h => ?_, fun h => traps rfl (opTrap_illegal h)⟩
  · exact ⟨traps rfl (State.opShi_illegal h 5), traps rfl (State.opShi_illegal h 6), traps rfl (State.opShi_illegal h 7)⟩
  · exact ⟨traps rfl (State.opPost_of_postTrap (State.postTrap_illegal h ..)), traps rfl (State.opPostr_of_postTrap (State.postTrap_illegal h ..)),
      traps rfl (State.opTake_illegal h), traps rfl (State.opVjob_of_postTrap (State.postTrap_illegal h ..))⟩

end Sys2Proof.Machine
end

section
/-! SUPPORT. Timed actions, launch instructions and ckpt (R45, R46, R51, R65, R73, Tables SEQ-5, SEQ-6). -/

namespace Sys2Proof.Machine

open Csr

variable {s : State} {d a b : Fin 16} {k : BitVec 6}

/-! at: cancelled, refused or set, after the posted writes to the TIME island. -/

theorem State.opAt_cancels (hk : k.toNat < 16) : s.opAt d 0 b k = .done (((s.csrFlushTo 10).tactDrop k.toNat).retireStatus d 0) 2 := by
  rw [State.opAt, if_neg (by omega)]; exact if_pos rfl

theorem State.opAt_refuses (hk : k.toNat < 16) (ha : a ≠ 0) (hsoon : stampDelta s.tnow (s.wreg a).toNat < 100000) :
    s.opAt d a b k = .done (((s.csrFlushTo 10).sticky 4).retireStatus d 2) 2 := by
  rw [State.opAt, if_neg (by omega)]; exact (if_neg ha).trans (if_pos hsoon)

/-- Action `k` as `at` sets it. -/
def State.setTact (s : State) (k stamp : Nat) (value : Word) : State :=
  { s with core := { s.core with tacts := s.core.tacts.filter (fun y => y.k != k) ++ [{ k := k, stamp := stamp, value := value }] } }

theorem State.opAt_sets (hk : k.toNat < 16) (ha : a ≠ 0) (hahead : 100000 ≤ stampDelta s.tnow (s.wreg a).toNat) :
    s.opAt d a b k =
      .done (((s.csrFlushTo 10).setTact k.toNat (s.wreg a).toNat (BitVec.ofNat 32 (s.wreg b).toNat)).retireStatus d 0) 2 := by
  rw [State.opAt, if_neg (by omega)]; exact (if_neg ha).trans (if_neg (by omega))

/-! ckpt, by the moult in progress (Table SEC-9). -/

theorem State.opCkpt_plain (h : s.sec.moult = none) : s.opCkpt = .done s.takeCkpt.coreBack 20 := by simp only [State.opCkpt, h]

theorem State.opCkpt_loaded {m l : Nat} (h : s.sec.moult = some (.loaded m l)) : s.opCkpt = .done (s.handover m) 20 := by simp only [State.opCkpt, h]

theorem State.opCkpt_handed {m : Nat} (h : s.sec.moult = some (.handed m)) : s.opCkpt = .done s.takeCkpt.coreBack.moultEnd 20 := by
  simp only [State.opCkpt, h]

/-! A timed action that falls due. -/

/-- The write of a due action: to the CSR at the address that SEQ.TACT names, or ERR where it names no window (R45). -/
def State.tactWrite (s : State) (k x : Nat) (value : Word) : State :=
  if x < csrEnd then s.writeCsr 0 true x value else s.setB SEQ_TACTSTAT (16 + k) true

/-- The time of the ticks that timed actions follow. -/
def State.tactTime (s : State) : Nat := s.time / (if s.b CLK_STAT 30 then tick else 8 * tick) * (if s.b CLK_STAT 30 then tick else 8 * tick)

theorem State.timedAction_due {j : Fin 16} {y : TimedAct} (hy : s.core.tacts.find? (fun z => z.k == j.val) = some y)
    (hdue : stampReached s.tactTime y.stamp = true) :
    s.timedAction j.val = (s.tactDrop j.val).tactWrite j.val (s.f (SEQ_TACT j.val) 20 0) y.value := by
  have hj : j.val % 16 = j.val := Nat.mod_eq_of_lt j.isLt
  rw [State.tactTime] at hdue
  simp only [State.timedAction, hy, hdue, hj, Bool.not_true, Bool.false_eq_true, if_false]
  by_cases h : s.f (SEQ_TACT j.val) 20 0 < csrEnd
  · rw [if_neg (by omega)]; exact (if_pos h).symm
  · rw [if_pos (by omega)]; exact (if_neg h).symm

/-- Settles O29: at by its stamp, the launch instructions by the launch unit, ckpt by the moult, and a due action by the register it names. -/
theorem timedActionsAndLaunches : Obligations.TimedActionsAndLaunches := by
  unfold Obligations.TimedActionsAndLaunches
  intro s d a b k dt j give
  constructor
  · intro hi he
    have done {c : Instr} {f : State → IssueOut} {t : State} {n : Nat} (hexec : exec c s = s.done (s.issue f)) (hf : f s = .done t n) :
        exec c s = give t n := hexec.trans (State.done_issue hi he hf)
    refine ⟨?_, fun r hr => ?_, fun r hr => ?_, done rfl rfl, fun h => ?_, fun m l h => ?_, fun m h => ?_⟩
    · intro hk u
      refine ⟨fun ha => ?_, fun ha hsoon => ?_, fun ha hahead => ?_⟩
      · subst ha; exact done rfl (State.opAt_cancels hk)
      · exact done rfl (State.opAt_refuses hk ha hsoon)
      · exact done rfl (State.opAt_sets hk ha hahead)
    · subst hr; exact done rfl rfl
    · subst hr; exact done rfl rfl
    · exact done rfl (State.opCkpt_plain h)
    · exact done rfl (State.opCkpt_loaded h)
    · exact done rfl (State.opCkpt_handed h)
  · intro y hawake hy hdue
    have hreg : SEQ_TACT j.val / 0x10000 ≠ 7 := by simp only [SEQ_TACT]; omega
    have haction : (s.elapse dt).timedAction j.val = ((s.elapse dt).tactDrop j.val).tactWrite j.val (s.f (SEQ_TACT j.val) 20 0) y.value := by
      rw [← State.f_elapse dt hreg]
      refine State.timedAction_due (by simpa using hy) ?_
      rw [State.tactTime, State.elapse_time, State.b_elapse dt (by decide)]
      exact hdue
    exact State.done_main hawake haction

end Sys2Proof.Machine
end

section
/-! SUPPORT. Host commands that the gate lets through (R58, R60 to R63, Table SEQ-11), the events of the gate, of presence windows, of security and
power, and the values of reset (R33, R39). -/

namespace Sys2Proof.Machine

open Csr

variable {s : State}

/-! Host commands. -/

/-- A code above 3 is not one that the gate serves itself (R60). -/
theorem State.gateServe_none {code : Nat} (h : 3 < code) (tag : Nat) : s.gateServe code tag = none := by
  obtain ⟨n, rfl⟩ : ∃ n, code = n + 4 := ⟨code - 4, by omega⟩
  rfl

/-- A host command that nothing is found against is handed to the program, which serves it by its rule. -/
theorem exec_hostCmd_served {c : Instr} {dt tag code : Nat} {args : List Nat} {serve : State → State} (hfree : s.pwr.held = false)
    (hm : s.mode ≠ .cocoon) (hb : s.gateBlocked = false) (hexec : exec c s = s.done (s.run dt (·.hostCmd code tag args serve))) (hcode : 3 < code)
    (hq : s.qEn 125 = true) (hj : s.cmdJudge code tag = 0) :
    exec c s = .next { serve ((s.elapse dt).cmdCount.gateHand { tag := tag, code := code, args := args }) with pending := s.pending } :=
  hexec.trans (State.done_run hfree (State.hostCmd_served serve hb hm hj hq (State.gateServe_none hcode tag)))

/-- A host command that the gate serves itself is answered in the same step. -/
theorem exec_hostCmd_gate {c : Instr} {dt tag code : Nat} {args : List Nat} {serve : State → State} {t : State} (hfree : s.pwr.held = false)
    (hm : s.mode ≠ .cocoon) (hb : s.gateBlocked = false) (hexec : exec c s = s.done (s.run dt (·.hostCmd code tag args serve)))
    (hg : (s.elapse dt).cmdCount.gateServe code tag = some t) (hj : s.cmdJudge code tag = 0) :
    exec c s = .next { t with pending := s.pending } :=
  hexec.trans (State.done_run hfree (State.hostCmd_gate serve hb hm hj hg))

/-- Settles O37: three commands are the gate's own, and every other is handed to the program. -/
theorem hostCommandsServed : Obligations.HostCommandsServed := by
  unfold Obligations.HostCommandsServed
  intro s dt tag hfree hm hb u served
  have gate {c : Instr} {code : Nat} {args : List Nat} {serve : State → State} {t : State}
      (hexec : exec c s = s.done (s.run dt (·.hostCmd code tag args serve))) (hg : u.gateServe code tag = some t) :
      s.cmdJudge code tag = 0 → exec c s = .next { t with pending := s.pending } := exec_hostCmd_gate hfree hm hb hexec hg
  have hand (c : Instr) {code : Nat} {args : List Nat} {serve : State → State}
      (hexec : exec c s = s.done (s.run dt (·.hostCmd code tag args serve))) (hcode : 3 < code) : served c code args serve :=
    exec_hostCmd_served hfree hm hb hexec hcode
  exact ⟨gate rfl rfl, gate rfl rfl, gate rfl rfl, fun n => hand (.loglevel dt tag n) rfl (by decide),
    fun n => hand (.cntsnap dt tag n) rfl (by decide), fun args => hand (.arm dt tag args) rfl (by decide), hand (.disarm dt tag) rfl (by decide),
    hand (.stop dt tag) rfl (by decide), fun n => hand (.selprof dt tag n) rfl (by decide), fun n m => hand (.saveprof dt tag n m) rfl (by decide),
    fun args => hand (.setcfg dt tag args) rfl (by decide), hand (.getcfg dt tag) rfl (by decide),
    fun n m => hand (.loadimg dt tag n m) rfl (by decide), fun n => hand (.moult dt tag n) rfl (by decide), hand (.abandon dt tag) rfl (by decide),
    fun n => hand (.setboot dt tag n) rfl (by decide), hand (.cocoon dt tag) rfl (by decide), fun n => hand (.csrread dt tag n) rfl (by decide),
    fun n m => hand (.csrwrite dt tag n m) rfl (by decide), fun n m k => hand (.hkcal dt tag n m k) rfl (by decide),
    fun n => hand (.hkselfcal dt tag n) rfl (by decide), fun args => hand (.fibrecal dt tag args) rfl (by decide),
    fun n => hand (.tdccal dt tag n) rfl (by decide), fun n => hand (.dramtrain dt tag n) rfl (by decide),
    fun n => hand (.dramrate dt tag n) rfl (by decide), fun n => hand (.rolereq dt tag n) rfl (by decide),
    fun n => hand (.rolerel dt tag n) rfl (by decide), fun args => hand (.lcset dt tag args) rfl (by decide),
    fun args => hand (.keyrepl dt tag args) rfl (by decide), fun args => hand (.dbgunlock dt tag args) rfl (by decide),
    fun args => hand (.fabkey dt tag args) rfl (by decide)⟩

/-! Events. -/

/-- Settles O40: each event acts by one of the shared forms, whose part of the module is awake. -/
theorem gateEventsComplete : Obligations.GateEventsComplete := by
  unfold Obligations.GateEventsComplete
  intro s
  refine ⟨fun h => ?_, fun h => ?_⟩
  · and_intros <;> intros <;> exact State.done_run h rfl
  · and_intros <;> intros <;> exact State.done_main h rfl

/-- Settles O51: each event acts by one of the shared forms, whose part of the module is awake; those of the supplies and the seal act always. -/
theorem securityAndPowerComplete : Obligations.SecurityAndPowerComplete := by
  unfold Obligations.SecurityAndPowerComplete
  intro s
  refine ⟨fun _ => rfl, fun _ => rfl, fun _ _ _ => rfl, fun _ _ => rfl, fun _ => rfl, fun _ => rfl, fun _ _ => rfl, fun h => ⟨fun _ _ => rfl, ?_⟩,
    fun who h => State.done_rd h rfl, fun h => ?_, fun h v => State.done_out h rfl⟩
  · and_intros <;> intros <;> exact State.done_run h rfl
  · and_intros <;> intros <;> exact State.done_main h rfl

/-- START is reached in an ARMED module. -/
theorem State.armStart_reached {k : Nat} (hk : s.gate.start = some k) (hm : s.mode = .armed) (h : stampReached s.time k = true) :
    s.armStart = { s with mode := .run } := by simp [State.armStart, hk, hm, h]

theorem State.armStart_waits {k : Nat} (hk : s.gate.start = some k) (h : s.mode ≠ .armed ∨ stampReached s.time k = false) : s.armStart = s := by
  rcases h with h | h <;> simp [State.armStart, hk, h]

/-- Settles O55: START is judged once the time has passed. -/
theorem armedRunStarts : Obligations.ArmedRunStarts := by
  unfold Obligations.ArmedRunStarts
  intro s dt k hawake hk
  have hk' : (s.elapse dt).gate.start = some k := by simpa using hk
  refine ⟨fun hm h => ?_, fun h => ?_⟩
  · have hpend : s.pending = (s.elapse dt).pending := by simp
    refine (State.done_main hawake (State.armStart_reached hk' (by simpa using hm) (by simpa using h))).trans ?_
    rw [hpend]
  · exact (State.done_main hawake (State.armStart_waits hk' (by simpa using h))).trans (State.done_elapse dt)

/-! Reset. -/

/-- Settles O8: the values of the reset state, evaluated. -/
theorem resetValues : Obligations.ResetValues := by
  unfold Obligations.ResetValues
  exact ⟨rfl, by decide, rfl, rfl, by decide, by decide, by decide, rfl, rfl, rfl, rfl⟩

end Sys2Proof.Machine
end

section
/-! SUPPORT. Light: the commands of launch, receiver, strain, streams and temperature frames, and the refusal of a launch for the PEAK of an entry (R79,
R80, Tables LCH-6, LCH-11). -/

namespace Sys2Proof.Machine

open Csr

variable {s : State} {d : Fin 16}

/-! The commands. -/

/-- Settles O41: each command acts by one of the shared forms, whose part of the module is awake. -/
theorem lightCommandsComplete : Obligations.LightCommandsComplete := by
  unfold Obligations.LightCommandsComplete
  intro s
  refine ⟨fun h => ?_, fun h => ?_, fun h => ⟨fun _ => ?_, fun _ => ?_⟩, fun h _ _ _ => State.done_lit h rfl, fun h hi => ?_, fun h hi => ?_⟩
  · and_intros <;> intros <;> exact State.done_main h rfl
  · and_intros <;> intros <;> exact State.done_wr h rfl
  · exact State.done_laserEdge h rfl
  · exact State.done_laserEdge h rfl
  · and_intros <;> intros <;> exact State.done_isl h hi rfl
  · and_intros <;> intros <;> exact State.done_isl h hi rfl

/-! The plan checks of a launch (R79, R80). -/

/-- A field holds what was last written to it. -/
theorem nfld_nset_self (n hi lo v : Nat) (h : lo ≤ hi + 1) : nfld (nset n hi lo v) hi lo = v % 2 ^ (hi + 1 - lo) := by
  refine Nat.eq_of_testBit_eq fun i => ?_
  rw [nfld, Nat.testBit_mod_two_pow, Nat.testBit_mod_two_pow, Nat.testBit_shiftRight, nset_testBit _ _ _ h]
  by_cases hi' : i < hi + 1 - lo
  · rw [if_pos (by omega), Nat.add_sub_cancel_left]
  · simp [hi']

theorem fld_setFld_self (w : Word) {hi lo : Nat} (v : Nat) (h : lo ≤ hi + 1) (hi32 : hi < 32) :
    fld (setFld w hi lo v) hi lo = v % 2 ^ (hi + 1 - lo) := by
  rw [← nfld_nset_self w.toNat hi lo v h]
  refine Nat.eq_of_testBit_eq fun i => ?_
  simp only [fld, setFld, nfld, BitVec.toNat_ofNat, Nat.testBit_mod_two_pow, Nat.testBit_shiftRight]
  by_cases hb : i < hi + 1 - lo
  · simp [hb, show lo + i < 32 by omega]
  · simp [hb]

/-- No row of Table LCH-11 admits a PEAK above 172. -/
theorem peakMax_le {n m top : Nat} (h : peakMax n m = some top) : top ≤ 172 := by
  unfold peakMax at h
  split at h <;> cases h <;> decide

theorem peakOk_reserved (sloten : Nat) (a c : Word) (h : 173 ≤ fld c 7 0) : peakOk sloten a c = false := by
  unfold peakOk
  split
  next top htop =>
    have := peakMax_le htop
    exact decide_eq_false (by omega)
  next => rfl

theorem firstBad_eq_none {l : List Nat} {ok : Nat → Bool} (h : ∀ k ∈ l, ok k = true) : firstBad l ok = none := by
  simpa [firstBad] using h

theorem exists_firstBad {l : List Nat} {ok : Nat → Bool} (h : ∃ k ∈ l, ok k = false) : ∃ k, firstBad l ok = some k :=
  Option.isSome_iff_exists.mp (by simpa [firstBad] using h)

/-- PEAK is checked after the plan's form and its codes, and before all else. -/
theorem State.checkStart_peak (per : Int) (hform : s.plan.formOk = true) (hcode : ∀ k ∈ s.plan.launched, codeOk (s.enta k) (s.entb k) = true)
    (hpeak : ∃ k ∈ s.plan.launched, 173 ≤ fld (s.entc k) 7 0) : ∃ k, s.checkStart per = some (2, k) := by
  obtain ⟨j, hj, hbad⟩ := hpeak
  obtain ⟨k, hk⟩ := exists_firstBad (ok := fun k => peakOk s.plan.sloten (s.enta k) (s.entc k)) ⟨j, hj, peakOk_reserved _ _ _ hbad⟩
  exact ⟨k, by simp only [State.checkStart, hform, firstBad_eq_none hcode, hk, Bool.not_true, Bool.false_eq_true, if_false]⟩

theorem State.checkLnch_peak {k : Nat} (t : Nat) (hcode : codeOk (s.enta k) (s.entb k) = true) (hpeak : 173 ≤ fld (s.entc k) 7 0) :
    s.checkLnch k t = some (2, k) := by
  simp only [State.checkLnch, hcode, peakOk_reserved _ _ _ hpeak, Bool.not_true, Bool.not_false, Bool.false_eq_true, if_false, if_true]

/-- frm.start in time while the sequencer is idle answers E_RANGE for a reserved PEAK. -/
theorem State.frmStart_peak {stamp per : Nat} (hsoon : s.soonEnough stamp = true) (hidle : s.running = false) {k : Nat}
    (h : s.checkStart per = some (2, k)) : s.frmStart stamp per = (2, false, s.refuse (2, k)) := by
  simp [State.frmStart, hsoon, hidle, h, whyStatus, cond]

theorem State.lnch_peak {stamp e : Nat} (hsoon : s.soonEnough stamp = true) (hidle : s.running = false) {k : Nat}
    (h : s.checkLnch e (stampTime s.tnow stamp) = some (2, k)) : s.lnch e stamp = (2, false, s.refuse (2, k)) := by
  simp [State.lnch, hsoon, hidle, h, whyStatus]

/-- Without posted writes there is nothing to flush. -/
theorem State.csrFlushTo_empty (h : s.core.csrOut = []) (island : Nat) : s.csrFlushTo island = s := by
  have hcore : { s.core with csrOut := [] } = s.core := by rw [← h]
  simp only [State.csrFlushTo, h, List.filter_nil, List.foldl_nil, hcore]

/-- A field of a register of the map reads as the hardware last set it. -/
theorem State.f_setF_self (hs : spSorted s.csr = true) {x hi lo : Nat} (hx : (regAt x).isSome = true) (v : Nat) (h : lo ≤ hi + 1) (hi32 : hi < 32) :
    (s.setF x hi lo v).f x hi lo = v % 2 ^ (hi + 1 - lo) := by
  rw [State.f, State.setF, State.csrRaw_setCsr_self hs hx, fld_setFld_self _ _ h hi32]

/-- The reason that a refusal leaves in LCH.STAT. -/
theorem State.f_refuse (hs : spSorted s.csr = true) (w : Why) : (s.refuse w).f LCH_STAT 15 12 = w.1 % 16 :=
  State.f_setF_self (State.setCsr_sorted hs _ _) (by decide) w.1 (by decide) (by decide)

@[simp] theorem State.refuse_lch (w : Why) : (s.refuse w).lch = s.lch := rfl

@[simp] theorem State.refuse_pending (w : Why) : (s.refuse w).pending = s.pending := rfl

/-! What an instruction that answers a status leaves. -/

@[simp] theorem State.retireStatus_csr (n : Nat) : (s.retireStatus d n).csr = s.csr := by simp [State.retireStatus, State.retire]

@[simp] theorem State.retireStatus_lch (n : Nat) : (s.retireStatus d n).lch = s.lch := by simp [State.retireStatus, State.retire]

@[simp] theorem State.retireStatus_pending (n : Nat) : (s.retireStatus d n).pending = s.pending := by simp [State.retireStatus, State.retire]

theorem State.wreg_retireStatus (hd : d ≠ 0) (n : Nat) : (s.retireStatus d n).wreg d = BitVec.ofNat 64 n := by
  rw [State.retireStatus, State.wreg_retire, if_pos ⟨rfl, hd⟩]

/-- A launch instruction that the launch unit refuses with ERRWHY 2: the status in wd, the reason in LCH.STAT, and nothing started. -/
theorem exec_launchRefused {c : Instr} {f : State → IssueOut} (hexec : exec c s = s.done (s.issue f)) (hi : s.issues = true)
    (he : s.eccAt 0 s.core.pc.toNat = false) (hs : spSorted s.csr = true) (hd : d ≠ 0) {k : Nat}
    (hf : f s = State.launchDone d (2, false, s.refuse (2, k))) :
    ∃ t, exec c s = .next t ∧ t.wreg d = 2 ∧ t.f LCH_STAT 15 12 = 2 ∧ t.lch = s.lch := by
  have hop : f s = .done ((s.refuse (2, k)).retireStatus d 2) 2 := hf
  refine ⟨_, hexec.trans (State.done_issue_same hi he hop (by simp)), ?_, ?_, by simp⟩
  · rw [State.wreg_cycles, State.wreg_retireStatus hd]; rfl
  · rw [State.cycles, State.f_elapse _ (by decide), State.f, State.csrRaw_congr (State.retireStatus_csr 2)]
    exact State.f_refuse hs (2, k)

/-- Settles O57: the codes are within their table, so the first check that fails is that of PEAK, which is made before anything starts. -/
theorem launchPeakRefused : Obligations.LaunchPeakRefused := by
  unfold Obligations.LaunchPeakRefused
  intro s d a b hi he hs hout hidle hd
  refine ⟨fun hsoon hform hcode hpeak => ?_, fun hsoon hcode hpeak => ?_⟩
  · obtain ⟨k, hk⟩ := State.checkStart_peak (s.wreg b).toNat hform hcode hpeak
    have hrefused := State.frmStart_peak hsoon hidle hk
    exact exec_launchRefused rfl hi he hs hd (by rw [State.opFrmStart, State.csrFlushTo_empty hout, hrefused])
  · have hrefused := State.lnch_peak hsoon hidle (State.checkLnch_peak _ hcode hpeak)
    exact exec_launchRefused rfl hi he hs hd (by rw [State.opLnch, State.csrFlushTo_empty hout, hrefused])

end Sys2Proof.Machine
end

section
/-! SUPPORT. The vector engine: its job events, the abort, and the instructions of the running kernel. -/

namespace Sys2Proof.Machine

/-- Settles O42: job events wait for VEC's clock, the abort is a CSR write, and each instruction is issued by the kernel at once. -/
theorem vectorCommandsComplete : Obligations.VectorCommandsComplete := by
  unfold Obligations.VectorCommandsComplete
  intro s
  refine ⟨fun h hi => ?_, fun h _ => State.done_wr h rfl, fun h => ?_⟩
  · and_intros <;> intros <;> exact State.done_isl h hi rfl
  · and_intros <;> intros <;> exact State.done_lit h rfl

end Sys2Proof.Machine
end

section
/-! SUPPORT. The front-end links: the writes that command FEL, and the events of the links, of suppression and of the hit blocks. -/

namespace Sys2Proof.Machine

/-- Settles O43: the commands are CSR writes; the events of the links wait for FEL's clock, those of suppression and of the hit blocks for EVT's. -/
theorem frontEndCommandsComplete : Obligations.FrontEndCommandsComplete := by
  unfold Obligations.FrontEndCommandsComplete
  intro s
  refine ⟨fun h => ?_, fun h hi => ?_, fun h hi => ?_⟩
  · and_intros <;> intros <;> exact State.done_wr h rfl
  · and_intros <;> intros <;> exact State.done_isl h hi rfl
  · and_intros <;> intros <;> exact State.done_isl h hi rfl

end Sys2Proof.Machine
end

section
/-! SUPPORT. The triggers: the arming and clearing writes, and the events of conditions, classes and segments, of the inputs and of the outputs. -/

namespace Sys2Proof.Machine

/-- Settles O44: arming and clearing are CSR writes; conditions, classes and segments wait for EVT's clock, the pins of the inputs and outputs do not. -/
theorem triggerCommandsComplete : Obligations.TriggerCommandsComplete := by
  unfold Obligations.TriggerCommandsComplete
  intro s
  refine ⟨fun h => ?_, fun h hi => ?_, fun h => ?_⟩
  · and_intros <;> intros <;> exact State.done_wr h rfl
  · and_intros <;> intros <;> exact State.done_isl h hi rfl
  · and_intros <;> intros <;> exact State.done_main h rfl

end Sys2Proof.Machine
end

section
/-! SUPPORT. Event building: fragment windows and hit heads, the candidates and the decider's answers, the builders with their credit, and the closing of
events. -/

namespace Sys2Proof.Machine

/-- Settles O45: windows, decider and builders, messages from other modules included, all act in EVT, so each waits for that island's clock and no other. -/
theorem eventBuilderCommandsComplete : Obligations.EventBuilderCommandsComplete := by
  unfold Obligations.EventBuilderCommandsComplete
  intro s h hi
  and_intros <;> intros <;> exact State.done_isl h hi rfl

end Sys2Proof.Machine
end

section
/-! SUPPORT. The time base: the exchanges and the reference inputs of fabric time, the asymmetry profiles, the TDC units, and the writes of TIM.NEXTSEC
and of a unit's configuration. -/

namespace Sys2Proof.Machine

/-- Settles O46: every event of the time base acts while the main islands are awake and waits for no other island; the two writes are CSR writes. -/
theorem timeCommandsComplete : Obligations.TimeCommandsComplete := by
  unfold Obligations.TimeCommandsComplete
  intro s
  refine ⟨fun h => ?_, fun h => ?_⟩
  · and_intros <;> intros <;> exact State.done_main h rfl
  · and_intros <;> intros <;> exact State.done_wr h rfl

end Sys2Proof.Machine
end

section
/-! SUPPORT. The fabric: the frames, messages and timers of its ports and of their Ethernet framing, the roles, and the write of a forwarding tap. -/

namespace Sys2Proof.Machine

/-- Settles O47: frames, messages and sends wait for FAB's clock; the lapse of a role and the end of a request's wait do not, and the write of FAB.FWD is a CSR write. -/
theorem fabricCommandsComplete : Obligations.FabricCommandsComplete := by
  unfold Obligations.FabricCommandsComplete
  intro s
  refine ⟨fun h hi => ?_, fun h _ _ => State.done_wr h rfl, fun h => ?_⟩
  · and_intros <;> intros <;> exact State.done_isl h hi rfl
  · and_intros <;> intros <;> exact State.done_main h rfl

end Sys2Proof.Machine
end

section
/-! SUPPORT. The housekeeping converter and the flasher: the writes that command them, the events of conversions and of flashes, and the blanking pin. -/

namespace Sys2Proof.Machine

/-- Settles O49: the commands are CSR writes; conversions and flashes act while the main islands are awake; the blanking pin needs only a module out of reset. -/
theorem converterAndFlasherComplete : Obligations.ConverterAndFlasherComplete := by
  unfold Obligations.ConverterAndFlasherComplete
  intro s
  refine ⟨fun h => ?_, fun h => ?_, fun h _ _ => State.done_run h rfl⟩
  · and_intros <;> intros <;> exact State.done_wr h rfl
  · and_intros <;> intros <;> exact State.done_main h rfl

end Sys2Proof.Machine
end

section
/-! SUPPORT. The step: what it does with the queue of waiting commands, and what it keeps over time whatever command is in front (R428, R432, R20, R35). -/

namespace Sys2Proof.Machine

variable {s t : State}

theorem step_cons (c : Instr) (rest : List Instr) (s : State) : step { s with pending := c :: rest } = exec c { s with pending := rest } := rfl

theorem step_nil (h : s.pending = []) : step s = .next s := by simp only [step, h]

/-- A step that goes on either idles or is the effect of the command in front. -/
theorem step_next (e : step s = .next t) : t = s ∨ ∃ c rest, s.pending = c :: rest ∧ exec c { s with pending := rest } = .next t := by
  unfold step at e
  split at e
  next => exact .inl (Host.Outcome.next.inj e).symm
  next c rest hp => exact .inr ⟨c, rest, hp, e⟩

/-- Taking a command from the queue touches nothing that a command keeps, and the command keeps the rest. -/
theorem step_keeps (e : step s = .next t) : Keeps s t := by
  rcases step_next e with rfl | ⟨c, rest, -, he⟩
  · exact Keeps.refl _
  · have hpop : Keeps s { s with pending := rest } := (Keeps.refl s).same rfl rfl rfl rfl rfl
    exact exec_keeps c hpop he

/-- What a command keeps holds a safe state safe. -/
theorem Keeps.safe (h : Keeps s t) (hs : s.Safe) : t.Safe := ⟨h.mem hs.mem, h.csr hs.csr, h.sec.cap hs.fuses⟩

/-- Settles O1: the command leaves the front of the queue and is executed. -/
theorem stepRunsFrontCommand : Obligations.StepRunsFrontCommand := by
  unfold Obligations.StepRunsFrontCommand
  exact step_cons

/-- Settles O2: the empty queue is the step's first case. -/
theorem emptyQueueIdles : Obligations.EmptyQueueIdles := by
  unfold Obligations.EmptyQueueIdles
  exact fun _ => step_nil

/-- Settles O4: memories, images and register file are empty at reset, and no fuse is blown. -/
theorem resetStateIsSafe : Obligations.ResetStateIsSafe := by
  unfold Obligations.ResetStateIsSafe
  exact { mem := ⟨Memory.nil_wf, Memory.nil_wf, Memory.nil_wf, SecSt.reset_wf⟩, csr := rfl, fuses := Nat.zero_le 16 }

/-- Settles O5: every command keeps what makes a state safe. -/
theorem stepsKeepSafe : Obligations.StepsKeepSafe := by
  unfold Obligations.StepsKeepSafe
  exact fun s t hs e => (step_keeps e).safe hs

/-- Settles O6: no command lowers the rollback counter. -/
theorem rollbackCounterOnlyRises : Obligations.RollbackCounterOnlyRises := by
  unfold Obligations.RollbackCounterOnlyRises
  exact fun s t e => (step_keeps e).sec.rbc

/-- Settles O7: no command leaves EXUVIA, enters EGG or lowers the count of entries into IMAGO. -/
theorem lifeCycleGoesOneWay : Obligations.LifeCycleGoesOneWay := by
  unfold Obligations.LifeCycleGoesOneWay
  intro s t e
  have hmono := (step_keeps e).sec
  exact ⟨hmono.exuvia, hmono.egg, hmono.cnt⟩

end Sys2Proof.Machine
end

section
/-! SUPPORT. Faults, leases, alarms and the event counters (R415, Table FLT-6). -/

namespace Sys2Proof.Machine

open Csr

variable {s : State}

/-- Settles O50: each event acts while the main islands are awake; the command of a self-test and of a snapshot time are CSR writes. -/
theorem faultCommandsComplete : Obligations.FaultCommandsComplete := by
  unfold Obligations.FaultCommandsComplete
  intro s
  refine ⟨fun h => ?_, fun h => ?_⟩
  · and_intros <;> intros <;> exact State.done_main h rfl
  · and_intros <;> intros <;> exact State.done_wr h rfl

/-- The gates of Table FLT-6: 1 passes in RUN, 2 while the trigger engine runs, the others always. -/
theorem State.cntGate_iff (i : Nat) :
    s.cntGate i = true ↔ (s.f (CNT_CFG i) 9 8 = 1 → s.mode = .run) ∧ (s.f (CNT_CFG i) 9 8 = 2 → s.b TRG_STAT 29 = true) := by
  unfold State.cntGate
  split
  next h => simp [h]
  next h => simp [h]
  next h1 h2 => exact iff_of_true rfl ⟨fun h => absurd h h1, fun h => absurd h h2⟩

/-- A counter after `n` events of a source. -/
theorem State.bump_flt_cnt (src n : Nat) (i : Fin 32) :
    (s.bump src n).flt.cnt[i] =
      if s.b (CNT_CFG i) 31 && s.f (CNT_CFG i) 7 0 == src && s.cntGate i then (s.flt.cnt[i] + n) % 2 ^ 48 else s.flt.cnt[i] := by
  simp only [State.bump, Fin.getElem_fin, Vector.getElem_mapIdx]

/-- Settles O59: each counter is judged by its own configuration, and nothing but the counters is touched. -/
theorem eventCountersCount : Obligations.EventCountersCount := by
  unfold Obligations.EventCountersCount
  intro s src n i on
  have hon : (s.b (CNT_CFG i) 31 && s.f (CNT_CFG i) 7 0 == src && s.cntGate i) = true ↔ on := by
    simp only [Bool.and_eq_true, beq_iff_eq, State.cntGate_iff, and_assoc, on]
  have hcnt := s.bump_flt_cnt src n i
  exact ⟨fun h => hcnt.trans (if_pos (hon.mpr h)), fun h => hcnt.trans (if_neg (mt hon.mp h)), rfl⟩

end Sys2Proof.Machine
end

section
/-! SUPPORT. Events while their part of the module does not run (R345, R447, R453, R455, Table CLK-2): each only lets its time pass. -/

namespace Sys2Proof.Machine

variable {s : State}

/-- An event of the main islands, or of one of them, while they are not awake. -/
theorem State.done_main_asleep (h : s.awake = false) {dt : Nat} {f : State → State} : s.done (s.main dt f) = .next (s.elapse dt) := by
  rw [State.main_asleep h, State.done_elapse]

/-- An event of an island on the SAFE clock, or whose clock is stopped. -/
theorem State.done_isl_stopped {i : Nat} (hi : s.islandIdle i = true) {dt : Nat} {f : State → State} : s.done (s.isl i dt f) = .next (s.elapse dt) := by
  rw [State.isl_stopped hi, State.done_elapse]

/-- An event of the clock tree held in reset, or in the HOLD of a clock fault. -/
theorem State.done_clocks_stopped (h : s.pwr.held = true ∨ s.safeOnly = true) {dt : Nat} {f : State → State} :
    s.done (s.clocks dt f) = .next (s.elapse dt) := by
  rw [State.clocks_stopped h, State.done_elapse]

/-- Settles O54: each event acts by the shared form of its part of the module, the main islands, the clock tree or the named island. -/
theorem waitingIslands : Obligations.WaitingIslands := by
  unfold Obligations.WaitingIslands
  intro s dt waits
  refine ⟨fun h => ?_, fun h => ?_, fun hi => ?_, fun hi => ?_, fun hi => ?_, fun hi => ?_, fun hi => ?_, fun hi => ?_⟩
  · and_intros <;> intros <;> exact State.done_main_asleep h
  · and_intros <;> intros <;> exact State.done_clocks_stopped h
  all_goals and_intros <;> intros <;> exact State.done_isl_stopped hi

end Sys2Proof.Machine
end

section
/-! SUPPORT. The service SPI port (R471 to R473, R482): its operations, and the words that MEMWR leaves in memory. -/

namespace Sys2Proof.Machine

variable {s : State}

/-- Settles O52: the port answers in every module out of reset; the lock of the debug access is a CSR write of the cores. -/
theorem servicePortComplete : Obligations.ServicePortComplete := by
  unfold Obligations.ServicePortComplete
  intro s
  refine ⟨fun h => ?_, fun h _ => State.done_wr h rfl⟩
  and_intros <;> intros <;> exact State.done_run h rfl

/-- An operation whose CHK verifies and whose LEN and ADDR are allowed is carried out outside COCOON. -/
theorem State.spiOp_served {op : Nat} {f : SpiFrame} {form : Bool} (hgood : f.good op = true) (hform : form = true) (hm : s.mode ≠ .cocoon)
    (asleep : Bool) (run : State → State) : s.spiOp op f form asleep run = run s := by
  simp [State.spiOp, hgood, hform, hm]

theorem State.spiMemwr_inside {len a : Nat} (hlo : 0xFF0000 ≤ a) (hhi : a + 8 * len ≤ 0xFFF000) (ws : List Nat) :
    s.spiMemwr len a ws = (s.putWords a ws).spiReply 0 := if_neg (by omega)

theorem State.spiMemwr_outside {len a : Nat} (h : a < 0xFF0000 ∨ 0xFFF000 < a + 8 * len) (ws : List Nat) :
    s.spiMemwr len a ws = s.spiReply 2 := if_pos h

/-- Whatever MEMWR answers, it leaves the registers, the cores and every byte outside its span. -/
theorem State.spiMemwr_frame (a : Nat) (ws : List Nat) :
    (∀ y, y < a ∨ a + 8 * ws.length ≤ y → (s.spiMemwr ws.length a ws).byte y = s.byte y) ∧ (s.spiMemwr ws.length a ws).csr = s.csr ∧
      (s.spiMemwr ws.length a ws).core = s.core := by
  unfold State.spiMemwr
  split
  · exact ⟨fun _ _ => rfl, rfl, rfl⟩
  · exact ⟨fun _ hy => Memory.read_writeWords_ne s.mem hy, rfl, rfl⟩

/-- A well-formed MEMWR is carried out once its time has passed. -/
theorem exec_memwr_served {dt addr chk : Nat} {ws : List Nat} (hfree : s.pwr.held = false) (hm : s.mode ≠ .cocoon)
    (hgood : ({ len := ws.length, addr := addr, payload := ws.flatMap (bytesOf 8), chk := chk } : SpiFrame).good 4 = true)
    (h1 : 1 ≤ ws.length) (h512 : ws.length ≤ 512) (ha : addr % 8 = 0) :
    exec (.memwr dt ws.length addr ws chk) s = .next { (s.elapse dt).spiMemwr ws.length addr ws with pending := s.pending } :=
  State.done_run hfree (State.spiOp_served hgood (by simp [h1, h512, ha]) (by simpa using hm) ..)

/-- Settles O60: MEMWR writes its words in the host area, and its answer is the only other change besides the time. -/
theorem servicePortMemoryWrite : Obligations.ServicePortMemoryWrite := by
  unfold Obligations.ServicePortMemoryWrite
  intro s dt len addr chk ws hs hfree hm hgood h1 h512 hlen ha
  subst hlen
  obtain ⟨hbytes, hcsr, hcore⟩ := State.spiMemwr_frame (s := s.elapse dt) addr ws
  refine ⟨_, exec_memwr_served hfree hm hgood h1 h512 ha, fun hlo hhi => ?_, fun hout => ?_, fun y hy => ?_, fun y hy => ?_, ?_⟩
  · rw [State.spiMemwr_inside hlo hhi]
    have hwf : Memory.wf (s.elapse dt).mem = true := by simpa using hs.mem.mem
    exact ⟨rfl, Memory.readN_writeWords hwf addr ws⟩
  · rw [State.spiMemwr_outside hout]
    exact ⟨rfl, s.elapse_mem dt⟩
  · exact (hbytes y hy).trans (congrArg (Memory.read · y) (s.elapse_mem dt))
  · exact (State.csrRaw_congr hcsr y).trans (State.csrRaw_elapse dt hy)
  · exact hcore.trans (s.elapse_core dt)

end Sys2Proof.Machine
end
